-- ==== Sys2Proof/Word.lean ====
section
/-! DEFINITION. The plain words and names the model is written in: bytes, register words, the numbers that name
dies, cores, harts, stacks, clusters, homes and ports (R11 to R14, R352), and sparse maps. -/

namespace Sys2Proof

/-- One byte. -/
abbrev Byte := BitVec 8
/-- A 32-bit register word. -/
abbrev Word := BitVec 32
/-- A 64-bit register word. -/
abbrev DWord := BitVec 64

/-- Die ID 0-99 (Table 0-3). -/
abbrev DieId := Fin 100
/-- Global core ID (R12). -/
abbrev CoreId := Fin 640
/-- Hart number (R13). -/
abbrev HartId := Fin 256
/-- Stack number (R21). -/
abbrev StackId := Fin 36
/-- CPU cluster (R69). -/
abbrev ClusterId := Fin 64
/-- Partition, equal to the function number (R57, R426). -/
abbrev PartId := Fin 8
/-- Home agent h, in die 36 + h (R353). -/
abbrev HomeId := Fin 48
/-- Group index within a core: quarter + 4 x slot (R205). -/
abbrev GroupId := Fin 128
/-- Jexesk Link port (R407). -/
abbrev JxlPort := Fin 2
/-- Fabric port (R445). -/
abbrev FabPort := Fin 64
/-- Collective queue (R462). -/
abbrev ColQueue := Fin 64

/-- A sparse map from numbers to values: the listed entries, every other key reading as a default the reader names. -/
structure Map (α : Type) where
  cells : List (Nat × α)
deriving DecidableEq, Repr

/-- A memory: each listed address and its byte (Host.Cell); an unlisted address reads zero (log 4). -/
abbrev Memory := Map Byte

end Sys2Proof
end

