-- ==== Sys2Proof/Syntax.lean ====
section
/-! DEFINITION. The commands of the block, one constructor for each row of the table of operations and events, and the
operands they carry. What the table calls an event of the environment (a verdict of a CRC or of a training check, a measured
temperature or voltage, bytes read from outside the package) is an operand of its command. -/

namespace Sys2Proof

/-- One Hallway port: die and port index p = plane x 4 + direction (R41). -/
structure HalPort where
  die : DieId
  p   : Fin 8
deriving DecidableEq, Repr

/-- The six virtual channels of the Hallway (R26). -/
inductive HalVc where
  | request | snoop | response | data | bulk | backStair
deriving DecidableEq, Repr

/-- A Hallway packet (R26 to R28): its injection sequence is counted by its source die for its destination die; `agent` is the agent that sent
it, to which an error about it returns (R31, R36). -/
structure Packet where
  src     : DieId
  dst     : DieId
  seq     : BitVec 24
  vc      : HalVc
  agent   : Nat
  payload : List Byte
deriving DecidableEq, Repr

/-- A unit whose rate changes on the way to SL4 (R95). -/
inductive RateUnit where
  | annex (c : Fin 384) | jxl (port : JxlPort) | fabric (port : FabPort)
deriving DecidableEq, Repr

/-- A Pantry granule in which a read of this command finds an error (R284, R285). -/
structure EccHit where
  granule       : Fin 786432
  uncorrectable : Bool
deriving DecidableEq, Repr

/-- What a channel finds in a line it reads: nothing, an error that the on-die ECC of an Annex core die corrected and reports, an error that
the end-to-end or stored code corrects, or one it cannot correct (R334, R335, R337). -/
inductive LineEcc where
  | clean | onDie | corrected | uncorrectable
deriving DecidableEq, Repr

/-- One transfer between a channel and its device: what the read finds and how often the link retries it (R333, R334). -/
structure Transfer where
  ecc     : LineEcc
  retries : Nat
deriving DecidableEq, Repr

/-- What a training or a retrain of a channel finds (R338): how many connections fail, and the transfers of the requests held meanwhile, in
arrival order (R339). -/
structure Training where
  failed   : Nat
  verdicts : List Transfer
deriving DecidableEq, Repr

/-- The three units that start tile instructions (Table 4-6). -/
inductive TileUnit where
  | stream | array | vector
deriving DecidableEq, Repr

/-- The agent of a core whose access is translated (Table 13-7, AGENT and UNIT). -/
inductive XlAgent where
  | coreFetch | coreData | groupFetch (g : GroupId) | groupData (g : GroupId) | stream (slot : Fin 16)
deriving DecidableEq, Repr

/-- The kind of a translated access (Table 13-7, ACCESS). -/
inductive XlAccess where
  | read | write | execute | atomic
deriving DecidableEq, Repr

/-- A memory channel: channel c of the Attic of a stack, or a global Annex channel (R317, R321). -/
inductive Chan where
  | attic (stack : StackId) (c : Fin 16) | annex (c : Fin 384)
deriving DecidableEq, Repr

/-- A request waiting at a channel in HOLD (R339). -/
structure ChanReq where
  agent : Nat
  write : Bool
  line  : Nat
  mask  : BitVec 128
  data  : List Byte
  poison : Bool := false
deriving DecidableEq, Repr

/-- A request sent again after "retry" (R339), with its transfer. -/
structure Resend where
  req  : ChanReq
  link : Transfer
deriving DecidableEq, Repr

/-- The MOESI states (R343). -/
inductive Moesi where
  | I | S | E | M | O
deriving DecidableEq, Repr

/-- A coherence message (R356, Table 12-4): the line's physical place, the requester, its transaction, and what the message
carries. A request's `starve` is its STARVE count (R361); `mask` names the bytes a masked write writes. `master` says that `agent` is a master agent ID
and no caching agent's ID, which are distinct (R352); `aux` is the AUX of an Atom to companion memory (Table 15-5). -/
structure CohMsg where
  line       : Nat
  agent      : Nat
  txn        : BitVec 10
  gseq       : BitVec 12
  data       : List Byte
  mask       : BitVec 128
  poison     : Bool
  grant      : Moesi
  final      : Bool
  superseded : Bool
  noData     : Bool
  starve     : Fin 16
  sender     : Nat
  master     : Bool := false
  aux        : Nat := 0
deriving DecidableEq, Repr

/-- The atomic operations, in the order of Tables 12-6 and 15-5. -/
inductive AtomOp where
  | swap | add | and | or | xor | minS | maxS | minU | maxU | fadd | cas
deriving DecidableEq, Repr

/-- A flit of the Jexesk Link or of the fabric: its header fields and its slots (Tables 15-2 and 16-2). -/
structure Flit where
  seq      : BitVec 12
  ack      : BitVec 12
  ftype    : Nat
  crdClass : Nat
  crdSlots : Nat
  slots    : List Byte
deriving DecidableEq, Repr

/-- A link that carries flits: a Jexesk Link port or a fabric port. -/
inductive LinkId where
  | jxl (port : JxlPort) | fabric (port : FabPort)
deriving DecidableEq, Repr

/-- A message of the Jexesk Link (Table 15-4). `mask` is the mask slot of LEN 3. -/
structure LinkMsg where
  opcode : Byte
  fn     : PartId
  tag    : BitVec 16
  status : Nat
  addr   : Nat
  aux    : BitVec 27
  len    : Fin 4
  mask   : BitVec 128
  data   : List Byte
  poison : Bool
deriving DecidableEq, Repr

/-- A message of the fabric (Table 16-5). -/
structure FabMsg where
  opcode : Byte
  epoch  : Bool
  ttl    : Nat
  dst    : Nat
  src    : Nat
  status : Nat
  poison : Bool
  cls    : Bool
  tag    : BitVec 16
  addr   : Nat
  aux    : BitVec 22
  mask   : BitVec 128
  data   : List Byte
deriving DecidableEq, Repr

/-- The descriptor fields that CReady carries and every rank must share (R465). -/
structure ColFields where
  opcode : Nat
  red    : Nat
  ifmt   : Nat
  afmt   : Nat
  nodes  : Nat
  collId : Word
  count  : DWord
  group  : List Nat
deriving DecidableEq, Repr

/-- The kinds of unit a record names (Table 17-4, UNIT_KIND). -/
inductive UnitKind where
  | none | lane | bundle | port | channel | core | hart | cacheAgent | die
deriving DecidableEq, Repr

/-- A detected fault as its unit reports it to the leaf (R475, Table 17-4). `waited` says that it was detected while an
earlier one was being handled (R490). -/
structure FaultIn where
  die    : DieId
  source : Byte
  unit   : Nat
  kind   : UnitKind
  index  : Nat
  addr   : DWord
  access : Nat
  detail : List Byte
  waited : Bool
deriving DecidableEq, Repr

/-- The faults of one die detected in one cycle (R491). -/
structure CycleFaults where
  first : FaultIn
  same  : List FaultIn
deriving DecidableEq, Repr

/-- What a FLP_DELTA gets from outside: the bytes of an image in companion memory, and whether the delta only begins, to end with a
LONG_OPERATION_DONE (log 34). -/
structure DeltaIn where
  ext    : List Byte
  begins : Bool
deriving DecidableEq, Repr

/-- The transports of management and attestation messages: the two I3C buses and the management queue (R534, R541). -/
inductive Transport where
  | bus0 | bus1 | queue
deriving DecidableEq, Repr

/-- A Strelnen management request without its CODE, which the command names (R535). -/
structure MgtReq where
  transport : Transport
  tag       : BitVec 16
  offset    : Nat
  payload   : List Byte
deriving DecidableEq, Repr

/-- An island with a droop detector (R520). -/
inductive DroopIsland where
  | core (c : CoreId) | cluster (n : ClusterId)
deriving DecidableEq, Repr

/-- The commands: one constructor for each row of the table. -/
inductive Instr where
  /-- CSR_WRITE (R6). -/
  | csrWrite (agent : Nat) (addr size : Nat) (value : DWord)
  /-- CSR_ACCESS_ERROR (R9). -/
  | csrAccessError (agent : Nat) (addr size : Nat)
  /-- HALLWAY_PACKET_RECEIVE (R28). -/
  | hallwayPacketReceive (port : HalPort) (pkt : Packet) (crcOk : Bool)
  /-- HALLWAY_REPLAY_REQUEST (R28). -/
  | hallwayReplayRequest (port : HalPort)
  /-- HALLWAY_PORT_TRAIN (R32). -/
  | hallwayPortTrain (port : HalPort) (passed : BitVec 66)
  /-- CHECK_WINDOW (R34). -/
  | checkWindow (port : HalPort) (errors : List (Nat × Nat))
  /-- FORWARDED_CLOCK_LOSS (R36). -/
  | forwardedClockLoss (port : HalPort)
  /-- WIDTH_TOKEN (R38). -/
  | widthToken (port : HalPort) (token : BitVec 128)
  /-- NEGOTIATION_ROUND_TIMEOUT (R38). -/
  | negotiationRoundTimeout (port : HalPort)
  /-- NEGOTIATION_BACKOFF_EXPIRY (R38). -/
  | negotiationBackoffExpiry (port : HalPort)
  /-- PWR_OK_RISE (R99). -/
  | pwrOkRise
  /-- PWR_OK_FALL (R106). -/
  | pwrOkFall (low5us : Bool)
  /-- POWER_DOWN_COMMIT_DONE (R106). -/
  | powerDownCommitDone
  /-- RESET_N_FALL (R107). -/
  | resetNFall (low1us : Bool)
  /-- RESET_N_RISE (R107). -/
  | resetNRise
  /-- JXL_RESET_N_FALL (R108). -/
  | jxlResetNFall (low1us : Bool)
  /-- JXL_RESET_N_RISE (R108). -/
  | jxlResetNRise
  /-- REFCLK_LOSS (R519). -/
  | refclkLoss (lost10us : Bool)
  /-- BOOT_STAGE_VERIFY (R531). -/
  | bootStageVerify (stage : Fin 3) (peerAgreesA peerAgreesB : Bool) (stewardMisses : List DieId)
  /-- FLOORPLAN_LOAD (R80). -/
  | floorplanLoad (peerAgreesA peerAgreesB : Bool)
  /-- MGMT_DIE_ANSWER_TIMEOUT (R79). -/
  | mgmtDieAnswerTimeout (die95 : Bool)
  /-- SERVICE_LEVEL_ENTRY (R93). -/
  | serviceLevelEntry (level : Fin 5)
  /-- DIE_ONLINE (R96). -/
  | dieOnline (stack : StackId)
  /-- CORE_SELF_TEST_DONE (R98). -/
  | coreSelfTestDone (core : CoreId) (passed : Bool)
  /-- BRING_UP_DEADLINE (R89). -/
  | bringUpDeadline
  /-- RATE_CHANGE (R95). -/
  | rateChange (unit : RateUnit) (ok : Bool)
  /-- RESET_PRECONDITION_TIMEOUT (R102). -/
  | resetPreconditionTimeout (die : DieId)
  /-- PARTITION_RESET_DONE (R101). -/
  | partitionResetDone (part : PartId)
  /-- DIE_RESET_DONE (R102). -/
  | dieResetDone (die : DieId)
  /-- QUIESCE_DONE (R103). -/
  | quiesceDone (part : PartId)
  /-- QUIESCE_TIMEOUT (R103). -/
  | quiesceTimeout (part : PartId)
  /-- CONTROL_CORE_INSTRUCTION (R111). -/
  | controlCoreInstruction (core : CoreId) (word : Word) (ecc : List EccHit) (ext : List Byte)
  /-- T_WAIT (R126). -/
  | tWait (core : CoreId) (tk rs1 : Fin 32)
  /-- T_WAITALL (R114). -/
  | tWaitall (core : CoreId) (tk : Fin 32)
  /-- TOKEN_WAIT_RELEASE (R126). -/
  | tokenWaitRelease (core : CoreId)
  /-- T_TKDONE (R114). -/
  | tTkdone (core : CoreId) (rd tk : Fin 32)
  /-- T_TKCLR (R114). -/
  | tTkclr (core : CoreId) (tk : Fin 32)
  /-- T_GRANT (R128). -/
  | tGrant (core : CoreId) (gr : Fin 4) (rs1 : Fin 32)
  /-- T_GRGET (R114). -/
  | tGrget (core : CoreId) (rd : Fin 32) (gr : Fin 4)
  /-- T_INVAL (R114). -/
  | tInval (core : CoreId)
  /-- T_END (R136). -/
  | tEnd (core : CoreId)
  /-- T_END_COMPLETE (R136). -/
  | tEndComplete (core : CoreId)
  /-- CVT_H2D (R382). -/
  | cvtH2d (core : CoreId) (rd rs1 : Fin 32) (window : Fin 4)
  /-- CVT_D2H (R382). -/
  | cvtD2h (core : CoreId) (rd rs1 : Fin 32) (window : Fin 4)
  /-- TILE_ISSUE (R117). -/
  | tileIssue (core : CoreId) (word : DWord)
  /-- EXECUTE_QUEUE_PASS (R120). -/
  | executeQueuePass (core : CoreId)
  /-- GRANT_STALL_TIMEOUT (R129). -/
  | grantStallTimeout (core : CoreId) (unit : TileUnit)
  /-- T_MMA (R140). -/
  | tMma (core : CoreId) (ecc : List EccHit) (upset second : List (Nat × Word))
  /-- T_SLOAD (R144). -/
  | tSload (core : CoreId) (ecc : List EccHit)
  /-- T_SWAP (R146). -/
  | tSwap (core : CoreId)
  /-- T_EWISE (R171). -/
  | tEwise (core : CoreId) (upset : List (Nat × Word))
  /-- T_STEST (R174). -/
  | tStest (core : CoreId) (match1 match2 : Bool)
  /-- ARRAY_COMPLETION (R148). -/
  | arrayCompletion (core : CoreId)
  /-- ARRAY_SELF_TEST_DUE (R172). -/
  | arraySelfTestDue (core : CoreId) (match1 match2 : Bool)
  /-- T_VCHAIN (R184). -/
  | tVchain (core : CoreId) (ecc : List EccHit)
  /-- T_RED (R196). -/
  | tRed (core : CoreId) (ecc : List EccHit)
  /-- T_LD (R197). -/
  | tLd (core : CoreId) (ecc : List EccHit)
  /-- T_ST (R197). -/
  | tSt (core : CoreId)
  /-- CVT_T (R248). -/
  | cvtT (core : CoreId) (ecc : List EccHit)
  /-- T_CUPD (R261). -/
  | tCupd (core : CoreId) (ecc : List EccHit)
  /-- VECTOR_COMPLETION (R182). -/
  | vectorCompletion (core : CoreId)
  /-- NAN_TRAP (R256). -/
  | nanTrap (core : CoreId)
  /-- WATCH_RECOMPUTE (R273). -/
  | watchRecompute (core : CoreId)
  /-- WATCH_RECOMPUTE_DONE (R274). -/
  | watchRecomputeDone (core : CoreId)
  /-- WATCH_REPLAY (R275). -/
  | watchReplay (core : CoreId)
  /-- WATCH_REPLAY_DONE (R275). -/
  | watchReplayDone (core : CoreId) (replayed : List (Nat × Word))
  /-- WATCH_DIS_CLEAR (R279). -/
  | watchDisClear (core : CoreId)
  /-- KERNEL_LAUNCH (R133). -/
  | kernelLaunch (part : PartId) (queue : Nat) (ext : List Byte)
  /-- KERNEL_START (R135). -/
  | kernelStart (launch : Nat)
  /-- KERNEL_TIMEOUT (R137). -/
  | kernelTimeout (launch : Nat)
  /-- GROUP_INT_OP (R217). -/
  | groupIntOp (core : CoreId) (group : GroupId) (word : DWord)
  /-- GROUP_FP_OP (R217). -/
  | groupFpOp (core : CoreId) (group : GroupId) (word : DWord)
  /-- SETP (R217). -/
  | setp (core : CoreId) (group : GroupId) (word : DWord)
  /-- POP (R217). -/
  | pop (core : CoreId) (group : GroupId) (word : DWord)
  /-- CVT (R244). -/
  | cvt (core : CoreId) (group : GroupId) (word : DWord)
  /-- LD (R229). -/
  | ld (core : CoreId) (group : GroupId) (word : DWord) (ecc : List EccHit) (ext : List Byte)
  /-- ST (R229). -/
  | st (core : CoreId) (group : GroupId) (word : DWord)
  /-- AMO (R231). -/
  | amo (core : CoreId) (group : GroupId) (word : DWord) (ecc : List EccHit) (ext : List Byte)
  /-- G_FENCE (R233). -/
  | gFence (core : CoreId) (group : GroupId) (word : DWord)
  /-- G_BRA (R219). -/
  | gBra (core : CoreId) (group : GroupId) (word : DWord)
  /-- G_YIELD (R220). -/
  | gYield (core : CoreId) (group : GroupId) (word : DWord)
  /-- G_CSET (R221). -/
  | gCset (core : CoreId) (group : GroupId) (word : DWord)
  /-- G_CWAIT (R221). -/
  | gCwait (core : CoreId) (group : GroupId) (word : DWord)
  /-- G_EXIT (R222). -/
  | gExit (core : CoreId) (group : GroupId) (word : DWord)
  /-- G_BAR (R228). -/
  | gBar (core : CoreId) (group : GroupId) (word : DWord)
  /-- G_BAR_RELEASE (R228). -/
  | gBarRelease (core : CoreId)
  /-- G_TKWAIT (R217). -/
  | gTkwait (core : CoreId) (group : GroupId) (word : DWord)
  /-- G_TKWAIT_RELEASE (R235). -/
  | gTkwaitRelease (core : CoreId) (group : GroupId)
  /-- G_TKPOST (R235). -/
  | gTkpost (core : CoreId) (group : GroupId) (word : DWord)
  /-- G_VOTE (R226). -/
  | gVote (core : CoreId) (group : GroupId) (word : DWord)
  /-- G_SHFL (R226). -/
  | gShfl (core : CoreId) (group : GroupId) (word : DWord)
  /-- G_COMPACT (R226). -/
  | gCompact (core : CoreId) (group : GroupId) (word : DWord)
  /-- G_EXPAND (R226). -/
  | gExpand (core : CoreId) (group : GroupId) (word : DWord)
  /-- G_MMA (R227). -/
  | gMma (core : CoreId) (group : GroupId) (word : DWord)
  /-- G_TLD (R235). -/
  | gTld (core : CoreId) (group : GroupId) (word : DWord)
  /-- G_TST (R235). -/
  | gTst (core : CoreId) (group : GroupId) (word : DWord)
  /-- GROUP_STARVATION_PROMOTION (R209). -/
  | groupStarvationPromotion (core : CoreId) (group : GroupId)
  /-- PANTRY_SCRUB_INTERVAL (R286). -/
  | pantryScrubInterval (core : CoreId) (busy : List (Fin 32)) (ecc : List EccHit)
  /-- PAN_ECC_FIRST_CLEAR (R316). -/
  | panEccFirstClear (core : CoreId)
  /-- S_COPY (R291). -/
  | sCopy (core : CoreId) (ecc : List EccHit) (ext : List Byte)
  /-- S_ROUTE (R309). -/
  | sRoute (core : CoreId) (ecc : List EccHit) (ext : List Byte)
  /-- S_COMBINE (R315). -/
  | sCombine (core : CoreId) (ecc : List EccHit) (ext : List Byte)
  /-- CHUNK_COMPLETE (R300). -/
  | chunkComplete (core : CoreId) (slot : Fin 16)
  /-- PAGE_WALK (R384). -/
  | pageWalk (core : CoreId) (agent : XlAgent) (va : DWord) (access : XlAccess) (raced : Bool)
  /-- CHANNEL_TRAIN (R338). -/
  | channelTrain (chan : Chan) (training : Training) (clockFailed orgWrong : Bool)
  /-- CHANNEL_READ (R335). -/
  | channelRead (chan : Chan) (line : Nat) (agent : Nat) (ecc : LineEcc) (retries : Nat)
  /-- CHANNEL_WRITE (R333). -/
  | channelWrite (chan : Chan) (line : Nat) (agent : Nat) (mask : BitVec 128) (data : List Byte) (poison : Bool) (link : Transfer)
  /-- REFRESH_DUE (R330). -/
  | refreshDue (chan : Chan)
  /-- ATTIC_TEMP_POLL (R330). -/
  | atticTempPoll (stack : StackId) (readings : List Nat)
  /-- ANNEX_TEMP_POLL (R330). -/
  | annexTempPoll (stack : Fin 12) (readings : List Nat)
  /-- CHANNEL_SCRUB_TICK (R336). -/
  | channelScrubTick (chan : Chan) (link : Transfer)
  /-- DRIFT_TRACKING_WINDOW (R338). -/
  | driftTrackingWindow (chan : Chan)
  /-- CHANNEL_RETRAIN_DONE (R339). -/
  | channelRetrainDone (chan : Chan) (training : Training) (clockFailed : Bool)
  /-- HOLD_RETRY_RESEND (R339). -/
  | holdRetryResend (chan : Chan) (resend : Resend)
  /-- RDS (R358). -/
  | rds (m : CohMsg)
  /-- RDX (R358). -/
  | rdx (m : CohMsg)
  /-- UPG (R358). -/
  | upg (m : CohMsg)
  /-- RDNA (R358). -/
  | rdna (m : CohMsg)
  /-- WRF (R358). -/
  | wrf (m : CohMsg)
  /-- WRP (R358). -/
  | wrp (m : CohMsg)
  /-- ATOM (R366). -/
  | atom (m : CohMsg) (op : AtomOp) (width off : Nat) (operand compare : BitVec 128)
  /-- EVC (R358). -/
  | evc (m : CohMsg)
  /-- WB (R362). -/
  | wb (m : CohMsg)
  /-- CLEAN (R362). -/
  | clean (m : CohMsg)
  /-- SNP_FWD_S (R362). -/
  | snpFwdS (m : CohMsg) (target : Nat)
  /-- SNP_FWD_X (R362). -/
  | snpFwdX (m : CohMsg) (target : Nat)
  /-- SNP_FWD_NA (R362). -/
  | snpFwdNa (m : CohMsg) (target : Nat)
  /-- SNP_INV (R357). -/
  | snpInv (m : CohMsg) (target : Nat)
  /-- SNP_RECALL (R357). -/
  | snpRecall (m : CohMsg) (target : Nat)
  /-- DATA (R359). -/
  | data (m : CohMsg)
  /-- RECALL_DATA (R360). -/
  | recallData (m : CohMsg)
  /-- CMP (R359). -/
  | cmp (m : CohMsg)
  /-- CMP_ACK (R360). -/
  | cmpAck (m : CohMsg)
  /-- FWD_ACK (R362). -/
  | fwdAck (m : CohMsg)
  /-- INV_ACK (R359). -/
  | invAck (m : CohMsg)
  /-- WB_ACK (R362). -/
  | wbAck (m : CohMsg)
  /-- RETRY (R361). -/
  | retry (m : CohMsg)
  /-- RETRY_RESEND (R361). -/
  | retryResend (m : CohMsg)
  /-- WAITER_RESERVATION_EXPIRY (R361). -/
  | waiterReservationExpiry (line : Nat)
  /-- BASE_DIE_CACHE_READ (R347). -/
  | baseDieCacheRead (stack : StackId) (m : CohMsg) (noAlloc : Bool)
  /-- DIRTY_AGE_TICK (R350). -/
  | dirtyAgeTick (cluster : ClusterId)
  /-- MSAU_IDLE_RELEASE (R367). -/
  | msauIdleRelease (line : Nat)
  /-- SNOOP_TIMEOUT (R369). -/
  | snoopTimeout (line : Nat) (agent : Nat)
  /-- HART_INSTRUCTION (R392). -/
  | hartInstruction (hart : HartId) (word : Word) (ext : List Byte)
  /-- LR (R397). -/
  | lr (hart : HartId) (word : Word)
  /-- SC (R397). -/
  | sc (hart : HartId) (word : Word)
  /-- LR_SNOOP_DELAY_EXPIRY (R397). -/
  | lrSnoopDelayExpiry (hart : HartId)
  /-- CBO_CLEAN (R396). -/
  | cboClean (hart : HartId) (rs1 : Fin 32)
  /-- CBO_FLUSH (R396). -/
  | cboFlush (hart : HartId) (rs1 : Fin 32)
  /-- CBO_INVAL (R396). -/
  | cboInval (hart : HartId) (rs1 : Fin 32)
  /-- CBO_ZERO (R396). -/
  | cboZero (hart : HartId) (rs1 : Fin 32)
  /-- WFI (R404). -/
  | wfi (hart : HartId)
  /-- C2_ENTRY_TIMER (R404). -/
  | c2EntryTimer (hart : HartId)
  /-- C3_ENTRY_TIMER (R404). -/
  | c3EntryTimer (cluster : ClusterId)
  /-- HART_WAKE (R404). -/
  | hartWake (hart : HartId)
  /-- INTERRUPT_FILE_WRITE (R401). -/
  | interruptFileWrite (hart : HartId) (file : Fin 9) (identity : Word)
  /-- LINK_TRAIN (R408). -/
  | linkTrain (port : JxlPort) (failedLanes : BitVec 16)
  /-- FLIT_RECEIVE (R411). -/
  | flitReceive (port : JxlPort) (flit : Flit) (crc : DWord) (fecCorrected fecUncorrected : Nat)
  /-- FLIT_ACK_DUE (R412). -/
  | flitAckDue (link : LinkId)
  /-- REPLAY_REQUEST_FLIT (R412). -/
  | replayRequestFlit (link : LinkId) (ack : BitVec 12)
  /-- RETRAIN_REQUEST_FLIT (R413). -/
  | retrainRequestFlit (link : LinkId)
  /-- LINK_RETRAIN_DONE (R413). -/
  | linkRetrainDone (port : JxlPort) (ok : Bool)
  /-- RETRAIN_LOST_TIMEOUT (R413). -/
  | retrainLostTimeout (port : JxlPort)
  /-- COMPANION_SNOOP_TIMEOUT (R421). -/
  | companionSnoopTimeout (port : JxlPort)
  /-- NC_RD (R418). -/
  | ncRd (port : JxlPort) (m : LinkMsg)
  /-- NC_WR (R418). -/
  | ncWr (port : JxlPort) (m : LinkMsg)
  /-- NC_CMP (R417). -/
  | ncCmp (port : JxlPort) (m : LinkMsg)
  /-- BIAS_FLIP (R424). -/
  | biasFlip (port : JxlPort) (m : LinkMsg)
  /-- BIAS_FLIP_DONE (R424). -/
  | biasFlipDone (flip : Nat)
  /-- BIAS_DONE (R417). -/
  | biasDone (port : JxlPort) (m : LinkMsg)
  /-- MSI (R417). -/
  | msi (part : PartId) (vector : Nat)
  /-- TIME_EXCHANGE (R439). -/
  | timeExchange (port : JxlPort)
  /-- TS_RSP (R439). -/
  | tsRsp (port : JxlPort) (t1 t2 t3 : DWord)
  /-- FN_ENABLE (R427). -/
  | fnEnable (part : PartId) (enable : Bool)
  /-- FN_RESET (R426). -/
  | fnReset (part : PartId)
  /-- SQ_DOORBELL (R431). -/
  | sqDoorbell (part : PartId) (queue : Nat) (tail : Word) (ext : List Byte)
  /-- CQ_DOORBELL (R431). -/
  | cqDoorbell (part : PartId) (queue : Nat) (head : Word)
  /-- STAMP_REPOLL (R431). -/
  | stampRepoll (part : PartId) (queue : Nat) (ext : List Byte)
  /-- JXL_MSI_WRITE (R437). -/
  | jxlMsiWrite (part : PartId) (vector : Nat) (addr : DWord) (value : Word) (mask : Bool)
  /-- CQ_INTERRUPT_TIMER (R437). -/
  | cqInterruptTimer (part : PartId) (queue : Nat)
  /-- COMMAND_COMPLETION (R435). -/
  | commandCompletion (part : PartId) (queue : Nat) (cid : BitVec 16)
  /-- QUEUE_CREATE (R434). -/
  | queueCreate (part : PartId) (queue : Nat)
  /-- QUEUE_DELETE (R434). -/
  | queueDelete (part : PartId) (queue : Nat)
  /-- QUEUE_RESET (R434). -/
  | queueReset (part : PartId) (queue : Nat)
  /-- CQ_CREATE (R434). -/
  | cqCreate (part : PartId) (queue : Nat)
  /-- CQ_DELETE (R434). -/
  | cqDelete (part : PartId) (queue : Nat)
  /-- AS_BIND (R381). -/
  | asBind (part : PartId) (queue : Nat)
  /-- XL_INVAL (R385). -/
  | xlInval (part : PartId) (queue : Nat)
  /-- XL_RESOLVE (R388). -/
  | xlResolve (part : PartId) (queue : Nat)
  /-- BIAS_SET (R424). -/
  | biasSet (part : PartId) (queue : Nat)
  /-- HART_START (R403). -/
  | hartStart (part : PartId) (queue : Nat)
  /-- QUIESCE (R103). -/
  | quiesce (part : PartId) (queue : Nat)
  /-- RESUME (R103). -/
  | resume (part : PartId) (queue : Nat)
  /-- RESET_PARTITION (R101). -/
  | resetPartition (part : PartId) (queue : Nat)
  /-- RESET_CORE (R558). -/
  | resetCore (part : PartId) (queue : Nat)
  /-- STATUS_READ (R434). -/
  | statusRead (part : PartId) (queue : Nat)
  /-- RESET_WARM (R99). -/
  | resetWarm (part : PartId) (queue : Nat)
  /-- RESET_DIE (R102). -/
  | resetDie (part : PartId) (queue : Nat)
  /-- FLP_DELTA (R85). -/
  | flpDelta (part : PartId) (queue : Nat) (input : DeltaIn)
  /-- MGT_CMD (R434). -/
  | mgtCmd (part : PartId) (queue : Nat) (ext : List Byte)
  /-- WRITE_INLINE (R434). -/
  | writeInline (part : PartId) (queue : Nat)
  /-- NOP (R434). -/
  | nop (part : PartId) (queue : Nat)
  /-- FABRIC_PORT_TRAIN (R446). -/
  | fabricPortTrain (port : FabPort) (failedLanes : BitVec 8)
  /-- VERSION_TOKEN (R460). -/
  | versionToken (port : FabPort) (maxVer minVer : Nat) (node : BitVec 14)
  /-- FABRIC_FLIT_RECEIVE (R448). -/
  | fabricFlitReceive (port : FabPort) (flit : Flit) (crc : DWord) (fecUncorrected : Nat)
  /-- FABRIC_RETRAIN_DONE (R448). -/
  | fabricRetrainDone (port : FabPort) (ok : Bool)
  /-- NODE_DOWN (R451). -/
  | nodeDown (port : FabPort) (node : Nat)
  /-- NODE_UP (R451). -/
  | nodeUp (port : FabPort) (node : Nat) (version : Nat)
  /-- ROUTE_EPOCH (R451). -/
  | routeEpoch (port : FabPort) (node : Nat) (epoch : Bool)
  /-- FABRIC_FAULT_NOTICE (R451). -/
  | fabricFaultNotice (port : FabPort) (node : Nat) (body : List Byte)
  /-- RRD (R458). -/
  | rrd (port : FabPort) (m : FabMsg)
  /-- RWR (R458). -/
  | rwr (port : FabPort) (m : FabMsg)
  /-- RATOM (R459). -/
  | ratom (port : FabPort) (m : FabMsg)
  /-- RRSP (R458). -/
  | rrsp (port : FabPort) (m : FabMsg)
  /-- RACK (R458). -/
  | rack (port : FabPort) (m : FabMsg)
  /-- RNACK (R458). -/
  | rnack (port : FabPort) (m : FabMsg)
  /-- REMOTE_ACCESS_TIMEOUT (R458). -/
  | remoteAccessTimeout (tag : Nat)
  /-- ROUTE_COMMIT (R454). -/
  | routeCommit
  /-- COL_QUEUE_ARM (R462). -/
  | colQueueArm (queue : ColQueue) (arm : Bool)
  /-- COL_QUEUE_ABORT (R473). -/
  | colQueueAbort (queue : ColQueue)
  /-- COL_QUEUE_DOORBELL (R462). -/
  | colQueueDoorbell (queue : ColQueue)
  /-- COL_QUEUE_POLL (R462). -/
  | colQueuePoll (queue : ColQueue)
  /-- CREADY (R465). -/
  | cready (queue : ColQueue) (rank : Nat) (fields : ColFields) (version : Nat)
  /-- CDATA (R466). -/
  | cdata (queue : ColQueue) (rank : Nat) (chunk : Nat) (data : List Byte) (poison : List Nat)
  /-- CACK (R452). -/
  | cack (queue : ColQueue) (rank : Nat) (chunk : Nat)
  /-- DROW (R464). -/
  | drow (port : FabPort) (m : FabMsg)
  /-- DCLAIM (R464). -/
  | dclaim (port : FabPort) (m : FabMsg)
  /-- COLLECTIVE_PROGRESS_WRITE (R469). -/
  | collectiveProgressWrite (queue : ColQueue)
  /-- COLLECTIVE_END (R470). -/
  | collectiveEnd (queue : ColQueue)
  /-- COLLECTIVE_TIMEOUT (R473). -/
  | collectiveTimeout (queue : ColQueue)
  /-- COLLECTIVE_ABORT (R473). -/
  | collectiveAbort (queue : ColQueue) (state : Nat) (error errNode : Nat)
  /-- THERMAL_HOLD (R471). -/
  | thermalHold (queue : ColQueue) (node : Nat)
  /-- THERMAL_RELEASE (R471). -/
  | thermalRelease (queue : ColQueue) (node : Nat)
  /-- FAULT_DETECT (R475): the faults of a cycle (R491). -/
  | faultDetect (faults : CycleFaults)
  /-- FAULT_NOTICE (R482). -/
  | faultNotice (leaf : DieId)
  /-- MERGED_NOTICE_SEND (R477). -/
  | mergedNoticeSend (leaf : DieId)
  /-- ROOT_DIGEST_COMPARE (R476). -/
  | rootDigestCompare (storageIntact : Bool)
  /-- ROOT_FAILOVER (R476). -/
  | rootFailover
  /-- NOTICE_DELIVERY_TIMEOUT (R492). -/
  | noticeDeliveryTimeout (leaf : DieId)
  /-- DIE_HEARTBEAT_LOSS (R479). -/
  | dieHeartbeatLoss (die : DieId)
  /-- SAFE_STATE_COMMAND (R494). -/
  | safeStateCommand (die : DieId)
  /-- FC_LOG_FREE (R484). -/
  | fcLogFree (root95 : Bool) (n : Word)
  /-- FC_DROPS_CLEAR (R500). -/
  | fcDropsClear (root95 : Bool)
  /-- CAPTURE_SET_CLEAR (R485). -/
  | captureSetClear (die : DieId) (root : Bool) (set : Fin 3)
  /-- FC_PART_CPU_MSI_WRITE (R486). -/
  | fcPartCpuMsiWrite (root95 : Bool) (part : PartId) (addr : DWord) (value : Word) (mask : Bool)
  /-- DUMP_AREA_ERASE (R497). -/
  | dumpAreaErase
  /-- INPUT_SAMPLE (R502). -/
  | inputSample (centivolts centiamps : Nat)
  /-- FAST_THROTTLE_LIFT (R502). -/
  | fastThrottleLift
  /-- REGULATOR_OUT_OF_RANGE (R502). -/
  | regulatorOutOfRange (die : DieId)
  /-- BUDGET_RECOMPUTE (R503). -/
  | budgetRecompute (meanCentivolts : Nat)
  /-- PKG_LIMIT_WRITE (R503). -/
  | pkgLimitWrite (root95 : Bool) (limit : Word)
  /-- POWER_MEASURE (R504). -/
  | powerMeasure (die : DieId) (tokens highest100us : Nat) (limited : Bool)
  /-- POWER_EPOCH_START (R506). -/
  | powerEpochStart (die : DieId) (meanTokens : Nat)
  /-- TOKEN_GIVE_TIMER (R506). -/
  | tokenGiveTimer (die : DieId)
  /-- STATE (R506). -/
  | state (die partner : DieId) (budget want : Nat)
  /-- GIVE (R508). -/
  | give (die giver : DieId) (tokens generation : Nat) (returned : Bool)
  /-- CUT (R510). -/
  | cut (die : DieId) (generation factor : Nat)
  /-- DIE_TEMP_POLL (R513). -/
  | dieTempPoll (die : DieId) (readings : List Nat)
  /-- THROTTLE_RELEASE_STEP (R513). -/
  | throttleReleaseStep (die : DieId)
  /-- CORE_CLOCK_GATE (R517). -/
  | coreClockGate (core : CoreId)
  /-- MCTP_MESSAGE (R534). -/
  | mctpMessage (bus : Bool) (type : Byte) (payload : List Byte)
  /-- PLDM_SENSOR_READ (R539). -/
  | pldmSensorRead (bus : Bool) (sensor : Nat)
  /-- MGT_STATUS (R536). -/
  | mgtStatus (req : MgtReq)
  /-- MGT_TELEMETRY (R539). -/
  | mgtTelemetry (req : MgtReq)
  /-- MGT_FAULT_READ (R536). -/
  | mgtFaultRead (req : MgtReq)
  /-- MGT_FAULT_FREE (R536). -/
  | mgtFaultFree (req : MgtReq)
  /-- MGT_FLP_LOAD (R81). -/
  | mgtFlpLoad (req : MgtReq)
  /-- MGT_FLASH_READ (R536). -/
  | mgtFlashRead (req : MgtReq)
  /-- MGT_FLASH_ERASE (R527). -/
  | mgtFlashErase (req : MgtReq)
  /-- MGT_FLASH_WRITE (R527). -/
  | mgtFlashWrite (req : MgtReq)
  /-- MGT_RESET (R536). -/
  | mgtReset (req : MgtReq)
  /-- MGT_PKG_LIMIT (R536). -/
  | mgtPkgLimit (req : MgtReq)
  /-- MGT_RT_STAGE (R536). -/
  | mgtRtStage (req : MgtReq)
  /-- MGT_FENCE_ERASE (R536). -/
  | mgtFenceErase (req : MgtReq)
  /-- MGT_REPAIR_ERASE (R536). -/
  | mgtRepairErase (req : MgtReq)
  /-- SEC_ADVANCE (R533). -/
  | secAdvance (req : MgtReq)
  /-- SEC_DEBUG_CHALLENGE (R543). -/
  | secDebugChallenge (req : MgtReq)
  /-- SEC_DEBUG_UNLOCK (R543). -/
  | secDebugUnlock (req : MgtReq)
  /-- SEC_DEBUG_LOCK (R544). -/
  | secDebugLock (req : MgtReq)
  /-- DEBUG_UNLOCK_EXPIRY (R544). -/
  | debugUnlockExpiry
  /-- GET_VERSION (R541). -/
  | getVersion (transport : Transport)
  /-- GET_CAPABILITIES (R541). -/
  | getCapabilities (transport : Transport)
  /-- NEGOTIATE_ALGORITHMS (R541). -/
  | negotiateAlgorithms (transport : Transport) (rsa slhDsa : Bool)
  /-- GET_CERTIFICATE (R541). -/
  | getCertificate (transport : Transport) (slot : Nat) (offset length : Nat)
  /-- CHALLENGE (R541). -/
  | challenge (transport : Transport) (slot : Nat) (nonce : List Byte)
  /-- GET_MEASUREMENTS (R542). -/
  | getMeasurements (transport : Transport) (nonce : List Byte)
  /-- VIN_RISE (R554). -/
  | vinRise
  /-- SUPPLY_DROOP (R520). -/
  | supplyDroop (island : DroopIsland) (cycles : Nat)
  /-- CORE_RESET_DONE (R99). -/
  | coreResetDone (core : CoreId)
  /-- LONG_OPERATION_DONE (R537). -/
  | longOperationDone (tag : BitVec 16) (status : Nat)
deriving DecidableEq, Repr

end Sys2Proof
end

