-- ==== Sys2Proof/Decode.lean ====
section
/-! DEFINITION. The command a word spells by the table's bits. No row of the table gives bits: every command arrives as an
operation with its operands, so no word spells one. -/

namespace Sys2Proof

/-- The command that the first `nbits` bits of `w` spell: none, as no row gives bits. -/
def decodeTableWord (_nbits _w : Nat) : Option Instr := none

end Sys2Proof
end

