-- ==== Sys2Proof/Config.lean ====
section
/-! DEFINITION. What a part or an implementation fixes, and the values the spec leaves open. A function without a body has no
value a proof can see: a claim that holds, holds whatever the part does. -/

namespace Sys2Proof

/-- A free bit: applied to the state's counter of free values (log 2). -/
opaque Config.freeBit : Nat → Bool
/-- A free 32-bit word, applied to the counter (log 2). -/
opaque Config.freeWord : Nat → Word
/-- A free 64-bit word, applied to the counter (log 2). -/
opaque Config.freeDWord : Nat → DWord
/-- A free byte, applied to the counter (log 2). -/
opaque Config.freeByte : Nat → Byte
/-- A free number, applied to the counter and reduced to its range where it is used (log 2). -/
opaque Config.freeNat : Nat → Nat
/-- The alignment pattern of a block header, which the spec does not give (R409). -/
opaque Config.blockPattern : BitVec 24
/-- The data the companion holds of a Pool line that it owns, at an access that cannot wait for its recall (log 20): free. -/
opaque Config.companionLine : Nat → Nat → Nat

/-- What the fuses of a compute or CPU die say of the position disabled at manufacture; `Sys2Proof.Machine.disabledPositions` reads it as
one of the values R45 and R391 allow (log 5). -/
opaque Config.disabledPos : Nat → Word

/-- SHA-384 of a string of bytes (R74, R75): the standard function, whose values the model does not compute (log 6). -/
opaque Config.sha384 : List Byte → BitVec 384
/-- Whether an RSASSA-PSS signature verifies, from the modulus, the signature and the message (R73, R74; log 6). -/
opaque Config.rsaVerifies : List Byte → List Byte → List Byte → Bool
/-- Whether an SLH-DSA-SHA2-192s signature verifies, from the key, the signature and the message (R73, R74; log 6). -/
opaque Config.slhVerifies : List Byte → List Byte → List Byte → Bool
/-- The two signatures the device makes with its identity keys, of the bytes signed (R540; log 6). -/
opaque Config.sign : Bool → List Byte → List Byte
/-- A certificate chain derived from the measured firmware, by slot and the measurements (R540; log 6). -/
opaque Config.certificate : Nat → List Byte → List Byte

/-- How many failed lanes of an Annex channel the HBM4 standard's lane repair covers (R338): the standard's number, which the spec
does not state (log 13). -/
opaque Config.annexLaneRepair : Nat
/-- The set of its die's translation cache that an entry falls into, from the die, the page size's level, the run and the page number: the
device's choice (R383). -/
opaque Config.xlSet : Nat → Nat → Nat → Nat → Nat
/-- The threshold an Annex channel's core dies report for refresh management against row disturbance, less one, by channel (Table 11-5; log 13). -/
opaque Config.rowThreshold : Nat → Nat
/-- The digest of the ROM (R542, measurement 1), which the spec does not state (log 6). -/
opaque Config.romDigest : BitVec 384

/-- Whether the device takes a value as tiny before it is rounded, which IEEE 754 leaves open and the spec does not state (R247; log 14). -/
opaque Config.tinyBeforeRounding : Bool

/-- A candidate for the result of a function of Table 6-10 that promises a bound: the function (16 more for packed BF16), whether the work is
FP64, whether it is strict, and the operand's bits. It counts only where it lies within the bound (R201; log 8). -/
opaque Config.transcendental : Nat → Bool → Bool → Nat → Nat
/-- A candidate result where the spec states a bound only, from the counter of free values and the bits of the exact result rounded to
nearest; the model takes it where it meets the bound (log 9). -/
opaque Config.nearby : Nat → Nat → Nat

end Sys2Proof
end

