-- ==== Sys2Proof/Machine/Maps.lean ====
section
/-! DEFINITION. Sparse maps: reading a key, writing it so that the list stays in its canonical form (keys strictly rising, no
listed value equal to what an unlisted key reads as), and runs of bytes over them, least significant byte first (R4). -/

namespace Sys2Proof

/-- The value at key `k`, `d` where the key is not listed. -/
def Map.get {α : Type} (d : α) (m : Map α) (k : Nat) : α :=
  match m.cells.find? (fun c => c.1 == k) with
  | some c => c.2
  | none => d

/-- Lists `k` with `v` in a list sorted by key, in place of an earlier entry. -/
def insCell {α : Type} (k : Nat) (v : α) : List (Nat × α) → List (Nat × α)
  | [] => [(k, v)]
  | c :: cs => if k < c.1 then (k, v) :: c :: cs else if k = c.1 then (k, v) :: cs else c :: insCell k v cs

/-- The map without key `k`. -/
def Map.del {α : Type} (m : Map α) (k : Nat) : Map α := ⟨m.cells.filter (fun c => c.1 != k)⟩

/-- The map with `v` at key `k`; a value equal to the default `d` is not listed. -/
def Map.set {α : Type} [DecidableEq α] (d : α) (m : Map α) (k : Nat) (v : α) : Map α :=
  if v = d then m.del k else ⟨insCell k v m.cells⟩

/-- The canonical form: keys strictly rising, no listed value equal to the default. -/
abbrev Map.wf {α : Type} (d : α) (m : Map α) : Prop :=
  m.cells.Pairwise (fun a b => a.1 < b.1) ∧ ∀ c ∈ m.cells, c.2 ≠ d

/-- The map with each value of the list written from key `k` on. -/
def Map.setRun {α : Type} [DecidableEq α] (d : α) (m : Map α) (k : Nat) : List α → Map α
  | [] => m
  | v :: vs => Map.setRun d (m.set d k v) (k + 1) vs

/-- `n` values from key `k` on. -/
def Map.getRun {α : Type} (d : α) (m : Map α) (k : Nat) (n : Nat) : List α := (List.range n).map (fun i => m.get d (k + i))

/-- The map with every listed value changed by its key; values that become the default are no longer listed. -/
def Map.mapCells {α : Type} [DecidableEq α] (d : α) (m : Map α) (f : Nat → α → α) : Map α :=
  ⟨(m.cells.map (fun c => (c.1, f c.1 c.2))).filter (fun c => decide (c.2 ≠ d))⟩

/-- The map without the keys for which `p` holds. -/
def Map.drop {α : Type} (m : Map α) (p : Nat → Bool) : Map α := ⟨m.cells.filter (fun c => !p c.1)⟩

/-- The number a list of bytes spells, least significant first (R4). -/
def leNat : List Byte → Nat
  | [] => 0
  | b :: bs => b.toNat + 256 * leNat bs

/-- `n` bytes of a number, least significant first (R4). -/
def leBytes (n : Nat) (v : Nat) : List Byte :=
  match n with
  | 0 => []
  | k + 1 => BitVec.ofNat 8 v :: leBytes k (v / 256)

/-- A number of `n` bytes at offset `o` of a list of bytes; bytes beyond the end read zero. -/
def leAt (bs : List Byte) (o n : Nat) : Nat := leNat ((bs.drop o).take n)

/-- Field [hi:lo] of a number. -/
def bits (v hi lo : Nat) : Nat := v / 2 ^ lo % 2 ^ (hi - lo + 1)

/-- Bit `i` of a number. -/
def bitAt (v i : Nat) : Bool := v / 2 ^ i % 2 == 1

/-- Field [hi:lo] of a 64-bit word. -/
def fieldOf (w : DWord) (hi lo : Nat) : Nat := bits w.toNat hi lo

/-- A 64-bit word with field [hi:lo] replaced. -/
def putField (w : DWord) (hi lo v : Nat) : DWord :=
  let n := 2 ^ (hi - lo + 1)
  BitVec.ofNat 64 (w.toNat - bits w.toNat hi lo * 2 ^ lo + v % n * 2 ^ lo)

/-- 1 for true. -/
def b2n (b : Bool) : Nat := if b then 1 else 0

/-- Changes element `i` of a list. -/
def modAt {α : Type} (l : List α) (i : Nat) (f : α → α) : List α := l.modify i f

end Sys2Proof
end

