-- ==== Sys2Proof/Machine/State.lean ====
section
/-! DEFINITION. The state of the package: every register, queue, buffer, memory, mode and pin the spec gives it, as plain
data. Registers that software reads through the CSR window are held in `csr`, by their place in the window (die x 2^32 + offset),
unless another field already holds the same state; `Sys2Proof.Machine.csrRead` computes those views. Maps are sparse: an
unlisted key reads as the value its accessor names. -/

namespace Sys2Proof.Machine

/-! ## The configuration in force (chapter 02) -/

/-- A partition of section 0x02 (Table 2-4). -/
structure PartEntry where
  id    : Nat
  cores : BitVec 640
  harts : BitVec 256
deriving DecidableEq, Repr

/-- An interleave set of section 0x04 (Table 2-5); `members` in ascending order. -/
structure IntSet where
  setId       : Nat
  annex       : Bool
  granuleLog2 : Nat
  base        : Nat
  perMember   : Nat
  key         : DWord
  members     : List Nat
deriving DecidableEq, Repr

/-- A window of section 0x05 (Table 2-6). -/
structure Window where
  part    : Nat
  read    : Bool
  write   : Bool
  shared  : Bool
  noAlloc : Bool
  base    : Nat
  size    : Nat
deriving DecidableEq, Repr

/-- The fabric's route table (Table 16-6). -/
structure RouteTable where
  groups  : List DWord
  entries : List Word
deriving DecidableEq, Repr

/-- Section 0x07 (Table 2-7). -/
structure FabricCfg where
  nodeId     : Nat
  switched   : Bool
  portEnable : DWord
  portPart   : List Nat
  table      : RouteTable
deriving DecidableEq, Repr

/-- A port entry of section 0x08 (Table 2-8). -/
structure LinkPortCfg where
  enable  : Bool
  lanes16 : Bool
  rate224 : Bool
deriving DecidableEq, Repr

/-- A partition entry of section 0x08 (Table 2-9). -/
structure LinkPartCfg where
  port    : Nat
  slot256 : Bool
  queues  : Nat
deriving DecidableEq, Repr

/-- A die's entry of section 0x09 (R68), in tokens. -/
structure BudgetCfg where
  min    : Nat
  max    : Nat
  weight : Nat
deriving DecidableEq, Repr

/-- A clock entry of section 0x0A (Table 2-10). -/
structure ClockCfg where
  kind  : Nat
  index : Nat
  mhz   : Nat
deriving DecidableEq, Repr

/-- A watch entry of section 0x0C (Table 2-11). -/
structure WatchCfg where
  sampleLog2 : Nat
  selfTest   : Nat
  boundScale : Nat
  nanTrap    : Bool
deriving DecidableEq, Repr

/-- The configuration a load derived, with the deltas applied since (R85). -/
structure Floorplan where
  name         : List Byte
  featuresReq  : DWord
  revSet       : List (Nat × Nat)
  parts        : List PartEntry
  quartered    : List Nat
  sets         : List IntSet
  windows      : List Window
  routes       : Option (List Byte)
  bundleFences : List (Nat × Nat × Nat)
  fabric       : Option FabricCfg
  linkPorts    : List LinkPortCfg
  linkParts    : List LinkPartCfg
  budgets      : List BudgetCfg
  clocks       : List ClockCfg
  severity     : List Word
  watch        : List WatchCfg
  debugUnlock  : Bool
  mgmtWrite0   : Bool
  secVersion   : Nat
  deadStacks   : List Nat := []
deriving DecidableEq, Repr

/-! ## Hallway (chapter 01) -/

/-- What one Hallway port keeps beside its HAL_PORT registers. -/
structure HallPort where
  fenced       : BitVec 66
  windows      : List (Nat × List Nat)
  replay       : List Packet
  round        : Nat
  attempt      : Nat
  confirmed    : Option Nat
  peerMask     : BitVec 66
  peerProposal : Option Nat
  backingOff   : Bool
deriving DecidableEq, Repr

/-- A destination's acceptance window for one source: the highest sequence accepted and those accepted below it (R27). -/
structure Accepted where
  highest : Option Nat
  below   : List Nat
deriving DecidableEq, Repr

/-! ## Accelerator cores (chapters 04 to 10) -/

/-- A 64-bit tile instruction as it issued: its word, its two scalars, its tag and PC, the mode it took at issue, and a
chain's stage words once the execute queue has read them (R118, R119, R185, R198). -/
structure TileIns where
  word   : DWord
  a      : DWord
  b      : DWord
  tag    : Byte
  pc     : DWord
  strict : Bool
  frm    : Nat
  stages : List DWord
  spoiled : Bool := false
deriving DecidableEq, Repr

/-- What a control core waits for. -/
inductive CoreWait where
  | wait (tk : Nat) (target : Word)
  | waitAll (tk : Nat)
  | clear (tk : Nat)
  | ending
  | walk (va : DWord) (access : XlAccess)
  | record (seq : Word)
deriving DecidableEq, Repr

/-- A stationary buffer: empty, marked absent (R168), or holding an operand's stored rows, each element an FP32 word of the value that
enters the cell, with its format and layout, and for a sparse operand the logical row of each element (R143, R164, R167). -/
inductive StatBuf where
  | empty
  | absent (fmt : Nat)
  | loaded (fmt sparse : Nat) (halved : Bool) (rows : List (List Word)) (index : List (List Nat))
deriving DecidableEq, Repr

/-- One array or sub-array: its two stationary buffers and the run it may chain on (R144, R149). -/
structure SubArray where
  active : StatBuf
  shadow : StatBuf
  chain  : Option (Nat × Nat)
deriving DecidableEq, Repr

/-- An instruction a unit has started and not completed: the register words, Pantry bytes and poisoned granules it will
write when it completes, its error code when it ends in one, and the exception flags and NaN it found. -/
structure Running where
  ins     : TileIns
  error   : Nat
  words   : List (Nat × Word)
  bytes   : List (Nat × Byte)
  flags   : BitVec 5
  empty   : Bool
  nan     : Option (List Nat)
  trap    : Bool
  slices  : Nat
  tracker : Option (Nat × List Nat)
deriving DecidableEq, Repr

/-- A held sample of the numerics watch: the t.mma's tag and shape, and per copied element its row, column, the products
(pairs of FP32 words), C, the epilogue scales and the word written to TD (R272); `own` says that it filled the disagreement record (R275). -/
structure Sample where
  own      : Bool
  tag      : Byte
  fmt      : Nat
  sub      : Nat
  depth    : Nat
  boundS   : Nat
  elements : List (Nat × Nat × List (Word × Word) × Word × Word)
  scaleA   : Word
  scaleB   : Word
  epi      : Bool
  complete : Bool
  phase    : Nat
deriving DecidableEq, Repr

/-- The numerics watch of a core (R271, R559): LFSR, place in the window, the position selected, and the sample held. -/
structure Watch where
  lfsr     : BitVec 16
  count    : Nat
  position : Nat
  moved    : Bool
  sample   : Option Sample
deriving DecidableEq, Repr

/-- A stream slot (R289, R303): its instruction, a copy of the descriptor, its cursor, the chunks it has, has written and has returned, the runs,
pairs or tokens done, the arrival words added to, the claims of the chunk, its counts or built bitmap, and the address it waits for. -/
structure StreamSlot where
  phase    : Nat
  ins      : Option TileIns
  desc     : List Byte
  cursor   : List Nat
  faultVa  : DWord
  chunks   : Nat
  written  : Nat
  returned : Nat
  step     : Nat
  closed   : Nat
  error    : Nat
  claims   : List (Nat × Nat)
  result   : List Nat
  waiting  : Option (DWord × XlAccess)
  abort    : Bool
  per      : Nat
  doing    : List Nat := []
  lost     : Option (List Nat) := none
deriving DecidableEq, Repr

/-- Why a path of a group does not issue. -/
inductive PathState where
  | ready
  | parked (barrier : Nat)
  | tkWait (tk : Nat) (target : Word)
  | barWait
  | walk (va : DWord) (access : XlAccess)
  | record (seq : Word)
deriving DecidableEq, Repr

/-- A path of a group (R218). -/
structure Path where
  pc    : DWord
  mask  : BitVec 32
  state : PathState
deriving DecidableEq, Repr

/-- A thread group (R206, R208, R218, R221): vector registers by register x 32 + lane, uniform and predicate registers, the
ring of paths with the current one first, the convergence barriers, and the register-cache entries in order of allocation. -/
structure Group where
  live     : BitVec 32
  v        : Map Word
  u        : Map Word
  p        : Map Word
  ring     : List Path
  mask     : Map Word
  arrived  : Map Word
  cache    : List Nat
  stoch    : Map Nat
  promoted : Bool
deriving DecidableEq, Repr

/-- A loaded address-space descriptor (Table 13-4). -/
structure AsDesc where
  root    : DWord
  faultCq : Nat
  adu     : Bool
  windows : List (DWord × DWord × DWord)
deriving DecidableEq, Repr

/-- A translation-cache entry (R383): tags, the run it covers and the leaf's bits. -/
structure XlEntry where
  part  : Nat
  slot  : Nat
  asid  : Nat
  vpn   : Nat
  level : Nat
  run   : Nat
  pte   : DWord
  apart : List Nat := []
deriving DecidableEq, Repr

/-- An outstanding translation fault record (Table 13-7). -/
structure FaultRec where
  seq    : Word
  slot   : Nat
  kind   : Nat
  va     : DWord
  agent  : XlAgent
  access : XlAccess
  level  : Nat
deriving DecidableEq, Repr

/-- One accelerator core. `phase` is CC_STATUS.STATE (0 idle, 1 running, 2 ending, 3 halted by debug). -/
structure Core where
  x          : Map DWord
  pc         : DWord
  mcsr       : Map DWord
  resv       : Option Nat
  phase      : Nat
  monitor    : Bool
  fenced     : Bool
  kernel     : Option Nat
  part       : Nat
  slot       : Nat
  space      : Option AsDesc
  seed       : DWord
  pantryVa   : DWord
  tkDone     : Map Word
  tkExpect   : Map Word
  tkErr      : Word
  errTag     : Option Byte
  errPc      : DWord
  noToken    : Bool
  grants     : Map Nat
  accq       : List TileIns
  exq        : List TileIns
  arrq       : List TileIns
  vecq       : List TileIns
  inflight   : List TileIns
  waiting    : Option CoreWait
  subs       : Map SubArray
  arr        : List Running
  vec        : Option Running
  tiles      : Map Word
  vecCtrl    : Word
  vecStatus  : Word
  vecFlags   : BitVec 5
  stoch      : Nat
  nanEnable  : Bool
  nanTrap    : Bool
  watch      : Watch
  stPattern  : Bool
  pantry     : Memory
  poisoned   : List Nat
  flaws      : List EccHit
  scrubRow   : Map Nat
  scrubWrap  : List Nat
  slots      : Map StreamSlot
  groups     : Map Group
  grpCount   : Nat
  grpVregs   : Nat
  l1d        : Map (List Byte)
  l1i        : List Nat
  xlI        : List XlEntry
  xlD        : List XlEntry
  xlS        : List XlEntry
  records    : List FaultRec
  clock      : Nat
  testing    : Bool
  tested     : Bool
  testDue    : Option (Bool × Bool)
  ending     : Option (Nat × List Nat)
  resetting  : Bool
deriving DecidableEq, Repr

/-- A launch the device has accepted (R132 to R136): its command, its descriptor's fields, the cores listed and those that
have reported, each with its error code and detail. -/
structure Launch where
  part     : Nat
  sq       : Nat
  cid      : BitVec 16
  slot     : Nat
  bitmapAt : DWord
  entry    : DWord
  args     : DWord
  pantryVa : DWord
  gEntry   : DWord
  seed     : DWord
  groups   : Nat
  vregs    : Nat
  clear    : Bool
  strict   : Bool
  timeout  : Nat
  cores    : List Nat
  started  : Bool
  reports  : List (Nat × Nat × List Nat)
deriving DecidableEq, Repr

/-! ## Memory channels (chapter 11) -/

/-- What a channel keeps beside its registers: the requests held, the times of its link retries and on-die ECC reports (R339), the
open row of each bank, the activations of each row in the refresh interval of its bank and the rows refreshed for them (R332), its refreshes
and the bank an Annex channel refreshes next (Table 11-5), the rows that training soft-repaired, as bank and row (R338),
its scrubber's place (R336), and the corrected errors of the last 1 s as row, line and time (R335). Channel 0 of a stack keeps, for
each temperature threshold, one more than the time since which the stack has stayed 2 °C below it (R330). -/
structure Channel where
  hold      : List ChanReq
  back      : List ChanReq := []
  retries   : List Nat
  openRow   : Map Nat
  activated : Map Nat
  refreshes : Nat
  disturbed : List Nat
  scrub     : Nat
  corrected : List (Nat × Nat × Nat)
  below     : Map Nat
  nextBank  : Nat
  repaired  : List (Nat × Nat)
  rateMove  : Bool := false
deriving DecidableEq, Repr

/-! ## Coherence (chapter 12) -/

/-- The kinds of request a home takes (Table 12-4), and its own transactions: an eviction, a recall of the companion's copy before an access
made in one step (log 20), and a line's part of a bias flip. -/
inductive ReqKind where
  | rdS | rdX | upg | rdNA | wrF | wrP | atom (op : AtomOp) (width off : Nat) (operand compare : BitVec 128)
  | evC | wb | clean | evict | recall | flip (toDevice : Bool)
deriving DecidableEq, Repr

/-- A directory entry's STATE (Table 12-3). -/
inductive DirState where
  | S | X | OS
deriving DecidableEq, Repr

/-- A directory entry (Table 12-3): its sharers as up to three IDs, or as coarse groups of four. -/
structure DirEntry where
  st      : DirState
  owner   : Nat
  coarse  : Bool
  sharers : List Nat
deriving DecidableEq, Repr

/-- The open transaction of a line: its request, whether the requester's CmpAck is awaited, the agents whose answer is awaited, the
agent asked for the data and whether it is a sharer, whether the completion has been sent, the entry that follows, when its snoops
were sent, and, while its read of memory waits at a channel in HOLD, the state and FINAL to be granted (R339, R359, R360, R421). -/
structure Txn where
  kind     : ReqKind
  msg      : CohMsg
  needAck  : Bool
  snoops   : List Nat
  supplier : Option (Nat × Bool)
  cmpSent  : Bool
  next     : Option DirEntry
  since    : Nat
  memory   : Option (Moesi × Bool) := none
deriving DecidableEq, Repr

/-- What the home keeps for one line: directory entry, grant sequence, open transaction, waiters, held notices, stale write-backs
whose acknowledgement is withheld, the reservation of a waiter place, and the bias of a line whose page is in flip (R355, R360 to
R362, R424). -/
structure HomeLine where
  entry    : Option DirEntry
  gseq     : BitVec 12
  txn      : Option Txn
  waiters  : List (ReqKind × CohMsg)
  held     : List (ReqKind × CohMsg)
  staleAck : List CohMsg
  reserved : Option (Nat × BitVec 10 × Fin 16)
  bias     : Option Bool
deriving DecidableEq, Repr

/-- A line of a CPU L2 (R343, R350, R368). -/
structure L2Line where
  st     : Moesi
  data   : List Byte
  age    : Nat
  poison : Bool
  gseq   : BitVec 12
deriving DecidableEq, Repr

/-- An outstanding request of a caching agent: its kind, what has arrived (R359), and the requests of its stack that a base-die cache serves
from the same read (R356). -/
structure Want where
  kind   : ReqKind
  msg    : CohMsg
  data   : Option CohMsg
  cmp    : Bool
  refused : Bool
  back   : List CohMsg := []
deriving DecidableEq, Repr

/-- A CPU L2 (R343, R362): lines, write-back buffer, outstanding requests, snoops delayed for a reservation (R397) with their
message number (Table 15-5). -/
structure L2 where
  lines   : Map L2Line
  buffer  : List (ReqKind × CohMsg)
  wants   : List Want
  delayed : List (Nat × CohMsg)
  fenced  : Bool
  entering : Bool
deriving DecidableEq, Repr

/-- A base-die cache (R346): its lines, and its agents' outstanding requests. -/
structure BaseCache where
  lines : Map (List Byte)
  wants : List Want
deriving DecidableEq, Repr

/-! ## CPU harts (chapter 14) -/

/-- A non-coherent read of companion memory that a hart has sent, and its answer: the bytes and their poison. -/
structure HostRead where
  tag   : BitVec 16
  addr  : Nat
  size  : Nat
  reply : Option (List Byte × Bool)
deriving DecidableEq, Repr

/-- A hart: integer, floating-point and vector registers, privilege (0 user, 1 supervisor, 3 machine, 4 and 5 virtual user and supervisor),
CSRs by number (a register of interrupt file i with select number n stands at 0x1000 + 0x100 i + n), reservation, power state (Table 14-6), the pending identities of its nine interrupt files, and the non-coherent host reads of the
instruction it executes. -/
structure Hart where
  x       : Map DWord
  f       : Map DWord
  v       : Map (BitVec 512)
  pc      : DWord
  priv    : Nat
  csrs    : Map DWord
  resv    : Option Nat
  delay   : Bool
  state   : Nat
  fenced  : Bool
  dropped : Nat
  files   : Map (List Nat)
  nc      : List HostRead
deriving DecidableEq, Repr

/-- The L1 instruction and data caches of a CPU core: the lines each holds (R343). Their data are those of the L2, which includes every line of
them (R345). -/
structure CpuL1 where
  i : List Nat
  d : List Nat
deriving DecidableEq, Repr

/-! ## Jexesk Link (chapter 15) -/

/-- What a link knows of a host write: its partition, the queue whose command issued it, if any, and whether it is a write of the port itself, an entry
or a command's data, and no agent's (R435, R442). -/
structure WriteTag where
  part   : Nat
  queue  : Option Nat
  posted : Bool
deriving DecidableEq, Repr

/-- A message that waits to be sent: its slots, and what it is of a host write (R442). -/
structure HeldMsg where
  slots : List Byte
  write : Option WriteTag
deriving DecidableEq, Repr

/-- The flit state of one link, Jexesk or fabric (R410 to R413, R416, R447, R448): sequences, replay buffer, the credits it may spend and
those it owes, by class, the messages that wait for a retrain or for credits, the last flit of each host write in the replay buffer, how often each flit
of the buffer has been replayed, by SEQ, and whether the lanes in use are the upper half. -/
structure LinkState where
  txSeq      : BitVec 12
  replay     : List Flit
  rxSeq      : BitVec 12
  unacked    : Nat
  discarding : Bool
  replays    : Map Nat
  partial_   : List Byte
  credits    : Map Nat
  owed       : Map Nat
  attempts   : Nat
  failed     : BitVec 16
  tsFirst    : Bool
  sendHeld   : List HeldMsg
  writes     : List (BitVec 12 × WriteTag)
  high       : Bool := false
deriving DecidableEq, Repr

/-- An interrupt vector (Table 15-7, JXL_MSI; FC_PART_CPU_MSI). -/
structure MsiEntry where
  addr    : DWord
  value   : Word
  mask    : Bool
  pending : Bool
deriving DecidableEq, Repr

/-- A function's registers (Tables 15-7 and 15-8). -/
structure Fn where
  enable    : Bool
  lost      : Bool
  episode   : Nat
  sqBase    : DWord
  cqBase    : DWord
  adminSize : Word
  lostTotal : Nat
  lostTime  : DWord
  lostCause : Nat
  lostCount : Map Nat
  msi       : Map MsiEntry
  reportDue : Bool
deriving DecidableEq, Repr

/-- A command slot's header (Table 15-9a) and its inline payload. -/
structure Slot where
  opcode  : Nat
  flags   : Byte
  cid     : BitVec 16
  target  : Nat
  arg0    : DWord
  arg1    : DWord
  arg2    : Word
  extra   : List Byte
  rsvd    : Bool
deriving DecidableEq, Repr

/-- The result a finished command waits with for its completion entry (Table 15-10). -/
structure CmdResult where
  cid    : BitVec 16
  quiet  : Bool
  code   : Nat
  detail : Nat
  body   : List Byte
deriving DecidableEq, Repr

/-- A submission queue (R428 to R433); `stopped` is the code it stopped with, `deleting` the deletion that waits for its started
commands, with the CID of the admin queue's QUEUE_DELETE where one asked for it. -/
structure Sq where
  base     : DWord
  entries  : Nat
  cq       : Nat
  weight   : Nat
  head     : Nat
  tail     : Nat
  n        : Nat
  stopped  : Nat
  rereads  : Nat
  fetched  : List Slot
  running  : List Slot
  results  : List CmdResult
  deleting : Option (Option (BitVec 16))
  used     : Nat := 0
deriving DecidableEq, Repr

/-- A completion queue (R428, R435, R437). -/
structure Cq where
  base    : DWord
  entries : Nat
  head    : Nat
  tail    : Nat
  phase   : Bool
  vector  : Option Nat
  count   : Nat
  micros  : Nat
  unsent  : Nat
  waiting : List (List Byte)
deriving DecidableEq, Repr

/-- A bias flip in progress: the pages left, those whose homes have begun, the target, and who asked (R424). -/
structure Flip where
  pages    : List Nat
  started  : List Nat
  toShared : Bool
  from_    : Option (JxlPort × LinkMsg)
  cmd      : Option (Nat × Nat × BitVec 16)
deriving DecidableEq, Repr

/-! ## Fabric and collectives (chapter 16) -/

/-- Who asked for a remote access: an agent of a core, a hart, or a collective queue (R458, R464). -/
inductive RemAgent where
  | core (c : Nat) (ag : XlAgent)
  | hart (h : Nat)
  | queue (q : Nat)
deriving DecidableEq, Repr

/-- A remote access: its target, who asked and for what (0 read, 1 write, 2 atomic), the element of the instruction it serves, and the
answer: none while outstanding, then a refusal or the data with its poison (R458). -/
structure Remote where
  node  : Nat
  kind  : Nat
  agent : RemAgent
  addr  : Nat
  size  : Nat
  index : Nat
  reply : Option (Option (List Byte × Bool))
  chunk : Nat := 0
  cursor : List Nat := []
deriving DecidableEq, Repr

/-- A write to companion memory that is not performed yet: who made it and for which partition, its master agent ID, its line and TXN,
the chunk of the stream instruction it serves, the request itself while an earlier one of the agent to the line is open (R103, R300, R356), and the
queue whose command issued it (R442). -/
structure HostWrite where
  agent : RemAgent
  part  : Nat
  sub   : Nat
  line  : Nat
  txn   : BitVec 10
  chunk : Nat
  held  : Option CohMsg
  queue : Option Nat := none
  cursor : List Nat := []
deriving DecidableEq, Repr

/-- What the host-line directory of a port has in hand for a line: the request it serves or the companion's snoop it answers, the holders that have
yet to answer, the request it then sends on, whether a holder serves the request, and the answer that carries data (R420). -/
structure HostTxn where
  port   : Nat
  kind   : ReqKind
  msg    : CohMsg
  wait   : List Nat
  snoop  : Option Nat
  onward : Bool
  inside : Bool
  reply  : Option CohMsg
deriving DecidableEq, Repr

/-- A delta image that is being applied: the command that asked for it, the image, and what waits for its end: RESUMEs of partitions it
lists and resets of partitions it touches (R86, R104). -/
structure DeltaRun where
  part    : Nat
  queue   : Nat
  cid     : BitVec 16
  image   : List Byte
  resumes : List (Nat × Nat × BitVec 16)
  resets  : List Nat
deriving DecidableEq, Repr

/-- A running collective (R463 to R473): descriptor fields, group, arrivals and progress; for a routed dispatch also the chunk it places, the
claims made for it (expert and old counter), the RESULT counts, and the rows of the chunk that are done. -/
structure Collective where
  fields    : ColFields
  flags     : Nat
  rank      : Nat
  msiVec    : Nat
  src       : Nat
  dst       : Nat
  progress  : Nat
  done      : Nat
  seed      : DWord
  route     : Nat
  timeout   : Nat
  ready     : List Nat
  version1  : Bool
  state     : Nat
  held      : Bool
  holds     : List Nat
  error     : Nat
  errNode   : Nat
  bytesSent : Nat
  stepsDone : Nat
  steps     : Nat
  nans      : Nat
  poisoned  : Nat
  firstNan  : DWord
  acked     : List (Nat × Nat)
  tStart    : DWord
  tEnd      : DWord
  chunk     : Nat
  claims    : List (Nat × Nat)
  counts    : List Nat
  rows      : Nat
deriving DecidableEq, Repr

/-! ## Faults (chapter 17) -/

/-- A notice on its way to the roots, and a logged record (Table 17-4). -/
structure Notice where
  leaf     : DieId
  leafSeq  : BitVec 16
  fault    : FaultIn
  cls      : Nat
  react    : Byte
  fenced   : Bool
  suppressed : Bool
  merged   : Bool
  count    : Nat
  time     : DWord
  parts    : Byte
deriving DecidableEq, Repr

/-- A logged record: its root sequence and its notice. -/
structure LogRec where
  seq    : Word
  safe   : Bool
  notice : Notice
deriving DecidableEq, Repr

/-- A first-error capture set (Table 17-9). -/
structure Capture where
  source : Byte
  access : Nat
  agent  : Nat
  addr   : DWord
  time   : DWord
deriving DecidableEq, Repr

/-- A collector leaf (R475, R477). -/
structure Leaf where
  queue    : List Notice
  seq      : BitVec 16
  merged   : Map Nat
  captures : Map (Option Capture)
  held     : List Notice
deriving DecidableEq, Repr

/-- A fault root (R476, R482 to R486): log, capture sets, drop counts, interrupt registers and targets interrupted last. `logged` holds every
record it has logged, whose digest the roots compare. -/
structure Root where
  alive    : Bool
  log      : List LogRec
  logged   : List LogRec
  next     : Word
  overflow : Bool
  peerLost : Bool
  fenceFull : Bool
  dumpValid : Bool
  captures : Map (Option Capture)
  drops    : Map Nat
  cpuMsi   : Map MsiEntry
  compVec  : Map Word
  lastSent : Map Nat
deriving DecidableEq, Repr

/-! ## Management (chapter 19) -/

/-- A persistent fence list entry (R498). -/
structure FenceEntry where
  kind   : Nat
  index  : Nat
  source : Byte
deriving DecidableEq, Repr

/-- A repair list entry (R526). -/
structure RepairEntry where
  annex   : Bool
  channel : Nat
  bank    : Nat
  sid     : Nat
  row     : Nat
deriving DecidableEq, Repr

/-- A fault dump area (R496, R497): committed or not, and its content. -/
structure DumpArea where
  erased    : Bool
  committed : Bool
  sequence  : Nat
  time      : DWord
  cause     : Nat
  captures  : List (Option Capture)
  records   : List LogRec
deriving DecidableEq, Repr

/-- The security fuses (Table 19-3). -/
structure Fuses where
  fwRsa    : BitVec 384
  fwSlh    : BitVec 384
  flpRsa   : BitVec 384
  flpSlh   : BitVec 384
  dbgRsa   : BitVec 384
  dbgSlh   : BitVec 384
  arbFw    : Nat
  arbFlp   : Nat
  arbDbg   : Nat
  serial   : DWord
  shipment : Bool
deriving DecidableEq, Repr

/-- A management operation that was answered IN_PROGRESS, by its TAG (R537): its status, and what it holds: a flash area,
13 for the Floorplan, 200 + d for the reset of die d. -/
structure MgtOp where
  tag    : BitVec 16
  status : Nat
  holds  : Nat
deriving DecidableEq, Repr

/-- What the management plane keeps. Flash is held by area (Table 19-1), 0 to 12 in table order: areas 0 to 7 and 12 as bytes. `copies`
holds each stage's field of SEC_BOOT, `digests` the digests of the stages in force, `spdm` each transport's place in an exchange with its
transcript, `scope` the open scope of a debug unlock, `digestLog` the digests of the tokens accepted. `dieRevs` holds each die's revision as
its fuses give it, in the form of R56, and `dieFeats` its native features (R43, R44); a die not listed is a B1 die. -/
structure Mgmt where
  flash      : Map Memory
  fences     : List FenceEntry
  repairs    : List RepairEntry
  dumps      : Map DumpArea
  fuses94    : Fuses
  fuses95    : Fuses
  dieRevs    : Map Nat
  dieFeats   : Map Word
  answers94  : Bool
  answers95  : Bool
  active95   : Bool
  stage      : Nat
  copies     : Map Nat
  digests    : Map (BitVec 384)
  upload     : List Byte
  ops        : List MgtOp
  spdm       : Map (Nat × List Byte)
  nonce      : Option (List Byte × Nat)
  scope      : Option Nat
  notAfter   : DWord
  telemetry  : List Byte
  digestLog  : List (BitVec 384)
deriving DecidableEq, Repr

/-! ## Power (chapter 18) -/

/-- What a steward keeps (R504 to R513): its budget b and NEED in tokens, the wants received in this epoch and the budget last reported by partner, whether a STATE came in
it, the epochs without and with one, whether it lowered a ceiling for budget in the epoch, the steps its ceilings stand lowered for budget
and for temperature and its memory admission in eighths, its cap, and the factors of the CUTs applied by generation. -/
structure Steward where
  budget    : Nat
  need      : Nat
  wants     : Map Nat
  seen      : Map Nat
  heard     : Bool
  silent    : Nat
  rejoin    : Nat
  limited   : Bool
  thermal   : Nat
  admission : Nat
  cap       : Option Nat
  ceiling   : Nat
  factors   : List (Nat × Nat)
deriving DecidableEq, Repr

/-! ## What the device sends -/

/-- What the header of a coherence message to the companion names beside the message: FN, the address, AUX and STATUS (Table 15-4). -/
structure LinkHead where
  fn     : Nat
  addr   : Nat
  aux    : Nat
  status : Nat
deriving DecidableEq, Repr

/-- A message, packet or response the device sends out. -/
inductive Msg where
  | hallway (port : HalPort) (pkt : Packet)
  | hallwayAck (port : HalPort) (seq : BitVec 24)
  | hallwayReplay (port : HalPort)
  | widthToken (port : HalPort) (token : BitVec 128)
  | coh (kind : Nat) (target : Nat) (m : CohMsg)
  | link (port : JxlPort) (m : LinkMsg)
  | linkCoh (port : JxlPort) (kind : Nat) (head : LinkHead) (m : CohMsg)
  | linkFlit (link : LinkId) (f : Flit)
  | linkMsi (port : JxlPort) (fn : Nat) (addr : DWord) (value : Word)
  | fabric (port : FabPort) (m : FabMsg)
  | notice (port : FabPort) (kind node dst : Nat) (epoch : Bool) (body : List Byte)
  | colMsg (port : FabPort) (head : FabMsg) (size : Nat) (queue : ColQueue) (rank : Nat) (kind : Nat) (chunk : Nat) (data : List Byte) (poison : List Nat)
  | msi (addr : DWord) (value : Word)
  | contained (agent : Nat) (code : Nat)
  | backStair (kind : Nat) (src dst : Nat) (body : List Nat)
  | mgmt (transport : Transport) (code : Nat) (tag : BitVec 16) (status offset : Nat) (payload : List Byte)
  | spdm (transport : Transport) (body : List Byte)
  | pldm (bus : Bool) (value : Nat)
  | csrData (agent : Nat) (value : DWord)
  | hostWrite (port : JxlPort) (fn addr : Nat) (data : List Byte)
  | memData (agent : Nat) (line : Nat) (data : List Byte) (poison retry : Bool)
  | flip (page : Nat) (toShared : Bool)
deriving DecidableEq, Repr

/-- A packet as its source die sends it over the Hallway: its destination die, its injection sequence, its channel and what it carries (R26, R27,
R357). -/
structure HallOut where
  src : Nat
  dst : Nat
  seq : Nat
  vc  : HalVc
  msg : Msg
deriving DecidableEq, Repr

/-! ## The whole state -/

/-- The package's phase: not powered, held in reset, powered and running (bring-up included), committing a power-down, in
the safe state, or in ROM recovery (R94, R106, R107, R494, R532). -/
inductive Phase where
  | off | held | running | powerDown | safe | recovery
deriving DecidableEq, Repr

/-- The pins (R549) and whether VIN is at or above 50 V (R554). READY, THERM_N and FATAL_N are true while released or high. -/
structure Pins where
  pwrOk       : Bool
  resetN      : Bool
  jxlResetN   : Bool
  vinOk       : Bool
  factoryTest : Bool
  ready       : Bool
  thermN      : Bool
  fatalN      : Bool
deriving DecidableEq, Repr

/-- A quiesce or reset in progress in a partition, with the command that asked for it (R101, R103). -/
structure PartWork where
  cmd   : Option (Nat × Nat × BitVec 16)
deriving DecidableEq, Repr

/-- The package. -/
structure State where
  pending   : List Instr
  fresh     : Nat
  time      : Nat
  phase     : Phase
  pins      : Pins
  csr       : Map Word
  locked    : Bool
  flp       : Option Floorplan
  hall      : Map HallPort
  hallAcc   : Map Accepted
  hallIn    : List Packet
  hallSeq   : Map Nat
  hallOut   : List HallOut
  cores     : Map Core
  launches  : Map Launch
  nextLaunch : Nat
  pool      : Memory
  poolBad   : List Nat
  channels  : Map Channel
  lines     : Map HomeLine
  msau      : Map (List (Nat × List Byte))
  refused   : List (ReqKind × CohMsg)
  l2s       : Map L2
  l1s       : Map CpuL1
  bases     : Map BaseCache
  hostDir   : Map (List Nat)
  hostTxns  : List HostTxn
  hostTxn   : BitVec 10
  slots     : Map (Option AsDesc)
  xlDie     : Map (List XlEntry)
  xlWalk    : Map (List XlEntry)
  xlSeq     : Map Word
  harts     : Map Hart
  links     : Map LinkState
  fns       : Map Fn
  sqs       : Map (Option Sq)
  cqs       : Map (Option Cq)
  heldBells : List (Nat × Nat × Nat × List Byte)
  shared    : List Nat
  flips     : Map (Option Flip)
  nextFlip  : Nat
  hostReads : List (BitVec 16 × Nat)
  steer     : Int
  remotes   : Map (Option Remote)
  hostWrites : List HostWrite
  msiDue    : List (Nat × Nat)
  ncWait    : List (JxlPort × LinkMsg)
  steerSum  : Int
  nextTag   : Nat
  tables    : Map RouteTable
  nodesDown : List Nat
  nodesUp   : List (Nat × Nat × Nat)
  cols      : Map (Option Collective)
  earlyReady : List (Nat × Nat × ColFields × Nat)
  leaves    : Map Leaf
  root94    : Root
  root95    : Root
  fencedU   : List (UnitKind × Nat)
  mgmt      : Mgmt
  stewards  : Map Steward
  cutGen    : Nat
  overUs    : Nat
  lowUs     : Nat
  calmUs    : Nat
  partWork  : Map (Option PartWork)
  delta     : Option DeltaRun
  dieReset  : Map Nat
  resetCmds : List (Nat × Nat × Nat × BitVec 16)
  rateFailed : List RateUnit
  served    : List (UnitKind × Nat)
  sent      : List Msg
deriving DecidableEq, Repr

/-- The memory's canonical form: addresses strictly rising and no listed byte zero (what an unlisted address reads as). -/
abbrev Memory.wf (m : Memory) : Prop := m.cells.Pairwise (fun a b => a.1 < b.1) ∧ ∀ c ∈ m.cells, c.2 ≠ 0

/-- Faults: none. The spec answers every error of the device with state, a report or a message, and every command whose unit is absent or idle
changes nothing (log 10), so no command stops the block. -/
inductive Fault where
deriving DecidableEq, Repr

/-- Refusals. -/
inductive Refusal where
  /-- Raised by an arm of `exec` whose command has no meaning yet. Safe: nothing is claimed of it. -/
  | notModelled (mnemonic : String)
deriving DecidableEq, Repr

/-! ## Reset: what each part of the state holds after a cold reset. Values the spec does not state are log 3. -/

/-- A Hallway port before its training. -/
def HallPort.reset : HallPort :=
  { fenced := 0, windows := [], replay := [], round := 0, attempt := 0, confirmed := none, peerMask := 0,
    peerProposal := none, backingOff := false }

/-- A destination that has accepted nothing. -/
def Accepted.reset : Accepted := { highest := none, below := [] }

/-- An array with both stationary buffers empty. -/
def SubArray.reset : SubArray := { active := .empty, shadow := .empty, chain := none }

/-- A watch before its core's die comes online. -/
def Watch.reset : Watch := { lfsr := 0, count := 0, position := 0, moved := false, sample := none }

/-- An idle stream slot. -/
def StreamSlot.reset : StreamSlot :=
  { phase := 0, ins := none, desc := [], cursor := [], faultVa := 0, chunks := 0, written := 0, returned := 0, step := 0, closed := 0,
    error := 0, claims := [], result := [], waiting := none, abort := false, per := 1 }

/-- A group that is not live. -/
def Group.reset : Group :=
  { live := 0, v := ⟨[]⟩, u := ⟨[]⟩, p := ⟨[]⟩, ring := [], mask := ⟨[]⟩, arrived := ⟨[]⟩, cache := [], stoch := ⟨[]⟩,
    promoted := false }

/-- An idle core. -/
def Core.reset : Core :=
  { x := ⟨[]⟩, pc := 0, mcsr := ⟨[]⟩, resv := none, phase := 0, monitor := false, fenced := false,
    kernel := none, part := 0, slot := 0, space := none, seed := 0, pantryVa := 0, tkDone := ⟨[]⟩, tkExpect := ⟨[]⟩,
    tkErr := 0, errTag := none, errPc := 0, noToken := false, grants := ⟨[]⟩, accq := [], exq := [], arrq := [], vecq := [],
    inflight := [], waiting := none, subs := ⟨[]⟩, arr := [], vec := none, tiles := ⟨[]⟩,
    vecCtrl := 0, vecStatus := 0, vecFlags := 0, stoch := 0, nanEnable := false, nanTrap := false, watch := Watch.reset,
    stPattern := false, pantry := ⟨[]⟩, poisoned := [], flaws := [], scrubRow := ⟨[]⟩, scrubWrap := [], slots := ⟨[]⟩, groups := ⟨[]⟩,
    grpCount := 0, grpVregs := 0, l1d := ⟨[]⟩, l1i := [], xlI := [], xlD := [], xlS := [], records := [],
    clock := 0, testing := false, tested := false, testDue := none, ending := none, resetting := false }

/-- A channel with nothing held. -/
def Channel.reset : Channel :=
  { hold := [], retries := [], openRow := ⟨[]⟩, activated := ⟨[]⟩, refreshes := 0, disturbed := [], scrub := 0, corrected := [],
    below := ⟨[]⟩, nextBank := 0, repaired := [] }

/-- A line nobody has asked for. -/
def HomeLine.reset : HomeLine :=
  { entry := none, gseq := 0, txn := none, waiters := [], held := [], staleAck := [], reserved := none, bias := none }

/-- An empty L2. -/
def L2.reset : L2 := { lines := ⟨[]⟩, buffer := [], wants := [], delayed := [], fenced := false, entering := false }

/-- The empty L1 caches of a CPU core. -/
def CpuL1.reset : CpuL1 := { i := [], d := [] }

/-- An empty base-die cache. -/
def BaseCache.reset : BaseCache := { lines := ⟨[]⟩, wants := [] }

/-- A held hart. -/
def Hart.reset : Hart :=
  { x := ⟨[]⟩, f := ⟨[]⟩, v := ⟨[]⟩, pc := 0, priv := 3, csrs := ⟨[]⟩, resv := none, delay := false, state := 0,
    fenced := false, dropped := 0, files := ⟨[]⟩, nc := [] }

/-- A link that has exchanged nothing. -/
def LinkState.reset : LinkState :=
  { txSeq := 0, replay := [], rxSeq := 0, unacked := 0, discarding := false, replays := ⟨[]⟩, partial_ := [], credits := ⟨[]⟩,
    owed := ⟨[]⟩, attempts := 0, failed := 0, tsFirst := false, sendHeld := [], writes := [] }

/-- A vector after reset (Tables 15-7 and 17-8). -/
def MsiEntry.reset : MsiEntry := { addr := 0, value := 0, mask := false, pending := false }

/-- A function before its enable. -/
def Fn.reset : Fn :=
  { enable := false, lost := false, episode := 0, sqBase := 0, cqBase := 0, adminSize := 0, lostTotal := 0, lostTime := 0,
    lostCause := 0, lostCount := ⟨[]⟩, msi := ⟨[]⟩, reportDue := false }

/-- A leaf with no notice. -/
def Leaf.reset : Leaf := { queue := [], seq := 0, merged := ⟨[]⟩, captures := ⟨[]⟩, held := [] }

/-- A root with an empty log. -/
def Root.reset : Root :=
  { alive := true, log := [], logged := [], next := 0, overflow := false, peerLost := false, fenceFull := false, dumpValid := false,
    captures := ⟨[]⟩, drops := ⟨[]⟩, cpuMsi := ⟨[]⟩, compVec := ⟨[]⟩, lastSent := ⟨[]⟩ }

/-- The fuses of a die whose hashes, counters and serial the spec leaves to the part (log 5); the shipment fuse is blown (R499). -/
def Fuses.reset : Fuses :=
  { fwRsa := 0, fwSlh := 0, flpRsa := 0, flpSlh := 0, dbgRsa := 0, dbgSlh := 0, arbFw := 0, arbFlp := 0, arbDbg := 0,
    serial := 0, shipment := true }

/-- An erased dump area. -/
def DumpArea.reset : DumpArea :=
  { erased := true, committed := false, sequence := 0, time := 0, cause := 0, captures := [], records := [] }

/-- The management plane with erased flash (log 5). -/
def Mgmt.reset : Mgmt :=
  { flash := ⟨[]⟩, fences := [], repairs := [], dumps := ⟨[]⟩, fuses94 := Fuses.reset, fuses95 := Fuses.reset, dieRevs := ⟨[]⟩, dieFeats := ⟨[]⟩,
    answers94 := true, answers95 := true, active95 := false, stage := 0, copies := ⟨[]⟩, digests := ⟨[]⟩,
    upload := [], ops := [], spdm := ⟨[]⟩, nonce := none, scope := none, notAfter := 0, telemetry := [],
    digestLog := [] }

/-- A steward that has heard nothing. -/
def Steward.reset : Steward :=
  { budget := 0, need := 0, wants := ⟨[]⟩, seen := ⟨[]⟩, heard := false, silent := 0, rejoin := 0, limited := false, thermal := 0,
    admission := 0, cap := none, ceiling := 0, factors := [] }

/-- The package right after a cold reset, at the start of bring-up (R94): PWR_OK, RESET_N and JXL_RESET_N high, VIN above
50 V, nothing loaded, the queue of commands empty. -/
def State.reset : State :=
  { pending := [], fresh := 0, time := 0, phase := .running,
    pins := { pwrOk := true, resetN := true, jxlResetN := true, vinOk := true, factoryTest := false, ready := false,
              thermN := true, fatalN := true },
    csr := ⟨[]⟩, locked := false, flp := none, hall := ⟨[]⟩, hallAcc := ⟨[]⟩, hallIn := [], hallSeq := ⟨[]⟩, hallOut := [], cores := ⟨[]⟩,
    launches := ⟨[]⟩, nextLaunch := 0, pool := ⟨[]⟩, poolBad := [], channels := ⟨[]⟩, lines := ⟨[]⟩, msau := ⟨[]⟩,
    refused := [], l2s := ⟨[]⟩, l1s := ⟨[]⟩, bases := ⟨[]⟩, hostDir := ⟨[]⟩, hostTxns := [], hostTxn := 0, slots := ⟨[]⟩, xlDie := ⟨[]⟩, xlWalk := ⟨[]⟩, xlSeq := ⟨[]⟩, harts := ⟨[]⟩,
    links := ⟨[]⟩, fns := ⟨[]⟩, sqs := ⟨[]⟩, cqs := ⟨[]⟩, heldBells := [], shared := [], flips := ⟨[]⟩, nextFlip := 0,
    hostReads := [], steer := 0, remotes := ⟨[]⟩, hostWrites := [], msiDue := [], ncWait := [], steerSum := 0, nextTag := 0, tables := ⟨[]⟩, nodesDown := [], nodesUp := [],
    cols := ⟨[]⟩, earlyReady := [], leaves := ⟨[]⟩, root94 := Root.reset, root95 := Root.reset, fencedU := [],
    mgmt := Mgmt.reset, stewards := ⟨[]⟩, cutGen := 0, overUs := 0, lowUs := 0, calmUs := 0, partWork := ⟨[]⟩, delta := none,
    dieReset := ⟨[]⟩, resetCmds := [], rateFailed := [], served := [], sent := [] }

end Sys2Proof.Machine
end

