-- ==== Sys2Proof/Machine/Wire.lean ====
section
/-! DEFINITION. Messages as slots, flits and blocks: the header slot of the Jexesk Link (Table 15-4) and of the fabric (Table 16-5), the flits
that carry them (Tables 15-2 and 16-2) with their CRC (R411), and the blocks of the link's lanes (R409). -/

namespace Sys2Proof.Machine

/-- Pads or cuts a list of bytes to `n`. -/
def padTo (n : Nat) (b : List Byte) : List Byte := b.take n ++ List.replicate (n - b.length) 0

/-- The CLASS of a Jexesk Link opcode (Tables 15-4 and 15-5); 7 for an opcode the table does not list. -/
def opClass (op : Nat) : Nat :=
  if (1 ≤ op ∧ op ≤ 0x0A) ∨ op = 0x28 then 0 else if 0x0B ≤ op ∧ op ≤ 0x0F then 1
  else if (0x10 ≤ op ∧ op ≤ 0x17) ∨ op = 0x22 ∨ op = 0x29 then 2 else if op = 0x20 ∨ op = 0x21 then 3
  else if op = 0x30 then 4 else if op = 0x38 then 5 else if op = 0x40 ∨ op = 0x41 then 6 else 7

/-- Data slots of a LEN (R415): 0, 4, 8, or a mask slot and 8. -/
def lenSlots (len : Nat) : Nat := match len with | 0 => 0 | 1 => 4 | 2 => 8 | _ => 9

/-- LEN for a number of data bytes. -/
def lenOf (n : Nat) : Nat := if n = 0 then 0 else if n ≤ 64 then 1 else 2

/-- The data slots of a LEN, the mask slot first (R415). -/
def dataSlots (len : Nat) (mask : BitVec 128) (data : List Byte) : List Byte :=
  match len with
  | 0 => []
  | 1 => padTo 64 data
  | 2 => padTo 128 data
  | _ => leBytes 16 mask.toNat ++ padTo 128 data

/-- A header slot of the Jexesk Link (Table 15-4). -/
def jxlHeader (op fn len tag status gseq flags addr grant aux : Nat) : List Byte :=
  leBytes 16 (op * 2 ^ 120 + opClass op * 2 ^ 117 + fn % 8 * 2 ^ 114 + len * 2 ^ 112 + tag % 65536 * 2 ^ 96 + status % 16 * 2 ^ 92
    + gseq % 4096 * 2 ^ 80 + flags % 16 * 2 ^ 76 + addr / 64 % 2 ^ 46 * 2 ^ 30 + grant % 8 * 2 ^ 27 + aux % 2 ^ 27)

/-- The slots of a message of the Jexesk Link. -/
def linkMsgSlots (m : LinkMsg) : List Byte :=
  jxlHeader m.opcode.toNat m.fn.val m.len.val m.tag.toNat m.status 0 (b2n m.poison) m.addr 0 m.aux.toNat ++ dataSlots m.len.val m.mask m.data

/-- The GRANT code of a state (Table 15-4). -/
def grantCode : Moesi → Nat
  | .I => 0 | .S => 1 | .E => 2 | .M => 3 | .O => 4

/-- The slots of a coherence message to the companion (R419) with what its header names beside the message itself; a masked write carries its
mask. -/
def cohSlots (kind : Nat) (h : LinkHead) (m : CohMsg) : List Byte :=
  let len := if kind = 6 then 3 else lenOf m.data.length
  jxlHeader kind h.fn len m.txn.toNat h.status m.gseq.toNat (b2n m.final * 8 + b2n m.superseded * 4 + b2n m.noData * 2 + b2n m.poison)
    h.addr (grantCode m.grant) h.aux ++ dataSlots len m.mask m.data

/-- The pieces of a write that lie in one line each. -/
def writePieces (a : Nat) (data : List Byte) (fuel : Nat) : List (Nat × List Byte) :=
  match fuel with
  | 0 => []
  | fuel + 1 => if data.isEmpty then [] else
      let k := 128 - a % 128
      (a, data.take k) :: writePieces (a + k) (data.drop k) fuel

/-- The slots of one NcWr: the accessed bytes lead the data group (log 18). -/
def ncWrSlots (fn addr : Nat) (data : List Byte) : List Byte :=
  let len := lenOf data.length
  jxlHeader 0x21 fn len 0 0 0 0 addr 0 (addr % 64 + (data.length - 1) * 64) ++ dataSlots len 0 data

/-- The slots of an Msi message (Table 15-5). -/
def msiSlots (fn : Nat) (addr : DWord) (value : Word) : List Byte :=
  jxlHeader 0x38 fn 1 0 0 0 0 0 0 0 ++ padTo 64 (leBytes 8 addr.toNat ++ leBytes 4 value.toNat)

/-- The virtual channel of a fabric opcode (Table 16-3). -/
def fabVc (op : Nat) : Nat :=
  if op = 1 ∨ op = 2 ∨ op = 3 then 0 else if op = 0x10 then 2 else if op = 0x18 ∨ op = 0x19 then 3 else if op = 0x20 then 4 else 1

/-- The slots of a fabric message (Table 16-5). -/
def fabSlots (m : FabMsg) : List Byte :=
  let len := if m.mask = 0 then lenOf m.data.length else 3
  leBytes 16 (m.opcode.toNat * 2 ^ 120 + fabVc m.opcode.toNat * 2 ^ 117 + b2n m.epoch * 2 ^ 116 + m.ttl % 64 * 2 ^ 110
    + m.dst % 16384 * 2 ^ 96 + m.src % 16384 * 2 ^ 82 + len * 2 ^ 80 + m.status % 16 * 2 ^ 76 + b2n m.poison * 2 ^ 75 + b2n m.cls * 2 ^ 74
    + m.tag.toNat * 2 ^ 58 + m.addr / 64 % 2 ^ 36 * 2 ^ 22 + m.aux.toNat) ++ dataSlots len m.mask m.data

/-- The slots of a Back Stair notice that travels as a message (Tables 16-4 and 16-5): the kind in AUX, `node` as SRC. -/
def noticeSlots (kind node dst : Nat) (epoch : Bool) (body : List Byte) : List Byte :=
  fabSlots { opcode := 0x20, epoch := epoch, ttl := 63, dst := dst, src := node, status := 0, poison := false, cls := false, tag := 0, addr := 0,
             aux := BitVec.ofNat 22 kind, mask := 0, data := padTo 64 body }

/-- The messages of a collective message: at most 128 bytes of data each, under one header (Table 16-5); `size` is that of an element, by which the
poison of a piece is known (R468). -/
def colSlots (h : FabMsg) (size : Nat) (data : List Byte) (poison : List Nat) : List (List Byte) :=
  if data.isEmpty then [fabSlots h]
  else (List.range ((data.length + 127) / 128)).map (fun j =>
    fabSlots { h with data := (data.drop (128 * j)).take 128, poison := poison.any (fun i => i * size / 128 == j) })

/-- The message that some slots are (Table 16-5). -/
def fabOfSlots (b : List Byte) : FabMsg :=
  let h := leNat (b.take 16)
  let masked := bits h 81 80 == 3
  { opcode := BitVec.ofNat 8 (bits h 127 120), epoch := bits h 116 116 == 1, ttl := bits h 115 110, dst := bits h 109 96, src := bits h 95 82,
    status := bits h 79 76, poison := bits h 75 75 == 1, cls := bits h 74 74 == 1, tag := BitVec.ofNat 16 (bits h 73 58), addr := bits h 57 22 * 64,
    aux := BitVec.ofNat 22 (bits h 21 0), mask := if masked then BitVec.ofNat 128 (leNat ((b.drop 16).take 16)) else 0,
    data := if masked then b.drop 32 else b.drop 16 }

/-- The link a message of the device travels on, and its slots, one list for each message of the link. -/
def Msg.wire : Msg → Option (LinkId × List (List Byte))
  | .link p m => some (.jxl p, [linkMsgSlots m])
  | .linkCoh p k h m => some (.jxl p, [cohSlots k h m])
  | .hostWrite p fn a d => some (.jxl p, (writePieces a d (d.length + 1)).map (fun x => ncWrSlots fn x.1 x.2))
  | .linkMsi p fn a v => some (.jxl p, [msiSlots fn a v])
  | .fabric p m => some (.fabric p, [fabSlots m])
  | .notice p k n d e b => some (.fabric p, [noticeSlots k n d e b])
  | .colMsg p h z _ _ _ _ d x => some (.fabric p, colSlots h z d x)
  | _ => none

/-- The class or virtual channel of a message's header slot. -/
def slotClass (slots : List Byte) : Nat := bits (leNat (slots.take 16)) 119 117

/-- The buffers that a message's credits are for: its class on the Jexesk Link (R416), its virtual channel and buffer class on the fabric (R449). -/
def creditKey (l : LinkId) (slots : List Byte) : Nat :=
  match l with
  | .jxl _ => slotClass slots
  | .fabric _ => 2 * slotClass slots + bits (leNat (slots.take 16)) 74 74

/-- The slots a fabric receiver reserves for each class of a virtual channel, and for the Back Stair (Table 16-3). -/
def fabReserved (vc : Nat) : Nat := match vc with | 0 => 32 | 1 => 32 | 2 => 128 | 3 => 64 | _ => 16

/-! ## Flits and blocks -/

/-- One bit of a CRC-64, the most significant bit of a byte first (R411; log 12). -/
def crcBit (c : BitVec 64) (b : Bool) : BitVec 64 := if c.msb != b then (c <<< 1) ^^^ 0x42F0E1EBA9EA3693#64 else c <<< 1
/-- The CRC-64 of some bytes: the register starts as all ones, and the result is inverted (R411). -/
def crc64 (b : List Byte) : BitVec 64 :=
  ~~~ (b.foldl (fun c x => (List.range 8).foldl (fun c i => crcBit c (x.getLsbD (7 - i))) c) (BitVec.allOnes 64))

/-- Bytes 0 to 247 of a flit: its header, as Table 15-2 or 16-2 lays it out, and its slots (R410, R447). -/
def flitBody (l : LinkId) (f : Flit) : List Byte :=
  let h := f.seq.toNat * 2 ^ 52 + f.ack.toNat * 2 ^ 40 + f.ftype % 16 * 2 ^ 36
  let c := match l with
    | .jxl _ => f.crdClass % 16 * 2 ^ 32 + f.crdSlots % 4096 * 2 ^ 20
    | .fabric _ => f.crdClass % 8 * 2 ^ 33 + f.crdSlots % 4096 * 2 ^ 21
  leBytes 8 (h + c) ++ padTo 240 f.slots
/-- The CRC a flit carries (R411, R447). -/
def flitCrc (l : LinkId) (f : Flit) : DWord := crc64 (flitBody l f)
/-- The 256 bytes of a flit (Tables 15-2 and 16-2). -/
def flitBytes (l : LinkId) (f : Flit) : List Byte := flitBody l f ++ leBytes 8 (flitCrc l f).toNat

/-- The 10,280 message bits of a block, the header lowest: the alignment pattern, the block number, and five flits (R409; log 12). -/
def jxlBlock (number : BitVec 16) (p : JxlPort) (flits : List Flit) : Nat :=
  Config.blockPattern.toNat + number.toNat * 2 ^ 24 + leNat (padTo 1280 ((flits.take 5).flatMap (flitBytes (.jxl p)))) * 2 ^ 40

/-- The codewords of a block in which the flit at a place of it has a bit: 514 symbols of 10 bits each (R409; log 12). -/
def flitCodewords (place : Nat) : List Nat := (List.range 2).filter (fun w => decide (w * 5140 < 40 + 2048 * (place + 1)) && decide (40 + 2048 * place < (w + 1) * 5140))

/-- The lane, of the active ones in ascending order, on which a symbol of a block is sent (R409). -/
def symbolLane (lanes : List Nat) (symbol : Nat) : Nat := lanes.getD (symbol % lanes.length) 0

/-- Whether some lane of a range failed. -/
def anyLane (m : BitVec 16) (lo n : Nat) : Bool := (List.range n).any (fun i => m.getLsbD (lo + i))

/-- How many lanes a link with some failed ones runs, and whether they are its upper half: all where that is asked and none failed, else a half
without a failed lane, the lower one first, else none (R408, R446). -/
def linkLanes (l : LinkId) (full : Bool) (failed : BitVec 16) : Nat × Bool :=
  let w := match l with | .jxl _ => 8 | .fabric _ => 4
  if full && !anyLane failed 0 (2 * w) then (2 * w, false)
  else if !anyLane failed 0 w then (w, false) else if !anyLane failed w w then (w, true) else (0, false)

/-- The lanes of a link that are in use, by number. -/
def lanesInUse (n : Nat) (high : Bool) : List Nat := (List.range n).map (fun i => if high then n + i else i)

/-- Flits that carry a message: the payload is cut into fifteen slots each; a message begins a flit (log 18). -/
def flitsOf (seq : BitVec 12) (ack : BitVec 12) (slots : List Byte) (fuel : Nat) : List Flit :=
  match fuel with
  | 0 => []
  | fuel + 1 => if slots.isEmpty then [] else
      { seq := seq, ack := ack, ftype := 0, crdClass := 0, crdSlots := 0, slots := padTo 240 slots } ::
        flitsOf (seq + 1) ack (slots.drop 240) fuel

/-- The flits a replay buffer holds (R412, R448). -/
def replayMax : LinkId → Nat
  | .jxl _ => 2048
  | .fabric _ => 1024

/-- The messages of a link in the order in which they are tried: on the fabric the Back Stair goes before all else (R450). -/
def sendOrder (l : LinkId) (h : List HeldMsg) : List HeldMsg :=
  match l with
  | .jxl _ => h
  | .fabric _ => h.filter (fun x => slotClass x.slots == 4) ++ h.filter (fun x => slotClass x.slots != 4)

/-- Sends the waiting messages of a link in order, each class by its credits and none past an earlier one of its class; the flits go
into the replay buffer, which may not overflow (R412, R416, R449, R450). -/
def LinkState.pump (k : LinkState) (l : LinkId) : LinkState :=
  (sendOrder l k.sendHeld).foldl (fun (k : LinkState) (h : HeldMsg) =>
    let c := creditKey l h.slots
    let n := (h.slots.length + 15) / 16
    let fs := flitsOf k.txSeq k.rxSeq h.slots (h.slots.length + 1)
    if k.sendHeld.any (fun x => creditKey l x.slots == c) || decide (k.credits.get 0 c < n) || decide (replayMax l < k.replay.length + fs.length) then
      { k with sendHeld := k.sendHeld ++ [h] }
    else
      { k with
        credits := k.credits.set 0 c (k.credits.get 0 c - n), replay := k.replay ++ fs,
        txSeq := k.txSeq + BitVec.ofNat 12 fs.length,
        writes := match h.write with | some w => k.writes ++ [(k.txSeq + BitVec.ofNat 12 (fs.length - 1), w)] | none => k.writes }) { k with sendHeld := [] }

end Sys2Proof.Machine
end

