-- ==== Sys2Proof/Machine/Ops.lean ====
section
/-! DEFINITION. The named operations every meaning is written over: sending, free values, register fields, numbering of dies,
cores, harts, channels and homes, and the accessors of the state's maps. -/

namespace Sys2Proof.Machine

/-- What a command answers. -/
abbrev Outcome := Host.Outcome State Fault Refusal

/-- Runs `f` while the package is powered and outside reset and the safe state; else the command finds no agent to act and
changes nothing (R105, R106, R107; log 10). -/
def gate (s : State) (f : State → State) : Outcome := if s.phase = .running then .next (f s) else .next s

/-- The state whose next free value is a new one. -/
def State.bump (s : State) : State := { s with fresh := s.fresh + 1 }

/-- The device time, a 64-bit nanosecond counter. -/
def State.now (s : State) : DWord := BitVec.ofNat 64 s.time

/-! ## Numbering -/

/-- A stack's position as row and column (Table 1-1). -/
def stackPos (k : Nat) : Nat × Nat :=
  if k < 12 then (k / 6, k % 6)
  else if k = 12 then (2, 0) else if k = 13 then (2, 1) else if k = 14 then (2, 4) else if k = 15 then (2, 5)
  else if k = 16 then (3, 0) else if k = 17 then (3, 1) else if k = 18 then (3, 4) else if k = 19 then (3, 5)
  else if k < 32 then ((k - 20) / 6 + 4, (k - 20) % 6)
  else ((k - 32) / 2 + 2, (k - 32) % 2 + 2)

/-- The stack at a position (Table 1-1). -/
def stackAt (r c : Nat) : Nat :=
  if r < 2 then r * 6 + c
  else if r < 4 then (if c < 2 then 12 + (r - 2) * 4 + c else if c < 4 then 32 + (r - 2) * 2 + (c - 2) else 12 + (r - 2) * 4 + c - 2)
  else 20 + (r - 4) * 6 + c

/-- DIE_TYPE of a die (Tables 0-3 and 1-7). -/
def dieType (d : Nat) : Nat :=
  if d < 32 then 1 else if d < 36 then 2 else if d < 68 then 3 else if d < 72 then 4 else if d < 84 then 5
  else if d < 92 then 6 else if d < 94 then 7 else if d < 96 then 8 else 9

/-- The revision of a die in the form of R56: the letter's offset from A and the digit; B1 unless its fuses say otherwise (R43). -/
def State.dieRev (s : State) (d : Nat) : Nat := s.mgmt.dieRevs.get 0x11 d
/-- DIE_REV's letter and digit (Table 1-8). -/
def State.dieRevWord (s : State) (d : Nat) : Word := BitVec.ofNat 32 ((0x41 + s.dieRev d / 16) * 256 + s.dieRev d % 16)
/-- The features every stepping of a die's type has, low word (R44, R48). -/
def dieFeatures (d : Nat) : Word := if d < 32 then 0x003F001F else 0x0001001F
/-- DIE_FEATURES, low word (R44). -/
def State.dieFeat (s : State) (d : Nat) : Word := s.mgmt.dieFeats.get (dieFeatures d) d
/-- The effective features of a die, low word (R48): the common ones of every die and its type's ones of every die of the type, limited to
those of the newest declared revision, which every revision of the type has. -/
def effFeatures (feats : List Word) (d : Nat) : Word :=
  let all := feats.foldl (· &&& ·) 0x1F
  let same := ((feats.zipIdx.filter (fun x => dieType x.2 == dieType d)).map (·.1)).foldl (· &&& ·) 0xFFFF0000
  (all ||| same) &&& dieFeatures d
/-- The features of the package's dies in die ID order. -/
def State.feats (s : State) : List Word := (List.range 100).map s.dieFeat

/-- The stack a die belongs to or attaches to (Tables 0-3 and 1-2, R24, R65). -/
def dieStack (d : Nat) : Nat :=
  if d < 36 then d else if d < 72 then d - 36 else if d < 78 then d - 72 else if d < 84 then 26 + (d - 78)
  else if d < 88 then stackAt (d - 84 + 1) 0 else if d < 92 then stackAt (d - 88 + 1) 5
  else if d = 92 then 0 else if d = 93 then 5 else if d = 94 then 26 else if d = 95 then 31 else d - 96 + 32

/-- A die outside the mesh counts one hop beyond its attaching stack; tiles count as their stack (R24). -/
def dieExtra (d : Nat) : Nat := if 72 ≤ d ∧ d < 96 then 1 else 0

/-- The hop count between two dies (R24). -/
def hops (a b : Nat) : Nat :=
  let p := stackPos (dieStack a)
  let q := stackPos (dieStack b)
  (p.1 - q.1) + (q.1 - p.1) + (p.2 - q.2) + (q.2 - p.2) + (if a = b then 0 else dieExtra a + dieExtra b)

/-- The positions a die disabled at manufacture, ascending: one of 0 to 20 on a compute die, the four of one cluster position on a CPU die
(R12, R45, R391); which ones, the fuses of the part say (`Config.disabledPos`; log 5). -/
def disabledPositions (d : Nat) : List Nat :=
  let v := (Config.disabledPos d).toNat
  if d < 32 then [v % 21] else if d < 36 then (List.range 4).map (fun i => 4 * (v % 17) + i) else []
/-- DIE_DISABLED_POS (R45). -/
def disabledWord (d : Nat) : Word :=
  BitVec.ofNat 32 ((disabledPositions d).zipIdx.foldl (fun a x => a + x.1 * 2 ^ (8 * x.2)) 0)
/-- The enabled positions of a die in ascending order: local index i is the i-th of them (R12, R13). -/
def enabledPositions (d : Nat) : List Nat :=
  (List.range (if d < 32 then 21 else if d < 36 then 68 else 0)).filter (fun p => !(disabledPositions d).contains p)
/-- The local index of an enabled position (R12, R13). -/
def localIndex (d pos : Nat) : Option Nat := (enabledPositions d).idxOf? pos
/-- The global core ID of an enabled position of a stack's compute die: stack x 20 + local index (R12). -/
def coreAtPosition (stack pos : Nat) : Option Nat := (localIndex stack pos).map (fun i => stack * 20 + i)
/-- The hart of an enabled position of a CPU die: (die - 32) x 64 + local index (R13). -/
def hartAtPosition (die pos : Nat) : Option Nat := (localIndex die pos).map (fun i => (die - 32) * 64 + i)

/-- The die that owns a core (R12). -/
def coreDie (c : Nat) : Nat := c / 20
/-- Offset `x` of a core's CSR sub-block (R131). -/
def coreOff (c x : Nat) : Nat := 0x1000000 + c % 20 * 0x10000 + x
/-- A core's master agent ID for a subunit (R14, Table 17-1). -/
def coreAgent (c sub : Nat) : Nat := coreDie c * 512 + c % 20 * 16 + sub
/-- The die of a hart (R13). -/
def hartDie (h : Nat) : Nat := 32 + h / 64
/-- The CPU cluster of a hart (R69). -/
def hartCluster (h : Nat) : Nat := h / 4
/-- The die and sub-block offset of a channel's registers (R342). -/
def chanReg : Chan → Nat × Nat
  | .attic k c => (36 + k.val, 0x30000 + 0x40 * c.val)
  | .annex c => (72 + c.val / 32, 0x30000 + 0x40 * (c.val % 32))
/-- A number for each channel: Attic stack x 16 + channel, then 576 + the Annex channel. -/
def chanIx : Chan → Nat
  | .attic k c => k.val * 16 + c.val
  | .annex c => 576 + c.val
/-- Every channel of one stack's Attic. -/
def atticChans (k : StackId) : List Chan := (List.finRange 16).map (fun c => .attic k c)
/-- Every channel of one Annex stack. -/
def annexChans (k : Fin 12) : List Chan := (List.finRange 32).map (fun c => .annex ⟨k.val * 32 + c.val, by omega⟩)

/-! ## Registers -/

/-- The key of an offset in a die's CSR block. Registers of which dies 94 and 95 hold one copy each that reads the same
(0x2_xxxx: R83, R92; 0xD_01xx: R522) are kept once, under die 94. -/
def csrKey (die off : Nat) : Nat :=
  (if die = 95 ∧ ((0x20000 ≤ off ∧ off < 0x30000) ∨ (0xD0100 ≤ off ∧ off < 0xD0200)) then 94 else die) * 2 ^ 32 + off

/-- Whether a Hallway port of a die has a neighbour: a mesh side towards another stack or an edge die (R22, R41). -/
def hallPeer (die p : Nat) : Option Nat :=
  if 36 ≤ die ∧ die < 72 then
    let (r, c) := stackPos (die - 36)
    match p % 4 with
    | 0 => if r = 0 then some (72 + c) else some (36 + stackAt (r - 1) c)
    | 1 => if c = 5 then (if r = 0 then some 93 else if r = 5 then some 95 else some (88 + r - 1)) else some (36 + stackAt r (c + 1))
    | 2 => if r = 5 then some (78 + c) else some (36 + stackAt (r + 1) c)
    | _ => if c = 0 then (if r = 0 then some 92 else if r = 5 then some 94 else some (84 + r - 1)) else some (36 + stackAt r (c - 1))
  else if 72 ≤ die ∧ die < 96 then (if p % 4 = 0 then some (36 + dieStack die) else none)
  else none

/-- The word at an offset of a die's CSR block after reset, for words the model holds as registers; zero where the spec gives
no other value (R41, R83, R342, R371, R474). DESIGN CHOICE (log 59): HAL_PORT_STATUS's offsets read ABSENT, 0xFF05, on a die or at a port
number that has no such register. -/
def csrReset (die off : Nat) : Word :=
  if off = 0x20000 ∧ (die = 94 ∨ die = 95) then 0xFFFF0000
  else if 0x10000 ≤ off ∧ off < 0x10200 ∧ off % 0x40 = 0 then (if (hallPeer die ((off - 0x10000) / 0x40)).isSome then 0xFF00 else 0xFF05)
  else if 0x30000 ≤ off ∧ off < 0x30400 ∧ off % 0x40 = 0 ∧ 36 ≤ die ∧ die < 72 then 1
  else if off = 0x60000 ∧ 32 ≤ die ∧ die < 36 then 64
  else if 0x90000 ≤ off ∧ off < 0x90200 ∧ off % 0x40 = 0 ∧ 84 ≤ die ∧ die < 92 then 0x3FFF
  else 0

/-- The 32-bit word held at an offset. -/
def State.rd (s : State) (die off : Nat) : Word := s.csr.get (csrReset die off) (csrKey die off)
/-- Writes the 32-bit word held at an offset. -/
def State.wr (s : State) (die off : Nat) (v : Word) : State := { s with csr := s.csr.set (csrReset die off) (csrKey die off) v }
/-- A 64-bit register. -/
def State.rd64 (s : State) (die off : Nat) : DWord := (s.rd die (off + 4)) ++ (s.rd die off)
/-- Writes a 64-bit register. -/
def State.wr64 (s : State) (die off : Nat) (v : DWord) : State :=
  (s.wr die off (v.setWidth 32)).wr die (off + 4) ((v >>> 32).setWidth 32)
/-- Field [hi:lo] of a 32-bit register. -/
def State.fld (s : State) (die off hi lo : Nat) : Nat := bits (s.rd die off).toNat hi lo
/-- Writes field [hi:lo] of a 32-bit register. -/
def State.setFld (s : State) (die off hi lo v : Nat) : State :=
  s.wr die off ((putField ((s.rd die off).setWidth 64) hi lo v).setWidth 32)
/-- Advances a 32-bit counter, wrapping. -/
def State.inc (s : State) (die off : Nat) (n : Nat := 1) : State := s.wr die off (s.rd die off + BitVec.ofNat 32 n)
/-- Advances a 64-bit counter, wrapping. -/
def State.inc64 (s : State) (die off : Nat) (n : Nat := 1) : State := s.wr64 die off (s.rd64 die off + BitVec.ofNat 64 n)
/-- Advances field [hi:lo], wrapping. -/
def State.incFld (s : State) (die off hi lo : Nat) : State := s.setFld die off hi lo (s.fld die off hi lo + 1)
/-- Advances field [hi:lo], saturating at its largest value. -/
def State.satFld (s : State) (die off hi lo : Nat) (n : Nat := 1) : State :=
  s.setFld die off hi lo (min (s.fld die off hi lo + n) (2 ^ (hi - lo + 1) - 1))

/-- MGT_SL_STATUS.LEVEL (R92). -/
def State.level (s : State) : Nat := s.fld 94 0x20100 3 0
/-- MGT_PART_STATE of a partition (Table 3-3). -/
def State.partState (s : State) (p : Nat) : Nat := s.fld 94 (0x20180 + 4 * p) 3 0
/-- Sets MGT_PART_STATE. -/
def State.setPartState (s : State) (p v : Nat) : State := s.setFld 94 (0x20180 + 4 * p) 3 0 v
/-- Whether a die is online (Table 3-3). -/
def State.dieOnline (s : State) (d : Nat) : Bool :=
  if d < 64 then bitAt (s.rd64 94 0x20130).toNat d else bitAt (s.rd64 94 0x20138).toNat (d - 64)
/-- Sets or clears a die's online bit. -/
def State.setOnline (s : State) (d : Nat) (v : Bool) : State :=
  let off := if d < 64 then 0x20130 else 0x20138
  s.wr64 94 off (putField (s.rd64 94 off) (d % 64) (d % 64) (b2n v))
/-- Whether a compute die is in checked mode (R96). -/
def State.checked (s : State) (d : Nat) : Bool := bitAt (s.rd64 94 0x20140).toNat d
/-- Sets or clears a die's checked-mode bit. -/
def State.setChecked (s : State) (d : Nat) (v : Bool) : State :=
  s.wr64 94 0x20140 (putField (s.rd64 94 0x20140) d d (b2n v))

/-- MGT_SL_STATUS: its held fields with ONLINE and CHECKED, the counts of compute dies online and in checked mode (Table 3-2). -/
def State.slStatus (s : State) : Word :=
  let n (p : Nat → Bool) : Nat := ((List.range 32).filter p).length
  s.rd 94 0x20100 ||| BitVec.ofNat 32 (n s.dieOnline * 2 ^ 24 + n s.checked * 2 ^ 18)

/-! ## Accessors of the maps -/

def State.core (s : State) (c : Nat) : Core := s.cores.get Core.reset c
def State.setCore (s : State) (c : Nat) (k : Core) : State := { s with cores := s.cores.set Core.reset c k }
def State.modCore (s : State) (c : Nat) (f : Core → Core) : State := s.setCore c (f (s.core c))
def State.port (s : State) (p : HalPort) : HallPort := s.hall.get HallPort.reset (p.die.val * 8 + p.p.val)
def State.setPort (s : State) (p : HalPort) (k : HallPort) : State :=
  { s with hall := s.hall.set HallPort.reset (p.die.val * 8 + p.p.val) k }
def State.chan (s : State) (c : Chan) : Channel := s.channels.get Channel.reset (chanIx c)
def State.setChan (s : State) (c : Chan) (k : Channel) : State := { s with channels := s.channels.set Channel.reset (chanIx c) k }
/-- A channel's STATE field (Table 11-11). -/
def State.chanState (s : State) (c : Chan) : Nat := s.fld (chanReg c).1 (chanReg c).2 31 28
def State.setChanState (s : State) (c : Chan) (v : Nat) : State := s.setFld (chanReg c).1 (chanReg c).2 31 28 v
def State.line (s : State) (l : Nat) : HomeLine := s.lines.get HomeLine.reset l
def State.setLine (s : State) (l : Nat) (k : HomeLine) : State := { s with lines := s.lines.set HomeLine.reset l k }
def State.l2 (s : State) (n : Nat) : L2 := s.l2s.get L2.reset n
def State.setL2 (s : State) (n : Nat) (k : L2) : State := { s with l2s := s.l2s.set L2.reset n k }
def State.baseCache (s : State) (k : Nat) : BaseCache := s.bases.get BaseCache.reset k
def State.setBase (s : State) (k : Nat) (b : BaseCache) : State := { s with bases := s.bases.set BaseCache.reset k b }
def State.hart (s : State) (h : Nat) : Hart := s.harts.get Hart.reset h
def State.setHart (s : State) (h : Nat) (k : Hart) : State := { s with harts := s.harts.set Hart.reset h k }
def State.fn (s : State) (p : Nat) : Fn := s.fns.get Fn.reset p
def State.setFn (s : State) (p : Nat) (k : Fn) : State := { s with fns := s.fns.set Fn.reset p k }
def State.sq (s : State) (p q : Nat) : Option Sq := s.sqs.get none (p * 4096 + q)
def State.setSq (s : State) (p q : Nat) (k : Option Sq) : State := { s with sqs := s.sqs.set none (p * 4096 + q) k }
def State.cq (s : State) (p q : Nat) : Option Cq := s.cqs.get none (p * 4096 + q)
def State.setCq (s : State) (p q : Nat) (k : Option Cq) : State := { s with cqs := s.cqs.set none (p * 4096 + q) k }
def State.col (s : State) (j : Nat) : Option Collective := s.cols.get none j
def State.setCol (s : State) (j : Nat) (k : Option Collective) : State := { s with cols := s.cols.set none j k }
def State.leaf (s : State) (d : Nat) : Leaf := s.leaves.get Leaf.reset d
def State.setLeaf (s : State) (d : Nat) (k : Leaf) : State := { s with leaves := s.leaves.set Leaf.reset d k }
def State.root (s : State) (r95 : Bool) : Root := if r95 then s.root95 else s.root94
def State.setRoot (s : State) (r95 : Bool) (k : Root) : State := if r95 then { s with root95 := k } else { s with root94 := k }
def State.steward (s : State) (d : Nat) : Steward := s.stewards.get Steward.reset d
def State.setSteward (s : State) (d : Nat) (k : Steward) : State := { s with stewards := s.stewards.set Steward.reset d k }
/-- The key of a link's state: a Jexesk Link port, then the fabric ports. -/
def linkIx : LinkId → Nat
  | .jxl p => p.val
  | .fabric p => 2 + p.val
def State.link (s : State) (l : LinkId) : LinkState := s.links.get LinkState.reset (linkIx l)
def State.setLink (s : State) (l : LinkId) (k : LinkState) : State := { s with links := s.links.set LinkState.reset (linkIx l) k }
def State.modMgmt (s : State) (f : Mgmt → Mgmt) : State := { s with mgmt := f s.mgmt }

/-- The die of a Jexesk Link port (R407). -/
def jxlDie (p : Nat) : Nat := 92 + p
/-- JXL_PORT_STATUS.STATE (Table 15-15). -/
def State.jxlState (s : State) (p : Nat) : Nat := s.fld (jxlDie p) 0x80000 31 28
/-- The die and register offset of a fabric port (R445, R474). -/
def fabReg (p : Nat) : Nat × Nat := (84 + p / 8, 0x90000 + 0x40 * (p % 8))
/-- DSF_PORT_STATUS.STATE (Table 16-15). -/
def State.fabState (s : State) (p : Nat) : Nat := s.fld (fabReg p).1 (fabReg p).2 31 28

/-! ## Sending -/

/-- The die and offset of a link's status register; its counters stand beside it (R444, R474). -/
def linkReg : LinkId → Nat × Nat
  | .jxl p => (92 + p.val, 0x80000)
  | .fabric p => fabReg p.val
def State.linkSt (s : State) (l : LinkId) : Nat := s.fld (linkReg l).1 (linkReg l).2 31 28
def State.setLinkSt (s : State) (l : LinkId) (v : Nat) : State := s.setFld (linkReg l).1 (linkReg l).2 31 28 v

/-- A packet enters the Hallway for another die, on a channel: the source die counts it for that die, and it carries the number (R26, R27). -/
def State.inject (s : State) (src dst : Nat) (vc : HalVc) (m : Msg) : State :=
  if src = dst then s
  else
    let n := (s.hallSeq.get 0 (src * 128 + dst) + 1) % 2 ^ 24
    { s with hallSeq := s.hallSeq.set 0 (src * 128 + dst) n, hallOut := s.hallOut ++ [{ src := src, dst := dst, seq := n, vc := vc, msg := m }] }

/-- One nanosecond passes while the package has power; while device time is steered, the counter takes one more or one less nanosecond as often as the
parts per million ask (R439). -/
def State.tick (s : State) : State :=
  if s.phase = .off then s
  else
    let a := s.steerSum + s.steer
    if 1000000 ≤ a then { s with time := s.time + 2, steerSum := a - 1000000 }
    else if a ≤ -1000000 then { s with steerSum := a + 1000000 }
    else { s with time := s.time + 1, steerSum := a }

/-- Puts a message among those the device has sent. -/
def State.out (s : State) (m : Msg) : State := { s with sent := s.sent ++ [m] }

/-- Sends a message: a message of a link waits in it, and goes out in flits while the link is ACTIVE (R412, R413, R416). `w` says what it is
of a host write. -/
def State.sendTagged (s : State) (w : Option WriteTag) (m : Msg) : State :=
  let s := s.out m
  match m.wire with
  | none => s
  | some (l, ms) =>
    let k := s.link l
    let k := { k with sendHeld := k.sendHeld ++ ms.map (fun b => { slots := b, write := w }) }
    if s.linkSt l = 2 then s.setLink l (k.pump l) else if s.linkSt l = 3 then s.setLink l k else s

/-- The node number of this package, where the configuration gives one (R66, R373). -/
def State.nodeId (s : State) : Option Nat := (s.flp.bind (·.fabric)).map (·.nodeId)

/-- The active route-table epoch (Table 16-13). -/
def State.epoch (s : State) : Bool := s.fld 84 0x90800 16 16 == 1

/-- Writes a word of DSF_RT_STAGE: the standby route table is replaced, and holds no table till the commit (R454; log 23). -/
def State.stageWord (s : State) (o : Nat) (v : Word) : State :=
  { s.wr 84 (0xB0000 + o) v with tables := s.tables.del (b2n (!s.epoch)) }

/-- Starts a retrain: the link's traffic is held, and the retrain counts (R413, R448). -/
def State.startRetrain (s : State) (l : LinkId) : State :=
  if s.linkSt l = 2 then
    let s := s.setLink l { s.link l with attempts := 0 }
    let off := match l with | .jxl _ => 0x20 | .fabric _ => 0x18
    (s.inc (linkReg l).1 ((linkReg l).2 + off)).setLinkSt l 3
  else s

/-- The LANES of a link. -/
def State.lanes (s : State) (l : LinkId) : Nat :=
  match l with
  | .jxl _ => s.fld (linkReg l).1 (linkReg l).2 23 16
  | .fabric _ => s.fld (linkReg l).1 (linkReg l).2 23 20
/-- Sets the lanes a link uses: how many, and whether they are its upper half (R408, R446). -/
def State.setLanes (s : State) (l : LinkId) (x : Nat × Bool) : State :=
  let s := s.setLink l { s.link l with high := x.2 }
  match l with
  | .jxl _ => s.setFld (linkReg l).1 (linkReg l).2 23 16 x.1
  | .fabric _ => s.setFld (linkReg l).1 (linkReg l).2 23 20 x.1

/-- A fabric port trains anew: it exchanges nothing, has no lanes, and knows neither a version nor its peer (R474). -/
def State.untrainPort (s : State) (p : FabPort) : State :=
  let l : LinkId := .fabric p
  let s := (s.setLink l { LinkState.reset with failed := (s.link l).failed }).setLinkSt l 1
  ((s.setFld (linkReg l).1 (linkReg l).2 23 20 0).setFld (linkReg l).1 (linkReg l).2 27 24 0).setFld (linkReg l).1 (linkReg l).2 13 0 0x3FFF

/-- Whether a channel's stack is throttled (R331). -/
def State.chanThrottled (s : State) (c : Chan) : Bool := s.fld (chanReg c).1 (chanReg c).2 26 26 == 1

/-- Notes that a channel or port has entered service since bring-up began (R89). -/
def State.noteServed (s : State) (k : UnitKind) (n : Nat) : State :=
  { s with served := if s.served.contains (k, n) then s.served else s.served ++ [(k, n)] }

/-- Sends a message that no queue's host write is. -/
def State.send (s : State) (m : Msg) : State := s.sendTagged none m

/-- Sends a message on the Back Stair, the one channel of stop, fence and abort commands, of power tokens and of fault notices (R26): to one die, or
to every other die where the destination is 0xFF. -/
def State.stair (s : State) (kind src dst : Nat) (body : List Nat) : State :=
  let m : Msg := .backStair kind src dst body
  ((if dst = 0xFF then List.range 100 else [dst]).foldl (fun s d => s.inject src d .backStair m) s).send m

/-- Sends a Back Stair notice of a node by an ACTIVE fabric port, whichever partition owns it (R450, R451). -/
def State.sendNotice (s : State) (p : FabPort) (kind node dst : Nat) (body : List Byte) : State :=
  s.send (.notice p kind node dst s.epoch body)
/-- Sends a Back Stair notice to the node next to a port. -/
def State.sendPeer (s : State) (p : FabPort) (kind node : Nat) (body : List Byte) : State :=
  s.sendNotice p kind node (s.fld (fabReg p.val).1 (fabReg p.val).2 13 0) body
/-- Sends node-down of a node by a port: a flit of FTYPE 5 (R447, Table 16-4), with the node where a version token has it (log 23). -/
def State.sendNodeDown (s : State) (p : FabPort) (node : Nat) : State :=
  s.send (.linkFlit (.fabric p) { seq := 0, ack := 0, ftype := 5, crdClass := 0, crdSlots := 0, slots := padTo 240 ([0, 0] ++ leBytes 2 node) })

/-- Whether an interrupt to a target of a root is covered by one sent to it within 10 µs (R486). -/
def State.covered (s : State) (r95 : Bool) (k : Nat) : Bool :=
  let t := (s.root r95).lastSent.get 0 k
  t != 0 && decide (s.time < t - 1 + 10000)
/-- Notes that a target has been interrupted now. -/
def State.markSent (s : State) (r95 : Bool) (k : Nat) : State :=
  s.setRoot r95 { s.root r95 with lastSent := (s.root r95).lastSent.set 0 k (s.time + 1) }
/-- Writes an FC_PART_CPU_MSI register: an interrupt that waits is sent when MASK clears, unless an earlier one covers it (R486). -/
def State.cpuMsiSet (s : State) (r95 : Bool) (p : Nat) (addr : DWord) (value : Word) (mask : Bool) : State :=
  let e := (s.root r95).cpuMsi.get MsiEntry.reset p
  let s := s.setRoot r95 { s.root r95 with
    cpuMsi := (s.root r95).cpuMsi.set MsiEntry.reset p { addr := addr, value := value, mask := mask, pending := e.pending && mask } }
  if e.pending && !mask && addr != 0 && !s.covered r95 p then (s.send (.msi addr value)).markSent r95 p else s

/-! ## The configuration in force -/

/-- The partition entry of a partition. -/
def State.partEntry (s : State) (p : Nat) : Option PartEntry := s.flp.bind (fun f => f.parts.find? (fun e => e.id == p))
/-- The partition that owns a core (R58). -/
def State.corePart (s : State) (c : Nat) : Option Nat :=
  s.flp.bind (fun f => (f.parts.find? (fun e => e.cores.getLsbD c)).map (·.id))
/-- The partition that owns a hart (R58). -/
def State.hartPart (s : State) (h : Nat) : Option Nat :=
  s.flp.bind (fun f => (f.parts.find? (fun e => e.harts.getLsbD h)).map (·.id))
/-- The cores of a partition, ascending. -/
def State.partCores (s : State) (p : Nat) : List Nat :=
  match s.partEntry p with
  | some e => (List.range 640).filter (fun c => e.cores.getLsbD c)
  | none => []
/-- The harts of a partition, ascending. -/
def State.partHarts (s : State) (p : Nat) : List Nat :=
  match s.partEntry p with
  | some e => (List.range 256).filter (fun h => e.harts.getLsbD h)
  | none => []
/-- Section 0x08's entry of a partition. -/
def State.linkPart (s : State) (p : Nat) : LinkPartCfg :=
  match s.flp with
  | some f => (f.linkParts[p]?).getD { port := 0, slot256 := false, queues := 64 }
  | none => { port := 0, slot256 := false, queues := 64 }
/-- The Jexesk Link port of a partition (R67). -/
def State.partPort (s : State) (p : Nat) : Nat := (s.linkPart p).port
/-- Whether host accesses of a partition can be performed: its port is enabled and neither DOWN nor LOST (R408, R442). -/
def State.hostReachable (s : State) (p : Nat) : Bool :=
  let st := s.jxlState (s.partPort p)
  st == 2 || st == 3

/-- Runs a change of state over the elements of a list in order. -/
def overList {α : Type} (s : State) (l : List α) (f : State → α → State) : State := l.foldl f s

end Sys2Proof.Machine
end

