-- ==== Sys2Proof/Machine/Pool.lean ====
section
/-! DEFINITION. The Pool: where a local address lies (R320 to R326), what a line holds with the copies of the caches taken into
account (R358 in one step), and the accesses of agents that hold no copy (R354). The physical place of an Attic byte is
stack x 2^33 + offset, of an Annex byte 2^40 + channel x 2^31 + offset. -/

namespace Sys2Proof.Machine

/-- The hash of R326. -/
def fold (z : DWord) : Nat :=
  let z := z ^^^ (z >>> 32)
  let z := z ^^^ (z >>> 16)
  (z &&& 0xFFFF).toNat

/-- The bytes of a member that sets of lower SET_ID claim (R325). -/
def claimedBelow (sets : List IntSet) (x : IntSet) (m : Nat) : Nat :=
  ((sets.filter (fun y => y.annex == x.annex && decide (y.setId < x.setId) && y.members.contains m)).map (·.perMember)).sum

/-- claim_base(m) of R325. -/
def claimBase (sets : List IntSet) (x : IntSet) (m : Nat) : Nat :=
  if x.annex then claimedBelow sets x m else 2 ^ 33 - claimedBelow sets x m - x.perMember

/-- The bytes of an Attic stack that sets claim; the local region holds the rest (R324, R325). -/
def atticClaimed (sets : List IntSet) (k : Nat) : Nat :=
  ((sets.filter (fun y => !y.annex && y.members.contains k)).map (·.perMember)).sum

/-- The physical place of a local address in a set (R326). -/
def placeInSet (sets : List IntSet) (x : IntSet) (a : Nat) : Option Nat :=
  let n := x.members.length
  if n = 0 then none
  else if a < x.base ∨ x.base + n * x.perMember ≤ a then none
  else
    let g := (a - x.base) / 2 ^ x.granuleLog2
    let lo := (a - x.base) % 2 ^ x.granuleLog2
    let q := g / n
    let r := g % n
    let i := (r + fold (BitVec.ofNat 64 q ^^^ x.key)) % n
    let m := x.members.getD i 0
    let mo := claimBase sets x m + q * 2 ^ x.granuleLog2 + lo
    some (if x.annex then 2 ^ 40 + m * 2 ^ 31 + mo else m * 2 ^ 33 + mo)

/-- The interleave sets in force. -/
def State.intSets (s : State) : List IntSet := (s.flp.map (·.sets)).getD []

/-- Whether the last load left the local region of an Attic stack unbacked, its stack being fenced (R82, R340). -/
def State.deadStack (s : State) (k : Nat) : Bool := (s.flp.map (·.deadStacks.contains k)).getD false

/-- The physical place of a local address; none where it is unbacked (R324, R340). -/
def State.place (s : State) (a : Nat) : Option Nat :=
  let sets := s.intSets
  if a < 36 * 2 ^ 33 then
    (if a % 2 ^ 33 < 2 ^ 33 - atticClaimed sets (a / 2 ^ 33) ∧ !s.deadStack (a / 2 ^ 33) then some a else none)
  else sets.findSome? (fun x => placeInSet sets x a)

/-- The local address of a physical place: the inverse of R326; the place itself where no set claims it. -/
def State.localOf (s : State) (ph : Nat) : Nat :=
  let sets := s.intSets
  let annex := decide (2 ^ 40 ≤ ph)
  let m := if annex then (ph - 2 ^ 40) / 2 ^ 31 else ph / 2 ^ 33
  let mo := if annex then (ph - 2 ^ 40) % 2 ^ 31 else ph % 2 ^ 33
  (sets.findSome? (fun x =>
    let cb := claimBase sets x m
    if x.annex == annex && x.members.contains m && decide (cb ≤ mo) && decide (mo < cb + x.perMember) then
      let n := x.members.length
      let q := (mo - cb) / 2 ^ x.granuleLog2
      let i := (x.members.idxOf m)
      let r := (i + n - fold (BitVec.ofNat 64 q ^^^ x.key) % n) % n
      some (x.base + (q * n + r) * 2 ^ x.granuleLog2 + (mo - cb) % 2 ^ x.granuleLog2)
    else none)).getD ph

/-- The channel of a physical place (R320, R321). -/
def chanOf (ph : Nat) : Option Chan :=
  if ph < 36 * 2 ^ 33 then
    let o := ph % 2 ^ 33
    if h : ph / 2 ^ 33 < 36 then
      some (.attic ⟨ph / 2 ^ 33, h⟩ ⟨(bits o 10 7 ^^^ bits o 18 15) % 16, Nat.mod_lt _ (by decide)⟩)
    else none
  else if h : (ph - 2 ^ 40) / 2 ^ 31 < 384 ∧ 2 ^ 40 ≤ ph then some (.annex ⟨(ph - 2 ^ 40) / 2 ^ 31, h.1⟩)
  else none

/-- The bank and row of a physical place, with pseudo-channel and stack ID in the bank number (R320, R323). -/
def bankRow (ph : Nat) : Nat × Nat :=
  if ph < 2 ^ 40 then
    let o := ph % 2 ^ 33
    (bits o 19 15 ^^^ bits o 24 20, bits o 32 20)
  else
    let o := (ph - 2 ^ 40) % 2 ^ 31
    ((bits o 14 11 ^^^ bits o 18 15) + 16 * bits o 30 29 + 48 * bits o 7 7, bits o 28 15)

/-- The home of a physical place, in die 36 + h (R353). -/
def homeOf (ph : Nat) : Nat := if ph < 2 ^ 40 then ph / 2 ^ 33 else 36 + (ph - 2 ^ 40) / 2 ^ 31 / 32
/-- The home's die. -/
def homeDie (ph : Nat) : Nat := 36 + homeOf ph

/-- HA_STATUS.OPEN: the lines of a home with an open transaction (Table 12-10). -/
def State.homeOpen (s : State) (h : Nat) : Nat :=
  (s.lines.cells.filter (fun c => homeOf (c.1 * 128) == h && c.2.txn.isSome)).length
/-- Whether the channel of a line is fenced (R341). -/
def State.lineFenced (s : State) (l : Nat) : Bool :=
  match chanOf (l * 128) with
  | some c => s.chanState c == 4
  | none => true

/-- Whether an access to a line waits at its channel: the channel is in HOLD, or a request of the home to the line was returned with "retry" and is
to be sent again (R339). -/
def State.lineHeld (s : State) (l : Nat) : Bool :=
  match chanOf (l * 128) with
  | some c => s.chanState c == 3 || (s.chan c).back.any (fun r => r.line == l)
  | none => false

/-- The rows that are refreshed with a row of a bank of `rows` rows: its neighbours within the bank (R332). -/
def rowNeighbours (key rows : Nat) : List Nat :=
  (if key % 2 ^ 16 = 0 then [] else [key - 1]) ++ (if key % 2 ^ 16 + 1 < rows then [key + 1] else [])

/-- Whether the `n`-th activation of a row has its neighbours refreshed: each 4,096th, and in the Annex each that reaches the threshold the core
dies report (R332, Table 11-5). -/
def disturbs (c : Chan) (n : Nat) : Bool :=
  n % 4096 == 0 || (match c with | .annex a => n % (Config.rowThreshold a.val + 1) == 0 | .attic _ _ => false)

/-- An access opens its row: an activation counts, and the neighbouring rows are refreshed when the count asks for it (R332). -/
def State.activate (s : State) (c : Chan) (line : Nat) : State :=
  let (bank, row) := bankRow (line * 128)
  let k := s.chan c
  if k.openRow.get 0 bank = row + 1 then s
  else
    let key := bank * 2 ^ 16 + row
    let n := k.activated.get 0 key + 1
    let near := rowNeighbours key (match c with | .attic _ _ => 8192 | .annex _ => 16384)
    let k := { k with openRow := k.openRow.set 0 bank (row + 1), activated := k.activated.set 0 key n }
    s.setChan c (if disturbs c n then { k with disturbed := k.disturbed ++ near, refreshes := k.refreshes + near.length } else k)

/-- A transfer of a line at its channel: its row is opened and LINES advances (R332, R342). A fenced channel transfers nothing (R341). -/
def State.countLine (s : State) (l : Nat) : State :=
  match chanOf (l * 128) with
  | some c => if s.chanState c = 4 then s else (s.activate c l).inc64 (chanReg c).1 ((chanReg c).2 + 0x18)
  | none => s

/-- The home of a line as an agent (Table 17-1). -/
def homeAgent (l : Nat) : Nat := homeDie (l * 128) * 512 + (if homeDie (l * 128) < 72 then 16 else 32)

/-- A request of the line's home to its channel in HOLD: it waits in the hold queue. With 512 waiting it is returned with "retry", and the home keeps
it, behind any other of its line, to send it again (R339). -/
def State.holdHome (s : State) (l : Nat) (write : Bool) (mask : BitVec 128) (data : List Byte) (poison : Bool) : State :=
  match chanOf (l * 128) with
  | some c =>
    let k := s.chan c
    let r : ChanReq := { agent := homeAgent l, write := write, line := l, mask := mask, data := data, poison := poison }
    s.setChan c (if 512 ≤ k.hold.length ∨ k.back.any (fun x => x.line == l) then { k with back := k.back ++ [r] } else { k with hold := k.hold ++ [r] })
  | none => s

/-- A line's bytes in memory. -/
def State.memLine (s : State) (l : Nat) : List Byte := s.pool.getRun 0 (l * 128) 128
/-- Whether memory delivers poison for a line (R337, R341). -/
def State.memBad (s : State) (l : Nat) : Bool := s.poolBad.contains l || s.lineFenced l

/-- Lists or unlists a line as poisoned. -/
def State.setBad (s : State) (l : Nat) (v : Bool) : State :=
  { s with poolBad := if v then (if s.poolBad.contains l then s.poolBad else l :: s.poolBad) else s.poolBad.filter (· != l) }

/-- The bytes of a line with the masked ones replaced; byte i of `data` is byte i of the line. -/
def mergeLine (old : List Byte) (mask : BitVec 128) (data : List Byte) : List Byte :=
  (List.range 128).map (fun i => if mask.getLsbD i then data.getD i 0 else old.getD i 0)

/-- The mask of all bytes of a line. -/
def fullMask : BitVec 128 := BitVec.allOnes 128

/-- A write that a channel performs: a whole line stores new data and clears poison unless it carries poison; a masked write leaves a poisoned
line poisoned and discards its bytes (R337). A masked write of the Annex is a line read, a merge and a line write (R334). -/
def State.memStore (s : State) (l : Nat) (mask : BitVec 128) (data : List Byte) (poison : Bool) : State :=
  let s := if mask = fullMask ∨ l * 128 < 2 ^ 40 then s else s.countLine l
  let s := s.countLine l
  if poison then s.setBad l true
  else if mask = fullMask then ({ s with pool := s.pool.setRun 0 (l * 128) (mergeLine [] fullMask data) }).setBad l false
  else if s.poolBad.contains l then s
  else { s with pool := s.pool.setRun 0 (l * 128) (mergeLine (s.memLine l) mask data) }

/-- A write at the line's channel: discarded and counted where the channel is fenced (R341), waiting where it is in HOLD (R339), else
performed. -/
def State.memWrite (s : State) (l : Nat) (mask : BitVec 128) (data : List Byte) (poison : Bool) : State :=
  if s.lineFenced l then
    match chanOf (l * 128) with
    | some c => s.satFld (chanReg c).1 ((chanReg c).2 + 0x10) 31 0
    | none => s
  else if s.lineHeld l then s.holdHome l true mask data poison
  else s.memStore l mask data poison

/-- The L2 that owns a line in M, O or E, if any. -/
def State.ownerOf (s : State) (l : Nat) : Option (Nat × L2Line) :=
  s.l2s.cells.findSome? (fun c =>
    match c.2.lines.cells.find? (fun x => x.1 == l) with
    | some x => if x.2.st == .M || x.2.st == .O || x.2.st == .E then some (c.1, x.2) else none
    | none => none)

/-- The data of a current write-back or cleaning still in an L2's write-back buffer (R362). -/
def State.inBuffer (s : State) (l : Nat) : Option CohMsg :=
  s.l2s.cells.findSome? (fun c => (c.2.buffer.find? (fun b => b.2.line == l && b.2.gseq == (s.line l).gseq)).map (·.2))

/-- The line buffer of the home's memory-side atomic unit that holds a line (R367). -/
def State.buffered (s : State) (l : Nat) : Option (List Byte) :=
  ((s.msau.get [] (homeOf (l * 128))).find? (fun b => b.1 == l)).map (·.2)

/-- The port the companion's coherence messages take: the lowest-numbered port that carries traffic (log 15). -/
def State.compPort (s : State) : Option Nat :=
  (List.range 2).find? (fun p => s.jxlState p == 2 || s.jxlState p == 3)

/-- The window of a partition that holds a local address with the access asked for (R62, R374). -/
def State.windowOf (s : State) (p a : Nat) (write atomic : Bool) : Option Window :=
  match s.flp with
  | none => none
  | some f => f.windows.find? (fun w => w.part == p && decide (w.base ≤ a) && decide (a < w.base + w.size)
      && (if atomic then w.read && w.write else if write then w.write else w.read))

/-- The function that a message about a Pool line, for no transaction of the companion's, names: the lowest partition of the port whose windows hold the
line (R415; log 18). -/
def State.lineFn (s : State) (p l : Nat) : Nat :=
  ((List.range 8).find? (fun q => s.partPort q == p && (s.windowOf q (s.localOf (l * 128)) false false).isSome)).getD 0

/-- Sends a coherence message to the companion by a port, with the header's own fields: a Pool line travels by its link address (R415, R418), Retry
carries RETRY and poisoned data POISON (R418). -/
def State.sendLinkCoh (s : State) (p : JxlPort) (code fn : Nat) (w : Option WriteTag) (m : CohMsg) : State :=
  let addr := if 2 ^ 45 ≤ m.line then m.line * 128 % 2 ^ 52 else s.localOf (m.line * 128)
  s.sendTagged w (.linkCoh p code {
    fn := fn, addr := addr, aux := if code = 7 then m.aux else 0,
    status := if code = 0x17 then 6 else if m.poison && (code == 0x10 || code == 0x11) then 4 else 0 } m)

/-- Whether the directory names the companion as a line's owner (R352, R419). -/
def State.compOwns (s : State) (l : Nat) : Bool :=
  match (s.line l).entry with | some e => e.st != .S && e.owner == 100 | none => false

/-- Whether the directory names the companion at a line, as owner or sharer. -/
def State.compNamed (s : State) (l : Nat) : Bool :=
  match (s.line l).entry with
  | some e => (e.st != .S && e.owner == 100) || (if e.coarse then e.sharers.contains 25 else e.sharers.contains 100)
  | none => false

/-- What a read of a line delivers: the unit's buffer, an owner's data, or memory, with its poison (R358). What
the companion holds is a free value: the accesses that can wait take it back first (log 20). -/
def State.lineNow (s : State) (l : Nat) : List Byte × Bool :=
  match s.buffered l with
  | some d => (d, false)
  | none =>
    if s.compOwns l then (leBytes 128 (Config.companionLine l s.fresh), false)
    else match s.ownerOf l with
    | some (_, x) => (x.data, x.poison)
    | none =>
      match s.inBuffer l with
      | some m => (m.data, m.poison)
      | none => (s.memLine l, s.memBad l)

/-- The agents an entry names as sharers; a coarse vector names every agent of its marked groups. -/
def DirEntry.members (e : DirEntry) : List Nat :=
  if e.coarse then (e.sharers.flatMap (fun g => (List.range 4).map (fun i => 4 * g + i))).filter (fun a => decide (a ≤ 100)) else e.sharers
/-- The stack of a caching agent on the package. -/
def agentStack (a : Nat) : Nat := if a < 36 then a else 32 + (a - 36) / 16
/-- Whether an agent answers snoops: it is not fenced, and the companion is reachable (R369, R442). -/
def State.agentLive (s : State) (a : Nat) : Bool :=
  if a = 100 then s.compPort.isSome else a != 127 && !s.fencedU.contains (.cacheAgent, a)

/-- The nearest named on-package sharer to a stack; the lowest agent ID on a tie (R363). -/
def State.nearest (s : State) (as : List Nat) (stack : Nat) : Option Nat :=
  (as.filter (fun a => decide (a < 100) && s.agentLive a)).foldl (fun best a =>
    match best with
    | none => some a
    | some b =>
      let x := hops (36 + agentStack a) (36 + stack)
      let y := hops (36 + agentStack b) (36 + stack)
      if x < y ∨ (x = y ∧ a < b) then some a else some b) none

/-- What the nearest sharer supplies to a reader of a stack that is not itself the sharer asked: none where the entry names an owner or no
other sharer, or where the sharer no longer holds the line (R363). -/
def State.sharerData (s : State) (l stack self : Nat) : Option (List Byte × Bool) :=
  match (s.line l).entry with
  | none => none
  | some e =>
    if e.st = .S then
      match s.nearest (e.members.filter (· != self)) stack with
      | none => none
      | some a =>
        if a < 36 then ((s.baseCache a).lines.cells.find? (fun x => x.1 == l)).map (fun x => (x.2, false))
        else ((s.l2 (a - 36)).lines.cells.find? (fun x => x.1 == l)).map (fun x => (x.2.data, x.2.poison))
    else none

/-- What a read of a line delivers to an agent of a stack: a sharer's copy, else what `lineNow` says (R358, R363). `self` is the caching
agent that reads; 128 is none. -/
def State.lineRead (s : State) (l : Nat) (stack : Nat := dieStack (homeDie (l * 128))) (self : Nat := 128) : List Byte × Bool :=
  match s.sharerData l stack self with
  | some d => d
  | none => s.lineNow l

/-- Counts a read: by FWD_SHARER at the home where a sharer supplies the line, by the channel's LINES where memory does. -/
def State.countRead (s : State) (l stack self : Nat) : State :=
  if (s.sharerData l stack self).isSome then s.inc64 (homeDie (l * 128)) 0x40028
  else if (s.ownerOf l).isSome || (s.inBuffer l).isSome then s else s.countLine l

/-- Whether a new access to the line waits: a transaction is open on it (R360), its channel is in HOLD (R339), or an LR delays the answer to its
snoop (R397). -/
def State.lineBlocked (s : State) (l : Nat) : Bool :=
  (s.line l).txn.isSome || s.lineHeld l || s.harts.cells.any (fun (x : Nat × Hart) => x.2.delay && x.2.resv == some l)

/-- The L1 caches of a CPU core without a line. -/
def CpuL1.drop (k : CpuL1) (l : Nat) : CpuL1 := { i := k.i.filter (· != l), d := k.d.filter (· != l) }

/-- Whether putting a line into one of the L1 caches of a CPU core drops another: the line is not held and its set is full. -/
def CpuL1.full (k : CpuL1) (fetch : Bool) (l : Nat) : Bool :=
  let c := if fetch then k.i else k.d
  !c.contains l && decide (4 ≤ (c.filter (fun v => v % 128 == l % 128)).length)

/-- The L1 caches of a CPU core with a line put into one of them: 128 sets of 4 ways; a full set drops a line, chosen freely by `r`
(R343; log 17). -/
def CpuL1.fill (k : CpuL1) (fetch : Bool) (l r : Nat) : CpuL1 :=
  let put (c : List Nat) : List Nat :=
    let same := c.filter (fun v => v % 128 == l % 128 && v != l)
    let c := if same.length < 4 || c.contains l then c else c.filter (· != same.getD (r % same.length) 0)
    if c.contains l then c else c ++ [l]
  if fetch then { k with i := put k.i } else { k with d := put k.d }

/-- Invalidates a line in the L1 caches of the cores of a cluster (R345). -/
def State.dropL1 (s : State) (n l : Nat) : State :=
  { s with l1s := s.l1s.mapCells CpuL1.reset (fun h k => if h / 4 = n then k.drop l else k) }

/-- Removes a line from every cache of the package, with the LR reservations on it (R345, R358, R397), and the unit's buffer. -/
def State.dropCopies (s : State) (l : Nat) : State :=
  { s with
    l2s := ⟨s.l2s.cells.map (fun c => (c.1, { c.2 with lines := c.2.lines.del l }))⟩,
    l1s := s.l1s.mapCells CpuL1.reset (fun _ k => k.drop l),
    bases := ⟨s.bases.cells.map (fun c => (c.1, { c.2 with lines := c.2.lines.del l }))⟩,
    harts := ⟨s.harts.cells.map (fun c => (c.1, if c.2.resv = some l then { c.2 with resv := none } else c.2))⟩,
    cores := ⟨s.cores.cells.map (fun c => (c.1, if c.2.resv = some l then { c.2 with resv := none } else c.2))⟩,
    msau := ⟨s.msau.cells.map (fun c => (c.1, c.2.filter (fun b => b.1 != l)))⟩ }

/-- The memory-side atomic unit writes a buffered line back, and its entry clears (R367). -/
def State.msauRelease (s : State) (l : Nat) : State :=
  match s.buffered l with
  | none => s
  | some d =>
    let s := s.memWrite l fullMask d false
    let h := homeOf (l * 128)
    let s := { s with msau := s.msau.set [] h ((s.msau.get [] h).filter (fun b => b.1 != l)) }
    s.setLine l { s.line l with entry := none }

/-- A read of a line by an agent of a stack that keeps no copy (RdNA): the state after it, the data and its poison. -/
def State.readLine (s : State) (l : Nat) (stack : Nat := dieStack (homeDie (l * 128))) : State × List Byte × Bool :=
  let s := s.msauRelease l
  let r := s.lineRead l stack
  let s := if s.compOwns l then s.bump else s
  (s.countRead l stack 128, r.1, r.2)

/-- A write of a line by an agent that keeps no copy (WrF, or WrP merged at the home): every copy is invalidated, the line's
grant sequence advances, and the write goes to the line's channel, after the data that a dirty copy returns (R334, R358, R362). -/
def State.writeLine (s : State) (l : Nat) (mask : BitVec 128) (data : List Byte) (poison : Bool) : State :=
  let old := s.lineNow l
  let dirty := (s.buffered l).isSome || s.compOwns l || (s.inBuffer l).isSome
    || (match s.ownerOf l with | some (_, x) => x.st == .M || x.st == .O | none => false)
  let h := s.line l
  let s := match s.compPort with
    | some p =>
      if hp : p < 2 then (if s.compNamed l then s.sendLinkCoh ⟨p, hp⟩ 0xE (s.lineFn p l) none
        { line := l, agent := 100, txn := 0, gseq := h.gseq, data := [], mask := 0, poison := false, grant := .I, final := false,
          superseded := false, noData := false, starve := 0, sender := 0 } else s) else s
    | none => s
  let s := s.dropCopies l
  let s := s.setLine l { h with entry := none, gseq := h.gseq + 1 }
  if mask = fullMask then s.memWrite l mask data poison
  else (if dirty then s.memWrite l fullMask old.1 old.2 else s).memWrite l mask data poison

/-- Reads bytes that lie in one line at a physical place: the state, the bytes and their poison. -/
def State.readPhys (s : State) (ph n : Nat) (stack : Nat := dieStack (homeDie ph)) : State × List Byte × Bool :=
  let (s, d, p) := s.readLine (ph / 128) stack
  (s, (d.drop (ph % 128)).take n, p)

/-- The mask of `n` bytes from byte `o` of a line. -/
def runMask (o n : Nat) : BitVec 128 := BitVec.ofNat 128 ((2 ^ n - 1) * 2 ^ o)

/-- Writes bytes that lie in one line at a physical place. -/
def State.writePhys (s : State) (ph : Nat) (bytes : List Byte) (poison : Bool := false) : State :=
  s.writeLine (ph / 128) (runMask (ph % 128) bytes.length) (List.replicate (ph % 128) 0 ++ bytes) poison

/-- The pieces of a run of bytes that lie in one line each: offset in the run and length. -/
def linePieces (a n : Nat) (fuel : Nat) : List (Nat × Nat) :=
  match fuel with
  | 0 => []
  | fuel + 1 => if n = 0 then [] else
      let k := min n (128 - a % 128)
      (a, k) :: linePieces (a + k) (n - k) fuel

/-- Reads `n` bytes at a local address of the Pool; none where an address of the run is unbacked. -/
def State.readLocal (s : State) (a n : Nat) : Option (State × List Byte × Bool) :=
  (linePieces a n (n + 1)).foldl (fun acc pc =>
    match acc with
    | none => none
    | some (s, bs, p) =>
      match s.place pc.1 with
      | none => none
      | some ph => let (s, d, q) := s.readPhys ph pc.2; some (s, bs ++ d, p || q)) (some (s, [], false))

/-- Writes bytes at a local address of the Pool; pieces whose address is unbacked are discarded. -/
def State.writeLocal (s : State) (a : Nat) (bytes : List Byte) : State :=
  (linePieces a bytes.length (bytes.length + 1)).foldl (fun s pc =>
    match s.place pc.1 with
    | none => s
    | some ph => s.writePhys ph ((bytes.drop (pc.1 - a)).take pc.2)) s

/-- Whether the home of a physical place is in a die reset, or waits to be (R102, R370). -/
def State.homeResetting (s : State) (ph : Nat) : Bool := s.dieReset.get 0 (homeDie ph) != 0

/-- Whether memory at a physical place is in service: an Attic member's stack online, or SL2 for the Annex (R90); its home not in a die
reset, and its channel trained or fenced (R340, R370). -/
def State.inService (s : State) (ph : Nat) : Bool :=
  (if ph < 2 ^ 40 then s.dieOnline (ph / 2 ^ 33) else decide (2 ≤ s.level)) && !s.homeResetting ph
    && (match chanOf ph with | some c => decide (2 ≤ s.chanState c) && decide (s.chanState c ≤ 4) | none => true)

/-- The error of an access to memory that is not in service: "destination reset" or "not ready" (R90, R370). -/
def State.notReady (s : State) (ph : Nat) : Nat := if s.homeResetting ph then 0x102 else 0x103

/-- Whether an Attic address lies in an interleave set with a member that is not online (R90). -/
def State.setReady (s : State) (a : Nat) : Bool :=
  match s.intSets.find? (fun x => decide (x.base ≤ a) && decide (a < x.base + x.members.length * x.perMember)) with
  | some x => if x.annex then decide (2 ≤ s.level) else x.members.all (fun k => s.dieOnline k)
  | none => if a < 36 * 2 ^ 33 then s.dieOnline (a / 2 ^ 33) else true

/-- The error of a range of local addresses whose memory is not in service (R90, R370); an unbacked address has none. -/
def State.rangeError (s : State) (a n : Nat) : Option Nat :=
  (linePieces a n (n + 1)).findSome? (fun x =>
    match s.place x.1 with
    | some ph => if s.inService ph && s.setReady x.1 then none else some (s.notReady ph)
    | none => none)

/-- The operations of Table 12-6 on the old value and operands, on numbers of `w` bits; compare-and-swap stores the operand where
the old value equals the compare value. -/
def atomResult (op : AtomOp) (w : Nat) (old operand compare : Nat) (fadd : Word → Word → Word) : Nat :=
  let m := 2 ^ w
  let sg (x : Nat) : Int := if x < m / 2 then x else (x : Int) - m
  match op with
  | .swap => operand % m
  | .add => (old + operand) % m
  | .and => Nat.land old operand % m
  | .or => Nat.lor old operand % m
  | .xor => Nat.xor old operand % m
  | .minS => if sg (old % m) ≤ sg (operand % m) then old % m else operand % m
  | .maxS => if sg (operand % m) ≤ sg (old % m) then old % m else operand % m
  | .minU => min (old % m) (operand % m)
  | .maxU => max (old % m) (operand % m)
  | .fadd => (fadd (BitVec.ofNat 32 old) (BitVec.ofNat 32 operand)).toNat
  | .cas => if old % m = compare % m then operand % m else old % m

end Sys2Proof.Machine
end

