-- ==== Sys2Proof/Machine/CoreBase.lean ====
section
/-! DEFINITION. What a core's units share: the fields of a tile instruction, the bytes of the Pantry, the tokens and errors of instructions
(R125 to R127), the NaN record (R255), and what a completing instruction writes. -/

namespace Sys2Proof.Machine

/-- A tile instruction's CLASS (Table 4-5). -/
def TileIns.cls (i : TileIns) : Nat := fieldOf i.word 14 13
/-- A tile instruction's FUNC (Table 4-5). -/
def TileIns.func (i : TileIns) : Nat := fieldOf i.word 31 29
/-- Field [hi:lo] of an instruction's OPS. -/
def TileIns.ops (i : TileIns) (hi lo : Nat) : Nat := fieldOf i.word (hi + 32) (lo + 32)

/-- Whether a core's array is Quartered (R139). -/
def State.quartered (s : State) (c : Nat) : Bool := (s.rd (coreDie c) (coreOff c 0x400)).getLsbD 0

/-! ## Pantry bytes -/

/-- The bytes of a Pantry. -/
def pantrySize : Nat := 0x600000

/-- The 8-byte granules of a run of Pantry bytes. -/
def granulesOf (off n : Nat) : List Nat :=
  if n = 0 then [] else (List.range ((off + n - 1) / 8 - off / 8 + 1)).map (fun i => off / 8 + i)

/-- Pantry bytes. -/
def Core.pan (k : Core) (off n : Nat) : List Byte := k.pantry.getRun 0 off n
/-- A number of `n` bytes in the Pantry. -/
def Core.panNat (k : Core) (off n : Nat) : Nat := leNat (k.pan off n)

/-- Writes Pantry bytes: a granule covered whole loses its poison and any error of its bits (R285); a reservation on the bytes ends. -/
def Core.panWrite (k : Core) (off : Nat) (b : List Byte) : Core :=
  let full (g : Nat) : Bool := decide (off ≤ 8 * g) && decide (8 * g + 8 ≤ off + b.length)
  { k with
    pantry := k.pantry.setRun 0 off b, poisoned := k.poisoned.filter (fun g => !full g), flaws := k.flaws.filter (fun e => !full e.granule.val),
    resv := match k.resv with
      | some r => if 2 ^ 60 ≤ r ∧ off / 128 ≤ r - 2 ^ 60 ∧ r - 2 ^ 60 ≤ (off + b.length - 1) / 128 ∧ b ≠ [] then none else some r
      | none => none }

/-! ## Tokens, errors and the NaN record -/

/-- Records an error of an instruction: its counter's bit and the first tag (R127). -/
def Core.noteError (k : Core) (i : TileIns) : Core :=
  let nt := i.word.getLsbD 12
  let k := if k.errTag.isNone then { k with errTag := some i.tag, errPc := i.pc } else k
  if nt then { k with noToken := true } else { k with tkErr := k.tkErr ||| BitVec.ofNat 32 (2 ^ fieldOf i.word 11 7) }

/-- An instruction returns `n` tokens (R125, R126). -/
def Core.tokens (k : Core) (i : TileIns) (n : Nat) : Core :=
  if i.word.getLsbD 12 then k
  else
    let tk := fieldOf i.word 11 7
    { k with tkDone := k.tkDone.set 0 tk (k.tkDone.get 0 tk + BitVec.ofNat 32 n) }

/-- Fills the NaN record where it holds nothing, and counts the instruction (R255, R257, Tables 8-9 to 8-12). `r` is the operation word, the
position word and the three operands. -/
def State.noteNan (s : State) (c unit quarter slot : Nat) (tag : Byte) (pc : DWord) (r : List Nat) : State :=
  let die := coreDie c
  let o (x : Nat) : Nat := coreOff c x
  let s := s.satFld die (o 0x70C) 31 0
  if s.fld die (o 0x700) 31 31 = 1 then s
  else
    let s := s.wr die (o 0x700) (BitVec.ofNat 32 (2 ^ 31 + unit * 2 ^ 28 + quarter * 2 ^ 26 + slot * 2 ^ 21 + c * 2 ^ 9 + tag.toNat))
    let s := (s.wr die (o 0x704) (BitVec.ofNat 32 (r.getD 0 0))).wr die (o 0x708) (BitVec.ofNat 32 (r.getD 1 0))
    let s := (s.wr64 die (o 0x710) pc).wr64 die (o 0x718) (BitVec.ofNat 64 (r.getD 2 0))
    (s.wr64 die (o 0x720) (BitVec.ofNat 64 (r.getD 3 0))).wr64 die (o 0x728) (BitVec.ofNat 64 (r.getD 4 0))

/-! ## Requests of the stream engine -/

/-- Whether an agent is a stream instruction of a core, of slot `n` or of any. -/
def isStream (c : Nat) (n : Option (Fin 16)) : RemAgent → Bool
  | .core d (.stream m) => d == c && (n == none || n == some m)
  | _ => false

/-- The line requests of a core's stream engine, or of one slot's instruction, that wait for their answer (R297). A write that an earlier
instruction of the slot left outstanding counts for the core alone. -/
def State.strOut (s : State) (c : Nat) (n : Option (Fin 16)) : Nat :=
  (s.remotes.cells.filter (fun x => match x.2 with
    | some r => isStream c n r.agent && r.reply.isNone && (n == none || r.kind != 1 || r.cursor != []) | none => false)).length
    + (s.hostWrites.filter (fun w => isStream c n w.agent && (n == none || w.cursor != []))).length

/-- Whether one cursor comes before another in the order of R291: the highest index counts most. -/
def cursorBefore (a b : List Nat) : Bool :=
  let rec lex : List Nat → List Nat → Bool
    | x :: xs, y :: ys => decide (x < y) || (x == y && lex xs ys)
    | _, _ => false
  lex a.reverse b.reverse
/-- The earlier of two cursors. -/
def cursorMin (a b : List Nat) : List Nat := if cursorBefore b a then b else a

/-- The element that a stream instruction's write serves; none for another agent's. -/
def State.doingOf (s : State) : RemAgent → List Nat
  | .core c (.stream n) => ((s.core c).slots.get StreamSlot.reset n.val).doing
  | _ => []

/-- A slot's cursor: the element before which every write of its instruction is performed (R303). -/
def State.cursorNow (s : State) (c n : Nat) : List Nat :=
  let t := (s.core c).slots.get StreamSlot.reset n
  let mine (a : RemAgent) : Bool := match a with | .core d (.stream m) => d == c && m.val == n | _ => false
  let rem := s.remotes.cells.filterMap (fun x => match x.2 with
    | some r => if mine r.agent && r.kind == 1 && r.reply.isNone && r.cursor != [] then some r.cursor else none | none => none)
  let host := (s.hostWrites.filter (fun w => mine w.agent && w.cursor != [])).map (·.cursor)
  (rem ++ host ++ t.lost.toList).foldl cursorMin t.cursor

/-- A write of a stream instruction will never be performed: the instruction ends in an error, and its cursor stays at that element (R303,
R305). A write left by an earlier instruction of the slot ends nothing. -/
def Core.failWrite (k : Core) (n : Nat) (cursor : List Nat) (code : Nat) : Core :=
  let t := k.slots.get StreamSlot.reset n
  if cursor = [] ∨ t.ins.isNone then k
  else { k with slots := k.slots.set StreamSlot.reset n { t with error := code, lost := some (match t.lost with | some l => cursorMin l cursor | none => cursor) } }

/-! ## What completes -/

/-- A tracked conversion's writes to its record (R267, R268). -/
def Core.track (k : Core) (tag : Byte) (t : Nat × List Nat) : Core :=
  let off := t.1
  let amax := t.2.getD 0 0
  let n := t.2.getD 1 0
  let q := t.2.getD 2 0
  let k := k.panWrite (off + 4) (leBytes 4 (max (k.panNat (off + 4) 4) amax))
  if n = 0 then k
  else
    let at_ := k.panNat (off + 12) 4
    let k := k.panWrite (off + 8) (leBytes 4 (min (k.panNat (off + 8) 4 + n) 0xFFFFFFFF))
    let k := k.panWrite (off + 12) (leBytes 4 (if bitAt at_ 31 then at_ else 2 ^ 31 + tag.toNat))
    if (BitVec.ofNat 32 q).toInt > -126 then k.panWrite off (leBytes 4 (BitVec.ofNat 32 q - 1).toNat) else k

/-- Writes what a unit's running instruction has computed: tile-register words, Pantry bytes (R148, R182). A granule that they cover whole
loses its poison and any error of its bits (R285), and a reservation on their lines ends. -/
def Core.applyRunning (k : Core) (r : Running) : Core :=
  let wrote (a : Nat) : Bool := r.bytes.any (fun b => b.1 == a)
  let full (g : Nat) : Bool := (List.range 8).all (fun j => wrote (8 * g + j))
  { k with
    tiles := r.words.foldl (fun m w => m.set 0 w.1 w.2) k.tiles,
    pantry := r.bytes.foldl (fun m b => m.set 0 b.1 b.2) k.pantry,
    poisoned := k.poisoned.filter (fun g => !full g), flaws := k.flaws.filter (fun e => !full e.granule.val),
    resv := match k.resv with
      | some l => if r.bytes.any (fun b => b.1 / 128 + 2 ^ 60 == l) then none else some l
      | none => none }

/-- The vector engine's flags, EMPTY record and tracker as a running instruction of it leaves them (R193, R200, R267). -/
def Core.applyVector (k : Core) (r : Running) : Core :=
  let k : Core := { k with
    vecFlags := k.vecFlags ||| r.flags,
    vecStatus := if r.empty ∧ !k.vecStatus.getLsbD 9 then BitVec.ofNat 32 (0x200 + r.ins.tag.toNat) else k.vecStatus }
  match r.tracker with
  | some t => k.track r.ins.tag t
  | none => k

/-- Everything a running instruction leaves when it completes, or ends at its completion with its kernel (R137): its results, the vector
engine's counters and flags (R204), and the NaN record (R255). `unit` is 1 for the array and 2 for the vector engine. -/
def State.landed (s : State) (c unit : Nat) (r : Running) : State :=
  let s := if unit = 2 then (s.modCore c (fun k => k.applyVector r)).inc64 (coreDie c) (coreOff c 0x508) r.slices else s
  let s := s.modCore c (fun k => k.applyRunning r)
  match r.nan with
  | none => s
  | some n => s.noteNan c unit (if unit = 1 ∧ s.quartered c ∧ r.ins.func = 0 then r.ins.ops 24 23 else 0) 0 r.ins.tag r.ins.pc n

/-- The running instructions of the two units with their unit numbers, in program order. -/
def Core.runningInOrder (k : Core) : List (Nat × Running) :=
  let all := k.arr.map (fun r => (1, r)) ++ (match k.vec with | some r => [(2, r)] | none => [])
  k.inflight.flatMap (fun i => all.filter (fun x => x.2.ins.tag == i.tag))

end Sys2Proof.Machine
end

