-- ==== Sys2Proof/Machine/Completions.lean ====
section
/-! DEFINITION. What the device posts: host writes, interrupts, completion entries (R435, R437), the end of a command, events,
and the reports of a launch (R136, R560). -/

namespace Sys2Proof.Machine

/-- A write to companion memory for a partition, and the queue whose command issued it: sent on the partition's port, or, with
the companion lost, dropped and counted (R442). -/
def State.hostWrite (s : State) (p : Nat) (queue : Option Nat) (addr : Nat) (data : List Byte) : State :=
  if s.hostReachable p then
    (if h : s.partPort p < 2 then s.sendTagged (some { part := p, queue := queue, posted := true }) (.hostWrite ⟨s.partPort p, h⟩ p addr data) else s)
  else if (s.fn p).episode ≠ 0 then
    let f := s.fn p
    s.setFn p { f with
      lostTotal := (f.lostTotal + 1) % 2 ^ 64,
      lostCount := match queue with
        | some q => f.lostCount.set 0 q (min (f.lostCount.get 0 q + 1) 0xFFFFFFFF)
        | none => f.lostCount }
  else s

/-- A function's unit at the die of its port, as an agent (Table 17-1). -/
def State.fnAgent (s : State) (p : Nat) : Nat := (92 + s.partPort p) * 512 + 8 + p

/-- The error of a command address whose memory is not in service (R90, R432); companion memory has none. -/
def State.cmdError (s : State) (addr : DWord) (n : Nat) : Option Nat :=
  if bitAt addr.toNat 63 then none else s.rangeError (bits addr.toNat 41 0) n

/-- A write at a command address (R432): bit 63 names companion memory, else the Pool; where the Pool's memory is not in service the function
gets the error and nothing is written (R90). -/
def State.cmdWrite (s : State) (p : Nat) (queue : Option Nat) (addr : DWord) (data : List Byte) : State :=
  if bitAt addr.toNat 63 then s.hostWrite p queue (bits addr.toNat 51 0) data
  else match s.rangeError (bits addr.toNat 41 0) data.length with
    | some e => s.send (.contained (s.fnAgent p) e)
    | none => s.writeLocal (bits addr.toNat 41 0) data

/-- Whether a command address may be used by a partition (R432): its reserved bits are zero, and a Pool range lies in the
partition's windows. -/
def State.cmdAddrOk (s : State) (p : Nat) (addr : DWord) (n : Nat) (write : Bool) : Bool :=
  if bitAt addr.toNat 63 then bits addr.toNat 62 52 == 0
  else bits addr.toNat 62 42 == 0 &&
    (linePieces (bits addr.toNat 41 0) n (n + 1)).all (fun pc =>
      (s.windowOf p pc.1 write false).isSome && (s.windowOf p (pc.1 + pc.2 - 1) write false).isSome)

/-- Signals a function's vector: an Msi, or PENDING where the vector is masked; in the safe state nothing is sent (R437, R494). -/
def State.signal (s : State) (p v : Nat) : State :=
  let f := s.fn p
  let e := f.msi.get MsiEntry.reset v
  if e.mask then s.setFn p { f with msi := f.msi.set MsiEntry.reset v { e with pending := true } }
  else if s.phase = .safe then s
  else if h : s.hostReachable p ∧ s.partPort p < 2 then s.send (.linkMsi ⟨s.partPort p, h.2⟩ p e.addr e.value)
  else s

/-- Whether a port's own write to companion memory of a partition is not performed yet, by the queue that issued it, none for what no command issued: it
waits in a link, or its flit is not acknowledged (R435, R437). -/
def State.writesOf (s : State) (p : Nat) (queue : Option Nat) : Bool :=
  let t : WriteTag := { part := p, queue := queue, posted := true }
  s.links.cells.any (fun l => l.2.sendHeld.any (fun m => m.write == some t) || l.2.writes.any (fun w => w.2 == t))

/-- Signals a vector for completion entries: the Msi is sent once the entries are performed at system scope, and waits till then (R437). -/
def State.signalAfter (s : State) (p v : Nat) : State :=
  if s.writesOf p none then { s with msiDue := s.msiDue ++ [(p, v)] } else s.signal p v

/-- Sends the signals whose entries have been performed (R437). -/
def State.releaseMsis (s : State) : State :=
  let due := s.msiDue.filter (fun x => !s.writesOf x.1 none)
  overList { s with msiDue := s.msiDue.filter (fun x => s.writesOf x.1 none) } due (fun s x => s.signal x.1 x.2)

/-- A completion ring with no free place: one place stays empty, as head equal to tail means none posted (log 11). -/
def Cq.full (c : Cq) : Bool := (c.tail + 1) % c.entries == c.head

/-- Writes one entry at a completion queue's tail and counts it towards the interrupt (R435, R437). -/
def State.writeEntry (s : State) (p q : Nat) (c : Cq) (e : List Byte) : State :=
  let e := e.set 47 (BitVec.ofNat 8 (b2n c.phase))
  let s := s.cmdWrite p none (c.base + BitVec.ofNat 64 (c.tail * 64)) e
  let tail := (c.tail + 1) % c.entries
  let c := { c with tail := tail, phase := if tail = 0 then !c.phase else c.phase, unsent := c.unsent + 1 }
  match c.vector with
  | none => s.setCq p q (some { c with unsent := 0 })
  | some v =>
    if c.count ≤ c.unsent then (s.setCq p q (some { c with unsent := 0 })).signalAfter p v
    else s.setCq p q (some c)

/-- Posts an entry on a completion queue; when the ring is full it waits (R435). An entry for a queue that does not exist is not
posted; with the companion lost it counts as a dropped write (R442). -/
def State.cqPush (s : State) (p q : Nat) (e : List Byte) : State :=
  match s.cq p q with
  | some c => if c.full || !c.waiting.isEmpty then s.setCq p q (some { c with waiting := c.waiting ++ [e] }) else s.writeEntry p q c e
  | none =>
    if (s.fn p).lost then s.setFn p { s.fn p with lostTotal := ((s.fn p).lostTotal + 1) % 2 ^ 64 } else s

/-- A completion entry without its phase (Table 15-10). -/
def cqEntry (body : List Byte) (sq : Nat) (cid : BitVec 16) (head code detail type : Nat) (time : DWord) : List Byte :=
  padTo 32 body ++ leBytes 2 sq ++ leBytes 2 cid.toNat ++ leBytes 4 head ++ leBytes 2 detail ++ leBytes 2 code
    ++ leBytes 1 type ++ [0, 0, 0] ++ leBytes 8 time.toNat ++ leBytes 8 0

/-- Posts an event on admin completion queue 0 of a function. -/
def State.postEvent (s : State) (p type : Nat) (body : List Byte) : State :=
  s.cqPush p 0 (cqEntry body 0 0 0 0 0 type s.now)

/-- Posts a service-level event on admin completion queue 0 of every function whose ENABLE is set (R92, R436). -/
def State.slEvent (s : State) (event die : Nat) : State :=
  let body := leBytes 4 s.slStatus.toNat ++ leBytes 1 event ++ leBytes 1 die ++ [0, 0]
    ++ leBytes 8 (s.rd64 94 0x20130).toNat ++ leBytes 8 (s.rd64 94 0x20138).toNat ++ leBytes 8 (s.rd64 94 0x20140).toNat
  overList s (List.range 8) (fun s p => if (s.fn p).enable then s.postEvent p 1 body else s)

/-- A queue error: on the queue's completion queue and on admin completion queue 0 (R435). -/
def State.queueError (s : State) (p q code head want got : Nat) : State :=
  let e := cqEntry (leBytes 2 q ++ leBytes 2 code ++ leBytes 4 head ++ leBytes 4 want ++ leBytes 4 got) q 0 head code 0 3 s.now
  let s := match s.sq p q with
    | some k => if k.cq = 0 then s else s.cqPush p k.cq e
    | none => s
  s.cqPush p 0 e

/-- Ends a started command: it leaves the running ones, and its result waits for its completion entry (R435). -/
def State.finishCmd (s : State) (p q : Nat) (cid : BitVec 16) (code detail : Nat) (body : List Byte := []) : State :=
  match s.sq p q with
  | none => s
  | some k =>
    let quiet := match k.running.find? (fun x => x.cid == cid) with
      | some x => bitAt x.flags.toNat 2
      | none => false
    s.setSq p q (some { k with
      running := k.running.eraseP (fun x => x.cid == cid),
      results := k.results ++ [{ cid := cid, quiet := quiet, code := code, detail := detail, body := body }] })

/-- What a core's error report carries besides its code: exception or group-trap cause, tag, PC (Table 15-10a). -/
structure ErrInfo where
  cause : Nat
  tag   : Option Byte
  pc    : Option DWord
deriving DecidableEq, Repr

/-- An error that names nothing. -/
def ErrInfo.none : ErrInfo := { cause := 0, tag := Option.none, pc := Option.none }

/-- The launch error body (Table 15-10a). -/
def launchBody (core code cores : Nat) (info : List Nat) : List Byte :=
  leBytes 2 core ++ leBytes 2 code ++ leBytes 1 (info.getD 0 0) ++ leBytes 1 (info.getD 1 0)
    ++ leBytes 1 (info.getD 2 0 + 2 * info.getD 4 0) ++ [0] ++ leBytes 8 (info.getD 3 0) ++ leBytes 2 cores

/-- The numbers an error report is kept as: cause, tag, tag valid, PC, PC valid. -/
def ErrInfo.nums (i : ErrInfo) : List Nat :=
  [i.cause, (i.tag.getD 0).toNat, b2n i.tag.isSome, (i.pc.getD 0).toNat, b2n i.pc.isSome]

/-- The result bitmap of a launch: bit n for each core n named (R434, R560). -/
def coreBitmap (cs : List Nat) : List Byte :=
  (List.range 80).map (fun i => BitVec.ofNat 8 ((List.range 8).foldl (fun a b => a + (if cs.contains (8 * i + b) then 2 ^ b else 0)) 0))

/-- Completes a launch: success, or the error of the core that reported first, with the bitmap written (R136, R560). -/
def State.finishLaunch (s : State) (n : Nat) (l : Launch) (errors : List (Nat × Nat × List Nat)) : State :=
  let s := { s with launches := s.launches.del n }
  let s := if l.bitmapAt = 0 then s else s.cmdWrite l.part (some l.sq) l.bitmapAt (coreBitmap (errors.map (·.1)))
  match errors with
  | [] => s.finishCmd l.part l.sq l.cid 0 0
  | e :: _ => s.finishCmd l.part l.sq l.cid e.2.1 e.1 (launchBody e.1 e.2.1 errors.length e.2.2)

/-- The default launch, which no list holds. -/
def Launch.none : Launch :=
  { part := 0, sq := 0, cid := 0, slot := 0, bitmapAt := 0, entry := 0, args := 0, pantryVa := 0, gEntry := 0, seed := 0, groups := 0,
    vregs := 0, clear := false, strict := false, timeout := 0, cores := [], started := false, reports := [] }

/-- A launch by its number. -/
def State.launch (s : State) (n : Nat) : Option Launch := (s.launches.cells.find? (fun c => c.1 == n)).map (·.2)

/-- A core's report to its launch: code 0 is success; the launch completes when every listed core has reported (R136). -/
def State.reportNums (s : State) (n c code : Nat) (info : List Nat) : State :=
  match s.launch n with
  | none => s
  | some l =>
    if l.reports.any (fun r => r.1 == c) then s
    else
      let l := { l with reports := l.reports ++ [(c, code, info)] }
      let s := { s with launches := s.launches.set Launch.none n l }
      if l.cores.all (fun c => l.reports.any (fun r => r.1 == c)) then s.finishLaunch n l (l.reports.filter (fun r => r.2.1 != 0))
      else s

/-- The report of a core with what its error names. -/
def State.report (s : State) (n c code : Nat) (info : ErrInfo) : State := s.reportNums n c code info.nums

/-! ## The end of a core's part of a kernel -/

/-- Whether a core runs its part of a kernel that has not been ended. -/
def Core.runs (k : Core) : Bool := k.kernel.isSome && k.ending.isNone

/-- Every slot idle, its cursor and fault address kept (R305). -/
def idleSlots (m : Map StreamSlot) : Map StreamSlot :=
  m.cells.foldl (fun a x => a.set StreamSlot.reset x.1 { StreamSlot.reset with cursor := x.2.cursor, faultVa := x.2.faultVa }) ⟨[]⟩

/-- A core with nothing queued, running or held: after its part of a kernel ends (R137) its registers, Pantry and records keep
what they hold. -/
def Core.idle (k : Core) : Core :=
  { k with
    phase := 0, monitor := false, kernel := none, accq := [], exq := [], arrq := [], vecq := [], inflight := [], waiting := none,
    arr := [], vec := none, slots := idleSlots k.slots, groups := ⟨[]⟩, grpCount := 0, grpVregs := 0, records := [], noToken := false, nanTrap := false,
    ending := none, resv := none, l1d := ⟨[]⟩, l1i := [] }

/-- A numerics-watch sample abandoned: counted as skipped (R276). -/
def State.dropSample (s : State) (c : Nat) : State :=
  let k := s.core c
  if k.watch.sample.isSome then
    (s.setCore c { k with watch := { k.watch with sample := none } }).inc64 (coreDie c) (coreOff c 0x810)
  else s

/-- An aborted instruction delivers the tokens it still owes and counts as ended in an error (R127). -/
def Core.aborted (k : Core) (i : TileIns) (owed : Nat) : Core := (k.tokens i owed).noteError i

/-- Whether a stream instruction stands at a chunk boundary: no write of the chunk it would do next has been made (R137). -/
def StreamSlot.atBoundary (t : StreamSlot) : Bool := t.step % t.per == 0 && t.cursor.getD 0 0 == 0 && t.claims.isEmpty

/-- Aborts the stream instruction of a slot: one that is held, closing or at a chunk boundary ends at once (R305), another at its next
boundary (R137). `cursor` gives each slot's cursor, which it keeps (R305). -/
def Core.abortSlot (cursor : Nat → List Nat) (k : Core) (n : Nat) : Core :=
  let t := k.slots.get StreamSlot.reset n
  match t.ins with
  | none => k
  | some i =>
    if t.phase ≠ 1 ∨ t.error ≠ 0 ∨ t.atBoundary then
      let k := k.aborted i (t.chunks - t.returned)
      { k with slots := k.slots.set StreamSlot.reset n { StreamSlot.reset with cursor := cursor n, faultVa := t.faultVa } }
    else { k with slots := k.slots.set StreamSlot.reset n { t with abort := true } }

/-- A core whose part of a kernel is ending: queued instructions discarded, groups stopped, no trap left, and the instructions in flight
those of the slots that still abort (R137). The trap has been handled once the core is ending, so that MONITOR reads 0 from here on, though streams
may still run to their chunk boundary (DESIGN CHOICE, log 68). -/
def Core.stopped (k : Core) : Core :=
  { k with
    phase := 2, monitor := false, accq := [], exq := [], arrq := [], vecq := [], arr := [], vec := none, waiting := none, groups := ⟨[]⟩,
    records := [], noToken := false, nanTrap := false, inflight := k.slots.cells.filterMap (fun x => x.2.ins) }

/-- Whether a stream instruction of a core has not reached its chunk boundary yet. -/
def Core.aborting (k : Core) : Bool := k.slots.cells.any (fun x => x.2.ins.isSome)

/-- The core's part of its kernel is over once no instruction of it is left: it reports (R137). -/
def State.settleEnd (s : State) (c : Nat) : State :=
  let k := s.core c
  match k.kernel, k.ending with
  | some n, some e => if k.aborting then s else ((s.setCore c k.idle).dropSample c).reportNums n c e.1 e.2
  | _, _ => s

/-- Ends the kernel of a core that is fenced: its instructions are abandoned and it reports "core fenced" (R138). -/
def State.abandonCore (s : State) (c code : Nat) (info : ErrInfo) : State :=
  let k := s.core c
  match k.kernel with
  | none => s
  | some n => ((s.setCore c k.idle).dropSample c).report n c code info

/-- A launch that has not started fails on a core that is fenced in the meantime (R134). -/
def State.failWaiting (s : State) (c code : Nat) : State :=
  overList s (s.launches.cells.filter (fun l => !l.2.started && l.2.cores.contains c)) (fun s l =>
    s.finishLaunch l.1 l.2 [(c, code, ErrInfo.none.nums)])

end Sys2Proof.Machine
end

