-- ==== Sys2Proof/Machine/FaultBase.lean ====
section
/-! DEFINITION. Faults without a fence: the severity table in force, the unit and partitions a fault names, the leaf's capture
sets and queue of notices, the safe-state command, and the dump in flash (R475 to R485, R494 to R497). Fences are in
`Sys2Proof.Machine.Faults`. -/

namespace Sys2Proof.Machine

/-- The unit that bit 11 of a source's entry fences, and the source's reference entry (Table 17-2). -/
def sourceTable : List (Nat × UnitKind × Nat) :=
  [(0x01, .none, 0x1102), (0x02, .die, 0x0F01), (0x08, .none, 0x0100), (0x09, .bundle, 0x0901), (0x0A, .port, 0x0D01),
   (0x0B, .none, 0x0501), (0x10, .none, 0x0100), (0x11, .none, 0x1102), (0x12, .none, 0x1102), (0x13, .cacheAgent, 0x0F01),
   (0x14, .none, 0x0100), (0x18, .none, 0x0100), (0x1C, .none, 0x0100), (0x19, .none, 0x0100), (0x1D, .none, 0x0100),
   (0x1A, .channel, 0x0701), (0x1E, .channel, 0x0701), (0x1B, .channel, 0x0F01), (0x1F, .channel, 0x0F01), (0x20, .none, 0x0100),
   (0x21, .channel, 0x0F01), (0x28, .none, 0x0100), (0x29, .core, 0x0701), (0x2A, .none, 0x0100), (0x2B, .core, 0x0F01),
   (0x2C, .core, 0x0F01), (0x2D, .core, 0x0501), (0x2E, .core, 0x0F01), (0x30, .core, 0x0F01), (0x34, .hart, 0x0F01),
   (0x35, .none, 0x0301), (0x38, .none, 0x0100), (0x39, .lane, 0x0D01), (0x3A, .none, 0x0100), (0x3B, .none, 0x0301),
   (0x40, .none, 0x0100), (0x41, .lane, 0x0D01), (0x42, .port, 0x0D01), (0x43, .none, 0x0501), (0x44, .port, 0x0D01),
   (0x45, .none, 0x0100), (0x48, .none, 0x0100), (0x49, .die, 0x0F01), (0x4A, .die, 0x0F01), (0x4B, .none, 0x0100),
   (0x50, .die, 0x0F01)]

/-- The sources whose own rule always fences the unit (Table 17-2). -/
def alwaysFences : List Nat := [0x02, 0x09, 0x0A, 0x13, 0x1B, 0x1F, 0x21, 0x2B, 0x2C, 0x2E, 0x42, 0x44, 0x49, 0x50]
/-- The pinned sources (R70). -/
def pinnedSources : List Nat := [0x01, 0x11, 0x12]

/-- The unit kind a source fences (Table 17-2). -/
def fenceKind (src : Nat) : UnitKind := ((sourceTable.find? (fun x => x.1 == src)).map (·.2.1)).getD .none
/-- A source's reference entry; 0x0100 for a source without one (R475). -/
def referenceEntry (src : Nat) : Nat := ((sourceTable.find? (fun x => x.1 == src)).map (·.2.2)).getD 0x0100

/-- The entry of a source in the severity table in force (R475). -/
def State.sev (s : State) (src : Nat) : Nat :=
  match s.flp with
  | some f => ((f.severity[src]?).map (·.toNat)).getD (referenceEntry src)
  | none => referenceEntry src

/-- A key for each unit that a fence takes out of service, over the whole device. Ports: Hallway die x 8 + p, fabric 1000 + n,
Jexesk Link 2000 + port. Bundles: die x 1024 + p x 128 + bundle. Lanes: die x 1024 + port x 16 + lane. -/
abbrev UnitKey := UnitKind × Nat

/-- The sources that name a Hallway port, bundle or route (Table 17-2). -/
def hallSource (src : Byte) : Bool := decide (0x08 ≤ src.toNat) && decide (src.toNat ≤ 0x0B)

/-- The Hallway port of unit 40 + p of a die of the mesh's edge (Table 17-1; log 59). -/
def hallPortUnit (die unit : Nat) : Option UnitKey := if 40 ≤ unit ∧ unit < 48 then some (.port, die * 8 + (unit - 40)) else none

/-- The fenceable unit that holds a unit number of a die (Table 17-1); unit 40 + p of dies 84 to 95 is Hallway port p (log 59). -/
def unitOfNumber (die unit : Nat) : Option UnitKey :=
  match dieType die with
  | 1 => if unit < 320 then some (.core, die * 20 + unit / 16) else none
  | 2 => if unit < 64 then some (.hart, (die - 32) * 64 + unit) else if 256 ≤ unit ∧ unit < 272 then some (.cacheAgent, 36 + (die - 32) * 16 + (unit - 256)) else none
  | 3 | 4 => if unit < 16 then some (.channel, (die - 36) * 16 + unit) else if unit = 17 then some (.cacheAgent, die - 36)
      else if 32 ≤ unit ∧ unit < 40 then some (.port, die * 8 + (unit - 32)) else none
  | 5 => if unit < 32 then some (.channel, 576 + (die - 72) * 32 + unit) else hallPortUnit die unit
  | 6 => if unit < 8 then some (.port, 1000 + (die - 84) * 8 + unit) else hallPortUnit die unit
  | 7 => if unit = 0 then some (.port, 2000 + (die - 92)) else hallPortUnit die unit
  | 8 => hallPortUnit die unit
  | _ => none

/-- The unit a fault's kind and index name, over the whole device (Table 17-4, UNIT). -/
def unitNamed (f : FaultIn) : Option UnitKey :=
  let d := f.die.val
  match f.kind with
  | .none => none
  | .lane => some (.lane, d * 1024 + f.index)
  | .bundle => some (.bundle, d * 1024 + f.index)
  | .port => some (.port, if hallSource f.source then d * 8 + f.index else if dieType d = 6 then 1000 + (d - 84) * 8 + f.index else if dieType d = 7 then 2000 + (d - 92) else d * 8 + f.index)
  | .channel => some (.channel, if d < 72 then (d - 36) * 16 + f.index else 576 + (d - 72) * 32 + f.index)
  | .core => some (.core, f.index)
  | .hart => some (.hart, f.index)
  | .cacheAgent => some (.cacheAgent, f.index)
  | .die => some (.die, f.index)

/-- The port that contains a bundle or lane. -/
def portOfPart (d : Nat) (f : FaultIn) : Option UnitKey :=
  match f.kind with
  | .bundle => some (.port, d * 8 + f.index / 128)
  | .lane => some (.port, if dieType d = 6 then 1000 + (d - 84) * 8 + f.index / 16 else 2000 + (d - 92))
  | _ => none

/-- Whether the fault's unit, or a unit that contains it, is fenced already (R489). -/
def State.unitFenced (s : State) (f : FaultIn) : Bool :=
  let d := f.die.val
  s.fencedU.contains (.die, d)
    || (match unitOfNumber d f.unit with | some u => s.fencedU.contains u | none => false)
    || (match unitNamed f with | some u => s.fencedU.contains u | none => false)
    || (match portOfPart d f with | some u => s.fencedU.contains u | none => false)

/-- Bits of a set of partitions. -/
def partBits (ps : List Nat) : Nat := (List.range 8).foldl (fun a p => a + (if ps.contains p then 2 ^ p else 0)) 0

/-- The unit number under which a die's steward reports (Table 17-1: 18 on a base die); the table gives the stewards of the other dies and the
faults of a die as a whole no number, and the model uses 34 on an Annex base and 511 elsewhere (DESIGN CHOICE, log 63). -/
def stewardUnit (die : Nat) : Nat := if dieType die = 3 ∨ dieType die = 4 then 18 else if dieType die = 5 then 34 else 511

/-- The sources that a die as a whole raises, beside those that fence a die: thermal throttle and critical temperature, regulator. -/
def dieSources : List Nat := [0x48, 0x49, 0x4A]

/-- The partitions a fault names (Table 17-4a); a collective of one queue is named by the fault's index. -/
def State.faultParts (s : State) (f : FaultIn) : Nat :=
  let d := f.die.val
  let owners (cs : List Nat) : Nat := partBits (cs.filterMap s.corePart)
  let harts (hs : List Nat) : Nat := partBits (hs.filterMap s.hartPart)
  let orAll (b : Nat) : Nat := if b = 0 then 0xFF else b
  let l2 (n : Nat) : Nat := harts ((List.range 4).map (fun i => n * 4 + i))
  if f.kind = .die ∨ dieSources.contains f.source.toNat then
    let x := if f.kind = .die then f.index else d
    match dieType x with
    | 1 => orAll (owners ((List.range 20).map (fun i => x * 20 + i)))
    | 2 => orAll (harts ((List.range 64).map (fun i => (x - 32) * 64 + i)))
    | _ => 0xFF
  else if f.kind = .cacheAgent then (if 36 ≤ f.index ∧ f.index < 100 then l2 (f.index - 36) else 0xFF)
  else match dieType d with
  | 1 => if f.unit < 320 then owners [d * 20 + f.unit / 16] else 0xFF
  | 2 => if f.unit < 64 then harts [(d - 32) * 64 + f.unit] else if 256 ≤ f.unit ∧ f.unit < 272 then l2 ((d - 32) * 16 + (f.unit - 256)) else 0xFF
  | 6 =>
    if f.unit < 8 then
      match s.flp.bind (·.fabric) with
      | some c => partBits [c.portPart.getD ((d - 84) * 8 + f.unit) 0]
      | none => 0
    else if f.unit = 8 ∧ f.source = 0x45 then partBits [s.fld d (0xA0008 + 0x20 * (f.index % 8)) 26 24]
    else 0xFF
  | 7 => if f.unit < 8 then s.fld d 0x80000 7 0 else if f.unit < 16 then partBits [f.unit - 8] else 0xFF
  | _ => 0xFF

/-- Fills the capture set of a class where it is empty (R485). -/
def fillCapture (m : Map (Option Capture)) (cls : Nat) (f : FaultIn) (time : DWord) : Map (Option Capture) :=
  match m.get none cls with
  | some _ => m
  | none => m.set none cls (some { source := f.source, access := f.access, agent := f.die.val * 512 + f.unit, addr := f.addr, time := time })

/-- Queues a notice for the roots; while the leaf has stopped accepting, its units hold their reports (R477). -/
def Leaf.push (l : Leaf) (n : Notice) : Leaf :=
  if l.queue.length < 64 then { l with queue := l.queue ++ [n] }
  else if l.held ≠ [] then { l with held := l.held ++ [n] }
  else if n.cls = 0 then
    { l with merged := l.merged.set 0 n.fault.source.toNat (min (l.merged.get 0 n.fault.source.toNat + 1) 0xFFFFFFFF) }
  else
    match l.queue.reverse.findIdx? (fun x => x.cls == 0) with
    | some i =>
      let j := l.queue.length - 1 - i
      match l.queue[j]? with
      | some x => { l with
          queue := l.queue.eraseIdx j ++ [n],
          merged := l.merged.set 0 x.fault.source.toNat (min (l.merged.get 0 x.fault.source.toNat + x.count) 0xFFFFFFFF) }
      | none => l
    | none => { l with held := l.held ++ [n] }

/-- What the leaf decides of a fault: its class, its REACT bits, whether it is suppressed, whether it fences its unit and whether
it sends the safe-state command (R475, R480, R487, R489). -/
structure Verdict where
  cls        : Nat
  react      : Nat
  suppressed : Bool
  fences     : Bool
  safe       : Bool
deriving DecidableEq, Repr

/-- Whether fencing a die cannot leave the package in service (R487). -/
def State.vitalDie (s : State) (d : Nat) : Bool :=
  d ≥ 96 || d == 92 || d == 93 || (d == 94 && !s.root95.alive) || (d == 95 && !s.root94.alive)

/-- The leaf's verdict on a fault (R475, R480, R487, R489, R493). -/
def State.verdict (s : State) (f : FaultIn) : Verdict :=
  let e := s.sev f.source.toNat
  let sup := s.unitFenced f
  let fences := bitAt e 11 && !sup && fenceKind f.source.toNat == f.kind && f.kind != .none
  let vital := fences && f.kind == .die && s.vitalDie f.index
  let lost := !s.root94.alive && !s.root95.alive
  { cls := if vital || lost then 2 else e % 4, react := bits e 15 8, suppressed := sup, fences := fences,
    safe := (bitAt e 12 && !sup) || vital || lost }

/-- Records a fault at its leaf: capture set, notice, and the safe-state command where the verdict says so (R475). -/
def State.leafRecord (s : State) (f : FaultIn) (v : Verdict) : State :=
  let d := f.die.val
  let l := s.leaf d
  let n : Notice := {
    leaf := f.die, leafSeq := 0, fault := f, cls := v.cls, react := BitVec.ofNat 8 v.react, fenced := v.fences,
    suppressed := v.suppressed, merged := false, count := 1, time := s.now, parts := BitVec.ofNat 8 (s.faultParts f) }
  let s := s.setLeaf d (({ l with captures := fillCapture l.captures v.cls f s.now }).push n)
  if v.safe then s.stair 1 d 0xFF [f.source.toNat] else s

/-- A fault of a source that fences no unit. -/
def State.noteFault (s : State) (f : FaultIn) : State :=
  if s.phase = .running then s.leafRecord f { s.verdict f with fences := false } else s

/-- A fault report of a unit of a die, with nothing waited for and no detail. -/
def mkFault (die : DieId) (src : Byte) (unit : Nat) (kind : UnitKind) (index : Nat) (addr : DWord) (access : Nat)
    (detail : List Byte := []) : FaultIn :=
  { die := die, source := src, unit := unit, kind := kind, index := index, addr := addr, access := access, detail := detail, waited := false }

/-- The die with a number, die 0 for a number that names none. -/
def dieOf (d : Nat) : DieId := if h : d < 100 then ⟨d, h⟩ else ⟨0, by decide⟩

/-! ## The dump and the safe state -/

/-- Writes the log to the erased dump area; with none erased nothing is written (R496, R497). -/
def State.writeDump (s : State) (cause : Nat) : State :=
  let area (i : Nat) := s.mgmt.dumps.get DumpArea.reset i
  let r := if s.mgmt.active95 then s.root95 else s.root94
  let put (i : Nat) := s.modMgmt (fun m => { m with dumps := m.dumps.set DumpArea.reset i {
      erased := false, committed := true, sequence := (area (1 - i)).sequence + 1, time := s.now, cause := cause,
      captures := (List.range 3).map (fun k => r.captures.get none k),
      records := r.log.filter (fun x => x.notice.cls != 0) ++ r.log.filter (fun x => x.notice.cls == 0) } })
  if (area 1).erased then put 1 else if (area 0).erased then put 0 else s

/-- Every memory channel of the package. -/
def allChans : List Chan :=
  ((List.finRange 36).map atticChans).flatten ++ (List.finRange 384).map (fun c => .annex c)

/-- Every channel that is in service or training enters self-refresh (R100, R494). -/
def State.selfRefresh (s : State) : State :=
  overList s allChans (fun s c => if s.chanState c = 0 ∨ s.chanState c = 4 then s else s.setChanState c 5)

/-- Node-down on every ACTIVE fabric port (Table 16-4). -/
def State.nodeDownAll (s : State) : State :=
  overList s (List.finRange 64) (fun s p => if s.fabState p.val = 2 then s.sendNodeDown p (s.nodeId.getD 0x3FFF) else s)

/-- The safe state (R494, Table 17-7). -/
def State.enterSafe (s : State) : State :=
  let s := s.setFld 94 0x20100 30 30 1
  let s := s.nodeDownAll
  let s := s.selfRefresh
  let s := s.writeDump 0
  { s with phase := .safe, pins := { s.pins with ready := false, fatalN := false }, remotes := ⟨[]⟩ }

end Sys2Proof.Machine
end

