-- ==== Sys2Proof/Machine/Formats.lean ====
section
/-! DEFINITION. The number formats of Table 8-1, exact values, rounding (R245, R250), range results (R246), flags (R247), conversions
between formats, and the IEEE operations on them (R199, R200, R241, R242). -/

namespace Sys2Proof.Machine

/-- A floating-point format of Table 8-1. `cls` is 0 for the IEEE rules, 1 for E4M3, 2 for FP4 E2M1 (R239). -/
structure Fmt where
  w    : Nat
  eb   : Nat
  fb   : Nat
  bias : Nat
  cls  : Nat
deriving DecidableEq, Repr

def fp64 : Fmt := ⟨64, 11, 52, 1023, 0⟩
def fp32 : Fmt := ⟨32, 8, 23, 127, 0⟩
def f19 : Fmt := ⟨19, 8, 10, 127, 0⟩
def fp16 : Fmt := ⟨16, 5, 10, 15, 0⟩
def bf16 : Fmt := ⟨16, 8, 7, 127, 0⟩
def e4m3 : Fmt := ⟨8, 4, 3, 7, 1⟩
def e5m2 : Fmt := ⟨8, 5, 2, 15, 0⟩
def e2m1 : Fmt := ⟨4, 2, 1, 1, 2⟩

/-- A value: a NaN (signalling or not, with its sign and fraction), an infinity, or the number m x 2^e with a sign. -/
inductive FV where
  | nan (neg sig : Bool) (frac : Nat)
  | inf (neg : Bool)
  | num (neg : Bool) (m : Nat) (e : Int)
deriving DecidableEq, Repr

/-- The code of the largest finite magnitude. -/
def Fmt.maxCode (f : Fmt) : Nat := if f.cls = 0 then (2 ^ f.eb - 1) * 2 ^ f.fb - 1 else if f.cls = 1 then 0x7E else 7
/-- The sign bit of a format. -/
def Fmt.signBit (f : Fmt) (neg : Bool) : Nat := if neg then 2 ^ (f.w - 1) else 0
/-- The code of infinity. -/
def Fmt.infCode (f : Fmt) : Nat := (2 ^ f.eb - 1) * 2 ^ f.fb
/-- The canonical NaN (R241); FP4 has none and takes +0.0. -/
def Fmt.canon (f : Fmt) : Nat := if f.cls = 0 then f.infCode + 2 ^ (f.fb - 1) else if f.cls = 1 then 0x7F else 0

/-- The value of a bit pattern (R238, R239). -/
def Fmt.decode (f : Fmt) (b : Nat) : FV :=
  let neg := bitAt b (f.w - 1)
  let ex := b / 2 ^ f.fb % 2 ^ f.eb
  let fr := b % 2 ^ f.fb
  if f.cls = 0 ∧ ex = 2 ^ f.eb - 1 then (if fr = 0 then .inf neg else .nan neg (!bitAt fr (f.fb - 1)) fr)
  else if f.cls = 1 ∧ ex = 15 ∧ fr = 7 then .nan neg false fr
  else if ex = 0 then .num neg fr (1 - (f.bias : Int) - f.fb)
  else .num neg (2 ^ f.fb + fr) ((ex : Int) - f.bias - f.fb)

/-- A rounding choice (R245, R250, Table 6-12); `sto` carries the element's random word. -/
inductive Rm where
  | rne | rtz | rdn | rup | rmm | sto (r : Nat)
deriving DecidableEq, Repr

/-- The rounding of an FRM code. -/
def rmOf (frm : Nat) : Rm := match frm with | 0 => .rne | 1 => .rtz | 2 => .rdn | 3 => .rup | _ => .rmm

/-- Whether a magnitude q + rem / den rounds up to q + 1. -/
def Rm.up (rm : Rm) (neg odd : Bool) (rem den : Nat) : Bool :=
  match rm with
  | .rne => decide (den < 2 * rem) || (decide (2 * rem = den) && odd)
  | .rtz => false
  | .rdn => neg && rem != 0
  | .rup => !neg && rem != 0
  | .rmm => decide (den ≤ 2 * rem)
  | .sto r => decide (r < rem * 2 ^ 32 / den)

/-- m x 2^e rounded to an integer times 2^q, and whether it changed. -/
def roundAt (rm : Rm) (neg : Bool) (m : Nat) (e q : Int) : Nat × Bool :=
  if q ≤ e then (m * 2 ^ (e - q).toNat, false)
  else
    let den := 2 ^ (q - e).toNat
    let n := m / den
    let rem := m % den
    (if rm.up neg (n % 2 == 1) rem den then n + 1 else n, rem != 0)

/-- Flags as VEC_FFLAGS numbers them (Table 6-14): NX 1, UF 2, OF 4, DZ 8, NV 16. `edge` says that the value is tiny before rounding and not
after it, which IEEE 754 leaves to the device (log 14). -/
structure FRes where
  bits  : Nat
  flags : Nat
  made  : Bool
  edge  : Bool := false
deriving DecidableEq, Repr

/-- The canonical NaN of a format as a result; `made` says that no operand was a NaN (R254). -/
def Fmt.nanRes (f : Fmt) (nv made : Bool) : FRes := { bits := f.canon, flags := if nv then 16 else 0, made := made && f.cls != 2 }

/-- The result of an overflow (Table 8-4). -/
def Fmt.overflow (f : Fmt) (rm : Rm) (sat neg : Bool) : FRes :=
  let toInf := match rm with | .rtz => false | .rdn => neg | .rup => !neg | _ => true
  if sat || !toInf || f.cls == 2 then { bits := f.signBit neg + f.maxCode, flags := 5, made := false }
  else if f.cls = 1 then { bits := f.canon, flags := 16, made := true }
  else { bits := f.signBit neg + f.infCode, flags := 5, made := false }

/-- The magnitude code a number rounds to, its exponent range unbounded above, and whether it changed. -/
def Fmt.code (f : Fmt) (rm : Rm) (neg : Bool) (m : Nat) (e : Int) : Nat × Bool :=
  let top : Int := (Nat.log2 m : Int) + e
  let q : Int := max top (1 - (f.bias : Int)) - f.fb
  let (n, inexact) := roundAt rm neg m e q
  (((q + f.fb + f.bias - 1).toNat) * 2 ^ f.fb + n, inexact)

/-- Whether a magnitude below the smallest normal value, rounded with the exponent range unbounded, stays below it. -/
def Fmt.staysTiny (f : Fmt) (rm : Rm) (neg : Bool) (m : Nat) (e : Int) : Bool :=
  let top : Int := (Nat.log2 m : Int) + e
  decide (top < -(f.bias : Int)) || decide ((roundAt rm neg m e (top - f.fb)).1 < 2 ^ (f.fb + 1))

/-- A number rounded into a format with its flags. A result that is inexact sets UF where its value is tiny after rounding (R247, log 14). -/
def Fmt.round (f : Fmt) (rm : Rm) (sat neg : Bool) (m : Nat) (e : Int) : FRes :=
  if m = 0 then { bits := f.signBit neg, flags := 0, made := false }
  else
    let c := f.code rm neg m e
    if f.maxCode < c.1 then
      (match rm with
      | .sto _ => let n := (f.code .rne neg m e).1; if f.maxCode < n then f.overflow .rne sat neg else { bits := f.signBit neg + n, flags := 5, made := false }
      | _ => f.overflow rm sat neg)
    else
      let below := decide ((Nat.log2 m : Int) + e < 1 - (f.bias : Int))
      let tiny := below && f.staysTiny rm neg m e
      { bits := f.signBit neg + c.1, flags := if c.2 then (if tiny then 3 else 1) else 0, made := false, edge := c.2 && below && !tiny }

/-- A result whose tininess the device has decided (log 14). -/
def FRes.settle (r : FRes) : FRes := { r with flags := r.flags ||| (if r.edge && Config.tinyBeforeRounding then 2 else 0) }

/-- A subnormal value of a format as a zero of its sign (R242). -/
def Fmt.flushIn (f : Fmt) (v : FV) : FV :=
  match v with
  | .num neg m e => if (Nat.log2 m : Int) + e < 1 - (f.bias : Int) then .num neg 0 0 else v
  | _ => v

/-- A result in a format's subnormal range as a zero of its sign (R242). -/
def Fmt.flushOut (f : Fmt) (b : Nat) : Nat := if b % 2 ^ (f.w - 1) < 2 ^ f.fb then b / 2 ^ (f.w - 1) * 2 ^ (f.w - 1) else b

/-! ## Conversions -/

/-- A convertible type: a format, or an integer of a width (R217's code list). -/
inductive Ty where
  | flt (f : Fmt)
  | int (w : Nat) (signed : Bool)
deriving DecidableEq, Repr

/-- The type of a cvt format code. -/
def tyOf (code : Nat) : Ty :=
  match code with
  | 0 => .flt fp32 | 1 => .flt fp16 | 2 => .flt bf16 | 3 => .flt e4m3 | 4 => .flt e5m2 | 5 => .flt e2m1 | 6 => .int 8 true
  | 7 => .flt f19 | 8 => .flt fp64 | 9 => .int 32 true | _ => .int 32 false

/-- The bits an element of a type takes in memory; F19 lies in its FP32 container (R240). -/
def Ty.width : Ty → Nat
  | .flt f => if f = f19 then 32 else f.w
  | .int w _ => w

/-- The value of an element of a type; an F19 container is read as FP32 (R240). -/
def Ty.decode (t : Ty) (b : Nat) : FV :=
  match t with
  | .flt f => if f = f19 then fp32.decode b else f.decode b
  | .int w signed => let n := b % 2 ^ w; if signed && bitAt n (w - 1) then .num true (2 ^ w - n) 0 else .num false n 0

/-- Whether fast mode flushes the type's subnormal values on input and on output (Table 8-2). -/
def Ty.flushes (t : Ty) : Bool := t == .flt fp32 || t == .flt fp64 || t == .flt bf16 || t == .flt f19

/-- The bits of a result of a type as they are stored. -/
def Ty.store (t : Ty) (b : Nat) : Nat := if t = .flt f19 then b * 2 ^ 13 else b

/-- An integer result: rounded, or the nearest end of the range (Table 8-4). -/
def intRound (w : Nat) (signed : Bool) (rm : Rm) (neg : Bool) (m : Nat) (e : Int) : FRes :=
  let r := roundAt rm neg m e 0
  let hi : Int := if signed then 2 ^ (w - 1) - 1 else 2 ^ w - 1
  let lo : Int := if signed then -(2 ^ (w - 1)) else 0
  let v : Int := if neg then -(r.1 : Int) else r.1
  let c := max lo (min hi v)
  { bits := (if c < 0 then (2 ^ w + c).toNat else c.toNat), flags := if c ≠ v then 16 else if r.2 then 1 else 0, made := false }

/-- A conversion (R244 to R250): source value, target, rounding, saturation; fast mode flushes results of the formats Table 8-2 names. -/
def convert (dst : Ty) (strict : Bool) (rm : Rm) (sat : Bool) (v : FV) : FRes :=
  match dst with
  | .int w signed =>
    (match v with
    | .nan _ _ _ => { bits := 0, flags := 16, made := false }
    | .inf neg => { bits := (if signed then (if neg then 2 ^ (w - 1) else 2 ^ (w - 1) - 1) else if neg then 0 else 2 ^ w - 1), flags := 16, made := false }
    | .num neg m e => intRound w signed rm neg m e)
  | .flt f =>
    (match v with
    | .nan _ sig _ => f.nanRes (sig || f.cls == 2) false
    | .inf neg =>
      if sat || f.cls == 2 then { bits := f.signBit neg + f.maxCode, flags := if f.cls = 2 then 5 else 1, made := false }
      else if f.cls = 1 then { bits := f.canon, flags := 16, made := true }
      else { bits := f.signBit neg + f.infCode, flags := 0, made := false }
    | .num neg m e =>
      let r := f.round rm sat neg m e
      if strict || !dst.flushes then r else { r with bits := f.flushOut r.bits })

/-- A conversion between two types of the code list, with the input flush of fast mode, stored as its container. -/
def cvtTy (src dst : Ty) (strict : Bool) (rm : Rm) (sat : Bool) (b : Nat) : FRes :=
  let v := src.decode b
  let v := match src with
    | .flt f => if strict || !src.flushes then v else f.flushIn v
    | .int _ _ => v
  let r := convert dst strict rm sat v
  { r with bits := dst.store r.bits, flags := if strict then r.settle.flags else 0 }

/-! ## Operations -/

/-- How an operation runs: strict with a rounding mode, or fast (R199, R200). -/
structure Mode where
  strict : Bool
  rm     : Rm
deriving DecidableEq, Repr

/-- Fast mode. -/
def Mode.fast : Mode := { strict := false, rm := .rne }

/-- An operand's value under a mode. -/
def Fmt.operand (f : Fmt) (md : Mode) (b : Nat) : FV := if md.strict then f.decode b else f.flushIn (f.decode b)

/-- A result under a mode. -/
def Fmt.finish (f : Fmt) (md : Mode) (r : FRes) : FRes :=
  if md.strict then r.settle else { r with bits := f.flushOut r.bits, flags := 0 }

/-- Whether a value is a NaN. -/
def FV.isNan : FV → Bool
  | .nan _ _ _ => true
  | _ => false
/-- Whether a value is a signalling NaN. -/
def FV.isSig : FV → Bool
  | .nan _ sig _ => sig
  | _ => false
/-- The sign of a value. -/
def FV.neg : FV → Bool
  | .nan n _ _ => n
  | .inf n => n
  | .num n _ _ => n
/-- The value with its sign changed. -/
def FV.negate : FV → FV
  | .nan n s f => .nan (!n) s f
  | .inf n => .inf (!n)
  | .num n m e => .num (!n) m e

/-- A signed number n x 2^e rounded into a format; an exact zero takes sign `zneg`. -/
def Fmt.roundInt (f : Fmt) (rm : Rm) (zneg : Bool) (n : Int) (e : Int) : FRes :=
  if n = 0 then { bits := f.signBit zneg, flags := 0, made := false } else f.round rm false (decide (n < 0)) n.natAbs e

/-- A signed mantissa. -/
def sgn (neg : Bool) (m : Nat) : Int := if neg then -(m : Int) else m

/-- The sum of two numbers n x 2^e. -/
def addExact (a b : Int × Int) : Int × Int :=
  let e := min a.2 b.2
  (a.1 * 2 ^ (a.2 - e).toNat + b.1 * 2 ^ (b.2 - e).toNat, e)

/-- The sign of an exact zero sum: that of both addends when they agree, else + (- when rounding down). -/
def zeroSign (rm : Rm) (a b : Bool) : Bool := if a = b then a else rm == .rdn

/-- a + b of values (IEEE 754). -/
def Fmt.addV (f : Fmt) (rm : Rm) (a b : FV) : FRes :=
  match a, b with
  | .nan _ s _, b => f.nanRes (s || b.isSig) false
  | a, .nan _ s _ => f.nanRes (s || a.isSig) false
  | .inf x, .inf y => if x = y then { bits := f.signBit x + f.infCode, flags := 0, made := false } else f.nanRes true true
  | .inf x, _ => { bits := f.signBit x + f.infCode, flags := 0, made := false }
  | _, .inf y => { bits := f.signBit y + f.infCode, flags := 0, made := false }
  | .num x m e, .num y n g =>
    let r := addExact (sgn x m, e) (sgn y n, g)
    f.roundInt rm (zeroSign rm x y) r.1 r.2

/-- a x b of values (IEEE 754). -/
def Fmt.mulV (f : Fmt) (rm : Rm) (a b : FV) : FRes :=
  match a, b with
  | .nan _ s _, b => f.nanRes (s || b.isSig) false
  | a, .nan _ s _ => f.nanRes (s || a.isSig) false
  | .inf x, .inf y => { bits := f.signBit (x != y) + f.infCode, flags := 0, made := false }
  | .inf x, .num y n _ => if n = 0 then f.nanRes true true else { bits := f.signBit (x != y) + f.infCode, flags := 0, made := false }
  | .num x m _, .inf y => if m = 0 then f.nanRes true true else { bits := f.signBit (x != y) + f.infCode, flags := 0, made := false }
  | .num x m e, .num y n g => f.round rm false (x != y) (m * n) (e + g)

/-- a x b + c rounded once (IEEE 754). -/
def Fmt.fmaV (f : Fmt) (rm : Rm) (a b c : FV) : FRes :=
  let sig := a.isSig || b.isSig || c.isSig
  if a.isNan || b.isNan then f.nanRes sig false
  else
    match a, b with
    | .inf x, .num y n _ => if n = 0 then f.nanRes true (!c.isNan) else f.addV rm (.inf (x != y)) c
    | .num x m _, .inf y => if m = 0 then f.nanRes true (!c.isNan) else f.addV rm (.inf (x != y)) c
    | .inf x, .inf y => f.addV rm (.inf (x != y)) c
    | .num x m e, .num y n g => f.addV rm (.num (x != y) (m * n) (e + g)) c
    | _, _ => f.nanRes sig false

/-- A quotient of magnitudes with the rest as a sticky bit, precise enough for every deterministic rounding to `p` bits. -/
def quotient (p m n : Nat) : Nat × Int :=
  let k := p + 3 + Nat.log2 n
  let q := m * 2 ^ k / n
  (q * 2 + b2n (m * 2 ^ k % n != 0), -(k : Int) - 1)

/-- a / b of values (IEEE 754). -/
def Fmt.divV (f : Fmt) (rm : Rm) (a b : FV) : FRes :=
  match a, b with
  | .nan _ s _, b => f.nanRes (s || b.isSig) false
  | a, .nan _ s _ => f.nanRes (s || a.isSig) false
  | .inf _, .inf _ => f.nanRes true true
  | .inf x, .num y _ _ => { bits := f.signBit (x != y) + f.infCode, flags := 0, made := false }
  | .num x _ _, .inf y => { bits := f.signBit (x != y), flags := 0, made := false }
  | .num x m e, .num y n g =>
    if n = 0 then (if m = 0 then f.nanRes true true else { bits := f.signBit (x != y) + f.infCode, flags := 8, made := false })
    else if m = 0 then { bits := f.signBit (x != y), flags := 0, made := false }
    else
      let q := quotient (f.fb + 2) m n
      f.round rm false (x != y) q.1 (q.2 + e - g)

/-- The square root of a value (IEEE 754). -/
def Fmt.sqrtV (f : Fmt) (rm : Rm) (a : FV) : FRes :=
  match a with
  | .nan _ s _ => f.nanRes s false
  | .inf neg => if neg then f.nanRes true true else { bits := f.infCode, flags := 0, made := false }
  | .num neg m e =>
    if m = 0 then { bits := f.signBit neg, flags := 0, made := false }
    else if neg then f.nanRes true true
    else
      let k := 2 * (f.fb + 4) + b2n (e % 2 == 1)
      let v := m * 2 ^ k
      let r := Nat.sqrt v
      f.round rm false false (r * 2 + b2n (r * r != v)) ((e - (k : Int)) / 2 - 1)

def Fmt.add (f : Fmt) (md : Mode) (a b : Nat) : FRes := f.finish md (f.addV md.rm (f.operand md a) (f.operand md b))
def Fmt.sub (f : Fmt) (md : Mode) (a b : Nat) : FRes := f.finish md (f.addV md.rm (f.operand md a) (f.operand md b).negate)
def Fmt.mul (f : Fmt) (md : Mode) (a b : Nat) : FRes := f.finish md (f.mulV md.rm (f.operand md a) (f.operand md b))
def Fmt.fma (f : Fmt) (md : Mode) (a b c : Nat) : FRes :=
  f.finish md (f.fmaV md.rm (f.operand md a) (f.operand md b) (f.operand md c))
def Fmt.div (f : Fmt) (md : Mode) (a b : Nat) : FRes := f.finish md (f.divV md.rm (f.operand md a) (f.operand md b))
def Fmt.sqrt (f : Fmt) (md : Mode) (a : Nat) : FRes := f.finish md (f.sqrtV md.rm (f.operand md a))

/-- The order of two values; none when one is a NaN. -/
def FV.cmp (a b : FV) : Option Ordering :=
  match a, b with
  | .nan _ _ _, _ => none
  | _, .nan _ _ _ => none
  | .inf x, .inf y => some (if x = y then .eq else if x then .lt else .gt)
  | .inf x, _ => some (if x then .lt else .gt)
  | _, .inf y => some (if y then .gt else .lt)
  | .num x m e, .num y n g =>
    let d := (addExact (sgn x m, e) (-(sgn y n), g)).1
    some (if d < 0 then .lt else if d = 0 then .eq else .gt)

/-- The FP32 addition of an atomic: nearest even, subnormals kept, the canonical NaN (R365). -/
def faddAtomic (a b : Word) : Word :=
  BitVec.ofNat 32 (fp32.addV .rne (fp32.decode a.toNat) (fp32.decode b.toNat)).bits

/-- A number of an FV for bound checks: n x 2^e. -/
def FV.exact : FV → Option (Int × Int)
  | .num neg m e => some (sgn neg m, e)
  | _ => none

/-- Whether |a - b| is at most `k` numbers of size 2^u. -/
def within (a b : Int × Int) (k : Nat) (u : Int) : Bool :=
  let d := addExact a (-b.1, b.2)
  let t := addExact ((d.1.natAbs : Int), d.2) (-(k : Int), u)
  decide (t.1 ≤ 0)

/-- The exponent of the unit in the last place of a number, at least that of the smallest normal value (R201). -/
def Fmt.ulpExp (f : Fmt) (m : Nat) (e : Int) : Int := (Nat.log2 m : Int) + e - f.fb

/-! ## Random words (R251) -/

def mix (z : DWord) : DWord :=
  let z := (z ^^^ (z >>> 30)) * 0xBF58476D1CE4E5B9
  let z := (z ^^^ (z >>> 27)) * 0x94D049BB133111EB
  z ^^^ (z >>> 31)
def laneKey (seed : DWord) (core lid : Nat) : DWord := mix (seed ^^^ BitVec.ofNat 64 (core * 65536 ||| lid))
def srWord (key ctr : DWord) : Nat := ((mix (key + ctr * 0x9E3779B97F4A7C15)) >>> 32).toNat

end Sys2Proof.Machine
end

