-- ==== Sys2Proof/Machine/CohOps.lean ====
section
/-! DEFINITION. The homes and caches: directory entries, transactions (R358 to R364), the memory-side atomic unit (R366, R367), and the
accesses of an agent whose transaction runs alone, in one step. Messages are numbered as Table 15-5 numbers their opcodes. -/

namespace Sys2Proof.Machine

/-- The number of a request or notice (Table 15-5). -/
def ReqKind.code : ReqKind → Nat
  | .rdS => 1 | .rdX => 2 | .upg => 3 | .rdNA => 4 | .wrF => 5 | .wrP => 6 | .atom _ _ _ _ _ => 7 | .evC => 8 | .wb => 9 | .clean => 10
  | .evict => 0 | .recall => 0 | .flip _ => 0

/-- Whether a request names its requester by caching agent ID (R352, R356); the others name a master agent. -/
def ReqKind.caching (k : ReqKind) : Bool := k.code ≤ 3 || 8 ≤ k.code

/-- The stack a requester belongs to (R363): the companion's is that of its port's die. -/
def reqStack (k : ReqKind) (m : CohMsg) : Nat :=
  if (if k.caching then m.agent == 100 else decide (51200 ≤ m.agent)) then dieStack (92 + m.sender % 2)
  else if k.caching then agentStack m.agent else dieStack (m.agent / 512)

/-- The die of a requester or a cache: of a master agent, or of a caching agent (R14, R352). -/
def agentDie (a : Nat) (master : Bool) : Nat :=
  if master then a / 512 else if a < 36 then 36 + a else if a < 100 then 32 + (a - 36) / 16 else 92

/-- Whether a line lies in companion memory: physical places from 2^52 on name companion addresses (R353). -/
def isHost (l : Nat) : Bool := decide (2 ^ 45 ≤ l)

/-- The die whose home a line has. -/
def homeDieOf (l : Nat) : Nat := if isHost l then 92 else homeDie (l * 128)

/-- The Hallway channel of a coherence message (Table 12-4). Requests of stream engines and collective engines, and their data, travel on the bulk
stream channel: `bulk` says that the requester is one (R357). -/
def cohChannel (code : Nat) (bulk : Bool) : HalVc :=
  if code ∈ [1, 2, 3, 4, 7, 8] then (if bulk then .bulk else .request)
  else if code ∈ [5, 6, 9, 10, 0x10, 0x11] then (if bulk then .bulk else .data)
  else if code ∈ [0xB, 0xC, 0xD, 0xE, 0xF] then .snoop
  else .response

/-- Whether a master agent is a stream engine or a share of the collective engine (Table 17-1). -/
def bulkAgent (a : Nat) : Bool :=
  let d := a / 512
  (decide (d < 32) && a % 512 % 16 == 4) || (decide (84 ≤ d) && decide (d < 92) && a % 512 == 8)

/-- The partition of a requester: of a core, of a hart, or of the agent that a base-die cache reads for. -/
def State.agentPart (s : State) (m : CohMsg) : Option Nat :=
  let ofMaster (a : Nat) : Option Nat :=
    if a / 512 < 32 then s.corePart (a / 512 * 20 + a % 512 / 16)
    else if a / 512 < 36 ∧ a % 512 < 64 then s.hartPart ((a / 512 - 32) * 64 + a % 512)
    else (s.hostWrites.find? (fun w => w.sub == a && w.line == m.line && w.txn == m.txn)).map (·.part)
  if m.master then ofMaster m.agent
  else if m.agent < 36 then
    (((s.baseCache m.agent).wants.find? (fun w => w.msg.line == m.line)).bind (fun w => w.back.head?)).bind (fun r => ofMaster r.agent)
  else s.hartPart (4 * (m.agent - 36))

/-- The port whose die holds the host-line directory for a message of a companion line: that of its requester's partition (R420); the companion's
own messages name theirs. -/
def State.hostPort (s : State) (m : CohMsg) : Nat :=
  if m.agent = 100 ∨ 51200 ≤ m.agent then m.sender % 2
  else match (s.agentPart m).map s.partPort with
    | some p => if p < 2 then p else s.compPort.getD 0
    | none => s.compPort.getD 0

/-- Sends a coherence message over the Hallway, to a home's die or to an agent, on its channel (Table 12-4). -/
def State.cohOut (s : State) (src code dest : Nat) (m : CohMsg) : State :=
  let home := decide (code ≤ 10) || code == 0x11 || code == 0x13 || code == 0x14 || code == 0x15
  let target := if home && isHost m.line then (if dest = 92 then 92 + s.hostPort m else dest) else dest
  let x : Msg := .coh code target m
  (s.inject src (if home then target else agentDie target m.master) (cohChannel code (m.master && bulkAgent m.agent)) x).send x

/-- The function a message to the companion names (R415): of an answer to the companion that of its request, of a snoop the line's, of a request
that of the requester's partition. -/
def State.cohFn (s : State) (p code : Nat) (m : CohMsg) : Nat :=
  if 0xB ≤ code ∧ code ≤ 0xF ∧ !isHost m.line then s.lineFn p m.line
  else if m.agent = 100 ∨ 51200 ≤ m.agent then m.sender / 2 % 8
  else (s.agentPart m).getD 0

/-- What a link knows of a core's write to companion memory (R442). -/
def State.coreTag (s : State) (code : Nat) (m : CohMsg) : Option WriteTag :=
  if code = 5 ∨ code = 6 then
    (s.hostWrites.find? (fun w => w.sub == m.agent && w.line == m.line && w.txn == m.txn)).map (fun w => { part := w.part, queue := w.queue, posted := false })
  else none

/-- Sends a coherence message to the companion by a port; one that carries no traffic sends nothing. -/
def State.sendHost (s : State) (p code : Nat) (m : CohMsg) : State :=
  if s.jxlState p = 2 ∨ s.jxlState p = 3 then
    (if h : p < 2 then s.sendLinkCoh ⟨p, h⟩ code (s.cohFn p code m) (s.coreTag code m) m else s)
  else s

/-- Sends a coherence message to a caching agent, over the link to the companion. -/
def State.sendCoh (s : State) (code target : Nat) (m : CohMsg) : State :=
  if target = 100 ∧ isHost m.line then s.sendHost (s.hostPort m) code m
  else if target = 100 then
    (match s.compPort with
    | some p => if h : p < 2 then s.sendLinkCoh ⟨p, h⟩ code (s.cohFn p code m) none m else s
    | none => s)
  else s.cohOut (homeDieOf m.line) code target m

/-- Sends an answer to a transaction's requester. -/
def State.answer (s : State) (k : ReqKind) (code : Nat) (m : CohMsg) : State :=
  if k.caching then s.sendCoh code m.agent m else if 51200 ≤ m.agent then s.sendCoh code 100 m
  else s.cohOut (homeDieOf m.line) code m.agent { m with master := true }

/-! ## Directory entries (Table 12-3) -/

/-- The owner an entry names, if any. -/
def DirEntry.own (e : DirEntry) : Option Nat := if e.st = .S then none else some e.owner
/-- Every holder an entry names. -/
def DirEntry.holders (e : DirEntry) : List Nat := e.own.toList ++ e.members
/-- Adds a sharer: a fourth ID makes the vector coarse. -/
def DirEntry.addSharer (e : DirEntry) (a : Nat) : DirEntry :=
  if e.coarse then { e with sharers := if e.sharers.contains (a / 4) then e.sharers else e.sharers ++ [a / 4] }
  else if e.sharers.contains a then e
  else if e.sharers.length < 3 then { e with sharers := e.sharers ++ [a] }
  else { e with coarse := true, sharers := ((e.sharers ++ [a]).map (· / 4)).dedup }
/-- An entry of sharers only, from a list of agents; none for an empty list. -/
def sharersEntry (l : List Nat) : Option DirEntry :=
  match l with
  | [] => none
  | a :: r => some (r.foldl DirEntry.addSharer { st := .S, owner := 0, coarse := false, sharers := [a] })
/-- An entry with one owner. -/
def ownerEntry (a : Nat) : DirEntry := { st := .X, owner := a, coarse := false, sharers := [] }
/-- Removes an agent from an entry; none when nothing is left. A coarse vector keeps its groups. -/
def DirEntry.delAgent (e : DirEntry) (a : Nat) : Option DirEntry :=
  let sh := if e.coarse then e.sharers else e.sharers.filter (· != a)
  if e.own.isSome && e.owner != a then some { e with sharers := sh }
  else if sh.isEmpty then none else some { e with st := .S, owner := 0, sharers := sh }

/-- Whether a request is the companion's: as caching agent 100, or by an agent number beyond the dies' (R352, R356). -/
def fromComp (k : ReqKind) (m : CohMsg) : Bool := if k.caching then m.agent == 100 else decide (51200 ≤ m.agent)

/-- Refuses a request of the companion with a status (Table 15-6). The message names its port and its function in `sender`. -/
def State.refuseComp (s : State) (m : CohMsg) (status : Nat) : State :=
  s.send (.link ⟨m.sender % 2, Nat.mod_lt _ (by decide)⟩ {
    opcode := 0x12, fn := ⟨m.sender / 2 % 8, Nat.mod_lt _ (by decide)⟩, tag := m.txn.setWidth 16, status := status, addr := s.localOf (m.line * 128),
    aux := 0, len := 0, mask := 0, data := [], poison := false })

/-- Whether a line's page, or the line itself while its page is in flip, is in shared bias (R422, R425). -/
def State.sharedBias (s : State) (l : Nat) : Bool :=
  match (s.line l).bias with
  | some b => b
  | none => s.shared.contains (s.localOf (l * 128) / 4096)

/-- Whether a grant sequence is older than another, modulo 2^12 (R362). -/
def older (a b : BitVec 12) : Bool := decide (0 < (b - a).toNat) && decide ((b - a).toNat < 2048)

/-- A completion of a write, cleaning or eviction to the L2 that sent it. -/
def State.wbAck (s : State) (m : CohMsg) : State := s.sendCoh 0x16 m.agent m

/-! ## The home -/

/-- A write-back, cleaning or eviction notice on a line without an open transaction (R358, R362). -/
def State.noticeNow (s : State) (k : ReqKind) (m : CohMsg) : State :=
  let l := m.line
  let h := s.line l
  match k with
  | .evC => s.setLine l { h with entry := h.entry.bind (fun e => e.delAgent m.agent) }
  | .wb =>
    if older m.gseq h.gseq then (s.inc64 (homeDieOf l) 0x40020).wbAck m
    else
      let s := s.memWrite l fullMask m.data m.poison
      (s.setLine l { s.line l with entry := h.entry.bind (fun e => e.delAgent m.agent) }).wbAck m
  | .clean =>
    if older m.gseq h.gseq then (s.inc64 (homeDieOf l) 0x40020).wbAck m
    else
      let s := s.memWrite l fullMask m.data m.poison
      (s.setLine l { s.line l with entry := h.entry.map (fun e =>
        if e.st = .OS ∧ e.owner = m.agent then ({ e with st := .S, owner := 0 } : DirEntry).addSharer m.agent else e) }).wbAck m
  | _ => s

/-- A notice arrives: on a blocked line a stale write-back is discarded, its WbAck withheld until its sender has answered the
transaction's snoop; every other notice is held until the transaction closes (R360, R362). -/
def State.homeNotice (s : State) (k : ReqKind) (m : CohMsg) : State :=
  let h := s.line m.line
  match h.txn with
  | none => s.noticeNow k m
  | some t =>
    if k != .evC && older m.gseq h.gseq then
      let s := s.inc64 (homeDieOf m.line) 0x40020
      if t.snoops.contains m.agent then s.setLine m.line { h with staleAck := h.staleAck ++ [m] } else s.wbAck m
    else s.setLine m.line { h with held := h.held ++ [(k, m)] }

/-- The home sends the line from memory to the requester (R358). -/
def State.memData (s : State) (k : ReqKind) (m : CohMsg) (grant : Moesi) (final : Bool) : State :=
  (s.countLine m.line).answer k 0x10 { m with data := s.memLine m.line, poison := s.memBad m.line, grant := grant, final := final }

/-- The home reads the line's memory for the requester; at a channel in HOLD the read waits, and with it the transaction (R339, R358). -/
def State.homeData (s : State) (k : ReqKind) (m : CohMsg) (grant : Moesi) (final : Bool) : State :=
  if s.lineHeld m.line then
    let s := s.holdHome m.line false 0 [] false
    let h := s.line m.line
    s.setLine m.line { h with txn := h.txn.map (fun t => { t with memory := some (grant, final) }) }
  else s.memData k m grant final

/-- The state a read's requester is granted in place of a sharer or owner that supplies. -/
def grantOf : ReqKind → Moesi
  | .rdS => .S
  | .rdX => .M
  | _ => .I

/-- A requester's name: caching agents and master agents are numbered apart (R352). -/
def reqName (m : CohMsg) : Nat := if m.master then 2 ^ 20 + m.agent else m.agent

/-- The Retry answer: with STARVE at 4 or more the line's next free waiter place is reserved for the requester (R361). -/
def State.homeRetry (s : State) (k : ReqKind) (m : CohMsg) : State :=
  let h := s.line m.line
  let take := match h.reserved with | some r => decide (r.2.2 < m.starve) | none => true
  let s := s.inc64 (homeDieOf m.line) 0x40018
  let s := if 4 ≤ m.starve.val && take then s.setLine m.line { h with reserved := some (reqName m, m.txn, m.starve) } else s
  { s.answer k 0x17 m with refused := s.refused ++ [(k, m)] }

/-- The number of bits of an atomic's width code (Table 15-5). -/
def atomBits (width : Nat) : Nat := 32 * 2 ^ (width % 3)

/-- The line after an atomic and the old value (R365). -/
def atomLine (d : List Byte) (op : AtomOp) (width off : Nat) (operand compare : BitVec 128) : List Byte × Nat :=
  let n := atomBits width / 8
  let old := leAt d off n
  let new := atomResult op (atomBits width) old operand.toNat compare.toNat faddAtomic
  (d.take off ++ leBytes n new ++ d.drop (off + n), old)

/-- Puts a line into its home's memory-side atomic unit, most recently used last; with 64 buffers in use the least recently used line
without an open transaction is written back (R360, R367). -/
def State.msauTake (s : State) (l : Nat) (d : List Byte) : State :=
  let h := homeOf (l * 128)
  let bs := s.msau.get [] h
  let s := if (bs.any (fun b => b.1 == l)) || decide (bs.length < 64) then s else
    match (bs.find? (fun b => (s.line b.1).txn.isNone)).orElse (fun _ => bs.head?) with
    | some b => s.msauRelease b.1
    | none => s
  { s with msau := s.msau.set [] h ((s.msau.get [] h).filter (fun b => b.1 != l) ++ [(l, d)]) }

/-- The directory set of a line: its line number within its home, modulo the sets (R355; log 16). -/
def dirSet (l : Nat) : Nat :=
  let ph := l * 128
  if ph < 2 ^ 40 then l % 2 ^ 26 % 65536 else l % 2 ^ 29 % 131072

/-- The lines that take a way of the set of a line: those with a directory entry or an open transaction (R355, R364). -/
def State.setLines (s : State) (l : Nat) : List Nat :=
  (s.lines.cells.filter (fun c => (c.2.entry.isSome || c.2.txn.isSome) && homeOf (c.1 * 128) == homeOf (l * 128) && dirSet c.1 == dirSet l)).map (·.1)

/-- The victims R364 prefers: base-die-cache holders only, then sharers only, then any; never a line with an open transaction. -/
def State.victims (s : State) (l : Nat) : List Nat :=
  let vs := (s.setLines l).filter (fun v => !s.lineBlocked v)
  let base := vs.filter (fun v => match (s.line v).entry with | some e => e.st == .S && e.members.all (fun a => decide (a < 36)) | none => false)
  let shared := vs.filter (fun v => match (s.line v).entry with | some e => e.st == .S | none => false)
  if !base.isEmpty then base else if !shared.isEmpty then shared else vs

/-- The victim the home takes among those R364 prefers: its pseudo-LRU order is a free choice (log 17). -/
def State.pickVictim (s : State) (l : Nat) : Option Nat :=
  let vs := s.victims l
  if vs.isEmpty then none else vs[Config.freeNat s.fresh % vs.length]?

/-- Opens the transaction of a request on an unblocked line: grant sequence, snoops, the data the home supplies, and the entry that
follows (R358, Table 12-5, R359, R363). Every request finds the entry without the agents that are fenced (R369). -/
def State.openTxn (s : State) (k : ReqKind) (m : CohMsg) : State :=
  let l := m.line
  let h := s.line l
  let e := h.entry
  let others := ((e.map (·.holders)).getD []).filter (fun a => !(k.caching && a == m.agent))
  let live := others.filter s.agentLive
  let members := ((e.map (·.members)).getD []).filter (fun a => !(k.caching && a == m.agent) && s.agentLive a)
  let own : Option Nat := (e.bind (·.own)).filter (fun a => live.contains a)
  let met : Option DirEntry := e.bind (fun e => (e.holders.filter (fun a => !s.agentLive a)).foldl (fun (x : Option DirEntry) a =>
    x.bind (fun y => y.delAgent a)) (some e))
  let moves := match k with | .rdS | .rdNA => false | .flip _ | .recall => false | .evict => (e.bind (·.own)).isSome | _ => true
  let g := if moves then h.gseq + 1 else h.gseq
  let m := { m with gseq := g }
  let start (s : State) (t : Txn) : State := s.setLine l { s.line l with gseq := g, txn := some t }
  let snoop (s : State) (code : Nat) (a : Nat) (final : Bool) : State := s.sendCoh code a { m with final := final }
  let invs (s : State) (l : List Nat) : State := overList s l (fun s a => snoop s 0xE a false)
  let txn (sn : List Nat) (sup : Option (Nat × Bool)) (cmp ack : Bool) (next : Option DirEntry) : Txn :=
    { kind := k, msg := m, needAck := ack, snoops := sn, supplier := sup, cmpSent := cmp, next := next, since := s.time }
  match k with
  | .rdS =>
    (match e, own with
    | none, _ =>
      let x : Bool := decide (m.agent < 36)
      let s := start s (txn [] none true true (if x then sharersEntry [m.agent] else some (ownerEntry m.agent)))
      s.homeData k m (if x then .S else .E) true
    | some e, some o =>
      let s := start s (txn [o] (some (o, false)) true true (some (({ met.getD e with st := .OS } : DirEntry).addSharer m.agent)))
      snoop s 0xB o true
    | some e, none =>
      let next := match (if e.st = .S then met else sharersEntry members) with | some x => some (x.addSharer m.agent) | none => sharersEntry [m.agent]
      match s.nearest members (reqStack k m) with
      | some t => snoop (start s (txn [t] (some (t, true)) true true next)) 0xB t true
      | none => (start s (txn [] none true true next)).homeData k m .S true)
  | .rdX =>
    let next := some (ownerEntry m.agent)
    let sup := match own with | some o => some (o, false) | none => (s.nearest members (reqStack k m)).map (fun t => (t, true))
    let rest := live.filter (fun a => some a != sup.map (·.1))
    let s := start s (txn ((sup.map (·.1)).toList ++ rest) sup rest.isEmpty true next)
    let s := invs s rest
    (match sup with
    | some (t, _) => snoop s 0xC t rest.isEmpty
    | none => s.homeData k m .M rest.isEmpty)
  | .upg => invs (start s (txn live none false true (some (ownerEntry m.agent)))) live
  | .rdNA =>
    let sup := match own with | some o => some (o, false) | none => (s.nearest members (reqStack k m)).map (fun t => (t, true))
    let s := start s (txn (sup.map (·.1)).toList sup true true met)
    (match sup with
    | some (t, _) => snoop s 0xD t true
    | none => s.homeData k m .I true)
  | .wrF => invs (start s (txn live none false true none)) live
  | .wrP =>
    let w := dieStack (m.agent / 512)
    let keep := decide (m.agent < 51200) && (e.map (fun e => e.st == .S && e.members.contains w && s.agentLive w)).getD false
    let targets := if keep then live.filter (· != w) else live
    let s := start s (txn targets none false true (if keep then sharersEntry [w] else none))
    (match own with
    | some o => invs (snoop s 0xF o false) (targets.filter (· != o))
    | none => invs s targets)
  | .atom _ _ _ _ _ =>
    let s := start s (txn live none false true (if s.sharedBias l then none else some (ownerEntry 127)))
    (match own with
    | some o => invs (snoop s 0xF o false) (live.filter (· != o))
    | none => invs s live)
  | .evict =>
    let s := (start s (txn live none false false none)).inc64 (homeDieOf l) 0x40010
    (match own with
    | some o => invs (snoop s 0xF o false) (live.filter (· != o))
    | none => invs s live)
  | .recall =>
    let c := live.filter (fun a => a == 100)
    if c.isEmpty then s
    else
      let s := start s (txn c none false false (met.bind (fun e => e.delAgent 100)))
      if own = some 100 then snoop s 0xF 100 false else invs s c
  | .flip toDevice =>
    let c := live.filter (fun a => a == 100)
    if toDevice then
      let s := start s (txn c none false false (met.bind (fun e => e.delAgent 100)))
      if own = some 100 then snoop s 0xF 100 false else invs s c
    else start s (txn [] none false false met)
  | _ => s

/-- Performs an atomic whose line is recalled: on a poisoned line it is not performed (R366 to R368). -/
def State.doAtom (s : State) (k : ReqKind) (m : CohMsg) : State :=
  match k with
  | .atom op width off operand compare =>
    let d := (s.buffered m.line).getD (s.memLine m.line)
    if s.memBad m.line && (s.buffered m.line).isNone then s.send (.contained m.agent 0x119)
    else
      let r := atomLine d op width off operand compare
      let s := if (s.buffered m.line).isSome then s else s.countLine m.line
      let s := if s.sharedBias m.line then s.memWrite m.line fullMask r.1 false
        else (s.msauTake m.line r.1).inc64 (homeDieOf m.line) 0x40030
      s.answer k 0x12 { m with data := leBytes 16 r.2 }
  | _ => s

/-- What a home does when every snoop of a transaction is answered and its completion is still to be sent (R358, R359). -/
def State.completeTxn (s : State) (t : Txn) : State :=
  match t.kind with
  | .wrF => (s.memWrite t.msg.line fullMask t.msg.data t.msg.poison).answer t.kind 0x12 t.msg
  | .wrP => (s.memWrite t.msg.line t.msg.mask t.msg.data t.msg.poison).answer t.kind 0x12 t.msg
  | .atom _ _ _ _ _ => s.doAtom t.kind t.msg
  | .rdX | .upg => s.answer t.kind 0x12 t.msg
  | .flip toDevice => s.setLine t.msg.line { s.line t.msg.line with bias := some (!toDevice) }
  | _ => s

/-- Whether a transaction awaits no CmpAck: an atomic that poison stopped sends no completion to acknowledge. -/
def State.atomStopped (s : State) (t : Txn) : Bool :=
  match t.kind with
  | .atom _ _ _ _ _ => s.memBad t.msg.line && (s.buffered t.msg.line).isNone
  | _ => false

/-- Whether an atomic that is about to be performed must wait for its channel, which is in HOLD (R339). -/
def State.atomWaits (s : State) (t : Txn) : Bool :=
  match t.kind with
  | .atom _ _ _ _ _ => !t.cmpSent && s.lineHeld t.msg.line && (s.buffered t.msg.line).isNone
  | _ => false

mutual
/-- Moves a line's transaction on: its completion when all snoops are answered, and its close when the requester has acknowledged;
then held notices, the line's waiters, and requests of the home that wait for a directory way (R360, R364). -/
def advance (fuel : Nat) (s : State) (l : Nat) : State :=
  match fuel with
  | 0 => s
  | fuel + 1 =>
    match (s.line l).txn with
    | none => s
    | some t =>
      if !t.snoops.isEmpty || t.memory.isSome then s
      else if s.atomWaits t then (s.holdHome l false 0 [] false).setLine l { s.line l with txn := some { t with memory := some (.I, false) } }
      else
        let stopped := s.atomStopped t
        let s := if t.cmpSent then s else s.completeTxn t
        let t := { t with cmpSent := true, needAck := t.needAck && !stopped, next := if stopped then none else t.next }
        let h := s.line l
        if t.needAck then s.setLine l { h with txn := some t }
        else
          let gone := t.next == some (ownerEntry 127) && (s.buffered l).isNone
          let s := s.setLine l { h with entry := if gone then none else t.next, txn := none, held := [], staleAck := [] }
          let s := overList s h.staleAck State.wbAck
          let s := overList s h.held (fun s x => s.noticeNow x.1 x.2)
          let s := serveWaiter fuel s l
          let waiting := (s.lines.cells.filter (fun c => c.1 != l && c.2.txn.isNone && !c.2.waiters.isEmpty && homeOf (c.1 * 128) == homeOf (l * 128))).map (·.1)
          waiting.foldl (fun s v => serveWaiter fuel s v) s

/-- Takes the next waiter of an unblocked line. -/
def serveWaiter (fuel : Nat) (s : State) (l : Nat) : State :=
  match fuel with
  | 0 => s
  | fuel + 1 =>
    let h := s.line l
    if h.txn.isSome then s
    else match h.waiters with
      | [] => s
      | w :: ws =>
        let s := homeServe fuel (s.setLine l { h with waiters := ws }) w.1 w.2
        if (s.line l).txn.isNone && decide ((s.line l).waiters.length < h.waiters.length) then serveWaiter fuel s l else s

/-- Serves a request on an unblocked line: the companion's, but for its atomics, only in shared bias, as the home holds it now (R418, R419, R425); an
atomic on a buffered line at once; otherwise the buffer is released, a directory way is
found, and the transaction opens (R358, R364, R367). -/
def homeServe (fuel : Nat) (s : State) (k : ReqKind) (m : CohMsg) : State :=
  match fuel with
  | 0 => s
  | fuel + 1 =>
    let l := m.line
    let isAtom := match k with | .atom _ _ _ _ _ => true | _ => false
    if fromComp k m && k.code != 0 && !isAtom && !s.sharedBias l then s.refuseComp m 3
    else if isAtom && (s.buffered l).isSome && !s.sharedBias l then s.doAtom k m
    else
      let s := s.msauRelease l
      let h := s.line l
      let listed : Bool := match h.entry with
        | some e => (!e.coarse && e.st == .S && e.sharers.contains m.agent) || (e.st == .OS && e.owner == m.agent)
        | none => false
      let k := match k with | .upg => if listed then .upg else .rdX | k => k
      if h.entry.isNone && decide (16 ≤ (s.setLines l).length) then
        let s := s.setLine l { h with waiters := (k, m) :: h.waiters }
        match s.pickVictim l with
        | none => s
        | some v =>
          let s := s.bump
          advance fuel ((s.openTxn .evict { m with line := v }).msauRelease v) v
      else advance fuel (s.openTxn k m) l
end

/-- Fuel for a home's chain of services: every step of it ends a transaction or takes a waiter. -/
def State.homeFuel (s : State) : Nat := 16 + 4 * ((s.lines.cells.map (fun c => c.2.waiters.length + 1)).sum)

/-- The most transactions a home holds open (R361). -/
def homeMax (h : Nat) : Nat := if h < 36 then 1024 else 4096

/-- A request arrives at a line's home: refused before its memory is in service or during the home's reset, queued on a blocked line
up to 8 waiters, refused with Retry beyond, else served (R90, R360, R361, R370). -/
def State.homeRequest (s : State) (k : ReqKind) (m : CohMsg) : State :=
  let l := m.line
  let home := homeOf (l * 128)
  if !s.inService (l * 128) then s.send (.contained m.agent (s.notReady (l * 128)))
  else if s.fld (homeDieOf l) 0x40000 31 30 = 1 then s.send (.contained m.agent 0x102)
  else
    let h := s.line l
    let mine := match h.reserved with | some r => r.1 == reqName m && r.2.1 == m.txn | none => true
    if homeMax home ≤ s.homeOpen home then s.homeRetry k m
    else if h.txn.isSome || !h.waiters.isEmpty then
      if h.waiters.length + (if mine then 0 else 1) < 8 then
        s.setLine l { h with waiters := h.waiters ++ [(k, m)], reserved := if mine then none else h.reserved }
      else s.homeRetry k m
    else homeServe s.homeFuel (s.setLine l { h with reserved := if mine then none else h.reserved }) k m

/-- An answer of the companion that comes more than 800 ns after its snoop counts as late and is reported (R421). -/
def State.noteLate (s : State) (a since : Nat) : State :=
  if a = 100 ∧ since + 800 < s.time then
    match s.compPort with
    | some p => (s.inc (92 + p) 0x80024).noteFault (mkFault (dieOf (92 + p)) 0x3A 0 .none 0 0 5)
    | none => s
  else s

/-- An answer to a transaction's snoop: with SUPERSEDED the sender's withheld WbAck is sent, and the transaction moves on; a WbAck still withheld
is sent when it closes (R360, R362). -/
def State.snoopAnswered (s : State) (l a : Nat) (superseded : Bool) (f : Txn → Txn) : State :=
  let h := s.line l
  match h.txn with
  | none => s
  | some t =>
    if t.snoops.contains a then
      let s := s.noteLate a t.since
      let due (m : CohMsg) : Bool := superseded && m.agent == a
      let s := overList s (h.staleAck.filter due) State.wbAck
      let s := s.setLine l { s.line l with
        txn := some (f { t with snoops := t.snoops.erase a }), staleAck := h.staleAck.filter (fun m => !due m) }
      advance s.homeFuel s l
    else s

/-- An owner or sharer without the line answered NODATA: the home supplies it from memory (R363), with FINAL, and so without a Cmp, when
no invalidation is outstanding (R359). -/
def State.noDataFrom (s : State) (l a : Nat) : State :=
  match (s.line l).txn with
  | none => s
  | some t =>
    if t.snoops.contains a && (t.supplier.map (·.1)) == some a then
      let last := (t.snoops.erase a).isEmpty
      let s := s.homeData t.kind t.msg (grantOf t.kind) last
      let h := s.line l
      s.setLine l { h with txn := h.txn.map (fun t => { t with cmpSent := t.cmpSent || last }) }
    else s

/-- A read of memory that the home's transaction waited for: its data goes to the requester, and the transaction moves on (R339). The transfer counts
here, and not at the channel's queue (R342). -/
def State.memServed (s : State) (l : Nat) : State :=
  match (s.line l).txn with
  | none => s
  | some t =>
    match t.memory with
    | none => s
    | some (grant, final) =>
      let s := s.setLine l { s.line l with txn := some { t with memory := none } }
      let s := match t.kind with | .atom _ _ _ _ _ => s | k => s.memData k t.msg grant final
      advance s.homeFuel s l

/-! ## The companion's copies and accesses in one step -/

/-- Whether the companion holds a line in a way an access in one step must take back: as owner, or for a write as sharer. -/
def State.compHolds (s : State) (l : Nat) (write : Bool) : Bool :=
  s.compOwns l || (write && (match (s.line l).entry with | some e => e.members.contains 100 | none => false))

/-- The home takes back the companion's copy of an unblocked line: SnpRecall to an owner, SnpInv to a sharer (log 20). -/
def State.recallComp (s : State) (l : Nat) : State :=
  s.openTxn .recall {
    line := l, agent := 127, txn := 0, gseq := 0, data := [], mask := 0, poison := false, grant := .I, final := false,
    superseded := false, noData := false, starve := 0, sender := 0 }

/-- The victim of a set for an access in one step: none the companion holds (log 20). -/
def State.pickLocal (s : State) (l : Nat) : Option Nat :=
  let vs := (s.victims l).filter (fun v => !s.compHolds v true)
  if vs.isEmpty then none else vs[Config.freeNat s.fresh % vs.length]?

/-- Makes a directory way for a line in one step: a victim's copies are taken back and dirty data is written to memory; none where
every way has an open transaction (R364). -/
def State.makeWay (s : State) (l : Nat) : Option State :=
  if (s.line l).entry.isSome || decide ((s.setLines l).length < 16) then some s
  else match s.pickLocal l with
    | none => none
    | some v =>
      let d := s.lineNow v
      let owned := (s.ownerOf v).isSome
      let moves := owned || (s.buffered v).isSome
      let s := (s.msauRelease v).dropCopies v
      let h := s.line v
      let s := s.setLine v { h with entry := none, gseq := if moves then h.gseq + 1 else h.gseq }
      some (((if owned then s.memWrite v fullMask d.1 d.2 else s).inc64 (homeDieOf v) 0x40010).bump)

/-- Whether an access in one step may go on at a line; where the companion's copy stands in the way, its recall begins. A line without an entry
takes a way of its set: a victim's copies are taken back at once, those of the companion by the home's eviction (R364). -/
def State.lineFree (s : State) (l : Nat) (write : Bool) : State × Bool :=
  if s.lineBlocked l then (s, false)
  else if s.compHolds l write then (s.recallComp l, false)
  else match s.makeWay l with
    | some s => (s, true)
    | none =>
      match s.pickVictim l with
      | none => (s, false)
      | some v =>
        (advance s.homeFuel (s.bump.openTxn .evict {
          line := v, agent := 127, txn := 0, gseq := 0, data := [], mask := 0, poison := false, grant := .I, final := false,
          superseded := false, noData := false, starve := 0, sender := 0 }) v, false)

/-- The same for every line of a range of local addresses. -/
def State.rangeFree (s : State) (a n : Nat) (write : Bool) : State × Bool :=
  (linePieces a n (n + 1)).foldl (fun (acc : State × Bool) pc =>
    match acc.1.place pc.1 with
    | some ph => let r := acc.1.lineFree (ph / 128) write; (r.1, acc.2 && r.2)
    | none => acc) (s, true)

/-! ## CPU L2s -/

/-- Ends the reservations on a line of the harts of a cluster (R397). -/
def State.dropResv (s : State) (n l : Nat) : State :=
  overList s (List.range 4) (fun s i =>
    let h := s.hart (4 * n + i)
    if h.resv = some l then s.setHart (4 * n + i) { h with resv := none, delay := false } else s)

/-- Removes a line from an L2 and tells the home: WB with the data for M and O, EvC for E and S (R355, R362). -/
def State.l2Evict (s : State) (n l : Nat) : State :=
  let k := s.l2 n
  match (k.lines.cells.find? (fun x => x.1 == l)).map (·.2) with
  | none => s
  | some x =>
    let m : CohMsg := {
      line := l, agent := 36 + n, txn := 0, gseq := x.gseq, data := x.data, mask := fullMask, poison := x.poison, grant := .I, final := false,
      superseded := false, noData := false, starve := 0, sender := 36 + n }
    let s := (s.dropResv n l).dropL1 n l
    let k := { k with lines := k.lines.del l }
    if x.st == .M || x.st == .O then
      (s.setL2 n { k with buffer := k.buffer ++ [(.wb, m)] }).cohOut (32 + n / 16) 9 (homeDieOf l) m
    else (s.setL2 n k).cohOut (32 + n / 16) 8 (homeDieOf l) { m with data := [] }

/-- Puts a line into an L2; a full set first evicts a line, chosen freely among those without a request outstanding (R343; log 17). -/
def State.l2Put (s : State) (n l : Nat) (x : L2Line) : State :=
  let k := s.l2 n
  let same := (k.lines.cells.filter (fun c => c.1 % 4096 == l % 4096 && c.1 != l)).map (·.1)
  let idle := same.filter (fun v => !k.wants.any (fun w => w.msg.line == v))
  let vs := if idle.isEmpty then same else idle
  let s := if same.length < 16 then s else (s.l2Evict n (vs.getD (Config.freeNat s.fresh % vs.length) 0)).bump
  let k := s.l2 n
  s.setL2 n { k with lines := k.lines.set { st := .I, data := [], age := 0, poison := false, gseq := 0 } l x }

/-- A line of an L2. -/
def State.l2Line (s : State) (n l : Nat) : Option L2Line := ((s.l2 n).lines.cells.find? (fun x => x.1 == l)).map (·.2)

/-- Whether an L2 waits on a line: its request or its write-back is outstanding. -/
def State.l2Busy (s : State) (n l : Nat) : Bool :=
  (s.l2 n).wants.any (fun w => w.msg.line == l) || (s.l2 n).buffer.any (fun b => b.2.line == l)

/-- The owner of a line answers a read for a shared copy: M becomes O, E becomes S (R358). -/
def State.ownerToShared (s : State) (l : Nat) : State :=
  match s.ownerOf l with
  | none => s
  | some (n, x) =>
    let st := match x.st with | .M => .O | .E => .S | st => st
    let s := if st == x.st then s else s.dropL1 n l
    s.setL2 n { s.l2 n with lines := (s.l2 n).lines.set { st := .I, data := [], age := 0, poison := false, gseq := 0 } l { x with st := st } }

/-- A line's entry without the agents that are fenced, which the home removes as it meets them (R369). -/
def State.metEntry (s : State) (l : Nat) : Option DirEntry :=
  (s.line l).entry.bind (fun e => (e.holders.filter (fun a => a != 127 && !s.agentLive a)).foldl (fun (x : Option DirEntry) a =>
    x.bind (fun y => y.delAgent a)) (some e))

/-- The directory entry after a read for a shared copy by an agent (Table 12-5), and the state granted. -/
def State.entryAfterRead (s : State) (l a : Nat) : DirEntry × Moesi :=
  match s.metEntry l with
  | none => if a < 36 then ({ st := .S, owner := 0, coarse := false, sharers := [a] }, .S) else (ownerEntry a, .E)
  | some e =>
    if e.st = .S then (e.addSharer a, .S)
    else
      let dirty : Bool := match s.ownerOf l with | some (_, x) => x.st == .M || x.st == .O | none => (s.inBuffer l).isSome
      if dirty then (({ e with st := .OS } : DirEntry).addSharer a, .S)
      else ((({ e with st := .S, owner := 0 } : DirEntry).addSharer e.owner).addSharer a, .S)

/-- An L2 takes a line for a load, its RdS running alone: none while the line is blocked (R358, R360). -/
def State.l2Read (s : State) (n l : Nat) : Option (State × L2Line) :=
  match s.l2Line n l with
  | some x => some (s, x)
  | none =>
    if s.lineBlocked l || s.l2Busy n l then none
    else (s.msauRelease l).makeWay l |>.map (fun s =>
      let d := s.lineRead l (agentStack (36 + n)) (36 + n)
      let s := s.countRead l (agentStack (36 + n)) (36 + n)
      let e := s.entryAfterRead l (36 + n)
      let s := s.ownerToShared l
      let h := s.line l
      let x : L2Line := { st := e.2, data := d.1, age := 0, poison := d.2, gseq := h.gseq }
      ((s.setLine l { h with entry := some e.1 }).l2Put n l x, x))

/-- An L2 takes a line for a store, LR or AMO, its RdX or Upg running alone: none while the line is blocked (R358, R360). -/
def State.l2Own (s : State) (n l : Nat) : Option (State × L2Line) :=
  match s.l2Line n l with
  | some x =>
    if x.st == .M || x.st == .E then some (s, x)
    else if s.lineBlocked l || s.l2Busy n l then none
    else
      let h := s.line l
      let keep := s.l2 n
      let l1s := s.l1s
      let resv := (List.range 4).map (fun i => s.hart (4 * n + i))
      let s := s.dropCopies l
      let s := s.setL2 n keep
      let s := overList s (List.range 4) (fun s i => { s with l1s := s.l1s.set CpuL1.reset (4 * n + i) (l1s.get CpuL1.reset (4 * n + i)) })
      let s := overList s (List.range 4) (fun s i => match resv[i]? with | some k => s.setHart (4 * n + i) k | none => s)
      let x := { x with st := .M, gseq := h.gseq + 1, age := if x.st = .O then x.age else 0 }
      some ((s.setLine l { h with entry := some (ownerEntry (36 + n)), gseq := h.gseq + 1 }).l2Put n l x, x)
  | none =>
    if s.lineBlocked l || s.l2Busy n l then none
    else (s.msauRelease l).makeWay l |>.map (fun s =>
      let d := s.lineRead l (agentStack (36 + n)) (36 + n)
      let s := s.countRead l (agentStack (36 + n)) (36 + n)
      let h := s.line l
      let s := s.dropCopies l
      let x : L2Line := { st := .M, data := d.1, age := 0, poison := d.2, gseq := h.gseq + 1 }
      ((s.setLine l { h with entry := some (ownerEntry (36 + n)), gseq := h.gseq + 1 }).l2Put n l x, x))

/-- Writes bytes of a line that an L2 owns: E becomes M with its age zero (R350). -/
def State.l2Write (s : State) (n l off : Nat) (bytes : List Byte) : State :=
  match s.l2Line n l with
  | none => s
  | some x =>
    let d := x.data.take off ++ bytes ++ x.data.drop (off + bytes.length)
    let x := { x with data := d, st := .M, age := if x.st = .M then x.age else 0 }
    s.setL2 n { s.l2 n with lines := (s.l2 n).lines.set { st := .I, data := [], age := 0, poison := false, gseq := 0 } l x }

/-! ## Base-die caches and agents without a copy -/

/-- Puts a line into a base-die cache; a full set drops a line silently, chosen freely (R343, R355; log 17). -/
def State.basePut (s : State) (k l : Nat) (d : List Byte) : State :=
  let b := s.baseCache k
  let same := (b.lines.cells.filter (fun c => c.1 % 65536 == l % 65536 && c.1 != l)).map (·.1)
  let lines := if same.length < 16 then b.lines else b.lines.del (same.getD (Config.freeNat s.fresh % same.length) 0)
  let s := if same.length < 16 then s else s.bump
  s.setBase k { b with lines := lines.set [] l d }

/-- A read of a line through the base-die cache of a stack, its RdS or RdNA running alone: a hit is served there, a miss allocates as
R346 states; none while the line is blocked. -/
def State.baseRead (s : State) (k l : Nat) (noAlloc : Bool) : Option (State × List Byte × Bool) :=
  if s.fencedU.contains (.cacheAgent, k) then (if s.lineBlocked l then none else some (s.readLine l k))
  else match (s.baseCache k).lines.cells.find? (fun x => x.1 == l) with
    | some x => some (s.inc64 (36 + k) 0x50008, x.2, false)
    | none =>
      if s.lineBlocked l then none
      else
        let s := s.inc64 (36 + k) 0x50010
        if noAlloc || isHost l then some (s.readLine l k)
        else (s.msauRelease l).makeWay l |>.map (fun s =>
          let d := s.lineRead l k k
          let s := s.countRead l k k
          let e := s.entryAfterRead l k
          let s := s.ownerToShared l
          let s := s.setLine l { s.line l with entry := some e.1 }
          (if d.2 then s else s.basePut k l d.1, d.1, d.2))

/-- A masked or whole write of a line by an agent of a stack, running alone: of an entry in S, a base-die cache that holds the line is kept as a
sharer and merges the bytes (R347, R358). -/
def State.baseWrite (s : State) (k l : Nat) (mask : BitVec 128) (data : List Byte) (poison : Bool) : Option State :=
  if s.lineBlocked l then none
  else
    let mine := ((s.baseCache k).lines.cells.find? (fun x => x.1 == l)).map (·.2)
    let shared := match (s.line l).entry with | some e => e.st == .S | none => false
    let s := s.writeLine l mask data poison
    match mine with
    | some d =>
      if mask = fullMask || poison || s.poolBad.contains l || !shared then some s
      else some ((s.basePut k l (mergeLine d mask data)).setLine l { (s.line l) with entry := sharersEntry [k] })
    | none => some s

/-- An atomic on a Pool line by an agent without a cache, running alone: at the home on a shared-bias page, else at the memory-side
atomic unit (R366, R367). Answers the old value, or that the line is poisoned; none while the line is blocked. -/
def State.poolAtom (s : State) (l : Nat) (op : AtomOp) (width off : Nat) (operand compare : BitVec 128) : Option (State × Option Nat) :=
  if s.lineBlocked l then none
  else
    let d := s.lineNow l
    if d.2 then some (s, none)
    else
      let r := atomLine d.1 op width off operand compare
      let s := if (s.buffered l).isSome || (s.ownerOf l).isSome || (s.inBuffer l).isSome then s else s.countLine l
      if s.sharedBias l then some (s.writeLine l fullMask r.1 false, some r.2)
      else if (s.buffered l).isSome then some ((s.msauTake l r.1).inc64 (homeDieOf l) 0x40030, some r.2)
      else s.makeWay l |>.map (fun s =>
        let h := s.line l
        let s := s.dropCopies l
        let s := s.setLine l { h with entry := some (ownerEntry 127), gseq := h.gseq + 1 }
        ((s.msauTake l r.1).inc64 (homeDieOf l) 0x40030, some r.2))

end Sys2Proof.Machine
end

