-- ==== Sys2Proof/Machine/HallOps.lean ====
section
/-! DEFINITION. The Hallway's shared operations: routes (R29 to R31), inbound masks and widths (R33), width tokens (R37), entering
HOLD (R36) and starting an attempt (R38). -/

namespace Sys2Proof.Machine

/-- HAL_PORT_STATUS of a port: die and offset (R41). -/
def halReg (p : HalPort) : Nat × Nat := (p.die.val, 0x10000 + 0x40 * p.p.val)
/-- A port's STATE (Table 1-6). -/
def State.halState (s : State) (p : HalPort) : Nat := s.fld (halReg p).1 (halReg p).2 3 0
def State.setHalState (s : State) (p : HalPort) (v : Nat) : State := s.setFld (halReg p).1 (halReg p).2 3 0 v
/-- A port of a die by its index. -/
def halPort (die p : Nat) : HalPort := { die := dieOf die, p := ⟨p % 8, Nat.mod_lt _ (by decide)⟩ }
/-- The unit number of a Hallway port within its die (Table 17-1). DESIGN CHOICE (log 59): Table 17-1 gives the Hallway ports of dies 84 to 95 no
number; they have 40 + p, as on an Annex base. -/
def halUnit (p : HalPort) : Nat := if p.die.val < 72 then 32 + p.p.val else 40 + p.p.val

/-- The port at the other end of a port's link: an edge die's one port per plane, or the opposite mesh port (R22, R41). -/
def halOther (p : HalPort) : Option HalPort :=
  match hallPeer p.die.val p.p.val with
  | none => none
  | some d =>
    let plane := p.p.val / 4
    if 72 ≤ d then some (halPort d (plane * 4))
    else if 72 ≤ p.die.val then
      ((List.range 4).find? (fun k => hallPeer d k == some p.die.val)).map (fun k => halPort d (plane * 4 + k))
    else some (halPort d (plane * 4 + (p.p.val % 4 + 2) % 4))

/-- The default route of a stack's router: column first, then row, then out to an edge die (R29); 4 is local (R64). -/
def defaultRoute (r d : Nat) : Nat :=
  let (y, x) := stackPos r
  let (ty, tx) := stackPos (dieStack d)
  if x < tx then 1 else if tx < x then 3 else if y < ty then 2 else if ty < y then 0
  else ((List.range 4).find? (fun k => hallPeer (36 + r) k == some d)).getD 4

/-- The primary and alternate entries of a router for a destination on a plane (R29, R64); 15 is none. -/
def State.routeEntry (s : State) (r d q : Nat) : Nat × Nat :=
  match s.flp.bind (·.routes) with
  | some t => let b := (t.getD ((r * 100 + d) * 2 + q) 0xFF).toNat; (b % 16, b / 16)
  | none => (defaultRoute r d, 15)

/-- Whether a router may send on a direction of a plane: local, or an ACTIVE port (R31). -/
def State.dirUsable (s : State) (r q k : Nat) : Bool :=
  k == 4 || (k < 4 && s.halState (halPort (36 + r) (q * 4 + k)) == 3)

/-- The plane and direction a router takes for a destination: primary, alternate, then the same on plane 1 (R31). -/
def State.nextHop (s : State) (r d q : Nat) : Option (Nat × Nat) :=
  let e := s.routeEntry r d q
  if s.dirUsable r q e.1 then some (q, e.1) else if s.dirUsable r q e.2 then some (q, e.2)
  else if q = 0 then
    let e := s.routeEntry r d 1
    if s.dirUsable r 1 e.1 then some (1, e.1) else if s.dirUsable r 1 e.2 then some (1, e.2) else none
  else none

/-- Sends a packet on a port: it stays in the port's replay buffer until it is acknowledged (R28). -/
def State.sendPacket (s : State) (p : HalPort) (pkt : Packet) : State :=
  let k := s.port p
  (s.setPort p { k with replay := k.replay ++ [pkt] }).send (.hallway p pkt)

/-- How far a sequence lies below another, modulo 2^24: from 2^23 on it lies ahead (R27; log 58). -/
def seqBelow (h seq : Nat) : Nat := (h + 2 ^ 24 - seq) % 2 ^ 24

/-- The destination takes a packet once: the highest sequence accepted and the 65,536 below it (R27). -/
def Accepted.takes (a : Accepted) (seq : Nat) : Bool :=
  match a.highest with
  | none => true
  | some h => decide (2 ^ 23 ≤ seqBelow h seq) || (decide (0 < seqBelow h seq) && decide (seqBelow h seq ≤ 65536) && !a.below.contains seq)

/-- Notes a sequence as accepted (R27). -/
def Accepted.take (a : Accepted) (seq : Nat) : Accepted :=
  match a.highest with
  | none => { highest := some seq, below := [] }
  | some h =>
    if 2 ^ 23 ≤ seqBelow h seq then { highest := some seq, below := (h :: a.below).filter (fun x => decide (seqBelow seq x ≤ 65536)) }
    else { a with below := seq :: a.below }

/-- A packet whose destination no route reaches: "route lost" to the agent that sent it, and the destination reported (R31). -/
def State.routeLost (s : State) (die : Nat) (unit : Nat) (pkt : Packet) : State :=
  (s.send (.contained pkt.agent 0x101)).noteFault
    (mkFault (dieOf die) 0x0B unit .none 0 (BitVec.ofNat 64 pkt.dst.val) 0)

/-- The destination takes a packet it has not accepted before, content and all, and discards any other (R27). -/
def State.acceptPacket (s : State) (pkt : Packet) : State :=
  let key := pkt.src.val * 128 + pkt.dst.val
  let a := s.hallAcc.get Accepted.reset key
  if a.takes pkt.seq.toNat then
    { s with hallAcc := s.hallAcc.set Accepted.reset key (a.take pkt.seq.toNat), hallIn := s.hallIn ++ [pkt] }
  else s

/-- Whether a port is in HOLD and a packet is for its peer die itself (R36). -/
def State.heldPeer (s : State) (p : HalPort) (pkt : Packet) : Bool :=
  s.halState p == 2 && hallPeer p.die.val p.p.val == some pkt.dst.val

/-- Returns a packet to the agent that sent it with "destination reset" (R36). -/
def State.returnPacket (s : State) (pkt : Packet) : State := s.send (.contained pkt.agent 0x102)

/-- Moves a packet on from a die on a plane: accepted at its destination, returned where it is for the peer of the port in HOLD that its primary
route takes, else sent by R31 (R36). -/
def State.forward (s : State) (die q : Nat) (pkt : Packet) (unit : Nat) : State :=
  if 72 ≤ die ∧ die < 96 then
    if s.heldPeer (halPort die (q * 4)) pkt then s.returnPacket pkt
    else if s.halState (halPort die (q * 4)) = 3 then s.sendPacket (halPort die (q * 4)) pkt
    else if q = 0 ∧ s.halState (halPort die 4) = 3 then s.sendPacket (halPort die 4) pkt
    else s.routeLost die unit pkt
  else
    let r := dieStack die
    let k := (s.routeEntry r pkt.dst.val q).1
    if decide (k < 4) && s.heldPeer (halPort (36 + r) (q * 4 + k)) pkt then s.returnPacket pkt
    else
      match s.nextHop r pkt.dst.val q with
      | some (q', k) => if k = 4 then s.acceptPacket pkt else s.sendPacket (halPort (36 + r) (q' * 4 + k)) pkt
      | none => s.routeLost die unit pkt

/-- Packets that leave together: those of the Back Stair first, which has strict priority over the other channels (R26). -/
def stairFirst (l : List Packet) : List Packet := l.filter (fun x => x.vc == .backStair) ++ l.filter (fun x => x.vc != .backStair)

/-- The number of ones of a mask. -/
def popCount (w : Nat) (m : BitVec w) : Nat := (List.range w).foldl (fun a i => a + b2n (m.getLsbD i)) 0

/-- The widths of a port (R33). -/
def halWidths : List Nat := [64, 56, 48, 40, 32, 24, 16]
/-- The largest width not above a count of bundles; 0 where there is none. -/
def widthOf (n : Nat) : Nat := (halWidths.find? (fun w => decide (w ≤ n))).getD 0

/-- A port's inbound mask, from HAL_PORT_MASK and HAL_PORT_MASK_HI (R33, R41). -/
def State.inbound (s : State) (p : HalPort) : BitVec 66 :=
  ((s.rd64 (halReg p).1 ((halReg p).2 + 8)).setWidth 66) ||| (((s.rd (halReg p).1 ((halReg p).2 + 0x10)).setWidth 66) <<< 64)
/-- Writes a port's inbound mask. -/
def State.setInbound (s : State) (p : HalPort) (m : BitVec 66) : State :=
  (s.wr64 (halReg p).1 ((halReg p).2 + 8) (m.setWidth 64)).wr (halReg p).1 ((halReg p).2 + 0x10) ((m >>> 64).setWidth 32)

/-- The bundles the configuration fences at a port (R35, R64). -/
def State.cfgFenced (s : State) (p : HalPort) : BitVec 66 :=
  match s.flp with
  | some f => (f.bundleFences.filter (fun e => e.1 == p.die.val && e.2.1 == p.p.val)).foldl (fun m e => m ||| (1#66 <<< e.2.2)) 0
  | none => 0

/-- CRC-16 with polynomial 0x1021 over a number of bits, highest first, register zero at the start (R37; log 12). -/
def crc16 (n : Nat) (v : Nat) : Nat :=
  (List.range n).foldl (fun r i =>
    let b := b2n (bitAt v (n - 1 - i))
    let top := b2n (bitAt r 15)
    let r := r * 2 % 65536
    if (top + b) % 2 = 1 then Nat.xor r 0x1021 else r) 0

/-- A width token (Table 1-4). -/
def widthTokenOf (type attempt width sender plane : Nat) (mask : BitVec 66) : BitVec 128 :=
  let hi := type * 2 ^ 104 + attempt * 2 ^ 96 + width * 2 ^ 88 + sender * 2 ^ 80 + plane * 2 ^ 79 + mask.toNat
  BitVec.ofNat 128 (hi * 2 ^ 16 + crc16 112 hi)

/-- The physical bundle that carries logical bundle `i` under an inbound mask: the i-th lowest of the mask (R33). -/
def bundleOf (mask : BitVec 66) (i : Nat) : Option Nat := ((List.range 66).filter (fun b => mask.getLsbD b))[i]?
/-- The physical bundles a port receives on, by its own mask, and those it sends on, by the mask its peer sent: one for each logical bundle
of its width (R33, R38). -/
def State.mapping (s : State) (p : HalPort) (inbound : Bool) : List Nat :=
  (List.range (s.fld (halReg p).1 (halReg p).2 23 16)).filterMap (bundleOf (if inbound then s.inbound p else (s.port p).peerMask))

/-- Enters HOLD: each unacknowledged packet is re-sent by another way, ahead of any later one, or returned to its source with
"destination reset" where it was for the peer itself (R36). WIDTH keeps its last value until the port is ACTIVE or FENCED (DESIGN CHOICE,
log 59). -/
def State.enterHold (s : State) (p : HalPort) : State :=
  let k := s.port p
  let s := (s.setHalState p 2).setPort p { k with replay := [], round := 0, confirmed := none, peerProposal := none, backingOff := false }
  overList s (stairFirst k.replay) (fun s pkt =>
    if s.heldPeer p pkt then s.returnPacket pkt else s.forward p.die.val (p.p.val / 4) pkt (halUnit p))

/-- Starts round 1 of a negotiation attempt: a mask token with the proposal (R38). -/
def State.startRound (s : State) (p : HalPort) (attempt : Nat) : State :=
  let m := s.inbound p
  let w := widthOf (popCount 66 m)
  let k := s.port p
  (s.setPort p { k with round := 1, attempt := attempt, confirmed := none, peerProposal := none, backingOff := false }).send
    (.widthToken p (widthTokenOf 0x5A attempt w p.die.val (p.p.val / 4) m))

/-- Fences a bundle of a port's inbound direction and renegotiates without it (R34, R36). -/
def State.fenceBundle (s : State) (p : HalPort) (b : Nat) : State :=
  let s := s.enterHold p
  let k := s.port p
  let s := s.setPort p { k with fenced := k.fenced ||| (1#66 <<< b) }
  let s := s.setInbound p (s.inbound p &&& ~~~ (1#66 <<< b))
  s.startRound p (s.fld (halReg p).1 (halReg p).2 27 24 + 1)

/-- Fences a port: its unacknowledged packets go around it (R36, R40). -/
def State.fenceHalPort (s : State) (p : HalPort) : State :=
  ((s.enterHold p).setHalState p 4).setFld (halReg p).1 (halReg p).2 23 16 0

end Sys2Proof.Machine
end

