-- ==== Sys2Proof/Machine/Faults.lean ====
section
/-! DEFINITION. Fencing (R487, Table 17-5), the leaf's whole handling of a fault, and the commands of the fault collector. -/

namespace Sys2Proof.Machine

/-- Notes a unit as fenced; during bring-up, a unit that the Floorplan enables sets DEGRADED (R89). -/
def State.noteFenced (s : State) (u : UnitKey) : State :=
  let s := if s.flp.isSome ∧ s.level < 4 ∧ u.1 ≠ .bundle then s.setFld 94 0x20100 31 31 1 else s
  if s.fencedU.contains u then s else { s with fencedU := s.fencedU ++ [u] }

/-- An answer of a memory channel, over the Hallway's data channel where the reader is another die's. -/
def State.sendMem (s : State) (agent line : Nat) (data : List Byte) (poison retry : Bool) : State :=
  let m : Msg := .memData agent line data poison retry
  (if agent / 512 < 100 then s.inject (homeDie (line * 128)) (agent / 512) .data m else s).send m

/-- Answers a request of a fenced channel: reads with poison, writes discarded and counted (R341). A read of the home lets its transaction go
on. -/
def State.answerFenced (s : State) (c : Chan) (r : ChanReq) : State :=
  if r.write then s.satFld (chanReg c).1 ((chanReg c).2 + 0x10) 31 0
  else if r.agent = homeAgent r.line then s.memServed r.line
  else s.sendMem r.agent r.line [] true false

/-- Fences a channel: every held request is answered as R341 states. -/
def State.fenceChannel (s : State) (c : Chan) (thermal : Bool) : State :=
  let s := s.setChanState c 4
  let s := if thermal then s.setFld (chanReg c).1 (chanReg c).2 27 27 1 else s
  let k := s.chan c
  let s := s.setChan c { k with hold := [], back := [] }
  (overList s (k.hold ++ k.back) (fun s r => s.answerFenced c r)).noteFenced (.channel, chanIx c)

/-- The cores of a compute die that its self-test covers: in a partition and not fenced (R96). -/
def State.testCores (s : State) (d : Nat) : List Nat :=
  ((List.range 20).map (fun i => d * 20 + i)).filter (fun c => (s.corePart c).isSome && !(s.core c).fenced)

/-- The next core of a die starts its self-test; with every enabled core passed or fenced the die leaves checked mode (R97, R98). -/
def State.nextTest (s : State) (d : Nat) : State :=
  if !s.checked d then s
  else match (s.testCores d).find? (fun c => !(s.core c).tested) with
    | some c => s.modCore c (fun k => { k with testing := true })
    | none => (s.setChecked d false).slEvent 2 d

/-- Fences a core: clock-stopped, its kernel reports "core fenced", waiting launches that list it fail (R134, R138). A watch sample
in progress is abandoned; where its self-test ran, the die's next core follows (R98). -/
def State.fenceCore (s : State) (c : Nat) : State :=
  let k := s.core c
  let s := s.setCore c { k with fenced := true, testing := false }
  let s := s.abandonCore c 0x105 .none
  let s := (s.setCore c (s.core c).idle).dropSample c
  let s := (s.failWaiting c 0x105).noteFenced (.core, c)
  if k.testing then s.nextTest (coreDie c) else s

/-- Fences a hart: it stops at once, its reservation ends (R405). -/
def State.fenceHart (s : State) (h : Nat) : State :=
  (s.setHart h { s.hart h with fenced := true, resv := none, delay := false }).noteFenced (.hart, h)

/-- A dirty line of a fenced L2 is written poisoned at its home; a companion line's home is the companion (R353, R369). -/
def State.poisonAtHome (s : State) (a l : Nat) (gseq : BitVec 12) : State :=
  if isHost l then
    let s := overList s [2 * l, 2 * l + 1] (fun s x => { s with hostDir := s.hostDir.set [] x ((s.hostDir.get [] x).filter (· != a)) })
    s.sendCoh 9 100 {
      line := l, agent := a, txn := 0, gseq := gseq, data := [], mask := fullMask, poison := true, grant := .I, final := false,
      superseded := false, noData := false, starve := 0, sender := a }
  else s.memWrite l fullMask [] true

/-- Fences an L2 or base-die cache: lines held in M or O are written poisoned at their homes, and an L2 removes its four harts
(R369, R405). -/
def State.fenceAgent (s : State) (a : Nat) : State :=
  let s := s.noteFenced (.cacheAgent, a)
  if a < 36 then (s.setBase a { lines := ⟨[]⟩, wants := [] }).setFld (36 + a) 0x50000 31 31 1
  else if a < 100 then
    let k := s.l2 (a - 36)
    let s := s.setL2 (a - 36) { k with lines := ⟨[]⟩, buffer := [], wants := [], delayed := [], fenced := true }
    let s := overList s (k.lines.cells.filter (fun x => x.2.st == .M || x.2.st == .O)) (fun s x => s.poisonAtHome a x.1 x.2.gseq)
    let s := { s with l1s := s.l1s.drop (fun h => h / 4 == a - 36) }
    overList s (List.range 4) (fun s i => s.fenceHart ((a - 36) * 4 + i))
  else s

/-- Fences a fabric port: its routes fall back (R448, R455). -/
def State.fenceFabPort (s : State) (n : Nat) : State :=
  (s.setFld (fabReg n).1 (fabReg n).2 31 28 4).setFld (fabReg n).1 (fabReg n).2 23 20 0

/-- A lane of a link fails: a link that carries traffic on it goes on with a half that has no failed lane; without one a Jexesk Link port must retrain,
and a fabric port is fenced (R408, R446; log 12). -/
def State.laneFailed (s : State) (l : LinkId) (lane : Nat) : State :=
  let k := s.link l
  let failed := k.failed ||| (1#16 <<< lane)
  let used := s.lanes l
  let s := s.setLink l { k with failed := failed }
  if (s.linkSt l == 2 || s.linkSt l == 3) && (lanesInUse used k.high).contains lane then
    let x := linkLanes l false failed
    let s := s.setLanes l x
    if x.1 ≠ 0 then s
    else match l with
      | .jxl _ => s.startRetrain l
      | .fabric p => (s.fenceFabPort p.val).noteFenced (.port, 1000 + p.val)
  else s

/-- Fences a lane of a link die (R408, R446). -/
def State.fenceLane (s : State) (die idx : Nat) : State :=
  if dieType die = 7 then (if h : die - 92 < 2 then s.laneFailed (.jxl ⟨die - 92, h⟩) (idx % 16) else s)
  else if h : (die - 84) * 8 + idx / 16 < 64 then s.laneFailed (.fabric ⟨(die - 84) * 8 + idx / 16, h⟩) (idx % 16) else s

/-- Fences a die: every core, hart, channel and port of it, and its home (R487); the loss of die 94 makes die 95's root the active one (R476). -/
def State.fenceDie (s : State) (d : Nat) : State :=
  let s := s.noteFenced (.die, d)
  let ports (s : State) := overList s (List.range 8) (fun s p =>
    if s.halState (halPort d p) = 5 then s else s.fenceHalPort (halPort d p))
  match dieType d with
  | 1 => overList s (List.range 20) (fun s i => s.fenceCore (d * 20 + i))
  | 2 => overList s (List.range 16) (fun s i => s.fenceAgent (36 + (d - 32) * 16 + i))
  | 3 | 4 =>
    let s := if h : d - 36 < 36 then overList s (atticChans ⟨d - 36, h⟩) (fun s c => s.fenceChannel c false) else s
    let s := s.fenceAgent (d - 36)
    (ports s).setFld d 0x40000 31 30 2
  | 5 =>
    let s := if h : d - 72 < 12 then overList s (annexChans ⟨d - 72, h⟩) (fun s c => s.fenceChannel c false) else s
    (ports s).setFld d 0x40000 31 30 2
  | 6 => ports (overList s (List.range 8) (fun s i => s.fenceFabPort ((d - 84) * 8 + i)))
  | 7 => ports s
  | 8 =>
    let lost := d == 94 && !s.mgmt.active95 && s.root95.alive
    let s := ports ({ (s.setRoot (d == 95) { s.root (d == 95) with alive := false }).setRoot (d != 95) { s.root (d != 95) with peerLost := true } with
      mgmt := { s.mgmt with ops := if d = 94 then s.mgmt.ops.map (fun o => if o.status = 1 then { o with status := 10 } else o) else s.mgmt.ops, active95 := d == 94 || s.mgmt.active95, answers94 := s.mgmt.answers94 && d != 94, answers95 := s.mgmt.answers95 && d != 95 } })
    -- die 95's root becomes active and reports "root lost" (R476)
    let f := mkFault 95 0x02 0 .die 94 0 0
    if lost then s.leafRecord f (s.verdict f) else s
  | _ => s

/-- Takes the unit a fault names out of service (Table 17-5). -/
def State.fenceUnit (s : State) (f : FaultIn) : State :=
  let d := f.die.val
  match f.kind with
  | .none => s
  | .lane => (s.fenceLane d f.index).noteFenced (.lane, d * 1024 + f.index)
  | .bundle => (s.fenceBundle (halPort d (f.index / 128)) (f.index % 128)).noteFenced (.bundle, d * 1024 + f.index)
  | .port =>
    let s := if hallSource f.source then s.fenceHalPort (halPort d f.index)
      else if dieType d = 6 then s.fenceFabPort ((d - 84) * 8 + f.index) else if dieType d = 7 then s else s.fenceHalPort (halPort d f.index)
    match unitNamed f with
    | some u => s.noteFenced u
    | none => s
  | .channel =>
    if d < 72 then
      (if h : d - 36 < 36 ∧ f.index < 16 then s.fenceChannel (.attic ⟨d - 36, h.1⟩ ⟨f.index, h.2⟩) (f.source == 0x21) else s)
    else (if h : (d - 72) * 32 + f.index < 384 then s.fenceChannel (.annex ⟨(d - 72) * 32 + f.index, h⟩) (f.source == 0x21) else s)
  | .core => s.fenceCore f.index
  | .hart => s.fenceHart f.index
  | .cacheAgent => s.fenceAgent f.index
  | .die => s.fenceDie f.index

/-- A leaf handles a fault: the capture set, the notice, then, in the order of Table 17-6, the fence its entry names and the safe-state command
(R475, R488). -/
def State.leafDetect (s : State) (f : FaultIn) : State :=
  if s.phase = .running then
    let v := s.verdict f
    let s := s.leafRecord f { v with safe := false }
    let s := if v.fences then s.fenceUnit f else s
    if v.safe then s.stair 1 f.die.val 0xFF [f.source.toNat] else s
  else s

/-! ## The roots -/

/-- The fence list entries a persistent fence makes (R487, R498): kind and index. -/
def persistKeys (f : FaultIn) : List (Nat × Nat) :=
  let d := f.die.val
  match f.kind with
  | .core => [(1, f.index)]
  | .hart => [(2, f.index)]
  | .channel => if f.source = 0x21 then [] else if d < 72 then [(3, (d - 36) * 16 + f.index)] else [(4, (d - 72) * 32 + f.index)]
  | .cacheAgent => if 36 ≤ f.index ∧ f.index < 100 then (List.range 4).map (fun i => (2, (f.index - 36) * 4 + i)) else []
  | .die => [(5, f.index)]
  | _ => []

/-- Appends entries to the persistent fence list; when it is full FENCE_FULL is set instead (R498). -/
def State.persist (s : State) (f : FaultIn) : State :=
  overList s (persistKeys f) (fun s k =>
    if s.mgmt.fences.length < 4096 then s.modMgmt (fun m => { m with fences := m.fences ++ [{ kind := k.1, index := k.2, source := f.source }] })
    else { s with root94 := { s.root94 with fenceFull := true }, root95 := { s.root95 with fenceFull := true } })

/-- Whether the log drops a record, or which record it displaces when it is full (R483). -/
def Root.logAdd (r : Root) (x : LogRec) : Root :=
  let drop (r : Root) (src : Nat) : Root :=
    { r with drops := r.drops.set 0 src (min (r.drops.get 0 src + 1) 0xFFFFFFFF), overflow := true }
  let r' := { r with logged := r.logged ++ [x] }
  if r.log.length < 4096 then { r' with log := r.log ++ [x] }
  else if x.notice.cls = 0 then drop r x.notice.fault.source.toNat
  else
    match r.log.find? (fun y => y.notice.cls == 0) with
    | some y => drop { r' with log := r.log.erase y ++ [x] } y.notice.fault.source.toNat
    | none => drop r x.notice.fault.source.toNat

/-- A root takes a notice: the next SEQ, the capture set, the record (R482, R483, R485). -/
def Root.take (r : Root) (n : Notice) : Root :=
  if r.alive then
    let r := { r with captures := fillCapture r.captures n.cls n.fault n.time }
    let x : LogRec := { seq := r.next, safe := n.cls == 2 && !n.suppressed, notice := n }
    let r := { r with next := r.next + 1 }
    if bitAt n.react.toNat 0 then r.logAdd x else r
  else r

/-- The root that is active (R476). -/
def State.activeRoot (s : State) : Bool := s.mgmt.active95 || !s.root94.alive

/-- The management die whose root is active (R476, R510). -/
def State.activeDie (s : State) : Nat := if s.activeRoot then 95 else 94

/-- The active root's interrupts for a notice; a vector whose ENABLE or address is zero sends nothing (R486). -/
def State.interrupts (s : State) (n : Notice) : State :=
  let r95 := s.activeRoot
  if n.suppressed then s
  else
    overList s ((List.range 8).filter (fun p => n.parts.getLsbD p)) (fun s p =>
      let s :=
        if bitAt n.react.toNat 1 && !s.covered r95 p then
          let e := (s.root r95).cpuMsi.get MsiEntry.reset p
          if e.addr = 0 then s
          else if e.mask then s.setRoot r95 { s.root r95 with cpuMsi := (s.root r95).cpuMsi.set MsiEntry.reset p { e with pending := true } }
          else (s.send (.msi e.addr e.value)).markSent r95 p
        else s
      if bitAt n.react.toNat 2 && !s.covered r95 (8 + p) then
        let v := (s.root r95).compVec.get 0 p
        let e := (s.fn p).msi.get MsiEntry.reset (bits v.toNat 12 0)
        if bitAt v.toNat 31 && e.addr != 0 then
          (let s := s.signal p (bits v.toNat 12 0)
           if e.mask then s else s.markSent r95 (8 + p))
        else s
      else s)

/-- What a cache does with a parity error that it corrects, in the line at the fault's address (R348): it invalidates the line, an L2 with EvC
where the line was E, and the access that found the error fetches it again. The counters of R371 advance. A companion line is named by bit 63 of
the address (DESIGN CHOICE, log 75). -/
def State.cacheParity (s : State) (f : FaultIn) : State :=
  let d := f.die.val
  let line : Option Nat := if f.addr.getLsbD 63 then some (2 ^ 45 + bits f.addr.toNat 51 0 / 128) else (s.place (bits f.addr.toNat 41 0)).map (· / 128)
  let onLine (s : State) (g : State → Nat → State) : State := match line with | some l => g s l | none => s
  if d < 32 then
    let c := d * 20 + f.unit / 16
    onLine s (fun s l => s.modCore c (fun k => { k with l1d := k.l1d.del l, l1i := k.l1i.filter (· != l) }))
  else if d < 36 then
    let n := (d - 32) * 16 + (if 256 ≤ f.unit then f.unit - 256 else f.unit / 4)
    let s := s.inc d (0x6010C + 0x20 * (n % 16))
    onLine s (fun s l =>
      if f.unit < 256 then
        let h := (d - 32) * 64 + f.unit
        { s with l1s := s.l1s.set CpuL1.reset h ((s.l1s.get CpuL1.reset h).drop l) }
      else
        match s.l2Line n l with
        | none => s
        | some x =>
          if x.st = .E then s.l2Evict n l
          else if x.st = .M ∨ x.st = .O then s
          else
            let s := (s.dropResv n l).dropL1 n l
            s.setL2 n { s.l2 n with lines := (s.l2 n).lines.del l })
  else if d < 72 then
    let s := s.inc d 0x50018
    onLine s (fun s l => s.setBase (d - 36) { s.baseCache (d - 36) with lines := (s.baseCache (d - 36)).lines.del l })
  else s

/-- Puts a fault among those of its cycle: by unit number, then by source number (R491). -/
def insFault (f : FaultIn) : List FaultIn → List FaultIn
  | [] => [f]
  | g :: r =>
    if f.unit < g.unit ∨ (f.unit = g.unit ∧ f.source.toNat ≤ g.source.toNat) then f :: g :: r else g :: insFault f r
/-- The faults of one cycle in the order in which a leaf takes them (R491). -/
def leafOrder (l : List FaultIn) : List FaultIn := l.foldr insFault []

/-- The faults that a leaf takes in one cycle, in order: those after the first wait, and are recorded with QUEUED (R490, R491). -/
def State.leafTakes (s : State) (l : List FaultIn) : State :=
  match leafOrder l with
  | [] => s
  | f :: r => overList (s.leafDetect f) r (fun s g => s.leafDetect { g with waited := true })

/-- Takes a detected fault, with what the unit that found it does by its own rule: a cache corrects a parity error (R348). -/
def State.unitCorrects (s : State) (f : FaultIn) : State :=
  if f.source = 0x10 ∧ s.phase = .running then s.cacheParity f else s

/-- FAULT_DETECT (R475, R490, R491): the faults of a cycle at the leaf of the first one; each other die has a leaf of its own. -/
def execFaultDetect (faults : CycleFaults) (s : State) : Outcome :=
  let all := faults.first :: faults.same
  let s := overList s all State.unitCorrects
  .next (overList s ((all.map (·.die)).dedup) (fun s d => s.leafTakes (all.filter (fun x => x.die == d))))

/-- The leaf's next notice reaches both roots over the Back Stair (R26): logged, its fence entered in flash, interrupts sent; units that held their
reports push them as space frees (R477, R482, R486, R487). -/
def State.deliverNotice (s : State) (d : DieId) : State :=
  let l := s.leaf d.val
  match l.queue with
  | [] => s
  | n :: rest =>
    let seq := l.seq + 1
    let n := { n with leafSeq := seq }
    let l := { l with queue := rest, seq := seq }
    let l := match l.held with
      | [] => l
      | h :: hs => { l with queue := l.queue ++ [h], held := hs }
    let s := s.setLeaf d.val l
    let s := overList s [94, 95] (fun s r => s.stair 6 d.val r [seq.toNat])
    let s := { s with root94 := s.root94.take n, root95 := s.root95.take n }
    let s := if n.fenced then s.persist n.fault else s
    s.interrupts n

/-- FAULT_NOTICE (R482). -/
def execFaultNotice (d : DieId) (s : State) : Outcome := gate s (fun s => s.deliverNotice d)

/-- MERGED_NOTICE_SEND (R477): with space in the queue, the lowest-numbered source with a merged count is sent as one notice, with the
reactions of its source's entry. -/
def execMergedNoticeSend (d : DieId) (s : State) : Outcome :=
  gate s (fun s =>
    let l := s.leaf d.val
    if l.queue.length < 64 then
      match l.merged.cells with
      | [] => s
      | (src, n) :: _ =>
        let f := mkFault d (BitVec.ofNat 8 src) 0 .none 0 0 0
        let x : Notice := {
          leaf := d, leafSeq := 0, fault := f, cls := 0, react := BitVec.ofNat 8 (bits (s.sev src) 15 8), fenced := false, suppressed := false, merged := true, count := n,
          time := s.now, parts := BitVec.ofNat 8 (s.faultParts f) }
        s.setLeaf d.val { l with queue := l.queue ++ [x], merged := l.merged.del src }
    else s)

/-- A collector fault: the die sends the safe-state command itself and fills its fatal capture set where the storage is intact
(R492). -/
def State.collectorFault (s : State) (d : DieId) (intact : Bool) : State :=
  let f := mkFault d 0x01 0 .none 0 0 0
  let l := s.leaf d.val
  let s := if intact then s.setLeaf d.val { l with captures := fillCapture l.captures 2 f s.now } else s
  s.stair 1 d.val 0xFF [1]

/-- ROOT_DIGEST_COMPARE (R476, R492): every 1 ms the roots compare what they have logged, freed records included; a difference is a collector
fault at die 94. -/
def execRootDigestCompare (intact : Bool) (s : State) : Outcome :=
  gate s (fun s => if s.root94.alive && s.root95.alive && s.root94.logged != s.root95.logged then s.collectorFault 94 intact else s)

/-- ROOT_FAILOVER (R476): die 94 is fenced or silent; die 95's root becomes active and reports "root lost". -/
def execRootFailover (s : State) : Outcome :=
  gate s (fun s =>
    if s.mgmt.active95 || !s.root95.alive then s
    else
      let s := s.modMgmt (fun m => { m with active95 := true, answers94 := false })
      let s := { s with root94 := { s.root94 with alive := false }, root95 := { s.root95 with peerLost := true } }
      s.leafDetect (mkFault 95 0x02 0 .die 94 0 0))

/-- NOTICE_DELIVERY_TIMEOUT (R492): a leaf that cannot deliver a notice to either root within 100 µs. -/
def execNoticeDeliveryTimeout (d : DieId) (s : State) : Outcome :=
  gate s (fun s => if (s.leaf d.val).queue.isEmpty then s else s.collectorFault d true)

/-- DIE_HEARTBEAT_LOSS (R479, source 0x50): the active root's die reports the die lost, which fences it. -/
def execDieHeartbeatLoss (d : DieId) (s : State) : Outcome :=
  gate s (fun s => s.leafDetect (mkFault (if s.activeRoot then 95 else 94) 0x50 0 .die d.val 0 0))

/-- SAFE_STATE_COMMAND (R494). -/
def execSafeStateCommand (_d : DieId) (s : State) : Outcome := gate s State.enterSafe

/-- Frees records up to a SEQ (R484). -/
def Root.free (r : Root) (n : Word) : Root :=
  match r.log with
  | [] => r
  | x :: _ =>
    if (n - x.seq).toNat < (r.next - x.seq).toNat then { r with log := r.log.filter (fun y => decide ((n - x.seq).toNat < (y.seq - x.seq).toNat)) }
    else r

/-- FC_LOG_FREE (R484). -/
def execFcLogFree (r95 : Bool) (n : Word) (s : State) : Outcome := gate s (fun s => s.setRoot r95 ((s.root r95).free n))

/-- FC_DROPS_CLEAR (R500): every FC_DROPS count to zero. -/
def execFcDropsClear (r95 : Bool) (s : State) : Outcome := gate s (fun s => s.setRoot r95 { s.root r95 with drops := ⟨[]⟩ })

/-- CAPTURE_SET_CLEAR (R485): writing 1 to VALID clears the set, at a leaf or at a root. -/
def execCaptureSetClear (d : DieId) (root : Bool) (k : Fin 3) (s : State) : Outcome :=
  gate s (fun s =>
    if root then (if d.val = 94 ∨ d.val = 95 then
      s.setRoot (d.val == 95) { s.root (d.val == 95) with captures := (s.root (d.val == 95)).captures.set none k.val none } else s)
    else s.setLeaf d.val { s.leaf d.val with captures := (s.leaf d.val).captures.set none k.val none })

/-- FC_PART_CPU_MSI_WRITE (R486): address, value and MASK are written; a pending interrupt is sent when MASK clears. -/
def execFcPartCpuMsiWrite (r95 : Bool) (p : PartId) (addr : DWord) (value : Word) (mask : Bool) (s : State) : Outcome :=
  gate s (fun s => s.cpuMsiSet r95 p.val addr value mask)

/-- DUMP_AREA_ERASE (R497): after a load one dump area is erased: an uncommitted one ahead of a committed one, then the one of the
smaller SEQUENCE, then D1. -/
def execDumpAreaErase (s : State) : Outcome :=
  gate s (fun s =>
    let a := s.mgmt.dumps.get DumpArea.reset 0
    let b := s.mgmt.dumps.get DumpArea.reset 1
    let i := if a.committed != b.committed then (if a.committed then 1 else 0)
      else if a.committed then (if a.sequence < b.sequence then 0 else 1) else 1
    let x := if i = 0 then a else b
    s.modMgmt (fun m => { m with dumps := m.dumps.set DumpArea.reset i { DumpArea.reset with sequence := if x.committed then 0 else x.sequence } }))

/-! ## The end of a core's part of a kernel and the self-test it may let run -/

/-- A fault report of a core's subunit (Table 17-1). -/
def coreFault (c sub : Nat) (src : Byte) (addr : Nat) (access : Nat) (detail : List Byte := []) : FaultIn :=
  mkFault (dieOf (coreDie c)) src (c % 20 * 16 + sub) .core c (BitVec.ofNat 64 addr) access detail

/-! ## The Pantry -/

/-- Errors that have come into bits of a core's Pantry; they stay until their granule is read or written whole (R284, R285). -/
def State.flaw (s : State) (c : Nat) (ecc : List EccHit) : State :=
  if ecc.isEmpty then s else s.modCore c (fun k => { k with flaws := ecc ++ k.flaws.filter (fun e => !ecc.any (fun x => x.granule == e.granule)) })

/-- A read of one granule of a Pantry by a reader (Table 10-12): a correctable error is corrected, written back and counted, an uncorrectable one
poisons the granule, is captured and reported; answers whether the granule is poisoned (R284, R285). -/
def State.panGranule (s : State) (c reader g : Nat) : State × Bool :=
  let die := coreDie c
  if (s.core c).poisoned.contains g then (s.satFld die (coreOff c 0x884) 31 0, true)
  else match (s.core c).flaws.find? (fun e => e.granule.val == g) with
    | none => (s, false)
    | some e =>
      let s := s.modCore c (fun k => { k with flaws := k.flaws.filter (fun x => x.granule.val != g) })
      if e.uncorrectable then
        let s := (s.modCore c (fun k => { k with poisoned := g :: k.poisoned })).satFld die (coreOff c 0x884) 31 0
        let s := if s.fld die (coreOff c 0x888) 31 31 = 1 then s else s.wr die (coreOff c 0x888) (BitVec.ofNat 32 (2 ^ 31 + reader * 2 ^ 29 + 8 * g))
        (s.leafDetect (coreFault c 5 0x29 (8 * g) 1), true)
      else ((s.inc die (coreOff c 0x880)).noteFault (coreFault c 5 0x28 (8 * g) 1), false)

/-- A read of granules; answers those that are poisoned. -/
def State.panRead (s : State) (c reader : Nat) (gs : List Nat) : State × List Nat :=
  gs.foldl (fun a g => let r := a.1.panGranule c reader g; (r.1, if r.2 then a.2 ++ [g] else a.2)) (s, [])

/-- A write of Pantry bytes by a requester: a granule that it covers in part is read, and keeps its poison (Table 10-1, R284, R285). -/
def State.panStore (s : State) (c reader off : Nat) (b : List Byte) : State :=
  let part (g : Nat) : Bool := decide (8 * g < off) || decide (off + b.length < 8 * g + 8)
  ((s.panRead c reader ((granulesOf off b.length).filter part)).1).modCore c (fun k => k.panWrite off b)

/-- The phase of the watch's sample, where it holds one: 0 copied, 1 recomputing, 2 waiting for its replay, 3 replaying. -/
def Core.samplePhase (k : Core) : Option Nat := k.watch.sample.map (·.phase)

/-- A self-test: whether its signature and, where it differs, that of the run that follows matches the fused reference (R172, R173). It adds
nothing to MMA_STREAM_CYCLES (DESIGN CHOICE, log 71). -/
def State.selfTest (s : State) (c : Nat) (m1 m2 : Bool) : State :=
  let die := coreDie c
  let r := coreOff c 0x404
  let s := s.incFld die r 15 0
  if m1 then s
  else
  let s := s.incFld die r 15 0
  if m2 then (s.satFld die r 23 16).noteFault (coreFault c 1 0x2A 0 0)
  else (s.satFld die r 31 24).leafDetect (coreFault c 1 0x2B 0 0)

/-- Runs a hardware self-test that is due, unless a replay holds the array (R172, R276). Patterns alternate over the tests that this core
runs, so that a core which comes into service inside an epoch starts with the pattern after its last one (DESIGN CHOICE, log 73). -/
def State.runDue (s : State) (c : Nat) : State :=
  let k := s.core c
  match k.testDue with
  | some m =>
    if k.samplePhase = some 3 then s
    else if k.fenced ∨ k.testing ∨ k.resetting then s.setCore c { k with testDue := none }
    else (s.setCore c { k with testDue := none, stPattern := !k.stPattern }).selfTest c m.1 m.2
  | none => s

/-- The granules that a running instruction's results cover in part: the Pantry reads them to write them (Table 10-1). -/
def Running.partGranules (r : Running) : List Nat :=
  let gs := r.bytes.foldr (fun b l => if l.head? = some (b.1 / 8) then l else b.1 / 8 :: l) []
  if r.bytes.length = 8 * gs.length then [] else gs.filter (fun g => !(List.range 8).all (fun j => r.bytes.any (fun b => b.1 == 8 * g + j)))

/-- The granules of the tracker record that a running conversion reads and writes in part when it completes (R267). -/
def Running.trackGranules (r : Running) : List Nat :=
  match r.tracker with
  | some t => granulesOf t.1 (if t.2.getD 1 0 = 0 then 8 else 16)
  | none => []

/-- What a running instruction leaves when it completes: granules written in part are read first (Table 10-1); a record that meets poison makes it
a "poisoned operand", what it wrote is then undefined, and nothing is tracked (R191, R285). -/
def State.land (s : State) (c unit : Nat) (r : Running) : State × Running :=
  let (s, bad) := s.panRead c 2 r.trackGranules
  let (s, r) : State × Running :=
    if bad.isEmpty then (s, r)
    else
      ({ s with fresh := s.fresh + r.words.length + r.bytes.length },
       { r with
         error := if r.error = 0 then 0x10F else r.error, tracker := none,
         words := r.words.zipIdx.map (fun x => (x.1.1, Config.freeWord (s.fresh + x.2))),
         bytes := r.bytes.zipIdx.map (fun x => (x.1.1, Config.freeByte (s.fresh + r.words.length + x.2))) })
  (((s.panRead c 2 r.partGranules).1).landed c unit r, r)

/-- Ends a core's part of its kernel with a code: queued instructions are discarded, running array and vector instructions end at their
completion, in program order, stream instructions at their chunk boundary, groups are stopped, a watch sample is abandoned (R276), and then the
core reports (R137); a self-test that an abandoned replay held back runs. -/
def State.endPart (s : State) (c code : Nat) (info : ErrInfo) : State :=
  let k := s.core c
  if k.kernel.isSome && k.ending.isNone then
    let ran := k.runningInOrder
    let s := ran.foldl (fun s x => (s.land c x.1 x.2).1) s
    let k := ran.foldl (fun k x => k.aborted x.2.ins 1) (s.core c)
    let k := (List.range 16).foldl (Core.abortSlot (s.cursorNow c)) k
    (((s.setCore c { k.stopped with ending := some (code, info.nums) }).dropSample c).settleEnd c).runDue c
  else s.runDue c

end Sys2Proof.Machine
end

