-- ==== Sys2Proof/Machine/Registers.lean ====
section
/-! DEFINITION. Reading the CSR window and the function regions word by word, with every register that mirrors other state computed
from it, and the writes of registers that have no command of their own (R6 to R10). -/

namespace Sys2Proof.Machine

/-- The low or high word of a 64-bit value. -/
def half (v : Nat) (high : Bool) : Word := BitVec.ofNat 32 (if high then v / 2 ^ 32 else v)

/-- DIE_ID (R42). -/
def dieIdWord (d : Nat) : Word := BitVec.ofNat 32 (dieType d * 2 ^ 16 + (if d < 72 then dieStack d else 0xFF) * 2 ^ 8 + d)

/-- A capture set's words (Table 17-9). -/
def captureWord (c : Option Capture) (k i : Nat) : Word :=
  match c with
  | none => 0
  | some c =>
    match i with
    | 0 => BitVec.ofNat 32 (2 ^ 31 + c.source.toNat * 2 ^ 16 + c.access * 2 ^ 8 + k)
    | 1 => BitVec.ofNat 32 c.agent
    | 2 => half c.addr.toNat false
    | 3 => half c.addr.toNat true
    | 4 => half c.time.toNat false
    | 5 => half c.time.toNat true
    | _ => 0

/-- The number of a unit kind (Table 17-4). -/
def unitKindCode : UnitKind → Nat
  | .none => 0 | .lane => 1 | .bundle => 2 | .port => 3 | .channel => 4 | .core => 5 | .hart => 6 | .cacheAgent => 7 | .die => 8

/-- A logged record's 64 bytes (Table 17-4). -/
def LogRec.bytes (x : LogRec) : List Byte :=
  let n := x.notice
  let flags := n.cls + 4 * b2n n.fenced + 8 * b2n n.suppressed + 16 * b2n n.fault.waited + 32 * b2n n.merged + 64 * b2n x.safe
  leBytes 4 x.seq.toNat ++ [n.fault.source, BitVec.ofNat 8 flags] ++ leBytes 2 (n.fault.die.val * 512 + n.fault.unit)
    ++ leBytes 8 n.fault.addr.toNat ++ leBytes 8 n.time.toNat ++ leBytes 1 n.fault.access ++ leBytes 1 (unitKindCode n.fault.kind)
    ++ leBytes 2 n.fault.index ++ leBytes 2 n.leafSeq.toNat ++ [n.parts, 0] ++ leBytes 4 n.count ++ padTo 28 n.fault.detail

/-- CC_STATUS (Table 4-8). -/
def Core.status (k : Core) : Word :=
  BitVec.ofNat 32 (b2n k.fenced * 2 ^ 31 + b2n k.monitor * 2 ^ 30 + k.phase * 2 ^ 28 + k.inflight.length * 2 ^ 19
    + k.accq.length * 2 ^ 11 + k.exq.length * 2 ^ 3)
/-- CC_GRANTS (Table 4-7). -/
def Core.grantWord (k : Core) : Word :=
  BitVec.ofNat 32 ((List.range 4).foldl (fun a n => a + k.grants.get 0 n * 2 ^ (8 * n)) 0)
/-- The register-cache entries of each group (R213). -/
def Core.rcEntries (k : Core) : Nat := if k.grpCount = 0 then 0 else min 8 (64 / k.grpCount)
/-- GRP_LIVE of a quarter (Table 7-7). -/
def Core.liveWord (k : Core) (q : Nat) : Word :=
  BitVec.ofNat 32 ((List.range 32).foldl (fun a i => a + b2n ((k.groups.get Group.reset (q + 4 * i)).live != 0) * 2 ^ i) 0)
/-- STR_STATUS (Table 10-13): running and held instructions, and the line requests that are outstanding between commands, those at remote nodes
and writes to companion memory (R316). -/
def State.strStatus (s : State) (c : Nat) : Word :=
  let k := s.core c
  let run := (k.slots.cells.filter (fun c => c.2.phase != 0)).length
  let held := (k.slots.cells.filter (fun c => c.2.phase == 2)).length
  BitVec.ofNat 32 (run * 2 ^ 27 + held * 2 ^ 22 + s.strOut c none * 2 ^ 12)
/-- STR_SLOT and its cursor and fault registers, word `i` of a slot's block (Tables 10-11 and 10-14). -/
def State.slotWord (s : State) (c n i : Nat) : Word :=
  let t := (s.core c).slots.get StreamSlot.reset n
  let cur (j : Nat) : Word := BitVec.ofNat 32 ((s.cursorNow c n).getD j 0)
  match i with
  | 0 => match t.ins with
    | some x => if t.phase = 0 then 0 else BitVec.ofNat 32 (t.phase * 2 ^ 29 + x.func * 2 ^ 27 + x.tag.toNat)
    | none => 0
  | 2 => cur 0 | 3 => cur 1 | 4 => cur 2 | 5 => cur 3 | 6 => cur 4
  | 8 => half t.faultVa.toNat false | 9 => half t.faultVa.toNat true
  | _ => 0

/-- The section 0x0A frequency of an island in MHz: its entry's, or its nominal maximum (R69). -/
def State.islandMhz (s : State) (kind i nominal : Nat) : Nat :=
  match s.flp.bind (fun f => f.clocks.find? (fun c => c.kind == kind && c.index == i)) with
  | some c => c.mhz
  | none => nominal

/-- The frequency in force under a steward's ceiling: its steps for budget and for temperature lower the target, down to the island's
lowest; a fast throttle halves the ceiling (R502, R504, R513). -/
def State.mhzNow (s : State) (d target step lowest : Nat) : Nat :=
  let k := s.steward d
  let m := max lowest (target - step * (k.ceiling + k.thermal))
  if s.fld d 0xD0004 27 27 = 1 then m / 2 else m

/-- CLK_CORE_STATUS (Table 18-10); no frequency is in force before a configuration is. Where several reasons hold, CAUSE names a fast
throttle first, then temperature, a memory cap, and budget. No frequency is in force at a core that is power-gated or fenced, so that CURRENT
reads 0 there and a delta's entry for it reaches TARGET only (R87; DESIGN CHOICE, log 36). -/
def State.clockWord (s : State) (c : Nat) : Word :=
  let d := coreDie c
  let k := s.steward d
  let target := s.islandMhz 1 c 800
  let cause := if s.fld d 0xD0004 27 27 = 1 then 4 else if k.thermal ≠ 0 then 2 else if k.ceiling = 0 then 0 else if k.cap.isSome then 3 else 1
  if s.flp.isNone then BitVec.ofNat 32 ((s.core c).clock * 2 ^ 30)
  else
    let off := (s.core c).clock = 2 ∨ (s.core c).fenced
    BitVec.ofNat 32 ((s.core c).clock * 2 ^ 30 + target * 2 ^ 16 + cause * 2 ^ 13 + (if off then 0 else s.mhzNow d target 25 200))

/-- A word of a core's CSR sub-block (R131). -/
def State.coreWord (s : State) (c x : Nat) : Word :=
  let k := s.core c
  let held := s.rd (coreDie c) (coreOff c x)
  if x = 0 then k.status
  else if x = 8 then half k.pc.toNat false else if x = 12 then half k.pc.toNat true
  else if 0x100 ≤ x ∧ x < 0x180 then k.tkDone.get 0 ((x - 0x100) / 4)
  else if 0x180 ≤ x ∧ x < 0x200 then k.tkExpect.get 0 ((x - 0x180) / 4)
  else if x = 0x200 then k.grantWord
  else if x = 0x400 then held ||| BitVec.ofNat 32 (b2n (s.checked (coreDie c)) * 2 ^ 8)
  else if x = 0x600 then BitVec.ofNat 32 ((k.grpVregs + 7) / 8 * 8 * 2 ^ 11 + k.rcEntries * 2 ^ 7 + k.grpCount)
  else if 0x610 ≤ x ∧ x < 0x620 then k.liveWord ((x - 0x610) / 4)
  else if x = 0x804 then held ||| BitVec.ofNat 32 ((match k.watch.sample with | some x => 2 + b2n (x.phase == 3) * 4 | none => 0) + b2n (s.checked (coreDie c)))
  else if x = 0x900 then s.strStatus c
  else if 0xA00 ≤ x ∧ x < 0xE00 then s.slotWord c ((x - 0xA00) / 0x40) ((x - 0xA00) % 0x40 / 4)
  else if x = 0xE00 then s.clockWord c
  else if x = 0xF04 then BitVec.ofNat 32 k.records.length
  else held

/-- HA_DIR_USED: the lines of a home with a directory entry. -/
def State.dirUsed (s : State) (h : Nat) : Nat :=
  (s.lines.cells.filter (fun c => homeOf (c.1 * 128) == h && c.2.entry.isSome)).length
/-- CPU_L2_DIRTY: lines of an L2 in M or O. -/
def L2.dirty (k : L2) : Nat := (k.lines.cells.filter (fun x => x.2.st == .M || x.2.st == .O)).length
/-- The frequency of a CPU cluster in MHz (R404). -/
def State.clusterMhz (s : State) (n : Nat) : Nat := s.mhzNow (32 + n / 16) (s.islandMhz 2 n 2600) 100 400
/-- CPU_HART_STATE (Table 14-6); no frequency is in force before a configuration is. -/
def State.hartWord (s : State) (h : Nat) : Word :=
  let k := s.hart h
  BitVec.ofNat 32 (b2n k.fenced * 2 ^ 31 + k.state * 2 ^ 28 + k.dropped * 2 ^ 16 + (if s.flp.isNone then 0 else s.clusterMhz (h / 4) / 100) * 2 ^ 8 + h)

/-- XL_STATUS (Table 13-9). -/
def State.xlStatus (s : State) (d : Nat) : Word :=
  let cs := (List.range 20).map (fun i => s.core (d * 20 + i))
  let path (g : Group) : Nat := (g.ring.filter (fun p => match p.state with | .walk _ _ => true | _ => false)).length
  let walk (k : Core) : Nat :=
    (match k.waiting with | some (.walk _ _) => 1 | _ => 0) + (k.groups.cells.map (fun g => path g.2)).sum
      + (k.slots.cells.filter (fun x => x.2.phase == 1 && x.2.waiting.isSome)).length
  BitVec.ofNat 32 (min 16 ((cs.map walk).sum) * 2 ^ 27 + (cs.map (fun k => k.records.length)).sum)

/-- A word of the leaf registers (Table 17-8). -/
def State.leafWord (s : State) (d off : Nat) : Word :=
  let l := s.leaf d
  if off = 0xC0000 then BitVec.ofNat 32 (b2n (!l.held.isEmpty) * 2 ^ 30 + l.queue.length)
  else if off = 0xC0004 then l.seq.setWidth 32
  else if 0xC0100 ≤ off ∧ off < 0xC0160 then captureWord (l.captures.get none ((off - 0xC0100) / 0x20)) ((off - 0xC0100) / 0x20) ((off - 0xC0100) % 0x20 / 4)
  else if 0xC0400 ≤ off ∧ off < 0xC0800 then BitVec.ofNat 32 (l.merged.get 0 ((off - 0xC0400) / 4))
  else if 0xC1000 ≤ off ∧ off < 0xC1400 then BitVec.ofNat 32 (s.sev ((off - 0xC1000) / 4))
  else 0

/-- A word of the root registers and the log (Table 17-8). -/
def State.rootWord (s : State) (d off : Nat) : Word :=
  let r := s.root (d == 95)
  if off = 0xE0000 then
    BitVec.ofNat 32 (b2n (s.phase == .safe) * 2 ^ 31 + b2n r.overflow * 2 ^ 30 + b2n (s.activeRoot == (d == 95)) * 2 ^ 29
      + b2n r.peerLost * 2 ^ 28 + b2n r.fenceFull * 2 ^ 27 + b2n s.mgmt.fuses94.shipment * 2 ^ 26 + b2n s.pins.factoryTest * 2 ^ 25
      + b2n r.dumpValid * 2 ^ 24)
  else if off = 0xE0004 then BitVec.ofNat 32 r.log.length
  else if off = 0xE0008 then (match r.log with | x :: _ => x.seq | [] => r.next)
  else if off = 0xE000C then r.next
  else if 0xE0100 ≤ off ∧ off < 0xE0160 then captureWord (r.captures.get none ((off - 0xE0100) / 0x20)) ((off - 0xE0100) / 0x20) ((off - 0xE0100) % 0x20 / 4)
  else if 0xE0200 ≤ off ∧ off < 0xE0280 then
    let e := r.cpuMsi.get MsiEntry.reset ((off - 0xE0200) / 16)
    match (off - 0xE0200) % 16 / 4 with
    | 0 => half e.addr.toNat false | 1 => half e.addr.toNat true | 2 => e.value
    | _ => BitVec.ofNat 32 (b2n e.mask + 2 * b2n e.pending)
  else if 0xE0300 ≤ off ∧ off < 0xE0320 then r.compVec.get 0 ((off - 0xE0300) / 4)
  else if 0xE1000 ≤ off ∧ off < 0xE1400 then BitVec.ofNat 32 (r.drops.get 0 ((off - 0xE1000) / 4))
  else if 0x800000 ≤ off ∧ off < 0x840000 then
    match r.log[(off - 0x800000) / 64]? with
    | some x => BitVec.ofNat 32 (leAt x.bytes ((off - 0x800000) % 64) 4)
    | none => 0
  else 0

/-! ## Security registers (Tables 19-7 to 19-10) -/

/-- Whether a fuse other than a counter differs between the management dies (R529). -/
def Mgmt.mismatch (m : Mgmt) : Bool :=
  { m.fuses94 with arbFw := 0, arbFlp := 0, arbDbg := 0 } != { m.fuses95 with arbFw := 0, arbFlp := 0, arbDbg := 0 }

/-- The fuses of die 94 or 95. -/
def Mgmt.fuses (m : Mgmt) (d : Nat) : Fuses := if d = 95 then m.fuses95 else m.fuses94

/-- The 48 bytes of a digest. -/
def digestBytes (d : BitVec 384) : List Byte := leBytes 48 d.toNat

/-- FLP_DIGEST (Table 2-16). -/
def State.flpDigest (s : State) : BitVec 384 :=
  BitVec.ofNat 384 ((List.range 12).foldl (fun (a : Nat) i => a + (s.rd 94 (0x20040 + 4 * i)).toNat * 2 ^ (32 * i)) 0)

/-- The fuse state that measurement 6 covers: key hashes, then the three counters (Table 19-7). -/
def Fuses.bytes (f : Fuses) : List Byte :=
  digestBytes f.fwRsa ++ digestBytes f.fwSlh ++ digestBytes f.flpRsa ++ digestBytes f.flpSlh ++ digestBytes f.dbgRsa ++ digestBytes f.dbgSlh
    ++ leBytes 8 f.arbFw ++ leBytes 8 f.arbFlp ++ leBytes 8 f.arbDbg

/-- Measurement `i`, 1 to 8 (Table 19-7). -/
def State.measurement (s : State) (i : Nat) : BitVec 384 :=
  match i with
  | 1 => Config.romDigest
  | 5 => s.flpDigest
  | 6 => Config.sha384 s.mgmt.fuses94.bytes
  | 7 => s.mgmt.digestLog.foldl (fun (m : BitVec 384) d => Config.sha384 (digestBytes m ++ digestBytes d)) 0
  | 8 => Config.sha384 ((List.range 100).flatMap (fun d => leBytes 4 (s.rd d 4 ||| s.dieRevWord d).toNat ++ leBytes 8 (s.rd64 d 0x40).toNat))
  | i => s.mgmt.digests.get 0 (i - 2)

/-- A security register's word; nothing is measured before the ROM has run (R545). -/
def State.secWord (s : State) (d off : Nat) : Word :=
  let f := s.mgmt.fuses d
  if off = 0xF0000 then
    BitVec.ofNat 32 (b2n s.mgmt.scope.isSome * 2 ^ 31 + b2n (s.phase == .recovery) * 2 ^ 30 + b2n s.mgmt.mismatch * 2 ^ 29
      + s.mgmt.scope.getD 0 % 32 * 2 ^ 24 + f.arbFw * 2 ^ 16 + f.arbFlp * 2 ^ 8 + f.arbDbg)
  else if off = 0xF0004 then BitVec.ofNat 32 (s.mgmt.copies.get 0 2 * 2 ^ 8 + s.mgmt.copies.get 0 1 * 2 ^ 4 + s.mgmt.copies.get 0 0)
  else if off = 0xF0008 then half f.serial.toNat false else if off = 0xF000C then half f.serial.toNat true
  else if 0xF0140 ≤ off ∧ off < 0xF0340 ∧ (off - 0xF0100) % 0x40 < 48 then
    BitVec.ofNat 32 ((s.measurement ((off - 0xF0100) / 0x40)).toNat / 2 ^ ((off - 0xF0100) % 0x40 * 8))
  else 0

/-- The word at an offset of a die's CSR block, as a read returns it (R9, R10). -/
def State.csrWord (s : State) (d off : Nat) : Word :=
  let held := s.rd d off
  if off = 0 then dieIdWord d
  else if off = 4 then held ||| s.dieRevWord d
  else if off = 8 then s.dieFeat d else if off = 12 then 0
  else if off = 0x10 then disabledWord d
  else if 0x1000000 ≤ off then
    (if d < 32 then (if off < 0x1140000 then s.coreWord (d * 20 + (off - 0x1000000) / 0x10000) ((off - 0x1000000) % 0x10000) else 0) else 0)
  else if 0xC0000 ≤ off ∧ off < 0xD0000 then s.leafWord d off
  else if (d = 94 ∨ d = 95) ∧ ((0xE0000 ≤ off ∧ off < 0xF0000) ∨ 0x800000 ≤ off) then s.rootWord d off
  else if (d = 94 ∨ d = 95) ∧ off = 0x20100 then s.slStatus
  else if (d = 94 ∨ d = 95) ∧ 0xF0000 ≤ off ∧ off < 0xF1000 then s.secWord d off
  else if off = 0xD0000 then BitVec.ofNat 32 ((s.steward d).need % 2 ^ 16 * 2 ^ 16 + (s.steward d).budget % 2 ^ 16)
  else if off = 0x40000 then BitVec.ofNat 32 (held.toNat + (if 36 ≤ d ∧ d < 84 then s.homeOpen (d - 36) else 0))
  else if off = 0x40008 then BitVec.ofNat 32 (if 36 ≤ d ∧ d < 84 then s.dirUsed (d - 36) else 0)
  else if off = 0x50000 then held ||| (if 68 ≤ d ∧ d < 72 then 1 else 0)
  else if 0x60100 ≤ off ∧ off < 0x60300 ∧ off % 0x20 = 8 ∧ 32 ≤ d ∧ d < 36 then
    BitVec.ofNat 32 (s.l2 ((d - 32) * 16 + (off - 0x60100) / 0x20)).dirty
  else if 0x61000 ≤ off ∧ off < 0x61100 ∧ 32 ≤ d ∧ d < 36 then s.hartWord ((d - 32) * 64 + (off - 0x61000) / 4)
  else if off = 0x70000 ∧ d < 32 then s.xlStatus d
  else if off = 0x90800 then held ||| BitVec.ofNat 32 (((s.flp.bind (·.fabric)).map (·.nodeId)).getD 0)
  else if 84 ≤ d ∧ d < 92 ∧ 0xA0000 ≤ off ∧ off < 0xA0100 ∧ off % 0x20 = 8 then
    held ||| BitVec.ofNat 32 (b2n (s.col ((d - 84) * 8 + (off - 0xA0000) / 0x20)).isSome * 2 ^ 29)
  else held

/-- JXL_FN_STATUS (Table 15-8). -/
def State.fnStatus (s : State) (p : Nat) : Word :=
  let f := s.fn p
  BitVec.ofNat 32 (b2n f.lost * 2 ^ 31
    + b2n (f.enable && ((s.sq p 0).map (fun k => k.stopped == 0)).getD false) * 2 ^ 30 + f.episode % 256 * 2 ^ 8 + s.partState p * 2 ^ 4 + s.level)

/-- The word at an offset of a function region, as a read returns it (Table 15-7). -/
def State.fnWord (s : State) (p off : Nat) : Word :=
  let f := s.fn p
  if off = 0 then BitVec.ofNat 32 (b2n f.enable)
  else if off = 4 then s.fnStatus p
  else if off = 0x10 then half f.sqBase.toNat false else if off = 0x14 then half f.sqBase.toNat true
  else if off = 0x18 then half f.cqBase.toNat false else if off = 0x1C then half f.cqBase.toNat true
  else if off = 0x20 then f.adminSize
  else if off = 0x28 then half f.lostTotal false else if off = 0x2C then half f.lostTotal true
  else if off = 0x30 then half f.lostTime.toNat false else if off = 0x34 then half f.lostTime.toNat true
  else if 0x40000 ≤ off ∧ off < 0x44000 then BitVec.ofNat 32 (f.lostCount.get 0 ((off - 0x40000) / 4))
  else if 0x100000 ≤ off ∧ off < 0x110000 then
    let e := f.msi.get MsiEntry.reset ((off - 0x100000) / 16)
    match off % 16 / 4 with
    | 0 => half e.addr.toNat false | 1 => half e.addr.toNat true | 2 => e.value
    | _ => BitVec.ofNat 32 (b2n e.mask + 2 * b2n e.pending)
  else 0

/-- Where a CSR address lies: a die's block, or a function region. -/
inductive CsrPlace where
  | die (d off : Nat)
  | fn (p off : Nat)
  | nowhere
deriving DecidableEq, Repr

/-- The place of an address of the CSR window or of the function regions (R374, R426). -/
def csrPlace (a : Nat) : CsrPlace :=
  if 0x30000000000 ≤ a ∧ a < 0x36400000000 then .die ((a - 0x30000000000) / 2 ^ 32) ((a - 0x30000000000) % 2 ^ 32)
  else if 0x3F000000000 ≤ a ∧ a < 0x3F008000000 then .fn ((a - 0x3F000000000) / 0x1000000) ((a - 0x3F000000000) % 0x1000000)
  else .nowhere

/-- Whether an access is a naturally aligned 4- or 8-byte access (R9). -/
def csrAligned (a n : Nat) : Bool := (n == 4 || n == 8) && a % n == 0

/-- A read of a CSR address; an access that is not naturally aligned reads zero (R9). -/
def State.csrRead (s : State) (a n : Nat) : DWord :=
  let w (a : Nat) : Word := match csrPlace a with
    | .die d off => s.csrWord d off
    | .fn p off => s.fnWord p off
    | .nowhere => 0
  if csrAligned a n then (if n = 8 then w (a + 4) ++ w a else (w a).setWidth 64) else 0

/-- Replaces the masked bits of a word. -/
def maskWrite (old mask v : Word) : Word := (old &&& ~~~ mask) ||| (v &&& mask)

/-- The sum of MIN over all dies (R68, R503). -/
def State.sumMin (s : State) : Nat := match s.flp with | some f => (f.budgets.map (·.min)).sum | none => 0

/-- A write of PWR_PKG_LIMIT: a limit below the sum of MIN is ignored with LIMIT_ERR set; zero sets no limit (R503). -/
def State.setPkgLimit (s : State) (v : Word) : State :=
  let n := v.toNat % 2 ^ 20
  if n ≠ 0 ∧ n < s.sumMin then s.setFld 94 0xD0104 31 31 1
  else (s.setFld 94 0xD0104 31 31 0).setFld 94 0xD0100 19 0 n

/-- A write of one word of FC_PART_CPU_MSI: address, value or MASK; PENDING is read-only, and a pending interrupt is sent when MASK clears (R486). -/
def State.cpuMsiWord (s : State) (r95 : Bool) (p i : Nat) (v : Word) : State :=
  let r := s.root r95
  let e := r.cpuMsi.get MsiEntry.reset p
  let (addr, value, mask) : DWord × Word × Bool :=
    match i with
    | 0 => ((e.addr.extractLsb' 32 32) ++ v, e.value, e.mask)
    | 1 => (v ++ (e.addr.extractLsb' 0 32), e.value, e.mask)
    | 2 => (e.addr, v, e.mask)
    | _ => (e.addr, e.value, v.getLsbD 0)
  s.cpuMsiSet r95 p addr value mask

/-- Clears set `k` of a list of capture sets. -/
def clearSet (m : Map (Option Capture)) (k : Nat) : Map (Option Capture) := m.set none k none

/-- A write of one word of a core's CSR sub-block (Tables 9-15 and 10-19): DIS of WATCH_STATUS and VALID of PAN_ECC_FIRST clear by a 1, and
QUARTERED is written until the load locks it. -/
def State.subBlockWrite (s : State) (d off : Nat) (v : Word) : State :=
  let base := off - off % 0x10000
  match off % 0x10000 with
  | 0x400 => if s.locked then s else s.setFld d off 0 0 (bits v.toNat 0 0)
  | 0x804 => if v.getLsbD 3 then (s.setFld d off 3 3 0).setFld d (base + 0x820) 31 31 0 else s
  | 0x888 => if v.getLsbD 31 then s.wr d off 0 else s
  | _ => s

/-- A write of one word of a root collector's registers (Table 17-8). -/
def State.rootWrite (s : State) (r95 : Bool) (off : Nat) (v : Word) : State :=
  let r := s.root r95
  if off = 0xE0000 then (if v.getLsbD 30 then s.setRoot r95 { r with overflow := false } else s)
  else if off = 0xE0010 then s.setRoot r95 (r.free v)
  else if off = 0xE0014 then s.setRoot r95 { r with drops := ⟨[]⟩ }
  else if 0xE0100 ≤ off ∧ off < 0xE0160 then
    (if off % 0x20 = 0 ∧ v.getLsbD 31 then s.setRoot r95 { r with captures := clearSet r.captures ((off - 0xE0100) / 0x20) } else s)
  else if 0xE0200 ≤ off ∧ off < 0xE0280 then s.cpuMsiWord r95 ((off - 0xE0200) / 16) (off % 16 / 4) v
  else if 0xE0300 ≤ off ∧ off < 0xE0320 then s.setRoot r95 { r with compVec := r.compVec.set 0 ((off - 0xE0300) / 4) (v &&& 0x80001FFF) }
  else s

/-- A write of one word of a die's CSR block: RW fields are set, W1C bits are cleared by a 1, WO registers act; every other write is
ignored (R6, R7). A write of DSF_RT_STAGE replaces the standby route table, which holds no table till the commit (R454; log 23). -/
def State.csrWriteWord (s : State) (d off : Nat) (v : Word) : State :=
  if 0xC0100 ≤ off ∧ off < 0xC0160 then
    (if off % 0x20 = 0 ∧ v.getLsbD 31 then s.setLeaf d { s.leaf d with captures := clearSet (s.leaf d).captures ((off - 0xC0100) / 0x20) } else s)
  else if 32 ≤ d ∧ d < 36 ∧ off = 0x60000 then
    (if 8 ≤ bits v.toNat 9 0 ∧ bits v.toNat 9 0 ≤ 1000 then s.setFld d off 9 0 (bits v.toNat 9 0) else s)
  else if (d = 94 ∨ d = 95) ∧ 0xE0000 ≤ off ∧ off < 0xF0000 then s.rootWrite (d == 95) off v
  else if (d = 94 ∨ d = 95) ∧ off = 0xD0100 then s.setPkgLimit v
  else if d = 84 ∧ 0xB0000 ≤ off ∧ off < 0xBC088 then s.stageWord (off - 0xB0000) v
  else if d = 84 ∧ off = 0x90810 then (if v.getLsbD 29 then s.setFld d off 29 29 0 else s)
  else if 84 ≤ d ∧ d < 92 ∧ 0xA0000 ≤ off ∧ off < 0xA0100 then
    let ctrl := off / 0x20 * 0x20 + 8
    if s.fld d ctrl 31 31 = 1 then s
    else if off % 0x20 < 8 then s.wr d off v
    else if off % 0x20 = 8 then s.wr d off (maskWrite (s.rd d off) 0x071F0000 v)
    else s
  else if d < 32 ∧ 0x1000000 ≤ off ∧ off < 0x1140000 then s.subBlockWrite d off v
  else s

/-- A write of one word of a function region, for registers without a command of their own (Tables 15-7 and 15-8). -/
def State.fnWriteWord (s : State) (p off : Nat) (v : Word) : State :=
  let f := s.fn p
  let lo (w : DWord) : DWord := (w.extractLsb' 32 32) ++ v
  let hi (w : DWord) : DWord := v ++ (w.extractLsb' 0 32)
  if off = 4 then (if v.getLsbD 31 then s.setFn p { f with lost := false } else s)
  else if off = 0x10 then s.setFn p { f with sqBase := lo f.sqBase } else if off = 0x14 then s.setFn p { f with sqBase := hi f.sqBase }
  else if off = 0x18 then s.setFn p { f with cqBase := lo f.cqBase } else if off = 0x1C then s.setFn p { f with cqBase := hi f.cqBase }
  else if off = 0x20 then s.setFn p { f with adminSize := v &&& 0x1F1F }
  else s

/-- A write of one word at a CSR address. -/
def State.csrWriteAt (s : State) (a : Nat) (v : Word) : State :=
  match csrPlace a with
  | .die d off => s.csrWriteWord d off v
  | .fn p off => s.fnWriteWord p off v
  | .nowhere => s

/-- Whether a master agent may access the CSR window: harts and the management dies (R375). -/
def csrAgentOk (agent : Nat) : Bool := (decide (16384 ≤ agent) && decide (agent < 18432)) || (decide (48128 ≤ agent) && decide (agent < 49152))

/-- Whether an address is the companion's to write: in a function region, which exists on the link only (R418), or in the page of an interrupt file
(R401). The companion's accesses carry an agent number beyond the dies' (R375). -/
def compCsrOk (a : Nat) : Bool :=
  match csrPlace a with
  | .fn _ _ => true
  | .die d off => decide (32 ≤ d) && decide (d < 36) && ((decide (0x100000 ≤ off) && decide (off < 0x140000)) || (decide (0x200000 ≤ off) && decide (off < 0x400000)))
  | .nowhere => false

/-- Whether an agent may write a CSR address (R375, R418). -/
def csrMay (agent a : Nat) : Bool :=
  if 51200 ≤ agent then compCsrOk a
  else csrAgentOk agent && (match csrPlace a with | .fn _ _ => false | _ => true)

/-- CSR_ACCESS_ERROR (R9): an access that is not naturally aligned has no effect, reads zero and raises "CSR access" at the agent. -/
def execCsrAccessError (agent addr size : Nat) (s : State) : Outcome :=
  gate s (fun s => if csrAligned addr size then s else (s.send (.csrData agent 0)).send (.contained agent 0x100))

end Sys2Proof.Machine
end

