-- ==== Sys2Proof/Machine/Image.lean ====
section
/-! DEFINITION. The Floorplan image: its layout, its sections and every check of a load or a delta in the order of Table 2-14
(R52 to R75, R80, R82, R84, R85). -/

namespace Sys2Proof.Machine

/-- Why a load fails: the code of Table 2-14, and the section and byte offset of FLP_ERR_DETAIL. -/
structure FlpErr where
  code : Nat
  sec  : Nat
  off  : Nat
deriving DecidableEq, Repr

/-- The first failing check of a list of checks. -/
def firstFail (code : Nat) (cs : List (Bool × Nat × Nat)) : Except FlpErr Unit :=
  match cs.find? (fun c => !c.1) with
  | some c => .error { code := code, sec := c.2.1, off := c.2.2 }
  | none => .ok ()

/-- A section as it stands in an image: TYPE, SECTION_VER, offset of its value and LENGTH (R53). -/
structure Sec where
  type : Nat
  ver  : Nat
  off  : Nat
  len  : Nat
deriving DecidableEq, Repr

/-- CRC-32C of a list of bytes (R28, R76): the Castagnoli polynomial, reflected, register and result inverted (log 12). -/
def crc32c (bs : List Byte) : Word :=
  ~~~ (bs.foldl (fun (r : Word) (b : Byte) =>
    (List.range 8).foldl (fun (r : Word) _ => if r.getLsbD 0 then (r >>> 1) ^^^ 0x82F63B78 else r >>> 1) (r ^^^ b.setWidth 32)) (BitVec.allOnes 32))

/-- The size of a section of TYPE `t` whose value starts at `o`, as its layout gives it for the content it declares: of a list,
that of the whole entries, 8 partitions and 32 sets at most; none where it holds no partition (R53, R54, R57, R60). -/
def knownLen (img : List Byte) (t o len : Nat) : Option Nat :=
  match t with
  | 0x01 => some 0x3A
  | 0x02 => if len < 120 then none else some (120 * min 8 (len / 120))
  | 0x03 => some 8
  | 0x04 => some (80 * min 32 (len / 80))
  | 0x05 => some (24 * (len / 24))
  | 0x06 => some (8 + 7200 * leAt img o 4 + 4 * leAt img (o + 4) 4)
  | 0x07 => some (0x50 + 0x88 + 4 * leAt img (o + 0x50 + 0x80) 4)
  | 0x08 => some 80
  | 0x09 => some 1200
  | 0x0A => some (4 * (len / 4))
  | 0x0B => some 1024
  | 0x0C => some 64
  | 0x0D => some 8
  | _ => some len

/-- A section without the bytes beyond the length its layout gives it, which the device ignores (R54). -/
def Sec.known (img : List Byte) (x : Sec) : Sec := { x with len := (knownLen img x.type x.off x.len).getD x.len }

/-- The sections of an image up to SIG_OFFSET; where one overruns it, the type and offset of its LENGTH (R53). -/
def walkSections (img : List Byte) (sig : Nat) : Nat → Nat → Except (Nat × Nat) (List Sec)
  | 0, o => .error (0, o)
  | fuel + 1, o =>
    if o = sig then .ok []
    else if sig < o + 8 then .error (0, o)
    else
      let len := leAt img (o + 4) 4
      let next := o + 8 + (len + 7) / 8 * 8
      if sig < next then .error (leAt img o 1, o + 4)
      else (walkSections img sig fuel next).map (fun r => { type := leAt img o 1, ver := leAt img (o + 1) 1, off := o + 8, len := len } :: r)

/-- The sections up to the first that overruns SIG_OFFSET: what the version check looks at. -/
def peekSections (img : List Byte) (sig : Nat) : Nat → Nat → List Sec
  | 0, _ => []
  | fuel + 1, o =>
    if sig < o + 8 then []
    else
      let len := leAt img (o + 4) 4
      let next := o + 8 + (len + 7) / 8 * 8
      if sig < next then []
      else { type := leAt img o 1, ver := leAt img (o + 1) 1, off := o + 8, len := len } :: peekSections img sig fuel next

/-- A section of a type, if the image has it. -/
def secOf (ss : List Sec) (t : Nat) : Option Sec := ss.find? (fun x => x.type == t)

/-- The version check of one section: its version, its type, and a longer layout with zero bytes (R54). -/
def secVersionOk (img : List Byte) (minor : Nat) (x : Sec) : Bool :=
  if x.type ≥ 0x80 then true
  else if x.type = 0 ∨ 0x0D < x.type then false
  else (x.ver == 1 || (minor == 3 && x.ver == 2)) &&
    (match knownLen img x.type x.off x.len with
     | some n => if n < x.len ∧ minor = 3 then leAt img (x.off + n) (x.len - n) == 0 else true
     | none => true)

/-- MAGIC, lengths and the place of the signature block (R52, R73). -/
def checkMagic (img : List Byte) (recLen : Nat) : Except FlpErr Unit :=
  let len := leAt img 8 4
  let sig := leAt img 0x18 4
  firstFail 2 [(leAt img 0 4 == 0x50465A4B, 0, 0), (decide (len ≤ 0x100000) && decide (len ≤ recLen), 0, 8),
    (decide (0x50 ≤ sig) && sig % 8 == 0, 0, 0x18), (len == sig + 0x4290, 0, 8)]

/-- The four conditions on the signature block at an offset, under two key hashes (R74). -/
def sigAt (img : List Byte) (sig : Nat) (rsaHash slhHash : BitVec 384) : Bool :=
  let part (o n : Nat) := (img.drop (sig + o)).take n
  let msg := img.take sig
  Config.sha384 (part 0 384) == rsaHash && Config.sha384 (part 0x180 48) == slhHash
    && Config.rsaVerifies (part 0 384) (part 0x1B0 384) msg && Config.slhVerifies (part 0x180 48) (part 0x330 16224) msg

/-- The signature block of an image (R73, R74). -/
def sigOk (img : List Byte) (rsaHash slhHash : BitVec 384) : Bool := sigAt img (leAt img 0x18 4) rsaHash slhHash

/-- What the checks need from the device: fuses, fence list, and the configuration in force for a delta. -/
structure LoadCtx where
  rsaHash : BitVec 384
  slhHash : BitVec 384
  arbFlp  : Nat
  revs    : List Nat
  feats   : List Word
  fences  : List FenceEntry
  base    : Option (Floorplan × BitVec 384)
  quiesced : List Nat

/-- The Attic fstacks that count as fenced: a fenced channel, or a fenced base die (R340, R487). -/
def fencedStacks (fs : List FenceEntry) : List Nat :=
  fs.filterMap (fun e => if e.kind = 3 then some (e.index / 16) else if e.kind = 5 ∧ 36 ≤ e.index ∧ e.index < 72 then some (e.index - 36) else none)
/-- The Annex channels that count as fenced. -/
def fencedAnnex (fs : List FenceEntry) (c : Nat) : Bool :=
  fs.any (fun e => (e.kind == 4 && e.index == c) || (e.kind == 5 && e.index == 72 + c / 32))
/-- The cores that count as fenced. -/
def fencedCores (fs : List FenceEntry) (c : Nat) : Bool :=
  fs.any (fun e => (e.kind == 1 && e.index == c) || (e.kind == 5 && e.index == c / 20))
/-- The harts that count as fenced. -/
def fencedHarts (fs : List FenceEntry) (h : Nat) : Bool :=
  fs.any (fun e => (e.kind == 2 && e.index == h) || (e.kind == 5 && e.index == 32 + h / 64))

/-- A bit map without the bits for which `p` holds. -/
def clearBits (w : Nat) (m : BitVec w) (p : Nat → Bool) : BitVec w :=
  (List.range w).foldl (fun a i => if m.getLsbD i && p i then a &&& ~~~ (1#w <<< i) else a) m

/-- Section 0x02's entries, without fenced cores and harts (R57, R82). -/
def readParts (img : List Byte) (fs : List FenceEntry) (x : Sec) : List PartEntry :=
  (List.range (x.len / 120)).map (fun i =>
    let o := x.off + 120 * i
    { id := leAt img o 1, cores := clearBits 640 (BitVec.ofNat 640 (leAt img (o + 8) 80)) (fencedCores fs),
      harts := clearBits 256 (BitVec.ofNat 256 (leAt img (o + 0x58) 32)) (fencedHarts fs) })

/-- The members of a set before fences (R60). -/
def rawMembers (img : List Byte) (o : Nat) : List Nat := (List.range 384).filter (fun i => bitAt (leAt img (o + 0x20) 48) i)

/-- Section 0x04's sets, without fenced members (R60, R82). -/
def readSets (img : List Byte) (fs : List FenceEntry) (x : Sec) : List IntSet :=
  (List.range (x.len / 80)).map (fun i =>
    let o := x.off + 80 * i
    let annex := leAt img (o + 1) 1 == 1
    { setId := leAt img o 1, annex := annex, granuleLog2 := leAt img (o + 2) 1, base := leAt img (o + 8) 8, perMember := leAt img (o + 0x10) 8,
      key := BitVec.ofNat 64 (leAt img (o + 0x18) 8),
      members := (rawMembers img o).filter (fun m => if annex then !fencedAnnex fs m else !(fencedStacks fs).contains m) })

/-- The sets of an image without section 0x04 (Table 2-2). -/
def defaultSets (fs : List FenceEntry) : List IntSet :=
  [{ setId := 0, annex := true, granuleLog2 := 8, base := 0x10000000000, perMember := 0x60000000, key := 0,
     members := (List.range 384).filter (fun c => !fencedAnnex fs c) }]

/-- The ends of the sets before fences took members: base, end, and whether a member was removed. -/
def setSpans (img : List Byte) (x : Option Sec) (sets : List IntSet) : List (Nat × Nat × Nat) :=
  match x with
  | some x => (List.range (x.len / 80)).filterMap (fun i =>
      let o := x.off + 80 * i
      match sets[i]? with
      | some t => if t.members.length < (rawMembers img o).length then
          some (t.base, t.base + (rawMembers img o).length * t.perMember, t.base + t.members.length * t.perMember) else none
      | none => none)
  | none => sets.filterMap (fun t => if t.members.length < 384 then some (t.base, t.base + 384 * t.perMember, t.base + t.members.length * t.perMember) else none)

/-- Section 0x05's windows (R62). -/
def readWindows (img : List Byte) (x : Sec) : List Window :=
  (List.range (x.len / 24)).map (fun i =>
    let o := x.off + 24 * i
    let a := leAt img (o + 1) 1
    { part := leAt img o 1, read := bitAt a 0, write := bitAt a 1, shared := bitAt a 2, noAlloc := leAt img (o + 2) 1 == 1,
      base := leAt img (o + 8) 8, size := leAt img (o + 0x10) 8 })

/-- The windows of an image without section 0x05: every partition reaches each local region and each set (Table 2-2). -/
def defaultWindows (sets : List IntSet) (parts : List PartEntry) (fstacks : List Nat) : List Window :=
  (parts.map (fun p =>
    let w (b n : Nat) : Window := { part := p.id, read := true, write := true, shared := true, noAlloc := false, base := b, size := n }
    ((List.range 36).filterMap (fun k => let n := 2 ^ 33 - atticClaimed sets k; if fstacks.contains k ∨ n = 0 then none else some (w (k * 2 ^ 33) n)))
      ++ (sets.filterMap (fun t => if t.perMember = 0 then none else some (w t.base (t.members.length * t.perMember)))))).flatten

/-- Cuts and drops windows whose set lost members or whose stack is fenced; the second answer is TRUNCATED (R82). -/
def truncWindows (spans : List (Nat × Nat × Nat)) (fstacks : List Nat) (ws : List Window) : List Window × Bool :=
  ws.foldl (fun (acc : List Window × Bool) w =>
    if w.base < 36 * 2 ^ 33 ∧ fstacks.contains (w.base / 2 ^ 33) then (acc.1, true)
    else
      match spans.find? (fun t => decide (t.1 ≤ w.base) && decide (w.base < t.2.1)) with
      | some t =>
        if t.2.2 ≤ w.base then (acc.1, true)
        else if t.2.2 < w.base + w.size then (acc.1 ++ [{ w with size := t.2.2 - w.base }], true)
        else (acc.1 ++ [w], acc.2)
      | none => (acc.1 ++ [w], acc.2)) ([], false)

/-- Whether a window lies wholly within one set or one stack's local region that is backed (R63, R340). -/
def windowInOne (sets : List IntSet) (dead : List Nat) (w : Window) : Bool :=
  (decide (w.base < 36 * 2 ^ 33) && !dead.contains (w.base / 2 ^ 33) && decide (w.base % 2 ^ 33 + w.size ≤ 2 ^ 33 - atticClaimed sets (w.base / 2 ^ 33)))
    || sets.any (fun t => decide (t.base ≤ w.base) && decide (w.base + w.size ≤ t.base + t.members.length * t.perMember))

/-- Whether two ranges overlap. -/
def rangesMeet (a n b m : Nat) : Bool := decide (a < b + m) && decide (b < a + n)

/-- A route table of 16 groups and its entries (Table 16-6). -/
def readTable (img : List Byte) (o : Nat) : RouteTable :=
  { groups := (List.range 16).map (fun g => BitVec.ofNat 64 (leAt img (o + 8 * g) 8)),
    entries := (List.range (leAt img (o + 0x80) 4)).map (fun d => BitVec.ofNat 32 (leAt img (o + 0x88 + 4 * d) 4)) }

/-- The checks of a fabric route table at a node, each with its offset in the table; the node's own entry is ignored (R453). -/
def tableChecks (t : RouteTable) (node : Nat) (enable : DWord) : List (Bool × Nat) :=
  [(decide (1 ≤ t.entries.length) && decide (t.entries.length ≤ 12288), 0x80)]
    ++ t.groups.zipIdx.map (fun g => (g.1 &&& ~~~ enable == 0, 8 * g.2))
    ++ t.entries.zipIdx.map (fun e => (e.2 == node || !e.1.getLsbD 31 ||
        ((t.groups.getD (bits e.1.toNat 29 26) 0 != 0) && (!e.1.getLsbD 30 || t.groups.getD (bits e.1.toNat 25 22) 0 != 0)), 0x88 + 4 * e.2))

/-- Whether a fabric route table passes its checks (R453). -/
def tableOk (t : RouteTable) (node : Nat) (enable : DWord) : Bool := (tableChecks t node enable).all (·.1)

/-- Section 0x07 (R66). -/
def readFabric (img : List Byte) (x : Sec) : FabricCfg :=
  { nodeId := leAt img x.off 2, switched := leAt img (x.off + 2) 1 == 1, portEnable := BitVec.ofNat 64 (leAt img (x.off + 8) 8),
    portPart := (List.range 64).map (fun n => leAt img (x.off + 0x10 + n) 1), table := readTable img (x.off + 0x50) }

/-- The link configuration of an image without section 0x08 (Table 2-2). -/
def defaultLinkPorts : List LinkPortCfg :=
  [{ enable := true, lanes16 := true, rate224 := true }, { enable := false, lanes16 := true, rate224 := true }]
/-- The partition entries of an image without section 0x08. -/
def defaultLinkParts : List LinkPartCfg := List.replicate 8 { port := 0, slot256 := false, queues := 64 }

/-- The watch entries of an image without section 0x0C: the defaults of Table 2-11. -/
def defaultWatch : List WatchCfg := List.replicate 8 { sampleLog2 := 10, selfTest := 2, boundScale := 1, nanTrap := true }

/-- A severity entry's own rules (R70, R479). -/
def sevEntryOk (n e : Nat) : Bool :=
  let cls := e % 4
  let listed := sourceTable.any (fun x => x.1 == n)
  bits e 31 16 == 0 && bits e 15 13 == 0 && bits e 7 2 == 0 && bitAt e 8 && decide (cls ≤ 2)
    && (if cls = 2 then bitAt e 12 else !bitAt e 12) && (if cls = 1 then bitAt e 9 || bitAt e 10 || bitAt e 11 else true)
    && (if listed then
          (if alwaysFences.contains n then bitAt e 11 && cls != 0 else if fenceKind n == .none then !bitAt e 11 else true)
        else e == 0x100)

/-- The checks of one router entry for a destination: codes, local only at the destination's own stack, a neighbour in the
direction, and the plane's turn rule against the entries of the next router (R30, R65). A packet that leaves the next router for
a die at the edge leaves the mesh and makes no turn: the default routes leave so and obey both turn models (DEDUCED, log 61). -/
def routeStepOk (t : List Byte) (r d q : Nat) : Bool :=
  let ent (r : Nat) : Nat × Nat := let b := (t.getD ((r * 100 + d) * 2 + q) 0xFF).toNat; (b % 16, b / 16)
  let forbidden := if q = 0 then 3 else 1
  let edge := decide (72 ≤ d) && decide (d < 96)
  let one (k : Nat) (alt : Bool) : Bool :=
    if k = 15 then alt
    else if k = 4 then !edge && dieStack d == r
    else if 4 < k then false
    else
      match hallPeer (36 + r) k with
      | none => false
      | some p =>
        if 72 ≤ p then p == d
        else
          let e := ent (p - 36)
          let exits := match hallPeer p forbidden with | some x => decide (72 ≤ x) | none => false
          exits || k == forbidden || (e.1 != forbidden && e.2 != forbidden)
  one (ent r).1 false && one (ent r).2 true

/-- Whether the primary route from a router reaches a destination within the mesh's length (R65). -/
def routeEnds (t : List Byte) (d q : Nat) : Nat → Nat → Bool
  | 0, _ => false
  | fuel + 1, r =>
    let k := (t.getD ((r * 100 + d) * 2 + q) 0xFF).toNat % 16
    if k = 4 then true
    else match hallPeer (36 + r) k with
      | none => false
      | some p => if 72 ≤ p then p == d else routeEnds t d q fuel (p - 36)

/-- The checks of the Hallway route table (R30, R65). Every one of the 100 dies is taken as a reachable destination of every
router, and the loop check follows primary ports alone (DESIGN CHOICE, log 61). -/
def routesOk (t : List Byte) : Bool :=
  (List.range 36).all (fun r => (List.range 100).all (fun d => (List.range 2).all (fun q =>
    routeStepOk t r d q && routeEnds t d q 37 r)))

/-- Section 0x09's entries (R68). -/
def readBudgets (img : List Byte) (x : Sec) : List BudgetCfg :=
  (List.range 100).map (fun d =>
    { min := leAt img (x.off + 12 * d) 4, max := leAt img (x.off + 12 * d + 4) 4, weight := leAt img (x.off + 12 * d + 8) 2 })
/-- Section 0x0A's entries (R69). -/
def readClocks (img : List Byte) (x : Sec) : List ClockCfg :=
  (List.range (x.len / 4)).map (fun i =>
    let e := leAt img (x.off + 4 * i) 4
    { kind := bits e 31 28, index := bits e 27 16, mhz := bits e 15 0 })
/-- Section 0x0C's entries (R71). -/
def readWatch (img : List Byte) (x : Sec) : List WatchCfg :=
  (List.range 8).map (fun p =>
    let o := x.off + 8 * p
    { sampleLog2 := leAt img o 1, selfTest := leAt img (o + 1) 1, boundScale := leAt img (o + 2) 1, nanTrap := leAt img (o + 3) 1 == 1 })
/-- Section 0x08 (R67). -/
def readLink (img : List Byte) (x : Sec) : List LinkPortCfg × List LinkPartCfg :=
  ((List.range 2).map (fun i => { enable := leAt img (x.off + 8 * i) 1 == 1, lanes16 := leAt img (x.off + 8 * i + 1) 1 == 16,
                                  rate224 := leAt img (x.off + 8 * i + 2) 1 == 1 }),
   (List.range 8).map (fun p => { port := leAt img (x.off + 16 + 8 * p) 1, slot256 := leAt img (x.off + 16 + 8 * p + 1) 1 == 1,
                                  queues := leAt img (x.off + 16 + 8 * p + 2) 2 }))

/-- The result of a check that passes: the configuration, TRUNCATED, and the image's DELTA_PARTS. -/
structure Loaded where
  flp   : Floorplan
  trunc : Bool
deriving DecidableEq, Repr

/-- The checks that come before the content: magic, version, signature, rollback and section structure, in the order of Table
2-14; for a delta also BASE_DIGEST and the sections a delta may carry (R84, R85). A SECTION_COUNT other than the number of
sections is a fault of the section structure, FLP_ERR_SECTION (DESIGN CHOICE, log 61). -/
def checkShape (c : LoadCtx) (img : List Byte) (recLen : Nat) : Except FlpErr (List Sec) := do
  checkMagic img recLen
  let sig := leAt img 0x18 4
  let minor := leAt img 5 1
  let peek := peekSections img sig (sig / 8) 0x50
  firstFail 3 ([(leAt img 4 1 == 1 && decide (1 ≤ minor) && decide (minor ≤ 3), 0, 4)]
    ++ peek.map (fun x => (secVersionOk img minor x, x.type, x.off - 7)))
  firstFail 4 [(sigOk img c.rsaHash c.slhHash, 0, sig)]
  match c.base with
  | some (_, dig) => firstFail 0x10 [(BitVec.ofNat 384 (leAt img 0x20 48) == dig, 0, 0x20)]
  | none => .ok ()
  firstFail 5 [(decide (c.arbFlp ≤ leAt img 0x10 4), 0, 0x10)]
  match walkSections img sig (img.length + 1) 0x50 with
  | .error x => .error { code := 6, sec := x.1, off := x.2 }
  | .ok ss =>
    let has (t : Nat) : Bool := (secOf ss t).isSome
    firstFail 6 ([(c.base.isSome || leAt img 6 2 == 0, 0, 6), (ss.length == leAt img 0xC 2, 0, 0xC)]
      ++ (ss.zip (ss.drop 1)).map (fun x => (decide (x.1.type < x.2.type), x.2.type, x.2.off - 8))
      ++ [1, 2, 9, 0xB, 0xD].map (fun t => (c.base.isSome || has t, t, 0))
      ++ ss.map (fun x => (match knownLen img x.type x.off x.len with
          | some n => n == x.len || (minor == 3 && decide (n < x.len))
          | none => false, x.type, x.off - 4)))
    .ok ss

/-- The configuration an image gives, over the one in force for a delta, before its content is checked (R55, R84). Windows that
come from the defaults of an absent section 0x05 are made without the fenced memory and set no TRUNCATED (DESIGN CHOICE, log 61). -/
def readConfig (c : LoadCtx) (img : List Byte) (ss : List Sec) : Loaded :=
  let old : Option Floorplan := c.base.map (·.1)
  let fs := if c.base.isSome then [] else c.fences
  let pick {α : Type} (t : Nat) (f : Sec → α) (g : Floorplan → α) (dflt : α) : α :=
    match secOf ss t with
    | some x => f x
    | none => (old.map g).getD dflt
  let parts := pick 2 (readParts img fs) (·.parts) []
  let sets := pick 4 (readSets img fs) (·.sets) (defaultSets fs)
  let fstacks := fencedStacks fs
  let dead := (old.map (·.deadStacks)).getD fstacks
  let spans := if c.base.isSome then [] else setSpans img (secOf ss 4) sets
  let tw := match secOf ss 5 with
    | some x => truncWindows spans fstacks (readWindows img x)
    | none => ((old.map Floorplan.windows).getD (defaultWindows sets parts fstacks), false)
  let sec6 : Option (Option (List Byte) × List (Nat × Nat × Nat)) := (secOf ss 6).map (fun x =>
    let r := leAt img x.off 4
    (if r = 1 then some ((img.drop (x.off + 8)).take 7200) else none,
     (List.range (leAt img (x.off + 4) 4)).map (fun i =>
       let o := x.off + 8 + 7200 * r + 4 * i
       (leAt img o 1, leAt img (o + 1) 1, leAt img (o + 2) 1))))
  let link := pick 8 (readLink img) (fun f => (f.linkPorts, f.linkParts)) (defaultLinkPorts, defaultLinkParts)
  { trunc := tw.2,
    flp := {
      name := pick 1 (fun x => (img.drop x.off).take 32) (·.name) [],
      featuresReq := pick 1 (fun x => BitVec.ofNat 64 (leAt img (x.off + 0x20) 8)) (·.featuresReq) 0,
      revSet := pick 1 (fun x => (List.range 9).map (fun i => (leAt img (x.off + 0x28 + 2 * i) 1, leAt img (x.off + 0x29 + 2 * i) 1))) (·.revSet) [],
      parts := parts,
      quartered := pick 3 (fun x => (List.range 8).filter (fun p => leAt img (x.off + p) 1 == 1)) (·.quartered) [],
      sets := sets,
      windows := tw.1,
      routes := match sec6 with | some x => x.1 | none => old.bind (·.routes),
      bundleFences := match sec6 with | some x => x.2 | none => (old.map (·.bundleFences)).getD [],
      fabric := match secOf ss 7 with | some x => some (readFabric img x) | none => old.bind (·.fabric),
      linkPorts := link.1,
      linkParts := link.2,
      budgets := pick 9 (readBudgets img) (·.budgets) [],
      clocks := pick 0xA (readClocks img) (·.clocks) [],
      severity := pick 0xB (fun x => (List.range 256).map (fun n => BitVec.ofNat 32 (leAt img (x.off + 4 * n) 4))) (·.severity) [],
      watch := pick 0xC (readWatch img) (·.watch) defaultWatch,
      debugUnlock := pick 0xD (fun x => leAt img x.off 1 == 1) (·.debugUnlock) false,
      mgmtWrite0 := pick 0xD (fun x => leAt img (x.off + 1) 1 == 1) (·.mgmtWrite0) false,
      secVersion := if c.base.isSome then (old.map (·.secVersion)).getD 0 else leAt img 0x10 4,
      deadStacks := dead } }

/-- Checks on the value of a section, if the image has it: each with its offset in the value. -/
def onSection (ss : List Sec) (t : Nat) (l : Sec → List (Bool × Nat)) : List (Bool × Nat × Nat) :=
  match secOf ss t with
  | none => []
  | some x => (l x).map (fun y => (y.1, t, x.off + y.2))

/-- Whether each element of a list stands in a relation to no earlier one. -/
def noEarlier {α : Type} (p : α → α → Bool) (l : List α) : List (Bool × Nat) :=
  l.zipIdx.map (fun x => (!(l.take x.2).any (fun a => p a x.1), x.2))

/-- The index of a window among those of section 0x05. -/
def windowIdx (img : List Byte) (x : Sec) (w : Window) : Nat :=
  (readWindows img x).findIdx (fun v => v.part == w.part && v.base == w.base)

/-- The range checks (FLP_ERR_RANGE): every field within its stated range (R53, R56 to R72, R324, R453, R479). A fence entry that
names a die or a port within the codes that does not exist passes and fences nothing (DESIGN CHOICE, log 61). -/
def rangeChecks (c : LoadCtx) (img : List Byte) (all ss : List Sec) (f : Floorplan) : List (Bool × Nat × Nat) :=
  let zero (a n : Nat) : Bool := leAt img a n == 0
  let at_ (x : Sec) (o n : Nat) : Nat := leAt img (x.off + o) n
  let each (x : Sec) (k : Nat) (l : Nat → List (Bool × Nat)) : List (Bool × Nat) :=
    (List.range (x.len / k)).flatMap (fun i => (l (k * i)).map (fun y => (y.1, k * i + y.2)))
  let present (p : Nat) : Bool := f.parts.any (fun e => e.id == p)
  [(zero 0xE 2, 0, 0xE), (zero 0x15 3, 0, 0x15), (zero 0x1C 4, 0, 0x1C), (c.base.isSome || zero 0x14 1, 0, 0x14), (c.base.isSome || zero 0x20 48, 0, 0x20)]
  ++ all.flatMap (fun x => [(zero (x.off - 6) 2, x.type, x.off - 6), (zero (x.off + x.len) ((8 - x.len % 8) % 8), x.type, x.off + x.len)])
  ++ onSection ss 1 (fun x => (List.range 9).map (fun i =>
      let a := at_ x (0x28 + 2 * i) 1
      let b := at_ x (0x29 + 2 * i) 1
      (decide (a % 16 ≤ 9) && decide (b % 16 ≤ 9) && decide (a ≤ b), 0x28 + 2 * i)))
  ++ onSection ss 2 (fun x => each x 120 (fun o => [(decide (at_ x o 1 ≤ 7), 0), (zero (x.off + o + 1) 7, 1)])
    ++ (noEarlier (fun a b => a.id == b.id) f.parts).map (fun y => (y.1, 120 * y.2))
    ++ f.parts.zipIdx.map (fun e => (e.1.cores != 0 || e.1.harts != 0, 120 * e.2 + 8)))
  ++ onSection ss 3 (fun x => (List.range 8).map (fun p => (decide (at_ x p 1 ≤ 1) && (present p || zero (x.off + p) 1), p)))
  ++ onSection ss 4 (fun x => each x 80 (fun o =>
      let tier := at_ x (o + 1) 1
      let per := at_ x (o + 0x10) 8
      let gr := at_ x (o + 2) 1
      [(decide (at_ x o 1 ≤ 31), 0), (decide (tier ≤ 1), 1), (if tier = 1 then gr == 8 else decide (8 ≤ gr) && decide (gr ≤ 12), 2),
       (zero (x.off + o + 3) 5, 3), (at_ x (o + 8) 8 % 2 ^ 30 == 0, 8),
       (per % 2 ^ 21 == 0 && decide (per ≤ (if tier = 1 then 0x60000000 else 2 ^ 33)), 0x10),
       (tier == 1 || decide (at_ x (o + 0x20) 48 < 2 ^ 36), 0x20)])
    ++ (noEarlier (fun a b => a.setId == b.setId) f.sets).map (fun y => (y.1, 80 * y.2)))
  ++ f.sets.zipIdx.flatMap (fun y =>
      let o := ((secOf ss 4).map (·.off + 80 * y.2)).getD 0
      let e := y.1.base + y.1.members.length * y.1.perMember
      [(!y.1.members.isEmpty, 4, o + 0x20),
       (if y.1.annex then decide (0x10000000000 ≤ y.1.base) && decide (e ≤ 0x20000000000)
        else decide (0x04800000000 ≤ y.1.base) && decide (e ≤ 0x10000000000), 4, o + 8)])
  ++ onSection ss 5 (fun x => each x 24 (fun o =>
      [(decide (at_ x o 1 ≤ 7), 0), (decide (at_ x (o + 1) 1 ≤ 7), 1), (decide (at_ x (o + 2) 1 ≤ 1), 2), (zero (x.off + o + 3) 5, 3),
       (at_ x (o + 8) 8 % 2 ^ 21 == 0, 8), (at_ x (o + 0x10) 8 % 2 ^ 21 == 0 && decide (2 ^ 21 ≤ at_ x (o + 0x10) 8), 0x10)])
    ++ (readWindows img x).zipIdx.map (fun w => (decide ((((readWindows img x).take w.2).filter (fun v => v.part == w.1.part)).length < 64), 24 * w.2))
    ++ f.windows.map (fun w => (windowInOne f.sets f.deadStacks w, 24 * windowIdx img x w + 8)))
  ++ onSection ss 6 (fun x => (decide (at_ x 0 4 ≤ 1), 0) :: (List.range (at_ x 4 4)).flatMap (fun i =>
      let o := 8 + 7200 * at_ x 0 4 + 4 * i
      [(decide (at_ x o 1 < 100), o), (decide (at_ x (o + 1) 1 < 8), o + 1), (decide (at_ x (o + 2) 1 < 66), o + 2), (zero (x.off + o + 3) 1, o + 3)]))
  ++ onSection ss 7 (fun x => [(decide (at_ x 0 2 < 12288), 0), (decide (at_ x 2 1 ≤ 1), 2), (zero (x.off + 3) 5, 3)]
    ++ (List.range 64).map (fun k => (decide (at_ x (0x10 + k) 1 ≤ 7), 0x10 + k))
    ++ [(zero (x.off + 0xD4) 4, 0xD4)]
    ++ (List.range (at_ x 0xD0 4)).map (fun d => (at_ x (0xD8 + 4 * d) 4 % 2 ^ 20 == 0, 0xD8 + 4 * d)))
  ++ onSection ss 8 (fun x => (List.range 2).flatMap (fun i =>
      let o := 8 * i
      let off := zero (x.off + o) 1
      [(decide (at_ x o 1 ≤ 1), o), (off || at_ x (o + 1) 1 == 8 || at_ x (o + 1) 1 == 16, o + 1), (off || decide (at_ x (o + 2) 1 ≤ 1), o + 2),
       (zero (x.off + o + 3) 5, o + 3)])
    ++ (List.range 8).flatMap (fun p =>
      let o := 16 + 8 * p
      [(!present p || (decide (at_ x o 1 ≤ 1) && at_ x (8 * at_ x o 1) 1 == 1), o), (!present p || decide (at_ x (o + 1) 1 ≤ 1), o + 1),
       (!present p || (decide (1 ≤ at_ x (o + 2) 2) && decide (at_ x (o + 2) 2 ≤ 4096)), o + 2), (!present p || zero (x.off + o + 4) 4, o + 4)]))
  ++ onSection ss 9 (fun x => (List.range 100).map (fun d => (zero (x.off + 12 * d + 10) 2, 12 * d + 10)))
  ++ onSection ss 0xA (fun _ => f.clocks.zipIdx.map (fun k =>
      (if k.1.kind = 1 then decide (k.1.index < 640) && decide (200 ≤ k.1.mhz) && decide (k.1.mhz ≤ 800) && k.1.mhz % 25 == 0
       else k.1.kind == 2 && decide (k.1.index < 64) && decide (400 ≤ k.1.mhz) && decide (k.1.mhz ≤ 2600) && k.1.mhz % 100 == 0, 4 * k.2))
    ++ (noEarlier (fun a b => a.kind == b.kind && a.index == b.index) f.clocks).map (fun y => (y.1, 4 * y.2)))
  ++ onSection ss 0xB (fun _ => (List.range 256).map (fun k =>
      (sevEntryOk k (f.severity.getD k 0).toNat, 4 * k)))
  ++ onSection ss 0xC (fun x => (List.range 8).flatMap (fun p =>
      let o := 8 * p
      [(!present p || (decide (6 ≤ at_ x o 1) && decide (at_ x o 1 ≤ 16)), o), (!present p || (decide (2 ≤ at_ x (o + 1) 1) && decide (at_ x (o + 1) 1 ≤ 8)), o + 1),
       (!present p || (decide (1 ≤ at_ x (o + 2) 1) && decide (at_ x (o + 2) 1 ≤ 4)), o + 2), (!present p || decide (at_ x (o + 3) 1 ≤ 1), o + 3),
       (!present p || zero (x.off + o + 4) 4, o + 4)]))
  ++ onSection ss 0xD (fun x => [(decide (at_ x 0 1 ≤ 1), 0), (decide (at_ x 1 1 ≤ 1), 1), (zero (x.off + 2) 6, 2)])

/-- The overlap checks (R58, R61, R63). -/
def overlapChecks (img : List Byte) (ss : List Sec) (f : Floorplan) : List (Bool × Nat × Nat) :=
  let o (t : Nat) : Nat := ((secOf ss t).map (·.off)).getD 0
  let set_ (k : Nat) : Nat := if (secOf ss 4).isSome then o 4 + 80 * k else 0
  let claim (t : IntSet) (i : Nat) (most : Nat) : Bool :=
    t.members.all (fun m => decide ((((f.sets.take (i + 1)).filter (fun y => y.annex == t.annex && y.members.contains m)).map (·.perMember)).sum ≤ most))
  (noEarlier (fun a b => a.cores &&& b.cores != 0 || a.harts &&& b.harts != 0) f.parts).map (fun y => (y.1, 2, o 2 + 120 * y.2))
  ++ (noEarlier (fun (a b : IntSet) => rangesMeet a.base (a.members.length * a.perMember) b.base (b.members.length * b.perMember)) f.sets).map
      (fun y => (y.1, 4, set_ y.2))
  ++ f.sets.zipIdx.map (fun t => (claim t.1 t.2 (if t.1.annex then 0x60000000 else 2 ^ 33), 4, set_ t.2 + 0x10))
  ++ (noEarlier (fun (a b : Window) => rangesMeet a.base a.size b.base b.size && !(a.part != b.part && a.shared && b.shared)) f.windows).map
      (fun y => (y.1, 5, match secOf ss 5, f.windows[y.2]? with | some x, some w => x.off + 24 * windowIdx img x w | _, _ => 0))

/-- The features the device asks of a die: the bits R44 defines for its type (R56). A set bit that R44 defines for no type is
ignored (DESIGN CHOICE, log 61). -/
def featuresAsked (d : Nat) (req : DWord) : Word := req.setWidth 32 &&& dieFeatures d

/-- The lowest-numbered die older than the oldest revision declared for its type (R47). -/
def oldDie (revs : List Nat) (f : Floorplan) : Option Nat :=
  (List.range 100).find? (fun d => match f.revSet[dieType d - 1]? with | some r => decide (revs.getD d 0x11 < r.1) | none => false)

/-- Every check on the content, in the order of Table 2-14. -/
def checkContent (c : LoadCtx) (img : List Byte) (all ss : List Sec) (l : Loaded) : Except FlpErr Unit := do
  let o (t : Nat) : Nat := ((secOf ss t).map (·.off)).getD 0
  match (if c.base.isSome then none else oldDie c.revs l.flp) with
  | some d => .error { code := 7, sec := 1, off := o 1 + 0x28 + 2 * (dieType d - 1) }
  | none => .ok ()
  firstFail 8 ([((List.range 100).all (fun d => featuresAsked d l.flp.featuresReq &&& ~~~ effFeatures c.feats d == 0), 1, o 1 + 0x20)]
    ++ onSection ss 3 (fun x => (List.range 8).map (fun p => (leAt img (x.off + p) 1 != 1 || (effFeatures c.feats 0).getLsbD 17, p)))
    ++ onSection ss 0xC (fun _ => [((effFeatures c.feats 0).getLsbD 21, 0)]))
  firstFail 9 (rangeChecks c img all ss l.flp)
  firstFail 0xA (overlapChecks img ss l.flp)
  firstFail 0xB (l.flp.budgets.zipIdx.map (fun b => (decide (b.1.min ≤ b.1.max) && decide (b.1.max ≤ 4000), 9, o 9 + 12 * b.2))
    ++ [(decide ((l.flp.budgets.map (·.min)).sum ≤ 90000), 9, o 9)])
  firstFail 0xC ((match l.flp.routes with | some t => routesOk t | none => true, 6, o 6 + 8)
    :: onSection ss 7 (fun _ => match l.flp.fabric with
      | some t => (tableChecks t.table t.nodeId t.portEnable).map (fun y => (y.1, 0x50 + y.2))
      | none => []))
  firstFail 0xD (pinnedSources.map (fun k => ((l.flp.severity.getD k 0).toNat % 4 == 2, 0xB, o 0xB + 4 * k)))

/-- The partitions a delta's changed entries touch (Table 2-18). -/
def touched (old new : Floorplan) : List Nat :=
  let all := old.parts.map (·.id)
  let named := (List.range 8).filter (all.contains ·)
  let owners (p : PartEntry → Bool) : List Nat := (old.parts.filter p).map (·.id)
  let changed (ws vs : List Window) : List Window := ws.filter (fun w => !vs.contains w)
  let ws := changed old.windows new.windows ++ changed new.windows old.windows
  (named.filter (fun p => old.quartered.contains p != new.quartered.contains p))
  ++ (named.filter (fun p => old.watch[p]? != new.watch[p]?))
  ++ ws.map (·.part)
  ++ (ws.map (fun w => ((old.windows ++ new.windows).filter (fun v => v.shared && rangesMeet v.base v.size w.base w.size)).map (·.part))).flatten
  ++ ((List.range 100).filter (fun d => old.budgets[d]? != new.budgets[d]?)).flatMap (fun d =>
      let ps := owners (fun e => ((List.range 640).any (fun k => e.cores.getLsbD k && k / 20 == d)) || ((List.range 256).any (fun h => e.harts.getLsbD h && 32 + h / 64 == d)))
      if ps.isEmpty then all else ps)
  ++ ((old.clocks.filter (fun k => !new.clocks.contains k)) ++ (new.clocks.filter (fun k => !old.clocks.contains k))).flatMap (fun k =>
      if k.kind = 1 then owners (fun e => e.cores.getLsbD k.index) else owners (fun e => (List.range 4).any (fun i => e.harts.getLsbD (4 * k.index + i))))
  ++ (if old.severity = new.severity then [] else all)

/-- The sections a delta may carry (Table 2-2). -/
def deltaSections : List Nat := [3, 5, 9, 0xA, 0xB, 0xC]

/-- The whole check of an image: the configuration it gives, or the first failure (R80, R85). -/
def checkImage (c : LoadCtx) (img : List Byte) (recLen : Nat) : Except FlpErr Loaded := do
  let all ← checkShape c img recLen
  let ss := (if c.base.isSome then all.filter (fun x => deltaSections.contains x.type) else all).map (Sec.known img)
  let l := readConfig c img ss
  checkContent c img all ss l
  match c.base with
  | none => .ok l
  | some (old, _) =>
    let ts := touched old l.flp
    let named := leAt img 0x14 1
    firstFail 0x11 ((leAt img 6 2 == 1, 0, 6) :: all.map (fun x => (deltaSections.contains x.type || decide (0x80 ≤ x.type), x.type, x.off - 8))
      ++ [(ts.all (fun p => bitAt named p), 0, 0x14)])
    firstFail 0x12 [(ts.all (fun p => c.quiesced.contains p), 0, 0x14)]
    .ok l

end Sys2Proof.Machine
end

