-- ==== Sys2Proof/Machine/Channels.lean ====
section
/-! DEFINITION. The controllers of the Attic's and the Annex's channels: reads and writes with their codes, retries and poison
(R333 to R337), training (R338), HOLD (R339), fences (R340, R341), refresh and row disturbance (R330, R332), and the scrubber. -/

namespace Sys2Proof.Machine

/-- Whether a channel belongs to the Annex. -/
def chanAnnex : Chan → Bool
  | .attic _ _ => false
  | .annex _ => true
/-- A channel's number within its base die. -/
def chanLocal : Chan → Nat
  | .attic _ c => c.val
  | .annex c => c.val % 32
/-- The Attic's source number or, four above, the Annex's (Table 17-2). -/
def chanSrc (c : Chan) (attic : Byte) : Byte := if chanAnnex c then attic + 4 else attic

/-- A fault report of a channel at a line; ADDR is the line's local address. -/
def State.chanFault (s : State) (c : Chan) (attic : Byte) (line access : Nat) : FaultIn :=
  mkFault (dieOf (chanReg c).1) (chanSrc c attic) (chanLocal c) .channel (chanLocal c) (BitVec.ofNat 64 (s.localOf (line * 128))) access

/-- Enters HOLD: the refresh that is due and the one after it complete, and the retrain counts (R339). -/
def State.holdChan (s : State) (c : Chan) : State :=
  if s.chanState c = 2 then
    let k := s.chan c
    ((s.setChan c { k with refreshes := k.refreshes + 2 }).setChanState c 3).satFld (chanReg c).1 (chanReg c).2 23 16
  else s

/-- Notes retries, or an on-die ECC report, and enters HOLD on more than 16 in 1 ms (R339). -/
def State.noteRetries (s : State) (c : Chan) (n : Nat) : State :=
  let k := s.chan c
  let recent := (List.replicate n s.time ++ k.retries).filter (fun t => decide (s.time < t + 1000000))
  let s := s.setChan c { k with retries := recent }
  if 16 < recent.length then s.holdChan c else s

/-- Link retries of a transfer: each advances RETRY and reports the tier's link retry source (R333). -/
def State.linkRetries (s : State) (c : Chan) (line access n : Nat) : State :=
  let s := s.inc (chanReg c).1 ((chanReg c).2 + 0xC) n
  let s := overList s (List.range n) (fun s _ => s.noteFault (s.chanFault c 0x19 line access))
  s.noteRetries c n

/-- Enters a row in the repair list in flash (R335, R526); once the list is full further rows are not entered. -/
def State.enterRepair (s : State) (c : Chan) (line : Nat) : State :=
  let br := bankRow (line * 128)
  let e : RepairEntry := {
    annex := (chanAnnex c), channel := (if chanAnnex c then chanIx c - 576 else chanIx c),
    bank := (if chanAnnex c then br.1 % 16 + br.1 / 48 * 16 else br.1), sid := (if chanAnnex c then br.1 % 48 / 16 else 0), row := br.2 }
  if s.mgmt.repairs.contains e || decide (4096 ≤ s.mgmt.repairs.length) then s
  else s.modMgmt (fun m => { m with repairs := m.repairs ++ [e] })

/-- A report of the on-die ECC of an Annex core die: counted in CORR, and towards a retrain (R334, R339). -/
def State.noteOnDie (s : State) (c : Chan) : State := (s.inc (chanReg c).1 ((chanReg c).2 + 4)).noteRetries c 1

/-- A correctable error: the corrected line is written back, CORR advances and the tier's corrected source is reported; a row with
corrected errors at four lines within 1 s is entered in the repair list (R335). -/
def State.correctLine (s : State) (c : Chan) (line access : Nat) : State :=
  let s := s.inc (chanReg c).1 ((chanReg c).2 + 4)
  let s := s.noteFault (s.chanFault c 0x18 line access)
  let k := s.chan c
  let row := (bankRow (line * 128)).1 * 2 ^ 16 + (bankRow (line * 128)).2
  let cs := ((row, line, s.time) :: k.corrected).filter (fun x => decide (s.time ≤ x.2.2 + 1000000000))
  let s := s.setChan c { k with corrected := cs }
  if 4 ≤ (((cs.filter (fun x => x.1 == row)).map (·.2.1)).dedup).length then s.enterRepair c line else s

/-- An uncorrectable error, or a transfer that failed its last retry: the line is stored as poisoned, UNCORR advances and the tier's
uncorrectable source is reported (R337). -/
def State.poisonLine (s : State) (c : Chan) (line access : Nat) : State :=
  let s := (s.setBad line true).satFld (chanReg c).1 ((chanReg c).2 + 8) 31 0
  s.leafDetect (s.chanFault c 0x1A line access)

/-- What the code of a line that is read says: nothing new of a line that is poisoned already (R335, R337). The Attic's dies have no other code than
the stored one, so that what they correct is a corrected error (R333). -/
def State.lineVerdict (s : State) (c : Chan) (line access : Nat) (ecc : LineEcc) : State :=
  if s.poolBad.contains line then s
  else match ecc with
    | .clean => s
    | .onDie => if chanAnnex c then s.noteOnDie c else s.correctLine c line access
    | .corrected => s.correctLine c line access
    | .uncorrectable => s.poisonLine c line access

/-- What a read's transfer brings: its retries and the code's verdict (R333 to R337). -/
def State.chanVerdict (s : State) (c : Chan) (line access : Nat) (ecc : LineEcc) (retries : Nat) : State :=
  let s := s.linkRetries c line access (min retries 4)
  if s.poolBad.contains line then s
  else if 4 < retries then (s.poisonLine c line access).holdChan c
  else s.lineVerdict c line access ecc
/-- The controller's read of a line. -/
def State.chanRead (s : State) (c : Chan) (line access : Nat) (ecc : LineEcc) (retries : Nat) : State :=
  (s.countLine line).chanVerdict c line access ecc retries

/-- The controller's write of a line with the retries of its transfer. A masked write first reads the line, with that read's verdict (R333, R334,
R337). -/
def State.chanWrite (s : State) (c : Chan) (line : Nat) (mask : BitVec 128) (data : List Byte) (poison : Bool) (ecc : LineEcc) (retries : Nat) : State :=
  let s := s.linkRetries c line 2 (min retries 4)
  if 4 < retries then ((s.countLine line).poisonLine c line 2).holdChan c
  else (if mask = fullMask then s else s.lineVerdict c line 2 ecc).memStore line mask data poison

/-- Serves a request that waited in HOLD (R339, R341); the home's own read lets its transaction go on. -/
def State.serveReq (s : State) (c : Chan) (r : ChanReq) (ecc : LineEcc) (retries : Nat) : State :=
  if r.write then s.chanWrite c r.line r.mask r.data r.poison ecc retries
  else if r.agent = homeAgent r.line then (s.chanVerdict c r.line 1 ecc retries).memServed r.line
  else
    let s := s.chanRead c r.line 1 ecc retries
    s.sendMem r.agent r.line (s.memLine r.line) (s.memBad r.line) false

/-- A request to a channel in HOLD: it waits, or, with 512 waiting, is returned with "retry" (R339). -/
def State.holdReq (s : State) (c : Chan) (r : ChanReq) : State :=
  let k := s.chan c
  if r.agent = homeAgent r.line then s.holdHome r.line r.write r.mask r.data r.poison
  else if k.hold.length < 512 then s.setChan c { k with hold := k.hold ++ [r] }
  else s.sendMem r.agent r.line [] false true

/-- A request at a channel by the channel's state: served when ACTIVE, held in HOLD and while a die reset retrains the channel, answered as R341 states when FENCED, and "not
ready" before the channel is in service (R90). -/
def State.chanReq (s : State) (c : Chan) (r : ChanReq) (serve : State → State) : State :=
  if chanOf (r.line * 128) ≠ some c then s
  else match s.chanState c with
    | 2 => serve s
    | 3 => s.holdReq c r
    | 5 => if s.dieReset.get 0 (chanReg c).1 = 0 then s.send (.contained r.agent 0x103) else s.holdReq c r
    | 4 => s.answerFenced c r
    | _ => s.send (.contained r.agent 0x103)

/-- CHANNEL_READ (R335, R337). -/
def execChannelRead (c : Chan) (line agent : Nat) (ecc : LineEcc) (retries : Nat) (s : State) : Outcome :=
  gate s (fun s =>
    s.chanReq c { agent := agent, write := false, line := line, mask := 0, data := [] } (fun s =>
      let s := s.chanRead c line 1 ecc retries
      s.sendMem agent line (s.memLine line) (s.memBad line) false))

/-- CHANNEL_WRITE (R333, R334, R337). -/
def execChannelWrite (c : Chan) (line agent : Nat) (mask : BitVec 128) (data : List Byte) (poison : Bool)
    (link : Transfer) (s : State) : Outcome :=
  gate s (fun s =>
    s.chanReq c { agent := agent, write := true, line := line, mask := mask, data := data, poison := poison } (fun s =>
      s.chanWrite c line mask data poison link.ecc link.retries))

/-- The home sends its oldest returned request of a line again; it keeps it while the hold queue is still full (R339). -/
def State.resendHome (s : State) (c : Chan) (l : Nat) (link : Transfer) : State :=
  let k := s.chan c
  match k.back.find? (fun x => x.line == l) with
  | none => s
  | some x =>
    if 512 ≤ k.hold.length ∧ s.chanState c ≠ 2 ∧ s.chanState c ≠ 4 then s
    else if s.chanState c = 3 ∨ s.chanState c = 5 then
      s.setChan c { k with hold := k.hold ++ [x], back := k.back.eraseP (fun x => x.line == l) }
    else (s.setChan c { k with back := k.back.eraseP (fun x => x.line == l) }).chanReq c x (fun s => s.serveReq c x link.ecc link.retries)

/-- HOLD_RETRY_RESEND (R339): a request that was returned with "retry" is sent again; one of the home's is the one it keeps. -/
def execHoldRetryResend (c : Chan) (r : Resend) (s : State) : Outcome :=
  gate s (fun s =>
    if r.req.agent = homeAgent r.req.line then s.resendHome c r.req.line r.link
    else s.chanReq c r.req (fun s => s.serveReq c r.req r.link.ecc r.link.retries))

/-- A channel after a refresh: of every bank of an Attic channel, of the next bank of an Annex channel, whose refresh is per bank (Table 11-5; the
banks take their turns in ascending order, log 60). The banks' open rows close and their activation counts start again (R332). -/
def Channel.refresh (k : Channel) (annex : Bool) : Channel :=
  if annex then
    let b := k.nextBank
    { k with
      refreshes := k.refreshes + 1, nextBank := (b + 1) % 96, openRow := k.openRow.del b,
      activated := k.activated.drop (fun x => x / 2 ^ 16 == b), disturbed := k.disturbed.filter (fun x => x / 2 ^ 16 != b) }
  else { k with refreshes := k.refreshes + 1, activated := ⟨[]⟩, openRow := ⟨[]⟩, disturbed := [] }

/-- REFRESH_DUE (R330, R332): a refresh of a channel that is in service; its banks' activation counts start again. -/
def execRefreshDue (c : Chan) (s : State) : Outcome :=
  gate s (fun s =>
    if s.chanState c = 2 ∨ s.chanState c = 3 then s.setChan c ((s.chan c).refresh (chanAnnex c)) else s)

/-- The line a channel's scrubber visits at step `n` of a pass: ascending stack offset in the Attic, ascending channel offset in
the Annex (R336). -/
def scrubLine (c : Chan) (n : Nat) : Nat :=
  match c with
  | .attic k ch => k.val * 2 ^ 26 + n * 16 + Nat.xor ch.val (bits n 7 4)
  | .annex ch => 2 ^ 33 + ch.val * 2 ^ 24 + n

/-- The lines of a channel. -/
def scrubLines (c : Chan) : Nat := if chanAnnex c then 12582912 else 4194304

/-- CHANNEL_SCRUB_TICK (R336): the patrol scrubber reads its next line. -/
def execChannelScrubTick (c : Chan) (link : Transfer) (s : State) : Outcome :=
  gate s (fun s =>
    if s.chanState c = 2 then
      let n := (s.chan c).scrub
      let s := s.chanRead c (scrubLine c n) 6 link.ecc link.retries
      s.setChan c { s.chan c with scrub := (n + 1) % scrubLines c }
    else s)

/-- DRIFT_TRACKING_WINDOW (R338): an ACTIVE channel adjusts its sampling points; no state the spec names changes. -/
def execDriftTrackingWindow (_c : Chan) (s : State) : Outcome := .next s

/-- Whether training or a retrain succeeds: clocks locked and no more failed connections than spares or lane repair cover (R338). -/
def trains (c : Chan) (failed : Nat) (clockFailed : Bool) : Bool :=
  !clockFailed && decide (failed ≤ (if chanAnnex c then Config.annexLaneRepair else 12))

/-- A channel that fails training or a retrain is fenced and reported (R340). -/
def State.failChan (s : State) (c : Chan) : State := s.leafDetect (s.chanFault c 0x1B 0 7)

/-- The channels of the stack a channel belongs to. -/
def stackChans (c : Chan) : List Chan :=
  match c with
  | .attic k _ => atticChans k
  | .annex ch => annexChans ⟨ch.val / 32, by omega⟩

/-- The bank group of a bank and stack ID: the low bits of the bank, with what else tells groups of one channel apart (R320, R323). -/
def bankGroup (annex : Bool) (bank sid : Nat) : Nat := if annex then sid * 8 + bank / 16 * 4 + bank % 4 else bank % 8

/-- The rows of the repair list that training soft-repairs in a channel: the first entry of each bank group (R338); a row is named by its bank, as
`bankRow` numbers banks, and its number. -/
def softRepairs (c : Chan) (l : List RepairEntry) : List (Nat × Nat) :=
  let annex := chanAnnex c
  let mine := l.filter (fun e => e.annex == annex && e.channel == (if annex then chanIx c - 576 else chanIx c))
  let first := mine.foldl (fun (acc : List RepairEntry) e =>
    if acc.any (fun x => bankGroup annex x.bank x.sid == bankGroup annex e.bank e.sid) then acc else acc ++ [e]) []
  first.map (fun e => (if annex then e.bank % 16 + 16 * e.sid + 48 * (e.bank / 16) else e.bank, e.row))

/-- Whether a channel may train: in a die reset; else the Annex and the Attics of the CPU stacks from SL1 on, and those of the accelerator stacks
from SL3 on, in batches of eight stacks in ascending order, each once the batches before it have trained (R94). -/
def State.trainDue (s : State) (c : Chan) : Bool :=
  s.dieReset.get 0 (chanReg c).1 != 0 ||
    (match c with
    | .annex _ => decide (1 ≤ s.level)
    | .attic k _ =>
      if 32 ≤ k.val then decide (1 ≤ s.level)
      else decide (3 ≤ s.level) && (List.finRange 36).all (fun j => decide (k.val / 8 * 8 ≤ j.val) || s.dieReset.get 0 (36 + j.val) != 0
        || (atticChans j).all (fun x => decide (2 ≤ s.chanState x) && decide (s.chanState x ≤ 4))))

/-- CHANNEL_TRAIN (R94, R338): a channel that is down or in self-refresh, once a configuration is in force and its turn has come; an Annex stack
of another organisation is fenced (R322). A die reset retrains the Annex at the SL4 rate (Table 3-7), and the requests held meanwhile are then
served, each with the verdict of its own transfer (R339). -/
def execChannelTrain (c : Chan) (training : Training) (clockFailed orgWrong : Bool) (s : State) : Outcome :=
  gate s (fun s =>
    let st := s.chanState c
    if s.flp.isNone ∨ ¬ (st = 0 ∨ st = 1 ∨ st = 5) ∨ !s.trainDue c then s
    else if orgWrong && chanAnnex c then overList s (stackChans c) (fun s c => if s.chanState c = 4 then s else s.failChan c)
    else if trains c training.failed clockFailed then
      let held := (s.chan c).hold
      let s := s.setChan c { s.chan c with scrub := 0, hold := [], retries := [], repaired := softRepairs c s.mgmt.repairs }
      let s := if chanAnnex c ∧ s.dieReset.get 0 (chanReg c).1 ≠ 0 then s.setFld (chanReg c).1 (chanReg c).2 0 0 1 else s
      let s := ((s.setFld (chanReg c).1 (chanReg c).2 15 8 training.failed).setChanState c 2).noteServed .channel (chanIx c)
      overList s held.zipIdx (fun s r =>
        let v := training.verdicts.getD r.2 ⟨.clean, 0⟩
        if s.chanState c = 2 then s.serveReq c r.1 v.ecc v.retries else s.holdReq c r.1)
    else s.failChan c)

/-- CHANNEL_RETRAIN_DONE (R339, R340): on success the held requests are served in arrival order, each with the verdict of its own transfer; on
failure the channel is fenced and they are answered as R341 states. -/
def execChannelRetrainDone (c : Chan) (training : Training) (clockFailed : Bool) (s : State) : Outcome :=
  gate s (fun s =>
    if s.chanState c = 3 then
      if trains c training.failed clockFailed then
        let k := s.chan c
        let s := s.setChan c { k with hold := [], retries := [], rateMove := false }
        let s := (s.setFld (chanReg c).1 (chanReg c).2 15 8 training.failed).setChanState c 2
        overList s k.hold.zipIdx (fun s r =>
          let v := training.verdicts.getD r.2 ⟨.clean, 0⟩
          if s.chanState c = 2 then s.serveReq c r.1 v.ecc v.retries else s.holdReq c r.1)
      else s.failChan c
    else s)

end Sys2Proof.Machine
end

