-- ==== Sys2Proof/Machine/Coherence.lean ====
section
/-! DEFINITION. The commands of coherence: requests, snoops, answers and notices as they arrive (R356 to R364), the host-line directory
(R420), base-die caches (R346, R347), the dirty-residency limit (R350), and failed agents (R369). -/

namespace Sys2Proof.Machine

/-- The number by which the host-line directory of a port lists a line. -/
def hostKey (p l : Nat) : Nat := 2 * l + p
/-- The AUX of an Atom to companion memory: the operation in the order of Table 12-6, the width, and the byte's offset in its 64 bytes (Table 15-5). -/
def atomAux (op : AtomOp) (width off : Nat) : Nat :=
  ([AtomOp.swap, .add, .and, .or, .xor, .minS, .maxS, .minU, .maxU, .fadd, .cas].findIdx (· == op)) + width % 4 * 16 + off % 64 * 64

/-- The agents of the package that a port's host-line directory lists for a line. -/
def State.hostHolders (s : State) (p l : Nat) : List Nat := s.hostDir.get [] (hostKey p l)
/-- Lists the holders of a line. -/
def State.hostNote (s : State) (p l : Nat) (as : List Nat) : State := { s with hostDir := s.hostDir.set [] (hostKey p l) as }

/-- The L2 among the holders that has a companion line in M, O or E, with its state. -/
def State.hostOwner (s : State) (p l : Nat) : Option (Nat × Moesi) :=
  (s.hostHolders p l).findSome? (fun a =>
    if 36 ≤ a then
      match s.l2Line (a - 36) l with
      | some x => if x.st == .M || x.st == .E || x.st == .O then some (a, x.st) else none
      | none => none
    else none)

/-- A host-line directory evicts a line when the set of a new line is full: its holders give it up. It prefers lines held by base-die caches only,
then those without an owner, and takes none it has a request or snoop in hand for (R364, R420; log 17). -/
def State.hostWay (s : State) (p l : Nat) : State :=
  let same := (s.hostDir.cells.filter (fun c => c.1 % 2 == p && c.1 / 2 % 65536 == l % 65536)).map (fun c => c.1 / 2)
  let idle := same.filter (fun v => !s.hostTxns.any (fun t => t.port == p && t.msg.line == v))
  let base := idle.filter (fun v => (s.hostHolders p v).all (fun a => decide (a < 36)))
  let shared := idle.filter (fun v => (s.hostOwner p v).isNone)
  let vs := if !base.isEmpty then base else if !shared.isEmpty then shared else idle
  if (s.hostHolders p l).isEmpty && decide (16 ≤ same.length) && !vs.isEmpty then
    let v := vs.getD (Config.freeNat s.fresh % vs.length) 0
    let s := overList s.bump (s.hostHolders p v) (fun s a =>
      if a < 36 then s.setBase a { s.baseCache a with lines := (s.baseCache a).lines.del v } else s.l2Evict (a - 36) v)
    s.hostNote p v []
  else s

/-- A port's directory snoops holders for a request or a snoop that it has in hand. -/
def State.hostAsk (s : State) (t : HostTxn) (snoops : List (Nat × Nat)) (final : Bool) : State :=
  let s := { s with hostTxns := s.hostTxns ++ [{ t with wait := snoops.map (·.2) }] }
  overList s snoops (fun s x => s.cohOut (92 + t.port) x.1 x.2 { t.msg with final := final })

/-- A device agent's request for a companion line at the host-line directory of its partition's port: served by a holder where that leaves what the
device holds unchanged, else forwarded to the companion once the copies that it ends are gone (R420); without a port that carries traffic it ends in
"host unreachable" (R442). A dirty line that a masked write or an atomic finds goes back by WB first. -/
def State.hostRequest (s : State) (k : ReqKind) (m : CohMsg) : State :=
  let l := m.line
  let m := match k with | .atom op width off _ _ => { m with aux := atomAux op width off } | _ => m
  let p := s.hostPort m
  let holders := (s.hostHolders p l).filter (fun a => !(k.caching && a == m.agent) && s.agentLive a)
  let owner := (s.hostOwner p l).filter (fun o => holders.contains o.1)
  let t : HostTxn := { port := p, kind := k, msg := m, wait := [], snoop := none, onward := false, inside := false, reply := none }
  let invs (as : List Nat) : List (Nat × Nat) := as.map (fun a => (0xE, a))
  let fwd (s : State) : State := s.sendHost p k.code m
  let serve (s : State) (code : Nat) : State :=
    match (owner.map (·.1)).orElse (fun _ => s.nearest holders (reqStack k m)) with
    | some a => s.hostAsk { t with inside := true } [(code, a)] true
    | none => fwd s
  if !(s.jxlState p == 2 || s.jxlState p == 3) then s.send (.contained m.agent 0x117)
  else
    match k with
    | .rdS => serve ((s.hostWay p l).hostNote p l (m.agent :: holders)) 0xB
    | .rdNA => serve s 0xD
    | .rdX | .upg =>
      (match owner with
      | some (o, .O) =>
        (((s.hostNote p l [m.agent]).hostAsk t ((0xC, o) :: invs (holders.filter (· != o))) false)).sendHost p 3 m
      | some (o, _) => (s.hostNote p l [m.agent]).hostAsk { t with inside := true } [(0xC, o)] true
      | none =>
        let s := (s.hostWay p l).hostNote p l [m.agent]
        if holders.isEmpty then fwd s else s.hostAsk { t with onward := true } (invs holders) false)
    | .wrF =>
      let s := s.hostNote p l []
      if holders.isEmpty then fwd s else s.hostAsk { t with onward := true } (invs holders) false
    | .wrP | .atom _ _ _ _ _ =>
      let s := s.hostNote p l []
      if holders.isEmpty then fwd s
      else
        (match owner with
        | some (o, _) => s.hostAsk { t with onward := true } ((0xF, o) :: invs (holders.filter (· != o))) false
        | none => s.hostAsk { t with onward := true } (invs holders) false)
    | .evC => let s := s.hostNote p l holders; if holders.isEmpty then fwd s else s
    | .wb => (s.hostNote p l holders).sendHost p (if holders.isEmpty then 9 else 10) m
    | .clean => fwd s
    | _ => s

/-- A snoop of the companion at a port's host-line directory: the holders it lists are snooped, an owner or the nearest one for data, and lose the line
where the snoop takes it; without a holder the directory answers itself (R420). -/
def State.hostSnoop (s : State) (code : Nat) (m : CohMsg) : State :=
  let l := m.line
  let p := s.hostPort m
  let holders := (s.hostHolders p l).filter s.agentLive
  let owner := ((s.hostOwner p l).map (·.1)).filter (fun o => holders.contains o)
  let source := owner.orElse (fun _ => s.nearest holders (dieStack (92 + p)))
  let t : HostTxn := { port := p, kind := .recall, msg := m, wait := [], snoop := some code, onward := false, inside := false, reply := none }
  let rest (o : Nat) : List (Nat × Nat) := (holders.filter (· != o)).map (fun a => (0xE, a))
  match source with
  | none => s.sendHost p (if code = 0xE then 0x15 else if code = 0xF then 0x11 else 0x14) { m with noData := true, sender := 100 }
  | some o =>
    if code = 0xB ∨ code = 0xD then s.hostAsk t [(code, o)] m.final
    else
      (s.hostNote p l []).hostAsk t (((if code = 0xF ∧ owner.isNone then 0xE else code), o) :: rest o) m.final

/-- A holder's answer reaches the directory that snooped it: with the last one the companion has its answer, or the request goes on to the companion,
after the dirty data that it found; a holder without the line leaves its request to the companion (R363, R420). -/
def State.hostAnswered (s : State) (code : Nat) (m : CohMsg) : State :=
  match s.hostTxns.find? (fun t => t.msg.line == m.line && t.wait.contains m.sender) with
  | none => s
  | some t =>
    let t' := { t with wait := t.wait.erase m.sender, reply := if code = 0x15 ∨ m.noData then t.reply else some m }
    let put (s : State) (x : List HostTxn) : State := { s with hostTxns := s.hostTxns.flatMap (fun y => if y = t then x else [y]) }
    let s := if m.noData then s.hostNote t.port m.line ((s.hostHolders t.port m.line).filter (· != m.sender)) else s
    if !t'.wait.isEmpty then put s [t']
    else match t.snoop with
      | some c =>
        (put s []).sendHost t.port (if c = 0xE then 0x15 else if c = 0xF then 0x11 else 0x14)
          { t'.reply.getD { t.msg with noData := true } with sender := 100 }
      | none =>
        if t.onward then
          let s := put s []
          let s := match t'.reply with | some d => s.sendHost t.port 9 { d with agent := 100, master := false } | none => s
          s.sendHost t.port t.kind.code t.msg
        else if t.inside && t'.reply.isNone then (put s []).sendHost t.port t.kind.code t.msg
        else if t.inside then put s [t'] else put s []

/-- A requester's acknowledgement for a companion line: of a grant that a holder served it ends at the directory, else it goes to the companion
(R359, R420). -/
def State.hostAck (s : State) (m : CohMsg) : State :=
  match s.hostTxns.find? (fun t => t.inside && t.msg.line == m.line && t.msg.txn == m.txn && reqName t.msg == reqName m) with
  | some t => { s with hostTxns := s.hostTxns.filter (· != t) }
  | none => s.sendHost (s.hostPort m) 0x13 m

/-- The outstanding requests of a caching agent of the package. -/
def State.wantsOf (s : State) (a : Nat) : List Want :=
  if 36 ≤ a ∧ a < 100 then (s.l2 (a - 36)).wants else if a < 36 then (s.baseCache a).wants.filter (fun w => w.kind == .rdS) else []

/-- Whether a caching agent's request would be its second one to a line, or use the transaction number of another: a requester sends no such
request (R356). -/
def State.secondWant (s : State) (m : CohMsg) : Bool :=
  (s.wantsOf m.agent).any (fun w => (w.msg.line == m.line) != (w.msg.txn == m.txn))

/-- A transaction number that is not among those in use: the one proposed, where it is free (R356). -/
def freshTxn (used : List (BitVec 10)) (t : BitVec 10) : BitVec 10 :=
  let free (t : BitVec 10) : Bool := !used.contains t
  if free t then t else (((List.range 1024).map (BitVec.ofNat 10)).find? free).getD t

/-- Notes a caching agent's own request as outstanding at the agent. -/
def State.noteWant (s : State) (k : ReqKind) (m : CohMsg) : State :=
  let w : Want := { kind := k, msg := m, data := none, cmp := false, refused := false }
  let same (x : Want) : Bool := x.msg.line == m.line && x.msg.txn == m.txn
  if 36 ≤ m.agent ∧ m.agent < 100 then
    let c := s.l2 (m.agent - 36)
    if c.wants.any same then s else s.setL2 (m.agent - 36) { c with wants := c.wants ++ [w] }
  else if m.agent < 36 then
    let c := s.baseCache m.agent
    if c.wants.any same then s else s.setBase m.agent { c with wants := c.wants ++ [w] }
  else s

/-- A request reaches the home of its line. -/
def State.request (s : State) (k : ReqKind) (m : CohMsg) : State :=
  if isHost m.line then s.hostRequest k m
  else s.homeRequest k m

/-- A request or notice of the companion: a function that is not its port's is refused with UR, a line outside the partition's windows with WINDOW,
memory not in service with UNREACH, and all but an atomic to a device-bias page with BIAS (R418, R423). While the line has an open transaction the
bias is looked at when the request's turn comes (R425), and a notice that the line's flip has overtaken is not refused (R362). -/
def State.compRequest (s : State) (k : ReqKind) (m : CohMsg) : State :=
  let fn := m.sender / 2 % 8
  let write : Bool := match k with | .rdS | .rdNA | .evC => false | _ => true
  let both : Bool := match k with | .rdX | .atom _ _ _ _ _ => true | _ => false
  let note : Bool := match k with | .evC | .wb | .clean => true | _ => false
  let atom : Bool := match k with | .atom _ _ _ _ _ => true | _ => false
  let h := s.line m.line
  let late := h.txn.isSome || (note && k != .evC && older m.gseq h.gseq)
  if isHost m.line || (s.partEntry fn).isNone || s.partPort fn != m.sender % 2 then s.refuseComp m 1
  else if (s.windowOf fn (s.localOf (m.line * 128)) write both).isNone then s.refuseComp m 2
  else if !(s.inService (m.line * 128) && s.setReady (s.localOf (m.line * 128))) then s.refuseComp m 5
  else if !atom && !late && !s.sharedBias m.line then s.refuseComp m 3
  else if note then s.homeNotice k m
  else s.homeRequest k m

/-- A request's message as its requester sends it: a caching agent names itself by its own ID, every other agent by its master agent ID (R352,
R356). -/
def reqMsg (k : ReqKind) (m : CohMsg) : CohMsg := { m with master := !k.caching }

/-- A request of a caching agent reaches its home; a second one of the agent to the line is none (R356). -/
def State.ownRequest (s : State) (k : ReqKind) (m : CohMsg) : State :=
  if s.secondWant m then s else (s.noteWant k m).request k m

/-- Takes a request; in the safe state the companion's is answered with UNREACH (R494). -/
def cohGate (k : ReqKind) (m : CohMsg) (s : State) (f : State → State) : Outcome :=
  if s.phase = .running then .next (if fromComp k m then s.compRequest k (reqMsg k m) else f s)
  else if s.phase = .safe ∧ fromComp k m then .next (s.refuseComp m 5)
  else .next s

/-- RDS (R358). -/
def execRds (m : CohMsg) (s : State) : Outcome := cohGate .rdS m s (fun s => s.ownRequest .rdS (reqMsg .rdS m))
/-- RDX (R358). -/
def execRdx (m : CohMsg) (s : State) : Outcome := cohGate .rdX m s (fun s => s.ownRequest .rdX (reqMsg .rdX m))
/-- UPG (R358). -/
def execUpg (m : CohMsg) (s : State) : Outcome := cohGate .upg m s (fun s => s.ownRequest .upg (reqMsg .upg m))
/-- RDNA (R358). -/
def execRdna (m : CohMsg) (s : State) : Outcome := cohGate .rdNA m s (fun s => s.request .rdNA (reqMsg .rdNA m))
/-- WRF (R358). -/
def execWrf (m : CohMsg) (s : State) : Outcome := cohGate .wrF m s (fun s => s.request .wrF (reqMsg .wrF m))

/-- WRP (R347, R358): the base-die cache of the writer's stack waits for the completion, to merge the bytes where it holds the line by then. -/
def execWrp (m : CohMsg) (s : State) : Outcome :=
  cohGate .wrP m s (fun s =>
    let m := reqMsg .wrP m
    let k := dieStack (m.agent / 512)
    let b := s.baseCache k
    let s := if m.agent < 51200 ∧ !s.fencedU.contains (.cacheAgent, k) then
        s.setBase k { b with wants := b.wants ++ [{ kind := .wrP, msg := m, data := none, cmp := false, refused := false }] } else s
    s.request .wrP m)

/-- ATOM (R366, R367). -/
def execAtom (m : CohMsg) (op : AtomOp) (width off : Nat) (operand compare : BitVec 128) (s : State) : Outcome :=
  let k : ReqKind := .atom op width off operand compare
  cohGate k m s (fun s => s.request k (reqMsg k m))

/-- A notice of an L2 reaches the home of its line. -/
def State.notice (s : State) (k : ReqKind) (m : CohMsg) : State :=
  if isHost m.line then
    let s := s.hostRequest k m
    if k = .evC then s else s.wbAck m
  else s.homeNotice k m

/-- EVC (R358). -/
def execEvc (m : CohMsg) (s : State) : Outcome := cohGate .evC m s (fun s => s.notice .evC m)
/-- WB (R358, R362). -/
def execWb (m : CohMsg) (s : State) : Outcome := cohGate .wb m s (fun s => s.notice .wb m)
/-- CLEAN (R358, R362). -/
def execClean (m : CohMsg) (s : State) : Outcome := cohGate .clean m s (fun s => s.notice .clean m)

/-- Sends a snooped agent's answer to the home. -/
def State.snoopAnswer (s : State) (code a : Nat) (m : CohMsg) : State :=
  if isHost m.line then
    let p := ((s.hostTxns.find? (fun t => t.msg.line == m.line && t.wait.contains a)).map (·.port)).getD (s.hostPort m)
    s.cohOut (agentDie a false) code (if p = 1 then 93 else 92) { m with sender := a }
  else s.cohOut (agentDie a false) code (homeDieOf m.line) { m with sender := a }

/-- Sends the data a snoop asks for to the requester: a caching agent, but for SnpFwdNA a master agent (R356). -/
def State.snoopData (s : State) (code a : Nat) (m : CohMsg) : State :=
  if (if code = 0xD then 51200 ≤ m.agent else m.agent = 100) then s.sendCoh 0x10 100 m else s.cohOut (agentDie a false) 0x10 m.agent m

/-- A base-die cache takes a snoop: it supplies a line it holds, or answers NODATA; SnpFwdX, SnpInv and SnpRecall remove its copy. -/
def State.baseSnoop (s : State) (code k : Nat) (m : CohMsg) : State :=
  let b := s.baseCache k
  let d := (b.lines.cells.find? (fun x => x.1 == m.line)).map (·.2)
  let gone := s.setBase k { b with lines := b.lines.del m.line }
  let give (s : State) (grant : Moesi) : State :=
    match d with
    | some d => (s.snoopData code k { m with data := d, grant := grant, poison := false }).snoopAnswer 0x14 k { m with grant := .S }
    | none => s.snoopAnswer 0x14 k { m with noData := true }
  match code with
  | 0xB => give s .S
  | 0xC => give gone .M
  | 0xD => give s .I
  | 0xF => gone.snoopAnswer 0x11 k { m with data := d.getD [], noData := d.isNone }
  | _ => gone.snoopAnswer 0x15 k m

/-- An L2 takes a snoop: from the line, or from its write-back buffer. Where the line is taken with a write-back or cleaning outstanding it sets
SUPERSEDED (R362). A line that leaves, or loses its write permission, is invalidated in the L1s of the cluster, and one that leaves ends the
reservations on it (R345, R397). -/
def State.l2Snoop (s : State) (code n : Nat) (m : CohMsg) : State :=
  let k := s.l2 n
  let a := 36 + n
  let x := s.l2Line n m.line
  let b := (k.buffer.reverse.find? (fun b => b.2.line == m.line)).map (·.2)
  let gone := ((s.setL2 n { k with lines := k.lines.del m.line }).dropResv n m.line).dropL1 n m.line
  let sup := k.buffer.any (fun b => b.2.line == m.line && b.1 != .evC)
  let src : Option (List Byte × Bool) := match x with | some x => some (x.data, x.poison) | none => b.map (fun b => (b.data, b.poison))
  let st' : Moesi := match x with | some x => (match x.st with | .M => .O | .E => .S | st => st) | none => .O
  let give (s : State) (grant : Moesi) (superseded : Bool) (after : Moesi) : State :=
    match src with
    | some d => (s.snoopData code a { m with data := d.1, poison := d.2, grant := grant }).snoopAnswer 0x14 a { m with grant := after, superseded := superseded }
    | none => s.snoopAnswer 0x14 a { m with noData := true }
  match code with
  | 0xB =>
    let s := match x with
      | some x =>
        let s := if st' == x.st then s else s.dropL1 n m.line
        s.setL2 n { k with lines := k.lines.set { st := .I, data := [], age := 0, poison := false, gseq := 0 } m.line { x with st := st' } }
      | none => s
    give s .S false st'
  | 0xC => give gone .M sup .I
  | 0xD => give s .I false .I
  | 0xF => gone.snoopAnswer 0x11 a { m with
      data := (src.map (·.1)).getD [], poison := (src.map (·.2)).getD false, noData := src.isNone, superseded := sup }
  | _ => gone.snoopAnswer 0x15 a m

/-- A snoop reaches an agent; one of a companion line for agent 100 is the companion's, at the directory (R420). An L2 delays its answer to a snoop that would take a line reserved by an LR of the last 128 cycles (R397). -/
def State.snoopAgent (s : State) (code : Nat) (m : CohMsg) (a : Nat) : State :=
  if !s.agentLive a then s
  else if a = 100 then (if isHost m.line then s.hostSnoop code m else s)
  else if a < 36 then s.baseSnoop code a m
  else if a < 100 then
    let n := a - 36
    let held := (List.range 4).any (fun i => let h := s.hart (4 * n + i); h.delay && h.resv == some m.line)
    if held && (code == 0xC || code == 0xE || code == 0xF) then s.setL2 n { s.l2 n with delayed := (s.l2 n).delayed ++ [(code, m)] }
    else s.l2Snoop code n m
  else s

/-- SNP_FWD_S (R358, R362). -/
def execSnpFwdS (m : CohMsg) (a : Nat) (s : State) : Outcome := gate s (fun s => s.snoopAgent 0xB m a)
/-- SNP_FWD_X (R358, R362). -/
def execSnpFwdX (m : CohMsg) (a : Nat) (s : State) : Outcome := gate s (fun s => s.snoopAgent 0xC m a)
/-- SNP_FWD_NA (R358, R362). -/
def execSnpFwdNa (m : CohMsg) (a : Nat) (s : State) : Outcome := gate s (fun s => s.snoopAgent 0xD m a)
/-- SNP_RECALL (R357, R362). -/
def execSnpRecall (m : CohMsg) (a : Nat) (s : State) : Outcome := gate s (fun s => s.snoopAgent 0xF m a)
/-- SNP_INV (R345, R357). -/
def execSnpInv (m : CohMsg) (a : Nat) (s : State) : Outcome := gate s (fun s => s.snoopAgent 0xE m a)

/-- Sends CmpAck to the home (R359). -/
def State.ackHome (s : State) (m : CohMsg) : State :=
  if isHost m.line then s.hostAck m else s.cohOut (agentDie m.agent m.master) 0x13 (homeDieOf m.line) m

/-- An L2's request completes when its data has arrived with FINAL or with Cmp, an upgrade with Cmp alone; the line is installed with the
granted state and CmpAck is sent (R358, R359). -/
def State.l2Complete (s : State) (n : Nat) (w : Want) : State :=
  let l := w.msg.line
  let done (s : State) : State :=
    (s.setL2 n { s.l2 n with wants := (s.l2 n).wants.filter (fun x => !(x.msg.line == l && x.msg.txn == w.msg.txn)) }).ackHome { w.msg with sender := 36 + n }
  match w.data with
  | some d =>
    if d.final || w.cmp then
      done (s.l2Put n l { st := d.grant, data := d.data, age := 0, poison := d.poison, gseq := d.gseq })
    else s
  | none =>
    if w.cmp && w.kind == .upg then
      match s.l2Line n l with
      | some x => done (s.l2Put n l { x with st := .M, age := if x.st = .O then x.age else 0, gseq := w.msg.gseq })
      | none => s
    else s

/-- Changes an L2's outstanding request. -/
def State.l2Want (s : State) (n : Nat) (m : CohMsg) (f : Want → Want) : Option State :=
  let k := s.l2 n
  match k.wants.find? (fun w => w.msg.line == m.line && w.msg.txn == m.txn) with
  | none => none
  | some w =>
    let s := s.setL2 n { k with wants := k.wants.map (fun x => if x.msg.line == m.line && x.msg.txn == m.txn then f x else x) }
    some (s.l2Complete n (f w))

/-- Whether a message is for an L2: its agent is a caching agent's ID (R352). -/
def toL2 (m : CohMsg) : Bool := !m.master && decide (36 ≤ m.agent) && decide (m.agent < 100)
/-- Whether a message is for a base-die cache. -/
def toBase (m : CohMsg) : Bool := !m.master && decide (m.agent < 36)

/-- DATA (R346, R347, R359): an L2 or a base-die cache takes its line; a base-die cache passes it on to the requests it serves, and keeps a clean
shared copy. An agent without a cache acknowledges data of its home; what its base-die cache serves, granted S, the home has not sent. -/
def execData (m : CohMsg) (s : State) : Outcome :=
  gate s (fun s =>
    let viaL2 := if toL2 m then s.l2Want (m.agent - 36) m (fun w => { w with data := some m }) else none
    match viaL2 with
    | some s => s
    | none =>
      let b := s.baseCache m.agent
      match (if toBase m then b.wants.find? (fun w => w.kind == .rdS && w.msg.line == m.line && w.msg.txn == m.txn) else none) with
      | some w =>
        let s := s.setBase m.agent { b with wants := b.wants.filter (fun x => !(x.msg.line == m.line && x.msg.txn == m.txn)) }
        let s := if m.grant = .S ∧ !m.poison then s.basePut m.agent m.line m.data else s
        let s := overList s w.back (fun s r =>
          s.cohOut (36 + m.agent) 0x10 r.agent { m with agent := r.agent, txn := r.txn, master := r.master, grant := .S, final := true, sender := m.agent })
        s.ackHome { m with sender := m.agent }
      | none => if m.master ∧ m.grant ≠ .S then s.ackHome m else s)

/-- A write to companion memory as its agent sends it: whole lines by WrF, others by WrP. A second one to a line waits for the first (R356, R420). -/
def State.hostPut (s : State) (w : HostWrite) (m : CohMsg) : State :=
  let mine (x : HostWrite) : Bool := x.sub == w.sub && x.line == w.line
  let t := freshTxn ((s.hostWrites.filter (fun x => x.sub == w.sub)).map (·.txn)) w.txn
  let m := { m with txn := t }
  if s.hostWrites.any mine then { s with hostWrites := s.hostWrites ++ [{ w with txn := t, held := some m }] }
  else { s with hostWrites := s.hostWrites ++ [{ w with txn := t, held := none }] }.hostRequest (if m.mask = fullMask then .wrF else .wrP) m

/-- A write to companion memory is performed; the next one of its agent to the line is sent (R356). -/
def State.hostPutDone (s : State) (m : CohMsg) : State :=
  let mine (x : HostWrite) : Bool := x.sub == m.agent && x.line == m.line
  if s.hostWrites.any (fun x => mine x && x.txn == m.txn && x.held.isNone) then
    let ws := s.hostWrites.filter (fun x => !(mine x && x.txn == m.txn))
    match ws.find? (fun x => mine x && x.held.isSome) with
    | some x =>
      let s := { s with hostWrites := ws.map (fun y => if mine y && y.txn == x.txn then { y with held := none } else y) }
      match x.held with
      | some h => s.hostRequest (if h.mask = fullMask then .wrF else .wrP) h
      | none => s
    | none => { s with hostWrites := ws }
  else s

/-- CMP (R347, R359): the completion at the requester; a base-die cache merges the bytes of its stack's masked write. -/
def execCmp (m : CohMsg) (s : State) : Outcome :=
  gate s (fun s =>
    let viaL2 := if toL2 m then
        s.l2Want (m.agent - 36) m (fun w => { w with cmp := true, msg := { w.msg with gseq := m.gseq } }) else none
    match viaL2 with
    | some s => s
    | none =>
      let k := dieStack (m.agent / 512)
      let b := s.baseCache k
      match b.wants.find? (fun w => w.kind == .wrP && w.msg.line == m.line && w.msg.txn == m.txn && w.msg.agent == m.agent) with
      | some w =>
        let old := (b.lines.cells.find? (fun x => x.1 == m.line)).map (·.2)
        let s := s.setBase k { b with wants := b.wants.filter (fun x => !(x.kind == .wrP && x.msg.line == m.line && x.msg.txn == m.txn)) }
        let s := match old with
          | some d =>
            if w.msg.poison || s.poolBad.contains m.line then s.setBase k { s.baseCache k with lines := (s.baseCache k).lines.del m.line }
            else s.basePut k m.line (mergeLine d w.msg.mask w.msg.data)
          | none => s
        s.ackHome m
      | none => (if m.master && isHost m.line then s.hostPutDone m else s).ackHome m)

/-- CMP_ACK (R360). -/
def execCmpAck (m : CohMsg) (s : State) : Outcome :=
  gate s (fun s =>
    if isHost m.line then s.hostAck m
    else
      let h := s.line m.line
      match h.txn with
      | none => s
      | some t =>
        if t.msg.txn = m.txn ∧ t.msg.agent = m.agent ∧ t.cmpSent then
          let s := s.setLine m.line { h with txn := some { t with needAck := false } }
          advance s.homeFuel s m.line
        else s)

/-- The entry after an owner answered a read for a shared copy: OS when it became O, else sharers only (R358). -/
def fwdNext (t : Txn) (a : Nat) (m : CohMsg) : Option DirEntry :=
  if t.kind = .rdS ∧ t.supplier = some (a, false) ∧ m.grant = .S then
    t.next.map (fun e => (({ e with st := .S, owner := 0 } : DirEntry).addSharer a))
  else t.next

/-- FWD_ACK (R358, R360, R362, R363). -/
def execFwdAck (m : CohMsg) (s : State) : Outcome :=
  gate s (fun s =>
    if isHost m.line then s.hostAnswered 0x14 m
    else
      let sharer := match (s.line m.line).txn with | some t => t.supplier == some (m.sender, true) && t.snoops.contains m.sender | none => false
      let s := if m.noData then s.noDataFrom m.line m.sender else if sharer then s.inc64 (homeDieOf m.line) 0x40028 else s
      s.snoopAnswered m.line m.sender m.superseded (fun t => { t with next := if m.noData then t.next else fwdNext t m.sender m }))

/-- INV_ACK (R359, R360). -/
def execInvAck (m : CohMsg) (s : State) : Outcome :=
  gate s (fun s => if isHost m.line then s.hostAnswered 0x15 m else s.snoopAnswered m.line m.sender false id)

/-- RECALL_DATA (R358, R360): the recalled line is written to memory, and the transaction goes on. -/
def execRecallData (m : CohMsg) (s : State) : Outcome :=
  gate s (fun s =>
    if isHost m.line then s.hostAnswered 0x11 m
    else
      let wanted := match (s.line m.line).txn with | some t => t.snoops.contains m.sender | none => false
      let s := if wanted && !m.noData then s.memWrite m.line fullMask m.data m.poison else s
      s.snoopAnswered m.line m.sender m.superseded id)

/-- WB_ACK (R362): the L2 frees the buffer entry. -/
def execWbAck (m : CohMsg) (s : State) : Outcome :=
  gate s (fun s =>
    if 36 ≤ m.agent ∧ m.agent < 100 then
      let k := s.l2 (m.agent - 36)
      s.setL2 (m.agent - 36) { k with buffer := k.buffer.eraseP (fun b => b.2.line == m.line && b.2.gseq == m.gseq) }
    else s)

/-- RETRY (R361): the request waits to be sent again. -/
def execRetry (m : CohMsg) (s : State) : Outcome :=
  gate s (fun s =>
    if toL2 m then (s.l2Want (m.agent - 36) m (fun w => { w with refused := true })).getD s
    else if toBase m then
      let b := s.baseCache m.agent
      s.setBase m.agent { b with wants := b.wants.map (fun x => if x.msg.line == m.line && x.msg.txn == m.txn then { x with refused := true } else x) }
    else s)

/-- RETRY_RESEND (R361): 200 ns after Retry the request is sent again with STARVE raised by one, at most 15. -/
def execRetryResend (m : CohMsg) (s : State) : Outcome :=
  gate s (fun s =>
    let same (x : CohMsg) : Bool := x.line == m.line && x.txn == m.txn && reqName x == reqName m
    match s.refused.find? (fun x => same x.2) with
    | none => s
    | some (k, r) =>
      let r := { r with starve := if r.starve.val < 15 then ⟨(r.starve.val + 1) % 16, Nat.mod_lt _ (by decide)⟩ else r.starve }
      let s := { s with refused := s.refused.filter (fun x => !same x.2) }
      let s := if toL2 m then
          (s.l2Want (m.agent - 36) m (fun w => { w with refused := false, msg := { w.msg with starve := r.starve } })).getD s else s
      if r.agent = 100 ∧ k.caching then s else s.cohOut (agentDie r.agent r.master) k.code (homeDieOf m.line) r)

/-- WAITER_RESERVATION_EXPIRY (R361). -/
def execWaiterReservationExpiry (l : Nat) (s : State) : Outcome :=
  gate s (fun s => s.setLine l { s.line l with reserved := none })

/-- BASE_DIE_CACHE_READ (R346, R347, R356, R369): a hit is served; a miss goes to the home as the cache's own RdS, one for all requests of the
stack to the line, or as RdNA where it must not allocate or the cache is fenced. -/
def execBaseDieCacheRead (k : StackId) (m : CohMsg) (noAlloc : Bool) (s : State) : Outcome :=
  gate s (fun s =>
    if s.fencedU.contains (.cacheAgent, k.val) then s.cohOut (36 + k.val) 4 (homeDieOf m.line) m
    else
      let b := s.baseCache k.val
      match b.lines.cells.find? (fun x => x.1 == m.line) with
      | some x => (s.inc64 (36 + k.val) 0x50008).cohOut (36 + k.val) 0x10 m.agent { m with data := x.2, grant := .S, final := true, poison := false }
      | none =>
        let s := s.inc64 (36 + k.val) 0x50010
        if noAlloc then s.cohOut (36 + k.val) 4 (homeDieOf m.line) m
        else if b.wants.any (fun w => w.kind == .rdS && w.msg.line == m.line) then
          s.setBase k.val { b with wants := b.wants.map (fun w => if w.kind = .rdS ∧ w.msg.line = m.line then { w with back := w.back ++ [m] } else w) }
        else
          let r := { m with agent := k.val, sender := k.val, txn := freshTxn ((s.wantsOf k.val).map (·.msg.txn)) m.txn, master := false }
          let w : Want := { kind := .rdS, msg := r, data := none, cmp := false, refused := false, back := [m] }
          (s.setBase k.val { b with wants := b.wants ++ [w] }).cohOut (36 + k.val) 1 (homeDieOf m.line) r)

/-- An L2 cleans a line: Clean with the data to the home, M becomes E and O becomes S, the age is cleared (R350). -/
def State.l2Clean (s : State) (n l : Nat) : State :=
  match s.l2Line n l with
  | none => s
  | some x =>
    if x.st == .M || x.st == .O then
      let k := s.l2 n
      let m : CohMsg := {
        line := l, agent := 36 + n, txn := 0, gseq := x.gseq, data := x.data, mask := fullMask, poison := x.poison, grant := .I, final := false,
        superseded := false, noData := false, starve := 0, sender := 36 + n }
      let x' := { x with st := if x.st = .M then Moesi.E else Moesi.S, age := 0 }
      let s := s.setL2 n { k with
        lines := k.lines.set { st := .I, data := [], age := 0, poison := false, gseq := 0 } l x', buffer := k.buffer ++ [(.clean, m)] }
      (s.cohOut (32 + n / 16) 10 (homeDieOf l) m).inc64 (32 + n / 16) (0x60100 + 0x20 * (n % 16))
    else s

/-- DIRTY_AGE_TICK (R350): every dirty line ages by one; a line at its ninth tick is cleaned. -/
def execDirtyAgeTick (n : ClusterId) (s : State) : Outcome :=
  gate s (fun s =>
    let k := s.l2 n.val
    let dirty (x : L2Line) : Bool := x.st == .M || x.st == .O
    let s := s.setL2 n.val { k with lines := ⟨k.lines.cells.map (fun c => (c.1, if dirty c.2 then { c.2 with age := c.2.age + 1 } else c.2))⟩ }
    overList s (((s.l2 n.val).lines.cells.filter (fun c => dirty c.2 && decide (9 ≤ c.2.age))).map (·.1)) (fun s l => s.l2Clean n.val l))

/-- MSAU_IDLE_RELEASE (R367). -/
def execMsauIdleRelease (l : Nat) (s : State) : Outcome := gate s (fun s => if s.lineBlocked l then s else s.msauRelease l)

/-- SNOOP_TIMEOUT (R369): the agent is reported and fenced, its dirty lines are written poisoned, and the home answers its snoops. -/
def execSnoopTimeout (l a : Nat) (s : State) : Outcome :=
  gate s (fun s =>
    let waits := match (s.line l).txn with | some t => t.snoops.contains a | none => false
    if waits && decide (a < 100) then
      let s := s.leafDetect (mkFault (dieOf (homeDieOf l)) 0x13 (if homeDieOf l < 72 then 16 else 32) .cacheAgent a (BitVec.ofNat 64 (s.localOf (l * 128))) 5)
      overList s ((s.lines.cells.filter (fun c => match c.2.txn with | some t => t.snoops.contains a | none => false)).map (·.1)) (fun s l =>
        (s.noDataFrom l a).snoopAnswered l a false id)
    else s)

end Sys2Proof.Machine
end

