-- ==== Sys2Proof/Machine/Links.lean ====
section
/-! DEFINITION. Flits, replay and retraining of a link (R410 to R416, R447, R448), the training of the Jexesk Link's ports, time exchange
(R439), bias flips (R424, R425), and the loss of the companion (R441, R442). -/

namespace Sys2Proof.Machine

/-! ## Flits -/

/-- The die, unit number and unit index of a link in a fault report (Table 17-1). -/
def linkUnit : LinkId → Nat × Nat
  | .jxl _ => (0, 0)
  | .fabric p => (p.val % 8, p.val % 8)
/-- The source of a link's replays (Table 17-2). -/
def replaySource : LinkId → Byte
  | .jxl _ => 0x38
  | .fabric _ => 0x40

/-- A control flit of a link, with its ACK. -/
def State.ctlFlit (s : State) (l : LinkId) (ftype : Nat) : State :=
  s.send (.linkFlit l { seq := 0, ack := (s.link l).rxSeq, ftype := ftype, crdClass := 0, crdSlots := 0, slots := [] })

/-- Drops from the replay buffer the flits an ACK covers, with what is known of them (R412). -/
def LinkState.acked (k : LinkState) (ack : BitVec 12) : LinkState :=
  let rest := k.replay.filter (fun f => decide (2048 ≤ (ack - f.seq).toNat))
  { k with
    replay := rest, writes := k.writes.filter (fun w => rest.any (fun f => f.seq == w.1)),
    replays := k.replays.drop (fun q => !rest.any (fun f => f.seq.toNat == q)) }

/-- How often a flit of the replay buffer has been replayed (R412). -/
def LinkState.tries (k : LinkState) (f : Flit) : Nat := k.replays.get 0 f.seq.toNat
/-- Counts a replay of every flit of the buffer. -/
def LinkState.countReplay (k : LinkState) : LinkState :=
  { k with replays := k.replay.foldl (fun r f => r.set 0 f.seq.toNat (r.get 0 f.seq.toNat + 1)) k.replays }

/-- Takes returned credits: the fabric names the virtual channel alone, and class 0 is filled up to its reserved slots before class 1 (R416, R449; log
12). -/
def LinkState.credit (k : LinkState) (l : LinkId) (c n : Nat) : LinkState :=
  match l with
  | .jxl _ => { k with credits := k.credits.set 0 c (k.credits.get 0 c + n) }
  | .fabric _ =>
    let have0 := k.credits.get 0 (2 * c)
    let z := if c = 4 then n else min n (fabReserved c - have0)
    { k with credits := (k.credits.set 0 (2 * c) (have0 + z)).set 0 (2 * c + 1) (k.credits.get 0 (2 * c + 1) + (n - z)) }

/-- An ACK arrives: the flits it covers leave the buffer, messages that waited for room are sent, and so are the interrupts of completion entries that
are performed with it (R412, R437). -/
def State.ackIn (s : State) (l : LinkId) (k : LinkState) (ack : BitVec 12) : State := (s.setLink l ((k.acked ack).pump l)).releaseMsis

/-- Sends the replay buffer again: the flits replayed are counted and the replay is reported (R412, R448). -/
def State.replayAll (s : State) (l : LinkId) : State :=
  let k := s.link l
  if k.replay.isEmpty then s
  else
    let s := overList s k.replay (fun s f => s.send (.linkFlit l f))
    let s := s.inc64 (linkReg l).1 ((linkReg l).2 + 8) k.replay.length
    s.noteFault (mkFault (dieOf (linkReg l).1) (replaySource l) (linkUnit l).1 .port (linkUnit l).2 0 0)

/-- A replay request: what its ACK covers is dropped, the rest is sent again; a flit replayed eight times without arriving causes a
retrain (R412). -/
def State.replayRequest (s : State) (l : LinkId) (ack : BitVec 12) : State :=
  if s.linkSt l = 2 then
    let s := s.ackIn l (s.link l) ack
    let k := (s.link l)
    if k.replay.isEmpty then s
    else if k.replay.any (fun f => decide (8 ≤ k.tries f)) then s.startRetrain l
    else (s.setLink l k.countReplay).replayAll l
  else s

/-- Takes the messages whose slots have all arrived from a link's stream; empty slots between messages are passed over. Answers what is
left and the messages taken. -/
def takeMessages (fuel : Nat) (b : List Byte) : List Byte × List (List Byte) :=
  match fuel with
  | 0 => (b, [])
  | fuel + 1 =>
    if b.length < 16 then (b, [])
    else
      let h := leNat (b.take 16)
      if h = 0 then takeMessages fuel (b.drop 16)
      else
        let len := 16 * (1 + lenSlots (bits h 113 112))
        if b.length < len then (b, []) else let r := takeMessages fuel (b.drop len); (r.1, b.take len :: r.2)

/-- Notes a received message: its slots are owed to the sender as credits; on the Jexesk Link a reserved opcode is answered with status
UR (R416, R417). -/
def State.noteMessage (s : State) (l : LinkId) (b : List Byte) : State :=
  let h := leNat (b.take 16)
  let len := match l with | .jxl _ => bits h 113 112 | .fabric _ => bits h 81 80
  let k := s.link l
  let c := bits h 119 117
  let s := s.setLink l { k with owed := k.owed.set 0 c (k.owed.get 0 c + 1 + lenSlots len) }
  match l with
  | .jxl p =>
    if opClass (bits h 127 120) = 7 then
      s.send (.link p {
        opcode := 0x22, fn := ⟨bits h 116 114 % 8, Nat.mod_lt _ (by decide)⟩, tag := BitVec.ofNat 16 (bits h 111 96), status := 1, addr := 0, aux := 0,
        len := 0, mask := 0, data := [], poison := false })
    else s
  | .fabric _ => s

/-- A fabric stream's messages: as `takeMessages`, with the fabric's LEN field (R452). -/
def takeFabMessages (fuel : Nat) (b : List Byte) : List Byte × List (List Byte) :=
  match fuel with
  | 0 => (b, [])
  | fuel + 1 =>
    if b.length < 16 then (b, [])
    else
      let h := leNat (b.take 16)
      if h = 0 then takeFabMessages fuel (b.drop 16)
      else
        let len := 16 * (1 + lenSlots (bits h 81 80))
        if b.length < len then (b, []) else let r := takeFabMessages fuel (b.drop len); (r.1, b.take len :: r.2)

/-- What a payload flit completes: the stream that is left, and the messages that are whole. -/
def LinkState.taken (k : LinkState) (l : LinkId) (f : Flit) : List Byte × List (List Byte) :=
  let b := k.partial_ ++ padTo 240 f.slots
  match l with | .jxl _ => takeMessages (b.length + 1) b | .fabric _ => takeFabMessages (b.length + 1) b

/-- Acknowledges what a link has received: an idle flit, one for each class with credits to return (R412, R416). -/
def State.ackNow (s : State) (l : LinkId) : State :=
  let k := s.link l
  let s := s.setLink l { k with unacked := 0, owed := ⟨[]⟩ }
  let flit (c n : Nat) : Flit := { seq := 0, ack := k.rxSeq, ftype := 1, crdClass := c, crdSlots := n, slots := [] }
  if k.owed.cells.isEmpty then s.send (.linkFlit l (flit 0 0)) else overList s k.owed.cells (fun s x => s.send (.linkFlit l (flit x.1 x.2)))

/-- A payload flit in order: its slots join the stream, and every message that is whole is taken; it acts by its own command (log 18). The 64th flit
that is not yet acknowledged is acknowledged at once (R412). -/
def State.takePayload (s : State) (l : LinkId) (f : Flit) : State :=
  let k := s.link l
  let r := k.taken l f
  let s := s.setLink l { k with rxSeq := f.seq, unacked := k.unacked + 1, discarding := false, partial_ := r.1 }
  let s := overList s r.2 (fun s b => s.noteMessage l b)
  if 64 ≤ (s.link l).unacked then s.ackNow l else s

/-- A flit at an ACTIVE link (R411, R412, R416): with a wrong CRC it and every later one are discarded until the replay arrives, and a
replay is requested; else its ACK and credits are taken, and a payload flit in order is taken. -/
def State.flitIn (s : State) (l : LinkId) (f : Flit) (ok : Bool) : State :=
  if s.linkSt l = 2 then
    let k := s.link l
    let next := f.ftype == 0 && f.seq == k.rxSeq + 1
    if !ok then (if k.discarding then s else (s.setLink l { k with discarding := true }).ctlFlit l 2)
    else if k.discarding && !next then s
    else
      let s := s.ackIn l (k.credit l f.crdClass f.crdSlots) f.ack
      if next then s.takePayload l f
      else if f.ftype = 2 then s.replayRequest l f.ack
      else if f.ftype = 3 then s.startRetrain l
      else s
  else s

/-- FLIT_RECEIVE (R409 to R412, R416): a flit with the CRC it carries, and the codewords it has a bit in that were corrected and that could not be. A
flit whose CRC is not that of its bytes, or that has a bit in a codeword that cannot be corrected, is not taken. -/
def execFlitReceive (p : JxlPort) (f : Flit) (crc : DWord) (fecC fecU : Nat) (s : State) : Outcome :=
  gate s (fun s =>
    let s := (s.inc64 (92 + p.val) 0x80010 fecC).inc64 (92 + p.val) 0x80018 fecU
    s.flitIn (.jxl p) f (crc == flitCrc (.jxl p) f && fecU == 0))

/-- FLIT_ACK_DUE (R412, R416): an idle flit acknowledges, one for each class with credits to return. -/
def execFlitAckDue (l : LinkId) (s : State) : Outcome :=
  gate s (fun s =>
    if s.linkSt l = 2 ∧ (s.link l).unacked ≠ 0 then s.ackNow l else s)

/-- REPLAY_REQUEST_FLIT (R412). -/
def execReplayRequestFlit (l : LinkId) (ack : BitVec 12) (s : State) : Outcome := gate s (fun s => s.replayRequest l ack)

/-- RETRAIN_REQUEST_FLIT (R413). -/
def execRetrainRequestFlit (l : LinkId) (s : State) : Outcome := gate s (fun s => s.startRetrain l)

/-- A link that has retrained replays from its buffer and sends what waited (R413, R448); the next time exchange is the first of the port's new activity
(R439). -/
def State.resumeLink (s : State) (l : LinkId) : State :=
  let first := match l with | .jxl _ => true | .fabric _ => (s.link l).tsFirst
  let s := (s.setLink l { s.link l with replays := ⟨[]⟩, attempts := 0, tsFirst := first }).setLinkSt l 2
  let s := s.replayAll l
  s.setLink l ((s.link l).pump l)

/-- LINK_RETRAIN_DONE (R413): a failed attempt is followed by another, and no attempt succeeds without a half that has no failed lane (R408). -/
def execLinkRetrainDone (p : JxlPort) (ok : Bool) (s : State) : Outcome :=
  gate s (fun s =>
    let l : LinkId := .jxl p
    if s.linkSt l = 3 then
      if ok && s.lanes l != 0 then s.resumeLink l else s.setLink l { s.link l with attempts := (s.link l).attempts + 1 }
    else s)

/-! ## Training of the Jexesk Link -/

/-- A port's entry of section 0x08 (Table 2-8). -/
def State.linkPort (s : State) (p : Nat) : LinkPortCfg :=
  ((s.flp.bind (fun f => f.linkPorts[p]?))).getD { enable := false, lanes16 := false, rate224 := false }

/-- The credits a receiver grants at link-up: at least 64 slots for each class, how many more being the receiver's (R416). -/
def State.linkCredits (s : State) : Map Nat := ⟨(List.range 7).map (fun c => (c, 64 + Config.freeNat (s.fresh + c)))⟩

/-- LINK_TRAIN (R408, R108): an enabled port that is down, in training or lost trains at the rate the service level allows; a failed lane
it names is reported, and a port without a whole half stays DOWN, and during bring-up is fenced (R89). The step follows SL0 (R94). A port that R89
fenced trains no more. -/
def execLinkTrain (p : JxlPort) (failedLanes : BitVec 16) (s : State) : Outcome :=
  gate s (fun s =>
    let l : LinkId := .jxl p
    let e := s.linkPort p.val
    let st := s.linkSt l
    if !e.enable || !s.pins.jxlResetN || !s.pins.ready || !(st == 0 || st == 1 || st == 4) || s.fencedU.contains (.port, 2000 + p.val) then s
    else
      let named := if e.lanes16 then 16 else 8
      let s := overList s ((List.range named).filter (fun i => failedLanes.getLsbD i)) (fun s i =>
        s.leafDetect (mkFault (dieOf (92 + p.val)) 0x39 0 .lane i 0 7))
      let failed := failedLanes ||| (s.link l).failed
      let full := decide (4 ≤ s.level)
      let x := linkLanes l (e.lanes16 && full) failed
      let n := x.1
      let s := s.setLanes l x
      let s := s.setFld (92 + p.val) 0x80000 15 15 (b2n (full && e.rate224 && n != 0))
      if n = 0 then (if s.level < 4 then (s.setLinkSt l 0).noteFenced (.port, 2000 + p.val) else s.setLinkSt l 0)
      else
        let cr := s.linkCredits
        let s := s.setLink l { LinkState.reset with failed := (s.link l).failed, high := x.2, tsFirst := true, credits := cr }
        { (s.setLinkSt l 2).noteServed .port (2000 + p.val) with fresh := s.fresh + 7 })

/-! ## Time exchange -/

/-- TIME_EXCHANGE (R439): an ACTIVE port sends TsReq with its device time. -/
def execTimeExchange (p : JxlPort) (s : State) : Outcome :=
  gate s (fun s =>
    if s.linkSt (.jxl p) = 2 then
      s.send (.link p {
        opcode := 0x40, fn := 0, tag := 0, status := 0, addr := 0, aux := 0, len := 1, mask := 0, data := padTo 64 (leBytes 8 s.now.toNat),
        poison := false })
    else s)

/-- TS_RSP (R439, R440): the first exchange after the port became ACTIVE records the offset, later ones measure against it. Port 0
steers, or the one active port; an error of one ns is steered out at one ppm over the 1 ms to the next exchange (log 21). -/
def execTsRsp (p : JxlPort) (t1 t2 t3 : DWord) (s : State) : Outcome :=
  gate s (fun s =>
    let l : LinkId := .jxl p
    if s.linkSt l = 2 then
      let theta : Int := ((t2 - t1).toInt + (t3 - s.now).toInt) / 2
      if (s.link l).tsFirst then
        let s := s.setLink l { s.link l with tsFirst := false }
        (s.wr64 (92 + p.val) 0x80028 (BitVec.ofInt 64 theta)).wr (92 + p.val) 0x80030 0
      else
        let err := theta - (s.rd64 (92 + p.val) 0x80028).toInt
        let s := s.wr (92 + p.val) 0x80030 (BitVec.ofInt 32 err)
        if p = 0 ∨ s.jxlState 0 ≠ 2 then { s with steer := max (-100) (min 100 err) } else s
    else s)

/-! ## Bias flips -/

/-- The physical lines of a 4 KiB page at a local address. -/
def State.pageLines (s : State) (page : Nat) : List Nat :=
  (List.range 32).filterMap (fun i => (s.place (page * 4096 + i * 128)).map (· / 128))

/-- Whether every home of a page has completed its part of a flip. -/
def State.pageFlipped (s : State) (page : Nat) (toShared : Bool) : Bool :=
  (s.pageLines page).all (fun l =>
    let h := s.line l
    h.bias == some toShared && h.txn.isNone && !h.waiters.any (fun w => match w.1 with | .flip _ => true | _ => false))

/-- A flip request of a home for one line (R424). -/
def flipMsg (l : Nat) : CohMsg :=
  { line := l, agent := 127, txn := 0, gseq := 0, data := [], mask := 0, poison := false, grant := .I, final := false, superseded := false,
    noData := false, starve := 0, sender := 127 }

/-- Whether a home has completed its part of a flip for one line. -/
def State.lineFlipped (s : State) (toShared : Bool) (l : Nat) : Bool := (s.line l).bias == some toShared && (s.line l).txn.isNone
/-- Whether a home has a line's part of a flip in hand. -/
def State.lineFlipping (s : State) (l : Nat) : Bool :=
  (match (s.line l).txn with | some t => (match t.kind with | .flip _ => true | _ => false) | none => false)
    || (s.line l).waiters.any (fun w => match w.1 with | .flip _ => true | _ => false)

/-- A home performs its part of a flip line by line, each line as one transaction, which on a line with an open one waits its turn (R424, R425): it goes
on to the next line when the one before is done. -/
def State.flipHome (s : State) (toShared : Bool) : List Nat → State
  | [] => s
  | l :: ls =>
    if s.lineFlipped toShared l then s.flipHome toShared ls
    else if s.lineFlipping l then s
    else
      let h := s.line l
      let s := if h.txn.isSome || !h.waiters.isEmpty then s.setLine l { h with waiters := h.waiters ++ [(.flip (!toShared), flipMsg l)] }
        else homeServe s.homeFuel s (.flip (!toShared)) (flipMsg l)
      if s.lineFlipped toShared l then s.flipHome toShared ls else s

/-- The homes of a page that have a part of its flip, in ascending die ID (R424). -/
def State.pageHomes (s : State) (page : Nat) : List Nat :=
  let ds := (s.pageLines page).map homeDieOf
  (List.range 100).filter (fun d => ds.contains d)

/-- Every home of a page goes on with its part of a flip (R424). -/
def State.pumpPage (s : State) (page : Nat) (toShared : Bool) : State :=
  overList s (s.pageHomes page) (fun s d => s.flipHome toShared ((s.pageLines page).filter (fun l => homeDieOf l == d)))

/-- The master home of a page, the home of its first line, sends the flip to every other home in ascending die ID, and the homes begin (R424). -/
def State.beginPage (s : State) (page : Nat) (toShared : Bool) : State :=
  let master := ((s.pageLines page).head?.map homeDieOf).getD 0
  let s := overList s ((s.pageHomes page).filter (· != master)) (fun s d => s.inject master d .request (.flip page toShared))
  s.pumpPage page toShared

/-- A page's flip is done: its bias is the flip's, and its lines follow the page again. -/
def State.endPage (s : State) (page : Nat) (toShared : Bool) : State :=
  let s := overList s (s.pageLines page) (fun s l => s.setLine l { s.line l with bias := none })
  { s with shared := if toShared then (if s.shared.contains page then s.shared else page :: s.shared) else s.shared.filter (· != page) }

/-- A flip by its number. -/
def State.flip (s : State) (n : Nat) : Option Flip := s.flips.get none n

/-- Ends the pages of a flip that are done, and begins its pages that no earlier flip holds (R424, R425). -/
def State.pumpFlip (s : State) (n : Nat) : State :=
  match s.flip n with
  | none => s
  | some f =>
    let s := overList s f.started (fun s p => s.pumpPage p f.toShared)
    let done := f.started.filter (fun p => s.pageFlipped p f.toShared)
    let s := overList s done (fun s p => s.endPage p f.toShared)
    let pages := f.pages.filter (fun p => !done.contains p)
    let started := f.started.filter (fun p => !done.contains p)
    let earlier := (s.flips.cells.filter (fun c => decide (c.1 < n))).flatMap (fun c => match c.2 with | some g => g.pages | none => [])
    let go := pages.filter (fun p => !started.contains p && !earlier.contains p)
    let s := { s with flips := s.flips.set none n (some { f with pages := pages, started := started ++ go }) }
    overList s go (fun s p => s.beginPage p f.toShared)

/-- Moves every flip on, in the order they were taken. -/
def State.pumpFlips (s : State) : State := overList s (s.flips.cells.map (·.1)) State.pumpFlip

/-- Takes a flip of a range of pages (R424). -/
def State.startFlip (s : State) (pages : List Nat) (toShared : Bool) (from_ : Option (JxlPort × LinkMsg)) (cmd : Option (Nat × Nat × BitVec 16)) :
    State :=
  let n := s.nextFlip
  ({ s with nextFlip := n + 1, flips := s.flips.set none n (some { pages := pages, started := [], toShared := toShared, from_ := from_, cmd := cmd }) }).pumpFlip n

/-- Answers a message of the companion. -/
def State.linkAnswer (s : State) (p : JxlPort) (m : LinkMsg) (opcode : Byte) (status : Nat) (aux : BitVec 27) (data : List Byte) : State :=
  s.send (.link p {
    opcode := opcode, fn := m.fn, tag := m.tag, status := status, addr := m.addr, aux := aux,
    len := ⟨lenOf data.length % 4, Nat.mod_lt _ (by decide)⟩, mask := 0, data := data, poison := status == 4 })

/-- Whether a function belongs to a port: its partition exists and names the port (R426). -/
def State.fnOfPort (s : State) (p fn : Nat) : Bool := (s.partEntry fn).isSome && s.partPort fn == p

/-- BIAS_FLIP (R418, R424, R494): refused with UNREACH in the safe state; a range outside the windows of the partition is refused with WINDOW, memory not in service with UNREACH. -/
def execBiasFlip (p : JxlPort) (m : LinkMsg) (s : State) : Outcome :=
  if s.phase = .safe then .next (s.linkAnswer p m 0x29 5 0 [])
  else gate s (fun s =>
    let n := bits m.aux.toNat 20 1 + 1
    let first := m.addr / 4096
    let shared := m.aux.getLsbD 0
    let pages := (List.range n).map (fun i => first + i)
    if !s.fnOfPort p.val m.fn.val || decide (0x30000000000 ≤ m.addr) then s.linkAnswer p m 0x29 1 0 []
    else if !pages.all (fun g => (s.windowOf m.fn.val (g * 4096) false false).isSome) then s.linkAnswer p m 0x29 2 0 []
    else if !pages.all (fun g => s.setReady (g * 4096) && (s.pageLines g).all (fun l => s.inService (l * 128))) then s.linkAnswer p m 0x29 5 0 []
    else s.startFlip pages shared (some (p, m)) none)

/-- BIAS_FLIP_DONE (R424): when every page of the range is done, BiasDone is sent or the command ends. -/
def execBiasFlipDone (n : Nat) (s : State) : Outcome :=
  gate s (fun s =>
    let s := s.pumpFlips
    match s.flip n with
    | none => s
    | some f =>
      if f.pages.isEmpty then
        let s := { s with flips := s.flips.del n }
        let s := match f.from_ with
          | some (p, m) => if s.linkSt (.jxl p) = 2 ∨ s.linkSt (.jxl p) = 3 then s.linkAnswer p m 0x29 0 (BitVec.ofNat 27 (b2n f.toShared)) [] else s
          | none => s
        let s := match f.cmd with | some (p, q, cid) => s.finishCmd p q cid 0 0 | none => s
        s.pumpFlips
      else s)

/-- BIAS_DONE (R417): the device asks the companion for no flip of its own (R424), so no flip waits for this answer and none ends. -/
def execBiasDone (_p : JxlPort) (_m : LinkMsg) (s : State) : Outcome := .next s

/-- MSI (R417, R437): a function's vector is signalled to the companion. -/
def execMsi (p : PartId) (vector : Nat) (s : State) : Outcome :=
  gate s (fun s => if vector < 4096 then s.signal p.val vector else s)

/-! ## Companion lost -/

/-- The partitions of a port. -/
def State.portParts (s : State) (p : Nat) : List Nat := (List.range 8).filter (fun q => s.fnOfPort p q)

/-- Counts a host write dropped with the companion lost (R442). -/
def State.countLost (s : State) (p : Nat) (q : Option Nat) : State :=
  let f := s.fn p
  s.setFn p { f with
    lostTotal := (f.lostTotal + 1) % 2 ^ 64,
    lostCount := match q with
      | some q => f.lostCount.set 0 q (min (f.lostCount.get 0 q + 1) 0xFFFFFFFF)
      | none => f.lostCount }

/-- Every cache drops the companion lines it holds by a port, and what it awaits of them: the CPU L2s and L1s of its partitions, whose dirty lines are
counted, the base-die caches that its directory lists, and the cores' instruction caches (R442). -/
def State.dropHostLines (s : State) (p : Nat) : State :=
  let mine (n : Nat) : Option Nat := (s.hartPart (4 * n)).filter (fun q => s.partPort q == p)
  let s := overList s (s.l2s.cells.map (·.1)) (fun s n =>
    match mine n with
    | none => s
    | some q =>
      let k := s.l2 n
      let host := k.lines.cells.filter (fun x => isHost x.1)
      let s := overList s host (fun s x => (s.dropResv n x.1).dropL1 n x.1)
      let s := s.setL2 n { s.l2 n with
        lines := (s.l2 n).lines.drop isHost, wants := k.wants.filter (fun w => !isHost w.msg.line),
        buffer := k.buffer.filter (fun b => !isHost b.2.line), delayed := k.delayed.filter (fun d => !isHost d.2.line) }
      let dirty := (host.filter (fun x => x.2.st == .M || x.2.st == .O)).length + (k.buffer.filter (fun b => isHost b.2.line)).length
      overList s (List.range dirty) (fun s _ => s.countLost q none))
  let listed (a l : Nat) : Bool := (s.hostHolders p l).contains a
  let s := { s with bases := ⟨s.bases.cells.map (fun c => (c.1, { c.2 with
      lines := ⟨c.2.lines.cells.filter (fun x => !(isHost x.1 && listed c.1 x.1))⟩,
      wants := c.2.wants.filter (fun w => !(isHost w.msg.line && s.hostPort w.msg == p)) }))⟩ }
  let s := overList s (s.cores.cells.map (·.1)) (fun s c =>
    if (s.corePart c).map s.partPort = some p then s.modCore c (fun k => { k with l1i := k.l1i.filter (fun l => !isHost l) }) else s)
  { s with hostDir := ⟨s.hostDir.cells.filter (fun c => c.1 % 2 != p)⟩, hostTxns := s.hostTxns.filter (fun t => t.port != p) }

/-- The home of a line forgets the companion: a line it owned is written poisoned, its pending snoop is answered by the home, and its own
requests are dropped (R442). -/
def State.forgetCompanion (s : State) (l : Nat) : State :=
  let h := s.line l
  let owned := match h.entry with | some e => e.own == some 100 | none => false
  let s := if owned then s.memWrite l fullMask [] true else s
  let notMine (x : ReqKind × CohMsg) : Bool := !(x.2.agent == 100 && x.1.caching)
  let s := s.setLine l { s.line l with
    entry := h.entry.bind (fun e => e.delAgent 100), waiters := h.waiters.filter notMine, held := h.held.filter notMine,
    staleAck := h.staleAck.filter (fun m => m.agent != 100),
    reserved := match h.reserved with | some r => if r.1 = 100 ∨ 2 ^ 20 + 51200 ≤ r.1 then none else some r | none => none }
  match h.txn with
  | none => s
  | some t =>
    let next := t.next.bind (fun e => e.delAgent 100)
    let own := t.msg.agent == 100 && t.kind.caching
    let s := s.setLine l { s.line l with txn := some { t with next := next, needAck := t.needAck && !own } }
    if t.snoops.contains 100 then (s.noDataFrom l 100).snoopAnswered l 100 true id
    else if own then advance s.homeFuel s l else s

/-- A host access of a hart that is outstanding ends in "host unreachable" (R442). -/
def State.endHostReads (s : State) (p : Nat) : State :=
  let mine (x : BitVec 16 × Nat) : Bool := match s.hartPart x.2 with | some q => s.partPort q == p | none => false
  let s' := overList s (s.hostReads.filter mine) (fun s x => (s.setHart x.2 { s.hart x.2 with nc := [] }).send (.contained (hartDie x.2 * 512 + x.2 % 64) 0x117))
  { s' with hostReads := s.hostReads.filter (fun x => !mine x) }

/-- The writes to companion memory of a port's partitions end: a stream instruction, a core's part of a kernel, a collective or a hart's store in
"host unreachable" (R305, R442). -/
def State.endHostWrites (s : State) (port : Nat) : State :=
  let mine (w : HostWrite) : Bool := s.fnOfPort port w.part
  let ws := s.hostWrites.filter mine
  overList { s with hostWrites := s.hostWrites.filter (fun w => !mine w) } ws (fun s w =>
    match w.agent with
    | .core c (.stream t) => s.modCore c (fun k => k.failWrite t.val w.cursor 0x117)
    | .core c _ => s.endPart c 0x117 .none
    | .hart h => s.send (.contained (hartDie h * 512 + h % 64) 0x117)
    | .queue _ => s)

/-- Companion lost on a port (R441, R442, Table 15-12): its replay buffer and queued writes are discarded and
counted, host accesses end, companion lines are dropped, homes forget agent 100, queues stop and lose the commands not yet started, LOST
and EPISODE are set, and the port starts training. -/
def State.companionLost (s : State) (p : JxlPort) (cause : Nat) : State :=
  let l : LinkId := .jxl p
  if s.linkSt l = 2 ∨ s.linkSt l = 3 then
    let s := s.leafDetect (mkFault (dieOf (92 + p.val)) 0x3B 0 .none 0 0 0 [BitVec.ofNat 8 cause])
    let lost := (s.link l).writes.map (·.2) ++ (s.link l).sendHeld.filterMap (·.write)
    let s := (s.setLinkSt l 4).setLink l { LinkState.reset with failed := (s.link l).failed }
    let s := overList s lost (fun s w => s.countLost w.part w.queue)
    let s := (s.endHostReads p.val).endHostWrites p.val
    let s := s.dropHostLines p.val
    let s := overList s (s.lines.cells.map (·.1)) State.forgetCompanion
    let s := { s with
      refused := s.refused.filter (fun x => !(x.2.agent == 100 && x.1.caching)),
      flips := ⟨s.flips.cells.map (fun c => (c.1, c.2.map (fun f => { f with from_ := match f.from_ with | some x => if x.1 = p then none else some x | none => none })))⟩,
      ncWait := s.ncWait.filter (fun x => x.1 != p), msiDue := s.msiDue.filter (fun x => !s.fnOfPort p.val x.1),
      heldBells := s.heldBells.filter (fun b => !s.fnOfPort p.val b.1) }
    let s := overList s (s.portParts p.val) (fun s q =>
      let s := { s with sqs := ⟨s.sqs.cells.map (fun (c : Nat × Option Sq) => (c.1, if c.1 / 4096 = q then c.2.map (fun (k : Sq) => { k with stopped := 5, fetched := [], rereads := 0 }) else c.2))⟩ }
      let f := s.fn q
      s.setFn q { f with lost := true, episode := f.episode + 1, lostTime := s.now, lostCause := cause, reportDue := true })
    (s.setLinkSt l 1).setFld (92 + p.val) 0x80000 23 16 0
  else s

/-- RETRAIN_LOST_TIMEOUT (R413, R441). -/
def execRetrainLostTimeout (p : JxlPort) (s : State) : Outcome :=
  gate s (fun s => if s.linkSt (.jxl p) = 3 then s.companionLost p 1 else s)

/-- COMPANION_SNOOP_TIMEOUT (R421, R441): a snoop the companion has not answered for 10 ms; the time of a retrain is not counted. -/
def execCompanionSnoopTimeout (p : JxlPort) (s : State) : Outcome :=
  gate s (fun s =>
    let waits := s.lines.cells.any (fun c => match c.2.txn with | some t => t.snoops.contains 100 | none => false)
    if s.linkSt (.jxl p) = 2 ∧ s.compPort = some p.val ∧ waits then s.companionLost p 2 else s)

end Sys2Proof.Machine
end

