-- ==== Sys2Proof/Machine/Translation.lean ====
section
/-! DEFINITION. Addresses and translation for accelerator agents: the device physical address (R372 to R374), page-table entries (R376 to
R380), the translation caches and walks (R383, R384), the checks of Table 13-6, and the outstanding fault records (R387). -/

namespace Sys2Proof.Machine

/-- Where a device physical address leads (R372, R373). -/
inductive Dpa where
  | here (a : Nat)
  | remote (node a : Nat)
  | invalid
deriving DecidableEq, Repr

/-- Splits a device physical address (R372, R373). -/
def State.dpa (s : State) (x : Nat) : Dpa :=
  let node := bits x 55 42
  let a := bits x 41 0
  if node = 0x3FFF ∨ some node = s.nodeId then .here a
  else if node < 12288 ∧ s.nodeId.isSome then .remote node a
  else .invalid

/-- Virtual bits [63:57] equal bit 56, which is 0 (Table 13-6, CANONICAL). -/
def canonical (va : DWord) : Bool := decide (va.toNat < 2 ^ 56)

/-- Field accessors of an entry (Table 13-3). -/
def pteV (p : DWord) : Bool := p.getLsbD 0
def pteR (p : DWord) : Bool := p.getLsbD 1
def pteW (p : DWord) : Bool := p.getLsbD 2
def pteX (p : DWord) : Bool := p.getLsbD 3
def pteU (p : DWord) : Bool := p.getLsbD 4
def pteA (p : DWord) : Bool := p.getLsbD 6
def pteD (p : DWord) : Bool := p.getLsbD 7
def ptePpn (p : DWord) : Nat := fieldOf p 53 10
def pteRun (p : DWord) : Nat := fieldOf p 56 54
def pteH (p : DWord) : Bool := p.getLsbD 58
def ptePbmt (p : DWord) : Nat := fieldOf p 62 61
def pteN (p : DWord) : Bool := p.getLsbD 63
/-- Whether an entry is a leaf. -/
def pteLeaf (p : DWord) : Bool := pteR p || pteW p || pteX p

/-- The RESERVED conditions of a leaf (R376 to R380). -/
def leafReserved (p : DWord) (level : Nat) : Bool :=
  decide (3 ≤ level) || ptePpn p % 2 ^ (9 * level) != 0 || fieldOf p 60 59 != 0 || p.getLsbD 57 || decide (4 < pteRun p)
    || (pteN p && (pteRun p != 0 || level != 0 || ptePpn p % 16 != 8)) || ptePbmt p == 3

/-- The page number of an address at a level. -/
def vpnAt (va : DWord) (level : Nat) : Nat := va.toNat / 2 ^ (12 + 9 * level)

/-- The entry a translation cache keeps for a leaf: a 64 KiB page counts as a run of 16 pages (R377, R378). -/
def leafEntry (part slot asid : Nat) (va : DWord) (level : Nat) (p : DWord) : XlEntry :=
  { part := part, slot := slot, asid := asid, vpn := vpnAt va level, level := level, run := if pteN p then 4 else pteRun p,
    pte := if pteN p then putField p 13 10 (vpnAt va 0 % 16) else p }

/-- Whether an entry translates an address (R378, R383); the pages of its run that are not merged with it, as their H differs, it does not
(R379). -/
def XlEntry.covers (e : XlEntry) (part slot asid : Nat) (va : DWord) : Bool :=
  e.part == part && e.slot == slot && e.asid == asid && vpnAt va e.level / 2 ^ e.run == e.vpn / 2 ^ e.run
    && !e.apart.contains (vpnAt va e.level % 2 ^ e.run)

/-- The address an entry gives: pages of a run by their offset in it (R378). -/
def XlEntry.address (e : XlEntry) (va : DWord) : Nat :=
  let size := 2 ^ (12 + 9 * e.level)
  let page := ptePpn e.pte / 2 ^ (9 * e.level) + vpnAt va e.level % 2 ^ e.run - e.vpn % 2 ^ e.run
  page * size % 2 ^ 56 + va.toNat % size

/-- Whether an access writes. -/
def accWrites : XlAccess → Bool
  | .write => true
  | .atomic => true
  | _ => false

/-- The permissions of a leaf for an access (Table 13-6, PERMISSION), before A and D. -/
def ptePermits (p : DWord) (a : XlAccess) : Bool :=
  pteU p && (match a with | .read => pteR p | .write => pteW p | .execute => pteX p | .atomic => pteR p && pteW p)

/-- What a translated access meets. -/
structure XlTarget where
  addr    : Dpa
  host    : Bool
  pbmt    : Nat
  noAlloc : Bool
deriving DecidableEq, Repr

/-- The outcome of a translation: a target, no entry (a walk is wanted), or a fault of a kind at a level. -/
inductive XlRes where
  | ok (t : XlTarget)
  | miss
  | fault (kind level : Nat)
deriving DecidableEq, Repr

/-- The checks that follow the page table (Table 13-6, orders 6 to 9) on an entry that permits the access. -/
def State.xlTarget (s : State) (part : Nat) (e : XlEntry) (va : DWord) (a : XlAccess) : XlRes :=
  let x := e.address va
  if pteH e.pte then
    let enabled := match s.flp with | some f => ((f.linkPorts[s.partPort part]?).map (·.enable)).getD false | none => false
    if bits x 55 52 ≠ 0 ∨ !enabled then .fault 7 e.level
    else .ok { addr := .here (bits x 51 0), host := true, pbmt := ptePbmt e.pte, noAlloc := false }
  else
    match s.dpa x with
    | .invalid => .fault 6 e.level
    | .remote n y => .ok { addr := .remote n y, host := false, pbmt := ptePbmt e.pte, noAlloc := true }
    | .here y =>
      if 0x30000000000 ≤ y ∧ y < 0x36400000000 then .fault 8 e.level
      else
        match s.place y, s.windowOf part y (accWrites a) (a == .atomic) with
        | some _, some w => .ok { addr := .here y, host := false, pbmt := ptePbmt e.pte, noAlloc := w.noAlloc }
        | _, _ => .fault 5 e.level

/-- A cached entry used for an access: its permissions and A and D, then the later checks; an entry whose D must first be set is walked
again (R384, R386). -/
def State.xlUse (s : State) (part : Nat) (adu : Bool) (e : XlEntry) (va : DWord) (a : XlAccess) : XlRes :=
  if !ptePermits e.pte a then .fault 2 e.level
  else if accWrites a && !pteD e.pte then (if adu then .miss else .fault 2 e.level)
  else s.xlTarget part e va a

/-- The core's own translation cache an agent uses (Table 13-5): 0 instruction, 1 data, 2 stream. -/
def xlCacheOf : XlAgent → Nat
  | .coreFetch => 0 | .groupFetch _ => 0 | .coreData => 1 | .groupData _ => 1 | .stream _ => 2

def Core.xlCache (k : Core) (i : Nat) : List XlEntry := match i with | 0 => k.xlI | 1 => k.xlD | _ => k.xlS
def Core.setXlCache (k : Core) (i : Nat) (l : List XlEntry) : Core :=
  match i with | 0 => { k with xlI := l } | 1 => { k with xlD := l } | _ => { k with xlS := l }
/-- Entries of each of a core's caches (Table 13-5). -/
def xlCacheSize (i : Nat) : Nat := if i = 0 then 32 else 64

/-- A cache of `n` entries with one more; a full one drops an entry, chosen freely (R383). -/
def capped (n : Nat) (free : Nat) (l : List XlEntry) (e : XlEntry) : List XlEntry :=
  if l.contains e then l else if l.length < n then l ++ [e] else l.eraseIdx (free % n) ++ [e]

/-- A die's translation cache with one more entry: 1,024 sets of 8, the set the device's choice; a full set drops an entry, chosen freely
(R383). -/
def dieCached (die free : Nat) (l : List XlEntry) (e : XlEntry) : List XlEntry :=
  let set (x : XlEntry) : Nat := Config.xlSet die x.level x.run (x.vpn / 2 ^ x.run) % 1024
  if l.contains e then l
  else
    let same := l.filter (fun x => set x == set e)
    (if same.length < 8 then l else match same[free % 8]? with | some x => l.erase x | none => l) ++ [e]

/-- Puts an entry into a core's cache and, unless it came from there, into its die's. -/
def State.xlInsert (s : State) (c i : Nat) (e : XlEntry) (die : Bool) : State :=
  let k := s.core c
  let f := Config.freeNat s.fresh
  let s := (s.setCore c (k.setXlCache i (capped (xlCacheSize i) f (k.xlCache i) e))).bump
  if die then { s with xlDie := s.xlDie.set [] (coreDie c) (dieCached (coreDie c) f (s.xlDie.get [] (coreDie c)) e) } else s

/-- The ASID of a translation root (R376). -/
def rootAsid (r : DWord) : Nat := fieldOf r 59 44

/-- Translates an access of an accelerator agent by the core's cache and its die's (R383, R386); the state counts hits and misses of the
die's cache. -/
def State.xlate (s : State) (c : Nat) (ag : XlAgent) (va : DWord) (a : XlAccess) : State × XlRes :=
  let k := s.core c
  match k.space with
  | none => (s, .fault 1 4)
  | some d =>
    let i := xlCacheOf ag
    let hit (e : XlEntry) : Bool := e.covers k.part k.slot (rootAsid d.root) va
    if !canonical va then (s, .fault 3 4)
    else match (k.xlCache i).find? hit with
      | some e => (s, s.xlUse k.part d.adu e va a)
      | none =>
        match (s.xlDie.get [] (coreDie c)).find? hit with
        | some e => ((s.xlInsert c i e false).inc64 (coreDie c) 0x70008, s.xlUse k.part d.adu e va a)
        | none => (s.inc64 (coreDie c) 0x70010, .miss)

/-! ## Walks (R384) -/

/-- What a walk found: the leaf, its level and address, the non-leaf entries it read, and the pages of the leaf's run whose own leaf has another
H (R379). -/
structure WalkHit where
  pte   : DWord
  level : Nat
  at_   : Nat
  path  : List (Nat × DWord)
  apart : List Nat := []
deriving DecidableEq, Repr

/-- The pages of a leaf's run whose leaf in the same line has another H: `d` is the line, `o` the leaf's place in it. -/
def apartOf (d : List Byte) (o : Nat) (p : DWord) : List Nat :=
  let n := 2 ^ pteRun p
  if pteN p then [] else (List.range n).filter (fun j => bitAt (leAt d (o / 8 / n * n * 8 + 8 * j) 8) 58 != pteH p)

/-- Walks the tables from a level on: the entry found, or the fault kind and the level (R376, R377, R384); kind 0 is a walk that must wait, with the
line whose open transaction or companion copy stands in its way. -/
def State.walkFrom (s : State) (va : DWord) : Nat → Nat → List (Nat × DWord) → Except (Nat × Nat) WalkHit
  | level, table, path =>
    let rec go (fuel level table : Nat) (path : List (Nat × DWord)) : Except (Nat × Nat) WalkHit :=
      match fuel with
      | 0 => .error (1, 0)
      | fuel + 1 =>
        match s.dpa (table * 4096) with
        | .here t =>
          let a := t + vpnAt va level % 512 * 8
          (match s.place a with
          | none => .error (9, level)
          | some ph =>
            if !s.inService ph || !s.setReady a then .error (9, level)
            else if s.lineBlocked (ph / 128) || s.compHolds (ph / 128) false then .error (0, ph / 128)
            else
              let d := s.lineRead (ph / 128)
              let p : DWord := BitVec.ofNat 64 (leAt d.1 (ph % 128) 8)
              if d.2 then .error (9, level)
              else if !pteV p || (!pteR p && pteW p) then .error (1, level)
              else if pteLeaf p then
                (if leafReserved p level then .error (4, level) else .ok { pte := p, level := level, at_ := a, path := path, apart := apartOf d.1 (ph % 128) p })
              else if level = 0 then .error (1, 0)
              else if fieldOf p 63 54 ≠ 0 then .error (4, level)
              else go fuel (level - 1) (ptePpn p) (path ++ [(level, p)]))
        | _ => .error (9, if level = 4 then 4 else level + 1)
    go 5 level table path

/-- Sets A, and D for a write, by a compare-and-swap at the entry's home (R384). -/
def State.setAD (s : State) (h : WalkHit) (write : Bool) : State × DWord :=
  let p := h.pte ||| (if write then 0xC0 else 0x40)
  if p = h.pte then (s, p) else (s.writeLocal h.at_ (leBytes 8 p.toNat), p)

/-- The line that the compare-and-swap of A and D must wait for (R384). -/
def State.adWaits (s : State) (h : WalkHit) (write : Bool) : Option Nat :=
  if h.pte ||| (if write then 0xC0 else 0x40) = h.pte then none
  else (s.place h.at_).bind (fun ph => if s.lineBlocked (ph / 128) || s.compHolds (ph / 128) true then some (ph / 128) else none)

/-- A whole walk for an access: the state with A, D, the caches and XL_WALKS, and a fault if the walk raises one; kind 0 says that it waits, the
recall of a companion's copy begun. A first compare that failed only starts the walk over (R384). -/
def State.walk (s : State) (c : Nat) (ag : XlAgent) (va : DWord) (a : XlAccess) (raced : Bool) : State × Option (Nat × Nat) :=
  let k := s.core c
  let die := coreDie c
  match k.space with
  | none => (s, some (1, 4))
  | some d =>
    let asid := rootAsid d.root
    let cached : Option XlEntry := if raced then none else (List.range 4).findSome? (fun i =>
      (s.xlWalk.get [] die).find? (fun e => e.level == i + 1 && e.part == k.part && e.slot == k.slot && e.asid == asid && e.vpn == vpnAt va (i + 1)))
    let r := match cached with
      | some e => s.walkFrom va (e.level - 1) (ptePpn e.pte) []
      | none => s.walkFrom va 4 (fieldOf d.root 43 0) []
    let done (s : State) : State := s.inc64 die 0x70018
    match r with
    | .error (0, l) => ((s.lineFree l false).1, some (0, 0))
    | .error f => (done s, some f)
    | .ok h =>
      if !ptePermits h.pte a then (done s, some (2, h.level))
      else if !d.adu && (!pteA h.pte || (accWrites a && !pteD h.pte)) then (done s, some (2, h.level))
      else match s.adWaits h (accWrites a) with
      | some l => ((s.lineFree l true).1, some (0, 0))
      | none =>
        let s := done s
        let (s, p) := s.setAD h (accWrites a)
        let s := overList s h.path (fun s x =>
          { s.bump with xlWalk := s.xlWalk.set [] die (capped 256 (Config.freeNat s.fresh) (s.xlWalk.get [] die)
            { part := k.part, slot := k.slot, asid := asid, vpn := vpnAt va x.1, level := x.1, run := 0, pte := x.2 }) })
        let e : XlEntry := { leafEntry k.part k.slot asid va h.level p with apart := h.apart }
        let drop (l : List XlEntry) : List XlEntry := l.filter (fun x => !x.covers k.part k.slot asid va)
        let i := xlCacheOf ag
        let s := s.setCore c ((s.core c).setXlCache i (drop ((s.core c).xlCache i)))
        let s := { s with xlDie := s.xlDie.set [] die (drop (s.xlDie.get [] die)) }
        (s.xlInsert c i e true, none)

/-! ## Fault records (R387) -/

/-- An access's class: read, write, execute; an atomic counts as a write (R387). -/
def accCls : XlAccess → Nat
  | .read => 0 | .write => 1 | .execute => 2 | .atomic => 1

/-- The AGENT and UNIT of a record (Table 13-7). -/
def agentCode : XlAgent → Nat × Nat
  | .coreFetch => (0, 0) | .coreData => (1, 0) | .groupFetch g => (2, g.val) | .groupData g => (3, g.val) | .stream t => (4, t.val)

/-- The ACCESS bits of a record: an atomic reads and writes (Table 13-7, R386, log 56). -/
def accBits : XlAccess → Nat
  | .read => 1 | .write => 2 | .execute => 4 | .atomic => 11

/-- A record's 32 bytes (Table 13-7). -/
def FaultRec.bytes (r : FaultRec) (core : Nat) : List Byte :=
  leBytes 4 r.seq.toNat ++ leBytes 2 core ++ leBytes 1 r.slot ++ leBytes 1 r.kind ++ leBytes 8 r.va.toNat ++ leBytes 1 (agentCode r.agent).1
    ++ leBytes 1 (accBits r.access) ++ leBytes 1 (agentCode r.agent).2 ++ leBytes 1 r.level ++ List.replicate 12 0

/-- The outstanding record a faulting access waits on: same slot, 4 KiB page and class (R387). -/
def Core.matchRec (k : Core) (va : DWord) (a : XlAccess) : Option FaultRec :=
  k.records.find? (fun r => r.slot == k.slot && r.va.toNat / 4096 == va.toNat / 4096 && accCls r.access == accCls a)

/-- Posts a record for a resolvable fault, or finds the one it waits on; none when 32 are outstanding (R387). -/
def State.postRecord (s : State) (c : Nat) (ag : XlAgent) (va : DWord) (a : XlAccess) (kind level : Nat) : State × Option Word :=
  let k := s.core c
  match k.matchRec va a with
  | some r => (s, some r.seq)
  | none =>
    if 32 ≤ k.records.length then (s, none)
    else
      let seq := s.xlSeq.get 0 k.part
      let r : FaultRec := { seq := seq, slot := k.slot, kind := kind, va := va, agent := ag, access := a, level := level }
      let s := { s with xlSeq := s.xlSeq.set 0 k.part (seq + 1) }
      let s := s.setCore c { k with records := k.records ++ [r] }
      let s := (s.inc64 (coreDie c) 0x70020).inc (coreDie c) (coreOff c 0xF00)
      let cq := (k.space.map (·.faultCq)).getD 0
      (s.cqPush k.part cq (cqEntry (r.bytes c) 0 0 0 0 0 2 s.now), some seq)

/-- Discards from a list every entry that covers a page of a range of addresses (R385). -/
def dropRange (l : List XlEntry) (part slot : Nat) (lo hi : Nat) : List XlEntry :=
  l.filter (fun e =>
    let size := 2 ^ (12 + 9 * e.level)
    let first := e.vpn / 2 ^ e.run * 2 ^ e.run * size
    !(e.part == part && e.slot == slot && decide (first < hi) && decide (lo < first + 2 ^ e.run * size)))

/-- Discards from every translation cache of a set of cores, and their dies', the entries for a range of addresses (R385, R388). -/
def State.xlDiscard (s : State) (cores : List Nat) (part slot lo hi : Nat) : State :=
  let s := overList s cores (fun s c => s.modCore c (fun k => { k with
    xlI := dropRange k.xlI part slot lo hi, xlD := dropRange k.xlD part slot lo hi, xlS := dropRange k.xlS part slot lo hi }))
  overList s ((cores.map coreDie).dedup) (fun s d => { s with
    xlDie := s.xlDie.set [] d (dropRange (s.xlDie.get [] d) part slot lo hi),
    xlWalk := s.xlWalk.set [] d (dropRange (s.xlWalk.get [] d) part slot lo hi) })

end Sys2Proof.Machine
end

