-- ==== Sys2Proof/Machine/Fabric.lean ====
section
/-! DEFINITION. The Dersil fabric: ports (R445 to R448, R460), routes (R453 to R457), and remote memory (R458, R459). Back Stair notices
have the numbers 5 node-down, 6 node-up, 7 collective abort, 8 thermal hold, 9 thermal release, 10 fault, 11 route epoch (log 23). -/

namespace Sys2Proof.Machine

/-- Whether a message's node number is this node's. -/
def State.isSelf (s : State) (n : Nat) : Bool := s.nodeId == some n

/-- The partition that owns a fabric port (R66). -/
def State.fabPart (s : State) (p : Nat) : Nat := s.fld (fabReg p).1 (fabReg p).2 18 16

/-- A route table by its epoch, where one is loaded. -/
def State.routeTable (s : State) (e : Bool) : Option RouteTable := (s.tables.cells.find? (fun c => c.1 == b2n e)).map (·.2)

/-- The ports of a group that are ACTIVE and owned by a partition, ascending (R455). -/
def State.usablePorts (s : State) (mask : DWord) (part : Nat) : List FabPort :=
  (List.finRange 64).filter (fun p => mask.getLsbD p.val && s.fabState p.val == 2 && s.fabPart p.val == part)

/-- The route of a message: the usable ports of the primary group, else of the alternate, and whether the group is a dateline (R455). -/
def State.routePorts (s : State) (t : RouteTable) (dst part : Nat) : Option (List FabPort × Bool) :=
  match t.entries[dst]? with
  | none => none
  | some e =>
    if !e.getLsbD 31 then none
    else
      let pri := s.usablePorts (t.groups.getD (bits e.toNat 29 26) 0) part
      let alt := s.usablePorts (t.groups.getD (bits e.toNat 25 22) 0) part
      if !pri.isEmpty then some (pri, e.getLsbD 21)
      else if e.getLsbD 30 && !alt.isEmpty then some (alt, e.getLsbD 20) else none

/-- The flow of a message: its line, or the collective and chunk (R455). -/
def fabFlow (m : FabMsg) : Nat := if m.opcode.toNat < 0x10 ∨ 0x18 ≤ m.opcode.toNat then bits m.addr 41 7 else Nat.xor (m.addr / 1024) m.aux.toNat

/-- The port a message takes (R455). -/
def State.choosePort (s : State) (m : FabMsg) (part : Nat) : Option (FabPort × Bool) :=
  match (s.routeTable m.epoch).bind (fun t => s.routePorts t m.dst part) with
  | none => none
  | some (ps, dl) =>
    let k := fold (BitVec.ofNat 64 m.src ^^^ (BitVec.ofNat 64 m.dst <<< 14) ^^^ BitVec.ofNat 64 (fabFlow m)) % ps.length
    ps[k]?.map (fun p => (p, dl))

/-- Reports "fabric route lost" at a fabric I/O die (R455). -/
def State.fabRouteLost (s : State) (die dst : Nat) : State := s.noteFault (mkFault (dieOf die) 0x43 9 .none 0 (BitVec.ofNat 64 dst) 0)

/-- A fabric message of this node. -/
def State.fabMsg (s : State) (opcode : Byte) (dst : Nat) (tag : BitVec 16) (addr : Nat) (aux : BitVec 22) : FabMsg :=
  { opcode := opcode, epoch := s.epoch, ttl := 63, dst := dst, src := s.nodeId.getD 0, status := 0, poison := false, cls := false, tag := tag,
    addr := addr, aux := aux, mask := 0, data := [] }

/-- Sends a message of this node for a partition; none where no port remains (R455, R456). -/
def State.fabSend (s : State) (m : FabMsg) (part : Nat) : Option State :=
  (s.choosePort m part).map (fun r => s.send (.fabric r.1 { m with cls := r.2 }))

/-- Sends an answer, which is lost with its route. -/
def State.fabReply (s : State) (m : FabMsg) (part : Nat) : State := (s.fabSend m part).getD (s.fabRouteLost 84 m.dst)

/-- The message that answers a request (R458). -/
def State.replyTo (s : State) (m : FabMsg) (opcode : Byte) (status : Nat) (data : List Byte) (poison : Bool) : FabMsg :=
  { s.fabMsg opcode m.src m.tag m.addr m.aux with status := status, data := data, poison := poison }

/-- The port of a Back Stair notice to a node: of its route's groups whichever ACTIVE port comes first, else the first ACTIVE port (R450, R456). -/
def State.noticePort (s : State) (epoch : Bool) (dst : Nat) : Option FabPort :=
  let up (p : FabPort) : Bool := s.fabState p.val == 2
  let all := (List.finRange 64).filter up
  let routed := match (s.routeTable epoch).bind (fun t => t.entries[dst]?.map (fun e => (t, e))) with
    | some (t, e) =>
      if e.getLsbD 31 then
        all.filter (fun p => (t.groups.getD (bits e.toNat 29 26) 0).getLsbD p.val) ++
          (if e.getLsbD 30 then all.filter (fun p => (t.groups.getD (bits e.toNat 25 22) 0).getLsbD p.val) else [])
      else []
    | none => []
  (routed ++ all).head?

/-- A node that is not a message's destination passes it on: TTL falls by one and at zero it is discarded, as is a message whose epoch names
a table already replaced; with no route RNack ROUTE goes to its source (R454 to R457). -/
def State.fabForward (s : State) (p : FabPort) (m : FabMsg) : State :=
  let die := (fabReg p.val).1
  let m := { m with ttl := m.ttl - 1 }
  if m.ttl = 0 ∨ (s.routeTable m.epoch).isNone then s.inc64 die 0x90808
  else match s.choosePort m (s.fabPart p.val) with
    | some (q, dl) => s.send (.fabric q { m with cls := m.cls || dl })
    | none =>
      let s := s.fabRouteLost die m.dst
      if m.opcode = 6 then s else s.fabReply (s.replyTo m 6 4 [] false) (s.fabPart p.val)

/-- A message that has arrived whole and has no command of its own at a node it passes through, a collective message or a notice, goes on its way
there (R451, R455 to R457); every other message acts by its own command. -/
def State.fabPass (s : State) (p : FabPort) (b : List Byte) : State :=
  let m := fabOfSlots b
  let op := m.opcode.toNat
  if s.isSelf m.dst then s
  else if op = 0x10 ∨ op = 0x11 ∨ op = 0x12 then s.fabForward p m
  else if op = 0x20 then
    let m := { m with ttl := m.ttl - 1 }
    if m.ttl = 0 then s.inc64 (fabReg p.val).1 0x90808
    else match s.noticePort m.epoch m.dst with
      | some q => s.send (.fabric q m)
      | none => s
  else s

/-- Runs `f` on a message that has reached its node, at a port that carries traffic; else passes it on. -/
def fabGate (p : FabPort) (m : FabMsg) (s : State) (f : State → State) : Outcome :=
  gate s (fun s =>
    if s.fabState p.val ≠ 2 ∧ s.fabState p.val ≠ 3 then s
    else if s.isSelf m.dst then f s else s.fabForward p m)

/-! ## Ports -/

/-- Fences a fabric port and reports it (R446, R448). -/
def State.fabPortFence (s : State) (p : FabPort) (source : Byte) : State :=
  s.leafDetect (mkFault (dieOf (fabReg p.val).1) source (p.val % 8) .port (p.val % 8) 0 7)

/-- The version token this node sends on a port (R460). -/
def State.sendToken (s : State) (p : FabPort) : State :=
  s.send (.linkFlit (.fabric p) {
    seq := 0, ack := 0, ftype := 4, crdClass := 0, crdSlots := 0, slots := padTo 240 ([2, 1] ++ leBytes 2 (s.nodeId.getD 0x3FFF) ++ leBytes 1 p.val) })

/-- FABRIC_PORT_TRAIN (R446, R460): an enabled port that is down or training takes eight lanes or a whole half, at the rate the level allows,
and sends its version token; failed lanes are reported, and a port with a failed lane in both halves is fenced. The step follows SL2 (R94). -/
def execFabricPortTrain (p : FabPort) (failedLanes : BitVec 8) (s : State) : Outcome :=
  gate s (fun s =>
    let l : LinkId := .fabric p
    let st := s.linkSt l
    let enabled := match s.flp.bind (·.fabric) with | some f => f.portEnable.getLsbD p.val | none => false
    if !enabled || s.level < 2 || !(st == 0 || st == 1) then s
    else
      let s := overList s ((List.range 8).filter (fun i => failedLanes.getLsbD i)) (fun s i =>
        s.leafDetect (mkFault (dieOf (fabReg p.val).1) 0x41 (p.val % 8) .lane (p.val % 8 * 16 + i) 0 7))
      let x := linkLanes l true (failedLanes.setWidth 16 ||| (s.link l).failed)
      if x.1 = 0 then s.fabPortFence p 0x42
      else
        let s := s.setLanes l x
        let s := s.setFld (linkReg l).1 (linkReg l).2 19 19 (b2n (decide (4 ≤ s.level)))
        (s.setLinkSt l 1).sendToken p)

/-- The credits a fabric receiver grants at link-up: the slots reserved for each virtual channel and buffer class (R449, Table 16-3). -/
def fabCredits : Map Nat := ⟨[(0, 32), (1, 32), (2, 32), (3, 32), (4, 128), (5, 128), (6, 64), (7, 64), (8, 16)]⟩

/-- Sends node-up by a port that has become ACTIVE: this node and its native version (Table 16-4). -/
def State.sendNodeUp (s : State) (p : FabPort) : State := s.sendPeer p 6 (s.nodeId.getD 0x3FFF) [2]

/-- A version token arrives (R460, Table 16-4): the lower of the two MAX_VER values, where both MIN_VER values allow it, makes the port ACTIVE, and
node-up is sent; else the port is fenced with the "fabric version" source. -/
def State.versionToken (s : State) (p : FabPort) (maxVer minVer : Nat) (node : BitVec 14) : State :=
    let l : LinkId := .fabric p
    if s.linkSt l = 1 ∧ s.fld (linkReg l).1 (linkReg l).2 23 20 ≠ 0 then
      let v := min 2 maxVer
      if v < 1 ∨ v < minVer then s.fabPortFence p 0x44
      else
        let s := s.setLink l { LinkState.reset with failed := (s.link l).failed, high := (s.link l).high, credits := fabCredits }
        let s := (s.setFld (linkReg l).1 (linkReg l).2 27 24 v).setFld (linkReg l).1 (linkReg l).2 13 0 node.toNat
        ((s.setLinkSt l 2).noteServed .port (1000 + p.val)).sendNodeUp p
    else s

/-- VERSION_TOKEN (R460). -/
def execVersionToken (p : FabPort) (maxVer minVer : Nat) (node : BitVec 14) (s : State) : Outcome :=
  gate s (fun s => s.versionToken p maxVer minVer node)

/-- FABRIC_RETRAIN_DONE (R448, R451): the port is ACTIVE again and sends node-up; one that fails its retrain, or has no half without a failed lane
(R446), is fenced. -/
def execFabricRetrainDone (p : FabPort) (ok : Bool) (s : State) : Outcome :=
  gate s (fun s =>
    if s.linkSt (.fabric p) = 3 then
      (if ok && s.lanes (.fabric p) != 0 then (s.resumeLink (.fabric p)).sendNodeUp p else s.fabPortFence p 0x42)
    else s)

/-- Passes a notice about a node on by every other ACTIVE port, so that it reaches the nodes hops away (R451; log 23). -/
def State.passOn (s : State) (p : FabPort) (f : State → FabPort → State) : State :=
  overList s (List.finRange 64) (fun s q => if q ≠ p ∧ s.fabState q.val = 2 then f s q else s)

/-- NODE_UP (R451): a port's peer node and its native version; news is passed on. -/
def execNodeUp (p : FabPort) (node version : Nat) (s : State) : Outcome :=
  gate s (fun s =>
    let known := s.nodesUp.any (fun x => x.2 == (node, version)) && !s.nodesDown.contains node
    let s := s.setFld (fabReg p.val).1 (fabReg p.val).2 13 0 node
    let s := { s with
      nodesDown := s.nodesDown.filter (· != node),
      nodesUp := s.nodesUp.filter (fun x => !(x.1 == p.val && x.2.1 == node)) ++ [(p.val, node, version)] }
    if known then s else s.passOn p (fun s q => s.sendPeer q 6 node [BitVec.ofNat 8 version]))

/-- ROUTE_EPOCH (R451, R454): another node has made a route table active; each node routes by the epoch in the message, so nothing the spec
names changes here. -/
def execRouteEpoch (_p : FabPort) (_node : Nat) (_epoch : Bool) (s : State) : Outcome := .next s

/-- FABRIC_FAULT_NOTICE (R451): a notice of another node's fault; the spec gives it no place in this node's log. -/
def execFabricFaultNotice (_p : FabPort) (_node : Nat) (_body : List Byte) (s : State) : Outcome := .next s

/-- A route commit (R454): the staged table is checked; on success all eight dies make it active and a route-epoch notice is sent, else ERR is
set and nothing changes. -/
def State.routeCommit (s : State) : State :=
  match s.flp.bind (·.fabric) with
  | none => s.setFld 84 0x90810 29 29 1
  | some f =>
    let w (i : Nat) : Word := s.rd 84 (0xB0000 + 4 * i)
    let n := (w 32).toNat
    let t : RouteTable := {
      groups := (List.range 16).map (fun g => w (2 * g + 1) ++ w (2 * g)), entries := (List.range (min n 12289)).map (fun d => w (34 + d)) }
    if tableOk t f.nodeId f.portEnable then
      let e := !s.epoch
      let s := overList s (List.range 8) (fun s i => s.setFld (84 + i) 0x90800 16 16 (b2n e))
      let s := { s with tables := s.tables.set { groups := [], entries := [] } (b2n e) t }
      let s := s.incFld 84 0x90810 15 0
      overList s (List.finRange 64) (fun s p => if s.fabState p.val = 2 then s.sendPeer p 11 (s.nodeId.getD 0x3FFF) [BitVec.ofNat 8 (b2n e)] else s)
    else s.setFld 84 0x90810 29 29 1

/-- ROUTE_COMMIT (R454). -/
def execRouteCommit (s : State) : Outcome := gate s State.routeCommit

/-! ## Remote memory: the target -/

/-- The local address and length of a remote access: ADDR with the AUX of NcRd (Table 16-5). -/
def fabRange (m : FabMsg) : Nat × Nat := (m.addr / 64 * 64 + bits m.aux.toNat 5 0, bits m.aux.toNat 13 6 + 1)

/-- Checks a remote access at its target: windows of the partition that owns the arrival port, no CSR address, memory in service; answers
its physical place or the STATUS of RNack (R458). -/
def State.remoteCheck (s : State) (p : FabPort) (a n : Nat) (write atomic : Bool) : Except Nat Nat :=
  if 0x30000000000 ≤ a then .error 1
  else if 128 < a % 128 + n then .error 1
  else match s.windowOf (s.fabPart p.val) a write atomic, s.place a with
    | some _, some ph => if s.inService ph && s.setReady a then .ok ph else .error 1
    | _, _ => .error 2

/-- RRD (R458): performed as the read of an agent without a cache; a line with an open transaction is read later (log 20). -/
def execRrd (p : FabPort) (m : FabMsg) (s : State) : Outcome :=
  fabGate p m s (fun s =>
    let (a, n) := fabRange m
    let part := s.fabPart p.val
    match s.remoteCheck p a n false false with
    | .error e => s.fabReply (s.replyTo m 6 e [] false) part
    | .ok ph =>
      let (s, free) := s.lineFree (ph / 128) false
      if !free then s
      else
        let (s, d, bad) := s.readPhys ph n (dieStack (fabReg p.val).1)
        s.fabReply (s.replyTo m 4 0 d bad) part)

/-- RWR (R458): performed as WrF or WrP, then acknowledged. -/
def execRwr (p : FabPort) (m : FabMsg) (s : State) : Outcome :=
  fabGate p m s (fun s =>
    let (a, n) := fabRange m
    let part := s.fabPart p.val
    match s.remoteCheck p a n true false with
    | .error e => s.fabReply (s.replyTo m 6 e [] false) part
    | .ok ph =>
      let (s, free) := s.lineFree (ph / 128) true
      if !free then s
      else
        let s := if m.mask = 0 then s.writePhys ph (padTo n m.data) m.poison else s.writeLine (ph / 128) m.mask m.data m.poison
        s.fabReply (s.replyTo m 5 0 [] false) part)

/-- The atomic an AUX field names (Table 15-5): operation, width code and byte offset. -/
def auxAtom (aux : Nat) : Option (AtomOp × Nat × Nat) :=
  ([AtomOp.swap, .add, .and, .or, .xor, .minS, .maxS, .minU, .maxU, .fadd, .cas][bits aux 3 0]?).bind (fun op =>
    let w := bits aux 5 4
    if w < 3 then some (op, w, bits aux 11 6) else none)

/-- Serves an atomic from another node: at the memory-side atomic unit or, on a shared-bias page, at the home; a poisoned line is not changed
(R459). -/
def State.serveAtom (s : State) (p : FabPort) (m : FabMsg) : State :=
  let part := s.fabPart p.val
  match auxAtom m.aux.toNat with
  | none => s.fabReply (s.replyTo m 6 1 [] false) part
  | some (op, w, off) =>
    let a := m.addr / 64 * 64 + off
    let n := atomBits w / 8
    if a % n ≠ 0 then s.fabReply (s.replyTo m 6 1 [] false) part
    else match s.remoteCheck p a n true true with
      | .error e => s.fabReply (s.replyTo m 6 e [] false) part
      | .ok ph =>
        let (s, free) := s.lineFree (ph / 128) true
        if !free then s
        else match s.poolAtom (ph / 128) op w (ph % 128) (BitVec.ofNat 128 (leAt m.data 0 16)) (BitVec.ofNat 128 (leAt m.data 16 16)) with
        | none => s
        | some (s, none) => s.fabReply (s.replyTo m 4 0 [] true) part
        | some (s, some old) => s.fabReply (s.replyTo m 4 0 (leBytes 16 old) false) part

/-- RATOM (R459). -/
def execRatom (p : FabPort) (m : FabMsg) (s : State) : Outcome := fabGate p m s (fun s => s.serveAtom p m)

/-! ## Remote memory: the source -/

/-- A remote access by its tag. -/
def State.remote (s : State) (tag : Nat) : Option Remote := s.remotes.get none tag

/-- A remote access ends in "node unreachable" (R305, R458): a read or atomic hands the refusal to its agent, as does a write of a collective; another
write ends the stream instruction or the kernel of the core that made it, and is reported to a hart. -/
def State.failRemote (s : State) (tag : Nat) : State :=
  match s.remote tag with
  | none => s
  | some r =>
    if r.kind = 1 then
      let gone := { s with remotes := s.remotes.del tag }
      match r.agent with
      | .core c (.stream t) => gone.modCore c (fun k => k.failWrite t.val r.cursor 0x118)
      | .core c _ => gone.endPart c 0x118 .none
      | .hart h => gone.send (.contained (hartDie h * 512 + h % 64) 0x118)
      | .queue _ => { s with remotes := s.remotes.set none tag (some { r with reply := some none }) }
    else { s with remotes := s.remotes.set none tag (some { r with reply := some none }) }

/-- Asks for a remote access: a tag is taken and the request sent; without a route it has failed (R455, R458). -/
def State.askRemote (s : State) (r : Remote) (part : Nat) (opcode : Byte) (aux : BitVec 22) (data : List Byte) (mask : BitVec 128)
    (poison : Bool := false) : State :=
  let tag := s.nextTag
  let s := { s with nextTag := (tag + 1) % 0xC000, remotes := s.remotes.set none tag (some { r with reply := none }) }
  let m := { s.fabMsg opcode r.node (BitVec.ofNat 16 tag) r.addr aux with data := data, mask := mask, poison := poison }
  if s.nodesDown.contains r.node then s.failRemote tag
  else match s.fabSend m part with
    | some s => s
    | none => (s.fabRouteLost 84 r.node).failRemote tag

/-- The AUX of an access of `n` bytes at an address. -/
def ncAux (a n : Nat) : BitVec 22 := BitVec.ofNat 22 (a % 64 + (n - 1) * 64)

/-- The outstanding or answered remote access an agent has for an element of its instruction. -/
def State.findRemote (s : State) (ag : RemAgent) (kind node addr index : Nat) : Option (Nat × Remote) :=
  s.remotes.cells.findSome? (fun c =>
    match c.2 with
    | some r => if r.agent == ag && r.kind == kind && r.node == node && r.addr == addr && r.index == index then some (c.1, r) else none
    | none => none)

/-- The state of a value asked of another place: not here yet, refused, or here. -/
inductive Got where
  | waits (s : State)
  | refused (s : State)
  | got (s : State) (d : List Byte) (poison : Bool)

/-- Reads from a remote node: the first try asks, later ones take the answer (R458). -/
def State.readRemote (s : State) (ag : RemAgent) (part node a n index : Nat) : Got :=
  match s.findRemote ag 0 node a index with
  | some (tag, r) =>
    (match r.reply with
    | none => .waits s
    | some none => .refused { s with remotes := s.remotes.del tag }
    | some (some d) => .got { s with remotes := s.remotes.del tag } d.1 d.2)
  | none =>
    let r : Remote := { node := node, kind := 0, agent := ag, addr := a, size := n, index := index, reply := none }
    .waits (s.askRemote r part 1 (ncAux a n) [] 0)

/-- An atomic at a remote node, as a read that asks for one (R459). -/
def State.atomRemote (s : State) (ag : RemAgent) (part node a index : Nat) (op width : Nat) (operand compare : BitVec 128) : Got :=
  match s.findRemote ag 2 node a index with
  | some (tag, r) =>
    (match r.reply with
    | none => .waits s
    | some none => .refused { s with remotes := s.remotes.del tag }
    | some (some d) => .got { s with remotes := s.remotes.del tag } d.1 d.2)
  | none =>
    let r : Remote := { node := node, kind := 2, agent := ag, addr := a, size := 0, index := index, reply := none }
    .waits (s.askRemote r part 3 (BitVec.ofNat 22 (op + width * 16 + a % 64 * 64)) (leBytes 16 operand.toNat ++ leBytes 16 compare.toNat) 0)

/-- Writes to a remote node: sent, and outstanding until RAck (R458). -/
def State.writeRemote (s : State) (ag : RemAgent) (part node a : Nat) (bytes : List Byte) (poison : Bool := false) (chunk : Nat := 0) : State :=
  s.askRemote { node := node, kind := 1, agent := ag, addr := a, size := bytes.length, index := 0, reply := none, chunk := chunk, cursor := s.doingOf ag } part 2 (ncAux a bytes.length) bytes 0 poison

/-- Whether a core has remote accesses that are not performed yet. -/
def State.remoteBusy (s : State) (c : Nat) : Bool :=
  s.remotes.cells.any (fun x => match x.2 with | some r => (match r.agent with | .core d _ => d == c && r.reply.isNone | _ => false) | none => false)

/-- RRSP (R458): the data reaches the agent that asked. -/
def execRrsp (p : FabPort) (m : FabMsg) (s : State) : Outcome :=
  fabGate p m s (fun s =>
    match s.remote m.tag.toNat with
    | none => s
    | some r => if r.reply.isNone && r.kind != 1 then
        { s with remotes := s.remotes.set none m.tag.toNat (some { r with reply := some (some (m.data, m.poison)) }) } else s)

/-- RACK (R458): the write is performed. -/
def execRack (p : FabPort) (m : FabMsg) (s : State) : Outcome :=
  fabGate p m s (fun s =>
    match s.remote m.tag.toNat with
    | none => s
    | some r => if r.kind = 1 then { s with remotes := s.remotes.del m.tag.toNat } else s)

end Sys2Proof.Machine
end

