-- ==== Sys2Proof/Machine/Access.lean ====
section
/-! DEFINITION. Accesses of a core's agents: its Pantry with ECC and poison (R284, R285), its L1 data cache (R230, R231), and translated
accesses to the Pool, to companion memory and to remote nodes, in two steps: a probe that may stop, then the access itself (R386). -/

namespace Sys2Proof.Machine

/-! ## The L1 data cache -/

/-- Fills a line of an L1 data cache; a full set drops a line, chosen freely (R343; log 17). -/
def State.l1Fill (s : State) (c l : Nat) (d : List Byte) : State :=
  let k := s.core c
  let same := (k.l1d.cells.filter (fun x => x.1 % 256 == l % 256 && x.1 != l)).map (·.1)
  if same.length < 8 then s.setCore c { k with l1d := k.l1d.set [] l d }
  else (s.setCore c { k with l1d := (k.l1d.del (same.getD (Config.freeNat s.fresh % same.length) 0)).set [] l d }).bump

/-- The core's own stores update a line its L1 holds (R230). -/
def Core.l1Store (k : Core) (l off : Nat) (b : List Byte) : Core :=
  match k.l1d.cells.find? (fun x => x.1 == l) with
  | some x => { k with l1d := k.l1d.set [] l (x.2.take off ++ b ++ x.2.drop (off + b.length)) }
  | none => k

/-! ## Probing an access -/

/-- What stops an access: a walk is wanted, a translation fault, a contained error, or it must wait. -/
inductive AccStop where
  | walk (va : DWord) (a : XlAccess)
  | fault (kind level : Nat) (va : DWord) (a : XlAccess)
  | error (code : Nat)
  | later
deriving DecidableEq, Repr

/-- Where a probed access goes. -/
inductive Spot where
  | pool (ph pbmt : Nat) (noAlloc : Bool)
  | host (addr pbmt : Nat)
  | remote (node addr : Nat)
deriving DecidableEq, Repr

/-- What an access does at a remote node. -/
inductive RemOp where
  | read
  | write
  | atom (op width : Nat) (operand compare : BitVec 128)
deriving DecidableEq, Repr

/-- Whether a stream instruction may not have `m` further line requests outstanding: 512 of its core, or 256 of its own (R297). -/
def State.strLacks (s : State) (m : Nat) : RemAgent → Bool
  | .core c (.stream n) => decide (512 < s.strOut c none + m) || decide (256 < s.strOut c (some n) + m)
  | _ => false
/-- Whether it may have none further. -/
def State.strFull (s : State) (ag : RemAgent) : Bool := s.strLacks 1 ag

/-- Whether a remote read or atomic has its answer; the first try asks for it. A stream instruction asks while it may have a request more. -/
def State.remoteReady (s : State) (ag : RemAgent) (part node a n ix : Nat) (op : RemOp) : State × Except AccStop Unit :=
  let kind := match op with | .read => 0 | .write => 1 | .atom _ _ _ _ => 2
  if kind = 1 then (s, if s.strFull ag then .error .later else .ok ())
  else match s.findRemote ag kind node a ix with
    | some (tag, r) =>
      (match r.reply with
      | none => (s, .error .later)
      | some none => ({ s with remotes := s.remotes.del tag }, .error (.error 0x118))
      | some (some _) => (s, .ok ()))
    | none =>
      if s.strFull ag then (s, .error .later)
      else match (match op with
        | .atom o w x y => s.atomRemote ag part node a ix o w x y
        | _ => s.readRemote ag part node a n ix) with
      | .waits s => (s, .error .later)
      | .refused s => (s, .error (.error 0x118))
      | .got s _ _ => (s, .error .later)

/-- The remote agent of a core's agent. -/
def remAgent (c : Nat) (ag : XlAgent) : RemAgent := .core c ag

/-- The subunit of a core's agent (Table 17-1): the control core, the stream engine or the thread groups. -/
def agentSub : XlAgent → Nat
  | .coreFetch | .coreData => 0
  | .groupFetch _ | .groupData _ => 3
  | .stream _ => 4

/-- Whether an agent of a core has writes to remote nodes or companion memory that are not performed yet. -/
def State.writesOut (s : State) (ag : RemAgent) : Bool :=
  s.remotes.cells.any (fun x => match x.2 with | some r => r.agent == ag && r.kind == 1 && r.reply.isNone | none => false)
    || s.hostWrites.any (fun w => w.agent == ag)

/-- The physical line number of a companion address (R353). -/
def hostLine (a : Nat) : Nat := 2 ^ 45 + a / 128

/-- Probes one access of `n` bytes that lies in one line: translated and checked (R386), its memory in service (R90), its line free, its
companion reachable and no write of the agent to the line open (R356), its remote answer here. An access to an IO page waits until the agent's earlier writes are performed (R380). -/
def State.probe (s : State) (c : Nat) (ag : XlAgent) (va : DWord) (n : Nat) (a : XlAccess) (op : RemOp) (ix : Nat) : State × Except AccStop Spot :=
  let (s, r) := s.xlate c ag va a
  match r with
  | .miss => (s, .error (.walk va a))
  | .fault k l => (s, .error (.fault k l va a))
  | .ok t =>
    let part := (s.core c).part
    if t.pbmt = 2 && s.writesOut (remAgent c ag) then (s, .error .later)
    else match t.addr with
    | .invalid => (s, .error (.fault 6 0 va a))
    | .remote node y =>
      match s.remoteReady (remAgent c ag) part node y n ix op with
      | (s, .ok _) => (s, .ok (.remote node y))
      | (s, .error e) => (s, .error e)
    | .here y =>
      if t.host then
        let busy := s.hostWrites.any (fun w => w.sub == coreAgent c (agentSub ag) && w.line == hostLine y)
        (s, if !s.hostReachable part then .error (.error 0x117)
            else if (match op with | .write => false | _ => busy) then .error .later
            else if (match op with | .write => true | _ => false) && s.strFull (remAgent c ag) then .error .later else .ok (.host y t.pbmt))
      else match s.place y with
        | none => (s, .error (.fault 5 0 va a))
        | some ph =>
          if !s.inService ph || !s.setReady y then (s, .error (.error (s.notReady ph)))
          else
            let (s, free) := s.lineFree (ph / 128) (match op with | .read => false | _ => true)
            (s, if free then .ok (.pool ph t.pbmt t.noAlloc) else .error .later)

/-! ## Performing an access -/

/-- A coherence message of a core for a companion line; no other in flight has its transaction number (R356). -/
def State.coreMsg (s : State) (c sub line : Nat) (data : List Byte) (mask : BitVec 128) : CohMsg :=
  { line := line, agent := coreAgent c sub, txn := freshTxn ((s.hostWrites.filter (fun x => x.sub == coreAgent c sub)).map (·.txn)) s.hostTxn, gseq := 0, data := data, mask := mask, poison := false, grant := .I, final := false,
    superseded := false, noData := false, starve := 0, sender := 0, master := true }
/-- The queue whose command launched the kernel that a core runs (R442). -/
def State.coreQueue (s : State) (c : Nat) : Option Nat := (s.launches.cells.find? (fun x => x.2.cores.contains c)).map (fun x => x.2.sq)
/-- The number of the next transaction of a core for a companion line. -/
def State.nextHostTxn (s : State) : State := { s with hostTxn := s.hostTxn + 1 }

/-- Reads companion bytes: from the base-die cache of the core's stack, from a holder in the package, else what the companion answers (R347, R420). A
read that may allocate is the base-die cache's RdS: it takes the whole line, of which the companion's 128 bytes come from `ext`, and keeps it; any
other is an RdNA of its bytes alone, and an IO access bypasses every cache (R346, R380). Answers the bytes, their poison and what is left of `ext`. -/
def State.hostRead (s : State) (c sub a pbmt n : Nat) (na : Bool) (ext : List Byte) : State × List Byte × Bool × List Byte :=
  let l := hostLine a
  let k := coreDie c
  let cut (d : List Byte) : List Byte := (d.drop (a % 128)).take n
  let alone (s : State) : State × List Byte × Bool × List Byte :=
    ((s.hostRequest .rdNA (s.coreMsg c sub l [] 0)).nextHostTxn, padTo n (ext.take n), false, ext.drop n)
  if pbmt = 2 ∨ s.fencedU.contains (.cacheAgent, k) then alone s
  else match (s.baseCache k).lines.cells.find? (fun y => y.1 == l) with
  | some y => (s.inc64 (36 + k) 0x50008, cut y.2, false, ext)
  | none =>
    let s := s.inc64 (36 + k) 0x50010
    let keep := pbmt == 0 && !na
    let p := s.partPort (s.core c).part
    let holder : Option (List Byte × Bool) :=
      match s.l2s.cells.findSome? (fun x => (x.2.lines.cells.find? (fun y => y.1 == l)).map (·.2)) with
      | some x => some (x.data, x.poison)
      | none => (s.bases.cells.findSome? (fun x => (x.2.lines.cells.find? (fun y => y.1 == l)).map (·.2))).map (fun d => (d, false))
    match holder with
    | some (d, bad) =>
      (if keep && !bad then ((s.ownerToShared l).hostNote p l (k :: (s.hostHolders p l).filter (· != k))).basePut k l d else s, cut d, bad, ext)
    | none =>
      if keep then
        let d := padTo 128 (ext.take 128)
        let m : CohMsg := { s.coreMsg c sub l [] 0 with agent := k, sender := k, master := false, txn := freshTxn ((s.wantsOf k).map (·.msg.txn)) s.hostTxn }
        let s := ((s.hostWay p l).hostNote p l (k :: s.hostHolders p l)).sendHost p 1 m
        (((s.nextHostTxn).basePut k l d).sendHost p 0x13 m, cut d, false, ext.drop 128)
      else alone s

/-- Writes companion bytes: every device copy is invalidated and the write goes to the companion (R420). -/
def State.hostStore (s : State) (c sub : Nat) (ag : XlAgent) (a : Nat) (b : List Byte) (poison : Bool := false) (chunk : Nat := 0) : State :=
  s.hostPut { agent := remAgent c ag, part := (s.core c).part, sub := coreAgent c sub, line := hostLine a, txn := 0, chunk := chunk, held := none,
              queue := s.coreQueue c, cursor := s.doingOf (remAgent c ag) }
    { s.coreMsg c sub (hostLine a) (List.replicate (a % 128) 0 ++ b) (runMask (a % 128) b.length) with poison := poison }

/-- The bytes a probed read delivers, their poison, and what is left of the companion's bytes. `l1` says that the L1 data cache may serve it; `sub` is the subunit that reads, `na`
that nothing is to be allocated. -/
def State.readSpot (s : State) (c sub : Nat) (ag : XlAgent) (sp : Spot) (n ix : Nat) (l1 na : Bool) (ext : List Byte) :
    State × List Byte × Bool × List Byte :=
  match sp with
  | .host a pbmt => s.hostRead c sub a pbmt n na ext
  | .remote node a =>
    (match s.readRemote (remAgent c ag) (s.core c).part node a n ix with
    | .got s d p => (s, padTo n d, p, ext)
    | .waits s => (s, [], true, ext)
    | .refused s => (s, [], true, ext))
  | .pool ph pbmt noAlloc =>
    let l := ph / 128
    let cut (d : List Byte) : List Byte := (d.drop (ph % 128)).take n
    let l1 := l1 && pbmt == 0
    match (if l1 then (s.core c).l1d.cells.find? (fun x => x.1 == l) else none) with
    | some x => (s, cut x.2, false, ext)
    | none =>
      let r := if pbmt = 2 then s.readLine l (coreDie c) else (s.baseRead (coreDie c) l (na || noAlloc || pbmt != 0)).getD (s.readLine l (coreDie c))
      let s := if l1 && !r.2.2 then r.1.l1Fill c l r.2.1 else r.1
      (s, cut r.2.1, r.2.2, ext)

/-- Performs a probed write (R231, R347). A store of the control core or a group updates a line of the core's L1, but for one to an NC or IO page,
which bypasses it; a stream's write does not (R124, R230, R380). An IO store bypasses the base-die cache. -/
def State.writeSpot (s : State) (c sub : Nat) (ag : XlAgent) (sp : Spot) (b : List Byte) (poison : Bool := false) (chunk : Nat := 0) : State :=
  match sp with
  | .host a _ => s.hostStore c sub ag a b poison chunk
  | .remote node a => s.writeRemote (remAgent c ag) (s.core c).part node a b poison chunk
  | .pool ph pbmt _ =>
    let l := ph / 128
    let o := ph % 128
    let m := runMask o b.length
    let d := List.replicate o 0 ++ b
    let s := if pbmt = 2 then s.writeLine l m d poison else (s.baseWrite (coreDie c) l m d poison).getD (s.writeLine l m d poison)
    let own : Bool := match ag with | .stream _ => false | _ => pbmt == 0
    if own then s.modCore c (fun k => k.l1Store l o b) else s

/-- Performs a probed atomic: at the memory-side atomic unit, the home, the companion or the remote node (R231, R366, R459). Answers the old
value, or none where poison stopped it; the line leaves the L1 data cache. -/
def State.atomSpot (s : State) (c sub : Nat) (ag : XlAgent) (sp : Spot) (op : AtomOp) (opn width : Nat) (operand compare : BitVec 128) (ix : Nat)
    (ext : List Byte) : State × Option Nat :=
  match sp with
  | .host a _ =>
    let m := s.coreMsg c sub (hostLine a) (leBytes 16 operand.toNat ++ leBytes 16 compare.toNat) 0
    ((s.hostRequest (.atom op width (a % 128) operand compare) m).nextHostTxn, some (leAt ext 0 (atomBits width / 8)))
  | .remote node a =>
    (match s.atomRemote (remAgent c ag) (s.core c).part node a ix opn width operand compare with
    | .got s d p => (s, if p then none else some (leAt d 0 (atomBits width / 8)))
    | .waits s => (s, none)
    | .refused s => (s, none))
  | .pool ph _ _ =>
    let l := ph / 128
    let s := s.modCore c (fun k => { k with l1d := k.l1d.del l })
    match s.poolAtom l op width (ph % 128) operand compare with
    | some r => r
    | none =>
      let d := s.lineNow l
      if d.2 then (s, none)
      else
        let r := atomLine d.1 op width (ph % 128) operand compare
        (s.writeLine l fullMask r.1 false, some r.2)

/-- Probes a list of accesses, each with its index and length, in order: the places, or the first stop. -/
def State.probeAll (s : State) (c : Nat) (ag : XlAgent) (a : XlAccess) (xs : List (Nat × DWord × Nat × RemOp)) :
    State × Except AccStop (List (Nat × DWord × Nat × Spot)) :=
  xs.foldl (fun acc x =>
    let (s, r) := acc
    match r with
    | .error .later => let (s, r') := s.probe c ag x.2.1 x.2.2.1 a x.2.2.2 x.1; (s, match r' with | .error e => .error e | .ok _ => .error .later)
    | .error e => (s, .error e)
    | .ok ps =>
      match s.probe c ag x.2.1 x.2.2.1 a x.2.2.2 x.1 with
      | (s, .ok sp) => (s, .ok (ps ++ [(x.1, x.2.1, x.2.2.1, sp)]))
      | (s, .error e) => (s, .error e)) (s, .ok [])

/-- The pieces of a virtual range that lie in one line each, numbered from `ix`. -/
def vaPieces (va : DWord) (n ix : Nat) (op : RemOp) : List (Nat × DWord × Nat × RemOp) :=
  (linePieces va.toNat n (n + 1)).zipIdx.map (fun x => (ix + x.2, BitVec.ofNat 64 x.1.1, x.1.2, op))

/-- Performs probed reads in order; the companion's bytes are taken from `ext` in turn. -/
def State.readSpots (s : State) (c sub : Nat) (ag : XlAgent) (l1 na : Bool) (ext : List Byte) (ps : List (Nat × DWord × Nat × Spot)) :
    State × List Byte × Bool × List Byte :=
  ps.foldl (fun acc p =>
    let (s, d, bad, ext) := acc
    let (s, b, q, ext) := s.readSpot c sub ag p.2.2.2 p.2.2.1 p.1 l1 na ext
    (s, d ++ b, bad || q, ext)) (s, [], false, ext)

/-- Performs probed writes of consecutive bytes. -/
def State.writeSpots (s : State) (c sub : Nat) (ag : XlAgent) (b : List Byte) (ps : List (Nat × DWord × Nat × Spot)) (poison : Bool := false) (chunk : Nat := 0) : State :=
  (ps.foldl (fun (acc : State × List Byte) p => (acc.1.writeSpot c sub ag p.2.2.2 (acc.2.take p.2.2.1) poison chunk, acc.2.drop p.2.2.1)) (s, b)).1

/-- Invalidates a core's L1 caches (R114, R230). -/
def Core.inval (k : Core) : Core := { k with l1d := ⟨[]⟩, l1i := [] }

end Sys2Proof.Machine
end

