-- ==== Sys2Proof/Machine/Rv.lean ====
section
/-! DEFINITION. The RISC-V base that control cores and harts share (R111, R392): RV64IMAC instructions as the published architecture
encodes them, the expansion of compressed ones, and the integer results. -/

namespace Sys2Proof.Machine

/-- An instruction as decoded: immediates are extended, registers are numbers. `tile` is a 32-bit tile-extension word (Table 4-3), `long`
one of 64 bits, `other` a word of another extension, and `illegal` a word no extension gives a meaning. -/
inductive Rv where
  | const (rd : Nat) (v : DWord)
  | auipc (rd : Nat) (imm : DWord)
  | jal (rd : Nat) (imm : DWord)
  | jalr (rd rs1 : Nat) (imm : DWord)
  | branch (f3 rs1 rs2 : Nat) (imm : DWord)
  | load (f3 rd rs1 : Nat) (imm : DWord)
  | store (f3 rs1 rs2 : Nat) (imm : DWord)
  | opImm (word : Bool) (f3 rd rs1 : Nat) (imm : Nat)
  | op (word : Bool) (f3 f7 rd rs1 rs2 : Nat)
  | fence (pred succ : Nat)
  | fenceI
  | cbo (kind rs1 : Nat)
  | amo (f5 f3 rd rs1 rs2 : Nat)
  | system (f3 rd rs1 imm : Nat)
  | tile (custom1 : Bool) (f7 sel rs1 f3 rd : Nat)
  | long
  | other (rd rs1 rs2 : Nat)
  | illegal
deriving DecidableEq, Repr

/-- The low `n` bits of a number, sign-extended to 64 bits. -/
def sext (n v : Nat) : DWord := if bitAt v (n - 1) then BitVec.ofInt 64 ((v % 2 ^ n : Nat) - 2 ^ n : Int) else BitVec.ofNat 64 (v % 2 ^ n)
/-- A 32-bit result, sign-extended. -/
def sextW (w : Word) : DWord := w.signExtend 64

/-! ## Compressed instructions -/

/-- The 32-bit encodings compressed instructions expand to: I, S, R, B, J and U forms. -/
def encI (op f3 rd rs1 imm : Nat) : Nat := op + rd * 2 ^ 7 + f3 * 2 ^ 12 + rs1 * 2 ^ 15 + imm % 4096 * 2 ^ 20
def encS (op f3 rs1 rs2 imm : Nat) : Nat := op + bits imm 4 0 * 2 ^ 7 + f3 * 2 ^ 12 + rs1 * 2 ^ 15 + rs2 * 2 ^ 20 + bits imm 11 5 * 2 ^ 25
def encR (op f3 f7 rd rs1 rs2 : Nat) : Nat := op + rd * 2 ^ 7 + f3 * 2 ^ 12 + rs1 * 2 ^ 15 + rs2 * 2 ^ 20 + f7 * 2 ^ 25
def encB (f3 rs1 rs2 imm : Nat) : Nat :=
  0x63 + bits imm 11 11 * 2 ^ 7 + bits imm 4 1 * 2 ^ 8 + f3 * 2 ^ 12 + rs1 * 2 ^ 15 + rs2 * 2 ^ 20 + bits imm 10 5 * 2 ^ 25 + bits imm 12 12 * 2 ^ 31
def encJ (rd imm : Nat) : Nat :=
  0x6F + rd * 2 ^ 7 + bits imm 19 12 * 2 ^ 12 + bits imm 11 11 * 2 ^ 20 + bits imm 10 1 * 2 ^ 21 + bits imm 20 20 * 2 ^ 31
def encU (op rd imm : Nat) : Nat := op + rd * 2 ^ 7 + bits imm 31 12 * 2 ^ 12

/-- A signed field of `n` bits, as a number modulo 2^32. -/
def sfield (n v : Nat) : Nat := ((sext n v).setWidth 32).toNat

/-- Quadrant 0 of the compressed instructions. -/
def expandC0 (zcb : Bool) (h : Nat) : Option Nat :=
  let b := bits h
  let rd := 8 + b 4 2
  let rs := 8 + b 9 7
  let offD := b 12 10 * 8 + b 6 5 * 64
  let offW := b 12 10 * 8 + b 6 6 * 4 + b 5 5 * 64
  let half_ := b 5 5 * 2
  let byte_ := b 6 6 + b 5 5 * 2
  match b 15 13 with
  | 0 =>
    let imm := b 12 11 * 16 + b 10 7 * 64 + b 6 6 * 4 + b 5 5 * 8
    if imm = 0 then none else some (encI 0x13 0 rd 2 imm)
  | 1 => some (encI 0x07 3 rd rs offD)
  | 2 => some (encI 0x03 2 rd rs offW)
  | 3 => some (encI 0x03 3 rd rs offD)
  | 5 => some (encS 0x27 3 rs rd offD)
  | 6 => some (encS 0x23 2 rs rd offW)
  | 7 => some (encS 0x23 3 rs rd offD)
  | _ =>
    if !zcb then none
    else match b 12 10 with
      | 0 => some (encI 0x03 4 rd rs byte_)
      | 1 => some (encI 0x03 (if b 6 6 = 0 then 5 else 1) rd rs half_)
      | 2 => some (encS 0x23 0 rs rd byte_)
      | 3 => if b 6 6 = 0 then some (encS 0x23 1 rs rd half_) else none
      | _ => none

/-- Quadrant 1. -/
def expandC1 (zcb : Bool) (h : Nat) : Option Nat :=
  let b := bits h
  let rd := b 11 7
  let rs := 8 + b 9 7
  let rs2 := 8 + b 4 2
  let u6 := b 12 12 * 32 + b 6 2
  let s6 := sfield 6 u6
  let jOff := sfield 12 (b 12 12 * 2 ^ 11 + b 11 11 * 2 ^ 4 + b 10 9 * 2 ^ 8 + b 8 8 * 2 ^ 10 + b 7 7 * 2 ^ 6 + b 6 6 * 2 ^ 7 + b 5 3 * 2 + b 2 2 * 2 ^ 5)
  let bOff := sfield 9 (b 12 12 * 2 ^ 8 + b 11 10 * 2 ^ 3 + b 6 5 * 2 ^ 6 + b 4 3 * 2 + b 2 2 * 2 ^ 5)
  match b 15 13 with
  | 0 => some (encI 0x13 0 rd rd s6)
  | 1 => if rd = 0 then none else some (encI 0x1B 0 rd rd s6)
  | 2 => some (encI 0x13 0 rd 0 s6)
  | 3 =>
    if u6 = 0 then none
    else if rd = 2 then
      some (encI 0x13 0 2 2 (sfield 10 (b 12 12 * 2 ^ 9 + b 6 6 * 2 ^ 4 + b 5 5 * 2 ^ 6 + b 4 3 * 2 ^ 7 + b 2 2 * 2 ^ 5)))
    else some (encU 0x37 rd (sfield 18 (u6 * 2 ^ 12)))
  | 4 =>
    (match b 11 10 with
    | 0 => some (encI 0x13 5 rs rs u6)
    | 1 => some (encI 0x13 5 rs rs (u6 + 0x400))
    | 2 => some (encI 0x13 7 rs rs s6)
    | _ =>
      match b 12 12, b 6 5 with
      | 0, 0 => some (encR 0x33 0 0x20 rs rs rs2)
      | 0, 1 => some (encR 0x33 4 0 rs rs rs2)
      | 0, 2 => some (encR 0x33 6 0 rs rs rs2)
      | 0, _ => some (encR 0x33 7 0 rs rs rs2)
      | _, 0 => some (encR 0x3B 0 0x20 rs rs rs2)
      | _, 1 => some (encR 0x3B 0 0 rs rs rs2)
      | _, 2 => if zcb then some (encR 0x33 0 1 rs rs rs2) else none
      | _, _ =>
        if !zcb then none
        else match b 4 2 with
          | 0 => some (encI 0x13 7 rs rs 255)
          | 1 => some (encI 0x13 1 rs rs 0x604)
          | 2 => some (encR 0x3B 4 4 rs rs 0)
          | 3 => some (encI 0x13 1 rs rs 0x605)
          | 4 => some (encR 0x3B 0 4 rs rs 0)
          | 5 => some (encI 0x13 4 rs rs 0xFFF)
          | _ => none)
  | 5 => some (encJ 0 jOff)
  | 6 => some (encB 0 rs 0 bOff)
  | _ => some (encB 1 rs 0 bOff)

/-- Quadrant 2. -/
def expandC2 (h : Nat) : Option Nat :=
  let b := bits h
  let rd := b 11 7
  let rs2 := b 6 2
  let offD := b 12 12 * 32 + b 6 5 * 8 + b 4 2 * 64
  let offW := b 12 12 * 32 + b 6 4 * 4 + b 3 2 * 64
  let stD := b 12 10 * 8 + b 9 7 * 64
  let stW := b 12 9 * 4 + b 8 7 * 64
  match b 15 13 with
  | 0 => some (encI 0x13 1 rd rd (b 12 12 * 32 + b 6 2))
  | 1 => some (encI 0x07 3 rd 2 offD)
  | 2 => if rd = 0 then none else some (encI 0x03 2 rd 2 offW)
  | 3 => if rd = 0 then none else some (encI 0x03 3 rd 2 offD)
  | 4 =>
    if b 12 12 = 0 then
      (if rs2 = 0 then (if rd = 0 then none else some (encI 0x67 0 0 rd 0)) else some (encR 0x33 0 0 rd 0 rs2))
    else if rs2 = 0 then (if rd = 0 then some 0x00100073 else some (encI 0x67 0 1 rd 0))
    else some (encR 0x33 0 0 rd rd rs2)
  | 5 => some (encS 0x27 3 2 rs2 stD)
  | 6 => some (encS 0x23 2 2 rs2 stW)
  | _ => some (encS 0x23 3 2 rs2 stD)

/-- The 32-bit word a compressed instruction stands for; none where it is reserved. -/
def expandC (zcb : Bool) (h : Nat) : Option Nat :=
  match h % 4 with
  | 0 => expandC0 zcb h
  | 1 => expandC1 zcb h
  | 2 => expandC2 h
  | _ => none

/-! ## Decoding -/

/-- Decodes a 32-bit word. -/
def rvDecode32 (w : Nat) : Rv :=
  let rd := bits w 11 7
  let f3 := bits w 14 12
  let rs1 := bits w 19 15
  let rs2 := bits w 24 20
  let f7 := bits w 31 25
  let immI := sext 12 (bits w 31 20)
  match w % 128 with
  | 0x37 => .const rd (sext 32 (bits w 31 12 * 4096))
  | 0x17 => .auipc rd (sext 32 (bits w 31 12 * 4096))
  | 0x6F => .jal rd (sext 21 (bits w 31 31 * 2 ^ 20 + bits w 19 12 * 2 ^ 12 + bits w 20 20 * 2 ^ 11 + bits w 30 21 * 2))
  | 0x67 => if f3 = 0 then .jalr rd rs1 immI else .illegal
  | 0x63 =>
    if f3 = 2 ∨ f3 = 3 then .illegal
    else .branch f3 rs1 rs2 (sext 13 (bits w 31 31 * 2 ^ 12 + bits w 7 7 * 2 ^ 11 + bits w 30 25 * 2 ^ 5 + bits w 11 8 * 2))
  | 0x03 => if f3 = 7 then .illegal else .load f3 rd rs1 immI
  | 0x23 => if 3 < f3 then .illegal else .store f3 rs1 rs2 (sext 12 (f7 * 32 + rd))
  | 0x13 => .opImm false f3 rd rs1 (bits w 31 20)
  | 0x1B => .opImm true f3 rd rs1 (bits w 31 20)
  | 0x33 => .op false f3 f7 rd rs1 rs2
  | 0x3B => .op true f3 f7 rd rs1 rs2
  | 0x0F => if f3 = 0 then .fence (bits w 27 24) (bits w 23 20) else if f3 = 1 then .fenceI else if f3 = 2 ∧ rd = 0 then .cbo (bits w 31 20) rs1 else .illegal
  | 0x2F => .amo (bits w 31 27) f3 rd rs1 rs2
  | 0x73 => .system f3 rd rs1 (bits w 31 20)
  | 0x0B => .tile false f7 rs2 rs1 f3 rd
  | 0x2B => .tile true f7 rs2 rs1 f3 rd
  | 0x3F => .long
  | _ => if w % 4 = 3 ∧ bits w 4 2 ≠ 7 then .other rd rs1 rs2 else .illegal

/-- Decodes the instruction whose first bytes a word holds, with its length in bytes. -/
def rvDecode (zcb : Bool) (w : Word) : Rv × Nat :=
  if w.toNat % 4 = 3 then (rvDecode32 w.toNat, if w.toNat % 128 = 0x3F then 8 else 4)
  else match expandC zcb (w.toNat % 65536) with
    | some x => (rvDecode32 x, 2)
    | none => (.illegal, 2)

/-! ## Integer results -/

/-- Signed division and remainder with the architecture's results for a zero divisor. -/
def sdivZ {w : Nat} (a b : BitVec w) : BitVec w := if b = 0 then BitVec.allOnes w else a.sdiv b
def sremZ {w : Nat} (a b : BitVec w) : BitVec w := if b = 0 then a else a.srem b
def udivZ {w : Nat} (a b : BitVec w) : BitVec w := if b = 0 then BitVec.allOnes w else a / b
def uremZ {w : Nat} (a b : BitVec w) : BitVec w := if b = 0 then a else a % b
/-- The high word of a product of integers. -/
def mulHigh (a b : Int) : DWord := BitVec.ofInt 64 (a * b / 2 ^ 64)

/-- The register-register operations of RV64I and M. -/
def rvOp (f3 f7 : Nat) (a b : DWord) : Option DWord :=
  match f7, f3 with
  | 0, 0 => some (a + b)
  | 0, 1 => some (a <<< (b.toNat % 64))
  | 0, 2 => some (if a.slt b then 1 else 0)
  | 0, 3 => some (if a < b then 1 else 0)
  | 0, 4 => some (a ^^^ b)
  | 0, 5 => some (a >>> (b.toNat % 64))
  | 0, 6 => some (a ||| b)
  | 0, 7 => some (a &&& b)
  | 0x20, 0 => some (a - b)
  | 0x20, 5 => some (a.sshiftRight (b.toNat % 64))
  | 1, 0 => some (a * b)
  | 1, 1 => some (mulHigh a.toInt b.toInt)
  | 1, 2 => some (mulHigh a.toInt b.toNat)
  | 1, 3 => some (mulHigh a.toNat b.toNat)
  | 1, 4 => some (sdivZ a b)
  | 1, 5 => some (udivZ a b)
  | 1, 6 => some (sremZ a b)
  | 1, 7 => some (uremZ a b)
  | _, _ => none

/-- The 32-bit operations of RV64I and M. -/
def rvOpW (f3 f7 : Nat) (a b : Word) : Option Word :=
  match f7, f3 with
  | 0, 0 => some (a + b)
  | 0, 1 => some (a <<< (b.toNat % 32))
  | 0, 5 => some (a >>> (b.toNat % 32))
  | 0x20, 0 => some (a - b)
  | 0x20, 5 => some (a.sshiftRight (b.toNat % 32))
  | 1, 0 => some (a * b)
  | 1, 4 => some (sdivZ a b)
  | 1, 5 => some (udivZ a b)
  | 1, 6 => some (sremZ a b)
  | 1, 7 => some (uremZ a b)
  | _, _ => none

/-- The register-immediate operations. -/
def rvOpImm (word : Bool) (f3 imm : Nat) (a : DWord) : Option DWord :=
  if word then
    let f7 := bits imm 11 5
    let b := BitVec.ofNat 32 (bits imm 4 0)
    (match f3 with
    | 0 => some (sextW (a.setWidth 32 + (sext 12 imm).setWidth 32))
    | 1 => if f7 = 0 then (rvOpW 1 0 (a.setWidth 32) b).map sextW else none
    | 5 => if f7 = 0 ∨ f7 = 0x20 then (rvOpW 5 f7 (a.setWidth 32) b).map sextW else none
    | _ => none)
  else
    let f6 := bits imm 11 6
    let sh := BitVec.ofNat 64 (bits imm 5 0)
    (match f3 with
    | 1 => if f6 = 0 then rvOp 1 0 a sh else none
    | 5 => if f6 = 0 then rvOp 5 0 a sh else if f6 = 0x10 then rvOp 5 0x20 a sh else none
    | _ => rvOp f3 0 a (sext 12 imm))

/-- The result of a register-register operation of either width. -/
def rvOpReg (word : Bool) (f3 f7 : Nat) (a b : DWord) : Option DWord :=
  if word then (rvOpW f3 f7 (a.setWidth 32) (b.setWidth 32)).map sextW else rvOp f3 f7 a b

/-- Whether a branch is taken. -/
def rvTaken (f3 : Nat) (a b : DWord) : Bool :=
  match f3 with
  | 0 => a == b
  | 1 => a != b
  | 4 => a.slt b
  | 5 => !a.slt b
  | 6 => decide (a < b)
  | _ => !decide (a < b)

/-- The bytes a load or store of a width moves. -/
def rvBytes (f3 : Nat) : Nat := 2 ^ (f3 % 4)
/-- A loaded value, extended as its width says. -/
def rvLoaded (f3 v : Nat) : DWord := if f3 < 3 then sext (8 * rvBytes f3) v else BitVec.ofNat 64 v

/-- The atomic operation of an AMO's function code, with its number in Table 12-6. -/
def rvAmo (f5 : Nat) : Option (AtomOp × Nat) :=
  match f5 with
  | 0 => some (.add, 1)
  | 1 => some (.swap, 0)
  | 4 => some (.xor, 4)
  | 8 => some (.or, 3)
  | 0xC => some (.and, 2)
  | 0x10 => some (.minS, 5)
  | 0x14 => some (.maxS, 6)
  | 0x18 => some (.minU, 7)
  | 0x1C => some (.maxU, 8)
  | _ => none

/-- The value a CSR instruction writes, from the old value and its operand; none where it writes nothing. -/
def csrNew (f3 rs1 : Nat) (old v : DWord) : Option DWord :=
  match f3 % 4 with
  | 1 => some v
  | 2 => if rs1 = 0 then none else some (old ||| v)
  | _ => if rs1 = 0 then none else some (old &&& ~~~ v)

end Sys2Proof.Machine
end

