-- ==== Sys2Proof/Machine/Control.lean ====
section
/-! DEFINITION. The control core (chapter 04): its fetch and traps, RV64IMAC instructions, the tile extension, tokens and grants, and the
issue of tile instructions to the queues. -/

namespace Sys2Proof.Machine

/-! ## Traps and errors -/

/-- An integer register; x0 reads zero. -/
def Core.reg (k : Core) (r : Nat) : DWord := if r = 0 then 0 else k.x.get 0 r
/-- Writes an integer register; x0 discards writes. -/
def Core.setReg (k : Core) (r : Nat) (v : DWord) : Core := if r = 0 then k else { k with x := k.x.set 0 r v }

/-- The control core enters machine mode on a trap from user mode, as the published privileged specification states for machine mode (R111, R112; log
45): mepc, mcause and mtval are written, and mstatus.MPIE takes MIE, which clears; MPP reads 0, user mode. -/
def Core.trapped (k : Core) (cause : Nat) (tval : DWord) : Core :=
  let ms := k.mcsr.get 0 0x300
  let ms := (ms &&& ~~~0x1888#64) ||| BitVec.ofNat 64 (b2n (ms.getLsbD 3) * 128)
  { k with mcsr := (((k.mcsr.set 0 0x341 k.pc).set 0 0x342 (BitVec.ofNat 64 cause)).set 0 0x343 tval).set 0 0x300 ms }

/-- The monitor's MRET to user mode: MIE takes MPIE, which is set, and MPP stays 0. -/
def Core.monitorReturns (k : Core) : Core :=
  let ms := k.mcsr.get 0 0x300
  { k with mcsr := k.mcsr.set 0 0x300 ((ms &&& ~~~0x1888#64) ||| BitVec.ofNat 64 (b2n (ms.getLsbD 7) * 8 + 128)) }

/-- The end of a core's part of its kernel for an error that names the control core's PC (Table 15-10a). -/
def State.ccError (s : State) (c code : Nat) : State := s.endPart c code { cause := 0, tag := none, pc := some (s.core c).pc }

/-- A trap of the control core in user mode: the monitor ends the core's part of the kernel with "kernel trap", the cause and the PC (R112).
Translation faults that are not resolvable carry cause 48 + KIND (R386). -/
def State.kernelTrap (s : State) (c cause : Nat) (tval : DWord := 0) : State :=
  let k := s.core c
  let s := s.setCore c (k.trapped cause tval)
  s.endPart c 0x106 { cause := cause, tag := none, pc := some k.pc }

/-- "tile error", naming the tag in CC_TK_ERRTAG and its instruction's PC at issue (R127). -/
def State.tileError (s : State) (c : Nat) : State :=
  let k := s.core c
  s.endPart c 0x107 { cause := 0, tag := k.errTag, pc := if k.errTag.isSome then some k.errPc else none }

/-- Whether software may resolve a translation fault (Table 13-6). -/
def resolvable (kind : Nat) : Bool := kind == 1 || kind == 2

/-- What a stopped access of the control core leads to: a walk, a fault record to wait on, a trap, or another try later (R112, R386 to
R388). -/
def State.ccStop (s : State) (c : Nat) (ag : XlAgent) (e : AccStop) : State :=
  match e with
  | .walk va a => s.modCore c (fun k => { k with waiting := some (.walk va a) })
  | .fault kind level va a =>
    if resolvable kind then
      match s.postRecord c ag va a kind level with
      | (s, some seq) => s.modCore c (fun k => { k.trapped (48 + kind) va with waiting := some (.record seq), monitor := true })
      | (s, none) => s.modCore c (fun k => { k with waiting := some (.walk va a) })
    else s.kernelTrap c (48 + kind) va
  | .error code => s.ccError c code
  | .later => s

/-! ## Fetch -/

/-- Whether an address lies in the core's Pantry aperture (R113). -/
def Core.inAperture (k : Core) (va : DWord) : Bool := decide (k.pantryVa.toNat ≤ va.toNat) && decide (va.toNat < k.pantryVa.toNat + pantrySize)
/-- The Pantry offset of an address in the aperture. -/
def Core.apOff (k : Core) (va : DWord) : Nat := va.toNat - k.pantryVa.toNat

/-- Fills a line of the L1 instruction cache, 4-way of 256 sets (R343); a full set drops a line, chosen freely (log 17). -/
def State.iFill (s : State) (c l : Nat) : State :=
  let k := s.core c
  let same := k.l1i.filter (fun x => x % 256 == l % 256)
  if k.l1i.contains l then s
  else if same.length < 4 then s.setCore c { k with l1i := k.l1i ++ [l] }
  else (s.setCore c { k with l1i := k.l1i.erase (same.getD (Config.freeNat s.fresh % 4) 0) ++ [l] }).bump

/-- Reads an instruction's pieces: from the L1 instruction cache, else through the base die's cache; answers their poison. -/
def State.fetchSpots (s : State) (c sub : Nat) (ag : XlAgent) (ps : List (Nat × DWord × Nat × Spot)) : State × Bool :=
  ps.foldl (fun acc p =>
    let (s, bad) := acc
    let held := match p.2.2.2 with | .pool ph pbmt _ => pbmt != 2 && (s.core c).l1i.contains (ph / 128) | .host a pbmt => pbmt != 2 && (s.core c).l1i.contains (hostLine a) | _ => false
    if held then (s, bad)
    else
      let (s, _, q, _) := s.readSpot c sub ag p.2.2.2 p.2.2.1 p.1 false (match p.2.2.2 with | .host _ _ => true | _ => false) []
      match p.2.2.2 with
      | .pool ph pbmt _ => (if !q && pbmt == 0 then s.iFill c (ph / 128) else s, bad || q)
      | .host a pbmt => (if !q && pbmt == 0 then s.iFill c (hostLine a) else s, bad || q)
      | _ => (s, bad || q)) (s, false)

/-- Fetches an instruction of `n` bytes at an address: translated and checked like any other access (R112); the aperture bypasses both
(R113). -/
def State.fetchAt (s : State) (c sub : Nat) (ag : XlAgent) (pc : DWord) (n : Nat) : State × Except AccStop Unit :=
  let k := s.core c
  if k.inAperture pc then
    let (s, bad) := s.panRead c 3 (granulesOf (k.apOff pc) n)
    (s, if bad.isEmpty then .ok () else .error (.error 0x10F))
  else
    match s.probeAll c ag .execute (vaPieces pc n 0 .read) with
    | (s, .error e) => (s, .error e)
    | (s, .ok ps) =>
      let (s, bad) := s.fetchSpots c sub ag ps
      (s, if bad then .error (.error 0x119) else .ok ())

/-- Runs an instruction of `n` bytes on a control core that runs a kernel, is not fenced and waits for nothing: an error of an instruction
without a token traps first (R127), then the fetch is checked. -/
def ccRun (c : CoreId) (n : Nat) (s : State) (f : State → State) (ecc : List EccHit := []) : Outcome :=
  gate s (fun s =>
    let k := s.core c.val
    if k.phase = 1 ∧ k.runs ∧ !k.fenced ∧ k.waiting.isNone then
      if k.noToken then s.tileError c.val
      else match (s.flaw c.val ecc).fetchAt c.val 0 .coreFetch k.pc n with
        | (s, .error e) => s.ccStop c.val .coreFetch e
        | (s, .ok _) => if (s.core c.val).runs then f s else s
    else s)

/-- Advances the PC. -/
def State.ccNext (s : State) (c n : Nat) : State := s.modCore c (fun k => { k with pc := k.pc + BitVec.ofNat 64 n })
/-- Writes a register and advances the PC. -/
def State.ccResult (s : State) (c n rd : Nat) (v : DWord) : State := (s.modCore c (fun k => k.setReg rd v)).ccNext c n

/-! ## Tokens and grants (R125 to R129) -/

/-- Whether a counter's tokens are all here and no instruction that names it is in flight (R114). -/
def Core.allDone (k : Core) (tk : Nat) : Bool :=
  k.tkDone.get 0 tk == k.tkExpect.get 0 tk && !k.inflight.any (fun i => !i.word.getLsbD 12 && fieldOf i.word 11 7 == tk)

/-- The t.wait comparison: DONE − target at least 0 as a signed number (R114). -/
def Core.reached (k : Core) (tk : Nat) (target : Word) : Bool := !(k.tkDone.get 0 tk - target).msb

/-- Whether a control core waits on a counter with an error, or waits in t.end while an error without a token stands (R127). -/
def Core.errWakes (k : Core) : Bool :=
  match k.waiting with
  | some (.wait tk _) => k.tkErr.getLsbD tk
  | some (.waitAll tk) => k.tkErr.getLsbD tk
  | some (.clear tk) => k.tkErr.getLsbD tk
  | some .ending => k.noToken
  | _ => false

/-- A grant count with one more credit: none is lost, and above 255 it stays (R129). -/
def Core.addGrant (k : Core) (g n : Nat) : Core × Bool :=
  let v := k.grants.get 0 g + n
  ({ k with grants := k.grants.set 0 g (min v 255) }, decide (255 < v))

/-- An instruction completes: its last `n` tokens arrive, it leaves flight, its error is recorded, its grant is released; an overflow or an
error that the control core waits on ends the core's part of the kernel (R123 to R129). -/
def State.tileDone (s : State) (c : Nat) (i : TileIns) (n : Nat) (err : Bool) : State :=
  let k := (s.core c).tokens i n
  let k := { k with inflight := k.inflight.filter (fun x => x.tag != i.tag) }
  let k := if err then k.noteError i else k
  let (k, ovf) := if fieldOf i.word 28 27 = 2 then k.addGrant (fieldOf i.word 26 25) 1 else (k, false)
  let s := s.setCore c k
  if ovf then s.endPart c 0x108 { cause := 0, tag := some i.tag, pc := some i.pc }
  else if k.errWakes then s.tileError c else s

/-- An acquiring instruction's credit: whether its unit may start it, and the core once it has been taken (R128). -/
def Core.acquire (k : Core) (i : TileIns) : Option Core :=
  if fieldOf i.word 28 27 = 1 then
    let g := fieldOf i.word 26 25
    let v := k.grants.get 0 g
    if v = 0 then none else some { k with grants := k.grants.set 0 g (v - 1) }
  else some k

/-! ## The 32-bit tile instructions (Table 4-4) -/

/-- t.wait and t.waitall: a counter with an error traps at once; a condition that holds lets the instruction return; else the core waits
(R114, R126, R127). -/
def State.ccWait (s : State) (c tk : Nat) (w : CoreWait) (holds : Core → Bool) (after : Core → Core) : State :=
  let k := s.core c
  if k.tkErr.getLsbD tk then s.tileError c
  else if holds k then (s.setCore c (after k)).ccNext c 4
  else s.setCore c { k with waiting := some w }

/-- DONE and EXPECT of a counter set to 0 (R114). -/
def Core.clearTk (k : Core) (tk : Nat) : Core := { k with tkDone := k.tkDone.set 0 tk 0, tkExpect := k.tkExpect.set 0 tk 0 }

def State.opWait (s : State) (c tk rs1 : Nat) : State :=
  let t := ((s.core c).reg rs1).setWidth 32
  s.ccWait c tk (.wait tk t) (fun k => k.reached tk t) id
def State.opWaitall (s : State) (c tk : Nat) : State := s.ccWait c tk (.waitAll tk) (fun k => k.allDone tk) id
def State.opTkclr (s : State) (c tk : Nat) : State := s.ccWait c tk (.clear tk) (fun k => k.allDone tk) (fun k => k.clearTk tk)
def State.opTkdone (s : State) (c rd tk : Nat) : State := s.ccResult c 4 rd (((s.core c).tkDone.get 0 tk).setWidth 64)
/-- t.grant: an overflow traps at the instruction and names no tag (R129). -/
def State.opGrant (s : State) (c gr rs1 : Nat) : State :=
  let (k, ovf) := (s.core c).addGrant gr (fieldOf ((s.core c).reg rs1) 7 0)
  let s := s.setCore c k
  if ovf then s.ccError c 0x108 else s.ccNext c 4
def State.opGrget (s : State) (c rd gr : Nat) : State := s.ccResult c 4 rd (BitVec.ofNat 64 ((s.core c).grants.get 0 gr))
def State.opInval (s : State) (c : Nat) : State := (s.modCore c Core.inval).ccNext c 4
/-- t.end stops the control core from issuing further instructions (R136). -/
def State.opEnd (s : State) (c : Nat) : State := s.modCore c (fun k => { k with phase := 2, waiting := some .ending })

/-- The pointer conversion through a window of the address space (R382). -/
def cvtPointer (d : Option AsDesc) (w : Nat) (back : Bool) (v : DWord) : DWord :=
  let win := ((d.map (·.windows)).getD [])[w]?.getD (0, 0, 0)
  let lo := if back then win.2.1 else win.1
  let dst := if back then win.1 else win.2.1
  if v = 0 then 0 else if lo ≤ v ∧ v - lo < win.2.2 then v - lo + dst else 0x8000000000000000
def State.opCvt (s : State) (c rd rs1 w : Nat) (back : Bool) : State := s.ccResult c 4 rd (cvtPointer (s.core c).space w back ((s.core c).reg rs1))

/-- A 32-bit tile-extension word: fields that it does not use must be zero, and reserved functions raise an illegal-instruction trap
(R114). -/
def State.tileWord (s : State) (c : Nat) (custom1 : Bool) (f7 sel rs1 f3 rd : Nat) : State :=
  if f7 ≠ 0 then s.kernelTrap c 2
  else match custom1, f3 with
    | false, 0 => if rd = 0 then s.opWait c sel rs1 else s.kernelTrap c 2
    | false, 1 => if rd = 0 ∧ rs1 = 0 then s.opWaitall c sel else s.kernelTrap c 2
    | false, 2 => if rs1 = 0 then s.opTkdone c rd sel else s.kernelTrap c 2
    | false, 3 => if rd = 0 ∧ rs1 = 0 then s.opTkclr c sel else s.kernelTrap c 2
    | false, 4 => if rd = 0 ∧ sel < 4 then s.opGrant c sel rs1 else s.kernelTrap c 2
    | false, 5 => if rs1 = 0 ∧ sel < 4 then s.opGrget c rd sel else s.kernelTrap c 2
    | false, 6 => if rd = 0 ∧ rs1 = 0 ∧ sel = 0 then s.opInval c else s.kernelTrap c 2
    | false, 7 => if rd = 0 ∧ rs1 = 0 ∧ sel = 0 then s.opEnd c else s.kernelTrap c 2
    | true, 0 => if sel < 4 then s.opCvt c rd rs1 sel false else s.kernelTrap c 2
    | true, 1 => if sel < 4 then s.opCvt c rd rs1 sel true else s.kernelTrap c 2
    | _, _ => s.kernelTrap c 2

/-! ## Loads, stores and atomics -/

/-- The load of `n` bytes: from the Pantry in the aperture, where it must be aligned (R113), else translated and through the L1 data cache.
One that begins below the aperture and ends in it is no Pantry access and is translated whole (DESIGN CHOICE, log 67).
Answers the bytes, or the state that the stop leaves. -/
def State.ccRead (s : State) (c : Nat) (va : DWord) (n : Nat) (ext : List Byte) : Except State (State × List Byte) :=
  let k := s.core c
  if k.inAperture va then
    if va.toNat % n ≠ 0 then .error (s.kernelTrap c 4 va)
    else
      let (s, bad) := s.panRead c 3 (granulesOf (k.apOff va) n)
      if bad.isEmpty then .ok (s, k.pan (k.apOff va) n) else .error (s.ccError c 0x10F)
  else
    match s.probeAll c .coreData .read (vaPieces va n 0 .read) with
    | (s, .error e) => .error (s.ccStop c .coreData e)
    | (s, .ok ps) =>
      let (s, d, bad, _) := s.readSpots c 0 .coreData true false ext ps
      if bad then .error (s.ccError c 0x119) else .ok (s, d)

/-- The store of bytes. -/
def State.ccWrite (s : State) (c : Nat) (va : DWord) (b : List Byte) : Except State State :=
  let k := s.core c
  if k.inAperture va then
    if va.toNat % b.length ≠ 0 then .error (s.kernelTrap c 6 va) else .ok (s.panStore c 3 (k.apOff va) b)
  else
    match s.probeAll c .coreData .write (vaPieces va b.length 0 .write) with
    | (s, .error e) => .error (s.ccStop c .coreData e)
    | (s, .ok ps) => .ok (s.writeSpots c 0 .coreData b ps)

/-- An atomic on `8 × 2^(f3 − 3)` bytes: the old value (R231). -/
def State.ccAtomic (s : State) (c : Nat) (va : DWord) (n : Nat) (op : AtomOp) (opn : Nat) (v : DWord) (ext : List Byte) :
    Except State (State × Nat) :=
  let k := s.core c
  let width := if n = 4 then 0 else 1
  let operand : BitVec 128 := v.setWidth 128
  if va.toNat % n ≠ 0 then .error (s.kernelTrap c 6 va)
  else if k.inAperture va then
    let off := k.apOff va
    let (s, bad) := s.panRead c 3 (granulesOf off n)
    if bad.isEmpty then
      let old := k.panNat off n
      .ok (s.modCore c (fun k => k.panWrite off (leBytes n (atomResult op (8 * n) old (v.toNat % 2 ^ (8 * n)) 0 faddAtomic))), old)
    else .error (s.ccError c 0x10F)
  else
    match s.probe c .coreData va n .atomic (.atom opn width operand 0) 0 with
    | (s, .error e) => .error (s.ccStop c .coreData e)
    | (s, .ok sp) =>
      match s.atomSpot c 0 .coreData sp op opn width operand 0 0 ext with
      | (s, some old) => .ok (s, old)
      | (s, none) => .error (s.ccError c 0x119)

/-- LR: a load that reserves its line; a Pantry line is numbered from 2^60, and only the Pool and the Pantry hold reservations. -/
def State.ccLr (s : State) (c : Nat) (va : DWord) (n : Nat) (ext : List Byte) : Except State (State × List Byte) :=
  if va.toNat % n ≠ 0 then .error (s.kernelTrap c 4 va)
  else
    let k := s.core c
    let line : Option Nat :=
      if k.inAperture va then some (2 ^ 60 + k.apOff va / 128)
      else match s.probe c .coreData va n .read .read 0 with
        | (_, .ok (.pool ph _ _)) => some (ph / 128)
        | _ => none
    match s.ccRead c va n ext with
    | .error s => .error s
    | .ok (s, d) => .ok (s.modCore c (fun k => { k with resv := line }), d)

/-- SC: stores when the reservation still holds (R397's rule of a reservation, which the Pantry and the Pool share); answers whether it
did. The reservation ends either way. -/
def State.ccSc (s : State) (c : Nat) (va : DWord) (b : List Byte) : Except State (State × Bool) :=
  if va.toNat % b.length ≠ 0 then .error (s.kernelTrap c 6 va)
  else
    let k := s.core c
    if k.inAperture va then
      let off := k.apOff va
      let ok := k.resv == some (2 ^ 60 + off / 128)
      let s := s.setCore c { k with resv := none }
      .ok (if ok then s.panStore c 3 off b else s, ok)
    else
      match s.probe c .coreData va b.length .write .write 0 with
      | (s, .error e) => .error (s.ccStop c .coreData e)
      | (s, .ok sp) =>
        let ok := match sp with | .pool ph _ _ => (s.core c).resv == some (ph / 128) | _ => false
        let s := s.modCore c (fun k => { k with resv := none })
        .ok (if ok then s.writeSpot c 0 .coreData sp b else s, ok)

/-! ## CSRs -/

/-- A CSR a kernel can read (Tables 4-7, 6-11 and 8-8). -/
def State.ccCsr (s : State) (c n : Nat) : Option Word :=
  let k := s.core c
  if 0xCC0 ≤ n ∧ n < 0xCE0 then some (k.tkDone.get 0 (n - 0xCC0))
  else if 0xCE0 ≤ n ∧ n < 0xD00 then some (k.tkExpect.get 0 (n - 0xCE0))
  else if n = 0x800 then some k.tkErr
  else if n = 0x801 then some (match k.errTag with | some t => BitVec.ofNat 32 (256 + t.toNat) | none => 0)
  else if n = 0x802 then some k.grantWord
  else if n = 0x803 then some (BitVec.ofNat 32 k.inflight.length)
  else if n = 0x804 then some k.vecCtrl
  else if n = 0x805 then some k.vecStatus
  else if n = 0x806 then some (k.vecFlags.setWidth 32)
  else if n = 0x807 then some (BitVec.ofNat 32 (s.fld (coreDie c) (coreOff c 0x700) 31 31 * 2 ^ 31 + b2n k.nanEnable))
  else none

/-- A kernel's write of a CSR: W1C bits clear, a read-only field keeps its value. -/
def Core.writeCsr (k : Core) (n : Nat) (v : Word) : Core :=
  if n = 0x800 then
    let e := k.tkErr &&& ~~~ v
    { k with tkErr := e, errTag := if e = 0 ∧ k.tkErr ≠ 0 ∧ !k.noToken then none else k.errTag }
  else if n = 0x804 then { k with vecCtrl := v &&& 0xF }
  else if n = 0x805 then { k with vecStatus := if v.getLsbD 9 then k.vecStatus &&& ~~~ 0x200 else k.vecStatus }
  else if n = 0x806 then { k with vecFlags := k.vecFlags &&& ~~~ (v.setWidth 5) }
  else if n = 0x807 then { k with nanEnable := v.getLsbD 0 }
  else k

/-! ## Instructions -/

/-- SYSTEM instructions in user mode: CSR accesses, ecall and ebreak; everything else is illegal there. A write to a read-only register is
ignored and raises no error (R7). -/
def State.ccSystem (s : State) (c f3 rd rs1 imm : Nat) : State :=
  let k := s.core c
  if f3 = 0 then
    if rd = 0 ∧ rs1 = 0 ∧ imm = 0 then s.kernelTrap c 8
    else if rd = 0 ∧ rs1 = 0 ∧ imm = 1 then s.kernelTrap c 3
    else s.kernelTrap c 2
  else if f3 = 4 then s.kernelTrap c 2
  else match s.ccCsr c imm with
    | none => s.kernelTrap c 2
    | some old =>
      let v := if 4 < f3 then BitVec.ofNat 64 rs1 else k.reg rs1
      match csrNew f3 rs1 (old.setWidth 64) v with
      | none => s.ccResult c 4 rd (old.setWidth 64)
      | some new => (s.modCore c (fun k => k.writeCsr imm (new.setWidth 32))).ccResult c 4 rd (old.setWidth 64)

/-- Atomic instructions of RV64A. -/
def State.ccAmo (s : State) (c f5 f3 rd rs1 rs2 : Nat) (ext : List Byte) : State :=
  let k := s.core c
  let va := k.reg rs1
  let n := rvBytes f3
  if f3 ≠ 2 ∧ f3 ≠ 3 then s.kernelTrap c 2
  else if f5 = 2 then
    if rs2 ≠ 0 then s.kernelTrap c 2
    else match s.ccLr c va n ext with
      | .error s => s
      | .ok (s, d) => s.ccResult c 4 rd (rvLoaded f3 (leNat d))
  else if f5 = 3 then
    match s.ccSc c va (leBytes n (k.reg rs2).toNat) with
    | .error s => s
    | .ok (s, ok) => s.ccResult c 4 rd (if ok then 0 else 1)
  else match rvAmo f5 with
    | none => s.kernelTrap c 2
    | some (op, opn) =>
      match s.ccAtomic c va n op opn (k.reg rs2) ext with
      | .error s => s
      | .ok (s, old) => s.ccResult c 4 rd (rvLoaded f3 old)

/-- Sets the PC of a jump; every control core implements C, so any even address is aligned. -/
def State.ccJump (s : State) (c rd n : Nat) (target : DWord) : State :=
  s.modCore c (fun k => { k.setReg rd (k.pc + BitVec.ofNat 64 n) with pc := target })

/-- One RV64IMAC instruction. -/
def State.ccExec (s : State) (c n : Nat) (i : Rv) (ext : List Byte) : State :=
  let k := s.core c
  match i with
  | .const rd v => s.ccResult c n rd v
  | .auipc rd imm => s.ccResult c n rd (k.pc + imm)
  | .jal rd imm => s.ccJump c rd n (k.pc + imm)
  | .jalr rd rs1 imm => s.ccJump c rd n ((k.reg rs1 + imm) &&& ~~~ 1)
  | .branch f3 a b imm => if rvTaken f3 (k.reg a) (k.reg b) then s.modCore c (fun k => { k with pc := k.pc + imm }) else s.ccNext c n
  | .load f3 rd rs1 imm =>
    (match s.ccRead c (k.reg rs1 + imm) (rvBytes f3) ext with
    | .error s => s
    | .ok (s, d) => s.ccResult c n rd (rvLoaded f3 (leNat d)))
  | .store f3 rs1 rs2 imm =>
    (match s.ccWrite c (k.reg rs1 + imm) (leBytes (rvBytes f3) (k.reg rs2).toNat) with
    | .error s => s
    | .ok s => s.ccNext c n)
  | .opImm w f3 rd rs1 imm =>
    (match rvOpImm w f3 imm (k.reg rs1) with
    | some v => s.ccResult c n rd v
    | none => s.kernelTrap c 2)
  | .op w f3 f7 rd a b =>
    (match rvOpReg w f3 f7 (k.reg a) (k.reg b) with
    | some v => s.ccResult c n rd v
    | none => s.kernelTrap c 2)
  | .fence pred _ => if bitAt pred 0 && s.writesOut (remAgent c .coreData) then s else s.ccNext c n
  | .fenceI => s.kernelTrap c 2
  | .cbo _ _ => s.kernelTrap c 2
  | .amo f5 f3 rd rs1 rs2 => s.ccAmo c f5 f3 rd rs1 rs2 ext
  | .system f3 rd rs1 imm => s.ccSystem c f3 rd rs1 imm
  | .tile c1 f7 sel rs1 f3 rd => s.tileWord c c1 f7 sel rs1 f3 rd
  | .long => s
  | .other _ _ _ => s.kernelTrap c 2
  | .illegal => s.kernelTrap c 2

/-- CONTROL_CORE_INSTRUCTION (R111 to R113, R124, R130): the word fetched at the PC, the errors that have come into Pantry granules, and the bytes
the companion answers. A word that begins a 64-bit instruction is TILE_ISSUE's and changes nothing here. -/
def execControlCoreInstruction (c : CoreId) (word : Word) (ecc : List EccHit) (ext : List Byte) (s : State) : Outcome :=
  let d := rvDecode false word
  ccRun c d.2 s (fun s => s.ccExec c.val d.2 d.1 ext) ecc

/-- T_WAIT (R114, R126, R127). -/
def execTWait (c : CoreId) (tk rs1 : Fin 32) (s : State) : Outcome := ccRun c 4 s (fun s => s.opWait c.val tk.val rs1.val)
/-- T_WAITALL (R114, R127). -/
def execTWaitall (c : CoreId) (tk : Fin 32) (s : State) : Outcome := ccRun c 4 s (fun s => s.opWaitall c.val tk.val)
/-- T_TKDONE (R114). -/
def execTTkdone (c : CoreId) (rd tk : Fin 32) (s : State) : Outcome := ccRun c 4 s (fun s => s.opTkdone c.val rd.val tk.val)
/-- T_TKCLR (R114). -/
def execTTkclr (c : CoreId) (tk : Fin 32) (s : State) : Outcome := ccRun c 4 s (fun s => s.opTkclr c.val tk.val)
/-- T_GRANT (R114, R128, R129). -/
def execTGrant (c : CoreId) (gr : Fin 4) (rs1 : Fin 32) (s : State) : Outcome := ccRun c 4 s (fun s => s.opGrant c.val gr.val rs1.val)
/-- T_GRGET (R114). -/
def execTGrget (c : CoreId) (rd : Fin 32) (gr : Fin 4) (s : State) : Outcome := ccRun c 4 s (fun s => s.opGrget c.val rd.val gr.val)
/-- T_INVAL (R114). -/
def execTInval (c : CoreId) (s : State) : Outcome := ccRun c 4 s (fun s => s.opInval c.val)
/-- T_END (R136). -/
def execTEnd (c : CoreId) (s : State) : Outcome := ccRun c 4 s (fun s => s.opEnd c.val)
/-- CVT_H2D (R382). -/
def execCvtH2d (c : CoreId) (rd rs1 : Fin 32) (w : Fin 4) (s : State) : Outcome := ccRun c 4 s (fun s => s.opCvt c.val rd.val rs1.val w.val false)
/-- CVT_D2H (R382). -/
def execCvtD2h (c : CoreId) (rd rs1 : Fin 32) (w : Fin 4) (s : State) : Outcome := ccRun c 4 s (fun s => s.opCvt c.val rd.val rs1.val w.val true)

/-- TOKEN_WAIT_RELEASE (R126): a waiting control core returns once its condition holds. -/
def execTokenWaitRelease (c : CoreId) (s : State) : Outcome :=
  gate s (fun s =>
    let k := s.core c.val
    match k.waiting with
    | some (.wait tk t) => if k.reached tk t then (s.setCore c.val { k with waiting := none }).ccNext c.val 4 else s
    | some (.waitAll tk) => if k.allDone tk then (s.setCore c.val { k with waiting := none }).ccNext c.val 4 else s
    | some (.clear tk) => if k.allDone tk then (s.setCore c.val { k.clearTk tk with waiting := none }).ccNext c.val 4 else s
    | _ => s)

/-- T_END_COMPLETE (R136, R277): with no tile instruction in flight, every group exited and no watch sample without a verdict, the core reports success, or the tile error that
stands. -/
def execTEndComplete (c : CoreId) (s : State) : Outcome :=
  gate s (fun s =>
    let k := s.core c.val
    match k.kernel with
    | some n =>
      if k.waiting = some .ending ∧ k.inflight.isEmpty ∧ k.watch.sample.isNone ∧ k.groups.cells.all (fun g => g.2.live == 0) then
        if k.tkErr = 0 ∧ k.errTag.isNone then (s.setCore c.val k.idle).report n c.val 0 ErrInfo.none else s.tileError c.val
      else s
    | none => s)

/-! ## Issue (R115 to R120) -/

/-- Whether a 64-bit tile-extension word is one of Table 4-6 (R116). -/
def tileLegal (w : DWord) : Bool :=
  let cls := fieldOf w 14 13
  let func := fieldOf w 31 29
  fieldOf w 6 0 == 0x3F && fieldOf w 28 27 != 3 && !(w.getLsbD 12 && fieldOf w 11 7 != 0)
    && (match cls with | 0 => decide (func ≤ 2) | 1 => decide (func ≤ 4) | 2 => decide (func ≤ 5) | _ => false)

/-- The lowest tag no instruction in flight holds (R118). -/
def Core.freeTag (k : Core) : Nat := ((List.range 256).find? (fun t => !k.inflight.any (fun i => i.tag.toNat == t))).getD 0

/-- TILE_ISSUE (R115 to R120, R124, R125): a legal word joins its queue with its tag and scalars, once the control core's earlier stores are
performed; without a free entry, or with 256 in flight, the control core stalls. -/
def execTileIssue (c : CoreId) (word : DWord) (s : State) : Outcome :=
  ccRun c 8 s (fun s =>
    let k := s.core c.val
    if !tileLegal word then s.kernelTrap c.val 2
    else
      let stream := fieldOf word 14 13 == 0
      let q := if stream then k.accq else k.exq
      if 128 ≤ q.length ∨ 256 ≤ k.inflight.length ∨ s.writesOut (remAgent c.val .coreData) then s
      else
        let mode := fieldOf word 14 13
        let i : TileIns := {
          word := word, a := k.reg (fieldOf word 19 15), b := k.reg (fieldOf word 24 20), tag := BitVec.ofNat 8 k.freeTag, pc := k.pc,
          strict := mode == 2 && k.vecCtrl.getLsbD 0, frm := bits k.vecCtrl.toNat 3 1, stages := [] }
        let k := { k with inflight := k.inflight ++ [i] }
        let k := if stream then { k with accq := k.accq ++ [i] } else { k with exq := k.exq ++ [i] }
        let tk := fieldOf word 11 7
        let k := if stream || word.getLsbD 12 then k else { k with tkExpect := k.tkExpect.set 0 tk (k.tkExpect.get 0 tk + 1) }
        (s.setCore c.val k).ccNext c.val 8)

end Sys2Proof.Machine
end

