-- ==== Sys2Proof/Machine/Array.lean ====
section
/-! DEFINITION. The matrix array (chapter 05) and what the execute side shares: hazards on tile registers, the NaN record, and the start
and completion of instructions. An instruction's values are formed when it starts and written when it completes. -/

namespace Sys2Proof.Machine

/-! ## What the execute side shares -/

/-- The hazard units of a tile register: its four quadrants (R121, R169). -/
def quads (t : Nat) : List Nat := [4 * t, 4 * t + 1, 4 * t + 2, 4 * t + 3]

/-- What a t.mma names of TD. -/
def TileIns.mmaRes (i : TileIns) (quart : Bool) : List Nat :=
  if quart then [4 * i.ops 31 28 + i.ops 20 19] else quads (i.ops 31 28)

/-- A stage word's fields (Table 6-4). -/
def stKind (w : DWord) : Nat := fieldOf w 7 0
def stSub (w : DWord) : Nat := fieldOf w 11 8
def stOpnd (w : DWord) : Nat := fieldOf w 15 12
def stTx (w : DWord) : Nat := fieldOf w 19 16
def stAux (w : DWord) : Bool := w.getLsbD 20
def stImm (w : DWord) : Nat := fieldOf w 63 32

/-- The hazard units an execute-queue instruction reads (R121, R190). -/
def TileIns.reads (i : TileIns) (quart : Bool) : List Nat :=
  match i.cls, i.func with
  | 1, 0 => if i.ops 27 27 = 1 then i.mmaRes quart else []
  | 1, 3 => quads (i.ops 27 24) ++ quads (i.ops 23 20) ++ quads (i.ops 19 16)
  | 2, 0 =>
    quads (i.ops 31 28) ++ (i.stages.filter (fun w => stOpnd w == 5)).flatMap (fun w => quads (stTx w))
      ++ (if i.stages.any (fun w => stKind w == 7) then quads (i.ops 27 24) else [])
  | 2, 1 => quads (i.ops 31 28)
  | 2, 2 => quads (i.ops 31 28)
  | 2, 4 => quads (i.ops 31 28)
  | _, _ => []

/-- The hazard units it writes. -/
def TileIns.writes (i : TileIns) (quart : Bool) : List Nat :=
  match i.cls, i.func with
  | 1, 0 => i.mmaRes quart
  | 1, 3 => quads (i.ops 31 28)
  | 2, 0 => if i.ops 23 22 = 0 ∨ i.ops 23 22 = 2 then quads (i.ops 27 24) else []
  | 2, 3 => quads (i.ops 31 28)
  | _, _ => []

/-- The execute-queue instructions in flight before one, in program order. -/
def Core.earlier (k : Core) (i : TileIns) : List TileIns := (k.inflight.takeWhile (fun x => x.tag != i.tag)).filter (fun x => x.cls != 0)

/-- Whether two lists of hazard units share one. -/
def meets (a b : List Nat) : Bool := a.any (fun x => b.contains x)

/-- Whether every earlier writer of what an instruction reads has completed (R121). -/
def Core.canRead (k : Core) (quart : Bool) (i : TileIns) : Bool := !(k.earlier i).any (fun x => meets (x.writes quart) (i.reads quart))
/-- Whether every earlier reader and writer of what it writes has completed (R121). -/
def Core.canWrite (k : Core) (quart : Bool) (i : TileIns) : Bool :=
  !(k.earlier i).any (fun x => meets (x.writes quart) (i.writes quart) || meets (x.reads quart) (i.writes quart))

/-- A word of a tile register. -/
def tileKey (t m n : Nat) : Nat := t * 16384 + m * 128 + n
def Core.tile (k : Core) (t m n : Nat) : Word := k.tiles.get 0 (tileKey t m n)

/-- A running instruction that has done nothing yet; it takes the NaN trap's enable at its start (R256). -/
def Core.run (k : Core) (i : TileIns) (error : Nat) : Running :=
  { ins := i, error := error, words := [], bytes := [], flags := 0, empty := false, nan := none, trap := k.nanEnable, slices := 0, tracker := none }

/-- Whether a core's units may start a tile instruction: it runs a kernel, is not fenced, and no NaN trap stands (R256). -/
def Core.mayStart (k : Core) : Bool := (k.phase == 1 || k.phase == 2) && k.runs && !k.fenced && !k.nanTrap

/-- Advances the counter of free values by the number an instruction used. -/
def State.bumpBy (s : State) (n : Nat) : State := { s with fresh := s.fresh + n }

/-- A chain with the copy of its descriptor that the execute queue reads when it passes it; one that meets poison is spoiled (R185, R191). -/
def State.readStages (s : State) (c : Nat) (i : TileIns) : State × TileIns :=
  let at_ := i.ops 13 0 * 512
  let n := i.ops 16 14 + 1
  if i.cls = 2 ∧ i.func = 0 ∧ at_ + n * 8 ≤ pantrySize then
    let (s, bad) := s.panRead c 2 (granulesOf at_ (n * 8))
    (s, { i with stages := (List.range n).map (fun j => BitVec.ofNat 64 ((s.core c).panNat (at_ + 8 * j) 8)), spoiled := !bad.isEmpty })
  else (s, i)

/-- EXECUTE_QUEUE_PASS (R120, R121, R185): the head of the execute queue passes to its unit's queue of 8; a chain's stage words are read
now. -/
def execExecuteQueuePass (c : CoreId) (s : State) : Outcome :=
  gate s (fun s =>
    let k := s.core c.val
    if !k.mayStart then s
    else match k.exq with
      | [] => s
      | i :: rest =>
        if i.cls = 1 then
          (if k.arrq.length < 8 then s.setCore c.val { k with exq := rest, arrq := k.arrq ++ [i] } else s)
        else if k.vecq.length < 8 then
          let (s, i) := s.readStages c.val i
          s.modCore c.val (fun k =>
            { k with exq := rest, vecq := k.vecq ++ [i], inflight := k.inflight.map (fun x => if x.tag = i.tag then i else x) })
        else s)

/-- NAN_TRAP (R256, R257): the monitor, once no other trap is with it (R257), ends the core's part of the kernel. -/
def execNanTrap (c : CoreId) (s : State) : Outcome :=
  gate s (fun s => if (s.core c.val).nanTrap ∧ !(s.core c.val).monitor then s.endPart c.val 0x114 ErrInfo.none else s)

/-! ## Operands -/

/-- r, the products per cell and cycle (Table 5-1); K is 128 r. -/
def mmaR (fmt : Nat) : Nat := match fmt with | 0 => 1 | 1 => 1 | 2 => 2 | 5 => 8 | _ => 4
/-- The bits of an element. -/
def fmtBits (fmt : Nat) : Nat := match fmt with | 0 => 32 | 1 => 16 | 2 => 16 | 5 => 4 | _ => 8
/-- The groups of formats that may meet (R143). -/
def fmtGroup (fmt : Nat) : Nat := match fmt with | 0 => 0 | 1 => 0 | 2 => 1 | 5 => 3 | 6 => 4 | _ => 2

/-- Element `i` of packed elements of a width (R141). -/
def elemAt (w : Nat) (bs : List Byte) (i : Nat) : Nat :=
  if w = 4 then leAt bs (i / 2) 1 / (if i % 2 = 1 then 16 else 1) % 16 else leAt bs (i * (w / 8)) (w / 8)

/-- The F19 value of a value, toward zero or to nearest even (Table 8-3). -/
def toF19 (rnd : Bool) (v : FV) : FV := f19.decode (convert (.flt f19) true (if rnd then .rne else .rtz) false v).bits
/-- The exact difference of two numbers. -/
def subNum (a b : FV) : FV :=
  match a, b with
  | .num x m e, .num y n g => let r := addExact (sgn x m, e) (-(sgn y n), g); .num (decide (r.1 < 0)) r.1.natAbs r.2
  | _, _ => .num false 0 0
/-- Piece `j` of an FP32 value (R161). -/
def pieceOf (j : Nat) (v : FV) : FV :=
  match v with
  | .num _ _ _ =>
    let p0 := toF19 false v
    let r := subNum v p0
    let p1 := toF19 false r
    if j = 0 then p0 else if j = 1 then p1 else subNum r p1
  | _ => if j = 0 then toF19 false v else .num false 0 0

/-- The FP32 word of the value with which an element enters a cell (R158, R161, Table 8-2). -/
def enterCell (fmt piece : Nat) (rnd : Bool) (b : Nat) : Word :=
  let word (v : FV) : Word := BitVec.ofNat 32 (convert (.flt fp32) true .rne false v).bits
  if fmt = 0 then word (f19.flushIn (if piece = 0 then toF19 rnd (fp32.decode b) else pieceOf (piece - 1) (fp32.decode b)))
  else
    let v := (tyOf fmt).decode b
    word (if fmt = 2 then bf16.flushIn v else v)

/-- A Pantry block's checks: aligned, and wholly within the Pantry (R156). -/
def blockOk (off n : Nat) : Bool := off % 128 == 0 && decide (off + n ≤ pantrySize)

/-- The Pantry offset x[RS1] + OFF x unit of an operand. -/
def TileIns.at_ (i : TileIns) (off unit : Nat) : Nat := (i.a + BitVec.ofNat 64 (off * unit)).toNat

/-! ## Arithmetic (R158 to R160) -/

/-- Sums a list pairwise, in the order of R194: elements 2i and 2i + 1 first, then the results of the level below. -/
def pairLevel {α : Type} (f : α → α → α) : List α → List α
  | a :: b :: l => f a b :: pairLevel f l
  | l => l
def pairTree {α : Type} (f : α → α → α) (z : α) (fuel : Nat) (l : List α) : α :=
  match fuel, l with
  | _, [] => z
  | _, [a] => a
  | 0, a :: _ => a
  | n + 1, l => pairTree f z n (pairLevel f l)

/-- The largest finite FP32 value. -/
def fp32Max : Int × Int := (2 ^ 24 - 1, 104)
/-- Whether one number is below another. -/
def numLt (a b : Int × Int) : Bool := decide ((addExact a (-b.1, b.2)).1 < 0)
/-- A number's magnitude. -/
def numAbs (a : Int × Int) : Int × Int := ((a.1.natAbs : Int), a.2)
/-- A number times 2^k. -/
def numShift (a : Int × Int) (k : Int) : Int × Int := (a.1, a.2 + k)

/-- The least magnitude that rounds to an infinity in FP32: 2^128 - 2^103. -/
def fp32Over : Int × Int := (2 ^ 25 - 1, 103)
/-- The exact sum of numbers. -/
def numSum (l : List (Int × Int)) : Int × Int := l.foldl addExact (0, 0)
/-- The exact sum of the numbers of one sign, as a magnitude. -/
def signSum (neg : Bool) (l : List (Int × Int)) : Int × Int := numAbs (numSum (l.filter (fun t => decide (t.1 < 0) == neg)))
/-- The exact sums of the cells of a column: each adds its r products (R158). -/
def cellSums (r : Nat) (ts : List (Int × Int)) : List (Int × Int) :=
  (List.range ((ts.length + r - 1) / r)).map (fun j => numSum ((ts.drop (j * r)).take r))

/-- Whether a partial sum of these numbers, added in some order with a rounding after each but the last, can round to an infinity of a sign. -/
def mayOverflow (neg : Bool) (xs : List (Int × Int)) : Bool :=
  let n := xs.length - 1
  let a := signSum neg xs
  !numLt (numShift a 1) fp32Over && !numLt (a.1 * (2 ^ 24 + 1) ^ n, a.2 - 24 * n) fp32Over
/-- Whether every order of adding them meets an infinity: one of them alone is beyond what any finite partial sum brings back, or the whole sum
less all rounding is beyond the largest finite number. -/
def mustOverflow (xs : List (Int × Int)) : Bool :=
  let n := xs.length - 1
  let e := numAbs (numSum xs)
  xs.any (fun x => !numLt (numAbs x) (addExact fp32Over fp32Max)) ||
    (!numLt e fp32Over &&
      (let size := numSum (xs.map numAbs)
       !numLt e (addExact fp32Over (size.1 * ((2 ^ 24 + 1) ^ n - 2 ^ (24 * n)), size.2 - 24 * n))))

/-- C + Σ of products, as the array's accumulators may form it: a NaN and infinities as IEEE 754 has them; each cell adds its r products exactly
and rounds once; an infinity of a sign in which a partial sum may overflow, and always one where some partial sum must; else within 129 u S of
the exact sum; INT8 sums are exact and only the addition of C rounds. The order of the additions is not stated: `free` is the candidate the
part may give (log 9). -/
def arraySum (fmt : Nat) (ps : List (Word × Word)) (c : Word) (free : Nat) : Word :=
  let vs := ps.map (fun p => (fp32.decode p.1.toNat, fp32.decode p.2.toNat))
  let cv := fp32.decode c.toNat
  let infs := (vs.filterMap (fun v => match v with
    | (.inf x, .inf y) => some (x != y) | (.inf x, .num y _ _) => some (x != y) | (.num x _ _, .inf y) => some (x != y) | _ => none))
    ++ (match cv with | .inf x => [x] | _ => [])
  let bad := cv.isNan || vs.any (fun v => v.1.isNan || v.2.isNan || (match v with
    | (.inf _, .num _ 0 _) => true | (.num _ 0 _, .inf _) => true | _ => false))
  if bad || (infs.contains true && infs.contains false) then 0x7FC00000
  else if infs.contains true then 0xFF800000
  else if infs.contains false then 0x7F800000
  else
    let products := vs.map (fun v => match v with | (.num x m e, .num y n g) => (sgn (x != y) (m * n), e + g) | _ => (0, 0))
    let terms := products ++ [cv.exact.getD (0, 0)]
    let exact := numSum terms
    let size := numSum (terms.map numAbs)
    let near := fp32.flushOut (fp32.roundInt .rne false exact.1 exact.2).bits
    if fmt = 6 then BitVec.ofNat 32 near
    else
      let cand := Config.nearby free near % 2 ^ 32
      let xs := (cellSums (mmaR fmt) products ++ [cv.exact.getD (0, 0)]).filter (fun x => x.1 != 0)
      let must := mustOverflow xs
      let ok := match fp32.decode cand with
        | .inf neg => mayOverflow neg xs
        | v => match v.exact with
          | some x => !must && within x exact (129 * size.1.natAbs) (size.2 - 24) && fp32.flushOut cand == cand
          | none => false
      let far := if must then (if mayOverflow (decide (exact.1 < 0)) xs then decide (exact.1 < 0) else decide (0 ≤ exact.1)) else false
      BitVec.ofNat 32 (if ok then cand else if must then (if far then 0xFF800000 else 0x7F800000) else near)

/-- An FP32 product of the epilogue: nearest even, subnormal inputs and results flushed (R160, Table 8-2). -/
def epiMul (a b : Word) : Word :=
  BitVec.ofNat 32 (fp32.flushOut (fp32.mulV .rne (fp32.flushIn (fp32.decode a.toNat)) (fp32.flushIn (fp32.decode b.toNat))).bits)

/-- Whether an FP32 word is a NaN. -/
def nanWord (w : Word) : Bool := (fp32.decode w.toNat).isNan

/-! ## t.mma -/

/-- A stationary buffer of a sub-array. -/
def Core.sub (k : Core) (i : Nat) : SubArray := k.subs.get SubArray.reset i
def Core.setSub (k : Core) (i : Nat) (x : SubArray) : Core := { k with subs := k.subs.set SubArray.reset i x }

/-- Whether a running t.mma keeps its array's chain as it is: one with ACC = 1 against an absent operand, which leaves nothing (R168). -/
def Running.keepsChain (r : Running) : Bool := r.error == 0 && r.words.isEmpty

/-- Whether a t.mma is chained to the one before it on its array (R149): the same TD and quadrant, and no writer of TD between them in
program order. -/
def Core.chained (k : Core) (quart : Bool) (i : TileIns) : Bool :=
  let isMma (x : TileIns) : Bool := x.cls == 1 && x.func == 0 && x.ops 24 23 == i.ops 24 23 && !k.arr.any (fun r => r.ins.tag == x.tag && r.keepsChain)
  let between := ((k.earlier i).reverse.takeWhile (fun x => !isMma x)).filter (fun x => !k.arr.any (fun r => r.ins.tag == x.tag && r.keepsChain))
  (k.sub (i.ops 24 23)).chain == some (i.ops 31 28, i.ops 20 19) && !between.any (fun x => meets (x.writes quart) (i.writes quart))

/-- The lowest-numbered free stream slot (R289). -/
def Core.freeSlot (k : Core) : Option (Fin 16) := (List.finRange 16).find? (fun n => (k.slots.get StreamSlot.reset n.val).phase == 0)

/-- Whether the unit whose queue's head an instruction is would start it, were its credit there (R120, R121, R150): the stream engine with a free
slot; the array outside a replay that is due or running (R275), a t.mma outside the self-test (R98), with what it reads written; the vector engine when it is free,
no recompute is due, running or replaying (R273, R275), and what it reads is written. -/
def State.unitReady (s : State) (c : Nat) (u : TileUnit) (i : TileIns) : Bool :=
  let k := s.core c
  let quart := s.quartered c
  match u with
  | .stream => k.freeSlot.isSome
  | .array => k.samplePhase != some 2 && k.samplePhase != some 3 && (match i.func with
      | 0 => !k.testing && (i.ops 27 27 == 0 || k.chained quart i || k.canRead quart i)
      | 3 => k.canRead quart i
      | _ => true)
  | .vector =>
    k.vec.isNone && k.samplePhase != some 1 && k.samplePhase != some 2 && k.samplePhase != some 3 && !(match k.watch.sample with | some x => x.phase == 0 && x.complete | none => false)
      && k.canRead quart i

/-- GRANT_STALL_TIMEOUT (R129): an acquiring instruction at its unit's head whose missing credit alone keeps it from starting, for 2^24
arithmetic cycles, ends the core's part of the kernel. -/
def execGrantStallTimeout (c : CoreId) (u : TileUnit) (s : State) : Outcome :=
  gate s (fun s =>
    let k := s.core c.val
    let q := match u with | .stream => k.accq | .array => k.arrq | .vector => k.vecq
    match q with
    | [] => s
    | i :: _ =>
      if k.mayStart ∧ s.unitReady c.val u i ∧ (k.acquire i).isNone then s.endPart c.val 0x109 { cause := 0, tag := some i.tag, pc := some i.pc } else s)

/-- The tile registers as they stand once the array's running instructions have written. -/
def Core.tilesAhead (k : Core) : Map Word := k.arr.foldl (fun m r => r.words.foldl (fun m w => m.set 0 w.1 w.2) m) k.tiles

/-- The watch's draw (R559). -/
def lfsrStep (s : BitVec 16) : BitVec 16 :=
  let fb := (s.getLsbD 0 ^^ s.getLsbD 2) ^^ (s.getLsbD 3 ^^ s.getLsbD 5)
  (s >>> 1) ||| (if fb then 0x8000 else 0)

/-- What a t.mma has formed: per output element its index, products, C, sum and result. -/
structure MmaOut where
  row  : Nat
  col  : Nat
  ps   : List (Word × Word)
  c    : Word
  sum  : Word
  word : Word
deriving DecidableEq, Repr

/-- The operands of a t.mma against a loaded operand: for each output element its products (R140, R164). -/
def mmaElements (side : Nat) (a : List (List Word)) (rows : List (List Word)) (index : List (List Nat)) : List (Nat × Nat × List (Word × Word)) :=
  (List.range side).flatMap (fun m =>
    let am := a.getD m []
    (List.range side).map (fun n =>
      (m, n, rows.zipIdx.map (fun r => (am.getD (if index.isEmpty then r.2 else (index.getD r.2 []).getD n 0) 0, r.1.getD n 0)))))

/-- The words of TD or its quadrant: each output element's key. -/
def mmaKey (quart : Bool) (i : TileIns) (m n : Nat) : Nat :=
  let qd := if quart then i.ops 20 19 else 0
  tileKey (i.ops 31 28) (m + 64 * (qd / 2)) (n + 64 * (qd % 2))

/-- The whole of a t.mma's destination with undefined contents (R156). -/
def State.mmaUndefined (s : State) (quart : Bool) (i : TileIns) : State × List (Nat × Word) :=
  let side := if quart then 64 else 128
  (s.bumpBy (side * side), (List.range (side * side)).map (fun j => (mmaKey quart i (j / side) (j % side), Config.freeWord (s.fresh + j))))

/-- The watch at the start of a t.mma that is counted (R271, R272, R276): whether this one is sampled, with its first row; `bad` says that it
ends in an error. -/
def State.watchStart (s : State) (c side : Nat) (bad : Bool) : State × Option Nat :=
  let k := s.core c
  let die := coreDie c
  let cfg := s.rd die (coreOff c 0x800)
  let win := 2 ^ bits cfg.toNat 4 0
  let w := k.watch
  let w := if w.count = 0 then (let l := lfsrStep w.lfsr; { w with lfsr := l, position := l.toNat % win, moved := false }) else w
  let sel := if w.moved then w.sample.isNone else w.count == w.position
  let busy := sel && w.sample.isSome
  let draw := sel && !busy
  let l := if draw then lfsrStep w.lfsr else w.lfsr
  let row := if draw && !bad then some (l.toNat % (side / 4)) else none
  let moved := if busy then true else if draw then bad else w.moved
  let last := decide (win ≤ w.count + 1)
  let lost := (if draw && bad then 1 else 0) + (if last && moved && w.sample.isSome then 1 else 0)
  let w := { w with lfsr := l, moved := moved && !last, count := if last then 0 else w.count + 1 }
  (((s.setCore c { k with watch := w }).inc64 die (coreOff c 0x810) lost), row)

/-- A value as a cell with a transient or persistent fault delivers it (R175). -/
def upsetWord (upset : List (Nat × Word)) (at_ : Nat) (w : Word) : Word := (upset.find? (fun u => u.1 == at_)).elim w (·.2)

/-- Whether an active buffer's block is absent (R168). -/
def StatBuf.isAbsent : StatBuf → Bool | .absent _ => true | _ => false

/-- Checked mode's comparison of an element (R278): T2 is the second pass's sum with the same epilogue, `second` its faults; Ŝ is the magnitude
accumulator's sum times σ; `free` and `free + 1` are the candidates of the two sums. -/
def MmaOut.differs (o : MmaOut) (fmt : Nat) (epi : Bool) (e : Word) (bound free : Nat) (second : List (Nat × Word)) : Bool :=
  let absW (w : Word) : Word := w &&& 0x7FFFFFFF
  let sum2 := arraySum fmt o.ps o.c free
  let t2 := upsetWord second (o.row * 128 + o.col) (if epi then epiMul e sum2 else sum2)
  let sum := arraySum fmt (o.ps.map (fun p => (absW p.1, absW p.2))) (absW o.c) (free + 1)
  let sigma : Word := if epi then absW e else 0x3F800000
  let size := if epi then epiMul sigma sum else sum
  match (fp32.decode size.toNat).exact, (fp32.decode sigma.toNat).exact with
  | some sv, some gv =>
    (match (fp32.decode o.word.toNat).exact, (fp32.decode t2.toNat).exact with
    | some a, some b =>
      let lim := addExact (numShift sv (-15)) (numShift gv (-123))
      numLt (lim.1 * bound, lim.2) (numAbs (addExact a (-b.1, b.2)))
    | _, _ => numLt (addExact sv (numShift sv (-15))) fp32Max)
  | _, _ => false

/-- Starts a t.mma at the head of the array's queue (R140 to R143, R147 to R150, R153, R156, R158 to R161, R164 to R169). MMA_STREAM_CYCLES
rises by the cycles each t.mma streams, 64 in a quadrant; an absent or failed one streams none (DESIGN CHOICE, log 71). -/
def State.mma (s : State) (c : Nat) (i : TileIns) (ecc : List EccHit) (upset second : List (Nat × Word)) : State × Running :=
  let s := s.flaw c ecc
  let k := s.core c
  let die := coreDie c
  let quart := s.quartered c
  let side := if quart then 64 else 128
  let sub := i.ops 24 23
  let acc := i.ops 27 27 = 1
  let fmt := i.ops 18 16
  let piece := i.ops 22 21
  let qd := if quart then i.ops 20 19 else 0
  let chained := k.chained quart i
  let active := (k.sub sub).active
  let s := s.inc64 die (coreOff c 0x408)
  let kd := mmaR fmt * side
  let kl := match active with | .loaded _ sp _ _ _ => if sp = 0 then kd else 2 * kd | _ => kd
  let rowBytes := kl * fmtBits fmt / 8
  let at_ := i.at_ (i.ops 15 0) 128
  let operandBad := fmt = 7 ∨ (piece ≠ 0 ∧ fmt ≠ 0) ∨ (!quart ∧ (sub ≠ 0 ∨ i.ops 20 19 ≠ 0)) ∨ !blockOk at_ (side * rowBytes)
  let remember (s : State) : State := s.modCore c (fun k => k.setSub sub { k.sub sub with chain := some (i.ops 31 28, i.ops 20 19) })
  let fail (s : State) (code : Nat) (undef : Bool) : State × Running :=
    let s := if s.checked die || active.isAbsent then s else (s.watchStart c side true).1
    let (s, ws) := if undef then s.mmaUndefined quart i else (s, [])
    (remember s, { k.run i code with words := ws })
  if operandBad then fail s 0x10E true
  else match active with
    | .empty => fail s 0x10D false
    | .absent f =>
      if fmtGroup f ≠ fmtGroup fmt then fail s 0x10C false
      else
        let s := s.incFld die (coreOff c 0x418) 31 16
        if acc then (s, k.run i 0)
        else (remember s, { k.run i 0 with words := (List.range (side * side)).map (fun j => (mmaKey quart i (j / side) (j % side), 0)) })
    | .loaded f _ halved rows index =>
      if fmtGroup f ≠ fmtGroup fmt then fail s 0x10C false
      else
        let (s, bad) := s.panRead c 1 (granulesOf at_ (side * rowBytes))
        if !bad.isEmpty then fail s 0x10F true
        else
          let s := if halved then s.incFld die (coreOff c 0x418) 15 0 else s
          let s := s.inc64 die (coreOff c 0x410) ((if halved || quart then 64 else 128) * (if s.checked die then 2 else 1))
          let a := (List.range side).map (fun m =>
            let bs := k.pan (at_ + m * rowBytes) rowBytes
            (List.range kl).map (fun j => enterCell fmt piece (i.ops 25 25 == 1) (elemAt (fmtBits fmt) bs j)))
          let tiles := if chained then k.tilesAhead else k.tiles
          let epi := i.ops 26 26 = 1
          let sA : Word := i.b.setWidth 32
          let sB : Word := (i.b >>> 32).setWidth 32
          let scale := epiMul sA sB
          let fresh := s.fresh
          let outs := (mmaElements side a rows index).zipIdx.map (fun x =>
            let cw := if acc then tiles.get 0 (mmaKey quart i x.1.1 x.1.2.1) else 0
            let sum := arraySum fmt x.1.2.2 cw (fresh + x.2)
            let word := upsetWord upset (x.1.1 * 128 + x.1.2.1) (if epi then epiMul scale sum else sum)
            { row := x.1.1, col := x.1.2.1, ps := x.1.2.2, c := cw, sum := sum, word := word : MmaOut })
          let s := s.bumpBy (side * side)
          let made := outs.find? (fun o => nanWord o.word && !nanWord o.c && !(epi && (nanWord sA || nanWord sB)) && !o.ps.any (fun p => nanWord p.1 || nanWord p.2))
          let nan := made.map (fun o => [0x08 * 2 ^ 24 + fmt * 2 ^ 16, i.ops 31 28 * 2 ^ 28 + ((o.row + 64 * (qd / 2)) * 256 + (o.col + 64 * (qd % 2))), o.c.toNat, o.sum.toNat, (if epi then scale else 0x3F800000).toNat])
          let r : Running := { k.run i 0 with words := outs.map (fun o => (mmaKey quart i o.row o.col, o.word)), nan := nan }
          if s.checked die then
            let base := s.fresh
            let differ := outs.zipIdx.any (fun x => (x.1).differs fmt epi scale (s.fld die (coreOff c 0x800) 14 12) (base + 2 * x.2) second)
            let s := s.bumpBy (2 * side * side)
            (if differ then remember (s.leafDetect (coreFault c 1 0x2E 0 1 [i.tag])) else remember s, r)
          else
            let (s, row) := s.watchStart c side false
            let s := match row with
              | none => s
              | some ρ =>
                let sample : Sample := {
                  own := false, tag := i.tag, fmt := fmt, sub := sub, depth := kl, boundS := s.fld die (coreOff c 0x800) 14 12,
                  elements := (outs.filter (fun o => o.row % (side / 4) == ρ)).map (fun o => (o.row, o.col, o.ps, o.c, o.word)),
                  scaleA := sA, scaleB := sB, epi := epi, complete := false, phase := 0 }
                s.modCore c (fun k => { k with watch := { k.watch with sample := some sample } })
            (remember s, r)

/-- Starts the instruction at the head of the array's queue where it is of a function, its hazards allow and its credit is there (R120, R121,
R128). A watch replay holds the queue (R275). -/
def arrStart (c : CoreId) (func : Nat) (s : State) (f : State → TileIns → State × Running) : Outcome :=
  gate s (fun s =>
    let s := s.runDue c.val
    let k := s.core c.val
    match k.arrq with
    | [] => s
    | i :: rest =>
      if i.func = func ∧ k.mayStart ∧ s.unitReady c.val .array i then
        match k.acquire i with
        | none => s
        | some k =>
          let (s, r) := f (s.setCore c.val { k with arrq := rest }) i
          if (s.core c.val).runs then s.modCore c.val (fun k => { k with arr := k.arr ++ [r] }) else s
      else s)

/-- T_MMA (R140, R149, R150, R97, R98): `upset` gives elements (row x 128 + column) whose value a transient fault of a cell changes (R175),
`second` the same for the second pass of checked mode (R278). -/
def execTMma (c : CoreId) (ecc : List EccHit) (upset second : List (Nat × Word)) (s : State) : Outcome :=
  arrStart c 0 s (fun s i => s.mma c.val i ecc upset second)

/-! ## t.sload, t.swap, t.ewise -/

/-- A stored operand's rows and metadata, from the Pantry. A metadata row holds two bits for each column, so that it is 16 bytes in the Quartered
geometry (DEDUCED, log 70). -/
def loadRows (k : Core) (at_ fmt piece : Nat) (rnd : Bool) (side stored sparse : Nat) : List (List Word) × List (List Nat) :=
  let rowBytes := side * fmtBits fmt / 8
  let rows := (List.range stored).map (fun j =>
    let bs := k.pan (at_ + j * rowBytes) rowBytes
    (List.range side).map (fun n => enterCell fmt piece rnd (elemAt (fmtBits fmt) bs n)))
  let meta_ := at_ + stored * rowBytes
  let index := if sparse = 0 then [] else (List.range stored).map (fun j =>
    let bs := k.pan (meta_ + j * (side / 4)) (side / 4)
    (List.range side).map (fun n => (if sparse = 1 then 4 * (j / 2) else 4 * j) + leAt bs (n / 4) 1 / 4 ^ (n % 4) % 4))
  (rows, index)

/-- Starts a t.sload (R144, R145, R154, R156, R164 to R168). A quartered block takes a quarter of Table 5-8's bytes (log 70). A row counts as zero
where the values that enter the cells are: after conversion, PIECE and flush (DESIGN CHOICE, log 72). -/
def State.sload (s : State) (c : Nat) (i : TileIns) (ecc : List EccHit) : State × Running :=
  let s := s.flaw c ecc
  let k := s.core c
  let quart := s.quartered c
  let side := if quart then 64 else 128
  let sub := i.ops 24 23
  let fmt := i.ops 18 16
  let piece := i.ops 22 21
  let sparse := i.ops 20 19
  let setShadow (s : State) (b : StatBuf) : State := s.modCore c (fun k => k.setSub sub { k.sub sub with shadow := b })
  let absent := i.ops 25 25 = 1 ∧ !(i.b.getLsbD (i.ops 31 26))
  let kd := mmaR fmt * side
  let stored := if sparse = 2 then kd / 2 else kd
  let n := stored * side * fmtBits fmt / 8 + (if sparse = 0 then 0 else stored * side / 4)
  let at_ := i.at_ (i.ops 14 0) 256
  if fmt = 7 ∨ sparse = 3 ∨ (piece ≠ 0 ∧ fmt ≠ 0) ∨ (!quart ∧ sub ≠ 0) ∨ (!absent ∧ !blockOk at_ n) then (s, k.run i 0x10E)
  else if absent then (setShadow s (.absent fmt), k.run i 0)
  else
    let (s, bad) := s.panRead c 1 (granulesOf at_ n)
    if !bad.isEmpty then (setShadow s .empty, k.run i 0x10F)
    else
      let (rows, index) := loadRows k at_ fmt piece (i.ops 15 15 == 1) side stored sparse
      let badMeta := sparse = 1 ∧ (List.range (stored / 2)).any (fun g => (List.range side).any (fun m =>
        decide ((index.getD (2 * g + 1) []).getD m 0 ≤ (index.getD (2 * g) []).getD m 0)))
      if badMeta then (setShadow s .empty, k.run i 0x110)
      else
        let nonzero := (List.range side).filter (fun p => (List.range (mmaR fmt)).any (fun j => (rows.getD (p * mmaR fmt + j) []).any (fun w => w &&& 0x7FFFFFFF != 0)))
        (setShadow s (.loaded fmt sparse (!quart && sparse == 0 && decide (nonzero.length ≤ 64)) rows index), k.run i 0)

/-- T_SLOAD (R144). -/
def execTSload (c : CoreId) (ecc : List EccHit) (s : State) : Outcome := arrStart c 1 s (fun s i => s.sload c.val i ecc)

/-- T_SWAP (R146, R155): the shadow operand becomes the active one; an empty shadow buffer ends in "array sequence". A nonzero
field that R155 has zero ends in "array operand" (DESIGN CHOICE, log 69). -/
def execTSwap (c : CoreId) (s : State) : Outcome :=
  arrStart c 2 s (fun s i =>
    let k := s.core c.val
    let sub := i.ops 24 23
    let x := k.sub sub
    if i.ops 31 25 ≠ 0 ∨ i.ops 22 0 ≠ 0 ∨ (!s.quartered c.val ∧ sub ≠ 0) then (s, k.run i 0x10E)
    else if x.shadow = .empty then (s, k.run i 0x10D)
    else (s.setCore c.val (k.setSub sub { x with active := x.shadow, shadow := .empty }), k.run i 0))

/-- An element of t.ewise: its product and addend, rounded once (R171). -/
def ewiseElement (op : Nat) (rnd : Bool) (a b d : Word) : Word :=
  let f (w : Word) : FV := f19.flushIn (toF19 rnd (fp32.decode w.toNat))
  let g (w : Word) : FV := fp32.flushIn (fp32.decode w.toNat)
  let r := match op with
    | 0 => fp32.mulV .rne (f a) (f b)
    | 1 => fp32.addV .rne (g a) (g d)
    | _ => fp32.fmaV .rne (f a) (f b) (g d)
  BitVec.ofNat 32 (fp32.flushOut r.bits)

/-- Starts a t.ewise (R155, R156, R171). A nonzero field that R155 has zero ends in "array operand" (DESIGN CHOICE, log 69); it adds its 128
cycles to MMA_STREAM_CYCLES (DESIGN CHOICE, log 71). -/
def State.ewise (s : State) (c : Nat) (i : TileIns) (upset : List (Nat × Word)) : State × Running :=
  let k := s.core c
  let td := i.ops 31 28
  let op := i.ops 15 14
  let s := s.modCore c (fun k => { k with subs := ⟨k.subs.cells.map (fun x => (x.1, if x.2.chain.map (·.1) = some td then { x.2 with chain := none } else x.2))⟩ })
  if op = 3 ∨ i.ops 12 0 ≠ 0 then
    (s.bumpBy 16384, { k.run i 0x10E with words := (List.range 16384).map (fun j => (td * 16384 + j, Config.freeWord (s.fresh + j))) })
  else
    let at_ (t j : Nat) : Word := k.tiles.get 0 (t * 16384 + j)
    let outs := (List.range 16384).map (fun j =>
      let a := at_ (i.ops 27 24) j
      let b := at_ (i.ops 23 20) j
      let d := at_ (i.ops 19 16) j
      let w := upsetWord upset j (ewiseElement op (i.ops 13 13 == 1) a b d)
      (j, a, (if op = 1 then 0 else b), (if op = 0 then 0 else d), w))
    let made := outs.find? (fun o => nanWord o.2.2.2.2 && !nanWord o.2.1 && !nanWord o.2.2.1 && !nanWord o.2.2.2.1)
    let nan := made.map (fun o => [0x0B * 2 ^ 24, td * 2 ^ 28 + (o.1 / 128 * 256 + o.1 % 128), o.2.1.toNat, o.2.2.1.toNat, o.2.2.2.1.toNat])
    let s := s.inc64 (coreDie c) (coreOff c 0x410) 128
    (s, { k.run i 0 with words := outs.map (fun o => (td * 16384 + o.1, o.2.2.2.2)), nan := nan })

/-- T_EWISE (R171). -/
def execTEwise (c : CoreId) (upset : List (Nat × Word)) (s : State) : Outcome :=
  arrStart c 3 s (fun s i => s.ewise c.val i upset)

/-! ## Self-test -/

/-- T_STEST (R174): the test on demand; a core that it fences returns nothing. A nonzero field that R155 has zero ends in "array operand" (DESIGN
CHOICE, log 69). -/
def execTStest (c : CoreId) (m1 m2 : Bool) (s : State) : Outcome :=
  arrStart c 4 s (fun s i =>
    let k := s.core c.val
    if i.ops 31 1 ≠ 0 then (s, k.run i 0x10E) else (s.selfTest c.val m1 m2, k.run i 0))

/-- ARRAY_SELF_TEST_DUE (R172, R173): the hardware's test, on an enabled core in service; one that falls due during a replay runs when the replay
ends (R276). -/
def execArraySelfTestDue (c : CoreId) (m1 m2 : Bool) (s : State) : Outcome :=
  gate s (fun s =>
    let k := s.core c.val
    if s.dieOnline (coreDie c.val) ∧ !k.fenced ∧ !k.testing ∧ !k.resetting then
      let s := s.runDue c.val
      (s.modCore c.val (fun k => { k with testDue := some (m1, m2) })).runDue c.val
    else s)

/-! ## Completion -/

/-- An instruction's completion: what it wrote, its NaN, its tokens and grant (R123, R127, R148, R255, R256). `unit` is 1 for the array and 2
for the vector engine. -/
def State.finishTile (s : State) (c unit : Nat) (r : Running) : State :=
  let (s, r) := s.land c unit r
  let s := if r.nan.isSome && r.trap then s.modCore c (fun k => { k with nanTrap := true }) else s
  s.tileDone c r.ins 1 (r.error != 0)

/-- ARRAY_COMPLETION (R148): the array's oldest running instruction reports, once what it writes is free (R121). -/
def execArrayCompletion (c : CoreId) (s : State) : Outcome :=
  gate s (fun s =>
    let k := s.core c.val
    match k.arr with
    | [] => s
    | r :: rest =>
      if k.canWrite (s.quartered c.val) r.ins then
        let w := match k.watch.sample with
          | some x => if x.tag = r.ins.tag ∧ !x.complete then { k.watch with sample := some { x with complete := true } } else k.watch
          | none => k.watch
        (s.setCore c.val { k with arr := rest, watch := w }).finishTile c.val 1 r
      else s)

/-! ## The numerics watch (R273 to R279) -/

/-- W and Ŝ of a copied element in a mode: products exact, sums in pairing order, C added to the sum, then the epilogue (R273). -/
def watchValues (md : Mode) (x : Sample) (ps : List (Word × Word)) (cw : Word) : Nat × Nat × Nat :=
  let add := fun a b => (fp32.add md a b).bits
  let absW (b : Nat) : Nat := b % 2 ^ 31
  let prods := ps.map (fun p => (fp32.mulV .rne (fp32.decode p.1.toNat) (fp32.decode p.2.toNat)).bits)
  let n := prods.length
  let sum := add cw.toNat (pairTree add 0 n prods)
  let size := add (absW cw.toNat) (pairTree add 0 n (prods.map absW))
  let e := if x.epi then (fp32.mul md x.scaleA.toNat x.scaleB.toNat).bits else 0x3F800000
  if x.epi then ((fp32.mul md e sum).bits, (fp32.mul md (absW e) size).bits, absW e) else (sum, size, absW e)

/-- The bound of R274: BOUND_SCALE x (2^-16 Ŝ + 2^-124 σ). -/
def watchBound (scale : Nat) (size sigma : Int × Int) : Int × Int :=
  let b := addExact (numShift size (-16)) (numShift sigma (-124))
  (b.1 * scale, b.2)

/-- Whether a copied element is compared, and whether it disagrees (R274). -/
def watchJudge (x : Sample) (td w size sigma : Nat) : Bool × Bool :=
  match (fp32.decode w).exact, (fp32.decode size).exact, (fp32.decode sigma).exact with
  | some wv, some sv, some gv =>
    (match (fp32.decode td).exact with
    | some tv => (true, numLt (watchBound x.boundS sv gv) (numAbs (addExact tv (-wv.1, wv.2))))
    | none => (true, numLt (addExact sv (numShift sv (-16))) fp32Max))
  | _, _, _ => (false, false)

/-- WATCH_RECOMPUTE (R273): a vector-engine operation that starts once the selected t.mma has completed and the engine is free. -/
def execWatchRecompute (c : CoreId) (s : State) : Outcome :=
  gate s (fun s =>
    let k := s.core c.val
    match k.watch.sample with
    | some x =>
      if x.phase = 0 ∧ x.complete ∧ k.vec.isNone ∧ !k.fenced then
        s.setCore c.val { k with watch := { k.watch with sample := some { x with phase := 1 } } }
      else s
    | none => s)

/-- The slice-cycles of a recompute: 32 K, or 16 K in the Quartered geometry, with K the logical K (R273). -/
def State.watchSlices (s : State) (c : Nat) (x : Sample) : Nat :=
  (if s.quartered c then 16 else 32) * x.depth

/-- Releases the watch, its sample compared or skipped. -/
def State.watchFree (s : State) (c : Nat) (compared : Bool) : State :=
  (s.modCore c (fun k => { k with watch := { k.watch with sample := none } })).inc64 (coreDie c) (coreOff c (if compared then 0x808 else 0x810))

/-- WATCH_RECOMPUTE_DONE (R274, R275): agreement frees the watch; a disagreement fills the record and asks for a replay. -/
def execWatchRecomputeDone (c : CoreId) (s : State) : Outcome :=
  gate s (fun s =>
    let k := s.core c.val
    let die := coreDie c.val
    match k.watch.sample with
    | some x =>
      if x.phase ≠ 1 then s
      else
        let s := s.inc64 die (coreOff c.val 0x818) (s.watchSlices c.val x)
        let rs := x.elements.map (fun e =>
          let v := watchValues Mode.fast x e.2.2.1 e.2.2.2.1
          (e, v, watchJudge x e.2.2.2.2.toNat v.1 v.2.1 v.2.2))
        match rs.find? (fun r => r.2.2.2) with
        | none => s.watchFree c.val (rs.any (fun r => r.2.2.1))
        | some (e, v, _) =>
          let own := s.fld die (coreOff c.val 0x820) 31 31 == 0
          let s :=
            if !own then s
            else
              let b := watchBound x.boundS ((fp32.decode v.2.1).exact.getD (0, 0)) ((fp32.decode v.2.2).exact.getD (0, 0))
              let s := s.wr die (coreOff c.val 0x820) (BitVec.ofNat 32 (2 ^ 31 + x.fmt * 2 ^ 27 + x.sub * 2 ^ 25 + e.1 * 2 ^ 16 + e.2.1 * 2 ^ 8 + x.tag.toNat))
              let s := (s.wr die (coreOff c.val 0x824) e.2.2.2.2).wr die (coreOff c.val 0x828) (BitVec.ofNat 32 v.1)
              (s.wr die (coreOff c.val 0x82C) (BitVec.ofNat 32 (fp32.roundInt .rne false b.1 b.2).bits)).setFld die (coreOff c.val 0x804) 3 3 1
          s.setCore c.val { s.core c.val with watch := { k.watch with sample := some { x with phase := 2, own := own } } }
    | none => s)

/-- WATCH_REPLAY (R275): at the array's next instruction boundary the replay starts and holds the unit queue. -/
def execWatchReplay (c : CoreId) (s : State) : Outcome :=
  gate s (fun s =>
    let k := s.core c.val
    match k.watch.sample with
    | some x => if x.phase = 2 then s.setCore c.val { k with watch := { k.watch with sample := some { x with phase := 3 } } } else s
    | none => s)

/-- WATCH_REPLAY_DONE (R275), once the vector engine, free of an earlier chain, has recomputed in strict mode: the array's replayed results, by position among the copied elements (one not listed replays within the bound), against the strict
recompute: reproduced,
the core is fenced; else the transient is counted, and a contained entry ends the core's part of the kernel with "array result". -/
def execWatchReplayDone (c : CoreId) (replayed : List (Nat × Word)) (s : State) : Outcome :=
  gate s (fun s =>
    let k := s.core c.val
    let die := coreDie c.val
    match k.watch.sample with
    | some x =>
      if x.phase ≠ 3 ∨ k.vec.isSome then s
      else
        let s := s.inc64 die (coreOff c.val 0x818) (4 * s.watchSlices c.val x)
        let repro := x.elements.zipIdx.any (fun e =>
          match replayed.find? (fun r => r.1 == e.2) with
          | none => false
          | some r =>
            let v := watchValues { strict := true, rm := .rne } x e.1.2.2.1 e.1.2.2.2.1
            (watchJudge x r.2.toNat v.1 v.2.1 v.2.2).2)
        let s := s.watchFree c.val true
        if repro then (if x.own then s.setFld die (coreOff c.val 0x820) 30 30 1 else s).leafDetect (coreFault c.val 1 0x2C 0 0 [x.tag])
        else
          let f := coreFault c.val 1 0x2D 0 0 [x.tag]
          let contained := (s.verdict f).cls = 1
          let s := (s.satFld die (coreOff c.val 0x804) 31 24).leafDetect f
          if contained then s.endPart c.val 0x113 { cause := 0, tag := some x.tag, pc := none } else s.runDue c.val
    | none => s)

/-- WATCH_DIS_CLEAR (R279): writing 1 to WATCH_STATUS.DIS clears it and the record's VALID. -/
def execWatchDisClear (c : CoreId) (s : State) : Outcome :=
  gate s (fun s => (s.setFld (coreDie c.val) (coreOff c.val 0x804) 3 3 0).setFld (coreDie c.val) (coreOff c.val 0x820) 31 31 0)

end Sys2Proof.Machine
end

