-- ==== Sys2Proof/Machine/Functions.lean ====
section
/-! DEFINITION. The functions of Table 6-10 that promise a bound only, computed in fixed point far beyond the bound: a number x stands as the
integer x × 2^p, cut off below. -/

namespace Sys2Proof.Machine

/-- The places kept behind the point for a format's results. -/
def Fmt.places (f : Fmt) : Nat := if f.fb = 52 then 1300 else 360

/-- x × y and x / y in fixed point. -/
def fxMul (p : Nat) (x y : Int) : Int := x * y / 2 ^ p
def fxDiv (p : Nat) (x y : Int) : Int := x * 2 ^ p / y

/-- A series whose term i + 1 is `next i` of term i, weighed by 1 / (2i + 1), with alternating signs or not. -/
def oddSeries (next : Int → Int) (alternate : Bool) (first : Int) (terms : Nat) : Int :=
  ((List.range terms).foldl (fun (a : Int × Int) i => (a.1 + (if alternate && i % 2 == 1 then -1 else 1) * (a.2 / (2 * i + 1)), next a.2)) (0, first)).1

/-- The logarithm of 2, as 2 artanh(1/3), and π, as 16 arctan(1/5) − 4 arctan(1/239). -/
def fxLn2 (p : Nat) : Int := 2 * oddSeries (· / 9) false (2 ^ p / 3) p
def fxPi (p : Nat) : Int := 16 * oddSeries (· / 25) true (2 ^ p / 5) p - 4 * oddSeries (· / 57121) true (2 ^ p / 239) p

/-- artanh z for |z| ≤ 1/3. -/
def fxArtanh (p : Nat) (z : Int) : Int := oddSeries (fun t => fxMul p (fxMul p t z) z) false z (p / 3 + 2)

/-- exp x: Taylor's series of x / 2^k, squared k times. -/
def fxExp (p : Nat) (x : Int) : Int :=
  let k := Nat.log2 (x.natAbs / 2 ^ p + 1) + 9
  let q := p + 64 + 2 * k
  let r := x * 2 ^ (64 + k)
  let e := ((List.range (q / 8 + 2)).foldl (fun (a : Int × Int) i => (a.1 + a.2, fxMul q a.2 r / (i + 1))) (0, 2 ^ q)).1
  (List.range k).foldl (fun y _ => fxMul q y y) e / 2 ^ (q - p)

/-- log (1 + x) for 0 ≤ x ≤ 1. -/
def fxLog1p (p : Nat) (x : Int) : Int := 2 * fxArtanh p (fxDiv p x (2 ^ (p + 1) + x))

/-- log of m × 2^e. -/
def fxLog (p m : Nat) (e : Int) : Int :=
  let l := Nat.log2 m
  let big := decide (3 * 2 ^ l ≤ 2 * m)
  let l := if big then l + 1 else l
  (e + l) * fxLn2 p + 2 * fxArtanh p (((m : Int) - 2 ^ l) * 2 ^ p / ((m : Int) + 2 ^ l))

/-- An argument beyond ±2048 acts as ±2048: every function of it has reached its limit in every format. -/
def fxClamp (p : Nat) (x : Int) : Int := max (-(2 ^ (p + 11) : Int)) (min (2 ^ (p + 11) : Int) x)

/-- 1 / (1 + exp (−x)). -/
def fxSigmoid (p : Nat) (x : Int) : Int :=
  let e := fxExp p (-((fxClamp p x).natAbs : Int))
  if 0 ≤ x then fxDiv p (2 ^ p) (2 ^ p + e) else fxDiv p e (2 ^ p + e)

/-- The square root of 2 / π. -/
def fxRoot2Pi (p : Nat) : Int := (Nat.sqrt (2 ^ (3 * p + 1) / (fxPi p).toNat) : Int)

/-- The distribution function of the normal law, (1 + erf (x / √2)) / 2: the series of erf has positive terms only. -/
def fxNormal (p : Nat) (x : Int) : Int :=
  let a : Int := min x.natAbs (2 ^ (p + 6))
  let sq := (fxMul p a a / 2 ^ p).toNat + 1
  let q := p + 64 + 2 * sq
  let y := a * 2 ^ (q - p)
  let y2 := fxMul q y y
  let sum := ((List.range (sq + q + 8)).foldl (fun (t : Int × Int) i => (t.1 + t.2, fxMul q t.2 y2 / (2 * i + 3))) (0, 2 ^ q)).1
  let erf := min (2 ^ q : Int) (fxMul q (fxMul q (fxRoot2Pi q) y) (fxMul q (fxExp q (-(y2 / 2))) sum))
  (if 0 ≤ x then 2 ^ q + erf else 2 ^ q - erf) / 2 ^ (q - p + 1)

/-- The value of function `fn` of Table 6-10 at a finite number, in fixed point: gelu in its tanh and its erf form, silu, sigmoid, tanh, exp,
log, rsqrt, softplus (R201, R202). -/
def fxFunction (p fn : Nat) (neg : Bool) (m : Nat) (e : Int) : Int :=
  let x : Int := (if neg then -1 else 1) * (m * 2 ^ (e + p).toNat)
  match fn with
  | 2 =>
    let z := fxMul p (fxRoot2Pi p) (x + 44715 * fxMul p x (fxMul p x x) / 1000000)
    fxMul p x (fxSigmoid p (2 * z))
  | 3 => fxMul p x (fxNormal p x)
  | 4 => fxMul p x (fxSigmoid p x)
  | 5 => fxSigmoid p x
  | 6 =>
    let t := fxExp p (-(2 * (fxClamp p x).natAbs : Int))
    (if neg then -1 else 1) * fxDiv p (2 ^ p - t) (2 ^ p + t)
  | 7 => fxExp p (fxClamp p x)
  | 8 => fxLog p m e
  | 9 => (Nat.sqrt (if 0 ≤ e then 2 ^ (2 * p) / (m * 2 ^ e.toNat) else 2 ^ (2 * p + (-e).toNat) / m) : Int)
  | _ =>
    let t := fxLog1p p (fxExp p (-((fxClamp p x).natAbs : Int)))
    if neg then t else x + t

/-- The bound of a function in units in the last place, fast and strict (Table 6-10). -/
def boundOf (fn : Nat) (strict : Bool) : Nat :=
  if strict then (if fn ∈ [2, 3, 4, 12] then 2 else 1) else (if fn ∈ [2, 3, 12] then 4 else if fn ∈ [4, 5, 6] then 3 else 2)

/-- A result of a function that promises a bound: `cand` where it is a finite number of the format that lies within the bound of the value, by
more than the fixed point's own error, else the number nearest to the value (R201). -/
def Fmt.bounded (f : Fmt) (fn k : Nat) (neg : Bool) (m : Nat) (e : Int) (cand : Nat) : Nat :=
  let p := f.places
  let a := fxFunction p fn neg m e
  let minus := if a = 0 then neg && (fn = 2 ∨ fn = 3 ∨ fn = 4 ∨ fn = 6) else decide (a < 0)
  let near := (f.round .rne false minus (2 * a.natAbs + 1) (-(p : Int) - 1)).bits
  match (f.decode cand).exact with
  | none => near
  | some c =>
    let u : Int := (Nat.log2 a.natAbs : Int) - p - f.fb
    let off := addExact c (-a, -(p : Int))
    let slack : Int × Int := (-((a.natAbs / 2 ^ (f.fb + 40) + 2 ^ 40 : Nat) : Int), -(p : Int))
    let d := addExact (addExact ((k : Int), u) slack) (-(off.1.natAbs : Int), off.2)
    if 0 ≤ d.1 then cand else near

end Sys2Proof.Machine
end

