-- ==== Sys2Proof/Machine/Vector.lean ====
section
/-! DEFINITION. The vector engine (chapter 06), cvt.t (R248, R249) and t.cupd (R260 to R264): elements, stages, reductions, loads and
stores, and completion. -/

namespace Sys2Proof.Machine

/-! ## Work types (Table 6-1) -/

/-- The format of a work type. -/
def wtFmt (wt : Nat) : Fmt := match wt with | 1 => fp64 | 2 => bf16 | _ => fp32
/-- The logical width of a work type. -/
def wtWidth (wt : Nat) : Nat := match wt with | 1 => 64 | 2 => 256 | _ => 128
/-- The bytes of an element in the Pantry. -/
def wtBytes (wt : Nat) : Nat := match wt with | 1 => 8 | 2 => 2 | _ => 4

/-- Element (m, n) of a tile register in a work type. -/
def Core.elem (k : Core) (wt t m n : Nat) : Nat :=
  match wt with
  | 1 => (k.tile t m (2 * n)).toNat + 2 ^ 32 * (k.tile t m (2 * n + 1)).toNat
  | 2 => (k.tile t m (n / 2)).toNat / (if n % 2 = 1 then 65536 else 1) % 65536
  | _ => (k.tile t m n).toNat

/-- The words of a whole tile register whose elements are given in row order. -/
def tileWords (wt t : Nat) (vs : List Nat) : List (Nat × Word) :=
  let word (v : Nat) : Word := BitVec.ofNat 32 v
  let key (j : Nat) : Nat := t * 16384 + j
  match wt with
  | 1 => vs.zipIdx.flatMap (fun x => [(key (2 * x.2), word x.1), (key (2 * x.2 + 1), word (x.1 / 2 ^ 32))])
  | 2 =>
    let rec go (j : Nat) : List Nat → List (Nat × Word)
      | a :: b :: l => (key j, word (a % 65536 + 65536 * (b % 65536))) :: go (j + 1) l
      | _ => []
    go 0 vs
  | _ => vs.zipIdx.map (fun x => (key x.2, word x.1))

/-- The bytes of elements of a width in bits, packed (R141, R190). -/
def packElems (w : Nat) (vs : List Nat) : List Byte :=
  if w = 4 then
    let rec go : List Nat → List Byte
      | a :: b :: l => BitVec.ofNat 8 (a % 16 + 16 * (b % 16)) :: go l
      | _ => []
    go vs
  else vs.flatMap (fun v => leBytes (w / 8) v)

/-- Bytes with their Pantry addresses. -/
def placed (off : Nat) (b : List Byte) : List (Nat × Byte) := b.zipIdx.map (fun x => (off + x.2, x.1))

/-! ## Results that promise a bound (R201; log 9) -/

/-- Whether a candidate may stand for a result: it is a number and fast mode would write it so. -/
def candidate (f : Fmt) (md : Mode) (cand : Nat) : Option (Int × Int) :=
  if md.strict || f.flushOut cand == cand then (f.decode cand).exact else none

/-- a / b: correctly rounded in strict mode, within 2 ulp in fast mode. -/
def fDiv (f : Fmt) (md : Mode) (free : Nat) (a b : FV) : FRes :=
  let near := f.finish md (f.divV md.rm a b)
  if md.strict then near
  else
    let cand := Config.nearby free near.bits % 2 ^ f.w
    match a, b, candidate f md cand, (f.decode near.bits).exact with
    | .num x m e, .num y n g, some c, some _ =>
      if m = 0 ∨ n = 0 then near
      else
        let q := quotient (f.fb + 2) m n
        let u := f.ulpExp q.1 (q.2 + e - g)
        if within (c.1 * sgn y n, c.2 + g) (sgn x m, e) (2 * n) (u + g) then { near with bits := cand } else near
    | _, _, _, _ => near

/-- The square root: correctly rounded in strict mode, within 2 ulp in fast mode. -/
def fSqrt (f : Fmt) (md : Mode) (free : Nat) (a : FV) : FRes :=
  let near := f.finish md (f.sqrtV md.rm a)
  if md.strict then near
  else
    let cand := Config.nearby free near.bits % 2 ^ f.w
    match a, candidate f md cand with
    | .num false m e, some c =>
      if m = 0 then near
      else
        let u : Int := ((Nat.log2 m : Int) + e) / 2 - f.fb
        let lo := addExact c (-2, u)
        let hi := addExact c (2, u)
        let sq (x : Int × Int) : Int × Int := (x.1 * x.1, 2 * x.2)
        if (decide (lo.1 ≤ 0) || !numLt (m, e) (sq lo)) && !numLt (sq hi) (m, e) && decide (0 ≤ c.1) then { near with bits := cand } else near
    | _, _ => near

/-- Bits of ±1 and of 0.5 in a format. -/
def oneOf (f : Fmt) (neg : Bool) : Nat := f.signBit neg + f.bias * 2 ^ f.fb
def halfOf (f : Fmt) : Nat := (f.bias - 1) * 2 ^ f.fb

/-- A result of an operation that takes no rounding. -/
def plain (b : Nat) : FRes := { bits := b, flags := 0, made := false }

/-- The functions of Table 6-10 that promise a bound only: gelu in its two forms, silu, sigmoid, tanh, exp, log, rsqrt and softplus, with their
limits and exact results (R200 to R202; log 8). In strict mode the log and rsqrt of -infinity, which produce a NaN, set NV (DESIGN CHOICE, log
74). -/
def actBound (f : Fmt) (md : Mode) (fn : Nat) (v : FV) : FRes :=
  let inf (neg : Bool) : Nat := f.signBit neg + f.infCode
  let zero (neg : Bool) : Nat := f.signBit neg
  match v with
  | .nan _ s _ => f.nanRes s false
  | .inf neg =>
    (match fn with
    | 7 => plain (if neg then zero false else inf false)
    | 8 => if neg then f.nanRes true true else plain (inf false)
    | 9 => if neg then f.nanRes true true else plain (zero false)
    | 6 => plain (oneOf f neg)
    | 5 => plain (if neg then zero false else oneOf f false)
    | 12 => plain (if neg then zero false else inf false)
    | _ => plain (if neg then zero true else inf false))
  | .num neg m e =>
    if (fn = 8 ∨ fn = 9) ∧ neg ∧ m ≠ 0 then f.nanRes true true
    else if fn = 8 ∧ m = 0 then { bits := inf true, flags := 8, made := false }
    else if fn = 9 ∧ m = 0 then { bits := inf neg, flags := 8, made := false }
    else if fn = 7 ∧ m = 0 then plain (oneOf f false)
    else if fn = 5 ∧ m = 0 then plain (halfOf f)
    else if (fn = 2 ∨ fn = 3 ∨ fn = 4 ∨ fn = 6) ∧ m = 0 then plain (zero neg)
    else if fn = 8 ∧ v.cmp (f.decode (oneOf f false)) = some .eq then plain (zero false)
    else
      let b := (f.round .rne false neg m e).bits
      let cand := Config.transcendental (if f = bf16 then fn + 16 else fn) (f == fp64) md.strict b % 2 ^ f.w
      let r := f.bounded fn (boundOf fn md.strict) neg m e cand
      let mag := r % 2 ^ (f.w - 1)
      { bits := r, flags := if mag = f.infCode then 5 else if mag < 2 ^ f.fb then 3 else 1, made := false }

/-- An activation function (Table 6-10). -/
def actFn (f : Fmt) (md : Mode) (fn free : Nat) (v p : FV) (bits : Nat) : FRes :=
  let sign (b : Nat) (neg : Bool) : Nat := b % 2 ^ (f.w - 1) + f.signBit neg
  let num (neg : Bool) (m : Nat) (e : Int) : FRes := f.round .rne false neg m e
  let r : FRes := match fn with
    | 0 => (match v with
      | .nan _ s _ => f.nanRes s false
      | .inf neg => plain (if neg then 0 else f.infCode)
      | .num neg m e => if neg then plain 0 else num false m e)
    | 1 => (match v with
      | .nan _ s _ => f.nanRes s false
      | _ => if v.cmp (.num false 0 0) = some .lt then f.mulV md.rm v p
             else (match v with | .num neg m e => num neg m e | _ => plain bits))
    | 10 => fSqrt f md free v
    | 11 => fDiv f md free (.num false 1 0) v
    | 13 => (match v with | .nan _ s _ => f.nanRes s false | .inf _ => plain f.infCode | .num _ m e => num false m e)
    | 14 => (match v with | .nan _ s _ => f.nanRes s false | .inf neg => plain (sign f.infCode (!neg)) | .num neg m e => num (!neg) m e)
    | 15 => f.mulV md.rm v v
    | _ => actBound f md fn v
  f.finish md r

/-! ## Stages -/

/-- An element on its way through a chain: its bits in the work type, whether a MASK excluded it, the converted result, flags, the first NaN it
produced, and for a tracked conversion whether it overflowed and its source. -/
structure El where
  v     : Nat
  excl  : Bool
  conv  : Option Nat
  flags : Nat
  nan   : Option (List Nat)
  ovf   : Bool
  src   : Option FV
deriving DecidableEq, Repr

/-- What a chain's elements share. -/
structure ChainEnv where
  core   : Core
  num    : Nat
  wt     : Nat
  md     : Mode
  ins    : TileIns
  ctr    : Nat
  base   : Nat
  qexp   : Int
deriving DecidableEq, Repr

/-- A 32-bit FP32 scalar or immediate as an operand of the work type: its bits and value (R187). -/
def scalarOp (wt w : Nat) : Nat × FV :=
  match wt with
  | 1 => ((convert (.flt fp64) true .rne false (fp32.decode w)).bits, fp32.decode w)
  | 2 => let b := (convert (.flt bf16) true .rne false (fp32.decode w)).bits; (b, bf16.decode b)
  | _ => (w, fp32.decode w)

/-- Operand p of a stage (R187). -/
def ChainEnv.opnd (x : ChainEnv) (w : DWord) (m n : Nat) : Nat × FV :=
  let f := wtFmt x.wt
  let size := wtBytes x.wt
  match stOpnd w with
  | 0 => scalarOp x.wt (stImm w)
  | 1 => if x.wt = 1 then (x.ins.b.toNat, fp64.decode x.ins.b.toNat) else scalarOp x.wt (fieldOf x.ins.b 31 0)
  | 2 => scalarOp x.wt (fieldOf x.ins.b 63 32)
  | 3 => let b := x.core.panNat (stImm w + n * size) size; (b, f.decode b)
  | 4 => let b := x.core.panNat (stImm w + m * size) size; (b, f.decode b)
  | _ => let b := x.core.elem x.wt (stTx w) m n; (b, f.decode b)

/-- The value a running element enters a stage with. -/
def ChainEnv.inV (x : ChainEnv) (v : FV) : FV := if x.md.strict then v else (wtFmt x.wt).flushIn v

/-- An element after an operation of a stage, with the NaN record of what it produced (Tables 8-9, 8-11, 8-12). -/
def El.result (e : El) (x : ChainEnv) (w : DWord) (j m n : Nat) (r : FRes) (pb cb : Nat) : El :=
  let nan := match e.nan with
    | some q => some q
    | none =>
      if r.made then some [0x10 * 2 ^ 24 + stKind w * 2 ^ 16 + stSub w * 2 ^ 8 + j, x.ins.ops 31 28 * 2 ^ 28 + (m * 256 + n), e.v, pb, cb] else none
  { e with v := r.bits, flags := if x.md.strict then e.flags ||| r.settle.flags else e.flags, nan := nan }

/-- The target type of a CONVERT (Table 6-5). -/
def convTarget (sub : Nat) : Ty :=
  match sub with | 0 => .flt fp32 | 1 => .flt fp16 | 2 => .flt bf16 | 3 => .flt e4m3 | 4 => .flt e5m2 | 5 => .flt e2m1 | 6 => .int 8 true | _ => .flt f19

/-- Whether a value overflows a target: an infinity, or beyond its largest finite value after rounding (R246, R267). -/
def overflows (dst : Ty) (rm : Rm) (v : FV) : Bool :=
  match v, dst with
  | .inf _, _ => true
  | .num neg m e, .flt f => m != 0 && decide (f.maxCode < (f.code rm neg m e).1)
  | .num neg m e, .int w signed => (intRound w signed rm neg m e).flags == 16
  | _, _ => false

/-- The bits of a value in the work type: exact, or BF16 nearest even where BF16 cannot hold it (R190). -/
def widenTo (wt : Nat) (v : FV) : Nat := (convert (.flt (wtFmt wt)) true .rne false v).bits

/-- One stage. `j` is its index. -/
def ChainEnv.stage (x : ChainEnv) (w : DWord) (j m n : Nat) (e : El) : El :=
  let f := wtFmt x.wt
  let v := x.inV (f.decode e.v)
  let pb := x.opnd w m n
  let p := x.inV pb.2
  let free := x.base + (m * wtWidth x.wt + n) * 8 + j
  let sub := stSub w
  let sig : Nat := if x.md.strict && ((f.decode e.v).isSig || pb.2.isSig) then 16 else 0
  match stKind w with
  | 1 => e.result x w j m n (if stAux w then fDiv f x.md free v p else f.finish x.md (f.mulV x.md.rm v p)) pb.1 0
  | 2 => e.result x w j m n (f.finish x.md (f.addV x.md.rm v (if stAux w then p.negate else p))) pb.1 0
  | 3 =>
    let r := actFn f x.md sub free v p e.v
    e.result x w j m n { r with flags := r.flags ||| (if sub = 1 then sig else if (f.decode e.v).isSig && x.md.strict then 16 else 0) } (if sub = 1 then pb.1 else 0) 0
  | 4 =>
    let holds : Bool := match v.cmp p with
      | none => sub == 1
      | some o => (match sub with | 0 => o == .eq | 1 => o != .eq | 2 => o == .lt | 3 => o != .gt | 4 => o == .gt | _ => o != .lt)
    let keep (u : FV) (b : Nat) : Nat := if u.isNan then f.canon else if x.md.strict then b else f.flushOut b
    { e with v := if holds then keep v e.v else if stAux w then keep p pb.1 else 0, flags := e.flags ||| sig }
  | 5 =>
    let imm := stImm w
    let kept := if bitAt sub 2 then decide ((n : Int) ≤ (m : Int) + (BitVec.ofNat 32 imm).toInt)
      else let i := m * wtWidth x.wt + n; (x.core.pantry.get 0 (imm + i / 8)).getLsbD (i % 8)
    let own : Nat := if x.md.strict && (f.decode e.v).isSig then 16 else 0
    if kept then { e with v := if own = 16 then f.canon else if x.md.strict then e.v else f.flushOut e.v, flags := e.flags ||| own }
    else { e with flags := e.flags ||| own, v := (match sub % 4 with | 0 => 0 | 1 => f.signBit true + f.infCode | _ => f.infCode), excl := true }
  | 6 =>
    let dst := convTarget sub
    let track := bitAt (stImm w) 1
    let rm := if stAux w then .sto (srWord (laneKey x.core.seed x.num 0xFFFF) (BitVec.ofNat 64 (x.ctr * 2 ^ 24 + m * wtWidth x.wt + n))) else x.md.rm
    let scaled := if track && !e.excl then (match v with | .num s q g => .num s q (g + x.qexp) | _ => v) else v
    let r := convert dst x.md.strict rm (bitAt (stImm w) 0 || track) scaled
    let e := e.result x w j m n r 0 0
    let out := dst.decode (dst.store r.bits)
    { e with
      conv := some (dst.store r.bits), v := widenTo x.wt out, ovf := track && !e.excl && overflows dst rm scaled,
      src := if track && !e.excl && !v.isNan then some v else none }
  | 7 =>
    let t := x.core.elem x.wt (x.ins.ops 27 24) m n
    e.result x w j m n (f.finish x.md (f.addV x.md.rm (x.inV (f.decode t)) v)) t 0
  | _ => if x.md.strict then e else { e with v := f.flushOut e.v }

/-- A SCALE followed by a BIAS as a fused multiply-add (R188). -/
def ChainEnv.fused (x : ChainEnv) (w1 w2 : DWord) (j m n : Nat) (e : El) : El :=
  let f := wtFmt x.wt
  let v := x.inV (f.decode e.v)
  let p := x.opnd w1 m n
  let b := x.opnd w2 m n
  let bv := x.inV b.2
  e.result x w1 j m n (f.finish x.md (f.fmaV x.md.rm v (x.inV p.2) (if stAux w2 then bv.negate else bv))) p.1 b.1

/-- The stages of a chain in order. -/
def ChainEnv.stages (x : ChainEnv) (m n : Nat) : List DWord → Nat → El → El
  | [], _, e => e
  | [w], j, e => x.stage w j m n e
  | w1 :: w2 :: ws, j, e =>
    if stKind w1 = 1 ∧ !stAux w1 ∧ stKind w2 = 2 then x.stages m n ws (j + 2) (x.fused w1 w2 j m n e)
    else x.stages m n (w2 :: ws) (j + 1) (x.stage w1 j m n e)

/-- The cost of a chain in passes (Table 6-5, R188). -/
def chainCost : List DWord → Nat
  | [] => 0
  | [w] => stageCost w
  | w1 :: w2 :: ws => if stKind w1 = 1 ∧ !stAux w1 ∧ stKind w2 = 2 then 1 + chainCost ws else stageCost w1 + chainCost (w2 :: ws)
where
  /-- A stage's own cost. -/
  stageCost (w : DWord) : Nat :=
    if stKind w = 1 then (if stAux w then 2 else 1) else if stKind w = 3 then (if 2 ≤ stSub w ∧ stSub w ≤ 12 then 2 else 1) else 1

/-! ## Reductions (R192 to R195) -/

/-- A value of a reduction with the flags and the first NaN's operands. -/
structure RedVal where
  bits  : Nat
  flags : Nat
  nan   : Option (Nat × Nat)
deriving DecidableEq, Repr

/-- The format in which sums and products are formed: FP32 for packed BF16. -/
def redFmt (wt : Nat) : Fmt := if wt = 1 then fp64 else fp32
/-- The bytes of a result (Table 6-6). -/
def redBytes (wt op : Nat) : Nat :=
  match op with
  | 2 => wtBytes wt | 3 => wtBytes wt
  | 8 => 4 | 9 => 4
  | _ => if wt = 1 then 8 else 4

/-- One result from the elements of a row or column, each with its exclusion; and whether the set was empty. -/
def reduceOne (wt op : Nat) (md : Mode) (xs : List (Nat × Bool)) : RedVal × Bool :=
  let f := wtFmt wt
  let g := redFmt wt
  let kept := (xs.zipIdx.filter (fun x => !x.1.2)).map (fun x => (x.1.1, x.2))
  let empty := kept.isEmpty
  let val (b : Nat) : FV := if md.strict then f.decode b else f.flushIn (f.decode b)
  let wide (b : Nat) : Nat := if wt = 2 then (if md.strict then b else bf16.flushOut b) * 65536 else b
  let step (h : Mode → Nat → Nat → FRes) (a b : RedVal) : RedVal :=
    let r := h md a.bits b.bits
    { bits := r.bits, flags := a.flags ||| b.flags ||| r.flags, nan := a.nan.or (b.nan.or (if r.made then some (a.bits, b.bits) else none)) }
  let tree (h : Mode → Nat → Nat → FRes) (id : Nat) : RedVal :=
    pairTree (step h) { bits := id, flags := 0, nan := none } xs.length (xs.map (fun x => { bits := if x.2 then id else wide x.1, flags := 0, nan := none : RedVal }))
  let sigs : Nat := if md.strict && kept.any (fun x => (f.decode x.1).isSig) then 16 else 0
  let keep (b : Nat) : Nat := if md.strict then b else f.flushOut b
  let bitTree (h : Nat → Nat → Nat) (id : Nat) : RedVal :=
    { bits := pairTree h id xs.length (xs.map (fun x => if x.2 then id else keep x.1)), flags := sigs, nan := none }
  let better (max : Bool) (a b : Nat) : Bool :=
    match (val a).cmp (val b) with
    | some .gt => max
    | some .lt => !max
    | some .eq => if max then (val b).neg && !(val a).neg else (val a).neg && !(val b).neg
    | none => false
  let pick (max : Bool) : RedVal :=
    if kept.any (fun x => (val x.1).isNan) then { bits := f.canon, flags := sigs, nan := none }
    else match kept with
      | [] => { bits := f.signBit max + f.infCode, flags := 0, nan := none }
      | k0 :: ks => { bits := keep (ks.foldl (fun a x => if better max x.1 a then x.1 else a) k0.1), flags := sigs, nan := none }
  let arg (max : Bool) : RedVal :=
    match kept.find? (fun x => (val x.1).isNan) with
    | some x => { bits := x.2, flags := sigs, nan := none }
    | none => match kept with
      | [] => { bits := 0xFFFFFFFF, flags := 0, nan := none }
      | k0 :: ks => { bits := (ks.foldl (fun a x => if better max x.1 a.1 then x else a) k0).2, flags := sigs, nan := none }
  let ones := if wt = 1 then 2 ^ 64 - 1 else 2 ^ 32 - 1
  let r : RedVal := match op with
    | 0 => tree g.add 0
    | 1 => tree g.mul (oneOf g false)
    | 2 => pick true
    | 3 => pick false
    | 4 => bitTree Nat.land ones
    | 5 => bitTree Nat.lor 0
    | 6 => bitTree Nat.xor 0
    | 7 =>
      let t := tree g.add 0
      if empty then t
      else
        let q := g.finish md (g.divV md.rm (g.decode t.bits) (.num false kept.length 0))
        { t with bits := q.bits, flags := t.flags ||| q.flags }
    | 8 => arg true
    | _ => arg false
  (if empty then { r with flags := 0, nan := none } else r, empty)

/-- All results of a reduction over a tile of elements in row order (R192). -/
def reduceAll (wt op : Nat) (columns : Bool) (md : Mode) (xs : List (Nat × Bool)) : List (RedVal × Bool) :=
  let w := wtWidth wt
  if columns then
    (List.range w).map (fun n => reduceOne wt op md ((List.range 128).map (fun m => xs.getD (m * w + n) (0, true))))
  else
    (List.range 128).map (fun m => reduceOne wt op md ((xs.drop (m * w)).take w))

/-- A reduction's place in a running instruction: its bytes at the result offset, flags, emptiness and NaN (R193, Table 8-12). `j` is the stage
or none for t.red. -/
def Running.reduced (r : Running) (wt op off : Nat) (md : Mode) (opWord : Nat) (ts : Nat) (rs : List (RedVal × Bool)) : Running :=
  let b := rs.flatMap (fun x => leBytes (redBytes wt op) x.1.bits)
  let nan := match r.nan with
    | some n => some n
    | none => rs.zipIdx.findSome? (fun x => x.1.1.nan.map (fun o => [opWord, ts * 2 ^ 28 + 2 ^ 26 + x.2, o.1, o.2, 0]))
  let fl := if md.strict then rs.foldl (fun a x => a ||| x.1.flags) 0 else 0
  { r with bytes := r.bytes ++ placed off b, flags := r.flags ||| BitVec.ofNat 5 fl, empty := r.empty || rs.any (·.2), nan := nan }

/-! ## t.vchain -/

/-- Whether a stage word is well formed (R186, R188, R191, R266). -/
def stageOk (wt : Nat) (dk : Nat) (last : Bool) (w : DWord) : Bool :=
  let kind := stKind w
  let sub := stSub w
  let imm := stImm w
  fieldOf w 31 21 == 0 && decide (stOpnd w ≤ 5) && !(wt == 1 && stOpnd w == 2)
    && (match kind with
      | 1 => sub == 0
      | 2 => sub == 0
      | 3 => !stAux w
      | 4 => decide (sub ≤ 5)
      | 5 => !stAux w && sub % 4 != 3 && decide (sub < 8) && stOpnd w == 0
      | 6 =>
        last && decide (sub ≤ 7) && !(sub == 0 && wt != 1)
          && (if bitAt imm 1 then bits imm 4 2 == 0 && decide (3 ≤ sub) && decide (sub ≤ 6) && decide (imm / 32 * 32 + 32 ≤ pantrySize) else bits imm 31 1 == 0)
      | 7 => sub == 0 && !stAux w && (dk == 0 || dk == 2)
      | 8 => last && decide (sub ≤ 9)
      | _ => false)

/-- The Pantry regions a stage reads, as offset, bytes and alignment. -/
def stageRegions (wt : Nat) (w : DWord) : List (Nat × Nat × Nat) :=
  let size := wtBytes wt
  (if stOpnd w = 3 then [(stImm w, wtWidth wt * size, size)] else if stOpnd w = 4 then [(stImm w, 128 * size, size)] else [])
    ++ (if stKind w = 5 ∧ !bitAt (stSub w) 2 then [(stImm w, wtWidth wt * 16, 4)] else [])
    ++ (if stKind w = 6 ∧ bitAt (stImm w) 1 then [(stImm w / 32 * 32, 32, 32)] else [])

/-- A region within the Pantry and aligned. -/
def regionOk (r : Nat × Nat × Nat) : Bool := r.1 % r.2.2 == 0 && decide (r.1 + r.2.1 ≤ pantrySize)

/-- Strict mode of an instruction by its MODE field (R198). -/
def TileIns.isStrict (i : TileIns) (mode : Nat) : Bool := mode == 2 || (mode == 0 && i.strict)
/-- The mode it runs in. -/
def TileIns.mode (i : TileIns) (mode : Nat) : Mode := if i.isStrict mode then { strict := true, rm := rmOf i.frm } else Mode.fast

/-- An instruction that ends in an error with undefined results (R191): free bytes at its outputs and free words in TD. -/
def State.vecUndefined (s : State) (k : Core) (i : TileIns) (td : Option Nat) (outs : List (Nat × Nat)) : State × Running :=
  let nw := if td.isSome then 16384 else 0
  let ws := match td with
    | some t => (List.range 16384).map (fun j => (t * 16384 + j, Config.freeWord (s.fresh + j)))
    | none => []
  let places := outs.flatMap (fun o => (List.range o.2).map (fun j => o.1 + j))
  (s.bumpBy (nw + places.length),
    { k.run i 0x10F with words := ws, bytes := places.zipIdx.map (fun a => (a.1, Config.freeByte (s.fresh + nw + a.2))) })

/-- The running-record of a tracked conversion (R267, R268): the record's offset, the largest source magnitude as FP32 rounded up, the overflows
and QEXP at the start. -/
def trackerOf (off : Nat) (qexp : Nat) (es : List El) : Nat × List Nat :=
  let up (v : FV) : Nat :=
    match v with
    | .num _ m e => (fp32.round .rup false false m e).bits
    | .inf _ => fp32.infCode
    | .nan _ _ _ => 0
  (off, [es.foldl (fun a e => max a ((e.src.map up).getD 0)) 0, (es.filter (·.ovf)).length, qexp])

/-- Starts a t.vchain (R184 to R195, R200, R266, R267). -/
def State.vchain (s : State) (c : Nat) (i : TileIns) (ecc : List EccHit) : State × Running :=
  let s := s.flaw c ecc
  let k := s.core c
  let dk := i.ops 23 22
  let wt := i.ops 21 20
  let mode := i.ops 19 18
  let ws := i.stages
  let desc := i.ops 13 0 * 512
  let nst := i.ops 16 14 + 1
  let last := ws.getLast?.getD 0
  let conv : Option DWord := ws.find? (fun w => stKind w == 6)
  let outBits := match conv with | some w => (convTarget (stSub w)).width | none => 8 * wtBytes wt
  let elems := 128 * wtWidth wt
  let outLen := if dk = 1 ∨ dk = 2 then elems * outBits / 8 else 0
  let out := i.a.toNat
  let red := stKind last == 8
  let results := if stAux last then wtWidth wt else 128
  let redSize := redBytes wt (stSub last)
  let regions := ws.flatMap (stageRegions wt) ++ (if red then [(stImm last, results * redSize, redSize)] else [])
  let track : Bool := match conv with | some w => bitAt (stImm w) 1 | none => false
  let rec_ := stImm last / 32 * 32
  let qraw := k.panNat rec_ 4
  let qexp := (BitVec.ofNat 32 qraw).toInt
  let strict := i.isStrict mode
  let sto : Bool := match conv with | some w => stAux w | none => false
  let ctr := k.stoch
  let s := if sto then s.modCore c (fun k => { k with stoch := k.stoch + 1 }) else s
  let bad : Prop := wt = 3 ∨ mode = 3 ∨ i.ops 17 17 ≠ 0 ∨ ((dk = 1 ∨ dk = 3) ∧ i.ops 27 24 ≠ 0) ∨ pantrySize < desc + 8 * nst ∨ ws.length ≠ nst
    ∨ (dk = 3 ∧ !red) ∨ (strict ∧ wt = 2) ∨ (0 < outLen ∧ !blockOk out outLen)
    ∨ !(ws.zipIdx.all (fun w => stageOk wt dk (w.2 + 1 == nst) w.1)) ∨ !(regions.all regionOk) ∨ (track ∧ (qexp < -126 ∨ 127 < qexp))
  if bad then (s, k.run i 0x111)
  else if strict ∧ 4 < i.frm then (s, k.run i 0x112)
  else
    let (s, poison) := s.panRead c 2 ((ws.flatMap (stageRegions wt)).flatMap (fun r => granulesOf r.1 r.2.1))
    if i.spoiled || !poison.isEmpty then s.vecUndefined k i (if dk = 0 ∨ dk = 2 then some (i.ops 27 24) else none)
      ((out, outLen) :: (if red then [(stImm last, results * redSize)] else []))
    else
      let md := i.mode mode
      let x : ChainEnv := { core := k, num := c, wt := wt, md := md, ins := i, ctr := ctr, base := s.fresh, qexp := qexp }
      let w := wtWidth wt
      let es := (List.range elems).map (fun j =>
        x.stages (j / w) (j % w) ws 0 { v := k.elem wt (i.ops 31 28) (j / w) (j % w), excl := false, conv := none, flags := 0, nan := none, ovf := false, src := none })
      let s := s.bumpBy (elems * 8)
      let r : Running := { k.run i 0 with
        words := if dk = 0 ∨ dk = 2 then tileWords wt (i.ops 27 24) (es.map (·.v)) else [],
        bytes := if dk = 1 ∨ dk = 2 then placed out (packElems outBits (es.map (fun e => e.conv.getD e.v))) else [],
        flags := BitVec.ofNat 5 (es.foldl (fun a e => a ||| e.flags) 0), nan := es.findSome? (·.nan),
        slices := 512 * chainCost ws * (if strict then 4 else 1),
        tracker := if track then some (trackerOf rec_ qraw es) else none }
      (s, if red then
        r.reduced wt (stSub last) (stImm last) md (0x10 * 2 ^ 24 + 8 * 2 ^ 16 + stSub last * 2 ^ 8 + (nst - 1)) (i.ops 31 28)
          (reduceAll wt (stSub last) (stAux last) md (es.map (fun e => (e.v, e.excl))))
      else r)

/-- Starts the instruction at the head of the vector engine's queue where it is of a function, the engine is free and its hazards allow
(R120, R121, R128, R181); a recompute occupies the engine (R273). -/
def vecStart (c : CoreId) (func : Nat) (s : State) (f : State → TileIns → State × Running) : Outcome :=
  gate s (fun s =>
    let k := s.core c.val
    match k.vecq with
    | [] => s
    | i :: rest =>
      if i.func = func ∧ k.mayStart ∧ s.unitReady c.val .vector i then
        match k.acquire i with
        | none => s
        | some k =>
          let s := (s.setCore c.val { k with vecq := rest }).inc64 (coreDie c.val) (coreOff c.val 0x500)
          let (s, r) := f s i
          if (s.core c.val).runs then s.modCore c.val (fun k => { k with vec := some r }) else s
      else s)

/-- T_VCHAIN (R184). -/
def execTVchain (c : CoreId) (ecc : List EccHit) (s : State) : Outcome := vecStart c 0 s (fun s i => s.vchain c.val i ecc)

/-! ## t.red, t.ld, t.st -/

/-- Starts a t.red (R192 to R196). -/
def State.tred (s : State) (c : Nat) (i : TileIns) (ecc : List EccHit) : State × Running :=
  let s := s.flaw c ecc
  let k := s.core c
  let op := i.ops 27 24
  let cols := i.ops 23 23 == 1
  let wt := i.ops 22 21
  let mode := i.ops 20 19
  let msk := i.ops 18 18 = 1
  let w := wtWidth wt
  let out := i.a.toNat
  let n := if cols then w else 128
  let strict := i.isStrict mode
  if 9 < op ∨ wt = 3 ∨ mode = 3 ∨ i.ops 17 0 ≠ 0 ∨ (strict ∧ wt = 2) ∨ !regionOk (out, n * redBytes wt op, redBytes wt op) ∨ (msk ∧ !regionOk (i.b.toNat, w * 16, 4)) then
    (s, k.run i 0x111)
  else if strict ∧ 4 < i.frm then (s, k.run i 0x112)
  else
    let (s, poison) := if msk then s.panRead c 2 (granulesOf i.b.toNat (w * 16)) else (s, [])
    if !poison.isEmpty then s.vecUndefined k i none [(out, n * redBytes wt op)]
    else
      let es := (List.range (128 * w)).map (fun j =>
        (k.elem wt (i.ops 31 28) (j / w) (j % w), msk && !(k.pantry.get 0 (i.b.toNat + j / 8)).getLsbD (j % 8)))
      let md := i.mode mode
      let r : Running := { k.run i 0 with slices := 512 * (if strict then 4 else 1) }
      (s, r.reduced wt op out md (0x11 * 2 ^ 24 + op * 2 ^ 16) (i.ops 31 28) (reduceAll wt op cols md es))

/-- T_RED (R196). -/
def execTRed (c : CoreId) (ecc : List EccHit) (s : State) : Outcome := vecStart c 1 s (fun s i => s.tred c.val i ecc)

/-- The exact FP32 widening of t.ld: a NaN keeps its sign and payload (R197). -/
def ldWiden (fmt b : Nat) : Nat :=
  if fmt = 0 then b
  else match tyOf fmt with
    | .int _ _ => (convert (.flt fp32) true .rne false ((tyOf fmt).decode b)).bits
    | .flt f =>
      match f.decode b with
      | .nan neg _ fr => fp32.signBit neg + fp32.infCode + fr * 2 ^ (23 - f.fb)
      | v => (convert (.flt fp32) true .rne false v).bits

/-- Starts a t.ld (R197). -/
def State.tld (s : State) (c : Nat) (i : TileIns) (ecc : List EccHit) : State × Running :=
  let s := s.flaw c ecc
  let k := s.core c
  let td := i.ops 31 28
  let fmt := i.ops 27 25
  let pack := i.ops 24 24 = 1
  let at_ := i.at_ (i.ops 15 0) 128
  let n := if pack then 65536 else 16384 * fmtBits fmt / 8
  if fmt = 7 ∨ (pack ∧ fmt ≠ 2) ∨ i.ops 23 16 ≠ 0 ∨ !blockOk at_ n then (s, k.run i 0x111)
  else
    let (s, poison) := s.panRead c 2 (granulesOf at_ n)
    if !poison.isEmpty then s.vecUndefined k i (some td) []
    else
      let bs := k.pan at_ n
      let word (j : Nat) : Nat := if pack then leAt bs (4 * j) 4 else ldWiden fmt (elemAt (fmtBits fmt) bs j)
      (s, { k.run i 0 with words := (List.range 16384).map (fun j => (td * 16384 + j, BitVec.ofNat 32 (word j))), slices := 512 })

/-- T_LD (R197). -/
def execTLd (c : CoreId) (ecc : List EccHit) (s : State) : Outcome := vecStart c 3 s (fun s i => s.tld c.val i ecc)

/-- T_ST (R197): the register's 64 KiB unchanged. -/
def execTSt (c : CoreId) (s : State) : Outcome :=
  vecStart c 4 s (fun s i =>
    let k := s.core c.val
    let at_ := i.at_ (i.ops 15 0) 128
    if i.ops 27 16 ≠ 0 ∨ !blockOk at_ 65536 then (s, k.run i 0x111)
    else
      let bs := (List.range 16384).flatMap (fun j => leBytes 4 (k.tiles.get 0 (i.ops 31 28 * 16384 + j)).toNat)
      (s, { k.run i 0 with bytes := placed at_ bs, slices := 512 }))

/-! ## cvt.t (R248, R249) -/

/-- Starts a cvt.t. -/
def State.tcvt (s : State) (c : Nat) (i : TileIns) (ecc : List EccHit) : State × Running :=
  let s := s.flaw c ecc
  let k := s.core c
  let sf := i.ops 31 28
  let df := i.ops 27 24
  let sto := i.ops 23 23 = 1
  let sat := i.ops 22 22 = 1
  let mode := i.ops 21 20
  let rows := i.ops 15 0
  let src := tyOf sf
  let dst := tyOf df
  let n := rows * 128
  let sn := n * src.width / 8
  let dn := n * dst.width / 8
  let a := i.a.toNat
  let b := i.b.toNat
  let ctr := k.stoch
  let s := if sto then s.modCore c (fun k => { k with stoch := k.stoch + 1 }) else s
  let strict := i.isStrict mode
  if 8 < sf ∨ 8 < df ∨ rows = 0 ∨ i.ops 19 16 ≠ 0 ∨ mode = 3 ∨ !blockOk a sn ∨ !blockOk b dn
      ∨ (rangesMeet a sn b dn ∧ !(a = b ∧ dst.width ≤ src.width)) then (s, k.run i 0x111)
  else if strict ∧ 4 < i.frm then (s, k.run i 0x112)
  else
    let (s, poison) := s.panRead c 2 (granulesOf a sn)
    if !poison.isEmpty then s.vecUndefined k i none [(b, dn)]
    else
      let bs := k.pan a sn
      let md := i.mode mode
      let rs := (List.range n).map (fun j =>
        let x := elemAt src.width bs j
        let rm := if sto then .sto (srWord (laneKey k.seed c 0xFFFF) (BitVec.ofNat 64 (ctr * 2 ^ 24 + j))) else md.rm
        (j, x, cvtTy src dst strict rm sat x))
      let nan := (rs.find? (fun r => r.2.2.made)).map (fun r => [0x15 * 2 ^ 24 + df * 2 ^ 16, 2 ^ 27 + r.1 % 2 ^ 23, r.2.1, 0, 0])
      let p := (rows + 127) / 128 * (if sf = 8 ∨ df = 8 then 2 else 1) * (if strict then 4 else 1)
      (s, { k.run i 0 with
        bytes := placed b (packElems dst.width (rs.map (fun r => r.2.2.bits))),
        flags := BitVec.ofNat 5 (rs.foldl (fun f r => f ||| r.2.2.flags) 0), nan := nan, slices := 512 * p })

/-- CVT_T (R248). -/
def execCvtT (c : CoreId) (ecc : List EccHit) (s : State) : Outcome := vecStart c 5 s (fun s i => s.tcvt c.val i ecc)

/-! ## t.cupd (R260 to R264) -/

/-- The exponent of the last place of a BF16 weight (R261). -/
def bfUlp (w : Nat) : Int :=
  let e := w / 128 % 256
  if e = 0 then -133 else max ((e : Int) - 127) (-126) - 7

/-- One compensated update: the new weight and remainder, the update as FP64 bits, and whether a NaN was produced (R261 to R263). -/
def cupdOne (w r : Nat) (sc : Option Nat) (tu : Nat) (rand : Nat) : Nat × Nat × Nat × Bool :=
  let wv := bf16.decode w
  let tv := fp32.decode tu
  let u64 : FRes := match sc with
    | some s0 => fp64.mulV .rne (fp32.decode s0) tv
    | none => convert (.flt fp64) true .rne false tv
  let uv := fp64.decode u64.bits
  let opNan := wv.isNan || tv.isNan || (match sc with | some s0 => (fp32.decode s0).isNan | none => false)
  match wv, uv with
  | .num wn m e, .num un q g =>
    let ri := (BitVec.ofNat 16 r).toInt
    let t := addExact (addExact (sgn wn m, e) (ri, bfUlp w - 15)) (sgn un q, g)
    let new := bf16.roundInt .rne (wn && un && ri == 0) t.1 t.2
    (match bf16.decode new.bits with
    | .num nn nm ne =>
      let rem := addExact t (-(sgn nn nm), ne)
      let v := intRound 16 true (.sto rand) (decide (rem.1 < 0)) rem.1.natAbs (rem.2 - (bfUlp new.bits - 15))
      (new.bits, v.bits, u64.bits, false)
    | _ => (new.bits, 0, u64.bits, false))
  | .inf wn, .inf un => if wn = un then (w, 0, u64.bits, false) else (0x7FC0, 0, u64.bits, !opNan)
  | .inf _, .num _ _ _ => (w, 0, u64.bits, false)
  | .num _ _ _, .inf un => (bf16.signBit un + bf16.infCode, 0, u64.bits, false)
  | _, _ => (0x7FC0, 0, u64.bits, !opNan)

/-- Starts a t.cupd. -/
def State.tcupd (s : State) (c : Nat) (i : TileIns) (ecc : List EccHit) : State × Running :=
  let s := s.flaw c ecc
  let k := s.core c
  let tu := i.ops 31 28
  let wa := i.a.toNat
  let ra := i.ops 15 0 * 128
  let ctr := k.stoch
  let s := s.modCore c (fun k => { k with stoch := k.stoch + 1 })
  if i.ops 26 16 ≠ 0 ∨ !blockOk wa 32768 ∨ !blockOk ra 32768 ∨ rangesMeet wa 32768 ra 32768 then (s, k.run i 0x111)
  else
    let (s, poison) := s.panRead c 2 (granulesOf wa 32768 ++ granulesOf ra 32768)
    if !poison.isEmpty then
      s.vecUndefined k i none [(wa, 32768), (ra, 32768)]
    else
      let ws := k.pan wa 32768
      let rs := k.pan ra 32768
      let sc := if i.ops 27 27 = 1 then some (fieldOf i.b 31 0) else none
      let outs := (List.range 16384).map (fun j =>
        let w := leAt ws (2 * j) 2
        let r := leAt rs (2 * j) 2
        (j, w, r, cupdOne w r sc (k.tiles.get 0 (tu * 16384 + j)).toNat (srWord (laneKey k.seed c 0xFFFF) (BitVec.ofNat 64 (ctr * 2 ^ 24 + j)))))
      let nan := (outs.find? (fun o => o.2.2.2.2.2.2)).map (fun o =>
        [0x12 * 2 ^ 24, tu * 2 ^ 28 + (o.1 / 128 * 256 + o.1 % 128), o.2.1, o.2.2.2.2.2.1, (BitVec.signExtend 64 (BitVec.ofNat 16 o.2.2.1)).toNat])
      (s, { k.run i 0 with
        bytes := placed wa (packElems 16 (outs.map (fun o => o.2.2.2.1))) ++ placed ra (packElems 16 (outs.map (fun o => o.2.2.2.2.1))),
        nan := nan, slices := 1024 })

/-- T_CUPD (R261). -/
def execTCupd (c : CoreId) (ecc : List EccHit) (s : State) : Outcome := vecStart c 2 s (fun s i => s.tcupd c.val i ecc)

/-! ## Completion -/

/-- VECTOR_COMPLETION (R182, R193, R200, R203): the running instruction writes, sets the flags and EMPTY, and returns its token. -/
def execVectorCompletion (c : CoreId) (s : State) : Outcome :=
  gate s (fun s =>
    let k := s.core c.val
    match k.vec with
    | none => s
    | some r =>
      let quart := s.quartered c.val
      if k.canWrite quart r.ins then
        let ends := r.ins.writes quart
        let k : Core := { k with
          vec := none,
          subs := ⟨k.subs.cells.map (fun x => (x.1, match x.2.chain with
            | some t => if ends.contains (4 * t.1 + t.2) then { x.2 with chain := none } else x.2
            | none => x.2))⟩ }
        (s.setCore c.val k).finishTile c.val 2 r
      else s)

end Sys2Proof.Machine
end

