-- ==== Sys2Proof/Machine/Groups.lean ====
section
/-! DEFINITION. Thread groups (chapter 07): instruction fields and checks, paths and convergence barriers, register cache and counters, and
the meaning of every group instruction. -/

namespace Sys2Proof.Machine

/-! ## The instruction word (Table 7-3) -/

def gOp (w : DWord) : Nat := fieldOf w 63 56
def gVD (w : DWord) : Nat := fieldOf w 55 48
def gVA (w : DWord) : Nat := fieldOf w 47 40
def gVB (w : DWord) : Nat := fieldOf w 39 32
def gVC (w : DWord) : Nat := fieldOf w 31 24
def gFN (w : DWord) : Nat := fieldOf w 15 8
def gOff (w : DWord) : DWord := (BitVec.ofNat 16 (fieldOf w 31 16)).signExtend 64
def gImm (w : DWord) : Word := BitVec.ofNat 32 (fieldOf w 39 8)
def gPG (w : DWord) : Nat := fieldOf w 7 5
def gPN (w : DWord) : Bool := w.getLsbD 4
def gIM (w : DWord) : Bool := w.getLsbD 3
def gUA (w : DWord) : Bool := w.getLsbD 2
def gNA (w : DWord) : Bool := w.getLsbD 1
def gUD (w : DWord) : Bool := w.getLsbD 0

/-- The registers of a memory access's value: 1, 2 for a double, 4 for a quad (Table 7-5). -/
def gMemRegs (w : DWord) : Nat :=
  if gOp w = 0x52 then (if bitAt (gFN w) 4 then 2 else 1) else (match gFN w % 8 with | 3 => 2 | 4 => 4 | _ => 1)
/-- The bytes of a memory access of one lane. -/
def gMemBytes (w : DWord) : Nat := if gOp w = 0x52 then (if bitAt (gFN w) 4 then 8 else 4) else 2 ^ (gFN w % 8)

/-- The general sources of an instruction: a register and how many follow from it, and whether the field is VA (Table 7-4). -/
def gSrc (w : DWord) : List (Nat × Nat × Bool) :=
  let op := gOp w
  let a (n : Nat) : Nat × Nat × Bool := (gVA w, n, true)
  let b (n : Nat) : Nat × Nat × Bool := (gVB w, n, false)
  let c (n : Nat) : Nat × Nat × Bool := (gVC w, n, false)
  if op ≤ 0x0B then [a 1, b 1]
  else if op = 0x0C then (if gIM w then [] else [a 1])
  else if op = 0x0D then [a 1]
  else if op = 0x0E then [a 1, b 1]
  else if op = 0x0F then [a 2, b 2]
  else if op / 16 = 1 ∨ op / 16 = 2 then
    let n := op / 16
    (match op % 16 with
    | 3 => [a n, b n, c n]
    | 7 => [a n]
    | 8 => if gFN w % 16 = 1 then [a n, b n] else [a n]
    | _ => [a n, b n])
  else if op = 0x33 then [a 1, b 1, c 1]
  else if op / 16 = 3 then [a 1, b 1]
  else if op = 0x41 then [a 2, b 2]
  else if op = 0x40 ∨ op = 0x42 ∨ op = 0x43 then [a 1, b 1]
  else if op = 0x45 then [a (if gFN w / 16 = 8 then 2 else 1)]
  else if op = 0x50 then [a 2]
  else if op = 0x51 ∨ op = 0x52 then [a 2, b (gMemRegs w)]
  else if op = 0x71 then [a 1, b 1]
  else if op = 0x72 ∨ op = 0x73 then [a 1]
  else if op = 0x74 then [a 4, b 4, (gVD w, if gFN w = 2 then 4 else 8, false)]
  else if op = 0x80 then [a 1, b 1]
  else if op = 0x81 then [a 1, b 1, c 1]
  else []

/-- The general destination of an instruction and how many registers it takes. -/
def gDst (w : DWord) : List (Nat × Nat) :=
  let op := gOp w
  if op ≤ 0x0E then [(gVD w, 1)]
  else if op = 0x0F then [(gVD w, 2)]
  else if op / 16 = 2 then [(gVD w, 2)]
  else if op / 16 = 1 ∨ op / 16 = 3 then [(gVD w, 1)]
  else if op = 0x45 then [(gVD w, if gFN w % 16 = 8 then 2 else 1)]
  else if op = 0x50 ∨ op = 0x52 then [(gVD w, gMemRegs w)]
  else if op = 0x71 ∨ op = 0x72 ∨ op = 0x73 ∨ op = 0x80 then [(gVD w, 1)]
  else if op = 0x74 then [(gVD w, if gFN w = 2 then 4 else 8)]
  else []

/-- Consecutive register numbers. -/
def gRun (x : Nat × Nat) : List Nat := (List.range x.2).map (fun i => x.1 + i)
/-- The vector registers an instruction reads; number 255 names none, also as the last of a pair or group (R206). -/
def gSources (w : DWord) : List Nat :=
  (((gSrc w).filter (fun x => !(x.2.2 && gUA w) && x.1 != 255)).flatMap (fun x => gRun (x.1, x.2.1))).filter (· != 255)
/-- The vector registers an instruction writes. -/
def gDests (w : DWord) : List Nat := if gUD w then [] else (((gDst w).filter (fun x => x.1 != 255)).flatMap gRun).filter (· != 255)

/-- Whether an OP has a meaning (Table 7-4). -/
def gKnown (op : Nat) : Bool :=
  decide (op ≤ 0x18) || (decide (0x20 ≤ op) && decide (op ≤ 0x28)) || op == 0x30 || op == 0x31 || op == 0x33
    || (decide (0x40 ≤ op) && decide (op ≤ 0x45)) || (decide (0x50 ≤ op) && decide (op ≤ 0x53))
    || (decide (0x60 ≤ op) && decide (op ≤ 0x67)) || (decide (0x70 ≤ op) && decide (op ≤ 0x74)) || op == 0x80 || op == 0x81

/-- Whether FN, or MF, and the flags in VC have values Tables 7-4 and 7-5 give the operation. -/
def gFnOk (w : DWord) : Bool :=
  let op := gOp w
  let fn := gFN w
  let imm := (op == 0x0C && gIM w) || op == 0x0D || op == 0x60
  if imm then true
  else if op = 0x0E then decide (fn < 8)
  else if op ≤ 0x0F then fn == 0
  else if op = 0x18 ∨ op = 0x28 then decide (fn % 128 < 16)
  else if op / 16 = 1 ∨ op / 16 = 2 then fn % 128 == 0
  else if op / 16 = 3 then fn == 0
  else if op = 0x40 ∨ op = 0x41 then decide (fn % 128 < 6)
  else if op = 0x42 ∨ op = 0x43 then decide (fn < 6)
  else if op = 0x44 then decide (fn < 16)
  else if op = 0x45 then decide (fn / 16 ≤ 10) && decide (fn % 16 ≤ 10) && decide (gVC w < 4)
  else if op = 0x50 then !bitAt fn 6 && decide (fn % 8 < 5) && (!bitAt fn 3 || decide (fn % 8 < 2))
  else if op = 0x51 then !bitAt fn 6 && decide (fn % 8 < 5) && !bitAt fn 3
  else if op = 0x52 then decide (fn % 16 < 10) && !(bitAt fn 4 && fn % 16 == 9)
  else if op = 0x53 then decide (fn < 16) && fn % 4 != 3 && fn / 4 != 0
  else if op = 0x70 then decide (fn < 2) || (fn == 2 && gUD w)
  else if op = 0x71 then decide (fn < 4)
  else if op = 0x74 then decide (fn < 3)
  else if op = 0x80 ∨ op = 0x81 then decide (fn < 16)
  else fn == 0

/-- Whether an instruction raises no "illegal instruction" trap (R216). -/
def gLegal (w : DWord) : Bool :=
  let op := gOp w
  let mem := decide (0x50 ≤ op) && decide (op ≤ 0x52)
  let imm := (op == 0x0C && gIM w) || op == 0x0D || op == 0x60
  let unguarded := op == 0x53 || (decide (0x61 ≤ op) && decide (op ≤ 0x63)) || (decide (0x65 ≤ op) && decide (op ≤ 0x67)) || op / 16 == 7
  gKnown op
    && (if gIM w then op == 0x0C || op == 0x0D || op == 0x60 else op != 0x0D && op != 0x60)
    && (!gUD w || decide (op ≤ 0x0E) || (op == 0x70 && gFN w == 2))
    && (mem || imm || fieldOf w 23 16 == 0)
    && gFnOk w
    && (!unguarded || (gPG w == 0 && !gPN w))
    && (op != 0x66 || gUA w)
    && (gSrc w).all (fun x => x.1 % x.2.1 == 0) && (gUD w || (gDst w).all (fun x => x.1 % x.2 == 0))

/-- Whether an instruction runs in strict mode (R211); a cvt's FN[7] is also the top bit of its source format. -/
def gStrict (w : DWord) : Bool :=
  bitAt (gFN w) 7 && (gOp w / 16 == 1 || gOp w / 16 == 2 || gOp w == 0x40 || gOp w == 0x41 || gOp w == 0x45)

/-- Whether an instruction is group-wide (R225). -/
def gWide (w : DWord) : Bool := gOp w / 16 == 7 || gOp w == 0x65

/-- The slice-cycles of an instruction (Table 7-2, R211). -/
def gSlices (w : DWord) : Nat :=
  let op := gOp w
  let n := op / 16
  let act := if 2 ≤ gFN w % 16 ∧ gFN w % 16 ≤ 12 then 2 else 1
  let base :=
    if n = 1 ∧ (op % 16 = 6 ∨ op % 16 = 7) then 2 else if op = 0x18 then act
    else if n = 2 ∧ (op % 16 = 6 ∨ op % 16 = 7) then 4 else if op = 0x28 then 2 * act
    else if n = 2 then 2
    else if op = 0x72 ∨ op = 0x73 then 2
    else if op = 0x74 then (if gFN w = 2 then 32 else 64)
    else 1
  if gStrict w then 4 * base else base

/-! ## Registers of a group -/

/-- The lanes of a mask, ascending. -/
def lanesOf (m : BitVec 32) : List Nat := (List.range 32).filter (fun i => m.getLsbD i)
/-- A mask of lanes. -/
def maskOf (l : List Nat) : BitVec 32 := l.foldl (fun m i => m ||| BitVec.ofNat 32 (2 ^ i)) 0

/-- A vector register of a lane; register 255 reads zero (R206). -/
def Group.vreg (g : Group) (r lane : Nat) : Word := if r = 255 then 0 else g.v.get 0 (r * 32 + lane)
/-- VA of a lane, `i` registers on: vector or uniform (R215). -/
def Group.va (g : Group) (w : DWord) (i lane : Nat) : Word :=
  if gUA w then g.u.get 0 ((gVA w + i) % 64) else if gVA w = 255 then 0 else g.vreg (gVA w + i) lane
/-- The pair that VA names. -/
def Group.va64 (g : Group) (w : DWord) (lane : Nat) : DWord := g.va w 1 lane ++ g.va w 0 lane
/-- A pair of vector registers. -/
def Group.pair (g : Group) (r lane : Nat) : DWord := if r = 255 then 0 else g.vreg (r + 1) lane ++ g.vreg r lane
/-- A predicate; p0 reads true (R206). -/
def Group.pred (g : Group) (p : Nat) : BitVec 32 := if p = 0 then BitVec.allOnes 32 else g.p.get 0 p
/-- Writes a predicate in some lanes; p0 ignores it. -/
def Group.setPred (g : Group) (p : Nat) (lanes val : BitVec 32) : Group :=
  if p = 0 then g else { g with p := g.p.set 0 p ((g.pred p &&& ~~~ lanes) ||| (val &&& lanes)) }
/-- The lanes of a path an instruction's guard selects (R216). -/
def Group.guard (g : Group) (w : DWord) (m : BitVec 32) : BitVec 32 :=
  m &&& (if gPN w then ~~~ g.pred (gPG w) else g.pred (gPG w))

/-- The register cache after a write: an entry that holds the register becomes the most recent, a full write without NA allocates one (R213,
R214). -/
def Group.cacheWrite (g : Group) (e : Nat) (na : Bool) (lanes : BitVec 32) (r : Nat) : Group :=
  if na || lanes != BitVec.allOnes 32 then g else { g with cache := (r :: g.cache.erase r).take e }

/-- Writes a vector register in some lanes; register 255 discards it. -/
def Group.setV (g : Group) (e : Nat) (na : Bool) (lanes : BitVec 32) (r : Nat) (f : Nat → Word) : Group :=
  if r = 255 then g
  else ({ g with v := (lanesOf lanes).foldl (fun m l => m.set 0 (r * 32 + l) (f l)) g.v }).cacheWrite e na lanes r

/-- Writes a 32-bit result: to VD, or with UD the lowest executing lane's to a uniform register (R216). -/
def Group.result (g : Group) (e : Nat) (w : DWord) (lanes : BitVec 32) (f : Nat → Word) : Group :=
  if gUD w then (match lanesOf lanes with | [] => g | l :: _ => { g with u := g.u.set 0 (gVD w % 64) (f l) })
  else g.setV e (gNA w) lanes (gVD w) f
/-- Writes a 64-bit result to the pair of VD. -/
def Group.result64 (g : Group) (e : Nat) (w : DWord) (lanes : BitVec 32) (f : Nat → DWord) : Group :=
  if gVD w = 255 then g
  else (g.setV e (gNA w) lanes (gVD w) (fun l => half (f l).toNat false)).setV e (gNA w) lanes (gVD w + 1) (fun l => half (f l).toNat true)

/-! ## Paths (R218 to R224) -/

/-- Turns the ring to the next ready path after the current one; none is turned to when no other is ready (R220). -/
def Group.turn (g : Group) : Group × Bool :=
  match g.ring.tail.findIdx? (fun p => p.state == .ready) with
  | some i => ({ g with ring := g.ring.rotateLeft (i + 1) }, true)
  | none => (g, false)

/-- A group whose current path cannot issue turns to the next that can. -/
def Group.settle (g : Group) : Group × Bool :=
  match g.ring with
  | p :: _ => if p.state = .ready then (g, false) else g.turn
  | [] => (g, false)

/-- The current path changed. -/
def Group.modPath (g : Group) (f : Path → Path) : Group := { g with ring := g.ring.modifyHead f }
/-- The current path advances by one instruction. -/
def Group.advance (g : Group) : Group := g.modPath (fun p => { p with pc := p.pc + 8 })

/-- The group of a core. -/
def Core.group (k : Core) (g : Nat) : Group := k.groups.get Group.reset g
/-- Writes a group. -/
def State.setGroup (s : State) (c g : Nat) (x : Group) : State := s.modCore c (fun k => { k with groups := k.groups.set Group.reset g x })

/-- Counts a path switch (Table 7-7). -/
def State.countSwitch (s : State) (c : Nat) (b : Bool) : State := if b then s.inc64 (coreDie c) (coreOff c 0x638) else s

/-- An instruction has issued: its group, what it counts (Tables 6-11 and 7-7), and whether it switched paths. -/
def State.gIssued (s : State) (c g : Nat) (w : DWord) (old new : Group) (switched : Bool) : State :=
  let o (x : Nat) : Nat := coreOff c x
  let die := coreDie c
  let hits := ((gSources w).filter (fun r => old.cache.contains r)).length
  let s := ((s.inc64 die (o 0x620)).inc64 die (o 0x628) hits).inc64 die (o 0x630) (gSources w).length
  ((s.inc64 die (o 0x510) (gSlices w)).countSwitch c switched).setGroup c g { new with promoted := false }

/-- The common end: the path advances. -/
def State.gNext (s : State) (c g : Nat) (w : DWord) (old new : Group) : State := s.gIssued c g w old new.advance false

/-! ## Traps (R234, R236) -/

/-- Fills the trap record where it is empty (Tables 7-7 and 7-9). -/
def State.gRecord (s : State) (c g cause lane : Nat) (pc : DWord) : State :=
  let die := coreDie c
  if s.fld die (coreOff c 0x640) 31 31 = 1 then s
  else
    (s.wr die (coreOff c 0x640) (BitVec.ofNat 32 (2 ^ 31 + cause * 2 ^ 16 + g % 4 * 2 ^ 14 + g / 4 * 2 ^ 9 + lane))).wr64 die (coreOff c 0x648) pc

/-- A group trap: the core's groups stop, and the monitor ends the core's part of the kernel with the code of the cause (R481). -/
def State.gTrap (s : State) (c g cause : Nat) (lanes : BitVec 32) (pc : DWord) : State :=
  (s.gRecord c g cause ((lanesOf lanes).headD 0) pc).endPart c (0x130 + cause) { cause := cause, tag := none, pc := some pc }

/-- An access that ends with an error that another rule names: poison (R285, R368), memory that is not in service (R90), "host unreachable" and "node
unreachable" (R386, R442, R458), and a translation fault that is not resolvable, which is recorded as an access fault (R386). -/
def State.gFail (s : State) (c g code cause : Nat) (lanes : BitVec 32) (pc : DWord) : State :=
  let s := if code = 0x106 then s.gRecord c g 3 ((lanesOf lanes).headD 0) pc else s
  s.endPart c code { cause := cause, tag := none, pc := some pc }

/-- Holds the current path, and lets another run (R234). -/
def State.gHold (s : State) (c g : Nat) (x : Group) (st : PathState) : State :=
  let r := (x.modPath (fun p => { p with state := st })).settle
  (s.countSwitch c r.2).setGroup c g r.1

/-- An instruction that cannot issue yet: its group is not ready (R209). -/
def State.gLater (s : State) (c g : Nat) (x : Group) : State := if x.promoted then s.setGroup c g { x with promoted := false } else s

/-- What a stopped access of a group leads to (R234, R386 to R388): a walk; a fault record, or the wait for a free one (R387); the error that ends
the access; another try. -/
def State.gStop (s : State) (c g : Nat) (x : Group) (p : Path) (lanes : BitVec 32) (ag : XlAgent) (e : AccStop) : State :=
  match e with
  | .walk va a => s.gHold c g x (.walk va a)
  | .fault kind level va a =>
    if resolvable kind then
      match s.postRecord c ag va a kind level with
      | (s, some seq) => (s.modCore c (fun k => { k with monitor := true })).gHold c g x (.record seq)
      | (s, none) => s.gHold c g x (.walk va a)
    else s.gFail c g 0x106 (48 + kind) lanes p.pc
  | .error code => s.gFail c g code 0 lanes p.pc
  | .later => s.gLater c g x

/-! ## Running an instruction -/

/-- Whether another group of the quarter goes ahead of a group: one that has been ready for 64 cycles without issuing, of a lower slot where this
one has been so too (R209). -/
def Core.outranked (k : Core) (g : Nat) (x : Group) : Bool :=
  k.groups.cells.any (fun y => y.1 % 4 == g % 4 && y.1 != g && y.2.promoted && y.2.live != 0 && y.2.ring.any (fun p => p.state == .ready)
    && (!x.promoted || decide (y.1 < g)))

/-- A group whose current path cannot issue turns to the next path that can, which counts as a path switch (R220, Table 7-7). -/
def State.gSettle (s : State) (c g : Nat) : State :=
  let r := ((s.core c).group g).settle
  if r.2 then (s.countSwitch c true).setGroup c g r.1 else s

/-- Runs one instruction of a group's current path: the group may issue and none goes ahead of it (R209, R256), its OP is one of the command's, its fetch is
checked (R215), none of its traps applies (R206, R216, R225), and a strict one has a rounding mode (R200, R211). The body takes the group, the path and the executing lanes. -/
def groupRun (c : CoreId) (g : GroupId) (w : DWord) (mine : Nat → Bool) (s : State)
    (body : State → Group → Path → BitVec 32 → State) : Outcome :=
  gate s (fun s =>
    let s := if (s.core c.val).mayStart then s.gSettle c.val g.val else s
    let k := s.core c.val
    let x := k.group g.val
    match x.ring with
    | [] => s
    | p :: _ =>
      if !k.mayStart || x.live == 0 || p.state != .ready || !mine (gOp w) || k.outranked g.val x then s
      else if p.pc.toNat % 8 ≠ 0 then s.gTrap c.val g.val 2 p.mask p.pc
      else match s.fetchAt c.val 3 (.groupFetch g) p.pc 8 with
        | (s, .error e) => s.gStop c.val g.val x p p.mask (.groupFetch g) e
        | (s, .ok _) =>
          let lanes := if gOp w = 0x60 then p.mask else x.guard w p.mask
          let who := if lanes = 0 then p.mask else lanes
          if !(s.core c.val).runs then s
          else if !gLegal w then s.gTrap c.val g.val 1 who p.pc
          else if gStrict w && decide (4 < bits k.vecCtrl.toNat 3 1) then s.endPart c.val 0x112 { cause := 0, tag := none, pc := some p.pc }
          else if gWide w && (p.mask != x.live || (gOp w == 0x74 && x.live != BitVec.allOnes 32)) then s.gTrap c.val g.val 5 who p.pc
          else if (gSources w ++ gDests w).any (fun r => decide (k.grpVregs ≤ r)) then s.gTrap c.val g.val 4 who p.pc
          else body s x p lanes)

/-! ## Integer operations -/

/-- A 32-bit operation of OP 0x00 to 0x0B (Table 7-4). -/
def gInt (op : Nat) (a b : Word) : Word :=
  let n := b.toNat % 32
  match op with
  | 0 => a + b | 1 => a - b | 2 => a * b | 3 => BitVec.ofNat 32 (a.toNat * b.toNat / 2 ^ 32)
  | 4 => a &&& b | 5 => a ||| b | 6 => a ^^^ b | 7 => a <<< n | 8 => a >>> n | 9 => a.sshiftRight n
  | 10 => if a.slt b then a else b
  | _ => if a.slt b then b else a

/-- GROUP_INT_OP (R217): OP 0x00 to 0x0F; a word with a reserved OP traps here (R216). -/
def execGroupIntOp (c : CoreId) (g : GroupId) (w : DWord) (s : State) : Outcome :=
  groupRun c g w (fun op => decide (op < 16) || !gKnown op) s (fun s x _ lanes =>
    let e := (s.core c.val).rcEntries
    let op := gOp w
    let y :=
      if op = 0x0F then x.result64 e w lanes (fun l => x.va64 w l + x.pair (gVB w) l)
      else x.result e w lanes (fun l =>
        let a := x.va w 0 l
        if op = 0x0C then (if gIM w then gImm w else a)
        else if op = 0x0D then a + gImm w
        else if op = 0x0E then (if (x.pred (gFN w % 8)).getLsbD l then a else x.vreg (gVB w) l)
        else gInt op a (x.vreg (gVB w) l))
    s.gNext c.val g.val w x y)

/-! ## Floating point -/

/-- The mode an instruction runs in (R211). -/
def Core.gMode (k : Core) (w : DWord) : Mode := if gStrict w then { strict := true, rm := rmOf (bits k.vecCtrl.toNat 3 1) } else Mode.fast

/-- The minimum or maximum (IEEE 754-2019 minimum and maximum): a NaN operand gives the canonical NaN, and −0 lies below +0. -/
def Fmt.minMax (f : Fmt) (md : Mode) (max : Bool) (a b : Nat) : FRes :=
  let x := f.operand md a
  let y := f.operand md b
  let keep (n : Nat) : FRes := plain (if md.strict then n else f.flushOut n)
  match x.cmp y with
  | none => f.finish md (f.nanRes (x.isSig || y.isSig) false)
  | some .lt => keep (if max then b else a)
  | some .gt => keep (if max then a else b)
  | some .eq => keep (if x.neg == max then b else a)

/-- OP 0x10 to 0x18 in a format: `fn` is fact's function (Table 7-4). -/
def gFloat (f : Fmt) (md : Mode) (op fn free a b c : Nat) : FRes :=
  let v := f.operand md a
  let p := f.operand md b
  match op with
  | 0 => f.add md a b
  | 1 => f.sub md a b
  | 2 => f.mul md a b
  | 3 => f.fma md a b c
  | 4 => f.minMax md false a b
  | 5 => f.minMax md true a b
  | 6 => fDiv f md free v p
  | 7 => fSqrt f md free v
  | _ =>
    let r := actFn f md fn free v p a
    { r with flags := r.flags ||| (if md.strict && ((f.decode a).isSig || (fn == 1 && (f.decode b).isSig)) then 16 else 0) }

/-- The effects of the results of an arithmetic instruction besides its registers: flags, the first NaN produced, and its trap (R211,
R255, R256). `made` says which lane produced a NaN, `ops` the operands it records. -/
def State.gEffects (s : State) (c g : Nat) (w : DWord) (pc : DWord) (lanes : BitVec 32) (flags : Nat) (made : Nat → Bool) (ops : Nat → List Nat) :
    State :=
  let s := s.modCore c (fun k => { k with vecFlags := k.vecFlags ||| BitVec.ofNat 5 flags })
  match (lanesOf lanes).find? made with
  | none => s
  | some l =>
    let s := s.noteNan c 3 (g % 4) (g / 4) 0 pc ([gOp w * 2 ^ 24 + gFN w * 2 ^ 16, 3 * 2 ^ 26 + l] ++ ops l)
    s.modCore c (fun k => if k.nanEnable then { k with nanTrap := true } else k)

/-- The flags of a list of results together. -/
def orFlags (l : List FRes) : Nat := l.foldl (fun a r => a ||| r.flags) 0

/-- GROUP_FP_OP (R211, R217): OP 0x10 to 0x33. -/
def execGroupFpOp (c : CoreId) (g : GroupId) (w : DWord) (s : State) : Outcome :=
  groupRun c g w (fun op => decide (16 ≤ op) && decide (op < 0x40) && gKnown op) s (fun s x p lanes =>
    let k := s.core c.val
    let e := k.rcEntries
    let md := k.gMode w
    let op := gOp w
    let a (l : Nat) : Nat := if op / 16 = 2 then (x.va64 w l).toNat else (x.va w 0 l).toNat
    let b (l : Nat) : Nat := if op / 16 = 2 then (x.pair (gVB w) l).toNat else (x.vreg (gVB w) l).toNat
    let d (l : Nat) : Nat := if op / 16 = 2 then (x.pair (gVC w) l).toNat else (x.vreg (gVC w) l).toNat
    let one (f : Fmt) (l a b d : Nat) : FRes := gFloat f md (op % 16) (gFN w % 16) (s.fresh + l) a b d
    let res : List (Nat × FRes) := (lanesOf lanes).map (fun l =>
      (l, if op / 16 = 3 then
        let lo := gFloat bf16 Mode.fast (if op = 0x31 then 2 else op % 16) 0 0 (a l % 65536) (b l % 65536) (d l % 65536)
        let hi := gFloat bf16 Mode.fast (if op = 0x31 then 2 else op % 16) 0 0 (a l / 65536) (b l / 65536) (d l / 65536)
        { bits := lo.bits + hi.bits * 65536, flags := 0, made := lo.made || hi.made }
      else one (if op / 16 = 2 then fp64 else fp32) l (a l) (b l) (d l)))
    let at_ (l : Nat) : FRes := ((res.find? (fun r => r.1 == l)).map (·.2)).getD (plain 0)
    let y := if op / 16 = 2 then x.result64 e w lanes (fun l => BitVec.ofNat 64 (at_ l).bits)
      else x.result e w lanes (fun l => BitVec.ofNat 32 (at_ l).bits)
    let s := if op % 16 = 6 ∨ op % 16 = 7 ∨ op % 16 = 8 then s.bumpBy 32 else s
    (s.gEffects c.val g.val w p.pc lanes (orFlags (res.map (·.2))) (fun l => (at_ l).made) (fun l => [a l, b l, d l])).gNext c.val g.val w x y)

/-- A CMPSEL predicate on an ordering (Table 6-5). -/
def cmpHolds (code : Nat) (o : Option Ordering) : Bool :=
  match o, code with
  | none, c => c == 1
  | some o, 0 => o == .eq
  | some o, 1 => o != .eq
  | some o, 2 => o == .lt
  | some o, 3 => o != .gt
  | some o, 4 => o == .gt
  | some o, _ => o != .lt

/-- SETP (R217): OP 0x40 to 0x43. -/
def execSetp (c : CoreId) (g : GroupId) (w : DWord) (s : State) : Outcome :=
  groupRun c g w (fun op => decide (0x40 ≤ op) && decide (op ≤ 0x43)) s (fun s x p lanes =>
    let k := s.core c.val
    let md := k.gMode w
    let op := gOp w
    let f := if op = 0x41 then fp64 else fp32
    let a (l : Nat) : Nat := if op = 0x41 then (x.va64 w l).toNat else (x.va w 0 l).toNat
    let b (l : Nat) : Nat := if op = 0x41 then (x.pair (gVB w) l).toNat else (x.vreg (gVB w) l).toNat
    let ord (l : Nat) : Option Ordering :=
      match op with
      | 0x42 => some (compare (BitVec.ofNat 32 (a l)).toInt (BitVec.ofNat 32 (b l)).toInt)
      | 0x43 => some (compare (a l) (b l))
      | _ => (f.operand md (a l)).cmp (f.operand md (b l))
    let flags := if gStrict w && (lanesOf lanes).any (fun l => (f.decode (a l)).isSig || (f.decode (b l)).isSig) then 16 else 0
    let val := maskOf ((lanesOf lanes).filter (fun l => cmpHolds (gFN w % 8) (ord l)))
    (s.gEffects c.val g.val w p.pc lanes flags (fun _ => false) (fun _ => [])).gNext c.val g.val w x (x.setPred (gVD w % 8) lanes val))

/-- POP (R217): a truth table of two predicates. -/
def execPop (c : CoreId) (g : GroupId) (w : DWord) (s : State) : Outcome :=
  groupRun c g w (fun op => op == 0x44) s (fun s x _ lanes =>
    let a := x.pred (gVA w % 8)
    let b := x.pred (gVB w % 8)
    let val := maskOf ((lanesOf lanes).filter (fun l => bitAt (gFN w) (2 * b2n (a.getLsbD l) + b2n (b.getLsbD l))))
    s.gNext c.val g.val w x (x.setPred (gVD w % 8) lanes val))

/-- CVT (R244 to R252): each executing lane that converts stochastically draws its own word. -/
def execCvt (c : CoreId) (g : GroupId) (w : DWord) (s : State) : Outcome :=
  groupRun c g w (fun op => op == 0x45) s (fun s x p lanes =>
    let k := s.core c.val
    let e := k.rcEntries
    let md := k.gMode w
    let sf := gFN w / 16
    let df := gFN w % 16
    let sto := bitAt (gVC w) 0
    let a (l : Nat) : Nat := if sf = 8 then (x.va64 w l).toNat else (x.va w 0 l).toNat
    let rm (l : Nat) : Rm := if sto then .sto (srWord (laneKey k.seed c.val (g.val * 32 + l)) (BitVec.ofNat 64 (x.stoch.get 0 l))) else md.rm
    let res : List (Nat × FRes) := (lanesOf lanes).map (fun l => (l, cvtTy (tyOf sf) (tyOf df) md.strict (rm l) (bitAt (gVC w) 1) (a l)))
    let at_ (l : Nat) : FRes := ((res.find? (fun r => r.1 == l)).map (·.2)).getD (plain 0)
    let y := if df = 8 then x.result64 e w lanes (fun l => BitVec.ofNat 64 (at_ l).bits) else x.result e w lanes (fun l => BitVec.ofNat 32 (at_ l).bits)
    let y := if sto then { y with stoch := (lanesOf lanes).foldl (fun m l => m.set 0 l (m.get 0 l + 1)) y.stoch } else y
    (s.gEffects c.val g.val w p.pc lanes (orFlags (res.map (·.2))) (fun l => (at_ l).made) (fun l => [a l, 0, 0])).gNext c.val g.val w x y)

/-! ## Memory (R229 to R235) -/

/-- The address of a lane's access. -/
def Group.addr (g : Group) (w : DWord) (lane : Nat) : DWord := g.va64 w lane + gOff w

/-- The lanes of a memory instruction, checked for alignment (R217), probed where they lie outside the aperture (R386), and performed by
the body with the places found. -/
def State.gMemory (s : State) (c g : Nat) (gid : GroupId) (w : DWord) (x : Group) (p : Path) (lanes : BitVec 32) (acc : XlAccess) (op : Nat → RemOp)
    (body : State → List (Nat × DWord × Nat × Spot) → State) : State :=
  let k := s.core c
  let n := gMemBytes w
  if (lanesOf lanes).any (fun l => (x.addr w l).toNat % n != 0) then s.gTrap c g 2 lanes p.pc
  else
    let outer := (lanesOf lanes).filter (fun l => !k.inAperture (x.addr w l))
    match s.probeAll c (.groupData gid) acc (outer.map (fun l => (l, x.addr w l, n, op l))) with
    | (s, .error e) => s.gStop c g x p lanes (.groupData gid) e
    | (s, .ok ps) => body s ps

/-- The place found for a lane. -/
def spotOf (ps : List (Nat × DWord × Nat × Spot)) (l : Nat) : Option Spot := (ps.find? (fun q => q.1 == l)).map (·.2.2.2)

/-- The loads of the lanes in ascending order: the data of each, the code of the first error, and the companion's bytes left. -/
def State.gLoads (s : State) (c : Nat) (gid : GroupId) (n : Nat) (x : Group) (w : DWord) (l1 : Bool) (ext : List Byte)
    (ps : List (Nat × DWord × Nat × Spot)) (lanes : List Nat) : State × List (Nat × Nat) × Nat :=
  let r := lanes.foldl (fun (acc : State × List (Nat × Nat) × Nat × List Byte) l =>
    let (s, d, code, ext) := acc
    let va := x.addr w l
    match spotOf ps l with
    | none =>
      let k := s.core c
      let (s, bad) := s.panRead c 3 (granulesOf (k.apOff va) n)
      (s, d ++ [(l, k.panNat (k.apOff va) n)], if code = 0 ∧ !bad.isEmpty then 0x10F else code, ext)
    | some sp =>
      let (s, b, bad, ext) := s.readSpot c 3 (.groupData gid) sp n l l1 false ext
      (s, d ++ [(l, leNat b)], if code = 0 ∧ bad then 0x119 else code, ext)) (s, [], 0, ext)
  (r.1, r.2.1, r.2.2.1)

/-- The registers a loaded value goes to: sign-extended where MF[3] says so, in words, low first. -/
def gLoadWord (w : DWord) (v i : Nat) : Word :=
  let n := 8 * gMemBytes w
  if bitAt (gFN w) 3 && bitAt v (n - 1) then BitVec.ofInt 32 ((v : Int) - 2 ^ n) else BitVec.ofNat 32 (v / 2 ^ (32 * i))

/-- Writes the registers of a loaded value. -/
def Group.loadRegs (g : Group) (e : Nat) (w : DWord) (lanes : BitVec 32) (f : Nat → Nat → Word) : Group :=
  if gVD w = 255 then g else (List.range (gMemRegs w)).foldl (fun g i => g.setV e (gNA w) lanes (gVD w + i) (fun l => f l i)) g

/-- Invalidates the L1 data cache of a core (R230, R233). -/
def Core.invalD (k : Core) : Core := { k with l1d := ⟨[]⟩ }

/-- LD (R229 to R234): the Pantry in the aperture, else through the L1 data cache unless MF[4] or a device-scope acquire bypasses it;
a device-scope acquire then invalidates it. -/
def execLd (c : CoreId) (g : GroupId) (w : DWord) (ecc : List EccHit) (ext : List Byte) (s : State) : Outcome :=
  groupRun c g w (fun op => op == 0x50) s (fun s x p lanes =>
    (s.flaw c.val ecc).gMemory c.val g.val g w x p lanes .read (fun _ => .read) (fun s ps =>
      let acq := bitAt (gFN w) 5 && bitAt (gFN w) 7
      let (s, d, code) := s.gLoads c.val g (gMemBytes w) x w (!bitAt (gFN w) 4 && !acq) ext ps (lanesOf lanes)
      if code ≠ 0 then s.gFail c.val g.val code 0 lanes p.pc
      else
        let at_ (l : Nat) : Nat := ((d.find? (fun q => q.1 == l)).map (·.2)).getD 0
        let y := x.loadRegs (s.core c.val).rcEntries w lanes (fun l i => gLoadWord w (at_ l) i)
        let s := if acq then s.modCore c.val Core.invalD else s
        s.gNext c.val g.val w x y))

/-- The bytes a lane stores. -/
def Group.storeBytes (g : Group) (w : DWord) (lane : Nat) : List Byte :=
  let v := (List.range (gMemRegs w)).foldl (fun a i => a + (if gVB w = 255 then 0 else (g.vreg (gVB w + i) lane).toNat) * 2 ^ (32 * i)) 0
  leBytes (gMemBytes w) v

/-- ST (R229 to R234). -/
def execSt (c : CoreId) (g : GroupId) (w : DWord) (s : State) : Outcome :=
  groupRun c g w (fun op => op == 0x51) s (fun s x p lanes =>
    s.gMemory c.val g.val g w x p lanes .write (fun _ => .write) (fun s ps =>
      let s := overList s (lanesOf lanes) (fun s l =>
        match spotOf ps l with
        | none => s.panStore c.val 3 ((s.core c.val).apOff (x.addr w l)) (x.storeBytes w l)
        | some sp => s.writeSpot c.val 3 (.groupData g) sp (x.storeBytes w l))
      s.gNext c.val g.val w x x))

/-- The atomic operation of MF[3:0] (Table 7-5). -/
def gAtom (n : Nat) : AtomOp :=
  match n with
  | 0 => .swap | 1 => .add | 2 => .and | 3 => .or | 4 => .xor | 5 => .minS | 6 => .maxS | 7 => .minU | 8 => .maxU | _ => .fadd

/-- AMO (R229, R231): the lanes in ascending order, at the Pantry, the home, the memory-side atomic unit, the companion or a remote node. -/
def execAmo (c : CoreId) (g : GroupId) (w : DWord) (ecc : List EccHit) (ext : List Byte) (s : State) : Outcome :=
  groupRun c g w (fun op => op == 0x52) s (fun s x p lanes =>
    let n := gMemBytes w
    let opn := gFN w % 16
    let op := gAtom opn
    let width := if n = 8 then 1 else 0
    let operand (l : Nat) : Nat := leNat (x.storeBytes w l)
    (s.flaw c.val ecc).gMemory c.val g.val g w x p lanes .atomic (fun l => .atom opn width (BitVec.ofNat 128 (operand l)) 0) (fun s ps =>
      let r := (lanesOf lanes).foldl (fun (acc : State × List (Nat × Nat) × Nat × List Byte) l =>
        let (s, d, code, ext) := acc
        let va := x.addr w l
        if code ≠ 0 then acc
        else match spotOf ps l with
          | none =>
            let off := (s.core c.val).apOff va
            let (s, bad) := s.panRead c.val 3 (granulesOf off n)
            if bad.isEmpty then
              let old := (s.core c.val).panNat off n
              (s.modCore c.val (fun k => k.panWrite off (leBytes n (atomResult op (8 * n) old (operand l) 0 faddAtomic))), d ++ [(l, old)], code, ext)
            else (s, d, 0x10F, ext)
          | some sp =>
            match s.atomSpot c.val 3 (.groupData g) sp op opn width (BitVec.ofNat 128 (operand l)) 0 l ext with
            | (s, some old) => (s, d ++ [(l, old)], code, match sp with | .host _ _ => ext.drop n | _ => ext)
            | (s, none) => (s, d, 0x119, ext)) (s, [], 0, ext)
      let s := r.1
      if r.2.2.1 ≠ 0 then s.gFail c.val g.val r.2.2.1 0 lanes p.pc
      else
        let at_ (l : Nat) : Nat := ((r.2.1.find? (fun q => q.1 == l)).map (·.2)).getD 0
        let y := x.loadRegs (s.core c.val).rcEntries w lanes (fun l i => BitVec.ofNat 32 (at_ l / 2 ^ (32 * i)))
        let s := if bitAt (gFN w) 5 && bitAt (gFN w) 7 then s.modCore c.val Core.invalD else s
        s.gNext c.val g.val w x y))

/-- Whether a group has accesses to remote nodes or companion memory that are not performed yet. -/
def State.groupBusy (s : State) (c : Nat) (g : GroupId) : Bool :=
  s.writesOut (.core c (.groupData g)) ||
  s.remotes.cells.any (fun x => match x.2 with
    | some r => r.agent == .core c (.groupData g) && r.reply.isNone
    | none => false)

/-- G_FENCE (R233): a system-scope release waits until the companion and the remote nodes have acknowledged the group's accesses; an acquire beyond core scope invalidates the L1 data cache.
Every other access is performed in its own step. -/
def execGFence (c : CoreId) (g : GroupId) (w : DWord) (s : State) : Outcome :=
  groupRun c g w (fun op => op == 0x53) s (fun s x _ _ =>
    let scope := gFN w % 4
    if bitAt (gFN w) 3 && scope == 2 && s.groupBusy c.val g then s.gLater c.val g.val x
    else
      let s := if bitAt (gFN w) 2 && scope != 0 then s.modCore c.val Core.invalD else s
      s.gNext c.val g.val w x x)

/-! ## Control (R219 to R223) -/

/-- G_BRA (R219, R220): moves, continues or splits the current path; a taken backward branch switches. -/
def execGBra (c : CoreId) (g : GroupId) (w : DWord) (s : State) : Outcome :=
  groupRun c g w (fun op => op == 0x60) s (fun s x p _ =>
    let t := x.guard w p.mask
    let target := p.pc + (gImm w).signExtend 64
    let y :=
      if t = 0 then x.advance
      else if t = p.mask then x.modPath (fun p => { p with pc := target })
      else
        let y := (x.modPath (fun p => { p with mask := p.mask &&& ~~~ t })).advance
        { y with ring := y.ring.take 1 ++ [{ pc := target, mask := t, state := .ready }] ++ y.ring.drop 1 }
    let r := if t ≠ 0 ∧ (gImm w).toInt ≤ 0 then y.turn else (y, false)
    s.gIssued c.val g.val w x r.1 r.2)

/-- G_YIELD (R220). -/
def execGYield (c : CoreId) (g : GroupId) (w : DWord) (s : State) : Outcome :=
  groupRun c g w (fun op => op == 0x61) s (fun s x _ _ =>
    let r := x.advance.turn
    s.gIssued c.val g.val w x r.1 r.2)

/-- G_CSET (R221). -/
def execGCset (c : CoreId) (g : GroupId) (w : DWord) (s : State) : Outcome :=
  groupRun c g w (fun op => op == 0x62) s (fun s x p _ =>
    let n := gVD w % 4
    s.gNext c.val g.val w x { x with mask := x.mask.set 0 n p.mask, arrived := x.arrived.set 0 n 0 })

/-- Whether ARRIVED together with the exited lanes covers MASK (R221). -/
def Group.covered (g : Group) (n : Nat) : Bool := g.mask.get 0 n &&& ~~~ (g.arrived.get 0 n ||| ~~~ g.live) == 0
/-- Empties a barrier. -/
def Group.emptyBarrier (g : Group) (n : Nat) : Group := { g with mask := g.mask.set 0 n 0, arrived := g.arrived.set 0 n 0 }
/-- Whether every path is parked and no barrier a path is parked at can complete (R223). -/
def Group.deadlocked (g : Group) : Bool :=
  !g.ring.isEmpty && g.ring.all (fun p => match p.state with | .parked n => !g.covered n | _ => false)

/-- Ends an instruction that may have parked or removed the current path: a deadlock traps, else another path may run. -/
def State.gParked (s : State) (c g : Nat) (w : DWord) (old new : Group) (p : Path) (lanes : BitVec 32) : State :=
  if new.deadlocked then (s.setGroup c g new).gTrap c g 6 lanes p.pc
  else
    let r := new.settle
    s.gIssued c g w old r.1 r.2

/-- The current path leaves the ring: the next ready path after its place becomes current (R220). -/
def Group.leave (g : Group) : Group × Bool :=
  match g.ring.tail.findIdx? (fun p => p.state == .ready) with
  | some i => ({ g with ring := g.ring.tail.rotateLeft i }, true)
  | none => ({ g with ring := g.ring.tail }, false)

/-- Ends an instruction whose path has left the ring. -/
def State.gLeft (s : State) (c g : Nat) (w : DWord) (old new : Group) (p : Path) (lanes : BitVec 32) : State :=
  let r := new.leave
  if r.1.deadlocked then (s.setGroup c g r.1).gTrap c g 6 lanes p.pc else s.gIssued c g w old r.1 r.2

/-- G_CWAIT (R221): the current path absorbs the paths parked at the barrier when it completes, else it parks. -/
def execGCwait (c : CoreId) (g : GroupId) (w : DWord) (s : State) : Outcome :=
  groupRun c g w (fun op => op == 0x63) s (fun s x p _ =>
    let n := gVD w % 4
    let here (q : Path) : Bool := q.state == .parked n
    if x.mask.get 0 n = 0 then s.gNext c.val g.val w x x
    else
      let y := { x with arrived := x.arrived.set 0 n (x.arrived.get 0 n ||| p.mask) }
      if y.covered n then
        let m := (y.ring.filter here).foldl (fun m q => m ||| q.mask) p.mask
        let y := { y with ring := y.ring.filter (fun q => !here q) }
        s.gNext c.val g.val w x ((y.modPath (fun q => { q with mask := m })).emptyBarrier n)
      else if y.ring.any here then
        s.gLeft c.val g.val w x { y with ring := y.ring.map (fun q => if here q then { q with mask := q.mask ||| p.mask } else q) } p p.mask
      else s.gParked c.val g.val w x (y.advance.modPath (fun q => { q with state := .parked n })) p p.mask)

/-- The barriers that exits complete: their parked paths become ready and the barriers empty (R221, R222). -/
def Group.exitsArrive (g : Group) : Group :=
  (List.range 4).foldl (fun g n =>
    if g.covered n && g.ring.any (fun q => q.state == .parked n) then
      ({ g with ring := g.ring.map (fun (q : Path) => if q.state = .parked n then { q with state := .ready } else q) : Group }).emptyBarrier n
    else g) g

/-- G_EXIT (R222): the executing lanes leave; a group with no lane left has ended. -/
def execGExit (c : CoreId) (g : GroupId) (w : DWord) (s : State) : Outcome :=
  groupRun c g w (fun op => op == 0x64) s (fun s x p lanes =>
    let live := x.live &&& ~~~ lanes
    if live = 0 then s.gIssued c.val g.val w x Group.reset false
    else
      let left := p.mask &&& ~~~ lanes
      let y := { x with live := live }
      let y := y.exitsArrive
      if left = 0 then s.gLeft c.val g.val w x y p lanes
      else s.gParked c.val g.val w x (y.modPath (fun q => { q with mask := left })).advance p lanes)

/-- G_BAR (R228): the group waits. -/
def execGBar (c : CoreId) (g : GroupId) (w : DWord) (s : State) : Outcome :=
  groupRun c g w (fun op => op == 0x65) s (fun s x _ _ =>
    let r := (x.advance.modPath (fun q => { q with state := .barWait })).settle
    s.gIssued c.val g.val w x r.1 r.2)

/-- Whether a group has arrived at the barrier across the groups. -/
def Group.atBar (g : Group) : Bool := g.ring.any (fun p => p.state == .barWait)

/-- G_BAR_RELEASE (R228): when every group that has not ended has arrived, all are released. -/
def execGBarRelease (c : CoreId) (s : State) : Outcome :=
  gate s (fun s =>
    let k := s.core c.val
    if k.runs ∧ (k.groups.cells.filter (fun x => x.2.live != 0)).all (fun x => x.2.atBar) then
      overList s ((k.groups.cells.filter (fun x => x.2.live != 0)).map (·.1)) (fun s g =>
        let x := (s.core c.val).group g
        s.setGroup c.val g { x with ring := x.ring.map (fun p => if p.state = .barWait then { p with state := .ready } else p) })
    else s)

/-! ## Tokens (R235) -/

/-- G_TKWAIT (R217, R220). -/
def execGTkwait (c : CoreId) (g : GroupId) (w : DWord) (s : State) : Outcome :=
  groupRun c g w (fun op => op == 0x66) s (fun s x _ _ =>
    let tk := gVD w % 32
    let target := x.u.get 0 (gVA w % 64)
    if (s.core c.val).reached tk target then s.gNext c.val g.val w x x
    else
      let r := (x.advance.modPath (fun q => { q with state := .tkWait tk target })).settle
      s.gIssued c.val g.val w x r.1 r.2)

/-- G_TKWAIT_RELEASE (R235): the waiting paths of a group whose condition holds continue. -/
def execGTkwaitRelease (c : CoreId) (g : GroupId) (s : State) : Outcome :=
  gate s (fun s =>
    let k := s.core c.val
    let x := k.group g.val
    let free (p : Path) : Bool := match p.state with | .tkWait tk t => k.reached tk t | _ => false
    if x.ring.any free then
      s.setGroup c.val g.val { x with ring := x.ring.map (fun p => if free p then { p with state := .ready } else p) }
    else s)

/-- G_TKPOST (R217, R235). -/
def execGTkpost (c : CoreId) (g : GroupId) (w : DWord) (s : State) : Outcome :=
  groupRun c g w (fun op => op == 0x67) s (fun s x _ _ =>
    let tk := gVD w % 32
    let s := s.modCore c.val (fun k => { k with tkDone := k.tkDone.set 0 tk (k.tkDone.get 0 tk + 1), tkExpect := k.tkExpect.set 0 tk (k.tkExpect.get 0 tk + 1) })
    s.gNext c.val g.val w x x)

/-! ## Group-wide data (R225 to R227) -/

/-- G_VOTE (R226). -/
def execGVote (c : CoreId) (g : GroupId) (w : DWord) (s : State) : Outcome :=
  groupRun c g w (fun op => op == 0x70) s (fun s x _ _ =>
    let v := x.pred (gVA w % 8) &&& x.live
    let y :=
      if gFN w = 2 then { x with u := x.u.set 0 (gVD w % 64) v }
      else x.setPred (gVD w % 8) (BitVec.allOnes 32) (if (if gFN w = 0 then v == x.live else v != 0) then BitVec.allOnes 32 else 0)
    s.gNext c.val g.val w x y)

/-- The source lane of g.shfl (R226). -/
def shflLane (fn lane b : Nat) : Nat :=
  match fn with
  | 0 => b
  | 1 => lane ^^^ b
  | 2 => if b ≤ lane then lane - b else lane
  | _ => if lane + b < 32 then lane + b else lane

/-- G_SHFL (R226). -/
def execGShfl (c : CoreId) (g : GroupId) (w : DWord) (s : State) : Outcome :=
  groupRun c g w (fun op => op == 0x71) s (fun s x _ lanes =>
    let y := x.result (s.core c.val).rcEntries w lanes (fun l => x.va w 0 (shflLane (gFN w) l ((x.vreg (gVB w) l).toNat % 32)))
    s.gNext c.val g.val w x y)

/-- G_COMPACT (R226). -/
def execGCompact (c : CoreId) (g : GroupId) (w : DWord) (s : State) : Outcome :=
  groupRun c g w (fun op => op == 0x72) s (fun s x _ _ =>
    let from_ := lanesOf (x.pred (gVB w % 8) &&& x.live)
    let y := x.result (s.core c.val).rcEntries w (BitVec.allOnes 32) (fun l => match from_[l]? with | some j => x.va w 0 j | none => 0)
    s.gNext c.val g.val w x { y with u := y.u.set 0 (gVC w % 64) (BitVec.ofNat 32 from_.length) })

/-- G_EXPAND (R226). -/
def execGExpand (c : CoreId) (g : GroupId) (w : DWord) (s : State) : Outcome :=
  groupRun c g w (fun op => op == 0x73) s (fun s x _ lanes =>
    let held := lanesOf (x.pred (gVB w % 8) &&& x.live)
    let y := x.result (s.core c.val).rcEntries w lanes (fun l => if held.contains l then x.va w 0 (held.idxOf l) else 0)
    s.gNext c.val g.val w x y)

/-- One element of D by fused multiply-adds in ascending k, and whether a NaN was produced (R227). -/
def gmmaElement (f : Fmt) (ab : List (Nat × Nat)) (d : Nat) (src : Fmt) : FRes :=
  ab.foldl (fun acc x =>
    let fl (v : FV) : FV := if src = fp16 then v else src.flushIn v
    let r := f.finish Mode.fast (f.fmaV .rne (fl (src.decode x.1)) (fl (src.decode x.2)) (f.flushIn (f.decode acc.bits)))
    { bits := r.bits, flags := 0, made := acc.made || r.made }) (plain d)

/-- G_MMA (R227). -/
def execGMma (c : CoreId) (g : GroupId) (w : DWord) (s : State) : Outcome :=
  groupRun c g w (fun op => op == 0x74) s (fun s x p lanes =>
    let e := (s.core c.val).rcEntries
    let wide := gFN w = 2
    let src := if wide then fp64 else if gFN w = 1 then fp16 else bf16
    let halfAt (v : Word) (j : Nat) : Nat := if j % 2 = 0 then v.toNat % 65536 else v.toNat / 65536
    let a (m k : Nat) : Nat :=
      if wide then let l := m + 8 * (k / 2); (x.va w (2 * (k % 2) + 1) l ++ x.va w (2 * (k % 2)) l).toNat
      else halfAt (x.va w (k % 8 / 2) (m + 16 * (k / 8))) (k % 8)
    let b (k n : Nat) : Nat :=
      if wide then (x.pair (gVB w + 2 * (k % 2)) (n + 8 * (k / 2))).toNat
      else halfAt (x.vreg (gVB w + k % 8 / 2) (n + 16 * (k / 8))) (k % 8)
    let elem (t j : Nat) : FRes :=
      if wide then gmmaElement fp64 ((List.range 8).map (fun k => (a (t % 8) k, b k (2 * (t / 8) + j)))) (x.pair (gVD w + 2 * j) t).toNat src
      else gmmaElement fp32 ((List.range 16).map (fun k => (a (t % 16) k, b k (8 * (t / 16) + j)))) (x.vreg (gVD w + j) t).toNat src
    let js := List.range (if wide then 2 else 8)
    let all : List (List FRes) := (List.range 32).map (fun t => js.map (elem t))
    let at_ (t j : Nat) : FRes := (all.getD t []).getD j (plain 0)
    let y := js.foldl (fun y j =>
      if wide then
        (y.setV e (gNA w) lanes (gVD w + 2 * j) (fun t => BitVec.ofNat 32 (at_ t j).bits)).setV e (gNA w) lanes (gVD w + 2 * j + 1)
          (fun t => BitVec.ofNat 32 ((at_ t j).bits / 2 ^ 32))
      else y.setV e (gNA w) lanes (gVD w + j) (fun t => BitVec.ofNat 32 (at_ t j).bits)) x
    let ops (t : Nat) : List Nat :=
      if wide then [(x.va64 w t).toNat, (x.pair (gVB w) t).toNat, 0] else [(x.va w 0 t).toNat, (x.vreg (gVB w) t).toNat, 0]
    (s.gEffects c.val g.val w p.pc lanes 0 (fun t => (all.getD t []).any (·.made)) ops).gNext c.val g.val w x y)

/-! ## Tile registers (R235) -/

/-- Whether a tile instruction that is queued or running reads or writes an element of a tile register. -/
def Core.tileBusy (k : Core) (quart : Bool) (t m n : Nat) : Bool :=
  k.inflight.any (fun i => i.cls != 0 && (i.reads quart ++ i.writes quart).contains (4 * t + 2 * (m / 64) + n / 64))

/-- The element a lane names. -/
def Group.element (g : Group) (w : DWord) (l : Nat) : Nat × Nat := ((g.va w 0 l).toNat % 128, (g.vreg (gVB w) l).toNat % 128)

/-- Accesses of tile-register elements by lanes in ascending order: an element in use by a tile instruction gets an undefined value. -/
def State.gTile (s : State) (c : Nat) (w : DWord) (x : Group) (lanes : List Nat) (write : Bool) : State :=
  let q := s.quartered c
  let t := gFN w % 16
  overList s lanes (fun s l =>
    let (m, n) := x.element w l
    if (s.core c).tileBusy q t m n then
      (s.modCore c (fun k => { k with tiles := k.tiles.set 0 (tileKey t m n) (Config.freeWord s.fresh) })).bump
    else if write then s.modCore c (fun k => { k with tiles := k.tiles.set 0 (tileKey t m n) (x.vreg (gVC w) l) })
    else s)

/-- G_TLD (R235). -/
def execGTld (c : CoreId) (g : GroupId) (w : DWord) (s : State) : Outcome :=
  groupRun c g w (fun op => op == 0x80) s (fun s x _ lanes =>
    let s := s.gTile c.val w x (lanesOf lanes) false
    let k := s.core c.val
    let y := x.result k.rcEntries w lanes (fun l => let e := x.element w l; k.tile (gFN w % 16) e.1 e.2)
    s.gNext c.val g.val w x y)

/-- G_TST (R235). -/
def execGTst (c : CoreId) (g : GroupId) (w : DWord) (s : State) : Outcome :=
  groupRun c g w (fun op => op == 0x81) s (fun s x _ lanes => (s.gTile c.val w x (lanesOf lanes) true).gNext c.val g.val w x x)

/-- GROUP_STARVATION_PROMOTION (R209): a group ready for 64 cycles goes ahead until it issues. -/
def execGroupStarvationPromotion (c : CoreId) (g : GroupId) (s : State) : Outcome :=
  gate s (fun s =>
    let x := (s.core c.val).group g.val
    if x.live ≠ 0 ∧ (s.core c.val).runs ∧ x.ring.any (fun p => p.state == .ready) then s.setGroup c.val g.val { x with promoted := true } else s)

end Sys2Proof.Machine
end

