-- ==== Sys2Proof/Machine/Streams.lean ====
section
/-! DEFINITION. The Pantry's scrubber and the stream engine (chapter 10): copies in their eight modes, conditional routing and combining, chunk
tokens, holds and errors. -/

namespace Sys2Proof.Machine

/-! ## The scrubber (R286) -/

/-- The bank-word of a row of a bank (Table 10-1). -/
def bankWord (bank row : Nat) : Nat := row * 2048 + Nat.xor bank (row % 32) * 64

/-- PANTRY_SCRUB_INTERVAL (R284 to R286): each bank that is not busy for the whole interval has its next row read. -/
def execPantryScrubInterval (c : CoreId) (busy : List (Fin 32)) (ecc : List EccHit) (s : State) : Outcome :=
  gate s (fun s =>
    if s.dieOnline (coreDie c.val) ∧ !(s.core c.val).fenced ∧ (s.core c.val).clock ≠ 2 then
      let s := s.flaw c.val ecc
      overList s ((List.finRange 32).filter (fun b => !busy.contains b)) (fun s b =>
        let row := (s.core c.val).scrubRow.get 0 b.val
        let (s, _) := s.panRead c.val 0 (granulesOf (bankWord b.val row) 64)
        let k := s.core c.val
        let k := { k with scrubRow := k.scrubRow.set 0 b.val ((row + 1) % 3072) }
        if row + 1 = 3072 ∧ !k.scrubWrap.contains b.val then
          (if k.scrubWrap.length = 31 then (s.setCore c.val { k with scrubWrap := [] }).inc (coreDie c.val) (coreOff c.val 0x88C)
           else s.setCore c.val { k with scrubWrap := b.val :: k.scrubWrap })
        else s.setCore c.val k)
    else s)

/-- PAN_ECC_FIRST_CLEAR (R316, Table 10-12). -/
def execPanEccFirstClear (c : CoreId) (s : State) : Outcome := gate s (fun s => s.wr (coreDie c.val) (coreOff c.val 0x888) 0)

/-! ## Slots -/

/-- A core's stream slot. -/
def Core.slotAt (k : Core) (n : Nat) : StreamSlot := k.slots.get StreamSlot.reset n
/-- Changes a stream slot. -/
def State.modSlot (s : State) (c n : Nat) (f : StreamSlot → StreamSlot) : State :=
  s.modCore c (fun k => { k with slots := k.slots.set StreamSlot.reset n (f (k.slotAt n)) })

/-- Ends a slot's aborted instruction, where it stands at a boundary or has an error; the core's part of the kernel is over with the last one
(R127, R137, R305). -/
def State.strAbort (s : State) (c n : Nat) : State :=
  ((s.modCore c (fun k =>
    let k := k.abortSlot (s.cursorNow c) n
    { k with inflight := k.slots.cells.filterMap (fun x => x.2.ins) })).settleEnd c).runDue c

/-- Ends a stream instruction in an error: every token it owes is delivered, and the error recorded (R127, R305). -/
def State.strEnd (s : State) (c n code : Nat) : State :=
  let t := (s.core c).slotAt n
  match t.ins with
  | none => s
  | some i =>
    if t.abort then (s.modSlot c n (fun t => { t with error := code })).strAbort c n
    else
      let at_ := s.cursorNow c n
      let s := s.modSlot c n (fun t => { StreamSlot.reset with cursor := at_, faultVa := t.faultVa, error := code })
      s.tileDone c i (t.chunks - t.returned) true

/-- The reads of a slot's instruction that remote nodes answer are discarded: from the cursor on each is asked for anew (R302, R304). -/
def State.dropReads (s : State) (c n : Nat) : State :=
  let mine (r : Remote) : Bool := r.kind == 0 && (match r.agent with | .core d (.stream m) => d == c && m.val == n | _ => false)
  { s with remotes := s.remotes.drop (fun t => match s.remote t with | some r => mine r | none => false) }

/-- A slot is held at its cursor with the faulting address; an aborted instruction ends there (R302, R305). -/
def State.strHold (s : State) (c n : Nat) (va : DWord) (a : XlAccess) : State :=
  let s := s.dropReads c n
  let s := (s.modCore c (fun k => { k with monitor := k.ending.isNone })).modSlot c n (fun t => { t with phase := 2, faultVa := va, waiting := some (va, a) })
  if ((s.core c).slotAt n).abort then s.strAbort c n else s

/-- A translation fault of a stream instruction, once every write before its cursor is performed (R303): held on a record, or until one is free
(R302, R387); one that is not resolvable ends it in "stream access" (R386). -/
def State.strFault (s : State) (c : Nat) (n : Fin 16) (kind level : Nat) (va : DWord) (a : XlAccess) : State :=
  if s.writesOut (.core c (.stream n)) then s
  else if resolvable kind then
    if ((s.core c).slotAt n.val).abort then s.strHold c n.val va a
    else (s.postRecord c (.stream n) va a kind level).1.strHold c n.val va a
  else (s.modSlot c n.val (fun t => { t with faultVa := va })).strEnd c n.val 0x116

/-- What stops the progress of a stream instruction at a cursor (R302, R303, R305, R386 to R388). -/
def State.strStop (s : State) (c : Nat) (n : Fin 16) (cursor : List Nat) (e : AccStop) : State :=
  let s := s.modSlot c n.val (fun t => { t with cursor := cursor })
  match e with
  | .walk va a => s.modSlot c n.val (fun t => { t with waiting := some (va, a) })
  | .fault kind level va a => s.strFault c n kind level va a
  | .error code => s.strEnd c n.val code
  | .later => s

/-- Whether a stream instruction has writes to remote nodes or companion memory of a chunk or an earlier one that are not performed yet
(R300). -/
def State.strBusy (s : State) (c : Nat) (n : Fin 16) (chunk : Nat) : Bool :=
  s.remotes.cells.any (fun x => match x.2 with
    | some r => r.agent == .core c (.stream n) && r.kind == 1 && r.reply.isNone && r.cursor != [] && decide (r.chunk ≤ chunk)
    | none => false)
    || s.hostWrites.any (fun w => w.agent == .core c (.stream n) && w.cursor != [] && decide (w.chunk ≤ chunk))

/-! ## Line requests (R297, R298, R306) -/

/-- A line request of one side: its address, its bytes, its place, none in the Pantry, and the number of the run it belongs to. -/
structure LineReq where
  addr : Nat
  len  : Nat
  spot : Option Spot
  ix   : Nat
deriving DecidableEq, Repr

/-- The line requests of a run, asked for but not performed: translated, and at a remote node answered. Runs that are open together have numbers of
their own, so that two of one address have a request each. -/
def State.strAsk (s : State) (c : Nat) (n : Fin 16) (pan : Bool) (a : XlAccess) (op : RemOp) (xs : List (Nat × Nat)) (ix : Nat := 0) :
    State × Except AccStop (List LineReq) :=
  if pan then (s, .ok (xs.map (fun x => { addr := x.1 % 2 ^ 64, len := x.2, spot := none, ix := ix })))
  else
    match s.probeAll c (.stream n) a (xs.map (fun x => (ix, BitVec.ofNat 64 x.1, x.2, op))) with
    | (s, .error e) => (s, .error e)
    | (s, .ok ps) => (s, .ok (ps.map (fun p => { addr := p.2.1.toNat, len := p.2.2.1, spot := some p.2.2.2, ix := ix })))

/-- Several runs asked for together: every one is asked while none but an outstanding answer is missing. -/
def State.strAsks (s : State) (c : Nat) (n : Fin 16) (a : XlAccess) (op : RemOp) (xs : List (Bool × Nat × Nat)) : State × Except AccStop (List (List LineReq)) :=
  xs.zipIdx.foldl (fun acc y =>
    let x := y.1
    match acc with
    | (s, .ok l) =>
      (match s.strAsk c n x.1 a op (linePieces x.2.1 x.2.2 (x.2.2 + 1)) (y.2 + 1) with
      | (s, .ok r) => (s, .ok (l ++ [r]))
      | (s, .error e) => (s, .error e))
    | (s, .error .later) =>
      (match s.strAsk c n x.1 a op (linePieces x.2.1 x.2.2 (x.2.2 + 1)) (y.2 + 1) with
      | (s, .ok _) => (s, .error .later)
      | (s, .error e) => (s, .error e))
    | (s, .error e) => (s, .error e)) (s, .ok [])

/-- Performs reads: each byte with whether its request's line, or its granule, carried poison; counted in Table 10-11. -/
def State.strFetch (s : State) (c : Nat) (n : Fin 16) (na : Bool) (ext : List Byte) (xs : List LineReq) : State × List (Byte × Bool) × List Byte :=
  xs.foldl (fun acc x =>
    let one : State × List (Byte × Bool) × List Byte := match x.spot with
      | none =>
        let r := acc.1.panRead c 2 (granulesOf x.addr x.len)
        (r.1, ((r.1.core c).pan x.addr x.len).zipIdx.map (fun y => (y.1, r.2.contains ((x.addr + y.2) / 8))), acc.2.2)
      | some sp =>
        let r := acc.1.readSpot c 4 (.stream n) sp x.len x.ix false na acc.2.2
        (r.1, r.2.1.map (fun y => (y, r.2.2.1)), r.2.2.2)
    let s := one.1.inc64 (coreDie c) (coreOff c 0x908) x.len
    (if one.2.1.any (·.2) then s.satFld (coreDie c) (coreOff c 0x918) 31 0 else s, acc.2.1 ++ one.2.1, one.2.2)) (s, [], ext)

/-- Performs a write: a Pool line with poison, or every granule that the line request covers, where the data carries it (R306). -/
def State.strPut (s : State) (c : Nat) (n : Fin 16) (chunk : Nat) (x : LineReq) (b : List (Byte × Bool)) : State :=
  let d := b.map (·.1)
  let poison := b.any (·.2)
  let s := s.inc64 (coreDie c) (coreOff c 0x910) d.length
  match x.spot with
  | none =>
    let s := s.panStore c 2 x.addr d
    if poison then s.modCore c (fun k => { k with poisoned := (granulesOf x.addr d.length).foldl (fun l g => if l.contains g then l else g :: l) k.poisoned })
    else s
  | some sp => s.writeSpot c 4 (.stream n) sp d poison chunk

/-- A read of a run: its bytes with their poison, and the companion's bytes left. -/
def State.strRead (s : State) (c : Nat) (n : Fin 16) (pan na : Bool) (a len : Nat) (ext : List Byte) :
    State × Except AccStop (List (Byte × Bool) × List Byte) :=
  match s.strAsk c n pan .read .read (linePieces a len (len + 1)) with
  | (s, .error e) => (s, .error e)
  | (s, .ok rs) => let (s, b, ext) := s.strFetch c n na ext rs; (s, .ok (b, ext))

/-- Notes the byte of the current run that the next writes serve. -/
def State.doByte (s : State) (c n i : Nat) : State := s.modSlot c n (fun t => { t with doing := i :: t.doing.tail })
/-- Notes the element that the next writes serve. -/
def State.doAt (s : State) (c n : Nat) (cursor : List Nat) : State := s.modSlot c n (fun t => { t with doing := cursor })

/-- Writes consecutive bytes line by line, those of a run from its byte `i0` on; answers how many it wrote before it stopped, and why. -/
def State.strWrite (s : State) (c : Nat) (n : Fin 16) (pan : Bool) (chunk i0 a : Nat) (b : List (Byte × Bool)) : State × Except (Nat × AccStop) Unit :=
  (linePieces a b.length (b.length + 1)).foldl (fun acc pc =>
    match acc with
    | (s, .error e) => (s, .error e)
    | (s, .ok _) =>
      match s.strAsk c n pan .write .write [pc] with
      | (s, .error e) => (s, .error (pc.1 - a, e))
      | (s, .ok ws) => (overList (s.doByte c n.val (i0 + (pc.1 - a))) ws (fun s w => s.strPut c n chunk w ((b.drop (pc.1 - a)).take pc.2)), .ok ())) (s, .ok ())

/-- The source's line requests from byte `q` of a run of `len` bytes on that the bytes up to `upto` need. -/
def lineCover (sa q upto len : Nat) : List (Nat × Nat) :=
  (linePieces (sa + q) (min (len - q) (upto - q + 128)) (upto - q + 130)).takeWhile (fun p => decide (p.1 < sa + upto))

/-- Moves a run from byte `i` on, one write for each line of the destination and one read for each line of the source, whose bytes wait in
`buf`; answers the companion's bytes left, or the byte it stopped at and why. A fill has its bytes in `buf` and no source. -/
def State.moveRun (s : State) (c : Nat) (n : Fin 16) (panS panD na : Bool) (chunk : Nat) (src : Option Nat) (da len : Nat) :
    Nat → Nat → List (Byte × Bool) → List Byte → State × Except (Nat × AccStop) (List Byte)
  | 0, _, _, ext => (s, .ok ext)
  | fuel + 1, i, buf, ext =>
    if len ≤ i then (s, .ok ext)
    else
      let m := min (len - i) (128 - (da + i) % 128)
      let reads := match src with | none => [] | some sa => lineCover sa (i + buf.length) (i + m) len
      match s.strAsk c n panS .read .read reads with
      | (s, .error e) => (s, .error (i, e))
      | (s, .ok rs) =>
        match s.strAsk c n panD .write .write [((da + i) % 2 ^ 64, m)] with
        | (s, .error e) => (s, .error (i, e))
        | (s, .ok ws) =>
          let (s, got, ext) := s.strFetch c n na ext rs
          let buf := buf ++ got
          (overList (s.doByte c n.val i) ws (fun s w => s.strPut c n chunk w (buf.take m))).moveRun c n panS panD na chunk src da len fuel (i + m) (buf.drop m) ext

/-! ## The two sides of a transfer -/

/-- A run in the Pantry lies wholly within it. -/
def panFits (a len : Nat) : Bool := decide (a + len ≤ pantrySize)

/-! ## Copies (R290 to R296) -/

/-- An s.copy descriptor with its scalars added. -/
structure CopyDesc where
  src    : Nat
  dst    : Nat
  ctrl   : Nat
  len0   : Nat
  aux    : Nat
  counts : List Nat
  sstr   : List Nat
  dstr   : List Nat
  rsvd   : Bool
deriving DecidableEq, Repr

/-- Reads an s.copy descriptor (Tables 10-2 and 10-3). -/
def copyDesc (b : List Byte) (i : TileIns) : CopyDesc :=
  let f (o n : Nat) : Nat := leAt b o n
  { src := (f 0 8 + i.a.toNat) % 2 ^ 64, dst := (f 8 8 + i.b.toNat) % 2 ^ 64, ctrl := f 0x10 4, len0 := f 0x14 4, aux := f 0x18 8,
    counts := (List.range 4).map (fun d => f (0x20 + 0x18 * d) 4), sstr := (List.range 4).map (fun d => f (0x28 + 0x18 * d) 8),
    dstr := (List.range 4).map (fun d => f (0x30 + 0x18 * d) 8), rsvd := (List.range 4).any (fun d => f (0x24 + 0x18 * d) 4 != 0) }

def CopyDesc.chunk (d : CopyDesc) : Nat := bits d.ctrl 31 29
def CopyDesc.dims (d : CopyDesc) : Nat := bits d.ctrl 28 26
def CopyDesc.es (d : CopyDesc) : Nat := 2 ^ bits d.ctrl 25 24
def CopyDesc.mode (d : CopyDesc) : Nat := bits d.ctrl 23 20
def CopyDesc.srcP (d : CopyDesc) : Bool := bitAt d.ctrl 19
def CopyDesc.dstP (d : CopyDesc) : Bool := bitAt d.ctrl 18
def CopyDesc.na (d : CopyDesc) : Bool := bitAt d.ctrl 17
def CopyDesc.opt (d : CopyDesc) : Bool := bitAt d.ctrl 16
/-- Iterations of dimension d = 1 to 4, one where the dimension is not used. -/
def CopyDesc.cnt (d : CopyDesc) (n : Nat) : Nat := if n < d.dims then d.counts.getD (n - 1) 1 else 1
/-- The runs of dimension 0, in the order of R291. -/
def CopyDesc.runCount (d : CopyDesc) : Nat := d.cnt 1 * d.cnt 2 * d.cnt 3 * d.cnt 4
/-- The indices i1 to i4 of a run. -/
def CopyDesc.ix (d : CopyDesc) (r : Nat) : List Nat :=
  [r % d.cnt 1, r / d.cnt 1 % d.cnt 2, r / (d.cnt 1 * d.cnt 2) % d.cnt 3, r / (d.cnt 1 * d.cnt 2 * d.cnt 3)]
/-- The runs of one chunk (R291). -/
def CopyDesc.chunkRuns (d : CopyDesc) : Nat :=
  match d.chunk with | 0 => d.runCount | 1 => 1 | 2 => d.cnt 1 | 3 => d.cnt 1 * d.cnt 2 | _ => d.cnt 1 * d.cnt 2 * d.cnt 3
/-- The chunk count. -/
def CopyDesc.chunkCount (d : CopyDesc) : Nat := d.runCount / d.chunkRuns

/-- A base plus the sum of indices times strides, modulo 2^64. -/
def strided (base : Nat) (ix str : List Nat) : Nat := (base + ((ix.zip str).map (fun x => x.1 * x.2)).sum) % 2 ^ 64

/-- Blocks of a block-sparse side (R294, R295). -/
def CopyDesc.blocks (d : CopyDesc) : Nat := d.cnt 2 * d.cnt 3 * d.cnt 4
/-- Bit b of a bitmap in the Pantry. -/
def Core.mapBit (k : Core) (at_ b : Nat) : Bool := (k.pantry.get 0 (at_ + b / 8)).getLsbD (b % 8)
/-- The format of a 2:4 side, and the bytes of its row and of its stored matrix (R164, R296). -/
def CopyDesc.rowBytes (d : CopyDesc) : Nat := 128 * fmtBits (d.aux % 8) / 8
def CopyDesc.matrixBytes (d : CopyDesc) : Nat := d.cnt 1 / 2 * (d.rowBytes + 32)

/-- One run of a copy: where it reads (none for a fill), where it writes (none where it writes nothing), and the fill's bytes. -/
structure CopyRun where
  src  : Option Nat
  dst  : Option Nat
  fill : List Byte
deriving DecidableEq, Repr

/-- A run of modes 0 to 5; `bit` says which blocks are present. -/
def CopyDesc.run (d : CopyDesc) (k : Core) (bit : Nat → Bool) (r : Nat) : CopyRun :=
  let ix := d.ix r
  let zeros := List.replicate d.len0 (0 : Byte)
  let sa := strided d.src ix d.sstr
  let da := strided d.dst ix d.dstr
  let index := k.panNat (d.aux + 4 * ix.getD 0 0) 4
  let ix' := index :: ix.drop 1
  let b := ix.getD 1 0 + d.cnt 2 * (ix.getD 2 0 + d.cnt 3 * ix.getD 3 0)
  let place (base : Nat) : Nat := (base + 16384 * d.es * ((List.range b).filter bit).length + ix.getD 0 0 * d.len0) % 2 ^ 64
  match d.mode with
  | 1 =>
    if index = 0xFFFFFFFF then { src := none, dst := if d.opt then some da else none, fill := zeros }
    else { src := some (strided d.src ix' d.sstr), dst := some da, fill := [] }
  | 2 => if index = 0xFFFFFFFF then { src := none, dst := none, fill := [] } else { src := some sa, dst := some (strided d.dst ix' d.dstr), fill := [] }
  | 3 => { src := none, dst := some da, fill := (List.range d.len0).map (fun i => BitVec.ofNat 8 (d.aux / 2 ^ (8 * (i % 8)))) }
  | 4 => if bit b then { src := some sa, dst := some (place d.dst), fill := [] } else { src := none, dst := none, fill := [] }
  | 5 =>
    if bit b then { src := some (place d.src), dst := some da, fill := [] }
    else { src := none, dst := if d.opt then some da else none, fill := zeros }
  | _ => { src := some sa, dst := some da, fill := [] }

/-- The element addresses of a run that the start checks: those of both sides, whether or not the run moves data, but where an index or a block
gives none (R293). -/
def CopyDesc.places (d : CopyDesc) (k : Core) (bit : Nat → Bool) (r : Nat) : Option Nat × Option Nat :=
  let x := d.run k bit r
  let ix := d.ix r
  (if d.mode = 2 ∨ d.mode = 4 then some (strided d.src ix d.sstr) else x.src, if d.mode = 1 ∨ d.mode = 5 then some (strided d.dst ix d.dstr) else x.dst)

/-- Whether an address of one side is allowed at the start: aligned where the mode asks it, and in the Pantry where the side lies there
(R293). -/
def CopyDesc.sideOk (d : CopyDesc) (pan : Bool) (len a : Nat) : Bool :=
  (d.mode == 0 || d.mode == 3 || a % d.es == 0) && (!pan || panFits a len)

/-- The checks of an s.copy (R293, R295, R296). -/
def CopyDesc.ok (d : CopyDesc) (k : Core) : Bool :=
  let m := d.mode
  let fields := decide (1 ≤ d.dims) && decide (d.dims ≤ 5) && decide (d.chunk ≤ d.dims - 1) && decide (m < 8) && d.ctrl % 2 ^ 16 == 0
    && decide (1 ≤ d.len0) && decide (d.len0 ≤ 2 ^ 24) && d.len0 % d.es == 0 && !d.rsvd && (!d.opt || m == 1 || m == 4 || m == 5) && (m != 0 || d.aux == 0)
    && (List.range 4).all (fun i => let n := d.counts.getD i 0; if i + 1 < d.dims then decide (1 ≤ n) && decide (n ≤ 2 ^ 24) else n == 0)
  let sparse := m == 4 || m == 5
  let mode :=
    if m = 1 ∨ m = 2 then decide (2 ≤ d.dims) && d.aux % 4 == 0 && panFits d.aux (4 * d.cnt 1)
    else if sparse then
      d.len0 == 128 * d.es && d.cnt 1 == 128 && decide (3 ≤ d.dims) && panFits d.aux ((d.blocks + 63) / 64 * 8)
        && (if m = 4 then d.dstr else d.sstr).all (· == 0)
    else if m = 6 ∨ m = 7 then
      decide (d.aux < 7) && bits d.ctrl 25 24 == 0 && d.len0 == d.rowBytes && d.cnt 1 % 4 == 0 && (d.dims == 2 || d.dims == 3)
    else true
  fields && mode && decide (d.chunkCount ≤ 2 ^ 24) &&
    (if m = 6 ∨ m = 7 then
      let dense (a : Nat) (p : Bool) (str : List Nat) : Bool := (List.range d.runCount).all (fun r => d.sideOk p d.len0 (strided a (d.ix r) str))
      if m = 6 then dense d.src d.srcP d.sstr && (!d.dstP || panFits d.dst (d.cnt 2 * d.matrixBytes))
      else dense d.dst d.dstP d.dstr && (!d.srcP || panFits d.src (d.cnt 2 * d.matrixBytes))
    else
      let bit (b : Nat) : Bool := if m = 4 ∧ d.opt then true else k.mapBit d.aux b
      (List.range d.runCount).all (fun r =>
        let x := d.places k bit r
        (match x.1 with | some a => d.sideOk d.srcP d.len0 a | none => true) && (match x.2 with | some a => d.sideOk d.dstP d.len0 a | none => true)))

/-- The Pantry structure that steers a run: its index, or its block's bit (R306). -/
def CopyDesc.steer (d : CopyDesc) (r : Nat) : List Nat :=
  let ix := d.ix r
  if d.mode = 1 ∨ d.mode = 2 then granulesOf (d.aux + 4 * ix.getD 0 0) 4
  else if d.mode = 5 ∨ (d.mode = 4 ∧ !d.opt) then [(d.aux + (ix.getD 1 0 + d.cnt 2 * (ix.getD 2 0 + d.cnt 3 * ix.getD 3 0)) / 8) / 8]
  else []

/-! ### 2:4 layouts (R296) -/

/-- The magnitude by which 2:4 compress ranks an element; a NaN is the largest. -/
def rankOf (fmt b : Nat) : Nat :=
  if fmt = 6 then (BitVec.ofNat 8 b).toInt.natAbs
  else if ((tyOf fmt).decode b).isNan then 2 ^ 40 else b % 2 ^ (fmtBits fmt - 1)

/-- The two rows of a group of four that a column keeps, in ascending order (R296). -/
def keepTwo (fmt : Nat) (col : List Nat) : Nat × Nat :=
  let best (skip : Option Nat) : Nat :=
    (List.range 4).foldl (fun b i => if some i = skip then b else if some b = skip ∨ rankOf fmt (col.getD b 0) < rankOf fmt (col.getD i 0) then i else b)
      (if skip = some 0 then 1 else 0)
  let p := best none
  let q := best (some p)
  (min p q, max p q)

/-- Packs elements of a width into bytes (R141). -/
def packBits (w : Nat) (l : List Nat) : List Byte :=
  let n := (l.foldr (fun x (a : Nat) => a * 2 ^ w + x % 2 ^ w) 0)
  leBytes (l.length * w / 8) n

/-- The values and metadata of two stored rows from four dense rows, and how many elements not ±0 were discarded. -/
def compressGroup (fmt : Nat) (rows : List (List Byte)) : List Byte × List Byte × List Byte × List Byte × Nat :=
  let el (m n : Nat) : Nat := elemAt (fmtBits fmt) (rows.getD m []) n
  let keep := (List.range 128).map (fun n => keepTwo fmt ((List.range 4).map (fun m => el m n)))
  let vals (second : Bool) : List Byte := packBits (fmtBits fmt) (keep.zipIdx.map (fun x => el (if second then x.1.2 else x.1.1) x.2))
  let meta_ (second : Bool) : List Byte := packBits 2 (keep.map (fun x => if second then x.2 else x.1))
  let lost := (keep.zipIdx.map (fun x => ((List.range 4).filter (fun m => m != x.1.1 && m != x.1.2 && rankOf fmt (el m x.2) != 0)).length)).sum
  (vals false, vals true, meta_ false, meta_ true, lost)

/-- Four dense rows from two stored rows; where both name one logical row, which element it takes is free. -/
def expandGroup (fmt free : Nat) (v0 v1 m0 m1 : List Byte) : List (List Byte) :=
  (List.range 4).map (fun m => packBits (fmtBits fmt) ((List.range 128).map (fun n =>
    let i0 := elemAt 8 m0 (n / 4) / 4 ^ (n % 4) % 4
    let i1 := elemAt 8 m1 (n / 4) / 4 ^ (n % 4) % 4
    let a := elemAt (fmtBits fmt) v0 n
    let b := elemAt (fmtBits fmt) v1 n
    if i0 = m ∧ i1 = m then (if Config.freeBit (free + n) then a else b) else if i0 = m then a else if i1 = m then b else 0)))

/-- Whether element `n` of packed elements carries poison, by the poison of its bytes. -/
def elemBad (w : Nat) (b : List Bool) (n : Nat) : Bool := ((b.drop (n * w / 8)).take (max 1 (w / 8))).any id
/-- The poison of the bytes of 128 packed elements. -/
def packBad (w : Nat) (bad : List Bool) : List Bool :=
  (List.range (128 * w / 8)).map (fun j => (List.range (max 1 (8 / w))).any (fun i => bad.getD (j * 8 / w + i) false))

/-- One group of four rows, from run r on, in mode 6 or 7: its reads and writes are asked for, with room for them all (R297), then performed. An
element is poisoned where what it is computed from is (R306). -/
def State.sparseGroup (s : State) (c : Nat) (n : Fin 16) (d : CopyDesc) (r : Nat) (ext : List Byte) : State × Except AccStop (List Byte) :=
  let fmt := d.aux % 8
  let g := (d.ix r).getD 0 0 / 4
  let base (a : Nat) : Nat := a + (d.ix r).getD 1 0 * d.matrixBytes
  let rb := d.rowBytes
  let vals (a : Nat) : Nat × Nat := ((base a + 2 * g * rb) % 2 ^ 64, 2 * rb)
  let meta_ (a : Nat) : Nat × Nat := ((base a + d.cnt 1 / 2 * rb + 2 * g * 32) % 2 ^ 64, 64)
  let dense (a : Nat) (str : List Nat) : List (Nat × Nat) := (List.range 4).map (fun j => (strided a (d.ix (r + j)) str, d.len0))
  let from_ := if d.mode = 6 then dense d.src d.sstr else [vals d.src, meta_ d.src]
  let into := if d.mode = 6 then [vals d.dst, meta_ d.dst] else dense d.dst d.dstr
  match s.strAsks c n .read .read (from_.map (fun x => (d.srcP, x))) with
  | (s, .error e) => (s, .error e)
  | (s, .ok rs) =>
    match s.strAsks c n .write .write (into.map (fun x => (d.dstP, x))) with
    | (s, .error e) => (s, .error e)
    | (s, .ok ws) =>
      if s.strLacks (ws.flatten.filter (fun w => match w.spot with | some (.host _ _) | some (.remote _ _) => true | _ => false)).length (remAgent c (.stream n)) then
        (s, .error .later)
      else
      let (s, b, ext) := s.strFetch c n d.na ext rs.flatten
      let bytes := b.map (·.1)
      let flags := b.map (·.2)
      let part (o len : Nat) : List Byte := (bytes.drop o).take len
      let bad (o len : Nat) : List Bool := (flags.drop o).take len
      let w := fmtBits fmt
      let poison : List Bool :=
        if d.mode = 6 then
          let rows := (List.range 4).map (fun j => bad (j * d.len0) d.len0)
          let cols := (List.range 128).map (fun m => rows.any (fun x => elemBad w x m))
          packBad w cols ++ packBad w cols ++ packBad 2 cols ++ packBad 2 cols
        else
          let cols := (List.range 128).map (fun m => elemBad w (bad 0 rb) m || elemBad w (bad rb rb) m || elemBad 2 (bad (2 * rb) 32) m
            || elemBad 2 (bad (2 * rb + 32) 32) m)
          (List.replicate 4 (packBad w cols)).flatten
      let (s, out) :=
        if d.mode = 6 then
          let x := compressGroup fmt ((List.range 4).map (fun j => part (j * d.len0) d.len0))
          (s.satFld (coreDie c) (coreOff c 0x91C) 31 0 x.2.2.2.2, x.1 ++ x.2.1 ++ x.2.2.1 ++ x.2.2.2.1)
        else
          (s.bumpBy 128, (expandGroup fmt s.fresh (part 0 rb) (part rb rb) (part (2 * rb) 32) (part (2 * rb + 32) 32)).flatten)
      let r := ws.flatten.foldl (fun (acc : State × List (Byte × Bool)) w =>
        (acc.1.strPut c n (r / d.chunkRuns) w (acc.2.take w.len), acc.2.drop w.len)) (s, out.zip poison)
      (r.1, .ok ext)

/-- Builds the bitmap of mode 4 with OPT 1 before its copy, run by run from the slot's place on: a block is absent when every element is zero but
for its top bit (R295). -/
def State.buildMap (s : State) (c : Nat) (n : Fin 16) (d : CopyDesc) : Nat → List Byte → State × Except AccStop (List Byte)
  | 0, ext => (s, .ok ext)
  | fuel + 1, ext =>
    let t := (s.core c).slotAt n.val
    if d.runCount ≤ t.closed then (s, .ok ext)
    else match s.strRead c n d.srcP d.na (strided d.src (d.ix t.closed) d.sstr) d.len0 ext with
      | (s, .error e) => (s, .error e)
      | (s, .ok (b, ext)) =>
        let bytes := b.map (·.1)
        let any := (List.range 128).any (fun i => leAt bytes (i * d.es) d.es % 2 ^ (8 * d.es - 1) != 0)
        let l := if t.result.isEmpty then List.replicate d.blocks 0 else t.result
        (s.modSlot c n.val (fun t => { t with closed := t.closed + 1, result := if any then l.set (t.closed / 128) 1 else l })).buildMap c n d fuel ext

/-- The cursor of a run from byte i0 on (R303). -/
def CopyDesc.cursor (d : CopyDesc) (i0 r : Nat) : List Nat := i0 :: d.ix r

/-- Records that the runs before `r` are performed. -/
def State.copyMark (s : State) (c : Nat) (n : Fin 16) (d : CopyDesc) (r : Nat) : State :=
  s.modSlot c n.val (fun t => { t with step := r, cursor := d.cursor 0 r, written := r / d.chunkRuns, phase := if r = d.runCount then 3 else t.phase })

/-- Whether a slot's aborted instruction has reached its chunk boundary, or its end (R137). -/
def StreamSlot.stops (t : StreamSlot) : Bool := t.abort && (t.phase != 1 || t.atBoundary)

/-- The runs of a copy from the slot's place on, until it ends or stops. -/
def State.copyRuns (s : State) (c : Nat) (n : Fin 16) (d : CopyDesc) : Nat → List Byte → State
  | 0, _ => s
  | fuel + 1, ext =>
    let t := (s.core c).slotAt n.val
    let r := t.step
    if t.stops then s.strAbort c n.val
    else if d.runCount ≤ r then s
    else if 6 ≤ d.mode then
      match (s.doAt c n.val (d.cursor 0 r)).sparseGroup c n d r ext with
      | (s, .error e) => s.strStop c n (d.cursor 0 r) e
      | (s, .ok ext) => (s.copyMark c n d (r + 4)).copyRuns c n d fuel ext
    else
      let (s, bad) := s.panRead c 2 (d.steer r)
      if !bad.isEmpty then s.strEnd c n.val 0x10F
      else
        let k := s.core c
        let bit (b : Nat) : Bool := if d.mode = 4 ∧ d.opt then t.result.getD b 0 == 1 else k.mapBit d.aux b
        let x := d.run k bit r
        let i0 := t.cursor.getD 0 0
        let moved : State × Except (Nat × AccStop) (List Byte) := match x.dst with
          | none => (s, .ok ext)
          | some da => (s.doAt c n.val (d.cursor i0 r)).moveRun c n d.srcP d.dstP d.na (r / d.chunkRuns) x.src da d.len0 (d.len0 + 1) i0 ((x.fill.drop i0).map (fun b => (b, false))) ext
        match moved with
        | (s, .error (i0, e)) => s.strStop c n (d.cursor i0 r) e
        | (s, .ok ext) => (s.copyMark c n d (r + 1)).copyRuns c n d fuel ext

/-- Continues a copy (R291 to R296, R304). One that is held while it builds its bitmap begins anew, for its cursor is the first element. -/
def State.copyGo (s : State) (c : Nat) (n : Fin 16) (ext : List Byte) : State :=
  let t := (s.core c).slotAt n.val
  match t.ins with
  | none => s
  | some i =>
    let d := copyDesc t.desc i
    if d.mode = 4 ∧ d.opt ∧ !t.abort then
      match s.buildMap c n d (d.runCount + 1) ext with
      | (s, .error e) =>
        let s := s.strStop c n (d.cursor 0 0) e
        if ((s.core c).slotAt n.val).phase = 2 then s.modSlot c n.val (fun t => { t with closed := 0, result := [] }) else s
      | (s, .ok ext) => s.copyRuns c n d (d.runCount + 1) ext
    else s.copyRuns c n d (d.runCount + 1) ext

/-! ## Starting (R287 to R289, R293, R299) -/

/-- The tokens an instruction owes are known (R125). -/
def Core.expect (k : Core) (i : TileIns) (n : Nat) : Core :=
  if i.word.getLsbD 12 then k
  else let tk := fieldOf i.word 11 7; { k with tkExpect := k.tkExpect.set 0 tk (k.tkExpect.get 0 tk + BitVec.ofNat 32 n) }

/-- Nothing that an earlier instruction of a slot asked remote nodes for is awaited any more, and the writes it left outstanding are those of no
instruction of the slot (R305). -/
def State.forgetAsked (s : State) (c : Nat) (n : Fin 16) : State :=
  let mine (a : RemAgent) : Bool := a == RemAgent.core c (.stream n)
  { s with
    remotes := ⟨s.remotes.cells.filterMap (fun x => match x.2 with
      | some r => if !mine r.agent then some x else if r.kind = 1 then some (x.1, some { r with cursor := [] }) else none
      | none => some x)⟩,
    hostWrites := s.hostWrites.map (fun w => if mine w.agent then { w with cursor := [] } else w) }

/-- Starts the stream instruction at the head of the access queue in the lowest free slot, where its function, its grant and a slot allow it;
`plan` reads the checked descriptor as a chunk count and the steps of a chunk, or the code it ends with and the tokens it owes: a failed check owes
one (R293). -/
def State.strStart (s : State) (c func : Nat) (plan : State → List Byte → TileIns → State × Except (Nat × Nat) (Nat × Nat)) :
    Option (State × Fin 16) :=
  let k := s.core c
  match k.accq, k.freeSlot with
  | i :: rest, some n =>
    if !k.mayStart || i.func != func then none
    else match k.acquire i with
      | none => none
      | some k =>
        let off := i.ops 15 0 * 128
        let s := s.setCore c { k with accq := rest }
        let s := s.forgetAsked c n
        let s := s.modSlot c n.val (fun _ => { StreamSlot.reset with phase := 1, ins := some i, cursor := [0, 0, 0, 0, 0], doing := [0, 0, 0, 0, 0] })
        let fail (s : State) (code : Nat) (owed : Nat := 1) : State :=
          ((s.modCore c (fun k => k.expect i owed)).modSlot c n.val (fun t => { t with chunks := owed })).strEnd c n.val code
        if i.ops 31 16 ≠ 0 ∨ !panFits off 128 then some (fail s 0x115, n)
        else
          let (s, bad) := s.panRead c 2 (granulesOf off 128)
          if !bad.isEmpty then some (fail s 0x10F, n)
          else
            let b := (s.core c).pan off 128
            match plan s b i with
            | (s, .error (code, owed)) => some (fail s code owed, n)
            | (s, .ok (chunks, per)) =>
              some ((s.modCore c (fun k => k.expect i chunks)).modSlot c n.val (fun t => { t with desc := b, chunks := chunks, per := per }), n)
  | _, _ => none

/-- Runs the stream instructions of a function: the head of the access queue where it can start, else each that runs and is not held. -/
def strCmd (c : CoreId) (func : Nat) (ecc : List EccHit) (s : State) (plan : State → List Byte → TileIns → State × Except (Nat × Nat) (Nat × Nat))
    (go : State → Fin 16 → State) : Outcome :=
  gate s (fun s =>
    let s := s.flaw c.val ecc
    match s.strStart c.val func plan with
    | some (s, n) => if ((s.core c.val).slotAt n.val).phase = 1 then go s n else s
    | none =>
      overList s (List.finRange 16) (fun s n =>
        let k := s.core c.val
        let t := k.slotAt n.val
        if k.kernel.isSome && !k.fenced && t.phase == 1 && t.waiting.isNone && (t.ins.map TileIns.func) == some func then
          (if t.error ≠ 0 then s.strEnd c.val n.val t.error else go s n)
        else s))

/-- S_COPY (R287 to R306). -/
def execSCopy (c : CoreId) (ecc : List EccHit) (ext : List Byte) (s : State) : Outcome :=
  strCmd c 0 ecc s (fun s b i => let d := copyDesc b i; (s, if d.ok (s.core c.val) then .ok (d.chunkCount, d.chunkRuns) else .error (0x115, 1)))
    (fun s n => s.copyGo c.val n ext)

/-! ## Routing and combining: descriptors (R307, R308, R314) -/

/-- An expert entry (Table 10-9). -/
structure Expert where
  inBase  : Nat
  outBase : Nat
  counter : Nat
  cap     : Nat
  log2    : Nat
  flags   : Nat
  rsvd    : Nat
deriving DecidableEq, Repr

/-- An entry from its 32 bytes. -/
def expertOf (b : List Byte) : Expert :=
  { inBase := leAt b 0 8, outBase := leAt b 8 8, counter := leAt b 16 8, cap := leAt b 24 4, log2 := leAt b 28 1, flags := leAt b 29 1,
    rsvd := leAt b 30 2 }
def Expert.enabled (e : Expert) : Bool := bitAt e.flags 0
def Expert.pan (e : Expert) : Bool := bitAt e.flags 1

/-- A descriptor of s.route or s.combine. -/
structure RouteDesc where
  row    : Nat
  map    : Nat
  ctrl   : Nat
  len    : Nat
  stride : Nat
  tokens : Nat
  k      : Nat
  clog   : Nat
  experts : Nat
  idx    : Nat
  table  : Nat
  ovf    : Expert
  rsvd   : Bool
  at_    : Nat
deriving DecidableEq, Repr

/-- Reads the descriptor with the scalars added: SRC + x[RS1] and MAP + x[RS2], or DST + x[RS1] (Tables 10-2 and 10-8). -/
def routeFields (b : List Byte) (a m : DWord) (at_ : Nat) : RouteDesc :=
  let f (o n : Nat) : Nat := leAt b o n
  { row := (f 0 8 + a.toNat) % 2 ^ 64, map := (f 8 8 + m.toNat) % 2 ^ 64, ctrl := f 0x10 4, len := f 0x14 4, stride := f 0x18 8, tokens := f 0x20 4,
    k := f 0x24 1, clog := f 0x25 1, experts := f 0x26 2, idx := f 0x28 4, table := f 0x2C 4, ovf := expertOf ((b.drop 0x30).take 32),
    rsvd := !((b.drop 0x60).take 32).all (· == 0), at_ := at_ }
def routeDesc (b : List Byte) (i : TileIns) : RouteDesc := routeFields b i.a i.b (i.ops 15 0 * 128)

/-- The chunks (R299). -/
def RouteDesc.chunks (d : RouteDesc) : Nat := (d.tokens + 2 ^ d.clog - 1) / 2 ^ d.clog
/-- Expert entry e, from the Pantry. -/
def Core.expert (k : Core) (d : RouteDesc) (e : Nat) : Expert := expertOf (k.pan (d.table + 32 * e) 32)

/-- Whether an entry in use follows its rules (R308, R314): `bytes` is what a slot must hold, `out` says which buffer is used. -/
def Expert.ok (e : Expert) (bytes : Nat) (out : Bool) : Bool :=
  e.flags / 4 == 0 && e.rsvd == 0 && decide (e.cap ≤ 2 ^ 18) && decide (6 ≤ e.log2) && decide (e.log2 ≤ 16) && decide (bytes ≤ 2 ^ e.log2)
    && e.counter % 16 == 0 && (!e.pan || (panFits e.counter 16 && panFits (if out then e.outBase else e.inBase) (e.cap * 2 ^ e.log2)))

/-- The checks of the descriptor that s.route and s.combine share; `rowBytes` is the bytes of a row in `row`, `slotBytes` of one in a slot, `panRow`
whether the rows lie in the Pantry, and `isz` the size of an entry of `idx` (R293, R307, R308, R314). -/
def RouteDesc.ok (d : RouteDesc) (rowBytes slotBytes isz : Nat) (panRow ovfUse out : Bool) : Bool :=
  decide (rowBytes ≤ d.stride) && decide (1 ≤ d.tokens) && decide (d.tokens ≤ 2 ^ 20) && decide (1 ≤ d.k) && decide (d.k ≤ 8) && decide (d.clog ≤ 10)
    && decide (1 ≤ d.experts) && decide (d.experts ≤ 4096) && d.idx % isz == 0 && panFits d.idx (d.tokens * d.k * isz)
    && d.table % 32 == 0 && panFits d.table (32 * d.experts) && d.map % 4 == 0 && !d.rsvd
    && (!bitAt d.ctrl 0 || panFits d.map (d.tokens * d.k * 4))
    && (!panRow || panFits d.row ((d.tokens - 1) * d.stride + rowBytes))
    && (!(ovfUse && d.ovf.enabled) || d.ovf.ok slotBytes out)

/-- The checks of the entries of the expert table (R308, R314). -/
def RouteDesc.tableOk (d : RouteDesc) (k : Core) (slotBytes : Nat) (out : Bool) : Bool :=
  (List.range d.experts).all (fun e => let x := k.expert d e; !x.enabled || x.ok slotBytes out)

/-- Reads the expert table of a checked descriptor at the start: poison in it ends the instruction, which owes all its tokens (R299, R306), and then
its entries are checked (R293). -/
def State.planRoute (s : State) (c : Nat) (d : RouteDesc) (per : Nat) (ok : Bool) (slotBytes : Nat) (out : Bool) :
    State × Except (Nat × Nat) (Nat × Nat) :=
  if !ok then (s, .error (0x115, 1))
  else
    let (s, bad) := s.panRead c 2 (granulesOf d.table (32 * d.experts))
    (s, if !bad.isEmpty then .error (0x10F, d.chunks) else if !d.tableOk (s.core c) slotBytes out then .error (0x115, 1) else .ok (d.chunks, per))

/-- A fetch-and-add of 64 bits (R309, R312); a poisoned granule is a poisoned operand (R285), a poisoned line poisoned data (R368). -/
def State.strAdd (s : State) (c : Nat) (n : Fin 16) (pan : Bool) (a v ix : Nat) (ext : List Byte) : State × Except AccStop Nat :=
  if pan then
    let (s, bad) := s.panRead c 2 (granulesOf a 8)
    if !bad.isEmpty then (s, .error (.error 0x10F))
    else
      let old := (s.core c).panNat a 8
      (s.modCore c (fun k => k.panWrite a (leBytes 8 (old + v))), .ok old)
  else
    match s.probe c (.stream n) (BitVec.ofNat 64 a) 8 .atomic (.atom 1 1 (BitVec.ofNat 128 v) 0) ix with
    | (s, .error e) => (s, .error e)
    | (s, .ok sp) =>
      match s.atomSpot c 4 (.stream n) sp .add 1 1 (BitVec.ofNat 128 v) 0 ix ext with
      | (s, some old) => (s, .ok old)
      | (s, none) => (s, .error (.error 0x119))

/-! ## Routing (R309 to R313) -/

/-- The number of the overflow entry among claims. -/
def ovfEntry : Nat := 4096

/-- What placing reads: each pair's expert number, and the expert entries. -/
structure RouteView where
  num    : Nat → Nat
  expert : Nat → Expert

/-- The expert numbers and entries that lie in a Pantry. -/
def Core.view (k : Core) (d : RouteDesc) : RouteView := { num := fun p => k.panNat (d.idx + 2 * p) 2, expert := k.expert d }

/-- A pair's expert, or none (R309). -/
def RouteView.pairExpert (k : RouteView) (d : RouteDesc) (p : Nat) : Option Nat :=
  let e := k.num p
  if e = 0xFFFF ∨ d.experts ≤ e ∨ !(k.expert e).enabled then none else some e

/-- Whether overflowing pairs may claim from the overflow entry. -/
def RouteDesc.overflows (d : RouteDesc) : Bool := bitAt d.ctrl 2 && d.ovf.enabled

/-- The pairs of a chunk, ascending. -/
def RouteDesc.pairs (d : RouteDesc) (chunk : Nat) : List Nat :=
  let lo := chunk * 2 ^ d.clog * d.k
  (List.range (min (2 ^ d.clog * d.k) (d.tokens * d.k - lo))).map (fun i => lo + i)

/-- Each pair of a chunk with its expert and the slot its expert's claim gives it. -/
def RouteView.claimed (k : RouteView) (d : RouteDesc) (ps : List Nat) (claims : List (Nat × Nat)) : List (Nat × Option (Nat × Nat)) :=
  ps.zipIdx.map (fun x =>
    (x.1, (k.pairExpert d x.1).map (fun e =>
      (e, ((claims.find? (fun y => y.1 == e)).map (·.2)).getD 0 + ((ps.take x.2).filter (fun q => k.pairExpert d q == some e)).length))))

/-- The pairs of a chunk that their experts have no slot for. -/
def RouteView.spilled (k : RouteView) (l : List (Nat × Option (Nat × Nat))) : List Nat :=
  (l.filter (fun x => match x.2 with | some (e, o) => decide ((k.expert e).cap ≤ o) | none => false)).map (·.1)

/-- Makes the claims of a chunk that are not made yet: experts in ascending order, then the overflow entry (R309). -/
def State.routeClaims (s : State) (c : Nat) (n : Fin 16) (d : RouteDesc) (ps : List Nat) (ext : List Byte) : State × Except AccStop Unit :=
  let k := (s.core c).view d
  let es := (List.range d.experts).filter (fun e => ps.any (fun p => k.pairExpert d p == some e))
  let one (s : State) (x : Expert) (e cnt : Nat) : State × Except AccStop Unit :=
    if ((s.core c).slotAt n.val).claims.any (fun y => y.1 == e) then (s, .ok ())
    else match s.strAdd c n x.pan x.counter cnt e ext with
      | (s, .error e) => (s, .error e)
      | (s, .ok old) => (s.modSlot c n.val (fun t => { t with claims := t.claims ++ [(e, old)] }), .ok ())
  let r := es.foldl (fun acc e =>
    match acc with
    | (s, .error x) => (s, .error x)
    | (s, .ok _) => one s (k.expert e) e (ps.filter (fun p => k.pairExpert d p == some e)).length) (s, (.ok () : Except AccStop Unit))
  match r with
  | (s, .error e) => (s, .error e)
  | (s, .ok _) =>
    let m := (k.spilled (k.claimed d ps ((s.core c).slotAt n.val).claims)).length
    if d.overflows ∧ m ≠ 0 then one s d.ovf ovfEntry m else (s, .ok ())

/-- A pair's place: its kind, its expert's number field, its slot, and the entry and address of its row (R309, R310). -/
def RouteView.pairPlace (k : RouteView) (d : RouteDesc) (ps : List Nat) (claims : List (Nat × Nat)) (p : Nat) : Nat × Nat × Nat × Option (Bool × Nat) :=
  let l := k.claimed d ps claims
  let e := k.num p % 4096
  match (l.find? (fun x => x.1 == p)).bind (·.2) with
  | none => (3, e, 0x3FFFF, none)
  | some (x, o) =>
    let en := k.expert x
    if o < en.cap then (0, e, o, some (en.pan, en.inBase + o * 2 ^ en.log2))
    else
      let i := (k.spilled l).idxOf p + ((claims.find? (fun y => y.1 == ovfEntry)).map (·.2)).getD 0
      if d.overflows ∧ i < d.ovf.cap then (1, e, i, some (d.ovf.pan, d.ovf.inBase + i * 2 ^ d.ovf.log2)) else (2, e, 0x3FFFF, none)

/-- Adds to a slot's counts. -/
def addAt (l : List Nat) (i v : Nat) : List Nat := (List.range 4).map (fun j => l.getD j 0 + (if j = i then v else 0))

/-- The cursor of a pair (R303). -/
def pairCursor (d : RouteDesc) (b p : Nat) : List Nat := [b, p % d.k, p / d.k, 0, 0]

/-- Pairs from the slot's place on: claims at the start of a chunk, then each pair's row and map entry. -/
def State.routePairs (s : State) (c : Nat) (n : Fin 16) (d : RouteDesc) : Nat → List Byte → State
  | 0, _ => s
  | fuel + 1, ext =>
    let t := (s.core c).slotAt n.val
    let p := t.step
    let per := 2 ^ d.clog * d.k
    if t.stops then s.strAbort c n.val
    else if d.tokens * d.k ≤ p then s
    else
      let ps := d.pairs (p / per)
      let (s, bad) := if p % per = 0 ∧ t.claims.isEmpty then s.panRead c 2 (granulesOf (d.idx + 2 * p) (2 * ps.length)) else (s, [])
      if !bad.isEmpty then s.strEnd c n.val 0x10F
      else match s.routeClaims c n d ps ext with
        | (s, .error e) => s.strStop c n (pairCursor d (t.cursor.getD 0 0) p) e
        | (s, .ok _) =>
          let k := s.core c
          let x := (k.view d).pairPlace d ps (k.slotAt n.val).claims p
          let moved := match x.2.2.2 with
            | some (pan, a) => (s.doAt c n.val (pairCursor d 0 p)).moveRun c n (bitAt d.ctrl 1) pan false (p / per) (some ((d.row + p / d.k * d.stride) % 2 ^ 64)) a d.len (d.len + 1) (t.cursor.getD 0 0) [] ext
            | none => (s, .ok ext)
          match moved with
          | (s, .error (i, e)) => s.strStop c n (pairCursor d i p) e
          | (s, .ok ext) =>
            match (s.doAt c n.val (pairCursor d 0 p)).strWrite c n (bitAt d.ctrl 0) (p / per) 0 ((d.map + 4 * p) % 2 ^ 64)
              ((leBytes 4 (x.1 * 2 ^ 30 + x.2.1 * 2 ^ 18 + x.2.2.1)).map (fun b => (b, false))) with
            | (s, .error (_, e)) => s.strStop c n (pairCursor d 0 p) e
            | (s, .ok _) =>
              let last := d.tokens * d.k = p + 1
              let s := s.modSlot c n.val (fun t => { t with
                step := p + 1, cursor := pairCursor d 0 (p + 1), result := addAt t.result x.1 1, phase := if last then 3 else t.phase,
                written := if last then d.chunks else (p + 1) / per, claims := if (p + 1) % per = 0 then [] else t.claims })
              s.routePairs c n d fuel ext

/-- The checks of an s.route (R293, R307, R308). -/
def RouteDesc.routeOk (d : RouteDesc) : Bool :=
  d.ctrl / 8 == 0 && d.len % 64 == 0 && decide (64 ≤ d.len) && decide (d.len ≤ 65536) && d.ok d.len d.len 2 (bitAt d.ctrl 1) (bitAt d.ctrl 2) false

/-- S_ROUTE (R307 to R313). -/
def execSRoute (c : CoreId) (ecc : List EccHit) (ext : List Byte) (s : State) : Outcome :=
  strCmd c 1 ecc s (fun s b i => let d := routeDesc b i; s.planRoute c.val d (2 ^ d.clog * d.k) d.routeOk d.len false)
    (fun s n =>
      let t := (s.core c.val).slotAt n.val
      match t.ins with
      | some i => let d := routeDesc t.desc i; s.routePairs c.val n d (d.tokens * d.k + 1) ext
      | none => s)

/-! ## Combining (R314, R315) -/

/-- The bytes of an expert output element and of an output element. -/
def RouteDesc.isz (d : RouteDesc) : Nat := if bits d.ctrl 7 6 = 0 then 4 else 2
def RouteDesc.osz (d : RouteDesc) : Nat := if bitAt d.ctrl 4 then 2 else 4

/-- The checks of an s.combine. -/
def RouteDesc.combineOk (d : RouteDesc) : Bool :=
  d.ctrl / 256 == 0 && !bitAt d.ctrl 5 && bits d.ctrl 7 6 != 3 && d.len % 32 == 0 && decide (32 ≤ d.len) && decide (d.len ≤ 16384)
    && d.ok (d.len * d.osz) (d.len * d.isz) 4 (bitAt d.ctrl 1) (bitAt d.ctrl 2) true

/-- The buffer a map entry names, where it is used (R315). -/
def Core.usedRow (k : Core) (d : RouteDesc) (m : Nat) : Option (Bool × Nat) :=
  let kind := m / 2 ^ 30
  let e := m / 2 ^ 18 % 4096
  let slot := m % 2 ^ 18
  let row (x : Expert) : Option (Bool × Nat) := if x.enabled then some (x.pan, (x.outBase + slot * 2 ^ x.log2) % 2 ^ 64) else none
  if kind = 0 then (if e < d.experts then row (k.expert d e) else none)
  else if kind = 1 ∧ bitAt d.ctrl 2 then row d.ovf else none

/-- A value widened to FP32. -/
def widenIn (fmt b : Nat) : Nat := if fmt = 0 then b else (convert (.flt fp32) true .rne false (if fmt = 1 then bf16.decode b else fp16.decode b)).bits

/-- One output element and how many NaNs it produced: the start value, then a fused multiply-add per used pair. -/
def combineOne (start : Nat) (xs : List (Nat × Nat)) : Nat × Nat :=
  xs.foldl (fun a x => let r := fp32.fma Mode.fast x.1 x.2 a.1; (r.bits, a.2 + b2n r.made)) (start, 0)

/-- The output elements of a token from element `e0` on: each one's value, how many NaNs it produced, and whether an input of it carried poison.
`o` is the row's bytes before, `l` the gate weights and the bytes of the used rows. -/
def RouteDesc.combined (d : RouteDesc) (count : Nat) (o : List (Byte × Bool)) (l : List (Nat × List (Byte × Bool))) : List (Nat × Nat × Bool) :=
  let fmt := bits d.ctrl 7 6
  let acc := bitAt d.ctrl 3
  let bf := bitAt d.ctrl 4
  let bytes (x : List (Byte × Bool)) : List Byte := x.map (·.1)
  let bad (x : List (Byte × Bool)) (j w : Nat) : Bool := ((x.drop (j * w)).take w).any (·.2)
  (List.range count).map (fun j =>
    let x := combineOne (if acc then widenIn (b2n bf) (leAt (bytes o) (j * d.osz) d.osz) else 0)
      (l.map (fun r => (r.1, widenIn fmt (leAt (bytes r.2) (j * d.isz) d.isz))))
    (if bf then (cvtTy (.flt fp32) (.flt bf16) false .rne false x.1).bits else x.1, x.2, bad o j d.osz || l.any (fun r => bad r.2 j d.isz)))

/-- A token's row from element `e0` on: every read is asked for and performed, then the row is written line by line; NANS counts those of the
elements written. Answers the companion's bytes left, or the byte it stopped at and why. -/
def State.combineRow (s : State) (c : Nat) (n : Fin 16) (d : RouteDesc) (t : Nat) (used : List (Nat × Bool × Nat)) (e0 : Nat) (ext : List Byte) :
    State × Except (Nat × AccStop) (List Byte) :=
  let count := d.len - e0
  let out := d.row + t * d.stride + e0 * d.osz
  let at0 := e0 * d.osz
  if used.any (fun u => u.2.1 && !panFits u.2.2 (d.len * d.isz)) then (s, .error (at0, .error 0x116))
  else
    let rows := used.map (fun u => (u.2.1, (u.2.2 + e0 * d.isz) % 2 ^ 64, count * d.isz))
    match s.strAsks c n .read .read ((if bitAt d.ctrl 3 then [(bitAt d.ctrl 1, out % 2 ^ 64, count * d.osz)] else []) ++ rows) with
    | (s, .error e) => (s, .error (at0, e))
    | (s, .ok rs) =>
      let r := rs.foldl (fun (acc : State × List (List (Byte × Bool)) × List Byte) x =>
        let (s, b, ext) := acc.1.strFetch c n false acc.2.2 x
        (s, acc.2.1 ++ [b], ext)) (s, [], ext)
      let s := r.1
      let init := if bitAt d.ctrl 3 then r.2.1.headD [] else []
      let ins := if bitAt d.ctrl 3 then r.2.1.tail else r.2.1
      let outs := d.combined count init ((used.map (·.1)).zip ins)
      let bytes := outs.flatMap (fun x => (leBytes d.osz x.1).map (fun b => (b, x.2.2)))
      let nans (upto : Nat) : Nat := ((outs.take upto).map (·.2.1)).sum
      match (s.doAt c n.val [at0, 0, t, 0, 0]).strWrite c n (bitAt d.ctrl 1) (t / 2 ^ d.clog) at0 (out % 2 ^ 64) bytes with
      | (s, .error (b, e)) => (s.modSlot c n.val (fun t => { t with result := addAt t.result 3 (nans (b / d.osz)) }), .error (at0 + b / d.osz * d.osz, e))
      | (s, .ok _) => (s.modSlot c n.val (fun t => { t with result := addAt t.result 3 (nans count) }), .ok r.2.2)

/-- Tokens from the slot's place on. -/
def State.combineTokens (s : State) (c : Nat) (n : Fin 16) (d : RouteDesc) : Nat → List Byte → State
  | 0, _ => s
  | fuel + 1, ext =>
    let x := (s.core c).slotAt n.val
    let t := x.step
    let b := x.cursor.getD 0 0
    if x.stops then s.strAbort c n.val
    else if d.tokens ≤ t then s
    else match s.strRead c n (bitAt d.ctrl 0) false ((d.map + 4 * (t * d.k)) % 2 ^ 64) (4 * d.k) ext with
      | (s, .error e) => s.strStop c n [b, 0, t, 0, 0] e
      | (s, .ok (mb, ext)) =>
        let (s, gbad) := s.panRead c 2 (granulesOf (d.idx + 4 * (t * d.k)) (4 * d.k))
        if mb.any (·.2) || !gbad.isEmpty then s.strEnd c n.val 0x10F
        else
          let mb := mb.map (·.1)
          let k := s.core c
          let used := (List.range d.k).filterMap (fun j => (k.usedRow d (leAt mb (4 * j) 4)).map (fun r => (k.panNat (d.idx + 4 * (t * d.k + j)) 4, r)))
          let moved := if used.isEmpty && bitAt d.ctrl 3 then (s, .ok ext) else s.combineRow c n d t used (b / d.osz) ext
          match moved with
          | (s, .error (b, e)) => s.strStop c n [b, 0, t, 0, 0] e
          | (s, .ok ext) =>
            let last := d.tokens = t + 1
            let s := s.modSlot c n.val (fun x => { x with
              step := t + 1, cursor := [0, 0, t + 1, 0, 0], phase := if last then 3 else x.phase,
              written := if last then d.chunks else (t + 1) / 2 ^ d.clog,
              result := addAt (addAt (addAt x.result 0 used.length) 1 (d.k - used.length)) 2 (b2n used.isEmpty) })
            s.combineTokens c n d fuel ext

/-- S_COMBINE (R314, R315). -/
def execSCombine (c : CoreId) (ecc : List EccHit) (ext : List Byte) (s : State) : Outcome :=
  strCmd c 2 ecc s (fun s b i => let d := routeDesc b i; s.planRoute c.val d (2 ^ d.clog) d.combineOk (d.len * d.isz) true)
    (fun s n =>
      let t := (s.core c.val).slotAt n.val
      match t.ins with
      | some i => let d := routeDesc t.desc i; s.combineTokens c.val n d (d.tokens + 1) ext
      | none => s)

/-! ## Chunk tokens and closing writes (R295, R300, R311) -/

/-- The entries whose arrival words s.route raises: every enabled expert, then the overflow entry in use (R311). -/
def Core.arrivals (k : Core) (d : RouteDesc) : List Expert :=
  ((List.range d.experts).map (k.expert d)).filter Expert.enabled ++ (if d.overflows then [d.ovf] else [])

/-- Adds the arrivals that are not added yet. -/
def State.arrive (s : State) (c : Nat) (n : Fin 16) (xs : List Expert) : State × Except AccStop Unit :=
  xs.foldl (fun acc x =>
    match acc with
    | (s, .error e) => (s, .error e)
    | (s, .ok _) =>
      match s.strAdd c n x.pan (x.counter + 8) 1 ((s.core c).slotAt n.val).closed [] with
      | (s, .error e) => (s, .error e)
      | (s, .ok _) => (s.modSlot c n.val (fun t => { t with closed := t.closed + 1 }), .ok ())) (s, .ok ())

/-- The closing writes of an instruction: the bitmap it built, or its arrivals and RESULT. -/
def State.strClose (s : State) (c : Nat) (n : Fin 16) (i : TileIns) : State × Except AccStop Unit :=
  let t := (s.core c).slotAt n.val
  if i.func = 0 then
    let d := copyDesc t.desc i
    if d.mode = 4 ∧ d.opt then
      let l := padTo ((d.blocks + 63) / 64 * 8) (packBits 1 (t.result ++ List.replicate ((8 - t.result.length % 8) % 8) 0))
      (s.panStore c 2 d.aux l, .ok ())
    else (s, .ok ())
  else
    let d := routeDesc t.desc i
    let r := if i.func = 1 then s.arrive c n (((s.core c).arrivals d).drop t.closed) else (s, .ok ())
    match r with
    | (s, .error e) => (s, .error e)
    | (s, .ok _) => (s.panStore c 2 (d.at_ + 0x50) ((List.range 4).flatMap (fun j => leBytes 4 (t.result.getD j 0))), .ok ())

/-- CHUNK_COMPLETE (R300, R301, R311): the next chunk whose writes are performed returns its token; the last follows the closing writes, and
releases the grant and the slot. -/
def execChunkComplete (c : CoreId) (n : Fin 16) (s : State) : Outcome :=
  gate s (fun s =>
    let k := s.core c.val
    let t := k.slotAt n.val
    match t.ins with
    | none => s
    | some i =>
      if t.error ≠ 0 then s.strEnd c.val n.val t.error
      else if t.written ≤ t.returned || s.strBusy c.val n t.returned then s
      else if t.returned + 1 < t.chunks then
        (s.modCore c.val (fun k => k.tokens i 1)).modSlot c.val n.val (fun t => { t with returned := t.returned + 1 })
      else if t.waiting.isSome || t.abort then s
      else match s.strClose c.val n i with
        | (s, .error e) => s.strStop c.val n t.cursor e
        | (s, .ok _) =>
          (s.modSlot c.val n.val (fun t => { StreamSlot.reset with cursor := t.cursor, faultVa := t.faultVa })).tileDone c.val i 1 false)

end Sys2Proof.Machine
end

