-- ==== Sys2Proof/Machine/Collectives.lean ====
section
/-! DEFINITION. The collective engine: its queues (R462), descriptors (R463, R464), the running of a collective over a ring, in rounds or as
a routed dispatch (R465), its arithmetic (R466 to R468), its progress record and end (R469, R470), thermal hold (R471, R472), failure and
abort (R473), and node-down notices (R451). -/

namespace Sys2Proof.Machine

/-! ## Queues and records -/

/-- The die that serves a queue, and the offset of its register at `x` (Table 16-14). -/
def colDie (q : Nat) : Nat := 84 + q / 8
def colOff (q x : Nat) : Nat := 0xA0000 + 0x20 * (q % 8) + x
/-- The partition that owns a queue. -/
def State.colPart (s : State) (q : Nat) : Nat := s.fld (colDie q) (colOff q 8) 26 24

/-- The node at a rank, and this rank's node. -/
def Collective.node (c : Collective) (r : Nat) : Nat := c.fields.group.getD r 0xFFFF
def Collective.self (c : Collective) : Nat := c.node c.rank
/-- The other ranks. -/
def Collective.others (c : Collective) : List Nat := (List.range c.fields.nodes).filter (· != c.rank)
/-- The rank at a distance round the ring. -/
def Collective.next (c : Collective) (k : Nat) : Nat := (c.rank + k) % c.fields.nodes
/-- The ranks with which a rank exchanges data: its ring neighbours, or every other rank (R465). -/
def Collective.peers (c : Collective) : List Nat :=
  if c.fields.opcode ≤ 2 then c.others.filter (fun r => r == c.next 1 || r == c.next (c.fields.nodes - 1)) else c.others

/-- The memory format of SRC and DST, and the format on the wire: AFMT in a sum, else the memory format (Table 16-8). -/
def memTy (ifmt : Nat) : Ty := .flt (if ifmt = 0 then fp32 else bf16)
def sumFmt (afmt : Nat) : Fmt := match afmt with | 0 => fp32 | 1 => f19 | _ => bf16
def Collective.sums (c : Collective) : Bool := decide (c.fields.opcode ≤ 1) && c.fields.red == 0
def Collective.wireTy (c : Collective) : Ty := if c.sums then .flt (sumFmt c.fields.afmt) else memTy c.fields.ifmt
def Collective.isz (c : Collective) : Nat := (memTy c.fields.ifmt).width / 8
def Collective.wsz (c : Collective) : Nat := c.wireTy.width / 8

/-- The progress record (Table 16-10). -/
def Collective.record (c : Collective) : List Byte :=
  leBytes 1 c.state ++ leBytes 1 (b2n c.held + 2 * b2n (c.nans != 0) + 4 * b2n (c.poisoned != 0) + 8 * b2n c.version1) ++ leBytes 2 c.holds.length
    ++ leBytes 4 c.error ++ leBytes 2 (c.holds.foldl min 0xFFFF) ++ leBytes 2 c.errNode ++ List.replicate 4 0 ++ leBytes 8 c.bytesSent
    ++ leBytes 4 c.stepsDone ++ leBytes 4 c.steps ++ leBytes 4 c.nans ++ leBytes 4 c.poisoned ++ leBytes 8 c.firstNan.toNat
    ++ leBytes 8 c.tStart.toNat ++ leBytes 8 c.tEnd.toNat

/-- Writes a collective's progress record as it stands (R469). -/
def State.colRecord (s : State) (q : Nat) : State :=
  match s.col q with
  | some c => s.writeLocal c.progress c.record
  | none => s

/-- Changes a collective. -/
def State.modCol (s : State) (q : Nat) (f : Collective → Collective) : State :=
  match s.col q with
  | some c => s.setCol q (some (f c))
  | none => s

/-- Sets a collective's STATE, and writes the record where it changes (R469). -/
def State.colState (s : State) (q st : Nat) : State :=
  match s.col q with
  | some c => if c.state = st then s else (s.setCol q (some { c with state := st })).colRecord q
  | none => s

/-- Ends a collective on this rank: the record, DONE, the Msi (R470); the queue may then take its next slot. -/
def State.colFinish (s : State) (q st error errNode : Nat) : State :=
  match s.col q with
  | none => s
  | some c =>
    let part := s.colPart q
    let s := (s.setCol q (some { c with state := st, error := error, errNode := errNode, tEnd := s.now })).colRecord q
    let s := if bitAt c.flags 1 then
        (match s.readLocal c.done 8 with
        | some (s, b, _) => s.writeLocal c.done (leBytes 8 (leNat b + 1))
        | none => s)
      else s
    let s := if bitAt c.flags 0 then s.signal part c.msiVec else s
    let s := { s with remotes := ⟨s.remotes.cells.filter (fun (x : Nat × Option Remote) =>
      match x.2 with | some r => r.agent != RemAgent.queue q | none => true)⟩ }
    (s.setCol q none).setFld (colDie q) (colOff q 8) 29 29 0

/-! ## Messages to other ranks -/

/-- The header of a collective message: COLL_ID, the chunk number, and a tag by which a refusal names the rank (Table 16-5; log 23). -/
def State.colHeader (s : State) (c : Collective) (rank kind chunk : Nat) : FabMsg :=
  s.fabMsg (BitVec.ofNat 8 kind) (c.node rank) (BitVec.ofNat 16 (0xC000 + rank)) (c.fields.collId.toNat * 1024) (BitVec.ofNat 22 chunk)

/-- The port of a message to a rank, and whether the route is a dateline: none to a node that is down or has no route (R455). -/
def State.colPort (s : State) (q : Nat) (c : Collective) (rank kind chunk : Nat) : Option (FabPort × Bool) :=
  if s.nodesDown.contains (c.node rank) then none else s.choosePort (s.colHeader c rank kind chunk) (s.colPart q)

/-- Sends a notice about a collective to every other rank, by any ACTIVE port (R450, R451, R471, R473). -/
def State.colNotice (s : State) (c : Collective) (kind : Nat) (body : List Byte) : State :=
  overList s c.others (fun s r =>
    match s.noticePort s.epoch (c.node r) with
    | some p => s.sendNotice p kind c.self (c.node r) (leBytes 4 c.fields.collId.toNat ++ leBytes 2 (c.node r) ++ body)
    | none => s)

/-- Fails or aborts a collective: every rank gets a collective abort notice, and this rank ends (R473). -/
def State.colFail (s : State) (q : ColQueue) (st error errNode : Nat) : State :=
  match s.col q.val with
  | none => s
  | some c => (s.colNotice c 7 (leBytes 1 st ++ leBytes 2 error ++ leBytes 2 errNode)).colFinish q.val st error errNode

/-- Sends a message to a rank; without a route that is reported, and the collective fails with "node unreachable" (R455, R473). CData counts in
BYTES_SENT. -/
def State.colSend (s : State) (q : ColQueue) (rank kind chunk : Nat) (data : List Byte) (poison : List Nat) : State :=
  match s.col q.val with
  | none => s
  | some c =>
    match s.colPort q.val c rank kind chunk with
    | none => (s.fabRouteLost (colDie q.val) (c.node rank)).colFail q 5 0x118 (c.node rank)
    | some (p, dl) =>
      (s.send (.colMsg p { s.colHeader c rank kind chunk with cls := dl } c.wsz q rank kind chunk data poison)).modCol q.val (fun c => if kind = 0x10 then { c with bytesSent := c.bytesSent + data.length } else c)

/-! ## Ranges in the Pool -/

/-- Whether every byte of a range lies in windows of a partition that permit the access. -/
def State.rangeOk (s : State) (p : Nat) (write : Bool) : Nat → Nat → Nat → Bool
  | 0, _, n => n == 0
  | fuel + 1, a, n =>
    n == 0 || match s.windowOf p a write false with
      | none => false
      | some w => s.rangeOk p write fuel (w.base + w.size) (n - (w.base + w.size - a))

/-- Checks a range: its windows, and that it is backed by memory in service (R463). -/
def State.colRange (s : State) (q : Nat) (write : Bool) (a n : Nat) : Bool :=
  s.rangeOk (s.colPart q) write 4096 a n &&
    (n == 0 || (linePieces a n (n + 1)).all (fun p => match s.place p.1 with | some ph => s.inService ph && s.setReady p.1 | none => false))

/-- The bytes of a range now, without an effect on caches. -/
def State.peek (s : State) (a n : Nat) : List Byte := match s.readLocal a n with | some (_, b, _) => b | none => List.replicate n 0

/-- Reads elements of `size` bytes with the indices of those that are poisoned. -/
def State.colRead (s : State) (a size n : Nat) : State × List Nat × List Nat :=
  let bad (i : Nat) : Bool := match s.place (a + i * size) with | some ph => (s.lineRead (ph / 128)).2 | none => true
  match s.readLocal a (size * n) with
  | some (s', b, any) => (s', (List.range n).map (fun i => leAt b (i * size) size), if any then (List.range n).filter bad else [])
  | none => (s, List.replicate n 0, List.range n)

/-- Writes elements; a line that holds a poisoned element is written poisoned and counts in POISONED (R468). -/
def State.colWrite (s : State) (q a size : Nat) (es bad : List Nat) : State :=
  let b := es.flatMap (leBytes size)
  overList s (linePieces a b.length (b.length + 1)) (fun s pc =>
    match s.place pc.1 with
    | none => s
    | some ph =>
      let lo := (pc.1 - a) / size
      let hi := (pc.1 - a + pc.2 - 1) / size
      let p := bad.any (fun i => decide (lo ≤ i) && decide (i ≤ hi))
      let s := s.writePhys ph ((b.drop (pc.1 - a)).take pc.2) p
      if p then s.modCol q (fun c => { c with poisoned := c.poisoned + 1 }) else s)

/-! ## Arithmetic (R466 to R468) -/

/-- The random word of an element of the destination block (R466). -/
def Collective.word (c : Collective) (e : Nat) : Nat := srWord (laneKey c.seed (0x10000 + c.self) 0xFFFE) (BitVec.ofNat 64 e)

/-- The error one rounding to a format may make: the exponent of ε (R467). -/
def epsExp (f : Fmt) : Int := if f = fp32 then -24 else if f = f19 then -10 else -7

/-- A value rounded to a format: to FP32 nearest even, else stochastically with the element's word; any other value within ε of the exact one
may stand in its place, since a sum promises its bound only (R466, R467; log 9). -/
def colRound (f : Fmt) (free word : Nat) (v : FV) : FRes :=
  let near := convert (.flt f) false (if f = fp32 then .rne else .sto word) false v
  let cand := Config.nearby free near.bits % 2 ^ f.w
  match v, (f.decode cand).exact, (f.decode near.bits).exact with
  | .num neg m e, some c, some _ => if f.flushOut cand = cand ∧ within c (sgn neg m, e) m (e + epsExp f) then { near with bits := cand } else near
  | _, _, _ => near

/-- An element in the format on the wire (R466). -/
def Collective.toWire (c : Collective) (free e b : Nat) : FRes :=
  if c.sums then
    let f := sumFmt c.fields.afmt
    let i := (memTy c.fields.ifmt).decode b
    let r := colRound f free (c.word e) (if c.fields.ifmt = 0 then fp32.flushIn i else bf16.flushIn i)
    { r with bits := (Ty.flt f).store r.bits }
  else { bits := b, flags := 0, made := false }

/-- The result in the memory format. -/
def Collective.fromWire (c : Collective) (free e b : Nat) : FRes :=
  if c.sums then
    let f := sumFmt c.fields.afmt
    colRound (if c.fields.ifmt = 0 then fp32 else bf16) free (c.word e) (f.flushIn ((Ty.flt f).decode b))
  else { bits := b, flags := 0, made := false }

/-- The greater or smaller of two elements, exactly: a NaN gives the canonical NaN, and +0 is above −0 (R195, R466). -/
def colPick (f : Fmt) (max : Bool) (a b : Nat) : Nat :=
  match (f.decode a).cmp (f.decode b) with
  | none => f.canon
  | some .gt => if max then a else b
  | some .lt => if max then b else a
  | some .eq => if (f.decode a).neg == max then b else a

/-- The combination of a partial result with this rank's element, both in the format on the wire (R466). -/
def Collective.combine (c : Collective) (free e a b : Nat) : FRes :=
  if c.sums then
    let f := sumFmt c.fields.afmt
    let x := f.flushIn ((Ty.flt f).decode a)
    let y := f.flushIn ((Ty.flt f).decode b)
    let r : FRes := match x, y with
      | .num p m g, .num n k h =>
        let t := addExact (sgn p m, g) (sgn n k, h)
        if t.1 = 0 then { bits := f.signBit (zeroSign .rne p n), flags := 0, made := false } else colRound f free (c.word e) (.num (decide (t.1 < 0)) t.1.natAbs t.2)
      | _, _ => f.addV .rne x y
    { r with bits := (Ty.flt f).store r.bits }
  else { bits := colPick (if c.fields.ifmt = 0 then fp32 else bf16) (c.fields.red == 1) a b, flags := 0, made := false }

/-- Notes the NaNs a step produced: NANS, FIRST_NAN, and one report for each collective (R468). -/
def State.colNans (s : State) (q e0 : Nat) (rs : List FRes) : State :=
  match s.col q, (rs.zipIdx.filter (fun x => x.1.made)).map (·.2) with
  | some c, i :: l =>
    let s := s.setCol q (some { c with nans := c.nans + l.length + 1, firstNan := if c.nans = 0 then BitVec.ofNat 64 (e0 + i) else c.firstNan })
    if c.nans = 0 then s.noteFault (mkFault (dieOf (colDie q)) 0x45 8 .none 0 (BitVec.ofNat 64 (e0 + i)) 2) else s
  | _, _ => s

/-- Applies an element operation to a chunk with a free value for each element; answers the new bits. -/
def State.colMap (s : State) (q e0 : Nat) (xs : List Nat) (f : Nat → Nat → Nat → FRes) : State × List Nat :=
  let rs := xs.zipIdx.map (fun x => f (s.fresh + x.2) (e0 + x.2) x.1)
  (({ s with fresh := s.fresh + xs.length }).colNans q e0 rs, rs.map (·.bits))

/-! ## Chunks -/

/-- The first element of a segment and its length: all-reduce cuts the block into one segment for each rank. -/
def Collective.seg (c : Collective) (j : Nat) : Nat × Nat :=
  let count := c.fields.count.toNat
  if c.fields.opcode = 0 then
    let z := (count + c.fields.nodes - 1) / c.fields.nodes
    (min count (j * z), min count ((j + 1) * z) - min count (j * z))
  else (0, count)

/-- The elements of a wire chunk, and the chunks of a step (Table 16-7). -/
def Collective.perChunk (c : Collective) : Nat := (if c.version1 then 2 ^ 18 else 2 ^ 20) / c.wsz
def Collective.chunks (c : Collective) : Nat := max 1 (((c.seg 0).2 + c.perChunk - 1) / c.perChunk)

/-- The elements of chunk i of segment j: the first in the segment, and how many. -/
def Collective.part (c : Collective) (j i : Nat) : Nat × Nat := (i * c.perChunk, min c.perChunk ((c.seg j).2 - i * c.perChunk))

/-- The address in SRC and in DST of an element of a segment or block (Table 16-9). -/
def Collective.srcAt (c : Collective) (j i : Nat) : Nat :=
  c.src + c.isz * (match c.fields.opcode with | 0 => (c.seg j).1 + i | 1 => j * c.fields.count.toNat + i | 2 => i | _ => j * c.fields.count.toNat + i)
def Collective.dstAt (c : Collective) (j i : Nat) : Nat :=
  c.dst + c.isz * (match c.fields.opcode with | 0 => (c.seg j).1 + i | 1 => i | _ => j * c.fields.count.toNat + i)
/-- The index of an element in the destination block. -/
def Collective.elem (c : Collective) (j i : Nat) : Nat := (c.seg j).1 + i

/-- Sends this rank's own elements of segment j to a rank, chunk by chunk, as step `step`. -/
def State.colOwn (s : State) (q : ColQueue) (rank step j : Nat) : State :=
  match s.col q.val with
  | none => s
  | some c =>
    overList s (List.range c.chunks) (fun s i =>
      let p := c.part j i
      let (s, xs, bad) := s.colRead (c.srcAt j p.1) c.isz p.2
      let (s, ws) := s.colMap q.val (c.elem j p.1) xs c.toWire
      s.colSend q rank 0x10 (step * c.chunks + i) (ws.flatMap (leBytes c.wsz)) bad)

/-- Copies this rank's own block into its place in DST. -/
def State.colCopy (s : State) (q : Nat) : State :=
  match s.col q with
  | none => s
  | some c =>
    let (s, xs, bad) := s.colRead (c.srcAt c.rank 0) c.isz c.fields.count.toNat
    s.colWrite q (c.dstAt c.rank 0) c.isz xs bad

/-- Counts an arrived chunk; a step is done with its last chunk. -/
def Collective.arrived (c : Collective) : Collective := { c with rows := c.rows + 1, stepsDone := (c.rows + 1) / c.chunks }

/-- A chunk of a ring step arrives (R465): in reduce-scatter it is combined with this rank's elements and passed on, or written to DST at the
last step; in all-gather it is written to DST and passed on. -/
def State.colRing (s : State) (q : ColQueue) (c : Collective) (step i : Nat) (ws bad : List Nat) : State :=
  let n := c.fields.nodes
  let reduce := decide (c.fields.opcode ≤ 1) && decide (step < n - 1)
  let st := if c.fields.opcode = 0 ∧ n - 1 ≤ step then step - (n - 1) else step
  let j := if reduce then c.next (2 * n - st - 2) else c.next (2 * n - st - 1)
  let p := c.part j i
  let e0 := c.elem j p.1
  let pass (s : State) (st : Nat) (ws bad : List Nat) : State := s.colSend q (c.next 1) 0x10 (st * c.chunks + i) (ws.flatMap (leBytes c.wsz)) bad
  let put (s : State) (ws bad : List Nat) : State :=
    let (s, xs) := s.colMap q.val e0 ws c.fromWire
    s.colWrite q.val (c.dstAt j p.1) c.isz xs bad
  let s := s.modCol q.val Collective.arrived
  if reduce then
    let (s, xs, bad2) := s.colRead (c.srcAt j p.1) c.isz p.2
    let (s, own) := s.colMap q.val e0 xs c.toWire
    let (s, sum) := s.colMap q.val e0 ws (fun free e a => c.combine free e a (own.getD (e - e0) 0))
    let bad := (bad ++ bad2).eraseDups
    if st < n - 2 then pass s (step + 1) sum bad
    else
      let s := put s sum bad
      if c.fields.opcode = 0 then pass s (step + 1) sum bad else s
  else
    let s := put s ws bad
    if st < n - 2 then pass s (step + 1) ws bad else s

/-- A block of an all-to-all round arrives; when a round is complete, the next is sent (R465). -/
def State.colBlock (s : State) (q : ColQueue) (c : Collective) (rank i : Nat) (ws bad : List Nat) : State :=
  let p := c.part rank i
  let s := (s.colWrite q.val (c.dstAt rank p.1) c.isz ws bad).modCol q.val Collective.arrived
  match s.col q.val with
  | some d => if d.stepsDone ≠ c.stepsDone ∧ d.stepsDone + 1 < c.fields.nodes then s.colOwn q (c.next (d.stepsDone + 1)) d.stepsDone (c.next (d.stepsDone + 1)) else s
  | none => s

/-! ## Routed dispatch (R464) -/

/-- The route descriptor of a dispatch, which lies in the Pool, and what placing reads. -/
def State.colRoute (s : State) (c : Collective) : RouteDesc := routeFields (s.peek c.route 128) 0 0 0
def State.colView (s : State) (d : RouteDesc) : RouteView :=
  { num := fun p => leNat (s.peek (d.idx + 2 * p) 2), expert := fun e => expertOf (s.peek (d.table + 32 * e) 32) }

/-- The checks of a dispatch's route descriptor: R307 and R308 as s.route has them, with PANTRY 0 in every expert entry (R464). -/
def State.routeOk (s : State) (d : RouteDesc) : Bool :=
  let v := s.colView d
  let one (x : Expert) : Bool := !x.enabled || (!x.pan && x.ok d.len false)
  d.ctrl / 8 == 0 && d.len % 64 == 0 && decide (64 ≤ d.len) && decide (d.len ≤ 65536) && decide (d.len ≤ d.stride) && decide (1 ≤ d.tokens)
    && decide (d.tokens ≤ 2 ^ 20) && decide (1 ≤ d.k) && decide (d.k ≤ 8) && decide (d.clog ≤ 10) && decide (1 ≤ d.experts) && decide (d.experts ≤ 4096)
    && d.idx % 2 == 0 && d.table % 32 == 0 && d.map % 4 == 0 && !d.rsvd && (List.range d.experts).all (fun e => one (v.expert e)) && (!d.overflows || one d.ovf)

/-- The ranges a dispatch uses in this node, each with whether it is written. -/
def routeRanges (c : Collective) (d : RouteDesc) : List (Bool × Nat × Nat) :=
  [(false, d.row, (d.tokens - 1) * d.stride + d.len), (true, d.map, d.tokens * d.k * 4), (false, d.idx, d.tokens * d.k * 2), (false, d.table, 32 * d.experts),
   (true, c.route, 128)]

/-- What an operation of a dispatch meets: its value, that it waits, or an error with the node that caused it. -/
inductive ColStep where
  | done (s : State) (v : Nat)
  | wait (s : State)
  | fail (s : State) (code node : Nat)

/-- A fetch-and-add on an expert's counter or arrival word: in this node, or carried to the expert's node as DClaim, or as RAtom under version
1 (R309, R464, Table 16-7). -/
def State.colAdd (s : State) (q : Nat) (c : Collective) (a v ix : Nat) : ColStep :=
  match s.dpa a with
  | .invalid => .fail s 4 c.self
  | .here y =>
    (match s.windowOf (s.colPart q) y true true, s.place y with
    | some _, some ph =>
      (match s.poolAtom (ph / 128) .add 1 (ph % 128) (BitVec.ofNat 128 v) 0 with
      | none => .wait s
      | some (s, none) => .fail s 0x119 c.self
      | some (s, some old) => .done s old)
    | _, _ => .fail s 4 c.self)
  | .remote node y =>
    match s.findRemote (.queue q) 2 node y ix with
    | some (tag, r) =>
      (match r.reply with
      | none => .wait s
      | some none => .fail { s with remotes := s.remotes.del tag } 0x118 node
      | some (some (d, p)) => if p then .fail { s with remotes := s.remotes.del tag } 0x119 node else .done { s with remotes := s.remotes.del tag } (leAt d 0 8))
    | none =>
      let r : Remote := { node := node, kind := 2, agent := .queue q, addr := y, size := 8, index := ix, reply := none }
      .wait (s.askRemote r (s.colPart q) (if c.version1 then 3 else 0x19) (BitVec.ofNat 22 (1 + 16 + y % 64 * 64)) (leBytes 16 v ++ leBytes 16 0) 0)

/-- The node that refused a row of a queue's dispatch, or did not answer for it, if any. -/
def State.rowLost (s : State) (q : Nat) : Option Nat :=
  s.remotes.cells.findSome? (fun x => match x.2 with
    | some r => if r.agent == RemAgent.queue q && r.kind == 1 && r.reply.isSome then some r.node else none
    | none => none)

/-- Writes a row to its slot: in this node, or carried to the expert's node as DRow, or as RWr under version 1, at most a line to each message
(R452, R458). -/
def State.colRow (s : State) (q : Nat) (c : Collective) (a : Nat) (row : List Byte) (bad : Bool) : ColStep :=
  match s.dpa a with
  | .invalid => .fail s 4 c.self
  | .here y =>
    if !s.colRange q true y row.length then .fail s 4 c.self
    else if !(s.rangeFree y row.length true).2 then .wait (s.rangeFree y row.length true).1
    else .done (overList s (linePieces y row.length (row.length + 1)) (fun s p =>
      match s.place p.1 with | some ph => s.writePhys ph ((row.drop (p.1 - y)).take p.2) bad | none => s)) 0
  | .remote node y =>
    let s := overList s (linePieces y row.length (row.length + 1)) (fun s x =>
      let r : Remote := { node := node, kind := 1, agent := .queue q, addr := x.1, size := x.2, index := 0, reply := none }
      s.askRemote r (s.colPart q) (if c.version1 then 2 else 0x18) (ncAux x.1 x.2) ((row.drop (x.1 - y)).take x.2) 0 bad)
    match s.rowLost q with
    | some n => .fail s 0x118 n
    | none => .done (s.modCol q (fun c => { c with bytesSent := c.bytesSent + row.length })) 0

/-- Under version 2 the claims of a chunk on the experts of other nodes are sent together, node by node (Table 16-7). -/
def State.colBatch (s : State) (q : Nat) (c : Collective) (d : RouteDesc) (ps es : List Nat) : State :=
  let v := s.colView d
  let todo := es.filterMap (fun e =>
    if c.claims.any (fun y => y.1 == e) then none
    else match s.dpa (v.expert e).counter with
      | .remote node y => if (s.findRemote (.queue q) 2 node y e).isSome then none else some (node, e)
      | _ => none)
  overList s ((todo.map (·.1)).eraseDups.flatMap (fun n => (todo.filter (fun x => x.1 == n)).map (·.2))) (fun s e =>
    match s.colAdd q c (v.expert e).counter (ps.filter (fun p => v.pairExpert d p == some e)).length e with
    | .done s _ => s
    | .wait s => s
    | .fail s _ _ => s)

/-- The pairs of a chunk in the order in which they are placed: under version 2 those of one node together (Table 16-7). -/
def State.colOrder (s : State) (c : Collective) (d : RouteDesc) (ps : List Nat) : List Nat :=
  if c.version1 then ps
  else
    let v := s.colView d
    let node (p : Nat) : Nat := match (v.pairPlace d ps c.claims p).2.2.2 with
      | some (_, a) => (match s.dpa a with | .remote n _ => n + 1 | _ => 0)
      | none => 0
    (ps.map node).eraseDups.flatMap (fun n => ps.filter (fun p => node p == n))

/-- Makes the claims of a chunk that are not made yet, experts in ascending order, then the overflow entry's (R309). -/
def State.colClaims (s : State) (q : Nat) (c : Collective) (d : RouteDesc) (ps : List Nat) : ColStep :=
  let v := s.colView d
  let one (acc : ColStep) (x : Expert) (e : Nat) (cnt : State → Nat) : ColStep :=
    match acc with
    | .done s _ =>
      if ((s.col q).map (·.claims)).any (fun l => l.any (fun y => y.1 == e)) || cnt s == 0 then .done s 0
      else (match s.colAdd q c x.counter (cnt s) e with
        | .done s old => .done (s.modCol q (fun c => { c with claims := c.claims ++ [(e, old)] })) 0
        | r => r)
    | r => r
  let es := (List.range d.experts).filter (fun e => ps.any (fun p => v.pairExpert d p == some e))
  let s := if c.version1 then s else s.colBatch q c d ps es
  let r := es.foldl (fun acc e => one acc (v.expert e) e (fun _ => (ps.filter (fun p => v.pairExpert d p == some e)).length)) (.done s 0)
  if d.overflows then one r d.ovf ovfEntry (fun s => (v.spilled (v.claimed d ps (((s.col q).map (·.claims)).getD []))).length) else r

/-- Places the pairs of a chunk from the first that is not done: its row and its map entry (R309, R310). -/
def State.colPairs (s : State) (q : Nat) (c : Collective) (d : RouteDesc) (ps : List Nat) : Nat → ColStep
  | 0 => .wait s
  | fuel + 1 =>
    match s.col q with
    | none => .wait s
    | some k =>
      match (s.colOrder k d ps)[k.rows]? with
      | none => .done s 0
      | some p =>
        let x := (s.colView d).pairPlace d ps k.claims p
        let t := p / d.k
        let src := d.row + t * d.stride
        let r : ColStep := match x.2.2.2 with
          | none => .done s 0
          | some (_, a) =>
            if !(s.rangeFree src d.len false).2 then .wait (s.rangeFree src d.len false).1
            else match s.readLocal src d.len with
              | some (s, row, bad) => s.colRow q c a row bad
              | none => .fail s 4 c.self
        match r with
        | .done s _ =>
          let s := s.writeLocal (d.map + 4 * p) (leBytes 4 (x.1 * 2 ^ 30 + x.2.1 * 2 ^ 18 + x.2.2.1))
          (s.modCol q (fun c => { c with rows := c.rows + 1, counts := addAt c.counts x.1 1 })).colPairs q c d ps fuel
        | r => r

/-- Whether rows of a queue's dispatch are not acknowledged yet. -/
def State.colBusy (s : State) (q : Nat) : Bool :=
  s.remotes.cells.any (fun x => match x.2 with | some r => r.agent == RemAgent.queue q && r.kind == 1 | none => false)

/-- Carries a dispatch on as far as it goes: chunk by chunk, then one arrival for each enabled expert, then RESULT (R309, R311, R464). -/
def State.colDispatch (s : State) (q : ColQueue) : Nat → State
  | 0 => s
  | fuel + 1 =>
    match s.col q.val with
    | none => s
    | some c =>
      let d := s.colRoute c
      let stop (r : ColStep) (go : State → State) : State :=
        match r with
        | .done s _ => go s
        | .wait s => s
        | .fail s code node => s.colFail q 5 code node
      if c.chunk < d.chunks then
        let ps := d.pairs c.chunk
        stop (s.colClaims q.val c d ps) (fun s => stop (s.colPairs q.val c d ps (ps.length + 1)) (fun s =>
          (s.modCol q.val (fun c => { c with chunk := c.chunk + 1, claims := [], rows := 0 })).colDispatch q fuel))
      else if c.chunk = d.chunks then
        if s.colBusy q.val then s
        else
          let v := s.colView d
          let xs := ((List.range d.experts).map v.expert).filter Expert.enabled ++ (if d.overflows then [d.ovf] else [])
          match xs[c.rows]? with
          | some x => stop (s.colAdd q.val c (x.counter + 8) 1 (8192 + c.rows)) (fun s => (s.modCol q.val (fun c => { c with rows := c.rows + 1 })).colDispatch q fuel)
          | none =>
            (s.writeLocal (c.route + 0x50) ((List.range 4).flatMap (fun j => leBytes 4 (c.counts.getD j 0)))).modCol q.val
              (fun c => { c with chunk := c.chunk + 1, stepsDone := c.steps })
      else s

/-- The most steps one run of a dispatch may take. -/
def colFuel : Nat := 2 ^ 21

/-! ## Running -/

/-- The STATE of a collective that has not ended: in hold, running, or waiting for ranks (Table 16-10). -/
def Collective.now (c : Collective) : Nat := if !c.holds.isEmpty then 3 else if c.peers.all c.ready.contains then 2 else 1

/-- Starts the exchange once every rank it exchanges data with is ready (R465). -/
def State.colBegin (s : State) (q : ColQueue) : State :=
  match s.col q.val with
  | none => s
  | some c =>
    let s := s.colState q.val c.now
    match c.fields.opcode, c.fields.nodes with
    | 4, _ => s.colDispatch q colFuel
    | 3, n => let s := s.colCopy q.val; if n = 1 then s else s.colOwn q (c.next 1) 0 (c.next 1)
    | 2, n => let s := s.colCopy q.val; if n = 1 then s else s.colOwn q (c.next 1) 0 c.rank
    | _, 1 =>
      let (s, xs, bad) := s.colRead (c.srcAt 0 0) c.isz c.fields.count.toNat
      let (s, ws) := s.colMap q.val 0 xs c.toWire
      let (s, rs) := s.colMap q.val 0 ws c.fromWire
      s.colWrite q.val (c.dstAt 0 0) c.isz rs bad
    | _, n => s.colOwn q (c.next 1) 0 (c.next (n - 1))

/-- Whether every rank with which a collective exchanges data is ready (R465). -/
def Collective.allReady (c : Collective) : Bool := c.peers.all c.ready.contains

/-- A rank's CReady (R461, R465): fields that differ fail both ends; the version in use is the lowest. -/
def State.colReady (s : State) (q : ColQueue) (rank : Nat) (f : ColFields) (version : Nat) : State :=
  match s.col q.val with
  | none => s
  | some c =>
    if f ≠ c.fields then s.colFail q 5 0x121 (c.node rank)
    else if !c.peers.contains rank || c.ready.contains rank then s
    else
      let c := { c with ready := c.ready ++ [rank], version1 := c.version1 || version == 1 }
      let s := s.setCol q.val (some c)
      if c.allReady then s.colBegin q else s

/-- The descriptor's checks (Table 16-8, R463): the contained error, or the collective. Its version is the lowest that node-up has named for a rank,
until CReady names a lower one (R451, R461; log 23). -/
def State.colParse (s : State) (q : Nat) (b : List Byte) : Except Nat Collective :=
  let f (o n : Nat) : Nat := leAt b o n
  let n := f 8 2
  let group := (List.range n).map (fun r => leNat (s.peek (f 0x10 8 + 2 * r) 2))
  let fields : ColFields := {
    opcode := f 0 1, red := f 1 1, ifmt := f 2 1, afmt := f 3 1, nodes := n, collId := BitVec.ofNat 32 (f 0xC 4), count := BitVec.ofNat 64 (f 0x28 8), group := group }
  let c : Collective := {
    fields := fields, flags := f 4 2, rank := f 6 2, msiVec := f 0xA 2, src := f 0x18 8, dst := f 0x20 8, progress := f 0x30 8, done := f 0x38 8,
    seed := BitVec.ofNat 64 (f 0x40 8), route := f 0x48 8, timeout := f 0x50 4, ready := [],
    version1 := s.nodesUp.any (fun x => x.2.2 == 1 && group.contains x.2.1), state := 1, held := false,
    holds := [], error := 0, errNode := 0xFFFF, bytesSent := 0, stepsDone := 0, steps := 0, nans := 0, poisoned := 0, firstNan := 0, acked := [],
    tStart := s.now, tEnd := 0, chunk := 0, claims := [], counts := [0, 0, 0, 0], rows := 0 }
  let ok : Bool := decide (fields.opcode ≤ 4) && decide (fields.red ≤ 2) && (decide (fields.opcode ≤ 1) || fields.red == 0) && decide (fields.ifmt ≤ 1)
    && decide (fields.afmt ≤ 2) && c.flags / 8 == 0 && decide (1 ≤ n) && decide (n ≤ 12288) && decide (c.rank < n) && c.progress % 64 == 0
    && decide (c.timeout ≤ 600000) && f 0x10 8 % 2 == 0 && ((b.drop 0x54).take 40).all (· == 0)
  let blk := fields.count.toNat * c.isz
  let all := n * blk
  let d := s.colRoute c
  let ranges : List (Bool × Nat × Nat) := [(true, c.progress, 64)] ++ (if bitAt c.flags 1 then [(true, c.done, 8)] else []) ++ (match fields.opcode with
    | 0 => [(false, c.src, blk), (true, c.dst, blk)]
    | 1 => [(false, c.src, all), (true, c.dst, blk)]
    | 2 => [(false, c.src, blk), (true, c.dst, all)]
    | 3 => [(false, c.src, all), (true, c.dst, all)]
    | _ => routeRanges c d)
  if !ok then .error 0x11F
  else if !s.colRange q false (f 0x10 8) (2 * n) || (fields.opcode == 4 && !s.colRange q false c.route 128) then .error 4
  else if group.eraseDups.length ≠ n ∨ s.nodeId ≠ some c.self then .error 0x11F
  else if fields.opcode = 4 ∧ !s.routeOk d then .error 0x11F
  else if !ranges.all (fun r => s.colRange q r.1 r.2.1 r.2.2) then .error 4
  else .ok { c with steps := match fields.opcode with | 0 => 2 * (n - 1) | 4 => d.chunks | _ => n - 1 }

/-- The ranges a collective uses. -/
def State.colUses (s : State) (c : Collective) : List (Nat × Nat) :=
  let blk := c.fields.count.toNat * c.isz
  let all := c.fields.nodes * blk
  match c.fields.opcode with
  | 0 => [(c.src, blk), (c.dst, blk)]
  | 1 => [(c.src, all), (c.dst, blk)]
  | 2 => [(c.src, blk), (c.dst, all)]
  | 3 => [(c.src, all), (c.dst, all)]
  | _ => (routeRanges c (s.colRoute c)).map (fun r => (r.2.1, r.2.2))

/-- Whether a collective's ranges have a line behind a channel. -/
def State.colTouches (s : State) (c : Collective) (which : Chan → Bool) : Bool :=
  (s.colUses c).any (fun r => (linePieces r.1 r.2 (r.2 + 1)).any (fun p => match (s.place p.1).bind chanOf with | some ch => which ch | none => false))

/-- A node of a collective goes into hold or leaves it: HOLDS, HELD and STATE follow, and this node's own change is sent to every rank, but
not under version 1 (R471, Table 16-7). -/
def State.colHold (s : State) (q : ColQueue) (node : Nat) (hold : Bool) : State :=
  match s.col q.val with
  | none => s
  | some c =>
    let own := node == c.self
    if !c.fields.group.contains node || c.holds.contains node == hold || (c.version1 && !own) then s
    else
      let c := { c with holds := if hold then node :: c.holds else c.holds.filter (· != node), held := c.held || hold }
      let s := (s.setCol q.val (some c)).colState q.val c.now
      if own && !c.version1 then s.colNotice c (if hold then 8 else 9) [] else s

/-- The end of a collective whose descriptor failed its checks: nothing but the progress record is written, where it may be; the record names
the error (R463, R469; log 24). -/
def State.colBad (s : State) (q code : Nat) (b : List Byte) : State :=
  let at_ := leAt b 0x30 8
  let rec_ : List Byte := [5, 0] ++ leBytes 2 0 ++ leBytes 4 code ++ leBytes 2 0xFFFF ++ leBytes 2 (s.nodeId.getD 0xFFFF) ++ List.replicate 36 0
    ++ leBytes 8 s.now.toNat ++ leBytes 8 s.now.toNat
  let s := s.setFld (colDie q) (colOff q 8) 29 29 0
  if at_ % 64 = 0 ∧ s.colRange q true at_ 64 then s.writeLocal at_ rec_ else s

/-- Takes a descriptor: the checks, the record, thermal hold where a stack of its ranges is throttled (R471), CReady to the ranks it exchanges data with,
and of each rank the CReady that came first. -/
def State.colStart (s : State) (q : ColQueue) (b : List Byte) : State :=
  let s := s.setFld (colDie q.val) (colOff q.val 8) 29 29 1
  match s.colParse q.val b with
  | .error e => s.colBad q.val e b
  | .ok c =>
    let s := (s.setCol q.val (some c)).colRecord q.val
    let s := if s.colTouches c s.chanThrottled then s.colHold q c.self true else s
    let body := b ++ c.fields.group.flatMap (leBytes 2) ++ [2]
    let s := overList s c.peers (fun s r => s.colSend q r 0x11 0 body [])
    let early := c.peers.filterMap (fun r => s.earlyReady.find? (fun x => x.1 == q.val && x.2.1 == r))
    let s := overList s early (fun s x => { s with earlyReady := s.earlyReady.erase x })
    if c.peers.isEmpty then s.colBegin q else overList s early (fun s x => s.colReady q x.2.1 x.2.2.1 x.2.2.2)

/-- Reads the head slot of an armed queue that runs nothing, and takes it where its stamp matches (R430, R462); a running dispatch goes on. In a
partition reset, and while its partition quiesces or is quiesced, a queue takes nothing (R101, R103). -/
def State.colPoll (s : State) (q : ColQueue) : State :=
  let die := colDie q.val
  match s.col q.val with
  | some c => if c.fields.opcode = 4 ∧ c.allReady then s.colDispatch q colFuel else s
  | none =>
    let size := s.fld die (colOff q.val 8) 20 16
    let st := s.partState (s.colPart q.val)
    if s.fld die (colOff q.val 8) 31 31 = 0 ∨ size < 4 ∨ 12 < size ∨ st = 3 ∨ st = 4 ∨ st = 5 then s
    else
      let head := (s.rd die (colOff q.val 0xC)).toNat
      let a := (s.rd64 die (colOff q.val 0)).toNat / 128 * 128 + head % 2 ^ size * 128
      if !(s.rangeFree a 128 false).2 then (s.rangeFree a 128 false).1
      else match s.readLocal a 128 with
        | none => s
        | some (s, b, bad) =>
          if bad ∨ leAt b 0x7C 4 ≠ 0x80000000 + head % 2 ^ 31 then s else (s.inc die (colOff q.val 0xC)).colStart q b

/-! ## Commands -/

/-- COL_QUEUE_ARM (R462): ARM from 0 to 1 resets the slot count. -/
def execColQueueArm (q : ColQueue) (arm : Bool) (s : State) : Outcome :=
  gate s (fun s =>
    let die := colDie q.val
    let s := if arm ∧ s.fld die (colOff q.val 8) 31 31 = 0 then s.wr die (colOff q.val 0xC) 0 else s
    s.setFld die (colOff q.val 8) 31 31 (b2n arm))

/-- COL_QUEUE_ABORT (R473): the running collective ends in STATE 6 on every rank, and ARM clears. -/
def execColQueueAbort (q : ColQueue) (s : State) : Outcome :=
  gate s (fun s => (s.setFld (colDie q.val) (colOff q.val 8) 31 31 0).colFail q 6 0 (((s.col q.val).map (·.self)).getD 0xFFFF))

/-- COL_QUEUE_DOORBELL (R462). -/
def execColQueueDoorbell (q : ColQueue) (s : State) : Outcome := gate s (fun s => s.colPoll q)
/-- COL_QUEUE_POLL (R462). -/
def execColQueuePoll (q : ColQueue) (s : State) : Outcome := gate s (fun s => s.colPoll q)

/-- CREADY (R461, R465): a CReady whose collective is not taken yet, or of a rank that has already given its own for the one that runs, is kept for the
next; the queue is that of the arrival port's partition (R456; log 23). -/
def execCready (q : ColQueue) (rank : Nat) (f : ColFields) (version : Nat) (s : State) : Outcome :=
  gate s (fun s =>
    match s.col q.val with
    | some c => if c.peers.contains rank && !c.ready.contains rank then s.colReady q rank f version else { s with earlyReady := s.earlyReady ++ [(q.val, rank, f, version)] }
    | none => { s with earlyReady := s.earlyReady ++ [(q.val, rank, f, version)] })

/-- CDATA (R465, R466): a chunk from a rank that this rank receives from; it is acknowledged. A chunk that meets a line with an open transaction,
or comes before every rank is ready, is taken later (log 20). -/
def execCdata (q : ColQueue) (rank chunk : Nat) (data : List Byte) (poison : List Nat) (s : State) : Outcome :=
  gate s (fun s =>
    match s.col q.val with
    | none => s
    | some c =>
      let n := c.fields.nodes
      let step := chunk / c.chunks
      let i := chunk % c.chunks
      let ws := (List.range (data.length / c.wsz)).map (fun x => leAt data (x * c.wsz) c.wsz)
      let ring := decide (c.fields.opcode ≤ 2)
      let from_ := if ring then rank == c.next (n - 1) && decide (step < c.steps) else c.fields.opcode == 3 && decide (rank < n) && rank != c.rank
      let j := if !ring then rank else if c.fields.opcode = 2 then c.next (2 * n - step - 1)
        else if step < n - 1 then c.next (2 * n - step - 2) else c.next (3 * n - step - 2)
      let p := c.part j i
      if !c.allReady ∨ !from_ ∨ ws.length ≠ p.2 then s
      else
        let (s, free) := s.rangeFree (c.srcAt j p.1) (p.2 * c.isz) false
        let (s, free') := s.rangeFree (c.dstAt j p.1) (p.2 * c.isz) true
        if !free || !free' then s
        else
          let s := s.colSend q rank 0x12 chunk [] []
          if ring then s.colRing q c step i ws poison else s.colBlock q c rank i ws poison)

/-- CACK (R452): a rank has a chunk. -/
def execCack (q : ColQueue) (rank chunk : Nat) (s : State) : Outcome :=
  gate s (fun s => s.modCol q.val (fun c => { c with acked := c.acked ++ [(rank, chunk)] }))

/-- DROW (R464): rows for an expert of this node are written as remote stores are, and acknowledged. -/
def execDrow (p : FabPort) (m : FabMsg) (s : State) : Outcome :=
  fabGate p m s (fun s =>
    let a := m.addr / 64 * 64
    let part := s.fabPart p.val
    if 0x30000000000 ≤ a then s.fabReply (s.replyTo m 6 1 [] false) part
    else if !s.rangeOk part true 4096 a m.data.length then s.fabReply (s.replyTo m 6 2 [] false) part
    else if !(linePieces a m.data.length (m.data.length + 1)).all (fun x => match s.place x.1 with | some ph => s.inService ph && s.setReady x.1 | none => false) then
      s.fabReply (s.replyTo m 6 1 [] false) part
    else if !(s.rangeFree a m.data.length true).2 then (s.rangeFree a m.data.length true).1
    else
      let s := overList s (linePieces a m.data.length (m.data.length + 1)) (fun s x =>
        match s.place x.1 with | some ph => s.writePhys ph ((m.data.drop (x.1 - a)).take x.2) m.poison | none => s)
      s.fabReply (s.replyTo m 5 0 [] false) part)

/-- DCLAIM (R464): claims on an expert of this node are performed as remote atomics are. -/
def execDclaim (p : FabPort) (m : FabMsg) (s : State) : Outcome := fabGate p m s (fun s => s.serveAtom p m)

/-- COLLECTIVE_PROGRESS_WRITE (R469). -/
def execCollectiveProgressWrite (q : ColQueue) (s : State) : Outcome := gate s (fun s => s.colRecord q.val)

/-- COLLECTIVE_END (R470): once every step is done, the rank ends in STATE 4. -/
def execCollectiveEnd (q : ColQueue) (s : State) : Outcome :=
  gate s (fun s =>
    match s.col q.val with
    | some c => if (c.state = 2 ∨ c.state = 3) ∧ c.stepsDone = c.steps then s.colFinish q.val 4 0 0xFFFF else s
    | none => s)

/-- COLLECTIVE_TIMEOUT (R471, R473): outside thermal hold, where a time-out is set. -/
def execCollectiveTimeout (q : ColQueue) (s : State) : Outcome :=
  gate s (fun s =>
    match s.col q.val with
    | some c => if c.timeout ≠ 0 ∧ c.holds.isEmpty then s.colFail q 5 0x122 c.self else s
    | none => s)

/-- COLLECTIVE_ABORT (R472, R473): a notice from another rank ends this one with the same error. -/
def execCollectiveAbort (q : ColQueue) (state error errNode : Nat) (s : State) : Outcome :=
  gate s (fun s => if state = 5 ∨ state = 6 then s.colFinish q.val state error errNode else s)

/-- THERMAL_HOLD (R471). -/
def execThermalHold (q : ColQueue) (node : Nat) (s : State) : Outcome := gate s (fun s => s.colHold q node true)
/-- THERMAL_RELEASE (R471). -/
def execThermalRelease (q : ColQueue) (node : Nat) (s : State) : Outcome := gate s (fun s => s.colHold q node false)

/-- Collectives whose rows a node has refused, or not answered for, fail with "node unreachable" (R458, R473). -/
def State.endLostRows (s : State) : State :=
  overList s (List.finRange 64) (fun s q =>
    match s.rowLost q.val with
    | some n => s.colFail q 5 0x118 n
    | none => s)

/-- RNACK (R455, R458, R473): the access ends in "node unreachable"; the refusal of a collective message fails its collective. -/
def execRnack (p : FabPort) (m : FabMsg) (s : State) : Outcome :=
  fabGate p m s (fun s =>
    let tag := m.tag.toNat
    if tag < 0xC000 then (s.failRemote tag).endLostRows
    else overList s (List.finRange 64) (fun s q =>
      match s.col q.val with
      | some c => if c.fields.collId.toNat * 1024 = m.addr / 64 * 64 ∧ s.colPart q.val = s.fabPart p.val then s.colFail q 5 0x118 (c.node (tag - 0xC000)) else s
      | none => s))

/-- REMOTE_ACCESS_TIMEOUT (R458): no answer 2 ms after the access was sent. -/
def execRemoteAccessTimeout (tag : Nat) (s : State) : Outcome :=
  gate s (fun s =>
    match s.remote tag with
    | some r => if r.reply.isNone then (s.failRemote tag).endLostRows else s
    | none => s)

/-- A node is down (R451, R458, R473): outstanding accesses to it end in "node unreachable", and collectives that name it fail; news is passed on. -/
def State.nodeDown (s : State) (p : FabPort) (node : Nat) : State :=
  let known := s.nodesDown.contains node
  let s := { s with nodesDown := node :: s.nodesDown.filter (· != node) }
  let s := if known then s else s.passOn p (fun s q => s.sendNodeDown q node)
  let s := overList s (s.remotes.cells.filterMap (fun x => match x.2 with | some r => if r.node = node ∧ r.reply.isNone then some x.1 else none | none => none))
    State.failRemote
  overList s.endLostRows (List.finRange 64) (fun s q =>
    match s.col q.val with
    | some c => if c.fields.group.contains node && node != c.self then s.colFail q 5 0x118 node else s
    | none => s)

/-- NODE_DOWN (R451, R473). -/
def execNodeDown (p : FabPort) (node : Nat) (s : State) : Outcome := gate s (fun s => s.nodeDown p node)

/-- FABRIC_FLIT_RECEIVE (R447, R448): a flit with the CRC it carries; a version token and node-down act when they arrive whole (R451, R460), and the
messages that a payload flit completes and that this node only passes on go on their way. -/
def execFabricFlitReceive (p : FabPort) (f : Flit) (crc : DWord) (fecU : Nat) (s : State) : Outcome :=
  gate s (fun s =>
    let l : LinkId := .fabric p
    let s := s.inc64 (fabReg p.val).1 ((fabReg p.val).2 + 0x10) fecU
    let ok := crc == flitCrc l f && fecU == 0
    let node := leAt f.slots 2 2
    if ok && f.ftype == 4 then s.versionToken p (leAt f.slots 0 1) (leAt f.slots 1 1) (BitVec.ofNat 14 node)
    else if ok && f.ftype == 5 then (if s.linkSt l = 2 ∨ s.linkSt l = 3 then s.nodeDown p node else s)
    else
      let k := s.link l
      let ms := if s.linkSt l == 2 && ok && f.ftype == 0 && f.seq == k.rxSeq + 1 then (k.taken l f).2 else []
      overList (s.flitIn l f ok) ms (fun s b => s.fabPass p b))

/-! ## What other units tell the engine -/

/-- A critical trip fences channels: collectives they serve fail with "memory fenced" (R472). -/
def State.colTrip (s : State) (which : Chan → Bool) : State :=
  overList s (List.finRange 64) (fun s q =>
    match s.col q.val with
    | some c => if s.colTouches c which then s.colFail q 5 0x123 c.self else s
    | none => s)

/-- A throttle begins or ends at channels: collectives they serve go into hold, or leave it once no stack of theirs is throttled (R471). -/
def State.colThrottle (s : State) (throttled : Chan → Bool) : State :=
  overList s (List.finRange 64) (fun s q =>
    match s.col q.val with
    | some c => s.colHold q c.self (s.colTouches c throttled)
    | none => s)

end Sys2Proof.Machine
end

