-- ==== Sys2Proof/Machine/HartCsr.lean ====
section
/-! DEFINITION. A hart's registers, CSRs, interrupt files (R401), time (R402), traps and returns. The layout of the published privileged
architecture is taken as it stands, since the spec names its profile and does not repeat it (R392; log 25). -/

namespace Sys2Proof.Machine

/-! ## Registers -/

/-- A register; x0 reads zero. -/
def Hart.reg (h : Hart) (r : Nat) : DWord := if r = 0 then 0 else h.x.get 0 r
/-- Writes a register; a write to x0 is discarded. -/
def Hart.setReg (h : Hart) (r : Nat) (v : DWord) : Hart := if r = 0 then h else { h with x := h.x.set 0 r v }
/-- A CSR as it is stored. -/
def Hart.csr (h : Hart) (n : Nat) : DWord := h.csrs.get 0 n
def Hart.setCsr (h : Hart) (n : Nat) (v : DWord) : Hart := { h with csrs := h.csrs.set 0 n v }
def Hart.bit (h : Hart) (n i : Nat) : Bool := (h.csr n).getLsbD i
def Hart.fld (h : Hart) (n hi lo : Nat) : Nat := fieldOf (h.csr n) hi lo
def Hart.put (h : Hart) (n lo w v : Nat) : Hart := h.setCsr n (putField (h.csr n) (lo + w - 1) lo v)
/-- Whether the hart runs a virtual machine, and its privilege level without that. -/
def Hart.virt (h : Hart) : Bool := decide (4 ≤ h.priv)
def Hart.lvl (h : Hart) : Nat := h.priv % 4
/-- Changes a hart. -/
def State.modHart (s : State) (n : Nat) (f : Hart → Hart) : State := s.setHart n (f (s.hart n))

/-! ## Interrupt files (R401) -/

/-- The register of an interrupt file with a select number. -/
def fileReg (i sel : Nat) : Nat := 0x1000 + 0x100 * i + sel
/-- The identities a file holds: 2,047, and 255 in a guest file. -/
def fileMax (i : Nat) : Nat := if i < 2 then 2047 else 255
/-- Whether an identity is enabled in a file: eie registers hold 64 identities each, at even select numbers. -/
def Hart.fileEnabled (h : Hart) (i id : Nat) : Bool := h.bit (fileReg i (0xC0 + id / 64 * 2)) (id % 64)
/-- The highest-priority pending and enabled identity of a file below its threshold: the lowest number; 0 for none. -/
def Hart.fileTop (h : Hart) (i : Nat) : Nat :=
  let th := (h.csr (fileReg i 0x72)).toNat
  ((h.files.get [] i).filter (fun id => h.fileEnabled i id && (th == 0 || decide (id < th)))).foldl (fun a id => if a = 0 then id else min a id) 0
/-- Whether a file signals its hart. -/
def Hart.fileUp (h : Hart) (i : Nat) : Bool := h.csr (fileReg i 0x70) == 1 && h.fileTop i != 0
/-- Sets or clears a pending identity. -/
def Hart.setPending (h : Hart) (i id : Nat) (v : Bool) : Hart :=
  let l := (h.files.get [] i).filter (· != id)
  { h with files := h.files.set [] i (if v then id :: l else l) }

/-- An MSI write to a file: the identity becomes pending, a number the file does not hold is ignored; at a fenced hart it is dropped and
counted (R401, R405). -/
def Hart.msiIn (h : Hart) (i id : Nat) : Hart :=
  if h.fenced then { h with dropped := min 255 (h.dropped + 1) }
  else if 1 ≤ id ∧ id ≤ fileMax i then h.setPending i id true else h

/-- Reads a register of a file through its window: eidelivery, eithreshold, eip and eie. -/
def Hart.fileRead (h : Hart) (i sel : Nat) : Option DWord :=
  if sel = 0x70 ∨ sel = 0x72 then some (h.csr (fileReg i sel))
  else if 0x80 ≤ sel ∧ sel < 0xC0 ∧ sel % 2 = 0 then
    some (BitVec.ofNat 64 (((h.files.get [] i).filter (fun id => id / 64 == (sel - 0x80) / 2)).map (fun id => 2 ^ (id % 64))).sum)
  else if 0xC0 ≤ sel ∧ sel < 0x100 ∧ sel % 2 = 0 then some (h.csr (fileReg i sel))
  else none
def Hart.fileWrite (h : Hart) (i sel : Nat) (v : DWord) : Option Hart :=
  if sel = 0x70 then some (h.setCsr (fileReg i sel) (v &&& 1))
  else if sel = 0x72 then some (h.setCsr (fileReg i sel) (BitVec.ofNat 64 (v.toNat % (fileMax i + 1))))
  else if 0x80 ≤ sel ∧ sel < 0xC0 ∧ sel % 2 = 0 then
    let k := (sel - 0x80) / 2
    let l := ((h.files.get [] i).filter (fun id => id / 64 != k)) ++ ((List.range 64).filter (fun b => v.getLsbD b && k * 64 + b != 0 && decide (k * 64 + b ≤ fileMax i))).map (fun b => k * 64 + b)
    some { h with files := h.files.set [] i l }
  else if 0xC0 ≤ sel ∧ sel < 0x100 ∧ sel % 2 = 0 then
    some (h.setCsr (fileReg i sel) (if sel = 0xC0 then v &&& ~~~ 1 else if fileMax i < (sel - 0xC0) / 2 * 64 then 0 else v))
  else none

/-! ## Pending interrupts -/

/-- mip as it reads: the stored bits, the interrupt files, and the Sstc comparators, which read device time in nanoseconds (R402). -/
def State.hartMip (s : State) (h : Hart) : Nat :=
  let raw := (h.csr 0x344).toNat
  let hvip := (h.csr 0x645).toNat
  let guest := h.fld 0x600 17 12
  let stc := h.bit 0x30A 63
  let vstc := stc && h.bit 0x60A 63
  let on (c : Bool) (i : Nat) : Nat := if c then 2 ^ i else 0
  let gei := (List.range 7).any (fun g => h.fileUp (2 + g) && h.bit 0x607 (g + 1))
  on (bitAt raw 1) 1 + on (bitAt hvip 2) 2 + on (if stc then decide (h.csr 0x14D ≤ s.now) else bitAt raw 5) 5
    + on (bitAt hvip 6 || (vstc && decide (h.csr 0x24D ≤ s.now + h.csr 0x605))) 6 + on (bitAt raw 9 || h.fileUp 1) 9
    + on (bitAt hvip 10 || (decide (1 ≤ guest) && decide (guest ≤ 7) && h.fileUp (1 + guest))) 10 + on (h.fileUp 0) 11 + on gei 12 + on (bitAt raw 13) 13

/-- mideleg as it reads: the bits of virtual supervisor and guest external interrupts are one. -/
def Hart.mideleg (h : Hart) : Nat := Nat.lor (h.csr 0x303).toNat 0x1444

/-- The order in which interrupts are taken. -/
def irqOrder : List Nat := [11, 3, 7, 9, 1, 5, 12, 10, 2, 6, 13]

/-- The interrupt a virtual machine's supervisor takes among the bits `vs` of mip that are delegated to it. With hvictl.VTI the virtual major
interrupts are replaced by IID, which competes with the guest file by priority: IPRIO, or where that is 0 by DPR. Answers the cause as
vscause has it, and the priority vstopi shows (Ssaia; log 25). -/
def Hart.vsTop (h : Hart) (vs : Nat) : Option (Nat × Nat) :=
  let up (i : Nat) : Nat := if i = 13 then 13 else i - 1
  if !h.bit 0x609 30 then (irqOrder.find? (fun i => bitAt vs i)).map (fun i => (up i, 1))
  else
    let g := h.fld 0x600 17 12
    let ext : Option (Nat × Nat) := if bitAt vs 10 && decide (1 ≤ g) then some (9, let t := h.fileTop (1 + g); if t = 0 then 256 else min t 255) else none
    let iid := h.fld 0x609 27 16
    let prio := h.fld 0x609 7 0
    let own : Option (Nat × Nat) := if iid = 9 then none else some (iid, if prio ≠ 0 then prio else if h.bit 0x609 9 then 256 else 0)
    match ext, own with
    | some e, some o => some (if e.2 ≤ o.2 then e else o)
    | some e, none => some e
    | none, o => o.bind (fun o => if o.1 = 0 && o.2 = 0 then none else some o)

/-- The interrupt a hart takes before its next instruction: its cause and the level it traps to (3, 1, or 5 for the virtual supervisor, with the
cause as that one sees it). -/
def State.hartIrq (s : State) (h : Hart) : Option (Nat × Nat) :=
  let p := Nat.land (s.hartMip h) (h.csr 0x304).toNat
  let first (m : Nat) : Option Nat := irqOrder.find? (fun i => bitAt m i)
  let deleg := h.mideleg
  let hdeleg := (h.csr 0x603).toNat
  let m := p - Nat.land p deleg
  let hs := Nat.land p deleg - Nat.land (Nat.land p deleg) hdeleg
  let vs := Nat.land (Nat.land p deleg) hdeleg
  let mOn := decide (h.lvl < 3) || h.bit 0x300 3
  let sOn := h.virt || h.lvl == 0 || (h.lvl == 1 && h.bit 0x300 1)
  let vsOn := h.virt && (h.lvl == 0 || h.bit 0x200 1)
  match (if mOn then first m else none) with
  | some i => some (i, 3)
  | none =>
    if h.lvl = 3 then none
    else match (if sOn then first hs else none) with
      | some i => some (i, 1)
      | none => (if vsOn then h.vsTop vs else none).map (fun i => (i.1, 5))

/-! ## Traps and returns -/

/-- What an exception records: its cause, xtval, and the guest physical address of a guest page fault. -/
structure HTrap where
  cause : Nat
  tval  : DWord
  gpa   : DWord
deriving DecidableEq, Repr

/-- A handler's address: the base, and in vectored mode four bytes for each interrupt cause. -/
def tvecPc (tvec : DWord) (irq : Bool) (cause : Nat) : DWord :=
  (tvec &&& ~~~ 3) + (if irq && tvec.getLsbD 0 then BitVec.ofNat 64 (4 * cause) else 0)

/-- Whether an exception sets GVA: it records a guest virtual address. -/
def trapGva (h : Hart) (cause : Nat) : Bool :=
  h.virt && [0, 1, 4, 5, 6, 7, 12, 13, 15, 20, 21, 23].contains cause

/-- Takes a trap at a level: 3, 1, or 5 for the virtual supervisor (log 25). A trap ends the reservation (R397) and the reads it waited for. -/
def Hart.takeTrap (h : Hart) (irq : Bool) (to_ : Nat) (t : HTrap) : Hart :=
  let code (c : Nat) : DWord := BitVec.ofNat 64 (b2n irq * 2 ^ 63 + c)
  let h0 := { h with resv := none, delay := false, nc := [] }
  if to_ = 3 then
    let h := ((((h0.setCsr 0x341 h.pc).setCsr 0x342 (code t.cause)).setCsr 0x343 t.tval).setCsr 0x34B (t.gpa >>> 2)).setCsr 0x34A 0
    let h := (((h.put 0x300 7 1 (h.fld 0x300 3 3)).put 0x300 3 1 0).put 0x300 11 2 h.lvl)
    let h := (h.put 0x300 39 1 (b2n h.virt)).put 0x300 38 1 (b2n (trapGva h t.cause && !irq))
    { h with priv := 3, pc := tvecPc (h.csr 0x305) irq t.cause }
  else if to_ = 1 then
    let h := ((((h0.setCsr 0x141 h.pc).setCsr 0x142 (code t.cause)).setCsr 0x143 t.tval).setCsr 0x643 (t.gpa >>> 2)).setCsr 0x64A 0
    let h := ((h.put 0x300 5 1 (h.fld 0x300 1 1)).put 0x300 1 1 0).put 0x300 8 1 h.lvl
    let h := if h.virt then h.put 0x600 8 1 h.lvl else h
    let h := (h.put 0x600 7 1 (b2n h.virt)).put 0x600 6 1 (b2n (trapGva h t.cause && !irq))
    { h with priv := 1, pc := tvecPc (h.csr 0x105) irq t.cause }
  else
    let h := ((h0.setCsr 0x241 h.pc).setCsr 0x242 (code t.cause)).setCsr 0x243 t.tval
    let h := ((h.put 0x200 5 1 (h.fld 0x200 1 1)).put 0x200 1 1 0).put 0x200 8 1 h.lvl
    { h with priv := 5, pc := tvecPc (h.csr 0x205) irq t.cause }

/-- Takes an exception at the level its delegation names: cause 24 is delegated as the others are (R395). -/
def Hart.trap (h : Hart) (t : HTrap) : Hart :=
  if h.lvl = 3 ∨ !h.bit 0x302 t.cause then h.takeTrap false 3 t
  else if h.virt && h.bit 0x602 t.cause then h.takeTrap false 5 t
  else h.takeTrap false 1 t

/-- MRET and SRET: the saved status and pc return. -/
def Hart.mret (h : Hart) : Hart :=
  let mpp := h.fld 0x300 12 11
  let v := h.bit 0x300 39 && mpp != 3
  let h := ((h.put 0x300 3 1 (h.fld 0x300 7 7)).put 0x300 7 1 1).put 0x300 11 2 0
  let h := h.put 0x300 39 1 0
  let h := if mpp = 3 then h else h.put 0x300 17 1 0
  { h with priv := mpp + (if v then 4 else 0), pc := h.csr 0x341 }
def Hart.sret (h : Hart) : Hart :=
  if h.virt then
    let spp := h.fld 0x200 8 8
    let h := ((h.put 0x200 1 1 (h.fld 0x200 5 5)).put 0x200 5 1 1).put 0x200 8 1 0
    { h with priv := 4 + spp, pc := h.csr 0x241 }
  else
    let spp := h.fld 0x300 8 8
    let v := h.bit 0x600 7
    let h := ((h.put 0x300 1 1 (h.fld 0x300 5 5)).put 0x300 5 1 1).put 0x300 8 1 0
    let h := (h.put 0x600 7 1 0).put 0x300 17 1 0
    { h with priv := spp + (if v then 4 else 0), pc := h.csr 0x141 }

/-! ## CSRs -/

/-- The bits of mstatus that software can write, and those that sstatus shows. -/
def mstatusMask : Nat := 0x000000C0007E7FAA
def sstatusMask : Nat := 0x00000000000C6722
/-- What the fixed fields of a status register read: UXL and SXL are 64 bits; SD sums up FS and VS. -/
def statusRead (v : DWord) (sxl : Bool) : DWord :=
  let sd : Nat := if fieldOf v 14 13 = 3 ∨ fieldOf v 10 9 = 3 then 2 ^ 63 else 0
  v ||| BitVec.ofNat 64 (sd + 0x200000000 + (if sxl then 0x800000000 else 0))

/-- The bits of a CSR without a rule of its own that software can write; none for a number that names no CSR (log 25). -/
def csrPlain (n : Nat) : Option Nat :=
  let all := 2 ^ 64 - 1
  match n with
  | 0x008 => some 0x1FF | 0x009 => some 1 | 0x00A => some 3
  | 0x105 | 0x205 | 0x305 => some (all - 2)
  | 0x106 | 0x306 | 0x606 => some 0xFFFFFFFF
  | 0x10A => some 0x3000000F1
  | 0x140 | 0x142 | 0x143 | 0x240 | 0x242 | 0x243 | 0x340 | 0x342 | 0x343 | 0x34A | 0x34B | 0x643 | 0x64A => some all
  | 0x141 | 0x241 | 0x341 => some (all - 1)
  | 0x14D | 0x24D | 0x605 => some all
  | 0x150 | 0x250 | 0x350 => some 0xFFF
  | 0x302 => some 0x1F8B7FF | 0x602 => some 0x108B1FF
  | 0x303 => some 0x2222 | 0x603 => some 0x2444
  | 0x30A => some 0xC0000000000000F1 | 0x60A => some 0xC0000003000000F1
  | 0x30C | 0x60C => some (2 ^ 63 + 2 ^ 62 + 2 ^ 60 + 2 ^ 59 + 2 ^ 58)
  | 0x30D | 0x30E | 0x30F | 0x60D | 0x60E | 0x60F => some (2 ^ 63)
  | 0x10C | 0x10D | 0x10E | 0x10F => some 0
  | 0x308 | 0x608 | 0x646 | 0x647 => some 0
  | 0x609 => some 0x4FFF03FF
  | 0x304 => some 0x3EEE
  | 0x320 => some 0xFFFFFFFD
  | 0x600 => some 0x300000073F3C0
  | 0x607 => some 0xFE
  | 0x645 => some 0x444
  | 0x7C0 => some 1
  | 0x8C0 => some 3
  | 0xB02 => some all
  | _ =>
    if (0x323 ≤ n ∧ n ≤ 0x33F) ∨ (0xB03 ≤ n ∧ n ≤ 0xB1F) then some all
    else if 0x3B0 ≤ n ∧ n < 0x3C0 then some (2 ^ 54 - 1)
    else none

/-- A satp-format value whose MODE is bare or one the hart has (Table 14-1). -/
def satpOk (v : DWord) : Bool := [0, 8, 9, 10].contains (fieldOf v 63 60)

/-- The CSR a number names in a virtual machine: supervisor registers stand for the virtual ones. -/
def Hart.csrIx (h : Hart) (n : Nat) : Nat :=
  if h.virt && [0x100, 0x104, 0x105, 0x140, 0x141, 0x142, 0x143, 0x144, 0x14D, 0x150, 0x151, 0x15C, 0x180].contains n then n + 0x100
  else if h.virt && n == 0xDB0 then 0xEB0 else n

/-- The value mtopi and its like give: cause and priority 1. -/
def topiWord (p : Nat) : DWord := match irqOrder.find? (fun i => bitAt p i) with | some i => BitVec.ofNat 64 (i * 65536 + 1) | none => 0
def topeiWord (id : Nat) : DWord := BitVec.ofNat 64 (id * 65537)

/-- The interrupt file an indirect or top-external register reaches: machine, supervisor, or the guest file VGEIN names. -/
def Hart.fileOf (h : Hart) (n : Nat) : Option Nat :=
  if n / 256 = 3 then some 0
  else if n / 256 = 1 then some 1
  else let g := h.fld 0x600 17 12; if 1 ≤ g ∧ g ≤ 7 then some (1 + g) else none

/-- Whether an indirect register (mireg, sireg, vsireg) is one of the interrupt-priority array, whose bytes read zero here: every major interrupt
keeps its default priority (Smaia, Ssaia; log 25). The array's odd registers do not exist where XLEN is 64; vsiselect reaches no array. -/
def Hart.prioSel (h : Hart) (n : Nat) : Bool :=
  let sel := (h.csr (n - 1)).toNat
  n != 0x251 && decide (0x30 ≤ sel) && decide (sel < 0x40) && sel % 2 == 0

/-- The state-enable bit that a CSR needs: the register of mstateen0 to 3 and the bit (Ssstateen; log 25). An indirect register needs the one of
what it reaches. -/
def Hart.stateenOf (h : Hart) (n : Nat) : Option (Nat × Nat) :=
  match n with
  | 0x10A | 0x60A => some (0, 62)
  | 0x150 | 0x250 => some (0, 60)
  | 0x151 | 0x251 => some (0, if 0x70 ≤ (h.csr (h.csrIx n - 1)).toNat then 58 else 59)
  | 0x15C | 0x25C => some (0, 58)
  | 0xDB0 | 0xEB0 | 0x608 | 0x609 | 0x646 | 0x647 => some (0, 59)
  | _ => if (0x10C ≤ n ∧ n ≤ 0x10F) ∨ (0x60C ≤ n ∧ n ≤ 0x60F) then some (n % 16 - 12, 63) else none

/-- Whether the state enables let a hart reach a CSR: illegal (2), a virtual instruction (22), or permitted (0). -/
def Hart.stateen (h : Hart) (n : Nat) : Nat :=
  match h.stateenOf n with
  | none => 0
  | some (i, b) =>
    if h.lvl = 3 then 0
    else if !h.bit (0x30C + i) b then 2
    else if h.virt && !h.bit (0x60C + i) b then 22
    else 0

/-- The value of a CSR by its own number. -/
def State.csrGet (s : State) (i : Nat) (h : Hart) (n : Nat) : Option DWord :=
  let mip := s.hartMip h
  let mie := (h.csr 0x304).toNat
  let view (m : Nat) (v : Nat) : DWord := BitVec.ofNat 64 (Nat.land m v)
  match n with
  | 0x001 => some (BitVec.ofNat 64 (h.fld 3 4 0)) | 0x002 => some (BitVec.ofNat 64 (h.fld 3 7 5)) | 0x003 => some (h.csr 3)
  | 0x00F => some (BitVec.ofNat 64 (h.fld 0x00A 1 0 * 2 + h.fld 0x009 0 0))
  | 0xC20 => some (h.csr 0xC20) | 0xC21 => some (h.csr 0xC21) | 0xC22 => some 64
  | 0xC00 | 0xB00 => some (Config.freeDWord s.fresh) | 0xC01 => some (s.now + (if h.virt then h.csr 0x605 else 0)) | 0xC02 => some (h.csr 0xB02)
  | 0x100 => some (statusRead (h.csr 0x300 &&& BitVec.ofNat 64 sstatusMask) false)
  | 0x200 => some (statusRead (h.csr 0x200) false)
  | 0x300 => some (statusRead (h.csr 0x300) true)
  | 0x301 => some 0x80000000003411AF
  | 0x303 => some (BitVec.ofNat 64 h.mideleg)
  | 0x104 => some (view 0x2222 (Nat.land mie h.mideleg)) | 0x144 => some (view 0x2222 (Nat.land mip h.mideleg))
  | 0x204 => some (BitVec.ofNat 64 (Nat.land (Nat.land mie (h.csr 0x603).toNat) 0x444 / 2 + Nat.land (Nat.land mie (h.csr 0x603).toNat) 0x2000))
  | 0x244 => some (BitVec.ofNat 64 (Nat.land (Nat.land mip (h.csr 0x603).toNat) 0x444 / 2 + Nat.land (Nat.land mip (h.csr 0x603).toNat) 0x2000))
  | 0x344 => some (BitVec.ofNat 64 mip)
  | 0x604 => some (view 0x1444 mie) | 0x644 => some (view 0x1444 mip)
  | 0xE12 => some (BitVec.ofNat 64 (((List.range 7).filter (fun g => h.fileUp (2 + g))).map (fun g => 2 ^ (g + 1))).sum)
  | 0x180 => some (h.csr 0x180) | 0x280 => some (h.csr 0x280) | 0x680 => some (h.csr 0x680)
  | 0x3A0 => some (h.csr 0x3A0) | 0x3A2 => some (h.csr 0x3A2)
  | 0x309 => some (view 0x222 (h.csr 0x344).toNat)
  | 0xDA0 =>
    let seen (i : Nat) : Bool := (h.lvl == 3 || h.bit 0x306 i) && (!h.virt || h.bit 0x606 i)
    some (BitVec.ofNat 64 (((List.range 32).filter (fun i => decide (3 ≤ i) && seen i && h.bit (0x320 + i) 63)).map (fun i => 2 ^ i)).sum)
  | 0x60C | 0x60D | 0x60E | 0x60F => some (h.csr n &&& h.csr (n - 0x300))
  | 0x35C | 0x15C | 0x25C => (h.fileOf n).map (fun f => topeiWord (h.fileTop f))
  | 0x351 | 0x151 | 0x251 => if h.prioSel n then some 0 else (h.fileOf n).bind (fun f => h.fileRead f (h.csr (n - 1)).toNat)
  | 0xFB0 => some (topiWord (Nat.land (Nat.land mip mie) (0x3FFF - Nat.land h.mideleg 0x3FFF)))
  | 0xDB0 => some (topiWord (Nat.land (Nat.land (Nat.land mip mie) h.mideleg) (0x3FFF - Nat.land (h.csr 0x603).toNat 0x3FFF)))
  | 0xEB0 => some (match h.vsTop (Nat.land (Nat.land mip mie) (h.csr 0x603).toNat) with
    | some (c, p) => BitVec.ofNat 64 (c * 65536 + (if h.bit 0x609 8 then max 1 (min p 255) else 1))
    | none => 0)
  | 0xF11 | 0xF12 | 0xF13 | 0xF15 => some 0
  | 0xF14 => some (BitVec.ofNat 64 i)
  | _ =>
    if 0xC03 ≤ n ∧ n ≤ 0xC1F then some (h.csr (n - 0x100))
    else (csrPlain n).map (fun _ => h.csr n)

/-- Changes the masked bits of a stored CSR. -/
def Hart.maskCsr (h : Hart) (n mask : Nat) (v : DWord) : Hart :=
  let m := BitVec.ofNat 64 mask
  h.setCsr n ((h.csr n &&& ~~~ m) ||| (v &&& m))

/-- A write of pmpcfg: a locked entry keeps its byte, and NA4 cannot be chosen at a granularity of 4 KiB (Table 14-1). -/
def pmpCfgWrite (old v : DWord) : DWord :=
  BitVec.ofNat 64 ((List.range 8).map (fun i =>
    let o := fieldOf old (8 * i + 7) (8 * i)
    let n := Nat.land (fieldOf v (8 * i + 7) (8 * i)) 0x9F
    (if bitAt o 7 then o else if bits n 4 3 = 2 then n - 0x10 + 0x00 else n) * 2 ^ (8 * i))).sum

/-- Whether a PMP entry is locked, or the next entry is locked and ends at it. -/
def Hart.pmpCfg (h : Hart) (i : Nat) : Nat := fieldOf (h.csr (0x3A0 + i / 8 * 2)) (i % 8 * 8 + 7) (i % 8 * 8)
def Hart.pmpLocked (h : Hart) (i : Nat) : Bool := bitAt (h.pmpCfg i) 7 || (decide (i < 15) && bitAt (h.pmpCfg (i + 1)) 7 && bits (h.pmpCfg (i + 1)) 4 3 == 1)

/-- The effect of a write of a CSR by its own number. -/
def Hart.csrPut (h : Hart) (n : Nat) (v : DWord) : Hart :=
  let w := v.toNat
  match n with
  | 0x001 => h.put 3 0 5 (w % 32) | 0x002 => h.put 3 5 3 (w % 8) | 0x003 => h.setCsr 3 (v &&& 0xFF)
  | 0x00F => (h.setCsr 0x00A (BitVec.ofNat 64 (bits w 2 1))).setCsr 0x009 (BitVec.ofNat 64 (w % 2))
  | 0x100 => h.maskCsr 0x300 sstatusMask v
  | 0x200 => h.maskCsr 0x200 sstatusMask v
  | 0x300 =>
    let h' := h.maskCsr 0x300 mstatusMask v
    if h'.fld 0x300 12 11 = 2 then h'.put 0x300 11 2 (h.fld 0x300 12 11) else h'
  | 0x104 => h.maskCsr 0x304 (Nat.land 0x2222 h.mideleg) v
  | 0x144 => h.maskCsr 0x344 (Nat.land 0x2002 h.mideleg) v
  | 0x204 => h.maskCsr 0x304 (Nat.land (h.csr 0x603).toNat 0x2444) (BitVec.ofNat 64 (Nat.land w 0x222 * 2 + Nat.land w 0x2000))
  | 0x244 => h.maskCsr 0x645 (Nat.land (h.csr 0x603).toNat 4) (BitVec.ofNat 64 (Nat.land w 2 * 2))
  | 0x344 => h.maskCsr 0x344 (if h.bit 0x30A 63 then 0x2202 else 0x2222) v
  | 0x604 => h.maskCsr 0x304 0x1444 v
  | 0x644 => h.maskCsr 0x645 4 v
  | 0x180 | 0x280 | 0x680 => if satpOk v then h.setCsr n (if n = 0x680 then v &&& 0xF3FFFFFFFFFFFFFF else v) else h
  | 0x10A | 0x30A | 0x60A =>
    -- CBIE takes 00 and 01 only (R396)
    let v := if fieldOf v 5 4 < 2 then v else putField v 5 4 (h.fld n 5 4)
    -- PMM takes 0, 2 and 3 only
    let v := if fieldOf v 33 32 = 1 then putField v 33 32 (h.fld n 33 32) else v
    h.maskCsr n ((csrPlain n).getD 0) v
  | 0x3A0 | 0x3A2 => h.setCsr n (pmpCfgWrite (h.csr n) v)
  | 0x35C | 0x15C | 0x25C => (match h.fileOf n with | some f => h.setPending f (h.fileTop f) false | none => h)
  | 0x309 => h.maskCsr 0x344 (if h.bit 0x30A 63 then 0x202 else 0x222) v
  | 0x600 => h.maskCsr n ((csrPlain n).getD 0) (if fieldOf v 49 48 = 1 then putField v 49 48 (h.fld n 49 48) else v)
  | 0x351 | 0x151 | 0x251 => if h.prioSel n then h else (match (h.fileOf n).bind (fun f => h.fileWrite f (h.csr (n - 1)).toNat v) with | some h => h | none => h)
  | _ =>
    if 0x3B0 ≤ n ∧ n < 0x3C0 ∧ h.pmpLocked (n - 0x3B0) then h
    else match csrPlain n with
      | some m => h.maskCsr n m v
      | none => h

/-- Whether a CSR exists for the hart at its privilege: illegal (2), a virtual instruction (22), or permitted (0) (log 25). -/
def Hart.csrAllowed (h : Hart) (n : Nat) : Nat :=
  let need := n / 256 % 4
  let fp := decide (1 ≤ n ∧ n ≤ 3)
  let vec := decide (8 ≤ n ∧ n ≤ 0xF) || decide (0xC20 ≤ n ∧ n ≤ 0xC22)
  let fsOff := (fp && h.fld 0x300 14 13 == 0) || (vec && h.fld 0x300 10 9 == 0)
  let vsOff := h.virt && ((fp && h.fld 0x200 14 13 == 0) || (vec && h.fld 0x200 10 9 == 0))
  let ctr := if 0xC00 ≤ n ∧ n < 0xC20 then some (n - 0xC00) else none
  let ctrM : Bool := match ctr with | some i => h.lvl == 3 || h.bit 0x306 i | none => true
  let ctrH : Bool := match ctr with | some i => !h.virt || h.bit 0x606 i | none => true
  let ctrS : Bool := match ctr with | some i => h.lvl != 0 || h.bit 0x106 i | none => true
  if n = 0x180 ∧ h.priv = 1 ∧ h.bit 0x300 20 then 2
  else if n = 0x180 ∧ h.priv = 5 ∧ h.bit 0x600 20 then 22
  else if fsOff || vsOff then 2
  else if !ctrM then 2
  else if !ctrH then 22
  else if !ctrS then (if h.virt then 22 else 2)
  else if h.stateen n = 2 then 2
  else if n = 0x14D ∧ h.lvl < 3 ∧ !h.bit 0x30A 63 then 2
  else if n = 0x14D ∧ h.virt ∧ !h.bit 0x60A 63 then 22
  else if (n = 0x104 ∨ n = 0x144) ∧ h.priv = 5 ∧ h.bit 0x609 30 then 22
  else if need = 3 then (if h.lvl = 3 then 0 else 2)
  else if need = 2 then (if h.virt then (if h.lvl = 1 then 22 else 2) else if 1 ≤ h.lvl then 0 else 2)
  else if need = 1 then (if 1 ≤ h.lvl then h.stateen n else if h.virt then 22 else 2)
  else 0

end Sys2Proof.Machine
end

