-- ==== Sys2Proof/Machine/Queues.lean ====
section
/-! DEFINITION. Functions, submission and completion queues, doorbells, and the commands whose effect lies in the queues, the translation
and the bias of pages (R426 to R437). Commands on kernels, harts, resets, configurations and management stand with their units. -/

namespace Sys2Proof.Machine

/-! ## Slots -/

/-- A command slot from its bytes (Table 15-9a); `rsvd` says that a byte or flag that must be zero is not. -/
def slotOf (b : List Byte) : Slot :=
  let flags := b.getD 1 0
  let big := decide (64 < b.length)
  let inl := flags.getLsbD 1
  { opcode := leAt b 0 1, flags := flags, cid := BitVec.ofNat 16 (leAt b 2 2), target := leAt b 4 2, arg0 := BitVec.ofNat 64 (leAt b 8 8),
    arg1 := BitVec.ofNat 64 (leAt b 16 8), arg2 := BitVec.ofNat 32 (leAt b 24 4), extra := b.drop 32,
    rsvd := decide (8 ≤ flags.toNat) || leAt b 6 2 != 0 || (inl && !big) || (!inl && !(b.drop 32).all (· == 0)) }

/-- The slot size of a partition (R67). -/
def State.slotSize (s : State) (p : Nat) : Nat := if (s.linkPart p).slot256 then 256 else 64

/-- The commands of Table 15-9: opcode and queue type (0 any, 1 admin, 2 management). -/
def cmdTable : List (Nat × Nat) :=
  [(0x01, 1), (0x02, 1), (0x03, 1), (0x04, 1), (0x05, 1), (0x10, 1), (0x11, 1), (0x12, 1), (0x18, 1), (0x20, 1), (0x21, 1), (0x22, 1),
   (0x23, 1), (0x24, 1), (0x28, 1), (0x30, 2), (0x31, 2), (0x32, 2), (0x33, 2), (0x40, 0), (0x41, 0), (0x42, 0)]

/-- The queue type of an opcode. -/
def cmdType (op : Nat) : Option Nat := (cmdTable.find? (fun x => x.1 == op)).map (·.2)

/-! ## Fetching (R430, R431) -/

/-- The stamp of a queue's next slot (R430). -/
def Sq.stamp (k : Sq) : Nat := 0x80000000 + k.n % 2 ^ 31

/-- What a read of a slot finds: its bytes, that the read waits for the line, or an error code. -/
inductive SlotRead where
  | bytes (s : State) (b : List Byte)
  | waits (s : State)
  | error (code : Nat)

/-- A read of a range of the Pool by the device's queues: its memory in service (R90), its lines free, backed and not poisoned. -/
def State.poolFetch (s : State) (a n : Nat) : SlotRead :=
  match s.rangeError a n with
  | some e => .error e
  | none =>
    let (s, free) := s.rangeFree a n false
    if !free then .waits s
    else match s.readLocal a n with
      | none => .error 4
      | some (s, b, bad) => if bad then .error 0x119 else .bytes s b

/-- A read at a command address: of the Pool, or what companion memory answered (R432). -/
def State.cmdFetch (s : State) (p : Nat) (addr : DWord) (n : Nat) (ext : List Byte) : SlotRead :=
  if bitAt addr.toNat 63 then (if s.hostReachable p then .bytes s (ext.take n) else .error 5) else s.poolFetch (bits addr.toNat 41 0) n

/-- Reads the slot at a queue's head: from the Pool, whose memory is in service (R90), or the `i`-th slot of the bytes that companion memory answered; the read
waits where these hold no such slot. -/
def State.readSlot (s : State) (p : Nat) (k : Sq) (i : Nat) (ext : List Byte) : SlotRead :=
  let size := s.slotSize p
  if bitAt k.base.toNat 63 then (if ext.length < (i + 1) * size then .waits s else .bytes s ((ext.drop (i * size)).take size))
  else s.poolFetch (bits k.base.toNat 41 0 + k.head * size) size

/-- The result of a command that its queue's deletion aborts before it starts (R434). -/
def abortedCmd (c : Slot) : CmdResult := { cid := c.cid, quiet := false, code := 10, detail := 0, body := [] }

/-- Fetches slots from head to tail in order while the stamps match and fewer than eight wait to start; a stamp that does not match is read
again later (R431). A queue that is being deleted ends each command it reads with ABORTED (R434). -/
def State.fetchSlots (s : State) (p q : Nat) (ext : List Byte) (i fuel : Nat) : State :=
  match fuel with
  | 0 => s
  | fuel + 1 =>
    match s.sq p q with
    | none => s
    | some k =>
      if k.stopped ≠ 0 ∨ k.head = k.tail ∨ (k.deleting.isNone ∧ 8 ≤ k.fetched.length) then s
      else match s.readSlot p k i ext with
        | .waits s => s
        | .error c => (s.setSq p q (some { k with stopped := c })).queueError p q c k.head k.stamp 0
        | .bytes s b =>
          let got := leAt b 28 4
          if got = k.stamp then
            let s := s.setSq p q (some { k with
              fetched := if k.deleting.isSome then k.fetched else k.fetched ++ [slotOf b],
              results := if k.deleting.isSome then k.results ++ [abortedCmd (slotOf b)] else k.results, head := (k.head + 1) % k.entries, n := k.n + 1, rereads := 0 })
            s.fetchSlots p q ext (i + 1) fuel
          else if k.rereads < 6 then s.setSq p q (some { k with rereads := k.rereads + 1 })
          else (s.setSq p q (some { k with stopped := 7 })).queueError p q 7 k.head k.stamp got

/-- Whether a queue's doorbells are held: before the level that accepts its commands, or while its partition is quiescing or quiesced, the
admin queue excepted, which carries RESUME (R103, R427). -/
def State.bellHeld (s : State) (p q : Nat) : Bool :=
  q != 0 && (decide (s.level < 3) || s.partState p == 3 || s.partState p == 4)

/-- Holds a doorbell of a queue, a completion queue numbered from 4096; it replaces an earlier one of the queue that is not handled yet (R103,
R431). -/
def State.holdBell (s : State) (p q tail : Nat) (ext : List Byte) : State :=
  { s with heldBells := s.heldBells.filter (fun b => !(b.1 == p && b.2.1 == q)) ++ [(p, q, tail, ext)] }

/-- The error a doorbell of a queue that does not exist posts on admin completion queue 0 (R431). -/
def State.noQueue (s : State) (p q : Nat) : State :=
  s.cqPush p 0 (cqEntry (leBytes 2 q ++ leBytes 2 8 ++ leBytes 4 0) q 0 0 8 0 3 s.now)

/-- Handles a submission doorbell (R101, R103, R427, R431). -/
def State.sqBell (s : State) (p q tail : Nat) (ext : List Byte) : State :=
  if s.partState p = 5 then s
  else match s.sq p q with
    | none => s.noQueue p q
    | some k =>
      if k.stopped ≠ 0 then s.cqPush p 0 (cqEntry (leBytes 2 q ++ leBytes 2 k.stopped ++ leBytes 4 k.head) q 0 k.head k.stopped 0 3 s.now)
      else if s.bellHeld p q then s.holdBell p q tail ext
      else if k.entries ≤ tail then (s.setSq p q (some { k with stopped := 8 })).queueError p q 8 k.head k.stamp 0
      else if k.deleting.isSome then s
      else
        let s := s.setSq p q (some { k with tail := tail })
        if k.rereads = 0 then s.fetchSlots p q ext 0 9 else s

/-- SQ_DOORBELL (R431). -/
def execSqDoorbell (p : PartId) (queue : Nat) (tail : Word) (ext : List Byte) (s : State) : Outcome :=
  gate s (fun s => if queue < 4096 then s.sqBell p.val queue tail.toNat ext else s)

/-! ## Completion queues -/

/-- Writes the entries that waited while places are free (R435). -/
def State.drainCq (s : State) (p q fuel : Nat) : State :=
  match fuel with
  | 0 => s
  | fuel + 1 =>
    match s.cq p q with
    | none => s
    | some c =>
      match c.waiting with
      | [] => s
      | e :: es => if c.full then s else (s.writeEntry p q { c with waiting := es } e).drainCq p q fuel

/-- Handles a completion doorbell (R101, R103, R431, R435): a new head inside the ring frees places. One that comes in a partition reset is discarded,
and one of a quiescing or quiesced partition is held, the admin queue's excepted. -/
def State.cqBell (s : State) (p q head : Nat) : State :=
  if s.partState p = 5 then s
  else match s.cq p q with
  | none => s.noQueue p q
  | some c =>
    if q ≠ 0 ∧ (s.partState p = 3 ∨ s.partState p = 4) then s.holdBell p (q + 4096) head []
    else if head < c.entries then (s.setCq p q (some { c with head := head })).drainCq p q (c.waiting.length + 1) else s

/-- Processes the doorbells held for a partition, in arrival order (R103), or for every queue at SL3 (R427). -/
def State.releaseBells (s : State) (which : Nat → Bool) : State :=
  let bells := s.heldBells.filter (fun b => which b.1)
  overList { s with heldBells := s.heldBells.filter (fun b => !which b.1) } bells (fun s b =>
    if b.2.1 < 4096 then s.sqBell b.1 b.2.1 b.2.2.1 b.2.2.2 else s.cqBell b.1 (b.2.1 - 4096) b.2.2.1)

/-- CQ_DOORBELL (R431, R435). -/
def execCqDoorbell (p : PartId) (queue : Nat) (head : Word) (s : State) : Outcome :=
  gate s (fun s => if queue < 4096 then s.cqBell p.val queue head.toNat else s)

/-- A doorbell register at an offset of a function region or of its mirror (Table 15-7, R426): the slots of a ring in companion memory are read
later. -/
def State.bellAt (s : State) (p off : Nat) (v : Word) : State :=
  if off % 8 ≠ 0 then s
  else if off < 0x18000 then s.sqBell p ((off - 0x10000) / 8) v.toNat []
  else if off < 0x28000 then s.cqBell p ((off - 0x20000) / 8) v.toNat
  else s

/-- CQ_INTERRUPT_TIMER (R437). -/
def execCqInterruptTimer (p : PartId) (queue : Nat) (s : State) : Outcome :=
  gate s (fun s =>
    match s.cq p.val queue with
    | none => s
    | some c =>
      match c.vector with
      | none => s
      | some v => if c.unsent = 0 then s else (s.setCq p.val queue (some { c with unsent := 0 })).signalAfter p.val v)

/-- JXL_MSI_WRITE (R437, Table 15-7): clearing MASK signals a pending vector. -/
def State.msiWrite (s : State) (p v : Nat) (addr : DWord) (value : Word) (mask : Bool) : State :=
  if v < 4096 then
    let f := s.fn p
    let e := f.msi.get MsiEntry.reset v
    let s := s.setFn p { f with msi := f.msi.set MsiEntry.reset v { addr := addr, value := value, mask := mask, pending := e.pending && mask } }
    if e.pending && !mask then s.signal p v else s
  else s

/-- JXL_MSI_WRITE (R437). -/
def execJxlMsiWrite (p : PartId) (v : Nat) (addr : DWord) (value : Word) (mask : Bool) (s : State) : Outcome :=
  gate s (fun s => s.msiWrite p.val v addr value mask)

/-! ## Deleting queues -/

/-- Ends the deletion of a submission queue whose started commands have completed, and whose others are aborted; a function that is not enabled loses its completion
queues with its last submission queue (R427, R434). -/
def State.settleDelete (s : State) (p q : Nat) : State :=
  match s.sq p q with
  | none => s
  | some k =>
    match k.deleting with
    | none => s
    | some d =>
      if k.running.isEmpty && k.results.isEmpty && (k.head == k.tail || k.stopped != 0) then
        let s := s.setSq p q none
        let s := match d with | some cid => s.finishCmd p 0 cid 0 0 | none => s
        if !(s.fn p).enable && !s.sqs.cells.any (fun c => c.1 / 4096 == p) then { s with cqs := s.cqs.drop (fun c => c / 4096 == p) } else s
      else s

/-- STAMP_REPOLL (R431): the slot at the head is read again; after the read at 63 µs the queue stops with STAMP. A queue
that is being deleted may end with it. -/
def execStampRepoll (p : PartId) (queue : Nat) (ext : List Byte) (s : State) : Outcome :=
  gate s (fun s => (s.fetchSlots p.val queue ext 0 9).settleDelete p.val queue)

/-- Begins the deletion of a submission queue: commands not yet started, those not fetched yet too, complete with ABORTED (R434). -/
def State.deleteSq (s : State) (p q : Nat) (cid : Option (BitVec 16)) : State :=
  match s.sq p q with
  | none => s
  | some k =>
    let s := s.setSq p q (some { k with fetched := [], results := k.results ++ k.fetched.map abortedCmd, deleting := some cid })
    (if k.rereads = 0 then s.fetchSlots p q [] 0 (k.entries + 1) else s).settleDelete p q

/-- The queues of a function that exist. -/
def State.fnQueues (s : State) (p : Nat) : List Nat := (s.sqs.cells.filter (fun c => c.1 / 4096 == p)).map (fun c => c.1 % 4096)

/-- The TYPE 4 report of a function (R443). -/
def State.lostReport (s : State) (p : Nat) : State :=
  let f := s.fn p
  let body := leBytes 4 f.episode ++ leBytes 4 (f.lostCount.cells.length) ++ leBytes 8 f.lostTotal ++ leBytes 8 f.lostTime.toNat ++ leBytes 1 f.lostCause
  (s.setFn p { f with reportDue := false }).postEvent p 4 body

/-- Whether a ring is one the queue rules allow (R428, R432). -/
def State.ringOk (s : State) (p : Nat) (base : DWord) (entries size : Nat) (write : Bool) : Bool :=
  entries.isPowerOfTwo && decide (16 ≤ entries) && decide (entries ≤ 65536) && s.cmdAddrOk p base (entries * size) write

/-- Writes ENABLE (R427, R443): setting it creates the admin queues from the base and size registers, and reports a companion lost that is
due; a base or size out of range leaves it clear. Clearing it deletes every queue of the function. -/
def State.fnEnable (s : State) (p : Nat) (enable : Bool) : State :=
  let f := s.fn p
  if !(s.partEntry p).isSome || decide (s.level < 1) then s
  else if enable then
    let sqn := 2 ^ bits f.adminSize.toNat 4 0
    let cqn := 2 ^ bits f.adminSize.toNat 12 8
    if f.enable && !f.reportDue then s
    else if !(s.ringOk p f.sqBase sqn (s.slotSize p) false && s.ringOk p f.cqBase cqn 64 true) then s
    else
      let s := { s with sqs := s.sqs.drop (fun c => c / 4096 == p), cqs := s.cqs.drop (fun c => c / 4096 == p) }
      let s := s.setFn p { f with enable := true, lost := false }
      let s := s.setCq p 0 (some { base := f.cqBase, entries := cqn, head := 0, tail := 0, phase := true, vector := none, count := 0, micros := 0, unsent := 0, waiting := [] })
      let s := s.setSq p 0 (some {
        base := f.sqBase, entries := sqn, cq := 0, weight := 1, head := 0, tail := 0, n := 0, stopped := 0, rereads := 0, fetched := [], running := [],
        results := [], deleting := none })
      if f.reportDue then s.lostReport p else s
  else
    let s := s.setFn p { f with enable := false, lostCount := ⟨[]⟩ }
    let s := overList s (s.fnQueues p) (fun s q => s.deleteSq p q none)
    if s.sqs.cells.any (fun c => c.1 / 4096 == p) then s else { s with cqs := s.cqs.drop (fun c => c / 4096 == p) }

/-- FN_ENABLE (R427). -/
def execFnEnable (p : PartId) (enable : Bool) (s : State) : Outcome := gate s (fun s => s.fnEnable p.val enable)

/-- COMMAND_COMPLETION (R435): the entry of a finished command is written once every write to companion memory that its queue's commands issued is
performed, but for a QUIET command that succeeded. -/
def execCommandCompletion (p : PartId) (queue : Nat) (cid : BitVec 16) (s : State) : Outcome :=
  gate s (fun s =>
    match s.sq p.val queue with
    | none => s
    | some k =>
      match k.results.find? (fun r => r.cid == cid) with
      | none => s
      | some r =>
        if s.writesOf p.val (some queue) then s else
        let s := s.setSq p.val queue (some { k with results := k.results.erase r })
        let s := if r.quiet && r.code == 0 then s else
          s.cqPush p.val k.cq (cqEntry r.body queue r.cid k.head r.code r.detail 0 s.now)
        s.settleDelete p.val queue)

/-! ## Starting commands -/

/-- Ends the commands at the front of a queue that no row of Table 15-9 names or whose reserved fields are set (R434). -/
def Sq.dropBad (k : Sq) (fuel : Nat) : Sq :=
  match fuel with
  | 0 => k
  | fuel + 1 =>
    match k.fetched with
    | [] => k
    | c :: cs =>
      if (cmdType c.opcode).isNone || c.rsvd then
        ({ k with fetched := cs, results := k.results ++ [{ cid := c.cid, quiet := false, code := 1, detail := 0, body := [] }] } : Sq).dropBad fuel
      else k

/-- Whether the command at the front of a queue may start: a FENCE waits for every earlier command to complete (R433). -/
def Sq.canStart (k : Sq) : Bool :=
  k.stopped == 0 && k.deleting.isNone &&
    (match k.fetched with
    | [] => false
    | c :: _ => !c.flags.getLsbD 0 || (k.running.isEmpty && k.results.isEmpty))

/-- Whether a queue of number 1 or above has its turn: each starts up to WEIGHT commands of a round, in which the order of the queues is the caller's
choice, and a new round begins once no other queue has a command to start and a share left (R433; log 43). -/
def State.turnOf (s : State) (p q : Nat) : Bool :=
  let left (k : Sq) : Bool := decide (k.used < k.weight)
  (match s.sq p q with | some k => left k | none => true)
    || !s.sqs.cells.any (fun c => c.1 / 4096 == p && c.1 % 4096 != 0 && c.1 % 4096 != q && (match c.2 with | some k => k.canStart && left k | none => false))

/-- Counts a command that a queue starts towards its share of the round; a queue whose share is used up begins a new round (R433). -/
def State.countTurn (s : State) (p q : Nat) : State :=
  match s.sq p q with
  | none => s
  | some k =>
    if q = 0 then s
    else if k.used < k.weight then s.setSq p q (some { k with used := k.used + 1 })
    else
      let s := { s with sqs := ⟨s.sqs.cells.map (fun (c : Nat × Option Sq) => (c.1, if c.1 / 4096 = p then c.2.map (fun (k : Sq) => { k with used := 0 }) else c.2))⟩ }
      s.setSq p q (some { k with used := 1 })

/-- Whether a queue's commands start at all: its level is reached, its partition is neither quiescing, quiesced nor in reset, and the admin
queue, which has strict priority, has none to start, and it has its turn (R101, R103, R427, R433). -/
def State.queueRuns (s : State) (p q : Nat) : Bool :=
  s.partState p != 5 && decide ((if q = 0 then 1 else 3) ≤ s.level) &&
    (q == 0 || (s.partState p != 3 && s.partState p != 4 && !((s.sq p 0).map Sq.canStart).getD false && s.turnOf p q))

/-- Starts the command at the front of a queue where it has the opcode asked for: it joins the running ones. -/
def State.takeCmd (s : State) (p q op : Nat) : Option (State × Slot) :=
  match s.sq p q with
  | none => none
  | some k =>
    let k := k.dropBad (k.fetched.length + 1)
    if k.canStart then
      match k.fetched with
      | [] => none
      | c :: cs => if c.opcode = op then
          let s := (s.setSq p q (some { k with fetched := cs, running := k.running ++ [c] })).countTurn p q
          some (if k.rereads = 0 then s.fetchSlots p q [] 0 9 else s, c)
        else none
    else none

/-- Runs a command of Table 15-9: one outside its queue type ends in WRONG_QUEUE; with no such command at the front only the refused ones
before it end. -/
def runCmd (p : PartId) (q op : Nat) (s : State) (f : State → Slot → State) : Outcome :=
  gate s (fun s =>
    if s.queueRuns p.val q then
      match s.takeCmd p.val q op with
      | none => match s.sq p.val q with | some k => s.setSq p.val q (some (k.dropBad (k.fetched.length + 1))) | none => s
      | some (s, c) =>
        match cmdType op with
        | some 1 => if q = 0 then f s c else s.finishCmd p.val q c.cid 2 0
        | some 2 => if q = 0 ∧ p = 0 then f s c else s.finishCmd p.val q c.cid 2 0
        | _ => f s c
    else s)

/-- A command that ends with a code at once; the detail names the tag, core, die or hart concerned (Table 15-10). -/
def State.endCmd (s : State) (p : PartId) (q : Nat) (c : Slot) (code : Nat) (detail : Nat := 0) : State := s.finishCmd p.val q c.cid code detail

/-! ## Commands on queues -/

/-- QUEUE_CREATE (R428, R434). -/
def execQueueCreate (p : PartId) (q : Nat) (s : State) : Outcome :=
  runCmd p q 0x01 s (fun s c =>
    let entries := fieldOf c.arg1 31 0
    let cq := fieldOf c.arg1 47 32
    let w := fieldOf c.arg1 55 48
    if c.target = 0 ∨ (s.linkPart p.val).queues ≤ c.target ∨ (s.sq p.val c.target).isSome ∨ (s.cq p.val cq).isNone ∨ 4096 ≤ cq ∨ w = 0
        ∨ fieldOf c.arg1 63 56 ≠ 0 ∨ entries < 16 ∨ 65536 < entries ∨ !entries.isPowerOfTwo then s.endCmd p q c 1
    else if s.cmdAddrOk p.val c.arg0 (entries * s.slotSize p.val) false then
      let s := s.setSq p.val c.target (some {
        base := c.arg0, entries := entries, cq := cq, weight := w, head := 0, tail := 0, n := 0, stopped := 0, rereads := 0, fetched := [],
        running := [], results := [], deleting := none })
      s.endCmd p q c 0
    else s.endCmd p q c 4)

/-- QUEUE_DELETE (R434): completes when every started command of the queue has completed. -/
def execQueueDelete (p : PartId) (q : Nat) (s : State) : Outcome :=
  runCmd p q 0x02 s (fun s c =>
    match s.sq p.val c.target with
    | some k => if c.target = 0 ∨ 4096 ≤ c.target ∨ k.deleting.isSome then s.endCmd p q c 1 else s.deleteSq p.val c.target (some c.cid)
    | none => s.endCmd p q c 1)

/-- QUEUE_RESET (R434): new head and tail and the next command's number; a stopped queue runs again. -/
def execQueueReset (p : PartId) (q : Nat) (s : State) : Outcome :=
  runCmd p q 0x03 s (fun s c =>
    match s.sq p.val c.target with
    | some k =>
      let h := fieldOf c.arg1 31 0
      if k.entries ≤ h ∨ 4096 ≤ c.target ∨ k.deleting.isSome then s.endCmd p q c 1
      else (s.setSq p.val c.target (some { k with head := h, tail := h, n := fieldOf c.arg1 63 32, stopped := 0, rereads := 0 })).endCmd p q c 0
    | none => s.endCmd p q c 1)

/-- CQ_CREATE (R428, R434). -/
def execCqCreate (p : PartId) (q : Nat) (s : State) : Outcome :=
  runCmd p q 0x04 s (fun s c =>
    let entries := fieldOf c.arg1 31 0
    let v := fieldOf c.arg1 47 32
    if c.target = 0 ∨ (s.linkPart p.val).queues ≤ c.target ∨ (s.cq p.val c.target).isSome ∨ 4096 ≤ v ∨ fieldOf c.arg1 62 48 ≠ 0
        ∨ entries < 16 ∨ 65536 < entries ∨ !entries.isPowerOfTwo then s.endCmd p q c 1
    else if s.cmdAddrOk p.val c.arg0 (entries * 64) true then
      let s := s.setCq p.val c.target (some {
        base := c.arg0, entries := entries, head := 0, tail := 0, phase := true, vector := if c.arg1.getLsbD 63 then none else some v,
        count := bits c.arg2.toNat 15 0, micros := bits c.arg2.toNat 31 16, unsent := 0, waiting := [] })
      s.endCmd p q c 0
    else s.endCmd p q c 4)

/-- CQ_DELETE (R434): refused with BUSY while a submission queue names it. -/
def execCqDelete (p : PartId) (q : Nat) (s : State) : Outcome :=
  runCmd p q 0x05 s (fun s c =>
    if c.target = 0 ∨ 4096 ≤ c.target ∨ (s.cq p.val c.target).isNone then s.endCmd p q c 1
    else if (s.fnQueues p.val).any (fun x => match s.sq p.val x with | some k => k.cq == c.target | none => false) then s.endCmd p q c 6
    else (s.setCq p.val c.target none).endCmd p q c 0)

/-! ## Commands on translation and bias -/

/-- An address-space descriptor from its bytes, where it follows every rule (R376, R381). -/
def asDescOf (b : List Byte) : Option AsDesc :=
  let root : DWord := BitVec.ofNat 64 (leAt b 0 8)
  let ws : List (Nat × Nat × Nat) := (List.range 4).map (fun w => (leAt b (0x10 + 0x18 * w) 8, leAt b (0x18 + 0x18 * w) 8, leAt b (0x20 + 0x18 * w) 8))
  let used := ws.filter (fun w => w.2.2 != 0)
  let apart (f : Nat × Nat × Nat → Nat) : Bool := used.Pairwise (fun x y => f x + x.2.2 ≤ f y ∨ f y + y.2.2 ≤ f x)
  if fieldOf root 63 60 = 10 ∧ leAt b 10 1 < 2 ∧ leAt b 11 5 = 0 ∧ leAt b 0x70 8 = 0 ∧ leAt b 0x78 8 = 0
      ∧ ws.all (fun w => w.1 % 4096 == 0 && w.2.1 % 4096 == 0 && w.2.2 % 4096 == 0 && decide (w.2.1 + w.2.2 ≤ 2 ^ 56))
      ∧ apart (·.1) ∧ apart (·.2.1) then
    some { root := root, faultCq := leAt b 8 2, adu := bitAt (leAt b 10 1) 0,
           windows := ws.map (fun w => (BitVec.ofNat 64 w.1, BitVec.ofNat 64 w.2.1, BitVec.ofNat 64 w.2.2)) }
  else none

/-- The descriptor bound to a slot of a partition. -/
def State.asSlot (s : State) (p slot : Nat) : Option AsDesc := s.slots.get none (p * 256 + slot)

/-- AS_BIND (R381): the descriptor's memory is in service (R90), and its line free, or the command waits. -/
def execAsBind (p : PartId) (q : Nat) (s0 : State) : Outcome :=
  runCmd p q 0x10 s0 (fun s c =>
    if 256 ≤ c.target then s.endCmd p q c 1
    else if s.launches.cells.any (fun l => l.2.started && l.2.part == p.val && l.2.slot == c.target) then s.endCmd p q c 0x11E
    else if c.arg0.getLsbD 63 ∨ c.arg0.toNat % 128 ≠ 0 then s.endCmd p q c 0x11F
    else if !s.cmdAddrOk p.val c.arg0 128 false then s.endCmd p q c 4
    else match s.poolFetch c.arg0.toNat 128 with
      | .error e => s.endCmd p q c (if e = 0x119 then 0x11F else e)
      | .waits _ => (s0.rangeFree c.arg0.toNat 128 false).1
      | .bytes s b =>
        match asDescOf b with
        | none => s.endCmd p q c 0x11F
        | some d => ({ s with slots := s.slots.set none (p.val * 256 + c.target) (some d) }).endCmd p q c 0)

/-- Whether an agent of a partition's cores has an access to a remote node or companion memory that is not performed yet. -/
def State.coresOut (s : State) (p : Nat) : Bool :=
  let mine (a : RemAgent) : Bool := match a with | .core c _ => s.corePart c == some p | _ => false
  s.remotes.cells.any (fun x => match x.2 with | some r => mine r.agent && r.reply.isNone | none => false) || s.hostWrites.any (fun w => mine w.agent)

/-- XL_INVAL (R385): it waits until the partition's cores have no access outstanding; every other access is performed within its step. -/
def execXlInval (p : PartId) (q : Nat) (s0 : State) : Outcome :=
  runCmd p q 0x11 s0 (fun s c =>
    if s0.coresOut p.val then s0 else
    if 256 ≤ c.target then s.endCmd p q c 1
    else
      let cores := s.partCores p.val
      let lo := if c.arg1 = 0 then 0 else c.arg0.toNat
      let hi := if c.arg1 = 0 then 2 ^ 65 else c.arg0.toNat + c.arg1.toNat
      let s := s.xlDiscard cores p.val c.target lo hi
      let s := overList s ((cores.map coreDie).dedup) (fun s d => s.inc64 d 0x70028)
      s.endCmd p q c 0)

/-- BIAS_SET (R424). -/
def execBiasSet (p : PartId) (q : Nat) (s : State) : Outcome :=
  runCmd p q 0x18 s (fun s c =>
    let a := c.arg0.toNat
    let n := c.arg1.toNat
    if 1 < c.target ∨ a % 4096 ≠ 0 ∨ n % 4096 ≠ 0 ∨ 2 ^ 32 < n then s.endCmd p q c 1
    else
      let pages := (List.range (n / 4096)).map (fun i => a / 4096 + i)
      if pages.all (fun g => (s.windowOf p.val (g * 4096) false false).isSome) then
        s.startFlip pages (c.target == 1) none (some (p.val, q, c.cid))
      else s.endCmd p q c 4)

/-- STATUS_READ (R434): the 160 bytes at offsets 0x2_0100 to 0x2_019F of die 94. -/
def execStatusRead (p : PartId) (q : Nat) (s : State) : Outcome :=
  runCmd p q 0x28 s (fun s c =>
    if s.cmdAddrOk p.val c.arg0 160 true then
      match s.cmdError c.arg0 160 with
      | some e => s.endCmd p q c e
      | none =>
      let b := (List.range 40).flatMap (fun i => leBytes 4 (s.csrWord 94 (0x20100 + 4 * i)).toNat)
      (s.cmdWrite p.val (some q) c.arg0 b).endCmd p q c (if bitAt c.arg0.toNat 63 && !s.hostReachable p.val then 5 else 0)
    else s.endCmd p q c 4)

/-- WRITE_INLINE (R434). -/
def execWriteInline (p : PartId) (q : Nat) (s : State) : Outcome :=
  runCmd p q 0x41 s (fun s c =>
    let n := c.arg2.toNat
    if n = 0 ∨ 224 < n ∨ !c.flags.getLsbD 1 then s.endCmd p q c 1
    else if s.cmdAddrOk p.val c.arg0 n true then
      match s.cmdError c.arg0 n with
      | some e => s.endCmd p q c e
      | none => (s.cmdWrite p.val (some q) c.arg0 (c.extra.take n)).endCmd p q c (if bitAt c.arg0.toNat 63 && !s.hostReachable p.val then 5 else 0)
    else s.endCmd p q c 4)

/-- NOP (R434). -/
def execNop (p : PartId) (q : Nat) (s : State) : Outcome := runCmd p q 0x42 s (fun s c => s.endCmd p q c 0)

/-! ## Commands on harts and partitions -/

/-- A partition that is held runs from its first hart or kernel (Table 3-3; log 22). -/
def State.partRuns (s : State) (p : Nat) : State := if s.partState p = 1 then s.setPartState p 2 else s

/-- HART_START (R403): in a quiesced partition the hart is halted until RESUME (R103). -/
def execHartStart (p : PartId) (q : Nat) (s : State) : Outcome :=
  runCmd p q 0x20 s (fun s c =>
    let h := c.target
    if 256 ≤ h ∨ s.hartPart h ≠ some p.val then s.endCmd p q c 1
    else if s.level < 2 then s.endCmd p q c 3 h
    else if (s.hart h).state ≠ 0 ∨ (s.hart h).fenced then s.endCmd p q c 0x120 h
    else
      let k := s.hart h
      let k := { Hart.reset with
        pc := c.arg0, priv := 3, state := if s.partState p.val = 4 then 5 else 1, dropped := k.dropped, files := k.files,
        x := (Map.set 0 (Map.set 0 ⟨[]⟩ 10 (BitVec.ofNat 64 h)) 11 c.arg1) }
      ((s.setHart h k).partRuns p.val).endCmd p q c 0 h)

/-- QUIESCE (R103, R104): the partition begins to quiesce, and the command waits; one that arrives during a partition reset fails with
"reset in progress". -/
def execQuiesce (p : PartId) (q : Nat) (s : State) : Outcome :=
  if s.phase = .running ∧ s.partState p.val = 5 then
    match s.takeCmd p.val q 0x21 with
    | some (s, c) => .next (s.endCmd p q c (if q = 0 then 0x11D else 2))
    | none => .next s
  else
    runCmd p q 0x21 s (fun s c =>
      let t := c.arg2.toNat
      if t = 0 ∨ 10000 < t then s.endCmd p q c 1
      else if s.partState p.val = 4 then s.endCmd p q c 0
      else if s.partState p.val = 3 then s.endCmd p q c 6
      else { s.setPartState p.val 3 with partWork := s.partWork.set none p.val (some { cmd := some (p.val, q, c.cid) }) })

/-- Resumes a quiesced partition: halted harts continue, and the doorbells held are processed in arrival order (R103). The partition reads 2,
whatever it read before it was quiesced, and a hart that waited when it was halted continues without the wait (DESIGN CHOICE, log 62). -/
def State.resumePart (s : State) (p q : Nat) (cid : BitVec 16) : State :=
  if s.partState p = 4 then
    let s := s.setPartState p 2
    let s := overList s (s.partHarts p) (fun s h => if (s.hart h).state = 5 then s.setHart h { s.hart h with state := 1 } else s)
    (s.finishCmd p q cid 0 0).releaseBells (fun x => x == p)
  else s.finishCmd p q cid 1 0

/-- Whether a delta that is being applied lists a partition in DELTA_PARTS (R86, R104). -/
def State.inDelta (s : State) (p : Nat) : Bool :=
  match s.delta with
  | some d => bitAt (leAt d.image 0x14 1) p
  | none => false

/-- RESUME (R86, R103): one of a partition that a delta lists waits until the delta completes or fails. -/
def execResume (p : PartId) (q : Nat) (s : State) : Outcome :=
  runCmd p q 0x22 s (fun s c =>
    if s.inDelta p.val then { s with delta := s.delta.map (fun d => { d with resumes := d.resumes ++ [(p.val, q, c.cid)] }) }
    else s.resumePart p.val q c.cid)

end Sys2Proof.Machine
end

