-- ==== Sys2Proof/Machine/HartMem.lean ====
section
/-! DEFINITION. A hart's accesses: physical memory protection and the CSR window (R399), translation with the Strelnen fields (R398) and the
hypervisor's second stage, and loads, stores and atomics through the L2 (R366, R392, R396, R397, R400). -/

namespace Sys2Proof.Machine

/-! ## Results -/

/-- What an access answers: a value, that the hart waits, or an exception. -/
inductive HRes (α : Type) where
  | ok (s : State) (a : α)
  | wait (s : State)
  | trap (s : State) (t : HTrap)

/-- Goes on with a value. -/
def HRes.bind {α β : Type} (r : HRes α) (f : State → α → HRes β) : HRes β :=
  match r with
  | .ok s a => f s a
  | .wait s => .wait s
  | .trap s t => .trap s t

/-- How an access is made: read, write, fetch, or both (an AMO), with the privilege it is checked at and the pointer-masking mode of that
privilege (Ssnpm; log 25). -/
structure HAcc where
  write : Bool
  fetch : Bool
  amo   : Bool
  priv  : Nat
  mxr   : Bool
  pmm   : Nat := 0
deriving DecidableEq, Repr

/-- The exceptions of an access: page fault, access fault, misaligned, and guest page fault. -/
def HAcc.page (a : HAcc) : Nat := if a.fetch then 12 else if a.write then 15 else 13
def HAcc.access (a : HAcc) : Nat := if a.fetch then 1 else if a.write then 7 else 5
def HAcc.misaligned (a : HAcc) : Nat := if a.write then 6 else 4
def HAcc.guest (a : HAcc) : Nat := if a.fetch then 20 else if a.write then 23 else 21

/-- The pointer-masking mode at a privilege: senvcfg's in user mode, henvcfg's in a virtual supervisor; none while MXR acts (log 25). -/
def Hart.pmmAt (h : Hart) (priv : Nat) : Nat :=
  if h.bit 0x300 19 ∨ (4 ≤ priv ∧ h.bit 0x200 19) then 0
  else match priv with | 0 | 4 => h.fld 0x10A 33 32 | 5 => h.fld 0x60A 33 32 | _ => 0

/-- A load, a store, or an atomic at the hart's own privilege, which MPRV lowers in machine mode. -/
def Hart.acc (h : Hart) (write amo : Bool) : HAcc :=
  let priv := if h.priv = 3 ∧ h.bit 0x300 17 then (let p := h.fld 0x300 12 11; p + (if p ≠ 3 ∧ h.bit 0x300 39 then 4 else 0)) else h.priv
  { write := write, fetch := false, amo := amo, priv := priv, mxr := false, pmm := h.pmmAt priv }
def Hart.fetchAcc (h : Hart) : HAcc := { write := false, fetch := true, amo := false, priv := h.priv, mxr := false }

/-! ## Physical memory protection (Table 14-1, R399) -/

/-- The range of a PMP entry: none where it is off. Granularity is 4 KiB. -/
def Hart.pmpRange (h : Hart) (i : Nat) : Option (Nat × Nat) :=
  let a (i : Nat) : Nat := (h.csr (0x3B0 + i)).toNat
  match bits (h.pmpCfg i) 4 3 with
  | 1 => some (if i = 0 then 0 else a (i - 1) / 1024 * 4096, a i / 1024 * 4096)
  | 3 =>
    let v := Nat.lor (a i) 0x1FF
    let ones := ((List.range 54).find? (fun k => !bitAt v k)).getD 54
    some (v / 2 ^ (ones + 1) * 2 ^ (ones + 1) * 4, v / 2 ^ (ones + 1) * 2 ^ (ones + 1) * 4 + 2 ^ (ones + 3))
  | _ => none

/-- Whether PMP grants an access to a device physical address: by the first entry that holds it; without one only in machine mode. -/
def Hart.pmpOk (h : Hart) (a : HAcc) (pa : Nat) : Bool :=
  match (List.range 16).find? (fun i => match h.pmpRange i with | some (lo, hi) => decide (lo ≤ pa) && decide (pa < hi) | none => false) with
  | none => a.priv == 3
  | some i =>
    let c := h.pmpCfg i
    (a.priv == 3 && !bitAt c 7) || (if a.fetch then bitAt c 2 else (!a.write || bitAt c 1) && ((a.write && !a.amo) || bitAt c 0))

/-! ## Translation -/

/-- A physical address with its memory type, and whether it is a companion address (R379). -/
structure HAddr where
  pa   : Nat
  pbmt : Nat
  host : Bool
deriving DecidableEq, Repr

/-- An entry of a page table that lies in the Pool of this node, in a readable window of the hart's partition; none where it cannot be read
(R377, R399). -/
def State.hPte (s : State) (part : Option Nat) (pa : Nat) : Option DWord :=
  match s.dpa pa with
  | .here a =>
    (match (part.bind (fun p => s.windowOf p a false false)).bind (fun _ => s.place a) with
    | some ph =>
      let d := s.lineRead (ph / 128)
      if s.inService ph && s.setReady a && !d.2 then some (BitVec.ofNat 64 (leAt d.1 (ph % 128) 8)) else none
    | none => none)
  | _ => none

/-- A leaf's reserved fields: R377's with XPTE set, the architecture's without (R376, R398). -/
def Hart.leafBad (h : Hart) (pbmte : Bool) (p : DWord) (level : Nat) : Bool :=
  (if h.bit 0x7C0 0 then leafReserved p level
   else decide (3 ≤ level) || ptePpn p % 2 ^ (9 * level) != 0 || fieldOf p 60 54 != 0 || (pteN p && (level != 0 || ptePpn p % 16 != 8)) || ptePbmt p == 3)
    || (!pbmte && ptePbmt p != 0)

/-- Walks a table: `top` is the root's level, `wide` says that the root has 2,048 entries, `phys` turns a table entry's address into a
physical one. Answers the leaf and its level. -/
def hWalk (h : Hart) (part : Option Nat) (pbmte : Bool) (top : Nat) (wide : Bool) (va : Nat) (phys : State → Nat → HRes Nat) (pf af : HTrap) :
    Nat → State → Nat → Nat → HRes (DWord × Nat)
  | 0, s, _, _ => .trap s pf
  | fuel + 1, s, level, table =>
    let ix := va / 2 ^ (12 + 9 * level) % (if wide && level == top then 2048 else 512)
    (phys s (table * 4096 + ix * 8)).bind (fun s pa =>
      if !h.pmpOk { write := false, fetch := false, amo := false, priv := 1, mxr := false } pa then .trap s af
      else match s.hPte part pa with
        | none => .trap s af
        | some p =>
          if !pteV p || (!pteR p && pteW p) then .trap s pf
          else if pteLeaf p then (if h.leafBad pbmte p level then .trap s pf else .ok s (p, level))
          else if level = 0 || fieldOf p 63 54 != 0 || pteA p || pteD p || pteU p then .trap s pf
          else hWalk h part pbmte top wide va phys pf af fuel s (level - 1) (ptePpn p))

/-- The address a leaf gives (R377). -/
def leafAddr (p : DWord) (level va : Nat) : Nat :=
  if pteN p then ptePpn p / 16 * 2 ^ 16 + va % 2 ^ 16 else ptePpn p / 2 ^ (9 * level) * 2 ^ (12 + 9 * level) + va % 2 ^ (12 + 9 * level)

/-- A and D of a leaf: a page fault where one that the access needs is clear. Svadu is an option of the profile that Table 14-1 does not list
(R392; log 25). -/
def State.hAD (s : State) (a : HAcc) (p : DWord) (pf : HTrap) : HRes Unit :=
  if pteA p && (!a.write || pteD p) then .ok s () else .trap s pf

/-- Whether a leaf permits an access. -/
def leafPermits (a : HAcc) (user sum mxr : Bool) (p : DWord) : Bool :=
  (if a.fetch then pteX p else (!a.write || pteW p) && ((a.write && !a.amo) || pteR p || (mxr && pteX p)))
    && (if user then pteU p else !pteU p || (sum && !a.fetch))

/-- The levels of a satp-format MODE. -/
def satpTop (mode : Nat) : Nat := match mode with | 8 => 2 | 9 => 3 | _ => 4

/-- The second stage: a guest physical address through hgatp; every leaf must have U (log 25). -/
def State.hGuest (s : State) (h : Hart) (part : Option Nat) (a : HAcc) (va : DWord) (gpa : Nat) : HRes HAddr :=
  let g := h.csr 0x680
  let mode := fieldOf g 63 60
  let pf : HTrap := { cause := a.guest, tval := va, gpa := BitVec.ofNat 64 gpa }
  let af : HTrap := { cause := a.access, tval := va, gpa := 0 }
  if mode = 0 then .ok s { pa := gpa, pbmt := 0, host := false }
  else
    let top := satpTop mode
    if gpa / 2 ^ (14 + 9 * (top + 1)) ≠ 0 then .trap s pf
    else
      (hWalk h part (h.bit 0x30A 62) top true gpa (fun s pa => .ok s pa) pf af 5 s top (fieldOf g 43 0)).bind (fun s (p, level) =>
        if !leafPermits a true false (h.bit 0x300 19) p then .trap s pf
        else (s.hAD a p pf).bind (fun s _ =>
          let y := leafAddr p level gpa
          let host := h.bit 0x7C0 0 && pteH p
          if host && y / 2 ^ 52 != 0 then .trap s af else .ok s { pa := y, pbmt := ptePbmt p, host := host }))

/-- Whether a virtual address is the sign extension of the width its MODE has. -/
def vaOk (va : DWord) (top : Nat) : Bool :=
  let w := 12 + 9 * (top + 1)
  va.toNat / 2 ^ (w - 1) == 0 || va.toNat / 2 ^ (w - 1) == 2 ^ (64 - w + 1) - 1

/-- The address an access is made at: pointer masking replaces the upper 7 or 16 bits by the sign of the rest, or by zeros where the address is
not translated (Ssnpm; log 25). -/
def maskVa (pmm : Nat) (translated : Bool) (va : DWord) : DWord :=
  let cut (n : Nat) : DWord := if translated then sext n (va.toNat % 2 ^ n) else BitVec.ofNat 64 (va.toNat % 2 ^ n)
  match pmm with | 2 => cut 57 | 3 => cut 48 | _ => va

/-- Translates an access: by satp, or by vsatp and hgatp in a virtual machine; machine mode does not translate. A companion address comes from
the last stage only (R398; log 25). -/
def State.hTranslate (s : State) (h : Hart) (part : Option Nat) (a : HAcc) (va0 : DWord) : HRes HAddr :=
  let v := decide (4 ≤ a.priv)
  let root := if v then h.csr 0x280 else h.csr 0x180
  let va := if a.priv = 3 then va0 else maskVa a.pmm (fieldOf root 63 60 != 0) va0
  let pf : HTrap := { cause := a.page, tval := va, gpa := 0 }
  let af : HTrap := { cause := a.access, tval := va, gpa := 0 }
  if a.priv = 3 then .ok s { pa := va.toNat, pbmt := 0, host := false }
  else
    let st := if v then h.csr 0x200 else h.csr 0x300
    let env := if v then h.csr 0x60A else h.csr 0x30A
    let mode := fieldOf root 63 60
    let last (s : State) (x : Nat) : HRes HAddr := if v then s.hGuest h part a va x else .ok s { pa := x, pbmt := 0, host := false }
    if mode = 0 then last s va.toNat
    else
      let top := satpTop mode
      if !vaOk va top then .trap s pf
      else
        let phys (s : State) (x : Nat) : HRes Nat := if v then (s.hGuest h part { a with write := false, fetch := false, amo := false } va x).bind (fun s y => .ok s y.pa) else .ok s x
        (hWalk h part (env.getLsbD 62) top false va.toNat phys pf af 5 s top (fieldOf root 43 0)).bind (fun s (p, level) =>
          let host := h.bit 0x7C0 0 && pteH p
          let y := leafAddr p level va.toNat
          if !leafPermits a (a.priv % 4 == 0) (st.getLsbD 18) (a.mxr || st.getLsbD 19 || (v && h.bit 0x300 19)) p then .trap s pf
          else if host && (v || y / 2 ^ 52 != 0) then .trap s af
          else (s.hAD a p pf).bind (fun s _ =>
            if host then .ok s { pa := y, pbmt := ptePbmt p, host := true }
            else (last s y).bind (fun s z => .ok s { z with pbmt := if ptePbmt p = 0 then z.pbmt else ptePbmt p })))

/-! ## Places -/

/-- Where an access goes: the CSR window, a place of the Pool, companion memory, or another node. -/
inductive HSpot where
  | csr (a : Nat)
  | pool (ph pbmt : Nat)
  | host (a pbmt : Nat)
  | remote (node a : Nat)
deriving DecidableEq, Repr

/-- The master agent ID of a hart: its die and its unit there (Table 17-1). -/
def hartAgent (n : Nat) : Nat := hartDie n * 512 + n % 64

/-- A contained error at a hart: reported to the hart's agent, and a hardware-error exception (R400; log 26). -/
def State.hError {α : Type} (s : State) (n : Nat) (va : DWord) (code : Nat) : HRes α :=
  .trap (s.send (.contained (hartAgent n) code)) { cause := 19, tval := va, gpa := 0 }

/-- A poisoned load: cause 19, reported to the fault collector as contained (R400). -/
def State.hPoison {α : Type} (s : State) (n : Nat) (va : DWord) : HRes α :=
  (s.noteFault (mkFault (dieOf (hartDie n)) 0x35 (n % 64) .hart n va 1)).hError n va 0x119

/-- The agent number of a hart's L2, and a message of it. -/
def hartMsg (n line : Nat) : CohMsg :=
  { line := line, agent := 36 + hartCluster n, txn := 0, gseq := 0, data := [], mask := 0, poison := false, grant := .I, final := false,
    superseded := false, noData := false, starve := 0, sender := 36 + hartCluster n }

/-- Whether the L2 of a hart holds a line, and whether it holds it in M or E. -/
def State.hasLine (s : State) (n l : Nat) : Bool := (s.l2Line (hartCluster n) l).isSome
def State.ownsLine (s : State) (n l : Nat) : Bool := match s.l2Line (hartCluster n) l with | some x => x.st == .M || x.st == .E | none => false

/-- A new message of a hart's L2, with a transaction number that none of its open requests has (R356). -/
def State.hartMsg (s : State) (n line : Nat) : CohMsg :=
  { Machine.hartMsg n line with txn := freshTxn ((s.l2 (hartCluster n)).wants.map (·.msg.txn)) 0 }

/-- Makes ready a line of companion memory in the L2: a load asks for it by RdS, a store or LR by RdX, and the hart waits (R420). -/
def State.hostLineReady (s : State) (n l : Nat) (own : Bool) : HRes Unit :=
  if (if own then s.ownsLine n l else s.hasLine n l) then .ok s ()
  else if s.l2Busy (hartCluster n) l then .wait s
  else
    let k : ReqKind := if own then .rdX else .rdS
    let m := s.hartMsg n l
    .wait ((s.noteWant k m).request k m)

/-- A non-coherent read of companion memory: sent as NcRd, and its answer awaited (Table 15-5). -/
def State.hostNcReady (s : State) (n part a size : Nat) : HRes Unit :=
  match (s.hart n).nc.find? (fun x => x.addr == a && x.size == size) with
  | some x => if x.reply.isSome then .ok s () else .wait s
  | none =>
    if hp : s.partPort part < 2 then
      let tag : BitVec 16 := BitVec.ofNat 16 s.nextTag
      let s := { s with nextTag := (s.nextTag + 1) % 0xC000, hostReads := s.hostReads ++ [(tag, n)] }
      let s := s.modHart n (fun h => { h with nc := h.nc ++ [{ tag := tag, addr := a, size := size, reply := none }] })
      .wait (s.send (.link ⟨s.partPort part, hp⟩ {
        opcode := 0x20, fn := if hf : part < 8 then ⟨part, hf⟩ else ⟨0, by decide⟩, tag := tag, status := 0, addr := a,
        aux := BitVec.ofNat 27 (a % 64 + (size - 1) * 64), len := 0, mask := 0, data := [], poison := false }))
    else .wait s

/-- Probes one access of `size` bytes in one line: translated, checked by PMP and the partition's windows, and ready (R90, R375, R399). In the
CSR window an aligned fetch or AMO of 4 or 8 bytes is an access fault (DESIGN CHOICE, log 52), and one of any other kind is turned away as R9
states. -/
def State.hProbe (s : State) (n : Nat) (a : HAcc) (va : DWord) (size ix : Nat) (op : RemOp) : HRes HSpot :=
  let h := s.hart n
  let af : HTrap := { cause := a.access, tval := va, gpa := 0 }
  (s.hTranslate h (s.hartPart n) a va).bind (fun s t =>
    match s.hartPart n with
    | none => .trap s af
    | some part =>
      if t.host then
        if !s.hostReachable part then s.hError n va 0x117
        else if t.pbmt ≠ 0 then (if a.write then .ok s (.host t.pa t.pbmt) else (s.hostNcReady n part t.pa size).bind (fun s _ => .ok s (.host t.pa t.pbmt)))
        else if a.amo && !s.ownsLine n (hostLine t.pa) then .ok s (.host t.pa 0)
        else (s.hostLineReady n (hostLine t.pa) (a.write || a.amo)).bind (fun s _ => .ok s (.host t.pa 0))
      else if t.pa / 2 ^ 56 ≠ 0 ∨ !h.pmpOk a t.pa then .trap s af
      else match s.dpa t.pa with
        | .invalid => .trap s af
        | .remote node y =>
          (match s.remoteReady (.hart n) part node y size ix op with
          | (s, .ok _) => .ok s (.remote node y)
          | (s, .error .later) => .wait s
          | (s, .error (.error code)) => s.hError n va code
          | (s, .error _) => .trap s af)
        | .here y =>
          if 0x30000000000 ≤ y ∧ y < 0x36400000000 then (if (a.fetch || a.amo) && csrAligned y size then .trap s af else .ok s (.csr y))
          else match s.place y, s.windowOf part y a.write (a.write && a.amo) with
            | some ph, some _ =>
              if !s.inService ph || !s.setReady y then s.hError n va (s.notReady ph)
              else
                let l := ph / 128
                let here := if a.write || a.amo then s.ownsLine n l else s.hasLine n l
                if t.pbmt = 0 && here then .ok s (.pool ph 0)
                else
                  let (s, free) := s.lineFree l (a.write || a.amo)
                  if !free || (t.pbmt == 0 && s.l2Busy (hartCluster n) l) then .wait s else .ok s (.pool ph t.pbmt)
            | _, _ => .trap s af)

/-- Where an access that would take two lines starts in the CSR window: its address there. Such an access is not naturally aligned, so it is one
access that R9 turns away, and is not cut (R9). -/
def State.hWindow (s : State) (n : Nat) (a : HAcc) (va : DWord) (size : Nat) : Option Nat :=
  if va.toNat % 128 + size ≤ 128 then none
  else match s.hProbe n a va (128 - va.toNat % 128) 0 .read with
    | .ok _ (.csr y) => some y
    | _ => none

/-- Probes the pieces of an access that lie in one line each, numbered from `ix`. -/
def State.hProbes (s : State) (n : Nat) (a : HAcc) (va : DWord) (size ix : Nat) (op : RemOp) : HRes (List (Nat × DWord × Nat × HSpot)) :=
  match s.hWindow n a va size with
  | some y => .ok s [(ix, va, size, .csr y)]
  | none =>
  (vaPieces va size ix op).foldl (fun acc p => acc.bind (fun s l =>
    (s.hProbe n a p.2.1 p.2.2.1 p.1 op).bind (fun s sp => .ok s (l ++ [(p.1, p.2.1, p.2.2.1, sp)])))) (.ok s [])

/-! ## Registers reached by address -/

/-- Where an address of the CSR window is the page of an interrupt file: its hart, its file, and the offset in the page (R401). -/
def fileAt (a : Nat) : Option (Nat × Nat × Nat) :=
  match csrPlace a with
  | .die d off =>
    if 32 ≤ d ∧ d < 36 ∧ 0x100000 ≤ off ∧ off < 0x140000 then some ((d - 32) * 64 + (off - 0x100000) / 0x1000, 0, off % 0x1000)
    else if 32 ≤ d ∧ d < 36 ∧ 0x200000 ≤ off ∧ off < 0x400000 then
      some ((d - 32) * 64 + (off - 0x200000) / 0x8000, 1 + (off - 0x200000) % 0x8000 / 0x1000, off % 0x1000)
    else none
  | _ => none

/-- The collective queue whose register an address is, with the register's offset. -/
def colQueueAt (a : Nat) : Option (ColQueue × Nat) :=
  match csrPlace a with
  | .die d off =>
    if h : 84 ≤ d ∧ d < 92 ∧ 0xA0000 ≤ off ∧ off < 0xA0100 then some (⟨(d - 84) * 8 + (off - 0xA0000) / 0x20, by omega⟩, off % 0x20) else none
  | _ => none

/-- A write of one word of the CSR window by a hart or the companion: an interrupt file takes an identity at offset 0, a collective queue's
control and doorbell act, the mirror of a function's doorbells and COMMIT of the route tables act (R401, R426, R454, R462); every other register as CSR_WRITE has it. -/
def State.regWrite (s : State) (a : Nat) (v : Word) : State :=
  match fileAt a with
  | some (n, f, o) => if o = 0 then s.modHart n (fun h => h.msiIn f v.toNat) else s
  | none =>
    match colQueueAt a with
    | some (q, 8) =>
      let s := s.csrWriteAt a v
      if v.getLsbD 30 then (match execColQueueAbort q s with | .next s => s | _ => s)
      else (match execColQueueArm q (v.getLsbD 31) s with | .next s => s | _ => s)
    | some (q, 16) => s.colPoll q
    | _ =>
      match csrPlace a with
      | .die d off =>
        if (d = 92 ∨ d = 93) ∧ 0x1000000 ≤ off ∧ off < 0x1800000 then
          let p := (off - 0x1000000) / 0x100000
          let o := (off - 0x1000000) % 0x100000
          (if s.partPort p = d - 92 ∧ (0x10000 ≤ o ∧ o < 0x18000 ∨ 0x20000 ≤ o ∧ o < 0x28000) then s.bellAt p o v else s)
        else
          let s := s.csrWriteAt a v
          if d = 84 ∧ off = 0x90810 ∧ v.getLsbD 31 then s.routeCommit else s
      | _ => s.csrWriteAt a v

/-! ## Performing accesses -/

/-- Performs a probed read of bytes: through the L2, or straight from memory where PBMT is not PMA (R392, R396). -/
def State.hRead (s : State) (n : Nat) (va : DWord) (sp : HSpot) (size ix : Nat) : HRes (List Byte) :=
  let c := hartCluster n
  match sp with
  | .csr a =>
    if csrAligned a size then .ok s (leBytes size (s.csrRead a size).toNat) else .ok (s.send (.contained (hartAgent n) 0x100)) (List.replicate size 0)
  | .pool ph pbmt =>
    let cut (d : List Byte) : List Byte := (d.drop (ph % 128)).take size
    if pbmt = 0 then
      (match s.l2Read c (ph / 128) with
      | none => .wait s
      | some (s, x) => if x.poison then s.hPoison n va else .ok s (cut x.data))
    else
      let (s, d, bad) := s.readLine (ph / 128) (agentStack (36 + c))
      if bad then s.hPoison n va else .ok s (cut d)
  | .host a 0 =>
    (match s.l2Line c (hostLine a) with
    | some x => if x.poison then s.hPoison n va else .ok s ((x.data.drop (a % 128)).take size)
    | none => .wait s)
  | .host a _ =>
    (match ((s.hart n).nc.find? (fun x => x.addr == a && x.size == size)).bind (·.reply) with
    | some (d, bad) => if bad then s.hPoison n va else .ok s (padTo size d)
    | none => .wait s)
  | .remote node a =>
    match s.readRemote (.hart n) ((s.hartPart n).getD 0) node a size ix with
    | .got s d bad => if bad then s.hPoison n va else .ok s (padTo size d)
    | .waits s => .wait s
    | .refused s => s.hError n va 0x118

/-- Ends the reservations of the other harts of a cluster on a line that a hart stores to (R397). -/
def State.endResv (s : State) (n l : Nat) : State :=
  overList s (List.range 4) (fun s i =>
    let m := hartCluster n * 4 + i
    let h := s.hart m
    if m ≠ n ∧ h.resv = some l then s.setHart m { h with resv := none, delay := false } else s)

/-- Stores bytes into a line the L2 owns: a masked store to a poisoned line is discarded, a whole line clears the poison (R337, R368, R400). -/
def State.l2Store (s : State) (n l off : Nat) (b : List Byte) : State :=
  let c := hartCluster n
  let s := s.endResv n l
  match s.l2Line c l with
  | some x =>
    if x.poison then
      (if b.length = 128 then
        (s.setL2 c { s.l2 c with lines := (s.l2 c).lines.set { st := .I, data := [], age := 0, poison := false, gseq := 0 } l { x with poison := false } }).l2Write c l off b
      else s)
    else s.l2Write c l off b
  | none => s

/-- Performs a probed write of bytes. -/
def State.hWrite (s : State) (n : Nat) (sp : HSpot) (b : List Byte) : HRes Unit :=
  let part := (s.hartPart n).getD 0
  match sp with
  | .csr a =>
    if csrAligned a b.length then
      let s := s.regWrite a (BitVec.ofNat 32 (leAt b 0 4))
      .ok (if b.length = 8 then s.regWrite (a + 4) (BitVec.ofNat 32 (leAt b 4 4)) else s) ()
    else .ok (s.send (.contained (hartAgent n) 0x100)) ()
  | .pool ph pbmt =>
    if pbmt = 0 then
      (match s.l2Own (hartCluster n) (ph / 128) with
      | none => .wait s
      | some (s, _) => .ok (s.l2Store n (ph / 128) (ph % 128) b) ())
    else .ok (s.writePhys ph b) ()
  | .host a 0 => .ok (s.l2Store n (hostLine a) (a % 128) b) ()
  | .host a _ => if hp : s.partPort part < 2 then .ok (s.sendTagged (some { part := part, queue := none, posted := false }) (.hostWrite ⟨s.partPort part, hp⟩ part a b)) () else .ok s ()
  | .remote node a => .ok (s.writeRemote (.hart n) part node a b) ()

/-- A load or a fetch puts a cached line into the core's L1, where a full set drops a line, chosen freely (R343; log 17). -/
def State.l1Take (s : State) (n : Nat) (fetch : Bool) (sp : HSpot) : State :=
  match (match sp with | .pool ph 0 => some (ph / 128) | .host a 0 => some (hostLine a) | _ => none) with
  | none => s
  | some l =>
    let k := s.l1s.get CpuL1.reset n
    let put (s : State) (r : Nat) : State := { s with l1s := s.l1s.set CpuL1.reset n (k.fill fetch l r) }
    if k.full fetch l then (put s (Config.freeNat s.fresh)).bump else put s 0

/-- Performs probed reads, and probed writes of consecutive bytes, in order. -/
def State.hReads (s : State) (n : Nat) (ps : List (Nat × DWord × Nat × HSpot)) (fetch : Bool := false) : HRes (List Byte) :=
  ps.foldl (fun (acc : HRes (List Byte)) p => acc.bind (fun s d =>
    (s.hRead n p.2.1 p.2.2.2 p.2.2.1 p.1).bind (fun s b => .ok (s.l1Take n fetch p.2.2.2) (d ++ b)))) (.ok s [])
def State.hWrites (s : State) (n : Nat) (ps : List (Nat × DWord × Nat × HSpot)) (b : List Byte) : HRes Unit :=
  (ps.foldl (fun (acc : HRes (List Byte)) p => acc.bind (fun s rest => (s.hWrite n p.2.2.2 (rest.take p.2.2.1)).bind (fun s _ => .ok s (rest.drop p.2.2.1))))
    (.ok s b)).bind (fun s _ => .ok s ())

/-- A load of `size` bytes: translated and made ready whole before its first byte is read (log 20). -/
def State.hLoad (s : State) (n : Nat) (a : HAcc) (va : DWord) (size ix : Nat) : HRes (List Byte) :=
  (s.hProbes n a va size ix .read).bind (fun s ps => s.hReads n ps a.fetch)

/-- A fetch; whether it reads zero because R9 turned it away. -/
def State.hFetch (s : State) (n : Nat) (va : DWord) (size : Nat) : HRes Bool :=
  (s.hProbes n (s.hart n).fetchAcc va size 1000000 .read).bind (fun s ps =>
    (s.hReads n ps true).bind (fun s _ => .ok s (ps.any (fun p => match p.2.2.2 with | .csr _ => true | _ => false))))

/-- A store. -/
def State.hStore (s : State) (n : Nat) (a : HAcc) (va : DWord) (b : List Byte) : HRes Unit :=
  (s.hProbes n a va b.length 0 .write).bind (fun s ps => s.hWrites n ps b)

/-- An atomic on `size` bytes at an aligned address: in the L2 where it holds the line in M or E, else sent as Atom; widths that Atom does not
have take the line by RdX (R366; log 26). `ext` is the old value a companion answers. -/
def State.hAmo (s : State) (n : Nat) (va : DWord) (size : Nat) (op : AtomOp) (opn : Nat) (v cmp : Nat) (ext : List Byte) : HRes Nat :=
  let h := s.hart n
  let a := h.acc true true
  let c := hartCluster n
  let w := if size = 4 then 0 else if size = 8 then 1 else 2
  let x : BitVec 128 := BitVec.ofNat 128 v
  let y : BitVec 128 := BitVec.ofNat 128 cmp
  if va.toNat % size ≠ 0 then .trap s { cause := 6, tval := va, gpa := 0 }
  else (s.hProbe n a va size 0 (.atom opn w x y)).bind (fun s sp =>
    let inL2 (s : State) (l off : Nat) : HRes Nat :=
      match s.l2Line c l with
      | none => .wait s
      | some k =>
        if k.poison then s.hPoison n va
        else
          let old := leAt k.data off size
          .ok (s.l2Store n l off (leBytes size (atomResult op (8 * size) old (v % 2 ^ (8 * size)) (cmp % 2 ^ (8 * size)) faddAtomic))) old
    match sp with
    | .csr _ => .ok (s.send (.contained (hartAgent n) 0x100)) 0
    | .pool ph pbmt =>
      if pbmt = 0 && s.ownsLine n (ph / 128) then inL2 s (ph / 128) (ph % 128)
      else if size < 4 then
        (match s.l2Own c (ph / 128) with
        | none => .wait s
        | some (s, _) => inL2 s (ph / 128) (ph % 128))
      else
        (match s.poolAtom (ph / 128) op w (ph % 128) x y with
        | none => .wait s
        | some (s, none) => s.hPoison n va
        | some (s, some old) => .ok s old)
    | .host b pbmt =>
      if pbmt = 0 && s.ownsLine n (hostLine b) then inL2 s (hostLine b) (b % 128)
      else if size < 4 then (s.hostLineReady n (hostLine b) true).bind (fun s _ => inL2 s (hostLine b) (b % 128))
      else
        let m := { s.hartMsg n (hostLine b) with agent := hartAgent n, data := leBytes 16 v ++ leBytes 16 cmp, master := true }
        .ok (s.hostRequest (.atom op w (b % 128) x y) m) (leAt ext 0 size)
    | .remote node b =>
      match s.atomRemote (.hart n) ((s.hartPart n).getD 0) node b 0 opn w x y with
      | .got s d bad => if bad then s.hPoison n va else .ok s (leAt d 0 size)
      | .waits s => .wait s
      | .refused s => s.hError n va 0x118)

/-- LR: the L2 takes the line in M or E by RdX, delays its snoops, and the hart reserves it (R397). Only the Pool and cached companion memory hold
reservations. -/
def State.hLr (s : State) (n : Nat) (va : DWord) (size : Nat) : HRes (List Byte) :=
  let h := s.hart n
  let a := { h.acc false true with write := false }
  if va.toNat % size ≠ 0 then .trap s { cause := 4, tval := va, gpa := 0 }
  else (s.hProbe n a va size 0 .read).bind (fun s sp =>
    let take (s : State) (l off : Nat) : HRes (List Byte) :=
      match s.l2Line (hartCluster n) l with
      | none => .wait s
      | some x =>
        if x.poison then s.hPoison n va
        else .ok (s.modHart n (fun h => { h with resv := some l, delay := true })) ((x.data.drop off).take size)
    match sp with
    | .pool ph 0 =>
      (match s.l2Own (hartCluster n) (ph / 128) with
      | none => .wait s
      | some (s, _) => take s (ph / 128) (ph % 128))
    | .host b 0 => (s.hostLineReady n (hostLine b) true).bind (fun s _ => take s (hostLine b) (b % 128))
    | _ => .trap s { cause := 5, tval := va, gpa := 0 })

/-- SC: stores when the reservation still holds, with the line taken back into M or E where another agent's read has shared it; the reservation
ends either way (R366, R397). -/
def State.hSc (s : State) (n : Nat) (va : DWord) (b : List Byte) : HRes Bool :=
  let h := s.hart n
  if va.toNat % b.length ≠ 0 then .trap s { cause := 6, tval := va, gpa := 0 }
  else
    let free (s : State) : State := s.modHart n (fun h => { h with resv := none, delay := false })
    if h.resv.isNone then .ok (free s) false
    else (s.hProbe n (h.acc true false) va b.length 0 .write).bind (fun s sp =>
      match sp with
      | .pool ph 0 =>
        if h.resv ≠ some (ph / 128) then .ok (free s) false
        else (match s.l2Own (hartCluster n) (ph / 128) with
          | none => .wait s
          | some (s, _) => .ok (free (s.l2Store n (ph / 128) (ph % 128) b)) true)
      | .host x 0 =>
        if h.resv ≠ some (hostLine x) then .ok (free s) false
        else (s.hostLineReady n (hostLine x) true).bind (fun s _ => .ok (free (s.l2Store n (hostLine x) (x % 128) b)) true)
      | _ => .ok (free s) false)

/-- Drops a line from every cache, writing dirty data back to memory or to the companion (R396). -/
def State.flushLine (s : State) (l : Nat) : State :=
  if isHost l then
    overList s [0, 1] (fun s p =>
      (overList s (s.hostHolders p l) (fun s a =>
        if a < 36 then s.setBase a { s.baseCache a with lines := (s.baseCache a).lines.del l } else s.l2Evict (a - 36) l)).hostNote p l [])
  else
    let d := s.lineNow l
    let dirty := (s.ownerOf l).isSome || (s.buffered l).isSome || (s.inBuffer l).isSome
    let s := (s.msauRelease l).dropCopies l
    let k := s.line l
    let s := s.setLine l { k with entry := none, gseq := k.gseq + 1 }
    if dirty then s.memWrite l fullMask d.1 d.2 else s

/-- CBO.ZERO: a full-line write of zeros (R357, R396). Cached companion memory takes it as the companion's WrF. -/
def State.hZero (s : State) (n : Nat) (line : DWord) : HRes Unit :=
  let a := (s.hart n).acc true false
  let zeros : List Byte := List.replicate 128 0
  (s.hTranslate (s.hart n) (s.hartPart n) a line).bind (fun s t =>
    match t.host && t.pbmt == 0, s.hartPart n with
    | true, some part =>
      if !s.hostReachable part then s.hError n line 0x117
      else
        let l := hostLine t.pa
        .ok (s.hostPut { agent := .hart n, part := part, sub := hartAgent n, line := l, txn := 0, chunk := 0, held := none }
          { s.hartMsg n l with agent := hartAgent n, sender := hartAgent n, data := zeros, mask := fullMask, master := true }) ()
    | _, _ =>
      (s.hProbe n a line 128 0 .write).bind (fun s sp =>
        match sp with
        | .pool ph _ => if s.lineBlocked (ph / 128) || s.l2Busy (hartCluster n) (ph / 128) then .wait s else .ok (s.writePhys ph zeros) ()
        | sp => s.hWrite n sp zeros))

/-- The exceptions of a cache-block operation are those of a store. -/
def HRes.asStore {α : Type} (r : HRes α) : HRes α :=
  match r with
  | .trap s t => .trap s { t with cause := if t.cause = 13 then 15 else if t.cause = 5 then 7 else if t.cause = 21 then 23 else t.cause }
  | r => r

/-- A cache-block operation on the line of an address (R396): clean (1) cleans a dirty line, flush (2) and inval (0) write it back and drop it
everywhere, zero (4) writes it whole by WrF, which leaves no copy. Memory that the L2 cannot hold has nothing to clean. -/
def State.hCbo (s : State) (n kind : Nat) (va : DWord) : HRes Unit :=
  let h := s.hart n
  let line := BitVec.ofNat 64 (va.toNat / 128 * 128)
  let act (s : State) (l : Nat) : HRes Unit :=
    if kind = 1 then .ok (match s.ownerOf l with | some (c, _) => s.l2Clean c l | none => s) ()
    else if s.lineBlocked l || s.l2Busy (hartCluster n) l then .wait s
    else .ok (s.flushLine l) ()
  if kind = 4 then s.hZero n line
  else (s.hTranslate h (s.hartPart n) (h.acc false false) line).asStore.bind (fun s t =>
    let af : HTrap := { cause := 7, tval := va, gpa := 0 }
    if t.host then act s (hostLine t.pa)
    else if !h.pmpOk (h.acc false false) t.pa then .trap s af
    else match s.dpa t.pa with
      | .here y =>
        (match s.place y, (s.hartPart n).bind (fun p => s.windowOf p y false false) with
        | some ph, some _ => act s (ph / 128)
        | _, _ => .trap s af)
      | .remote _ _ => .ok s ()
      | .invalid => .trap s af)

end Sys2Proof.Machine
end

