-- ==== Sys2Proof/Machine/Launch.lean ====
section
/-! DEFINITION. Launching a kernel (R132 to R137, R207, R208): the checks of a launch, the state at kernel entry, and its timeout. -/

namespace Sys2Proof.Machine

/-! ## Reading through an address space -/

/-- Where one piece of a virtual range of an address space lies, which is within one line; none where it is not readable. -/
def State.virtTarget (s : State) (p slot : Nat) (d : AsDesc) (va : DWord) : Option (State × XlTarget) :=
  if !canonical va then none
  else match s.walkFrom va 4 (fieldOf d.root 43 0) [] with
    | .error _ => none
    | .ok h =>
      if !ptePermits h.pte .read || (!d.adu && !pteA h.pte) then none
      else
        let (s, pte) := s.setAD h false
        match s.xlTarget p (leafEntry p slot (rootAsid d.root) va h.level pte) va .read with
        | .ok t => some (s, t)
        | _ => none

/-- The bytes of one piece of a virtual range. -/
def State.readVirtPiece (s : State) (p slot : Nat) (d : AsDesc) (va : DWord) (n : Nat) (ext : List Byte) : Option (State × List Byte × List Byte) :=
  match s.virtTarget p slot d va with
  | none => none
  | some (s, t) =>
    match t.host, t.addr with
    | true, _ => if s.hostReachable p then some (s, padTo n ext, ext.drop n) else none
    | false, .here y =>
      (match s.readLocal y n with
      | some (s, b, false) => some (s, b, ext)
      | _ => none)
    | false, _ => none

/-- The bytes of a virtual range of an address space. -/
def State.readVirt (s : State) (p slot : Nat) (d : AsDesc) (va : DWord) (n : Nat) (ext : List Byte) : Option (State × List Byte) :=
  ((linePieces va.toNat n (n + 1)).foldl (fun acc pc =>
    match acc with
    | none => none
    | some (s, b, ext) =>
      match s.readVirtPiece p slot d (BitVec.ofNat 64 pc.1) pc.2 ext with
      | none => none
      | some (s, c, ext) => some (s, b ++ c, ext)) (some (s, [], ext))).map (fun r => (r.1, r.2.1))

/-- What keeps a virtual range from being read now: a line that its walk or its data must wait for (R339, R384), or the error of memory that is not in
service (R90). -/
def State.virtStop (s : State) (p slot : Nat) (d : AsDesc) (va : DWord) (n : Nat) : Option (Nat ⊕ Nat) :=
  (linePieces va.toNat n (n + 1)).findSome? (fun pc =>
    match s.walkFrom (BitVec.ofNat 64 pc.1) 4 (fieldOf d.root 43 0) [] with
    | .error (0, l) => some (.inl l)
    | .error _ => none
    | .ok _ =>
      match (s.virtTarget p slot d (BitVec.ofNat 64 pc.1)).map (·.2) with
      | some t =>
        (match t.host, t.addr with
        | false, .here y =>
          (match s.place y with
          | some ph =>
            if !s.inService ph || !s.setReady y then some (.inr (s.notReady ph))
            else if s.lineBlocked (ph / 128) || s.compHolds (ph / 128) false then some (.inl (ph / 128)) else none
          | none => none)
        | _, _ => none)
      | none => none)

/-! ## The checks of a launch -/

/-- Whether a descriptor's fields are in their ranges and its reserved fields are zero (R132, R207). -/
def descOk (b : List Byte) : Bool :=
  let f (o n : Nat) : Nat := leAt b o n
  let alloc := (f 0x38 1 + 7) / 8 * 8
  let groups :=
    if f 0x18 8 = 0 then f 0x32 1 == 0 && f 0x38 1 == 0
    else f 0x18 8 % 8 == 0 && decide (1 ≤ f 0x32 1) && decide (f 0x32 1 ≤ 32) && decide (8 ≤ f 0x38 1) && decide (f 0x32 1 * alloc ≤ 1024)
  f 0 8 % 2 == 0 && f 0x10 8 % 2 ^ 21 == 0 && decide (1 ≤ f 0x30 2) && decide (f 0x30 2 ≤ 640) && decide (f 0x33 1 < 4)
    && decide (f 0x34 4 ≤ 60000) && f 0x39 7 == 0 && groups

/-- Why a core stops a launch (R133, R134): not in the partition, its die not online, or fenced. -/
def State.launchBlock (s : State) (p c : Nat) : Option Nat :=
  if s.corePart c ≠ some p then some 0x10A
  else if !s.dieOnline (coreDie c) then some 0x104
  else if (s.core c).fenced then some 0x105
  else none

/-- The cores of a list that stop a launch, each with its code, lowest first. -/
def State.launchBlocks (s : State) (p : Nat) (cores : List Nat) : List (Nat × Nat × List Nat) :=
  (cores.filterMap (fun c => (s.launchBlock p c).map (fun e => (c, e, ErrInfo.none.nums)))).mergeSort (fun a b => decide (a.1 ≤ b.1))

/-- Fails a launch that no core can be named for. -/
def State.badLaunch (s : State) (l : Launch) : State :=
  let s := if l.bitmapAt = 0 then s else s.cmdWrite l.part (some l.sq) l.bitmapAt (coreBitmap [])
  s.finishCmd l.part l.sq l.cid 0x10A 0 (launchBody 0 0x10A 0 ErrInfo.none.nums)

/-- The launch a descriptor describes, its list not read. -/
def launchOf (p q : Nat) (c : Slot) (b : List Byte) : Launch :=
  let f (o n : Nat) : Nat := leAt b o n
  { part := p, sq := q, cid := c.cid, slot := c.target, bitmapAt := c.arg1, entry := BitVec.ofNat 64 (f 0 8), args := BitVec.ofNat 64 (f 8 8),
    pantryVa := BitVec.ofNat 64 (f 0x10 8), gEntry := BitVec.ofNat 64 (f 0x18 8), seed := BitVec.ofNat 64 (f 0x28 8), groups := f 0x32 1,
    vregs := f 0x38 1, clear := bitAt (f 0x33 1) 0, strict := bitAt (f 0x33 1) 1, timeout := f 0x34 4, cores := [], started := false,
    reports := [] }

/-- The descriptor of a KERNEL_LAUNCH, inline or read at ARG0, which is a multiple of 64 (R432, Table 15-9). -/
def State.launchDesc (s : State) (p : Nat) (c : Slot) (ext : List Byte) : SlotRead :=
  if c.flags.getLsbD 1 then (if c.arg0 = 0 then .bytes s (padTo 64 c.extra) else .error 1)
  else if c.arg0.toNat % 64 ≠ 0 then .error 0x10A
  else if !s.cmdAddrOk p c.arg0 64 false then .error 4
  else s.cmdFetch p c.arg0 64 ext

/-- The companion's bytes that a launch's descriptor leaves for its core list. -/
def listBytes (c : Slot) (ext : List Byte) : List Byte := if !c.flags.getLsbD 1 && c.arg0.getLsbD 63 then ext.drop 64 else ext

/-- KERNEL_LAUNCH (R132, R133, R207, R434): the device reads the descriptor and the core list and checks them before any core starts; a
launch that passes waits for its cores. -/
def execKernelLaunch (p : PartId) (q : Nat) (ext : List Byte) (s0 : State) : Outcome :=
  runCmd p q 0x40 s0 (fun s c =>
    match s.asSlot p.val c.target with
    | none => s.endCmd p q c 1
    | some d =>
      if 256 ≤ c.target then s.endCmd p q c 1
      else if c.arg1 ≠ 0 ∧ !s.cmdAddrOk p.val c.arg1 80 true then s.endCmd p q c 4
      else match s.launchDesc p.val c ext with
        | .error e => if e = 0x10A then s.badLaunch (launchOf p.val q c []) else s.endCmd p q c e
        | .waits _ => (s0.rangeFree (bits c.arg0.toNat 41 0) 64 false).1
        | .bytes s b =>
          let l := launchOf p.val q c b
          let n := leAt b 0x30 2
          match s.virtStop p.val c.target d (BitVec.ofNat 64 (leAt b 0x20 8)) (if n ≤ 640 then 2 * n else 0) with
          | some (.inl l) => (s0.lineFree l false).1
          | some (.inr e) => s.endCmd p q c e
          | none =>
          match (if n ≤ 640 then s.readVirt p.val c.target d (BitVec.ofNat 64 (leAt b 0x20 8)) (2 * n) (listBytes c ext) else none) with
          | none => s.badLaunch l
          | some (s, lb) =>
            let cores := (List.range n).map (fun i => leAt lb (2 * i) 2)
            let l := { l with cores := cores }
            let named := cores.filter (fun c => decide (c < 640))
            if named.isEmpty then s.badLaunch l
            else if !descOk b || !decide (cores.Pairwise (· < ·)) || named.length != cores.length then
              s.finishLaunch s.nextLaunch l (named.map (fun c => (c, 0x10A, ErrInfo.none.nums)))
            else match s.launchBlocks p.val cores with
              | [] => { s with launches := s.launches.set Launch.none s.nextLaunch l, nextLaunch := s.nextLaunch + 1 }
              | es => s.finishLaunch s.nextLaunch l es)

/-! ## Entry (R134, R135, R208) -/

/-- Whether a core is idle. -/
def Core.isIdle (k : Core) : Bool := k.kernel.isNone && k.phase == 0 && !k.resetting && !k.fenced

/-- A group at kernel entry (R208). -/
def groupAt (l : Launch) (core ix : Nat) : Group :=
  let u : List (Nat × Word) := [(0, half l.args.toNat false), (1, half l.args.toNat true), (2, half l.pantryVa.toNat false),
    (3, half l.pantryVa.toNat true), (4, BitVec.ofNat 32 core), (5, BitVec.ofNat 32 l.groups), (6, BitVec.ofNat 32 ix)]
  { Group.reset with
    live := BitVec.allOnes 32, v := (List.range 32).foldl (fun m i => m.set 0 i (BitVec.ofNat 32 i)) ⟨[]⟩,
    u := u.foldl (fun m x => m.set 0 x.1 x.2) ⟨[]⟩, ring := [{ pc := l.gEntry, mask := BitVec.allOnes 32, state := .ready }] }

/-- The core at kernel entry (R135, R185, R252, R255). -/
def State.enterCore (s : State) (l : Launch) (n c pos : Nat) : State :=
  let k := s.core c
  let x : List (Nat × DWord) := [(2, l.pantryVa + 0x600000), (10, l.args), (11, BitVec.ofNat 64 pos), (12, BitVec.ofNat 64 l.cores.length),
    (13, BitVec.ofNat 64 c)]
  let gs := if l.gEntry = 0 then [] else List.range (4 * l.groups)
  let k := { k with
    x := x.foldl (fun m y => m.set 0 y.1 y.2) ⟨[]⟩, pc := l.entry, resv := none, phase := 1, monitor := false,
    kernel := some n, part := l.part, slot := l.slot, space := s.asSlot l.part l.slot, seed := l.seed, pantryVa := l.pantryVa,
    tkDone := ⟨[]⟩, tkExpect := ⟨[]⟩, tkErr := 0, errTag := none, errPc := 0, noToken := false, grants := ⟨[]⟩, accq := [], exq := [],
    arrq := [], vecq := [], inflight := [], waiting := none, subs := ⟨[]⟩, arr := [], vec := none,
    tiles := if l.clear then ⟨[]⟩ else k.tiles, pantry := if l.clear then ⟨[]⟩ else k.pantry, poisoned := if l.clear then [] else k.poisoned,
    flaws := if l.clear then [] else k.flaws, ending := none,
    vecCtrl := if l.strict then 1 else 0, vecStatus := 0, vecFlags := 0, stoch := 0,
    nanEnable := match s.flp with | some f => ((f.watch[l.part]?).map (·.nanTrap)).getD false | none => false, nanTrap := false,
    slots := idleSlots k.slots, groups := gs.foldl (fun m g => m.set Group.reset g (groupAt l c g)) ⟨[]⟩, grpCount := l.groups, grpVregs := l.vregs,
    l1d := ⟨[]⟩, l1i := [], records := [], clock := 0 }
  let die := coreDie c
  let s := s.setCore c k
  overList s ([0x640, 0x648, 0x64C] ++ (List.range 12).map (fun i => 0x700 + 4 * i)) (fun s o => s.wr die (coreOff c o) 0)

/-- KERNEL_START (R133 to R135): a launch starts when every core it lists is idle and no earlier launch that names one of them waits; one
that a core stops in the meantime fails. In a quiesced partition it waits for RESUME (R103). -/
def execKernelStart (n : Nat) (s : State) : Outcome :=
  gate s (fun s =>
    match s.launch n with
    | none => s
    | some l =>
      let ahead := s.launches.cells.any (fun x => decide (x.1 < n) && !x.2.started && x.2.cores.any (fun c => l.cores.contains c))
      if l.started ∨ s.partState l.part = 4 then s
      else match s.launchBlocks l.part l.cores with
        | [] =>
          if l.cores.all (fun c => (s.core c).isIdle) && !ahead then
            let s := { s with launches := s.launches.set Launch.none n { l with started := true } }
            (overList s l.cores.zipIdx (fun s x => s.enterCore l n x.1 x.2)).partRuns l.part
          else s
        | es => s.finishLaunch n l es)

/-- KERNEL_TIMEOUT (R132, R137): every listed core that has not reported ends with "kernel timeout". -/
def execKernelTimeout (n : Nat) (s : State) : Outcome :=
  gate s (fun s =>
    match s.launch n with
    | none => s
    | some l =>
      if l.started ∧ l.timeout ≠ 0 then
        overList s l.cores (fun s c => if (s.core c).kernel = some n then s.endPart c 0x10B ErrInfo.none else s)
      else s)

end Sys2Proof.Machine
end

