-- ==== Sys2Proof/Machine/Resets.lean ====
section
/-! DEFINITION. Resets (R99 to R108, R558): the package's cold and warm resets and its power-down, the resets of a core, a die and a
partition, and quiescing. -/

namespace Sys2Proof.Machine

/-! ## The package -/

/-- What the management plane keeps through a reset that reloads the Floorplan: flash and fuses. -/
def Mgmt.restart (m : Mgmt) : Mgmt :=
  { Mgmt.reset with
    flash := m.flash, fences := m.fences, repairs := m.repairs, dumps := m.dumps, fuses94 := m.fuses94, fuses95 := m.fuses95,
    dieRevs := m.dieRevs, dieFeats := m.dieFeats }

/-- The ROM's fuse compare at a cold reset: anti-rollback counters that differ are raised to the higher one (R529). -/
def Mgmt.levelFuses (m : Mgmt) : Mgmt :=
  let up (f g : Fuses) : Fuses := { f with arbFw := max f.arbFw g.arbFw, arbFlp := max f.arbFlp g.arbFlp, arbDbg := max f.arbDbg g.arbDbg }
  { m with fuses94 := up m.fuses94 m.fuses95, fuses95 := up m.fuses95 m.fuses94 }

/-- What bring-up starts from: the state after reset with the pins as they stand, flash and fuses, and what only the model holds. -/
def State.blank (s : State) : State :=
  { State.reset with
    pending := s.pending, fresh := s.fresh, sent := s.sent, mgmt := s.mgmt.restart,
    pins := { s.pins with ready := false, thermN := true, fatalN := true } }

/-- The phase bring-up starts in: off without PWR_OK or the input, held while RESET_N is low, ROM recovery where the fuses differ
(R94, R107, R529, R554). -/
def State.startPhase (s : State) : Phase :=
  if !s.pins.pwrOk || !s.pins.vinOk then .off else if !s.pins.resetN then .held else if s.mgmt.mismatch then .recovery else .running

/-- A cold reset: nothing but flash and fuses is kept, and device time starts at zero (R99, R529). -/
def State.coldReset (s : State) : State :=
  let b := { s.blank with mgmt := s.mgmt.restart.levelFuses }
  { b with phase := b.startPhase }

/-- A package warm reset (R100, R104): memory enters self-refresh, fault records are committed, fabric ports send node-down, and all else is
reset; device time runs on and the Pool keeps its contents and its poison. A die reset asked for over the management bus that it absorbs
reports completion with it (R104); one that a queue asked for has no queue left to report on (log 31). -/
def State.warmReset (s : State) (cause : Nat) : State :=
  let t := ((s.selfRefresh).writeDump 1).nodeDownAll
  let absorbed (o : MgtOp) : Bool := o.status == 1 && t.resetCmds.any (fun x => decide (8 ≤ x.2.1) && x.2.2.2 == o.tag)
  let b := { t.blank with time := t.time, pool := t.pool, poolBad := t.poolBad }
  let b := b.modMgmt (fun m => { m with ops := (t.mgmt.ops.filter absorbed).map (fun o => { o with status := 0 }) })
  let b := b.setFld 94 0x20100 7 4 cause
  let b := overList b allChans (fun b c => if t.chanState c = 5 then b.setChanState c 5 else b)
  { b with phase := b.startPhase }

/-- A power-down is recognised: compute islands stop, ACTIVE fabric ports send node-down, and fault records are committed (R106). -/
def State.powerDown (s : State) : State :=
  if s.phase = .off ∨ s.phase = .powerDown then s
  else { s.nodeDownAll with phase := .powerDown, pins := { s.pins with ready := false } }

/-- The commit is complete: Off, or a cold reset where PWR_OK is high again (R106). -/
def State.powerGone (s : State) : State :=
  let s := s.writeDump 2
  if s.pins.pwrOk then s.coldReset else { s.blank with phase := .off }

/-! ## Programming a core -/

/-- Programs a core's RWL registers and NaN trap enable from the configuration in force (R51, R71, R83). -/
def State.programCore (s : State) (c : Nat) : State :=
  match s.flp, s.corePart c with
  | some f, some p =>
    let w := (f.watch[p]?).getD { sampleLog2 := 10, selfTest := 2, boundScale := 1, nanTrap := true }
    let s := s.setFld (coreDie c) (coreOff c 0x400) 0 0 (b2n (f.quartered.contains p))
    let s := s.wr (coreDie c) (coreOff c 0x800) (BitVec.ofNat 32 (w.boundScale * 2 ^ 12 + w.selfTest * 2 ^ 8 + w.sampleLog2))
    s.modCore c (fun k => { k with nanEnable := w.nanTrap })
  | _, _ => s

/-- The registers that a core reset keeps (Table 3-8). -/
def coreKeeps (x : Nat) : Bool :=
  x == 0x404 || (decide (0x804 ≤ x) && decide (x < 0x830)) || (decide (0x880 ≤ x) && decide (x < 0x890)) || x == 0xE08 || x == 0xE0C || x == 0xF00

/-- Resets a core's registers, Pantry and caches; a kernel on it loses its part, which reports an error that the spec does not name
(R99, R558, Table 3-8). -/
def State.resetCore (s : State) (c : Nat) : State :=
  let s := if (s.core c).kernel.isSome then (s.bump).abandonCore c (0x100 + Config.freeNat s.fresh % 0x41) .none else s
  let s := s.dropSample c
  let k := s.core c
  let lo := coreDie c * 2 ^ 32 + coreOff c 0
  let s := { s with csr := s.csr.drop (fun a => decide (lo ≤ a) && decide (a < lo + 0x10000) && !coreKeeps (a - lo)) }
  (s.setCore c { Core.reset with
    fenced := k.fenced, watch := k.watch, stPattern := k.stPattern, clock := k.clock, testing := k.testing, tested := k.tested,
    resetting := true }).programCore c

/-! ## Die resets (R102, Table 3-7) -/

/-- Whether a reset's precondition holds on a die (Table 3-7). -/
def State.dieReady (s : State) (d : Nat) : Bool :=
  match dieType d with
  | 1 => (List.range 20).all (fun i => (s.core (d * 20 + i)).kernel.isNone)
  | 2 => (List.range 64).all (fun i => let h := s.hart ((d - 32) * 64 + i); h.state == 0 || h.state == 5 || h.fenced)
  | 3 | 4 => s.homeOpen (d - 36) == 0
  | 5 => s.homeOpen (d - 36) == 0
  | 6 => (List.range 64).all (fun q => (s.col q).isNone
      || !(colDie q == d || (List.range 8).any (fun i => s.fabPart ((d - 84) * 8 + i) == s.colPart q)))
  | _ => true

/-- The lines of a die's home. -/
def State.homeLines (s : State) (d : Nat) : List Nat := (s.lines.cells.map (·.1)).filter (fun l => !isHost l && homeDie (l * 128) == d)

/-- Whether every entry of a die's home is free, with no eviction under way (R370). -/
def State.homeFree (s : State) (d : Nat) : Bool := (s.homeLines d).all (fun l => (s.line l).entry.isNone && (s.line l).txn.isNone)

/-- A home begins to evict every directory entry, as R364 states; its STATE reads 1 (R370, R371). -/
def State.emptyHome (s : State) (d : Nat) : State :=
  let s := ({ s with dieReset := s.dieReset.set 0 d 3 }).setFld d 0x40000 31 30 1
  overList s ((s.homeLines d).filter (fun l => (s.line l).entry.isSome)) (fun s l =>
    advance s.homeFuel ((s.openTxn .evict (flipMsg l)).msauRelease l) l)

/-- A home's directory after its die's reset: empty; each line keeps its bias and its grant sequence. -/
def State.clearHome (s : State) (d : Nat) : State :=
  overList s (s.homeLines d) (fun s l => s.setLine l { HomeLine.reset with bias := (s.line l).bias, gseq := (s.line l).gseq })

/-- The channels of a base die's or Annex base die's stack. -/
def dieChans (d : Nat) : List Chan :=
  if h : d - 36 < 36 ∧ 36 ≤ d then atticChans ⟨d - 36, h.1⟩ else if h : d - 72 < 12 ∧ 72 ≤ d then annexChans ⟨d - 72, h.1⟩ else []

/-- The effect of a die reset by the die's type (Table 3-7, R370). A channel in service enters HOLD for its retraining, in self-refresh: its
requests wait (R339). The die keeps its own bundle fences, which last until the Floorplan is loaded again (R35), though the worked example of
Table 1-5 has a die retrain without them (DEDUCED, log 66). -/
def State.startDie (s : State) (d : Nat) : State :=
  let s := { s with dieReset := s.dieReset.set 0 d 2 }
  let memory (s : State) : State := overList s (dieChans d) (fun s c =>
    if s.chanState c = 2 ∨ s.chanState c = 3 then (s.holdChan c).setChanState c 5 else s)
  match dieType d with
  | 1 => overList s (List.range 20) (fun s i => s.resetCore (d * 20 + i))
  | 2 =>
    let s := overList s (List.range 16) (fun s i =>
      let n := (d - 32) * 16 + i
      let s := overList s ((s.l2 n).lines.cells.map (·.1)) State.flushLine
      { s.setL2 n { L2.reset with fenced := (s.l2 n).fenced, buffer := (s.l2 n).buffer } with l1s := s.l1s.drop (fun h => h / 4 == n) })
    overList s (List.range 64) (fun s i =>
      let h := (d - 32) * 64 + i
      s.setHart h { Hart.reset with fenced := (s.hart h).fenced })
  | 3 | 4 =>
    let s := (memory (s.clearHome d)).setBase (d - 36) BaseCache.reset
    overList s (List.range 8) (fun s p => if s.halState (halPort d p) = 3 then s.enterHold (halPort d p) else s)
  | 5 => memory (s.clearHome d)
  | 6 => overList s (List.finRange 64) (fun s p =>
      if (fabReg p.val).1 = d ∧ s.fabState p.val ≠ 0 ∧ s.fabState p.val ≠ 4 ∧ s.fabState p.val ≠ 5 then
        (if s.fabState p.val = 2 then s.sendNodeDown p (s.nodeId.getD 0x3FFF) else s).untrainPort p
      else s)
  | 7 => if h : d - 92 < 2 then s.startRetrain (.jxl ⟨d - 92, h⟩) else s
  | _ => s

/-- A die reset whose precondition holds: a home that has entries evicts them first, and the reset starts when all are free (R102, R370). -/
def State.beginDie (s : State) (d : Nat) : State :=
  if 3 ≤ dieType d ∧ dieType d ≤ 5 then
    let t := s.emptyHome d
    if t.homeFree d then t.startDie d else t
  else s.startDie d

/-- Ends a reset command, on its queue or as a management operation, by its place in the list of those that wait: 1000 and up a core, 100 and
up a die, else a partition; the detail names the core or die (Table 15-10). -/
def State.endReset (s : State) (x : Nat × Nat × Nat × BitVec 16) (code : Nat) : State :=
  if x.2.1 < 8 then s.finishCmd x.2.1 x.2.2.1 x.2.2.2 code (if 1000 ≤ x.1 then x.1 - 1000 else x.1 - 100)
  else s.modMgmt (fun m => { m with ops := m.ops.map (fun o => if o.tag = x.2.2.2 ∧ o.status = 1 then { o with status := if code = 0 then 0 else 8 } else o) })

/-- Ends every reset command that waits for a target. -/
def State.endResets (s : State) (mine : Nat → Bool) (code : Nat) : State :=
  let xs := s.resetCmds.filter (fun x => mine x.1)
  overList { s with resetCmds := s.resetCmds.filter (fun x => !mine x.1) } xs (fun s x => s.endReset x code)

/-- A compute die is online in checked mode: its watches are reseeded and its first core starts its test (R96, R271, R559). -/
def State.enterChecked (s : State) (d : Nat) : State :=
  let s := overList s (List.range 20) (fun s i =>
    let c := d * 20 + i
    s.modCore c (fun k => { k with
      tested := false, testing := false, resetting := false, scrubRow := ⟨[]⟩, scrubWrap := [],
      watch := { Watch.reset with lfsr := BitVec.ofNat 16 (c + 1) } }))
  s.setChecked d true

/-- A die reset is done: the die's units come back and its commands complete, with those of resets it absorbed (R102, R104). -/
def State.finishDie (s : State) (d : Nat) : State :=
  let s := { s with dieReset := s.dieReset.set 0 d 0 }
  let s := if 36 ≤ d ∧ d < 84 ∧ s.fld d 0x40000 31 30 = 1 then s.setFld d 0x40000 31 30 0 else s
  let s := match dieType d with
    | 1 => if s.dieOnline d then (s.enterChecked d).nextTest d else overList s (List.range 20) (fun s i => s.modCore (d * 20 + i) (fun k => { k with resetting := false }))
    | 3 | 4 => overList s (List.range 8) (fun s p =>
        let h := halPort d p
        if s.halState h = 2 then s.startRound h (s.fld (halReg h).1 (halReg h).2 27 24 + 1) else s)
    | _ => s
  s.endResets (fun t => t == 100 + d || (decide (d < 32) && decide (1000 + d * 20 ≤ t) && decide (t < 1000 + d * 20 + 20))) 0

/-- Asks for the reset of a die: refused for a management die or an interposer tile, nothing for a fenced die, else begun once its
precondition holds (R102, R104). -/
def State.askDie (s : State) (d : Nat) (x : Nat × Nat × Nat × BitVec 16) : State :=
  if dieType d = 8 ∨ dieType d = 9 then s.endReset x 0x11C
  else if s.fencedU.contains (.die, d) then s.endReset x 0
  else
    let s := { s with resetCmds := s.resetCmds ++ [x] }
    if s.dieReset.get 0 d ≠ 0 then s
    else if s.dieReady d then s.beginDie d
    else { s with dieReset := s.dieReset.set 0 d 1 }

/-! ## Partition resets and quiescing -/

/-- Ends every command a partition's queues have started with an error, but for those that wait for a reset (R101, R103). A launch that has started
ends with the reports of its cores, once the last of them has stopped (R137, R560); the abort goes to each core over the Back Stair (R26). -/
def State.abortCmds (s : State) (p code : Nat) : State :=
  let s := overList s (s.cores.cells.filter (fun (x : Nat × Core) => match x.2.kernel.bind s.launch with | some l => l.part == p | none => false))
    (fun s x => (s.stair 7 s.activeDie (coreDie x.1) [x.1 % 20, code]).endPart x.1 code .none)
  let s := overList s (s.launches.cells.filter (fun l => l.2.part == p && !l.2.started)) (fun s l =>
    s.finishLaunch l.1 l.2 (l.2.cores.map (fun c => (c, code, ErrInfo.none.nums))))
  let s := { s with flips := ⟨s.flips.cells.map (fun (x : Nat × Option Flip) =>
    (x.1, x.2.map (fun f => { f with cmd := match f.cmd with | some y => if y.1 = p then none else some y | none => none })))⟩ }
  overList s (s.fnQueues p) (fun s q =>
    match s.sq p q with
    | some k => overList s (k.running.filter (fun c => !s.resetCmds.any (fun x => x.2.1 == p && x.2.2.1 == q && x.2.2.2 == c.cid)
        && !s.launches.cells.any (fun l => l.2.part == p && l.2.sq == q && l.2.cid == c.cid)
        && (s.partWork.get none p).bind (·.cmd) != some (p, q, c.cid))) (fun s c => s.finishCmd p q c.cid code 0)
    | none => s)

/-- Ends every collective of a partition with an error (R101, R103, R473). -/
def State.abortCols (s : State) (p code : Nat) : State :=
  overList s (List.finRange 64) (fun s q =>
    match s.col q.val with
    | some c => if s.colPart q.val = p then s.colFail q 6 code c.self else s
    | none => s)

/-- The clusters whose four harts all belong to a partition (R101). -/
def State.partClusters (s : State) (p : Nat) : List Nat :=
  (List.range 64).filter (fun n => (List.range 4).all (fun i => s.hartPart (4 * n + i) == some p))

/-- Halts the harts of a partition that run; one that waits in WFI or a power state is halted too (R103; log 62). A hart that leaves C0 loses its
reservation (R397). -/
def State.haltHarts (s : State) (p : Nat) : State :=
  overList s (s.partHarts p) (fun s h => if (s.hart h).state = 0 then s else s.setHart h { s.hart h with state := 5, resv := none, delay := false })

/-- Starts a partition reset: doorbells stop, and kernels, stream transfers and collectives are aborted; the L2s of its whole clusters begin
to be cleaned, and the L1s of its harts are invalidated (R101, steps 1 to 3). A QUIESCE that waits ends in the same error. -/
def State.startPartReset (s : State) (p : Nat) : State :=
  if s.partState p = 5 ∨ (s.partEntry p).isNone then s
  else
    let s := { s.setPartState p 5 with partWork := s.partWork.set none p none, heldBells := s.heldBells.filter (fun b => b.1 != p) }
    let s := ((s.abortCmds p 0x11A).abortCols p 0x11A).haltHarts p
    let s := overList s (s.partClusters p) (fun s n => overList s ((s.l2 n).lines.cells.map (·.1)) (fun s l => s.l2Evict n l))
    { s with l1s := s.l1s.drop (fun h => s.hartPart h == some p) }

/-- Asks for a partition reset: during a delta that touches the partition it waits for the delta's end (R104). -/
def State.askPartReset (s : State) (p : Nat) : State :=
  if s.inDelta p then { s with delta := s.delta.map (fun d => { d with resets := d.resets ++ [p] }) } else s.startPartReset p

/-- Writes the completion entries that still wait for a queue. -/
def State.flushResults (s : State) (p q : Nat) : State :=
  match s.sq p q with
  | none => s
  | some k => overList (s.setSq p q (some { k with results := [] })) k.results (fun s r =>
      if r.quiet && r.code == 0 then s else s.cqPush p k.cq (cqEntry r.body q r.cid k.head r.code r.detail 0 s.now))

/-- Returns every submission and completion queue of a partition to the state it was created in (R101, step 5). The collective queues of the
partition have lost what ran in step 2 and keep ARM, SIZE and their slots (DESIGN CHOICE, log 62). -/
def State.resetQueues (s : State) (p : Nat) : State :=
  let s := overList s (s.fnQueues p) (fun s q => s.flushResults p q)
  { s with
    sqs := ⟨s.sqs.cells.map (fun (c : Nat × Option Sq) => (c.1, if c.1 / 4096 = p then c.2.map (fun (k : Sq) =>
      { k with head := 0, tail := 0, n := 0, stopped := 0, rereads := 0, fetched := [], running := [], results := [], deleting := none }) else c.2))⟩,
    cqs := ⟨s.cqs.cells.map (fun (c : Nat × Option Cq) => (c.1, if c.1 / 4096 = p then c.2.map (fun (k : Cq) =>
      { k with head := 0, tail := 0, phase := true, unsent := 0, waiting := [] }) else c.2))⟩ }

/-- Whether the partition's lines in its clusters are home, with no open transaction, request or write-back of theirs, and no core of it still
ends its part of a kernel (R101). -/
def State.partClean (s : State) (p : Nat) : Bool :=
  (s.partClusters p).all (fun n => (s.l2 n).buffer.isEmpty && (s.l2 n).wants.isEmpty && (s.l2 n).lines.cells.isEmpty)
    && (s.partCores p).all (fun c => (s.core c).kernel.isNone)

/-- Whether a remote access is a partition's. -/
def State.remoteOf (s : State) (p : Nat) (r : Remote) : Bool :=
  match r.agent with
  | .core c _ => s.corePart c == some p
  | .hart h => s.hartPart h == some p
  | .queue q => s.colPart q == p

/-- Resets the fabric ports of a partition that are in service: their flit state is lost and they train again (R99, Table 3-6; log 31). -/
def State.resetPorts (s : State) (p : Nat) : State :=
  overList s (List.finRange 64) (fun s n =>
    if s.fabPart n.val = p ∧ (s.fabState n.val = 2 ∨ s.fabState n.val = 3) then s.untrainPort n else s)

/-- A partition reset ends: Pantry and tile registers of its cores zeroed, its queues, ports and harts reset, the partition held (R99, R101). -/
def State.finishPartReset (s : State) (p : Nat) : State :=
  let s := overList s (s.partCores p) (fun s c => s.modCore c (fun k => { k with pantry := ⟨[]⟩, poisoned := [], tiles := ⟨[]⟩, resetting := false }))
  let s := { s with
    remotes := ⟨s.remotes.cells.filter (fun x => match x.2 with | some r => !s.remoteOf p r | none => false)⟩,
    hostWrites := s.hostWrites.filter (fun w => w.part != p) }
  let s := s.resetPorts p
  let s := s.resetQueues p
  let s := overList s (s.partHarts p) (fun s h => s.setHart h { Hart.reset with fenced := (s.hart h).fenced, dropped := (s.hart h).dropped })
  let mine (t : Nat) : Bool := t == p || (decide (1000 ≤ t) && s.corePart (t - 1000) == some p)
  (s.setPartState p 1).endResets mine 0

/-- Whether every host write of a partition has completed: none waits at a link or in its replay buffer, and none awaits the companion's
completion (R103). -/
def State.hostWritesDone (s : State) (p : Nat) : Bool :=
  !s.hostWrites.any (fun w => w.part == p)
    && !s.links.cells.any (fun l => l.2.sendHeld.any (fun m => (m.write.map (·.part)) == some p) || l.2.writes.any (fun w => w.2.part == p))

/-- Whether a partition meets every condition of R103 but its harts' halt, which quiescing brings about. -/
def State.quiet (s : State) (p : Nat) : Bool :=
  !(s.partCores p).any (fun c => (s.core c).kernel.isSome) && !s.launches.cells.any (fun l => l.2.part == p)
    && !(List.range 64).any (fun q => (s.col q).isSome && s.colPart q == p)
    && s.hostWritesDone p

/-- A partition is quiesced: its harts halt, it reads 4 and its QUIESCE completes (R103). -/
def State.enterQuiet (s : State) (p : Nat) : State :=
  let cmd := (s.partWork.get none p).bind (·.cmd)
  let s := { (s.haltHarts p).setPartState p 4 with partWork := s.partWork.set none p none }
  match cmd with
  | some x => s.finishCmd x.1 x.2.1 x.2.2 0 0
  | none => s

/-! ## The commands -/

/-- PWR_OK_RISE (R99, R106, R554): from Off a cold reset, which waits for the input and for RESET_N. -/
def execPwrOkRise (s : State) : Outcome :=
  let s := { s with pins := { s.pins with pwrOk := true } }
  .next (if s.phase = .off then s.coldReset else s)

/-- VIN_RISE (R554): with PWR_OK already high, bring-up starts. -/
def execVinRise (s : State) : Outcome :=
  let s := { s with pins := { s.pins with vinOk := true } }
  .next (if s.phase = .off ∧ s.pins.pwrOk then s.coldReset else s)

/-- PWR_OK_FALL (R106): a low level that lasts 5 µs is a power-down; a shorter one is ignored. -/
def execPwrOkFall (low5us : Bool) (s : State) : Outcome :=
  .next (if low5us then ({ s with pins := { s.pins with pwrOk := false } }).powerDown else s)

/-- POWER_DOWN_COMMIT_DONE (R106). -/
def execPowerDownCommitDone (s : State) : Outcome := .next (if s.phase = .powerDown then s.powerGone else s)

/-- REFCLK_LOSS (R519): a reference lost for 10 µs after SL0 acts as PWR_OK falling. -/
def execRefclkLoss (lost10us : Bool) (s : State) : Outcome :=
  .next (if lost10us ∧ (s.pins.ready ∨ s.phase = .safe) then s.powerDown else s)

/-- RESET_N_FALL (R107): held low for 1 µs, the package is in warm reset until it rises. -/
def execResetNFall (low1us : Bool) (s : State) : Outcome :=
  .next (if low1us then
    let cause := if s.phase = .safe then 3 else 1
    let s := { s with pins := { s.pins with resetN := false } }
    if s.phase = .off ∨ s.phase = .powerDown ∨ s.phase = .held then s else s.warmReset cause
  else s)

/-- RESET_N_RISE (R107): bring-up starts again; after a cold reset that waited for it, device time starts at zero (R94). -/
def execResetNRise (s : State) : Outcome :=
  let s := { s with pins := { s.pins with resetN := true } }
  .next (if s.phase = .held then
    let s := if s.fld 94 0x20100 7 4 = 0 then { s with time := 0 } else s
    { s with phase := s.startPhase }
  else s)

/-- JXL_RESET_N_FALL (R108, R441): low for 1 µs, the link layers of both ports are reset and the companion is lost on each. -/
def execJxlResetNFall (low1us : Bool) (s : State) : Outcome :=
  .next (if low1us then
    let s := { s with pins := { s.pins with jxlResetN := false } }
    if s.phase = .running then overList s (List.finRange 2) (fun s p => s.companionLost p 0) else s
  else s)

/-- JXL_RESET_N_RISE (R108): each enabled port trains again. -/
def execJxlResetNRise (s : State) : Outcome :=
  let s := { s with pins := { s.pins with jxlResetN := true } }
  .next (if s.phase = .running then
    overList s (List.finRange 2) (fun s p => if (s.linkPort p.val).enable ∧ 1 ≤ s.level ∧ s.linkSt (.jxl p) ≠ 2 ∧ s.linkSt (.jxl p) ≠ 3 then s.setLinkSt (.jxl p) 1 else s)
  else s)

/-- Whether a reset command waits at the front of the management queue; in the safe state it is the one command taken (R105). -/
def State.warmAsked (s : State) (p q : Nat) : Bool :=
  p == 0 && q == 0 && (match s.sq 0 0 with
    | some k => k.canStart && (match k.fetched with | c :: _ => c.opcode == 0x30 && !c.rsvd | [] => false)
    | none => false)

/-- RESET_WARM (R99, R105): a package warm reset, from the safe state too. -/
def execResetWarm (p : PartId) (q : Nat) (s : State) : Outcome :=
  if s.phase = .safe then .next (if s.warmAsked p.val q then s.warmReset 3 else s)
  else runCmd p q 0x30 s (fun s _ => s.warmReset 2)

/-- RESET_CORE (R99, R104, R558): the core's registers are as Table 3-8 states; a fenced core changes nothing. -/
def execResetCore (p : PartId) (q : Nat) (s : State) : Outcome :=
  runCmd p q 0x24 s (fun s c =>
    if 640 ≤ c.target ∨ s.corePart c.target ≠ some p.val then s.endCmd p q c 1
    else if (s.core c.target).fenced then s.endCmd p q c 0 c.target
    else { s.resetCore c.target with resetCmds := s.resetCmds ++ [(1000 + c.target, p.val, q, c.cid)] })

/-- CORE_RESET_DONE (R99): the core takes launches again and its command completes, but for one that a wider reset absorbs (R104). -/
def execCoreResetDone (core : CoreId) (s : State) : Outcome :=
  gate s (fun s =>
    let c := core.val
    if (s.core c).resetting ∧ s.dieReset.get 0 (coreDie c) = 0 ∧ (s.corePart c).map s.partState ≠ some 5 then
      (s.modCore c (fun k => { k with resetting := false })).endResets (fun t => t == 1000 + c) 0
    else s)

/-- RESET_DIE (R102, R104). -/
def execResetDie (p : PartId) (q : Nat) (s : State) : Outcome :=
  runCmd p q 0x31 s (fun s c => if 100 ≤ c.target then s.endCmd p q c 1 else s.askDie c.target (100 + c.target, p.val, q, c.cid))

/-- RESET_PRECONDITION_TIMEOUT (R102): a reset whose precondition does not hold within 1 ms ends in "reset refused". -/
def execResetPreconditionTimeout (die : DieId) (s : State) : Outcome :=
  gate s (fun s =>
    let d := die.val
    if s.dieReset.get 0 d = 1 then
      if s.dieReady d then s.beginDie d else { s with dieReset := s.dieReset.set 0 d 0 }.endResets (fun t => t == 100 + d) 0x11C
    else s)

/-- Whether every channel of a die's stack has trained, or is fenced: the end of its reset (R102, Table 3-6). -/
def State.dieTrained (s : State) (d : Nat) : Bool := (dieChans d).all (fun c => s.chanState c != 1 && s.chanState c != 5)

/-- DIE_RESET_DONE (R102, R370): the reset ends once its channels have trained; one that waited for its precondition, or for its home's evictions, starts before it is done. -/
def execDieResetDone (die : DieId) (s : State) : Outcome :=
  gate s (fun s =>
    let d := die.val
    let finish (s : State) : State := if s.dieTrained d then s.finishDie d else s
    if s.dieReset.get 0 d = 2 then finish s
    else
      let s := if s.dieReset.get 0 d = 1 ∧ s.dieReady d then s.beginDie d
        else if s.dieReset.get 0 d = 3 ∧ s.homeFree d then s.startDie d else s
      if s.dieReset.get 0 d = 2 then finish s else s)

/-- RESET_PARTITION (R101, R104). -/
def execResetPartition (p : PartId) (q : Nat) (s : State) : Outcome :=
  runCmd p q 0x23 s (fun s c => ({ s with resetCmds := s.resetCmds ++ [(p.val, p.val, q, c.cid)] }).askPartReset p.val)

/-- FN_RESET (R426, Table 15-8): a function reset is a partition reset. -/
def State.fnReset (s : State) (p : Nat) : State := if s.level < 1 then s else s.askPartReset p

/-- FN_RESET (R426). -/
def execFnReset (p : PartId) (s : State) : Outcome := gate s (fun s => s.fnReset p.val)

/-- PARTITION_RESET_DONE (R101): once the lines of its whole clusters are home. -/
def execPartitionResetDone (p : PartId) (s : State) : Outcome :=
  gate s (fun s => if s.partState p.val = 5 ∧ s.partClean p.val then s.finishPartReset p.val else s)

/-- QUIESCE_DONE (R103). -/
def execQuiesceDone (p : PartId) (s : State) : Outcome :=
  gate s (fun s => if s.partState p.val = 3 ∧ s.quiet p.val then s.enterQuiet p.val else s)

/-- QUIESCE_TIMEOUT (R103): commands still running at T are aborted, and the partition is quiesced once they have stopped and its host writes
have completed. -/
def execQuiesceTimeout (p : PartId) (s : State) : Outcome :=
  gate s (fun s =>
    if s.partState p.val = 3 then
      let s := (s.abortCmds p.val 0x11B).abortCols p.val 0x11B
      if s.quiet p.val then s.enterQuiet p.val else s
    else s)

end Sys2Proof.Machine
end

