-- ==== Sys2Proof/Machine/Bringup.lean ====
section
/-! DEFINITION. Bring-up (chapters 02, 03 and 19): the boot stages, the load of the Floorplan, the service levels, dies coming online with
their self-test, and delta images. -/

namespace Sys2Proof.Machine

/-! ## Flash -/

/-- The size of a flash area (Table 19-1), by its number in table order. -/
def areaSize (a : Nat) : Nat :=
  [0x100000, 0x100000, 0x400000, 0x400000, 0x400000, 0x400000, 0x101000, 0x101000, 0x41000, 0x41000, 0x10000, 0x10000, 0x10000].getD a 0
/-- The flash address of an area (Table 19-1). -/
def areaBase (a : Nat) : Nat :=
  [0, 0x100000, 0x200000, 0x600000, 0xA00000, 0xE00000, 0x1200000, 0x1310000, 0x1420000, 0x1470000, 0x14C0000, 0x14D0000, 0x14E0000].getD a 0

/-- Bytes of an area that is held as bytes; an erased byte reads 0xFF. -/
def Mgmt.flashRun (m : Mgmt) (a o n : Nat) : List Byte := (m.flash.get ⟨[]⟩ a).getRun 0xFF o n
/-- A number held in an area. -/
def Mgmt.flashNat (m : Mgmt) (a o n : Nat) : Nat := leNat (m.flashRun a o n)

/-- The trailer of a record (Table 2-13): RECORD_LEN, CRC, SEQUENCE and COMMIT. -/
structure Trailer where
  len    : Nat
  crc    : Nat
  seq    : Nat
  commit : Nat
deriving DecidableEq, Repr

/-- The trailer of a Floorplan slot or of a copy of a stage: the last 0x1000 bytes of the area start with it (R76, R530). -/
def Mgmt.trailer (m : Mgmt) (a : Nat) : Trailer :=
  let o := areaSize a - 0x1000
  { len := m.flashNat a o 4, crc := m.flashNat a (o + 4) 4, seq := m.flashNat a (o + 8) 8, commit := m.flashNat a (o + 16) 4 }

/-- Whether a copy is a candidate: committed, its length within its area, its CRC right (R78, R527). -/
def Mgmt.candidate (m : Mgmt) (a least : Nat) : Bool :=
  let t := m.trailer a
  t.commit == 0x5A5AC3C3 && decide (least ≤ t.len) && decide (t.len ≤ areaSize a - 0x1000) && (crc32c (m.flashRun a 0 t.len)).toNat == t.crc

/-- The candidates of a pair of copies, in descending SEQUENCE order, the first on equality (R78, R527). -/
def Mgmt.candidates (m : Mgmt) (a least : Nat) : List Nat :=
  let cs := [a, a + 1].filter (fun x => m.candidate x least)
  match cs with
  | [x, y] => if (m.trailer x).seq < (m.trailer y).seq then [y, x] else [x, y]
  | cs => cs

/-! ## Boot stages (R528 to R532) -/

/-- What is wrong with a candidate copy of a stage: 2 magic or stage, 3 signature, 4 rollback, 5 digest mismatch, 0 nothing (R531). -/
def Mgmt.stageResult (m : Mgmt) (stage a : Nat) (agrees : Bool) : Nat :=
  let img := m.flashRun a 0 (m.trailer a).len
  if leAt img 0 4 ≠ 0x53425A4B ∨ leAt img 4 1 ≠ stage + 1 then 2
  else if !sigAt img (leAt img 0x10 4) m.fuses94.fwRsa m.fuses94.fwSlh then 3
  else if leAt img 8 4 < m.fuses94.arbFw then 4
  else if !agrees then 5 else 0

/-- SEC_VERSION of the stage in force. -/
def Mgmt.stageVersion (m : Mgmt) (stage : Nat) : Nat := m.flashNat (2 * stage + m.copies.get 0 stage / 8) 8 4

/-- BOOT_STAGE_VERIFY (R524, R531): the first copy that passes runs; with none the device enters ROM recovery. Stage 3 goes to every steward,
and one that misses its digest three times is lost. -/
def execBootStageVerify (stage : Fin 3) (peerAgreesA peerAgreesB : Bool) (stewardMisses : List DieId) (s : State) : Outcome :=
  gate s (fun s =>
    let m := s.mgmt
    if m.stage ≠ stage.val then s
    else
      let a := 2 * stage.val
      let cs := m.candidates a 0x40
      let result (x : Nat) : Nat := m.stageResult stage.val x (if x = a then peerAgreesA else peerAgreesB)
      match cs.find? (fun x => result x == 0) with
      | none => { s with phase := .recovery }
      | some x =>
        let o := if x = a then a + 1 else a
        let tried := decide (cs.findIdx (· == o) < cs.findIdx (· == x))
        let other := if !cs.contains o then 1 else if tried then result o else 0
        let img := m.flashRun x 0 (m.trailer x).len
        let s := s.modMgmt (fun m => { m with
          stage := stage.val + 1, copies := m.copies.set 0 stage.val ((x - a) * 8 + other), digests := m.digests.set 0 stage.val (Config.sha384 img) })
        if stage.val = 2 then
          overList s stewardMisses (fun s d => s.leafDetect (mkFault (if s.activeRoot then 95 else 94) 0x50 0 .die d.val 0 0))
        else s)

/-! ## Loading (R79 to R83) -/

/-- A management die takes no part in the load: the other one loads alone and reports the loss (R79). -/
def State.loadAlone (s : State) (die95 : Bool) : State :=
  let lost := if die95 then 95 else 94
  if s.flp.isSome ∨ !(if die95 then s.mgmt.answers95 else s.mgmt.answers94) ∨ !(s.root (!die95)).alive then s
  else
    let s := s.modMgmt (fun m => if die95 then { m with answers95 := false } else { m with answers94 := false })
    s.leafDetect (mkFault (if die95 then 94 else 95) 0x02 0 .die lost 0 0)

/-- MGMT_DIE_ANSWER_TIMEOUT (R79). -/
def execMgmtDieAnswerTimeout (die95 : Bool) (s : State) : Outcome := gate s (fun s => s.loadAlone die95)

/-- A management die on the persistent fence list takes no part in the load (R79, R487). -/
def State.fencedOut (s : State) : State :=
  overList s [false, true] (fun s die95 =>
    if s.mgmt.fences.any (fun e => e.kind == 5 && e.index == (if die95 then 95 else 94)) then s.loadAlone die95 else s)

/-- The context of a load from flash or over the management bus. -/
def State.loadCtx (s : State) : LoadCtx :=
  let f := s.mgmt.fuses94
  { rsaHash := f.flpRsa, slhHash := f.flpSlh, arbFlp := f.arbFlp, revs := (List.range 100).map s.dieRev, feats := s.feats, fences := s.mgmt.fences, base := none, quiesced := [] }

/-- Fences the units of the persistent fence list (R82, R487). -/
def State.applyFences (s : State) : State :=
  overList s s.mgmt.fences (fun s e =>
    match e.kind with
    | 1 => (s.modCore e.index (fun k => { k with fenced := true, clock := 2 })).noteFenced (.core, e.index)
    | 2 => (s.setHart e.index { s.hart e.index with fenced := true }).noteFenced (.hart, e.index)
    | 3 => if h : e.index < 576 then s.fenceChannel (.attic ⟨e.index / 16, by omega⟩ ⟨e.index % 16, Nat.mod_lt _ (by decide)⟩) false else s
    | 4 => if h : e.index < 384 then s.fenceChannel (.annex ⟨e.index, h⟩) false else s
    | 5 => s.fenceDie e.index
    | _ => s)

/-- The budget a die starts with (R68). The share P × WEIGHT / ΣWEIGHT is rounded down, and is 0 where no die has a weight (DESIGN CHOICE,
log 61). -/
def startBudget (f : Floorplan) (p d : Nat) : Nat :=
  let all := (f.budgets.map (·.weight)).sum
  match f.budgets[d]? with
  | some b => min b.max (max b.min (p * b.weight / all))
  | none => 0

/-- Programs every die from a configuration (R48, R49, R51, R58, R68, R83): effective features, held partitions, cores, budgets, the functions of
each Jexesk port, the fabric ports and the route table in force, and the bundles the Floorplan fences. -/
def State.program (s : State) (f : Floorplan) : State :=
  let s := { s with flp := some f, locked := true }
  let s := overList s (List.range 100) (fun s d =>
    let s := s.wr d 0x40 (effFeatures s.feats d)
    let s := match f.revSet[dieType d - 1]? with
      | some r => if r.2 < s.dieRev d then s.wr d 4 0x80000000 else s
      | none => s
    s.setSteward d { s.steward d with budget := startBudget f (s.fld 94 0xD0104 19 0) d })
  let s := overList s f.parts (fun s e => s.setPartState e.id 1)
  let s := overList s (List.range 640) (fun s c => if (s.corePart c).isSome then s.programCore c else s.modCore c (fun k => { k with clock := 2 }))
  let s := overList s [0, 1] (fun s p =>
    s.setFld (92 + p) 0x80000 7 0 ((List.range 8).foldl (fun a q => a + (if s.fnOfPort p q then 2 ^ q else 0)) 0))
  let s := match f.fabric with
    | some g =>
      let s := { s with tables := s.tables.set { groups := [], entries := [] } 0 g.table }
      overList s (List.range 64) (fun s n =>
        let s := s.setFld (fabReg n).1 (fabReg n).2 18 16 (g.portPart.getD n 0)
        if g.portEnable.getLsbD n then s else s.setFld (fabReg n).1 (fabReg n).2 31 28 5)
    | none => overList s (List.range 64) (fun s n => s.setFld (fabReg n).1 (fabReg n).2 31 28 5)
  overList s f.bundleFences (fun s x =>
    let h := halPort x.1 x.2.1
    let st := s.halState h
    if (s.inbound h).getLsbD x.2.2 ∧ 1 ≤ st ∧ st ≤ 3 then s.fenceBundle h x.2.2 else s)

/-- FLP_DIGEST becomes the digest of an image (Table 2-16, R85). -/
def State.setDigest (s : State) (img : List Byte) : State :=
  let d := Config.sha384 (img.take (leAt img 8 4))
  overList s (List.range 12) (fun s i => s.wr 94 (0x20040 + 4 * i) (BitVec.ofNat 32 (d.toNat / 2 ^ (32 * i))))

/-- A load that succeeds (R82, R83): the configuration is in force, the fence list applied, the result registers set. -/
def State.loaded (s : State) (l : Loaded) (img : List Byte) (source seq : Nat) : State :=
  let s := ((s.program l.flp).applyFences).setFld 94 0x20100 31 31 0
  let s := ((s.setFld 94 0x20000 15 15 (b2n l.trunc)).setFld 94 0x20000 11 8 source).setFld 94 0x20000 3 0 2
  let s := (s.wr64 94 0x20008 (BitVec.ofNat 64 seq)).setDigest img
  let dump := (s.mgmt.dumps.get DumpArea.reset 0).committed || (s.mgmt.dumps.get DumpArea.reset 1).committed
  (s.setRoot false { s.root false with dumpValid := dump }).setRoot true { s.root true with dumpValid := dump }

/-- Records the failing field of a load, and for a die older than the image accepts that die (R47, Table 2-16). -/
def State.loadFailed (s : State) (e : FlpErr) (die : Option Nat) : State :=
  let s := s.wr 94 0x20004 (BitVec.ofNat 32 (e.sec * 2 ^ 24 + e.off))
  match die with
  | some d => if e.code = 7 then s.wr 94 0x20010 (BitVec.ofNat 32 (2 ^ 31 + d)) else s
  | none => s

/-- The lowest-numbered die that an image finds too old (R47). -/
def oldDieOf (c : LoadCtx) (img : List Byte) : Option Nat :=
  match checkShape c img img.length with
  | .ok ss => oldDie c.revs (readConfig c img ss).flp
  | .error _ => none

/-- Tries a slot: every check in order, then the other die's digest (R79, R80). -/
def State.trySlot (s : State) (a : Nat) (agrees : Bool) : Except FlpErr (Loaded × List Byte) :=
  let t := s.mgmt.trailer a
  let img := s.mgmt.flashRun a 0 t.len
  match checkImage s.loadCtx img t.len with
  | .error e => .error e
  | .ok l =>
    if s.mgmt.answers94 && s.mgmt.answers95 && !agrees then .error { code := 0x0E, sec := 0, off := 0 } else .ok (l, img)

/-- Tries slots in order until one loads; each one tried records its code (R78). -/
def State.trySlots (s : State) (agreesA agreesB : Bool) : List Nat → State
  | [] => s.setFld 94 0x20000 3 0 3
  | a :: rest =>
    let err (s : State) (code : Nat) : State := if a = 6 then s.setFld 94 0x20000 31 24 code else s.setFld 94 0x20000 23 16 code
    match s.trySlot a (if a = 6 then agreesA else agreesB) with
    | .ok (l, img) => (err s 0).loaded l img (a - 5) (s.mgmt.trailer a).seq
    | .error e =>
      let img := s.mgmt.flashRun a 0 (s.mgmt.trailer a).len
      ((err s e.code).loadFailed e (oldDieOf s.loadCtx img)).trySlots agreesA agreesB rest

/-- Whether every Hallway port that has a neighbour is ACTIVE or fenced (R88, R94). -/
def State.hallTrained (s : State) : Bool :=
  (List.range 100).all (fun d => (List.range 8).all (fun p => decide (3 ≤ s.halState (halPort d p))))

/-- FLOORPLAN_LOAD (R47, R78 to R83): once the boot stages run, with the Hallway trained (Table 3-4), the candidate slots are tried in order. -/
def execFloorplanLoad (peerAgreesA peerAgreesB : Bool) (s : State) : Outcome :=
  gate s (fun s =>
    if s.flp.isSome ∨ s.mgmt.stage < 3 ∨ s.fld 94 0x20000 3 0 ≠ 0 ∨ !s.hallTrained then s
    else
      let s := s.fencedOut
      let cs := s.mgmt.candidates 6 0x50
      let s := if cs.contains 6 then s else s.setFld 94 0x20000 31 24 1
      let s := if cs.contains 7 then s else s.setFld 94 0x20000 23 16 1
      s.trySlots peerAgreesA peerAgreesB cs)

/-! ## Service levels (R88 to R93) -/

/-- The dies whose services a level adds (Table 3-1); compute dies come online one by one. -/
def levelDies (n : Nat) : List Nat :=
  match n with
  | 0 => (List.range 36).map (· + 36) ++ [94, 95, 96, 97, 98, 99]
  | 1 => [92, 93]
  | 2 => [32, 33, 34, 35] ++ (List.range 12).map (· + 72)
  | 3 => (List.range 8).map (· + 84)
  | _ => []

/-- Enters a level: LEVEL, its time and its event; READY with SL0; held doorbells with SL3 (R91 to R93, R427). -/
def State.enterLevel (s : State) (n : Nat) : State :=
  let s := (s.setFld 94 0x20100 3 0 n).wr64 94 (0x20108 + 8 * n) s.now
  let s := overList s (levelDies n) (fun s d => if s.fencedU.contains (UnitKind.die, d) then s else s.setOnline d true)
  let s := if n = 0 then { s with pins := { s.pins with ready := true } } else s.slEvent 0 0
  if n = 3 then s.releaseBells (fun _ => true) else s

/-- Whether the channels of some stacks have all trained or are fenced (R88, R94). -/
def State.chansUp (s : State) (cs : List Chan) : Bool := cs.all (fun c => decide (2 ≤ s.chanState c) && decide (s.chanState c ≤ 4))

/-- Whether a Jexesk Link port is up, or is not to come up: not enabled, fenced, or lost since (R88, R89). -/
def State.jxlUp (s : State) (p : JxlPort) : Bool := !(s.linkPort p.val).enable || 2 ≤ s.linkSt (.jxl p) || s.fencedU.contains (.port, 2000 + p.val)

/-- Whether a Jexesk Link port runs as configured, or has failed its change of rate or width (R88, R95). -/
def State.jxlFull (s : State) (p : JxlPort) : Bool :=
  let e := s.linkPort p.val
  !e.enable || s.linkSt (.jxl p) != 2 || s.rateFailed.contains (.jxl p)
    || (s.lanes (.jxl p) == (linkLanes (.jxl p) e.lanes16 (s.link (.jxl p)).failed).1 && s.fld (92 + p.val) 0x80000 15 15 == b2n e.rate224)

/-- Whether what a level offers is up: the units Table 3-1 names run, or are fenced, and at SL4 run as configured, but for those that failed
their change (R88, R94, R95). A level entered earlier has its units already. -/
def State.levelUp (s : State) (n : Nat) : Bool :=
  match n with
  | 0 => s.hallTrained
  | 1 => (List.finRange 2).all s.jxlUp
  | 2 => (List.finRange 36).all (fun k => decide (k.val < 32) || s.chansUp (atticChans k)) && (List.finRange 12).all (fun k => s.chansUp (annexChans k))
  | 3 => (List.range 64).all (fun p => decide (2 ≤ s.fabState p))
  | _ =>
    (List.range 32).all (fun d => s.fencedU.contains (UnitKind.die, d) || (s.dieOnline d && !s.checked d))
      && (List.finRange 384).all (fun c => s.chanState (.annex c) == 4 || s.fld (chanReg (.annex c)).1 (chanReg (.annex c)).2 0 0 == 1
        || s.rateFailed.contains (.annex c))
      && (List.finRange 2).all s.jxlFull
      && (List.finRange 64).all (fun p => s.fabState p.val != 2 || s.fld (fabReg p.val).1 (fabReg p.val).2 19 19 == 1 || s.rateFailed.contains (.fabric p))

/-- SERVICE_LEVEL_ENTRY (R88, R93): the levels are entered in order, each once the units of its step are up: SL0 after the load has succeeded or
failed, every later one with a configuration in force (R81). -/
def execServiceLevelEntry (level : Fin 5) (s : State) : Outcome :=
  gate s (fun s =>
    let n := level.val
    if n = 0 then (if !s.pins.ready ∧ 2 ≤ s.fld 94 0x20000 3 0 ∧ s.levelUp 0 then s.enterLevel 0 else s)
    else if s.pins.ready ∧ s.flp.isSome ∧ s.level + 1 = n ∧ s.levelUp n then s.enterLevel n
    else s)

/-- Whether every channel of a stack is trained or fenced. -/
def State.stackTrained (s : State) (die : Nat) : Bool :=
  (dieChans die).all (fun c => decide (2 ≤ s.chanState c) && decide (s.chanState c ≤ 4))

/-- DIE_ONLINE (R92, R94, R96): from SL3 a compute die whose Attic has trained is online in checked mode, and its first core starts its
self-test. -/
def execDieOnline (stack : StackId) (s : State) : Outcome :=
  gate s (fun s =>
    let d := stack.val
    if 32 ≤ d ∨ s.level < 3 ∨ s.dieOnline d ∨ s.fencedU.contains (UnitKind.die, d) ∨ !s.stackTrained (36 + d) then s
    else (((s.setOnline d true).enterChecked d).slEvent 1 d).nextTest d)

/-- CORE_SELF_TEST_DONE (R97, R98): a core that fails is fenced; the die's next core follows, or the die leaves checked mode. -/
def execCoreSelfTestDone (core : CoreId) (passed : Bool) (s : State) : Outcome :=
  gate s (fun s =>
    let c := core.val
    let k := s.core c
    if !s.checked (coreDie c) ∨ !k.testing then s
    else
      let s := s.setCore c { k with testing := false, tested := true }
      let s := if passed then s else s.leafDetect (coreFault c 1 0x2B 0 0)
      s.nextTest (coreDie c))

/-- Whether an Annex channel is in HOLD for its change of rate: the changes happen one channel or port at a time (R95). -/
def State.rateMoving (s : State) : Bool :=
  (List.finRange 384).any (fun c => s.chanState (.annex c) == 3 && (s.chan (.annex c)).rateMove)

/-- RATE_CHANGE (R95, R339): from SL3 a channel or port moves to its SL4 rate and width, one at a time; one that fails stays in service as it is,
with DEGRADED set. An Annex channel enters HOLD and retrains. -/
def execRateChange (unit : RateUnit) (ok : Bool) (s : State) : Outcome :=
  gate s (fun s =>
    let fail (s : State) : State := { s.setFld 94 0x20100 31 31 1 with rateFailed := s.rateFailed ++ [unit] }
    if s.level < 3 ∨ s.rateMoving then s
    else match unit with
      | .annex c =>
        let r := chanReg (.annex c)
        if s.chanState (.annex c) ≠ 2 then s else 
          let s := (if ok then s.setFld r.1 r.2 0 0 1 else fail s).holdChan (.annex c)
          s.setChan (.annex c) { s.chan (.annex c) with rateMove := true }
      | .jxl p =>
        let l : LinkId := .jxl p
        let e := s.linkPort p.val
        if s.linkSt l ≠ 2 then s
        else if ok then (s.setLanes l (linkLanes l e.lanes16 (s.link l).failed)).setFld (92 + p.val) 0x80000 15 15 (b2n e.rate224)
        else fail s
      | .fabric p => if s.linkSt (.fabric p) ≠ 2 then s else if ok then s.setFld (fabReg p.val).1 (fabReg p.val).2 19 19 1 else fail s)

/-- BRING_UP_DEADLINE (R89): what has not entered service 20 s after bring-up began is fenced, and the device enters SL4 with DEGRADED set. A unit
that was in service and is training again is not fenced. -/
def execBringUpDeadline (s : State) : Outcome :=
  gate s (fun s =>
    if s.flp.isNone ∨ !s.pins.ready ∨ 4 ≤ s.level then s
    else
      let idle (n : Nat) : Bool := n == 0 || n == 1 || n == 5
      let s := overList s allChans (fun s c => if idle (s.chanState c) ∧ !s.served.contains (.channel, chanIx c) then s.failChan c else s)
      let s := overList s (List.finRange 64) (fun s p =>
        if (s.fabState p.val = 0 ∨ s.fabState p.val = 1) ∧ !s.served.contains (.port, 1000 + p.val) then s.fabPortFence p 0x42 else s)
      let s := overList s (List.finRange 2) (fun s p =>
        if (s.linkPort p.val).enable ∧ s.linkSt (.jxl p) < 2 ∧ !s.served.contains (.port, 2000 + p.val) then (s.setLinkSt (.jxl p) 0).noteFenced (.port, 2000 + p.val) else s)
      let s := overList s (List.range 32) (fun s d => if s.dieOnline d ∨ s.fencedU.contains (UnitKind.die, d) then s else s.fenceDie d)
      let s := s.setFld 94 0x20100 31 31 1
      overList s ((List.range 5).filter (fun n => decide (s.level < n))) (fun s n => s.enterLevel n))

/-! ## Delta images (R84 to R87) -/

/-- A delta's sections take effect (R85, R87): budgets where section 0x09 changes, and the core registers of each partition whose entry of section
0x03 or 0x0C changes, but not of a fenced core. -/
def State.deltaSections (s : State) (f g : Floorplan) : State :=
  let s := { s with flp := some g }
  let s := if g.budgets = f.budgets then s
    else overList s (List.range 100) (fun s d => s.setSteward d { s.steward d with budget := startBudget g (s.fld 94 0xD0104 19 0) d })
  let hit (p : Nat) : Bool := f.quartered.contains p != g.quartered.contains p || f.watch[p]? != g.watch[p]?
  overList s (List.range 640) (fun s c =>
    match s.corePart c with
    | some p => if hit p && !(s.core c).fenced then s.programCore c else s
    | none => s)

/-- Checks a delta in full and applies it: on success its sections take effect at one device time, on failure nothing changes; the command's
detail is the result of Table 2-14, the first failure in its order, the base digest right after the signature (R85). `verified` is false where
the management dies' digests differ. -/
def State.applyDelta (s : State) (p q : Nat) (cid : BitVec 16) (img : List Byte) (n : Nat) (verified : Bool) : State :=
  match s.flp with
  | none => s.finishCmd p q cid 1 0x13
  | some f =>
    let ctx := { s.loadCtx with base := some (f, s.flpDigest), quiesced := (List.range 8).filter (fun p => s.partState p == 4) }
    match checkImage ctx img n with
    | .error e => s.finishCmd p q cid 1 (if !verified ∧ 0x0E < e.code ∧ e.code ≠ 0x10 then 0x0E else e.code)
    | .ok l => if !verified then s.finishCmd p q cid 1 0x0E else (((s.deltaSections f l.flp).satFld 94 0x20000 7 4).setDigest img).finishCmd p q cid 0 0

/-- FLP_DELTA (R84 to R86): the delta is checked and applied, at once or, where it `begins` here, until LONG_OPERATION_DONE names the command's CID
as its TAG; STATE reads 4 meanwhile (log 34). During a load or another delta it fails with FLP_ERR_BUSY. -/
def execFlpDelta (p : PartId) (q : Nat) (input : DeltaIn) (s0 : State) : Outcome :=
  runCmd p q 0x32 s0 (fun s c =>
    let n := c.arg2.toNat
    if n < 0x50 ∨ 0x100000 < n then s.endCmd p q c 1
    else if !s.cmdAddrOk p.val c.arg0 n false then s.endCmd p q c 4
    else match s.cmdFetch p.val c.arg0 n input.ext with
        | .error e => s.endCmd p q c e
        | .waits _ => (s0.rangeFree (bits c.arg0.toNat 41 0) n false).1
        | .bytes s img =>
          if s.flp.isNone ∨ s.delta.isSome then s.finishCmd p.val q c.cid 1 0x13
          else if input.begins then
            { s.setFld 94 0x20000 3 0 4 with delta := some { part := p.val, queue := q, cid := c.cid, image := img, resumes := [], resets := [] } }
          else s.applyDelta p.val q c.cid img n true)

/-- A delta that was begun completes or fails: then the partition resets and RESUMEs that waited for it go on, in that order (R86, R104). -/
def State.endDelta (s : State) (d : DeltaRun) (verified : Bool) : State :=
  let s := ({ s with delta := none }).setFld 94 0x20000 3 0 2
  let s := s.applyDelta d.part d.queue d.cid d.image d.image.length verified
  let s := overList s d.resets State.startPartReset
  overList s d.resumes (fun s x => s.resumePart x.1 x.2.1 x.2.2)

end Sys2Proof.Machine
end

