-- ==== Sys2Proof/Machine/Companion.lean ====
section
/-! DEFINITION. The companion's non-coherent reads and writes (R417, R418, Tables 15-5 and 15-6), and the answers to the device's own. -/

namespace Sys2Proof.Machine

/-- The address and the length of a non-coherent access (Table 15-5). -/
def ncRange (m : LinkMsg) : Nat × Nat := (m.addr / 64 * 64 + bits m.aux.toNat 5 0, bits m.aux.toNat 13 6 + 1)

/-- What an access of the companion at a link address is (Table 15-6): a place of the Pool, a register, or a status that refuses it. -/
inductive NcTarget where
  | pool (ph : Nat)
  | csr (a : Nat)
  | fn (off : Nat)
  | refused (status : Nat)
deriving DecidableEq, Repr

/-- Decodes a non-coherent access (R418, R423, R426); in the safe state only reads of function regions and of the CSR blocks of dies 94
and 95 are not UNREACH (R494). -/
def State.ncDecode (s : State) (p : JxlPort) (m : LinkMsg) (write : Bool) : NcTarget :=
  let (a, n) := ncRange m
  let safe := s.phase == Phase.safe
  let word := (n == 4 || n == 8) && a % n == 0
  if !s.fnOfPort p.val m.fn.val || 128 < a % 128 + n then .refused 1
  else if a < 0x30000000000 then
    (if safe then .refused 5
    else match s.place a, s.windowOf m.fn.val a write false with
      | some ph, some _ => if s.inService ph && s.setReady a then .pool ph else .refused 5
      | _, _ => .refused 2)
  else if a < 0x36400000000 then
    let d := (a - 0x30000000000) / 2 ^ 32
    (if !word then .refused 1
    else if safe then (if !write && (d == 94 || d == 95) then .csr a else .refused 5)
    else if write then
      (match fileAt a with
      | some (h, _, _) => if s.hartPart h = some m.fn.val then .csr a else .refused 1
      | none => .refused 1)
    else .csr a)
  else if 0x3F000000000 + m.fn.val * 0x1000000 ≤ a ∧ a < 0x3F000000000 + (m.fn.val + 1) * 0x1000000 then
    (if !word then .refused 1 else if safe && write then .refused 5 else .fn (a % 0x1000000))
  else .refused 1

/-- A write of one word of a function region (Tables 15-7 and 15-8): enable and reset, doorbells and vectors act; every other register is
written as `fnWriteWord` states. -/
def State.fnWrite (s : State) (p off : Nat) (v : Word) : State :=
  if off = 0 then
    let s := s.fnEnable p (v.getLsbD 0)
    if v.getLsbD 1 then s.fnReset p else s
  else if 0x10000 ≤ off ∧ off < 0x18000 ∨ 0x20000 ≤ off ∧ off < 0x28000 then s.bellAt p off v
  else if 0x100000 ≤ off ∧ off < 0x110000 then
    let n := (off - 0x100000) / 16
    let e := (s.fn p).msi.get MsiEntry.reset n
    match off % 16 / 4 with
    | 0 => s.msiWrite p n ((e.addr.extractLsb' 32 32) ++ v) e.value e.mask
    | 1 => s.msiWrite p n (v ++ (e.addr.extractLsb' 0 32)) e.value e.mask
    | 2 => s.msiWrite p n e.addr v e.mask
    | _ => s.msiWrite p n e.addr e.value (v.getLsbD 0)
  else s.fnWriteWord p off v

/-- A write of one word at any CSR address, with what the register it reaches does. -/
def State.csrStore (s : State) (a : Nat) (v : Word) : State :=
  match csrPlace a with
  | .fn p off => s.fnWrite p off v
  | _ => s.regWrite a v

/-- CSR_WRITE (R6 to R9): the words of the access in ascending order; a master that may not access the window changes nothing (R375). -/
def execCsrWrite (agent addr size : Nat) (value : DWord) (s : State) : Outcome :=
  gate s (fun s =>
    if csrAligned addr size then
      if csrMay agent addr then
        let s := s.csrStore addr (value.setWidth 32)
        if size = 8 then s.csrStore (addr + 4) ((value >>> 32).setWidth 32) else s
      else s
    else s.send (.contained agent 0x100))

/-- Runs `f` on a word write, or on the two words of an 8-byte write in ascending order. -/
def wordWrites (s : State) (a : Nat) (b : List Byte) (f : State → Nat → Word → State) : State :=
  let s := f s a (BitVec.ofNat 32 (leAt b 0 4))
  if b.length = 8 then f s (a + 4) (BitVec.ofNat 32 (leAt b 4 4)) else s

/-- Whether the companion's messages reach the device: its port carries traffic, and the package is powered and not held in reset. -/
def State.linkHears (s : State) (p : JxlPort) : Bool :=
  (s.phase == .running || s.phase == Phase.safe) && (s.linkSt (.jxl p) == 2 || s.linkSt (.jxl p) == 3)

/-- NC_RD (R418): a read of the Pool is performed as RdNA (R423), a line with an open transaction is read later (log 20). -/
def execNcRd (p : JxlPort) (m : LinkMsg) (s : State) : Outcome :=
  if !s.linkHears p then .next s
  else
    let (_, n) := ncRange m
    .next (match s.ncDecode p m false with
    | .refused st => s.linkAnswer p m 0x22 st 0 []
    | .csr a => s.linkAnswer p m 0x22 0 0 (leBytes n (s.csrRead a n).toNat)
    | .fn off => s.linkAnswer p m 0x22 0 0 (leBytes n (s.csrRead (0x3F000000000 + m.fn.val * 0x1000000 + off) n).toNat)
    | .pool ph =>
      let (s, free) := s.lineFree (ph / 128) false
      if !free then s
      else
        let (s, d, bad) := s.readPhys ph n (dieStack (92 + p.val))
        s.linkAnswer p m 0x22 (if bad then 4 else 0) 0 d)

/-- Performs an NcWr: a write of the Pool as WrF or WrP (R423), then acknowledged. Answers whether it is done: a line with an open transaction must
wait (log 20). -/
def State.ncWrite (s : State) (p : JxlPort) (m : LinkMsg) : State × Bool :=
  let (_, n) := ncRange m
  let b := padTo n m.data
  match s.ncDecode p m true with
  | .refused st => (s.linkAnswer p m 0x22 st 0 [], true)
  | .csr a => ((wordWrites s a b State.regWrite).linkAnswer p m 0x22 0 0 [], true)
  | .fn off => ((wordWrites s off b (fun s o v => s.fnWrite m.fn.val o v)).linkAnswer p m 0x22 0 0 [], true)
  | .pool ph =>
    let (s, free) := s.lineFree (ph / 128) true
    if !free then (s, false)
    else
      let s := if m.len = 3 then s.writeLine (ph / 128) m.mask m.data m.poison else s.writePhys ph b m.poison
      (s.linkAnswer p m 0x22 0 0 [], true)

/-- Performs writes of one function that wait, in the order in which they arrived, until one must wait on; answers those left. -/
def ncDrain (p : JxlPort) : List LinkMsg → State → State × List LinkMsg
  | [], s => (s, [])
  | m :: r, s => let (s, done) := s.ncWrite p m; if done then ncDrain p r s else (s, m :: r)

/-- NC_WR (R416, R418): the writes of one function are performed in the order in which they arrive, so one that finds another waiting waits behind it;
a waiting write that is commanded again is tried again, with those behind it. -/
def execNcWr (p : JxlPort) (m : LinkMsg) (s : State) : Outcome :=
  if !s.linkHears p then .next s
  else
    let mine (x : JxlPort × LinkMsg) : Bool := x.1 == p && x.2.fn == m.fn
    let waiting := (s.ncWait.filter mine).map (·.2)
    let (s, left) := ncDrain p (if waiting.contains m then waiting else waiting ++ [m]) s
    .next { s with ncWait := s.ncWait.filter (fun x => !mine x) ++ left.map (fun x => (p, x)) }

/-- NC_CMP (R417): the answer to a hart's non-coherent read arrives; a status other than OK ends the access in "host unreachable". -/
def execNcCmp (p : JxlPort) (m : LinkMsg) (s : State) : Outcome :=
  if !s.linkHears p || s.phase != .running then .next s
  else match s.hostReads.find? (fun x => x.1 == m.tag) with
    | none => .next s
    | some (tag, n) =>
      let s := { s with hostReads := s.hostReads.filter (fun x => x.1 != tag) }
      if m.status = 0 ∨ m.status = 4 then
        .next (s.modHart n (fun h => { h with
          nc := h.nc.map (fun x => if x.tag = tag then { x with reply := some (padTo x.size m.data, m.poison || m.status == 4) } else x) }))
      else .next ((s.modHart n (fun h => { h with nc := h.nc.filter (fun x => x.tag != tag) })).send (.contained (hartDie n * 512 + n % 64) 0x117))

end Sys2Proof.Machine
end

