-- ==== Sys2Proof/Machine/Hallway.lean ====
section
/-! DEFINITION. The commands of the Hallway's ports: packets, training, check windows and width negotiation (R27 to R40). -/

namespace Sys2Proof.Machine

/-- Whether a packet for a die is delivered at the router of a die (R64, R65). -/
def deliveredAt (die dst : Nat) : Bool :=
  if 72 ≤ die ∧ die < 96 then die == dst else dieStack dst == dieStack die && !(decide (72 ≤ dst) && decide (dst < 96))

/-- The sender drops a packet its receiver has acknowledged (R28). -/
def State.ackSender (s : State) (p : HalPort) (pkt : Packet) : State :=
  match halOther p with
  | some o => s.setPort o { s.port o with replay := (s.port o).replay.erase pkt }
  | none => s

/-- A port takes a packet with a correct CRC: acknowledged, then accepted here or sent on by R31. -/
def State.takePacket (s : State) (p : HalPort) (pkt : Packet) : State :=
  let s := (s.send (.hallwayAck p pkt.seq)).ackSender p pkt
  if deliveredAt p.die.val pkt.dst.val then s.acceptPacket pkt
  else s.forward p.die.val (p.p.val / 4) pkt (halUnit p)

/-- HALLWAY_PACKET_RECEIVE (R27, R28, R31). -/
def execHallwayPacketReceive (p : HalPort) (pkt : Packet) (crcOk : Bool) (s : State) : Outcome :=
  gate s (fun s =>
    if s.halState p = 3 then (if crcOk then s.takePacket p pkt else s.send (.hallwayReplay p)) else s)

/-- HALLWAY_REPLAY_REQUEST (R28): the replay buffer is sent again, and the replay is reported against the port. -/
def execHallwayReplayRequest (p : HalPort) (s : State) : Outcome :=
  gate s (fun s =>
    let k := s.port p
    if s.halState p = 3 ∧ k.replay ≠ [] then
      (overList s k.replay (fun s pkt => s.send (.hallway p pkt))).noteFault (mkFault p.die 0x08 (halUnit p) .port p.p.val 0 0)
    else s)

/-- HALLWAY_PORT_TRAIN (R32, R33): the bundles that passed, less every fenced one, make the inbound mask; then the port negotiates. A port in
service enters HOLD first, and a port in HOLD leaves it only for ACTIVE or FENCED (R36). -/
def execHallwayPortTrain (p : HalPort) (passed : BitVec 66) (s : State) : Outcome :=
  gate s (fun s =>
    if s.halState p = 4 ∨ s.halState p = 5 then s
    else
      let s := if s.halState p = 3 then s.enterHold p else s
      let s := s.setInbound p (passed &&& ~~~ (s.port p).fenced &&& ~~~ s.cfgFenced p)
      let s := s.setFld (halReg p).1 (halReg p).2 15 8 ((hallPeer p.die.val p.p.val).getD 0xFF)
      (s.setHalState p (if s.halState p = 2 then 2 else 1)).startRound p (s.fld (halReg p).1 (halReg p).2 27 24 + 1))

/-- The error history of a port after a window: the last ten counts of each bundle (R34). -/
def windowsAfter (old : List (Nat × List Nat)) (errors : List (Nat × Nat)) : List (Nat × List Nat) :=
  (List.range 66).filterMap (fun b =>
    let e := ((errors.find? (fun x => x.1 == b)).map (·.2)).getD 0
    let h := (e :: ((old.find? (fun x => x.1 == b)).map (·.2)).getD []).take 10
    if h.all (· == 0) then none else some (b, h))

/-- CHECK_WINDOW (R34): a bundle with more than 16 errors in ten consecutive windows is fenced and the port renegotiates. -/
def execCheckWindow (p : HalPort) (errors : List (Nat × Nat)) (s : State) : Outcome :=
  gate s (fun s =>
    if s.halState p = 3 then
      let w := windowsAfter (s.port p).windows errors
      let s := s.setPort p { s.port p with windows := w }
      overList s ((w.filter (fun x => 16 < x.2.sum && !(s.port p).fenced.getLsbD x.1)).map (·.1)) (fun s b =>
        s.leafDetect (mkFault p.die 0x09 (halUnit p) .bundle (p.p.val * 128 + b) 0 7))
    else s)

/-- FORWARDED_CLOCK_LOSS (R36). -/
def execForwardedClockLoss (p : HalPort) (s : State) : Outcome :=
  gate s (fun s => if s.halState p = 3 ∨ s.halState p = 1 then s.enterHold p else s)

/-- A failed attempt: the next one follows after 10 µs; the third fences the port (R38, R40). -/
def State.attemptFails (s : State) (p : HalPort) : State :=
  let n := s.fld (halReg p).1 (halReg p).2 27 24 + 1
  let s := s.setFld (halReg p).1 (halReg p).2 27 24 n
  let s := s.setPort p { s.port p with round := 0, confirmed := none, peerProposal := none, backingOff := decide (n < 3) }
  if 3 ≤ n then s.leafDetect (mkFault p.die 0x0A (halUnit p) .port p.p.val 0 7) else s

/-- The port's own proposal: the largest width its inbound mask gives (R38). -/
def State.proposal (s : State) (p : HalPort) : Nat := widthOf (popCount 66 (s.inbound p))

/-- Compares the confirm tokens of round 2: equal widths make the port ACTIVE (R38). -/
def State.confirmRound (s : State) (p : HalPort) : State :=
  let k := s.port p
  match k.peerProposal, k.confirmed with
  | some w, some c =>
    if k.round = 2 then
      if c = min (s.proposal p) w then
        let s := s.setPort p { k with round := 0, attempt := 0, confirmed := none, peerProposal := none, backingOff := false }
        ((s.setFld (halReg p).1 (halReg p).2 27 24 0).setFld (halReg p).1 (halReg p).2 23 16 c).setHalState p 3
      else s.attemptFails p
    else s
  | _, _ => s

/-- A mask token of the port's own attempt: the agreed width is confirmed, or the attempt fails below 16 (R38). -/
def State.takeMask (s : State) (p : HalPort) (width : Nat) (mask : BitVec 66) : State :=
  let k := s.port p
  let agreed := min (s.proposal p) width
  let s := s.setPort p { k with round := 2, peerMask := mask, peerProposal := some width }
  if agreed < 16 then s.attemptFails p
  else (s.send (.widthToken p (widthTokenOf 0x5B k.attempt agreed p.die.val (p.p.val / 4) (s.inbound p)))).confirmRound p

/-- A token with a correct CRC at a port that trains or renegotiates (R36 to R39). In the wait after a failed attempt a token of that attempt or
an earlier one is late and starts nothing. -/
def State.takeToken (s : State) (p : HalPort) (t : BitVec 128) : State :=
  let type := bits t.toNat 127 120
  let att := bits t.toNat 119 112
  let width := bits t.toNat 111 104
  let s := if s.halState p = 3 then (if type = 0x5A then (s.enterHold p).startRound p att else s) else s
  if s.halState p = 3 then s
  else
    let own := (s.port p).attempt
    let late := (s.port p).backingOff && decide (att ≤ own)
    let s := if !late && (decide ((s.port p).round = 0) || decide (att ≠ own)) then s.startRound p (max att own) else s
    if late ∨ att ≠ (s.port p).attempt then s
    else if type = 0x5A then (if (s.port p).round = 1 then s.takeMask p width (t.extractLsb' 16 66) else s)
    else if type = 0x5B then (s.setPort p { s.port p with confirmed := some width }).confirmRound p
    else s

/-- WIDTH_TOKEN (R37 to R39). -/
def execWidthToken (p : HalPort) (t : BitVec 128) (s : State) : Outcome :=
  gate s (fun s =>
    let att := bits t.toNat 119 112
    if bits t.toNat 15 0 = crc16 112 (t.toNat / 2 ^ 16) ∧ 1 ≤ att ∧ att ≤ 3 ∧
        (s.halState p = 1 ∨ s.halState p = 2 ∨ s.halState p = 3) then s.takeToken p t else s)

/-- NEGOTIATION_ROUND_TIMEOUT (R38). -/
def execNegotiationRoundTimeout (p : HalPort) (s : State) : Outcome :=
  gate s (fun s => if (s.port p).round = 0 then s else s.attemptFails p)

/-- NEGOTIATION_BACKOFF_EXPIRY (R38). -/
def execNegotiationBackoffExpiry (p : HalPort) (s : State) : Outcome :=
  gate s (fun s => if (s.port p).backingOff then s.startRound p (s.fld (halReg p).1 (halReg p).2 27 24 + 1) else s)

end Sys2Proof.Machine
end

