-- ==== Sys2Proof/Machine/HartFp.lean ====
section
/-! DEFINITION. A hart's computing instructions beside the base: bit manipulation and conditional zeroing of the profile, and scalar
floating point with its NaN trap (R392, R394, R395). -/

namespace Sys2Proof.Machine

/-! ## Zba, Zbb, Zbs and Zicond (log 25) -/

/-- Rotates a number of `w` bits to the left. -/
def rotl (w v k : Nat) : Nat := (v * 2 ^ (k % w) + v % 2 ^ w / 2 ^ (w - k % w)) % 2 ^ w
/-- Leading zeros, trailing zeros and ones of a number of `w` bits. -/
def clzN (w v : Nat) : Nat := ((List.range w).find? (fun i => bitAt v (w - 1 - i))).getD w
def ctzN (w v : Nat) : Nat := ((List.range w).find? (fun i => bitAt v i)).getD w
def popN (w v : Nat) : Nat := ((List.range w).filter (fun i => bitAt v i)).length

/-- Register-register operations. -/
def zbOp (word : Bool) (f3 f7 rs2 : Nat) (a b : DWord) : Option DWord :=
  let sh := b.toNat % 64
  let one : DWord := 1 <<< sh
  let aw : DWord := (a.setWidth 32).setWidth 64
  match word, f7, f3 with
  | false, 0x10, 2 => some ((a <<< 1) + b) | false, 0x10, 4 => some ((a <<< 2) + b) | false, 0x10, 6 => some ((a <<< 3) + b)
  | false, 0x20, 7 => some (a &&& ~~~ b) | false, 0x20, 6 => some (a ||| ~~~ b) | false, 0x20, 4 => some (~~~ (a ^^^ b))
  | false, 5, 4 => some (if a.slt b then a else b) | false, 5, 5 => some (if a < b then a else b)
  | false, 5, 6 => some (if a.slt b then b else a) | false, 5, 7 => some (if a < b then b else a)
  | false, 0x30, 1 => some (BitVec.ofNat 64 (rotl 64 a.toNat sh)) | false, 0x30, 5 => some (BitVec.ofNat 64 (rotl 64 a.toNat (64 - sh)))
  | false, 0x24, 1 => some (a &&& ~~~ one) | false, 0x24, 5 => some ((a >>> sh) &&& 1) | false, 0x34, 1 => some (a ^^^ one) | false, 0x14, 1 => some (a ||| one)
  | false, 7, 5 => some (if b = 0 then 0 else a) | false, 7, 7 => some (if b = 0 then a else 0)
  | true, 4, 0 => some (aw + b) | true, 0x10, 2 => some ((aw <<< 1) + b) | true, 0x10, 4 => some ((aw <<< 2) + b) | true, 0x10, 6 => some ((aw <<< 3) + b)
  | true, 4, 4 => if rs2 = 0 then some (a &&& 0xFFFF) else none
  | true, 0x30, 1 => some (sextW (BitVec.ofNat 32 (rotl 32 (a.toNat % 2 ^ 32) (sh % 32))))
  | true, 0x30, 5 => some (sextW (BitVec.ofNat 32 (rotl 32 (a.toNat % 2 ^ 32) (32 - sh % 32))))
  | _, _, _ => none

/-- Register-immediate operations. -/
def zbOpImm (word : Bool) (f3 imm : Nat) (a : DWord) : Option DWord :=
  let n := a.toNat
  let sh := imm % 64
  let bytes := (List.range 8).map (fun i => n / 256 ^ i % 256)
  if word then
    (match f3, imm with
    | 1, 0x600 => some (BitVec.ofNat 64 (clzN 32 n)) | 1, 0x601 => some (BitVec.ofNat 64 (ctzN 32 n)) | 1, 0x602 => some (BitVec.ofNat 64 (popN 32 n))
    | _, _ =>
      if f3 = 1 ∧ imm / 64 = 2 then some ((a.setWidth 32).setWidth 64 <<< sh)
      else if f3 = 5 ∧ imm / 32 = 0x30 then some (sextW (BitVec.ofNat 32 (rotl 32 (n % 2 ^ 32) (32 - imm % 32))))
      else none)
  else
    match f3, imm with
    | 1, 0x600 => some (BitVec.ofNat 64 (clzN 64 n)) | 1, 0x601 => some (BitVec.ofNat 64 (ctzN 64 n)) | 1, 0x602 => some (BitVec.ofNat 64 (popN 64 n))
    | 1, 0x604 => some (sext 8 n) | 1, 0x605 => some (sext 16 n)
    | 5, 0x287 => some (BitVec.ofNat 64 (leNat (bytes.map (fun x => if x = 0 then (0 : Byte) else 0xFF))))
    | 5, 0x6B8 => some (BitVec.ofNat 64 (leNat (bytes.reverse.map (BitVec.ofNat 8))))
    | _, _ =>
      let one : DWord := 1 <<< sh
      match f3, imm / 64 with
      | 1, 0x12 => some (a &&& ~~~ one) | 1, 0x1A => some (a ^^^ one) | 1, 0xA => some (a ||| one)
      | 5, 0x18 => some (BitVec.ofNat 64 (rotl 64 n (64 - sh))) | 5, 0x12 => some ((a >>> sh) &&& 1)
      | _, _ => none

/-! ## Scalar floating point (R394, R395) -/

/-- What a floating-point instruction does: writes a floating-point or an integer register with flags and whether a NaN was produced, or is
illegal. -/
inductive FpRes where
  | f (v : DWord) (flags : Nat) (made : Bool)
  | x (v : DWord) (flags : Nat)
  | illegal

/-- The format of a width code: single, double, half. -/
def fpFmt (c : Nat) : Option Fmt := match c with | 0 => some fp32 | 1 => some fp64 | 2 => some fp16 | _ => none
/-- A value of a format in a register: narrower ones are boxed in ones, and a register that is not boxed reads as the canonical NaN. -/
def boxed (f : Fmt) (b : Nat) : DWord := BitVec.ofNat 64 (2 ^ 64 - 2 ^ f.w + b)
def unboxed (f : Fmt) (v : DWord) : Nat := if v.toNat / 2 ^ f.w = 2 ^ (64 - f.w) - 1 then v.toNat % 2 ^ f.w else f.canon

/-- A number converted to an integer of a width, sign-extended to 64 bits: the ends of the range stand for what lies beyond, and a NaN gives
the greatest. -/
def fpToInt (w : Nat) (signed : Bool) (rm : Rm) (v : FV) : FpRes :=
  let top : Nat := if signed then 2 ^ (w - 1) - 1 else 2 ^ w - 1
  match v with
  | .nan _ _ _ => .x (sext w top) 16
  | .inf neg => .x (sext w (if neg then (if signed then 2 ^ (w - 1) else 0) else top)) 16
  | .num neg m e => let r := intRound w signed rm neg m e; .x (sext w r.bits) r.flags

/-- fclass: one bit of ten. -/
def fpClass (f : Fmt) (b : Nat) : Nat :=
  match f.decode b with
  | .inf neg => if neg then 1 else 128
  | .nan _ sig _ => if sig then 256 else 512
  | .num neg m _ => if m = 0 then (if neg then 8 else 16) else if b % 2 ^ (f.w - 1) < 2 ^ f.fb then (if neg then 4 else 32) else (if neg then 2 else 64)

/-- fmin and fmax: a NaN gives way to a number, and −0 is below +0. -/
def fpMinMax (f : Fmt) (max : Bool) (a b : Nat) : FpRes :=
  let x := f.decode a
  let y := f.decode b
  let flags := if x.isSig || y.isSig then 16 else 0
  let r := if x.isNan && y.isNan then f.canon else if x.isNan then b else if y.isNan then a else colPick f max a b
  .f (boxed f r) flags false

/-- fli (Zfa): the number of index `i` in the published table; the least positive normal number, infinity and the canonical NaN are the
format's own. -/
def fpConst (f : Fmt) (i : Nat) : Nat :=
  let n (neg : Bool) (m : Nat) (e : Int) : Nat := (f.round .rne false neg m e).bits
  match i with
  | 0 => n true 1 0
  | 1 => 2 ^ f.fb
  | 2 => n false 1 (-16) | 3 => n false 1 (-15) | 4 => n false 1 (-8) | 5 => n false 1 (-7) | 6 => n false 1 (-4) | 7 => n false 1 (-3)
  | 26 => n false 1 7 | 27 => n false 1 8 | 28 => n false 1 15 | 29 => n false 1 16
  | 30 => f.infCode
  | 31 => f.canon
  | _ =>
    if i < 20 then n false (4 + i % 4) ((i / 4 : Nat) - 6)
    else n false (if i = 20 then 8 else if i = 21 then 10 else if i = 22 then 12 else if i = 23 then 16 else if i = 24 then 32 else 64) (-2)

/-- fround and froundnx (Zfa): a number rounded to a whole one of its format; only froundnx notes that it changed. -/
def fpRound (f : Fmt) (rm : Rm) (nx : Bool) (a : Nat) : FRes :=
  match f.decode a with
  | .nan _ s _ => f.nanRes s false
  | .inf _ => { bits := a, flags := 0, made := false }
  | .num neg m e =>
    let r := roundAt rm neg m e 0
    if 0 ≤ e then { bits := a, flags := 0, made := false }
    else { bits := (f.round .rne false neg r.1 0).bits, flags := if nx && r.2 then 1 else 0, made := false }

/-- fcvtmod.w.d (Zfa): a double truncated to a whole number, modulo 2^32 and sign-extended; the flags are those of the truncating conversion. -/
def fpMod (v : FV) : FpRes :=
  match v with
  | .num neg m e =>
    let r := roundAt .rtz neg m e 0
    .x (sext 32 (if neg then (2 ^ 32 - r.1 % 2 ^ 32) % 2 ^ 32 else r.1 % 2 ^ 32)) (intRound 32 true .rtz neg m e).flags
  | _ => .x 0 16

/-- An operation of opcode OP-FP or of the fused multiply-adds: the word, the source registers, frm, and rs1 as an integer. -/
def fpExec (w : Nat) (fr : Nat → DWord) (xr : DWord) (frm : Nat) : FpRes :=
  let opc := w % 128
  let f5 := bits w 31 27
  let rs1 := bits w 19 15
  let rs2 := bits w 24 20
  let rs3 := bits w 31 27
  let f3 := bits w 14 12
  let rmC := if f3 = 7 then frm else f3
  match fpFmt (bits w 26 25) with
  | none => .illegal
  | some f =>
    let rm := rmOf rmC
    let a := unboxed f (fr rs1)
    let b := unboxed f (fr rs2)
    let out (r : FRes) : FpRes := if 4 < rmC then .illegal else .f (boxed f r.bits) r.flags r.made
    let flip (v : Nat) : Nat := Nat.xor v (2 ^ (f.w - 1))
    let va := f.decode a
    let vb := f.decode b
    let fma (x y z : Nat) : FpRes := out (f.fmaV rm (f.decode x) (f.decode y) (f.decode z))
    if opc = 0x43 then fma a b (unboxed f (fr rs3))
    else if opc = 0x47 then fma a b (flip (unboxed f (fr rs3)))
    else if opc = 0x4B then fma (flip a) b (unboxed f (fr rs3))
    else if opc = 0x4F then fma (flip a) b (flip (unboxed f (fr rs3)))
    else match f5 with
      | 0 => out (f.addV rm va vb)
      | 1 => out (f.addV rm va vb.negate)
      | 2 => out (f.mulV rm va vb)
      | 3 => out (f.divV rm va vb)
      | 0xB => if rs2 = 0 then out (f.sqrtV rm va) else .illegal
      | 4 =>
        let m := 2 ^ (f.w - 1)
        (match f3 with
        | 0 => .f (boxed f (a % m + b / m * m)) 0 false
        | 1 => .f (boxed f (a % m + (1 - b / m) * m)) 0 false
        | 2 => .f (boxed f (a % m + Nat.xor (a / m) (b / m) * m)) 0 false
        | _ => .illegal)
      | 5 =>
        if f3 < 2 then fpMinMax f (f3 == 1) a b
        else if f3 < 4 then
          (if va.isNan || vb.isNan then .f (boxed f f.canon) (if va.isSig || vb.isSig then 16 else 0) false else fpMinMax f (f3 == 3) a b)
        else .illegal
      | 0x14 =>
        let o := va.cmp vb
        let sig := va.isSig || vb.isSig
        (match f3 with
        | 2 => .x (if o = some .eq then 1 else 0) (if sig then 16 else 0)
        | 1 => .x (if o = some .lt then 1 else 0) (if o.isNone then 16 else 0)
        | 0 => .x (if o = some .lt ∨ o = some .eq then 1 else 0) (if o.isNone then 16 else 0)
        | 5 => .x (if o = some .lt then 1 else 0) (if sig then 16 else 0)
        | 4 => .x (if o = some .lt ∨ o = some .eq then 1 else 0) (if sig then 16 else 0)
        | _ => .illegal)
      | 0x18 =>
        if rs2 = 8 ∧ f = fp64 ∧ f3 = 1 then fpMod va
        else if 4 < rmC ∨ 3 < rs2 then .illegal else fpToInt (if rs2 < 2 then 32 else 64) (rs2 % 2 == 0) (rmOf rmC) va
      | 0x1A =>
        if 3 < rs2 then .illegal
        else
          let n := if rs2 < 2 then 32 else 64
          let v := xr.toNat % 2 ^ n
          let neg := rs2 % 2 == 0 && bitAt v (n - 1)
          out (f.round (rmOf rmC) false neg (if neg then 2 ^ n - v else v) 0)
      | 8 =>
        if rs2 = 6 ∧ f = fp32 then out (convert (.flt fp32) true (rmOf rmC) false (bf16.decode (unboxed bf16 (fr rs1))))
        else if rs2 = 8 ∧ f = fp16 then
          (let r := convert (.flt bf16) true (rmOf rmC) false (fp32.decode (unboxed fp32 (fr rs1)))
           if 4 < rmC then .illegal else .f (boxed bf16 r.bits) r.flags r.made)
        else if rs2 = 4 ∨ rs2 = 5 then out (fpRound f (rmOf rmC) (rs2 == 5) a)
        else (match fpFmt rs2 with
        | some g => if g = f then .illegal else out (convert (.flt f) true (rmOf rmC) false (g.decode (unboxed g (fr rs1))))
        | none => .illegal)
      | 0x1C =>
        if rs2 ≠ 0 then .illegal
        else if f3 = 0 then .x (sext f.w ((fr rs1).toNat % 2 ^ f.w)) 0
        else if f3 = 1 then .x (BitVec.ofNat 64 (fpClass f a)) 0
        else .illegal
      | 0x1E =>
        if rs2 = 0 ∧ f3 = 0 then .f (boxed f (xr.toNat % 2 ^ f.w)) 0 false
        else if rs2 = 1 ∧ f3 = 0 then .f (boxed f (fpConst f rs1)) 0 false
        else .illegal
      | _ => .illegal

end Sys2Proof.Machine
end

