-- ==== Sys2Proof/Machine/HartVec.lean ====
section
/-! DEFINITION. The vector operations of a hart: the published vector specification with VLEN 512 and ELEN 64, half precision, BF16 and the
bit manipulation of the profile (R392, R394, log 27), and the fast mode of CPU_FPCTL (R394). -/

namespace Sys2Proof.Machine

/-! ## Registers and groups -/

/-- Bytes of a group of vector registers from register r, and writing them. -/
def Hart.vGet (h : Hart) (r off n : Nat) : Nat := (h.v.get 0 (r + off / 64)).toNat / 256 ^ (off % 64) % 256 ^ n
def Hart.vSet (h : Hart) (r off n v : Nat) : Hart :=
  let i := r + off / 64
  let o := (h.v.get 0 i).toNat
  let k := off % 64
  { h with v := h.v.set 0 i (BitVec.ofNat 512 (o % 256 ^ k + v % 256 ^ n * 256 ^ k + o / 256 ^ (k + n) * 256 ^ (k + n))) }

/-- The element width in bytes of a vtype value, its register-group size as eighths, and the most elements; none where vtype is illegal. -/
def vtypeMax (t : Nat) : Option (Nat × Nat × Nat) :=
  let sew := 2 ^ bits t 5 3
  let m8 := match t % 8 with | 0 => 8 | 1 => 16 | 2 => 32 | 3 => 64 | 5 => 1 | 6 => 2 | 7 => 4 | _ => 0
  if 3 < bits t 5 3 ∨ 256 ≤ t ∨ m8 = 0 ∨ 8 * m8 < 8 * sew then none else some (sew, m8, 64 * m8 / 8 / sew)

/-- What a vector operation reads: the hart, the word, the element width in bytes, the group size in eighths, and the counter of free values. -/
structure VIn where
  h    : Hart
  w    : Nat
  sew  : Nat
  m8   : Nat
  free : Nat

def VIn.f3 (v : VIn) : Nat := bits v.w 14 12
def VIn.f6 (v : VIn) : Nat := bits v.w 31 26
def VIn.vd (v : VIn) : Nat := bits v.w 11 7
def VIn.vs1 (v : VIn) : Nat := bits v.w 19 15
def VIn.vs2 (v : VIn) : Nat := bits v.w 24 20
/-- Whether the operation is unmasked. -/
def VIn.vm (v : VIn) : Bool := bitAt v.w 25
def VIn.vl (v : VIn) : Nat := (v.h.csr 0xC20).toNat
def VIn.vstart (v : VIn) : Nat := (v.h.csr 8).toNat
def VIn.max (v : VIn) : Nat := 8 * v.m8 / v.sew
/-- A bit of the mask in v0. -/
def VIn.on (v : VIn) (i : Nat) : Bool := bitAt (v.h.v.get 0 0).toNat i
/-- The body's elements, and the active ones. -/
def VIn.body (v : VIn) : List Nat := (List.range v.vl).filter (fun i => decide (v.vstart ≤ i))
def VIn.act (v : VIn) : List Nat := v.body.filter (fun i => v.vm || v.on i)
/-- Element `i` of `e` bytes of a group. -/
def VIn.el (v : VIn) (r e i : Nat) : Nat := v.h.vGet r (i * e) e

/-- Registers of a group of a size in eighths, and whether a register may start it. -/
def vRegs (m8 : Nat) : Nat := Nat.max 1 (m8 / 8)
def vGroupOk (r m8 : Nat) : Bool := decide (1 ≤ m8) && decide (m8 ≤ 64) && r % vRegs m8 == 0
/-- Whether two groups share a register. -/
def vMeets (a n b k : Nat) : Bool := decide (a < b + k) && decide (b < a + n)
/-- Whether a destination may share registers with a source: register, size in eighths, and element width in bits of each. -/
def vShareOk (d dm de s sm se : Nat) : Bool :=
  !vMeets d (vRegs dm) s (vRegs sm) || de == se || (decide (se < de) && decide (8 ≤ sm) && s + vRegs sm == d + vRegs dm) || (decide (de < se) && s == d)

/-- A source group: register, size in eighths, element width in bits. -/
abbrev VSrc := Nat × Nat × Nat

/-- Whether groups are legal: aligned, of a legal size, overlapping as they may; a masked operation does not write v0 but as a mask. -/
def VIn.legal (v : VIn) (dm de : Nat) (srcs : List VSrc) : Bool :=
  vGroupOk v.vd dm && srcs.all (fun s => vGroupOk s.1 s.2.1 && vShareOk v.vd dm de s.1 s.2.1 s.2.2) && (v.vm || v.vd != 0 || de == 1)

/-! ## Results -/

/-- An element's result: its value, exception flags, whether it saturated, and whether it produced a NaN. -/
structure VEl where
  v    : Nat
  fl   : Nat := 0
  sat  : Bool := false
  made : Bool := false

/-- Where a result goes: elements of so many bytes of a group, bits of a mask, an integer or a floating-point register; `body` is the length
before the tail. -/
inductive VDst where
  | elems (e m8 body : Nat) (l : List (Nat × Nat))
  | mask (l : List (Nat × Bool))
  | x (v : DWord)
  | f (v : DWord)

/-- The result of a vector operation: `made` is the first element that produced a NaN. -/
structure VOut where
  dst  : VDst
  fl   : Nat := 0
  sat  : Bool := false
  made : Option Nat := none

/-- The flags, saturation and first produced NaN of elements. -/
def vGather (dst : VDst) (l : List (Nat × VEl)) : VOut :=
  { dst := dst, fl := l.foldl (fun f x => f ||| x.2.fl) 0, sat := l.any (fun x => x.2.sat), made := (l.find? (fun x => x.2.made)).map (·.1) }

/-- Element by element over the active elements: `f` answers none where the operation is illegal. -/
def VIn.each (v : VIn) (e m8 : Nat) (srcs : List VSrc) (f : Nat → Option VEl) : Option VOut :=
  if !v.legal m8 (8 * e) srcs || e = 0 || 8 < e || (f 0).isNone then none
  else
    let l := v.act.filterMap (fun i => (f i).map (fun x => (i, x)))
    some (vGather (.elems e m8 v.vl (l.map (fun x => (x.1, x.2.v)))) l)

/-- A mask of the elements `on` of the body. -/
def VIn.eachBit (v : VIn) (idx : List Nat) (srcs : List VSrc) (f : Nat → Option VEl) : Option VOut :=
  if !v.legal 8 1 srcs || (f 0).isNone then none
  else
    let l := idx.filterMap (fun i => (f i).map (fun x => (i, x)))
    some (vGather (.mask (l.map (fun x => (x.1, x.2.v == 1)))) l)

/-- One result in element 0, which stands alone in its register. -/
def VIn.single (v : VIn) (e : Nat) (x : VEl) : VOut :=
  { dst := .elems e 8 1 (if v.vstart < v.vl then [(0, x.v)] else []), fl := if v.vstart < v.vl then x.fl else 0,
    made := if x.made ∧ v.vstart < v.vl then some 0 else none }

/-! ## Integer elements -/

/-- A number of `w` bits as a signed one, and back. -/
def si (w v : Nat) : Int := if bitAt v (w - 1) then (v % 2 ^ w : Nat) - (2 ^ w : Nat) else (v % 2 ^ w : Nat)
def un (w : Nat) (i : Int) : Nat := (i % (2 ^ w : Nat)).toNat
/-- Whether vxrm rounds up a rest `r` of `p` parts above a whole number: to nearest up, to nearest even, down, to odd. -/
def vRoundUp (rm p r : Nat) (odd : Bool) : Bool :=
  match rm % 4 with
  | 0 => decide (p ≤ 2 * r)
  | 1 => decide (p < 2 * r) || (decide (2 * r = p) && odd)
  | 2 => false
  | _ => r != 0 && !odd
/-- Shifts right by `d` and rounds by vxrm. -/
def vRoundOff (rm d : Nat) (x : Int) : Int :=
  let p : Nat := 2 ^ d
  let q : Int := x / (p : Int)
  if vRoundUp rm p (x % (p : Int)).toNat (q % 2 == 1) then q + 1 else q
/-- A number held within the range of `w` bits. -/
def vSat (w : Nat) (signed : Bool) (x : Int) : VEl :=
  let lo : Int := if signed then -(2 ^ (w - 1) : Nat) else 0
  let hi : Int := if signed then (2 ^ (w - 1) : Nat) - 1 else (2 ^ w : Nat) - 1
  if x < lo then { v := un w lo, sat := true } else if hi < x then { v := un w hi, sat := true } else { v := un w x }

/-- Operations of OPIVV, OPIVX and OPIVI that take an element each of `w` bits: a of vs2, b the other. -/
def vIntEl (f6 w vx a b : Nat) : Option VEl :=
  let k := b % w
  let s := si w
  let r (x : Int) : Option VEl := some { v := un w x }
  match f6 with
  | 0 => r (a + b) | 2 => r (a - b) | 3 => r (b - a)
  | 1 => some { v := Nat.land a (2 ^ w - 1 - b) } | 9 => some { v := Nat.land a b } | 0xA => some { v := Nat.lor a b } | 0xB => some { v := Nat.xor a b }
  | 4 => some { v := min a b } | 6 => some { v := Nat.max a b } | 5 => some { v := if s a < s b then a else b } | 7 => some { v := if s a < s b then b else a }
  | 0x14 => some { v := rotl w a (w - k) } | 0x15 => some { v := rotl w a k }
  | 0x20 => some (vSat w false (a + b)) | 0x21 => some (vSat w true (s a + s b)) | 0x22 => some (vSat w false (a - b)) | 0x23 => some (vSat w true (s a - s b))
  | 0x25 => r (a * 2 ^ k) | 0x28 => some { v := a / 2 ^ k } | 0x29 => r (s a / (2 ^ k : Nat))
  | 0x27 => some (vSat w true (vRoundOff vx (w - 1) (s a * s b)))
  | 0x2A => r (vRoundOff vx k a) | 0x2B => r (vRoundOff vx k (s a))
  | _ => none

/-- Comparisons of OPIVV, OPIVX and OPIVI. -/
def vCmpEl (f6 w a b : Nat) : Option Bool :=
  let s := si w
  match f6 with
  | 0x18 => some (a == b) | 0x19 => some (a != b) | 0x1A => some (decide (a < b)) | 0x1B => some (decide (s a < s b))
  | 0x1C => some (decide (a ≤ b)) | 0x1D => some (decide (s a ≤ s b)) | 0x1E => some (decide (b < a)) | 0x1F => some (decide (s b < s a))
  | _ => none

/-- Operations of OPMVV and OPMVX that take an element each of `w` bits: a of vs2, b the other, d the destination's. -/
def vMulEl (f6 w vx a b d : Nat) : Option VEl :=
  let s := si w
  let r (x : Int) : Option VEl := some { v := un w x }
  match f6 with
  | 8 => r (vRoundOff vx 1 (a + b)) | 9 => r (vRoundOff vx 1 (s a + s b)) | 0xA => r (vRoundOff vx 1 (a - b)) | 0xB => r (vRoundOff vx 1 (s a - s b))
  | 0x20 => some { v := if b = 0 then 2 ^ w - 1 else a / b } | 0x21 => r (if b = 0 then -1 else (s a).tdiv (s b))
  | 0x22 => some { v := if b = 0 then a else a % b } | 0x23 => r (if b = 0 then a else (s a).tmod (s b))
  | 0x24 => some { v := a * b / 2 ^ w } | 0x25 => r (a * b) | 0x26 => r (s a * b / (2 ^ w : Nat)) | 0x27 => r (s a * s b / (2 ^ w : Nat))
  | 0x29 => r (b * d + a) | 0x2B => r (-(b * d : Int) + a) | 0x2D => r (b * a + d) | 0x2F => r (-(b * a : Int) + d)
  | _ => none

/-- Widening operations to 2w bits: a of vs2 (of 2w bits in the .w forms), b, and the destination's element. -/
def vWideEl (f6 w a b d : Nat) : Option VEl :=
  let s := si w
  let r (x : Int) : Option VEl := some { v := un (2 * w) x }
  match f6 with
  | 0x30 => r (a + b) | 0x31 => r (s a + s b) | 0x32 => r (a - b) | 0x33 => r (s a - s b)
  | 0x34 => r (a + b) | 0x35 => r (a + s b) | 0x36 => r (a - b) | 0x37 => r (a - s b)
  | 0x38 => r (a * b) | 0x3A => r (s a * b) | 0x3B => r (s a * s b)
  | 0x3C => r (b * a + d) | 0x3D => r (s b * s a + d) | 0x3E => r (b * s a + d) | 0x3F => r (s b * a + d)
  | _ => none

/-- One-operand operations of VXUNARY0 on `w` bits. -/
def vUnaryEl (k w a : Nat) : Option VEl :=
  let rev (n v : Nat) : Nat := ((List.range n).map (fun i => v / 2 ^ i % 2 * 2 ^ (n - 1 - i))).sum
  match k with
  | 8 => some { v := ((List.range (w / 8)).map (fun i => rev 8 (a / 256 ^ i % 256) * 256 ^ i)).sum }
  | 9 => some { v := leNat ((leBytes (w / 8) a).reverse) }
  | 0xA => some { v := rev w a } | 0xC => some { v := clzN w a } | 0xD => some { v := ctzN w a } | 0xE => some { v := popN w a }
  | _ => none

/-- Reductions of single width. -/
def vRedEl (f6 w a b : Nat) : Nat :=
  match f6 with
  | 0 => (a + b) % 2 ^ w | 1 => Nat.land a b | 2 => Nat.lor a b | 3 => Nat.xor a b
  | 4 => min a b | 5 => (if si w a < si w b then a else b) | 6 => Nat.max a b | _ => (if si w a < si w b then b else a)

/-! ## Integer operations -/

/-- Operations of OPIVV (0), OPIVI (3) and OPIVX (4). -/
def VIn.opI (v : VIn) : Option VOut :=
  let e := v.sew
  let w := 8 * e
  let f6 := v.f6
  let vi := v.f3 == 3
  let vv := v.f3 == 0
  let vx := (v.h.csr 0xA).toNat % 4
  let uimm := (0x25 ≤ f6 ∧ f6 ≤ 0x2F) ∨ f6 = 0x35 ∨ f6 = 0xC ∨ f6 = 0xE ∨ f6 = 0xF
  let x : Nat := if vi then (if uimm then v.vs1 else (sext 5 v.vs1).toNat) else (v.h.reg v.vs1).toNat
  let b (i : Nat) : Nat := if vv then v.el v.vs1 e i else if vi && bits v.w 31 27 == 0xA then v.vs1 + f6 % 2 * 32 else x % 2 ^ w
  let a (i : Nat) : Nat := v.el v.vs2 e i
  let s2 : VSrc := (v.vs2, v.m8, w)
  let ss : List VSrc := if vv then [s2, (v.vs1, v.m8, w)] else [s2]
  let apart (l : List (Nat × Nat)) : Bool := l.all (fun r => !vMeets v.vd (vRegs v.m8) r.1 r.2)
  let pick (n : Nat) : VEl := { v := if n < v.max then v.el v.vs2 e n else 0 }
  if vi && bits v.w 31 27 == 0xA then v.each e v.m8 [s2] (fun i => vIntEl 0x14 w vx (a i) (b i))
  else match f6 with
    | 0xC =>
      if apart ((v.vs2, vRegs v.m8) :: (if vv then [(v.vs1, vRegs v.m8)] else [])) then
        v.each e v.m8 ss (fun i => some (pick (if vv then b i else x)))
      else none
    | 0xE =>
      if vv then
        (let im := 2 * v.m8 / e
         if apart [(v.vs2, vRegs v.m8), (v.vs1, vRegs im)] then v.each e v.m8 [s2, (v.vs1, im, 16)] (fun i => some (pick (v.el v.vs1 2 i))) else none)
      else if apart [(v.vs2, vRegs v.m8)] then
        (v.each e v.m8 [s2] (fun i => some { v := if x ≤ i then v.el v.vs2 e (i - x) else v.el v.vd e i }))
      else none
    | 0xF => if vv then none else v.each e v.m8 [s2] (fun i => some (pick (i + x)))
    | 0x10 => if v.vm ∨ v.vd = 0 then none else ({ v with w := v.w ||| 2 ^ 25 } : VIn).each e v.m8 ss (fun i => some { v := (a i + b i + b2n (v.on i)) % 2 ^ w })
    | 0x12 =>
      if v.vm ∨ v.vd = 0 ∨ vi then none
      else ({ v with w := v.w ||| 2 ^ 25 } : VIn).each e v.m8 ss (fun i => some { v := un w ((a i : Int) - b i - b2n (v.on i)) })
    | 0x11 => v.eachBit v.body ss (fun i => some { v := b2n (decide (2 ^ w ≤ a i + b i + b2n (!v.vm && v.on i))) })
    | 0x13 => if vi then none else v.eachBit v.body ss (fun i => some { v := b2n (decide (a i < b i + b2n (!v.vm && v.on i))) })
    | 0x17 =>
      let all : VIn := { v with w := v.w ||| 2 ^ 25 }
      if v.vm then (if v.vs2 ≠ 0 then none else all.each e v.m8 (if vv then [(v.vs1, v.m8, w)] else []) (fun i => some { v := b i }))
      else if v.vd = 0 then none else all.each e v.m8 ss (fun i => some { v := if v.on i then b i else a i })
    | 0x27 =>
      if vi then
        (let n := v.vs1 + 1
         if !v.vm ∨ ([1, 2, 4, 8].contains n) = false ∨ v.vd % n ≠ 0 ∨ v.vs2 % n ≠ 0 then none
         else
           let l := ((List.range (64 * n / e)).filter (fun i => decide (v.vstart ≤ i))).map (fun i => (i, v.el v.vs2 e i))
           some { dst := .elems e (8 * n) (64 * n / e) l })
      else v.each e v.m8 ss (fun i => vIntEl f6 w vx (a i) (b i))
    | 0x2C | 0x2D | 0x2E | 0x2F =>
      let ww := 2 * w
      let src (i : Nat) : Nat := v.el v.vs2 (2 * e) i
      if 8 < 2 * e then none
      else v.each e v.m8 ((v.vs2, 2 * v.m8, ww) :: (if vv then [(v.vs1, v.m8, w)] else [])) (fun i =>
        let k := b i % ww
        some (match f6 with
          | 0x2C => { v := src i / 2 ^ k % 2 ^ w } | 0x2D => { v := un w (si ww (src i) / (2 ^ k : Nat)) }
          | 0x2E => vSat w false (vRoundOff vx k (src i)) | _ => vSat w true (vRoundOff vx k (si ww (src i)))))
    | 0x30 | 0x31 =>
      if !vv ∨ v.vstart ≠ 0 ∨ 8 < 2 * e ∨ !vGroupOk v.vs2 v.m8 then none
      else
        let ww := 2 * w
        some (v.single (2 * e) { v := v.act.foldl (fun acc i => if f6 = 0x30 then (acc + a i) % 2 ^ ww else un ww (acc + si w (a i))) (v.el v.vs1 (2 * e) 0) })
    | 0x35 => if 8 < 2 * e then none else v.each (2 * e) (2 * v.m8) ss (fun i => some { v := a i * 2 ^ (b i % (2 * w)) % 2 ^ (2 * w) })
    | _ =>
      if 0x18 ≤ f6 ∧ f6 ≤ 0x1F then
        (if (vv && decide (0x1E ≤ f6)) || (vi && (f6 == 0x1A || f6 == 0x1B)) then none
         else v.eachBit v.act ss (fun i => (vCmpEl f6 w (a i) (b i)).map (fun t => { v := b2n t })))
      else if (vi && [1, 2, 4, 5, 6, 7, 0x14, 0x15, 0x22, 0x23].contains f6) || (vv && f6 == 3) then none
      else v.each e v.m8 ss (fun i => vIntEl f6 w vx (a i) (b i))

/-- The elements of the mask operations before the first set bit of vs2, up to it, or only it. -/
def VIn.first (v : VIn) (keep : Nat → Option Nat → Bool) : Option VOut :=
  let at_ := v.act.find? (fun i => bitAt (v.h.v.get 0 v.vs2).toNat i)
  if v.vstart ≠ 0 ∨ v.vd = v.vs2 ∨ (!v.vm && v.vd == 0) then none
  else v.eachBit v.act [] (fun i => some { v := b2n (keep i at_) })

/-- Operations of OPMVV (2) and OPMVX (6). -/
def VIn.opM (v : VIn) : Option VOut :=
  let e := v.sew
  let w := 8 * e
  let f6 := v.f6
  let vv := v.f3 == 2
  let vx := (v.h.csr 0xA).toNat % 4
  let x := (v.h.reg v.vs1).toNat
  let b (i : Nat) : Nat := if vv then v.el v.vs1 e i else x % 2 ^ w
  let a (i : Nat) : Nat := v.el v.vs2 e i
  let s2 : VSrc := (v.vs2, v.m8, w)
  let ss : List VSrc := if vv then [s2, (v.vs1, v.m8, w)] else [s2]
  let m2 (i : Nat) : Bool := bitAt (v.h.v.get 0 v.vs2).toNat i
  let m1 (i : Nat) : Bool := bitAt (v.h.v.get 0 v.vs1).toNat i
  let apart (r n : Nat) : Bool := !vMeets v.vd (vRegs v.m8) r n
  match f6, vv with
  | 0xE, false => if apart v.vs2 (vRegs v.m8) then v.each e v.m8 [s2] (fun i => some { v := if i = 0 then b 0 else a (i - 1) }) else none
  | 0xF, false => v.each e v.m8 [s2] (fun i => some { v := if i + 1 = v.vl then b 0 else a (i + 1) })
  | 0x10, true =>
    (match v.vs1 with
    | 0 => if v.vm then some { dst := .x (sext w (a 0)) } else none
    | 0x10 => if v.vstart ≠ 0 then none else some { dst := .x (BitVec.ofNat 64 (v.act.filter m2).length) }
    | 0x11 => if v.vstart ≠ 0 then none else some { dst := .x (match v.act.find? m2 with | some i => BitVec.ofNat 64 i | none => BitVec.allOnes 64) }
    | _ => none)
  | 0x10, false => if v.vm ∧ v.vs2 = 0 then some (v.single e { v := x % 2 ^ w }) else none
  | 0x12, true =>
    let n := match v.vs1 with | 2 => 8 | 3 => 8 | 4 => 4 | 5 => 4 | 6 => 2 | 7 => 2 | _ => 1
    if n = 1 then v.each e v.m8 [s2] (fun i => vUnaryEl v.vs1 w (a i))
    else if e % n ≠ 0 ∨ v.m8 % n ≠ 0 then none
    else v.each e v.m8 [(v.vs2, v.m8 / n, w / n)] (fun i =>
      let y := v.el v.vs2 (e / n) i
      some { v := if v.vs1 % 2 = 1 then un w (si (w / n) y) else y })
  | 0x14, true =>
    (match v.vs1 with
    | 1 => v.first (fun i f => match f with | some k => decide (i < k) | none => true)
    | 2 => v.first (fun i f => f == some i)
    | 3 => v.first (fun i f => match f with | some k => decide (i ≤ k) | none => true)
    | 0x10 =>
      if v.vstart ≠ 0 ∨ !apart v.vs2 1 then none
      else v.each e v.m8 [] (fun i => some { v := (v.act.filter (fun j => decide (j < i) && m2 j)).length % 2 ^ w })
    | 0x11 => if v.vs2 ≠ 0 then none else v.each e v.m8 [] (fun i => some { v := i % 2 ^ w })
    | _ => none)
  | 0x17, true =>
    if v.vstart ≠ 0 ∨ !v.vm ∨ !apart v.vs2 (vRegs v.m8) ∨ !apart v.vs1 1 ∨ !vGroupOk v.vd v.m8 ∨ !vGroupOk v.vs2 v.m8 then none
    else
      let l := (v.body.filter m1).zipIdx.map (fun p => (p.2, a p.1))
      some { dst := .elems e v.m8 l.length (if v.vl = 0 then [] else l) }
  | _, _ =>
    if f6 < 8 ∧ vv then
      (if v.vstart ≠ 0 ∨ !vGroupOk v.vs2 v.m8 then none
       else some (v.single e { v := v.act.foldl (fun acc i => vRedEl f6 w acc (a i)) (v.el v.vs1 e 0) }))
    else if 0x18 ≤ f6 ∧ f6 ≤ 0x1F ∧ vv then
      (if !v.vm then none
       else v.eachBit v.body [] (fun i => some { v := b2n (match f6 with
        | 0x18 => m2 i && !m1 i | 0x19 => m2 i && m1 i | 0x1A => m2 i || m1 i | 0x1B => m2 i != m1 i
        | 0x1C => m2 i || !m1 i | 0x1D => !(m2 i && m1 i) | 0x1E => !(m2 i || m1 i) | _ => m2 i == m1 i) }))
    else if 0x30 ≤ f6 then
      let wa := decide (0x34 ≤ f6) && decide (f6 ≤ 0x37)
      if 8 < 2 * e ∨ (f6 = 0x3E ∧ vv) then none
      else
        let s2 : VSrc := if wa then (v.vs2, 2 * v.m8, 2 * w) else s2
        v.each (2 * e) (2 * v.m8) (s2 :: (if vv then [(v.vs1, v.m8, w)] else [])) (fun i =>
          vWideEl f6 w (if wa then v.el v.vs2 (2 * e) i else a i) (b i) (v.el v.vd (2 * e) i))
    else v.each e v.m8 ss (fun i => vMulEl f6 w vx (a i) (b i) (v.el v.vd e i))

/-! ## Floating point -/

/-- The format of elements of so many bytes. -/
def vFmt (e : Nat) : Option Fmt := match e with | 2 => some fp16 | 4 => some fp32 | 8 => some fp64 | _ => none

/-- A result under CPU_FPCTL.FAST: subnormal results flushed, and no flags (R394). -/
def vDone (fast : Bool) (f : Fmt) (r : FRes) : VEl := { v := if fast then f.flushOut r.bits else r.bits, fl := if fast then 0 else r.flags, made := r.made }
/-- An operand under CPU_FPCTL.FAST. -/
def vOp (fast : Bool) (f : Fmt) (b : Nat) : FV := if fast then f.flushIn (f.decode b) else f.decode b

/-- In fast mode a quotient or a root is any number of the format within 2 ulp of the exact value; `k` numbers the free value (R394, log 27). -/
def vNear (f : Fmt) (k : Nat) (near : FRes) (m : Nat) (e : Int) : FRes :=
  let cand := Config.nearby k near.bits % 2 ^ f.w
  let neg := bitAt near.bits (f.w - 1)
  match (f.decode cand).exact with
  | some c => if within c (sgn neg m, e) (2 ^ 31 - 1) (f.ulpExp m e - 30) ∧ bitAt cand (f.w - 1) = neg then { near with bits := cand } else near
  | none => near

/-- vfdiv and vfsqrt. -/
def vDiv (fast : Bool) (f : Fmt) (rm : Rm) (k : Nat) (a b : FV) : VEl :=
  let r := f.divV rm a b
  vDone fast f (match fast, a, b with
    | true, .num _ m e, .num _ n g => if m = 0 ∨ n = 0 then r else (let q := quotient (f.fb + 40) m n; vNear f k r q.1 (q.2 + e - g))
    | _, _, _ => r)
def vSqrt (fast : Bool) (f : Fmt) (rm : Rm) (k : Nat) (a : FV) : VEl :=
  let r := f.sqrtV rm a
  vDone fast f (match fast, a with
    | true, .num false m e => if m = 0 then r else (let q := 2 * (f.fb + 40) + b2n (e % 2 == 1); vNear f k r (Nat.sqrt (m * 2 ^ q)) ((e - (q : Int)) / 2))
    | _, _ => r)

/-- The seven bits that vfrec7 and vfrsqrt7 look up: of 2 / x at the middle of an interval of [1, 2), and of 2 / sqrt x at one of [1, 4). -/
def rec7 (i : Nat) : Nat := (2 ^ 17 / (257 + 2 * i) + 1) / 2 - 128
def rsqrt7 (i : Nat) : Nat :=
  let y := (129 + i % 64 * 2) * (if i < 64 then 2 else 1)
  ((List.range 128).filter (fun f => decide (0 < f) && decide ((2 * f + 255) ^ 2 * y ≤ 2 ^ 25))).length

/-- The exponent and the fraction of a number, a subnormal one normalized. -/
def normParts (f : Fmt) (b : Nat) : Int × Nat :=
  let ex := b / 2 ^ f.fb % 2 ^ f.eb
  let fr := b % 2 ^ f.fb
  if ex ≠ 0 then ((ex : Int), fr) else
    let n := f.fb - 1 - Nat.log2 fr
    (-(n : Int), fr * 2 ^ (n + 1) % 2 ^ f.fb)

/-- vfrec7: an estimate of the reciprocal to 7 bits. -/
def vRec7 (f : Fmt) (rm : Rm) (b : Nat) : FRes :=
  match f.decode b with
  | .nan _ s _ => f.nanRes s false
  | .inf neg => { bits := f.signBit neg, flags := 0, made := false }
  | .num neg m _ =>
    if m = 0 then { bits := f.signBit neg + f.infCode, flags := 8, made := false }
    else
      let (ex, fr) := normParts f b
      if ex < -1 then f.overflow rm false neg
      else
        let sig := rec7 (fr / 2 ^ (f.fb - 7)) * 2 ^ (f.fb - 7)
        let oe : Int := 2 * (f.bias : Int) - 1 - ex
        let half := sig / 2 + 2 ^ (f.fb - 1)
        { bits := f.signBit neg + (if oe = 0 then half else if oe < 0 then half / 2 else oe.toNat * 2 ^ f.fb + sig), flags := 0, made := false }

/-- vfrsqrt7: an estimate of the reciprocal square root to 7 bits. -/
def vRsqrt7 (f : Fmt) (b : Nat) : FRes :=
  match f.decode b with
  | .nan _ s _ => f.nanRes s false
  | .inf neg => if neg then f.nanRes true true else { bits := 0, flags := 0, made := false }
  | .num neg m _ =>
    if m = 0 then { bits := f.signBit neg + f.infCode, flags := 8, made := false }
    else if neg then f.nanRes true true
    else
      let (ex, fr) := normParts f b
      let ix := (ex % 2).toNat * 64 + fr / 2 ^ (f.fb - 6)
      { bits := ((3 * (f.bias : Int) - 1 - ex) / 2).toNat * 2 ^ f.fb + rsqrt7 ix * 2 ^ (f.fb - 7), flags := 0, made := false }

/-- The lesser or the greater of two numbers as fmin and fmax choose, and the flags. -/
def vMinMax (fast : Bool) (f : Fmt) (mx : Bool) (a b : Nat) : VEl :=
  let z (n : Nat) : Nat := if fast then f.flushOut n else n
  match fpMinMax f mx (z a) (z b) with
  | .f v fl _ => { v := v.toNat % 2 ^ f.w, fl := if fast then 0 else fl }
  | _ => { v := f.canon }

/-- Operations of OPFVV and OPFVF on elements of one format: a of vs2, b the other, d the destination's; `k` numbers the free value. -/
def vFpEl (f : Fmt) (fast : Bool) (rm : Rm) (k f6 a b d : Nat) : Option VEl :=
  let fv := vOp fast f
  let top := 2 ^ (f.w - 1)
  let flip (v : Nat) : Nat := Nat.xor v top
  let fin (r : FRes) : Option VEl := some (vDone fast f r)
  let fma (x y z : Nat) : Option VEl := fin (f.fmaV rm (fv x) (fv y) (fv z))
  match f6 with
  | 0 => fin (f.addV rm (fv a) (fv b)) | 2 => fin (f.addV rm (fv a) (fv b).negate) | 0x27 => fin (f.addV rm (fv b) (fv a).negate)
  | 4 => some (vMinMax fast f false a b) | 6 => some (vMinMax fast f true a b)
  | 8 => some { v := a % top + b / top * top } | 9 => some { v := a % top + (1 - b / top) * top } | 0xA => some { v := a % top + Nat.xor (a / top) (b / top) * top }
  | 0x20 => some (vDiv fast f rm k (fv a) (fv b)) | 0x21 => some (vDiv fast f rm k (fv b) (fv a)) | 0x24 => fin (f.mulV rm (fv a) (fv b))
  | 0x28 => fma b d a | 0x29 => fma (flip b) d (flip a) | 0x2A => fma b d (flip a) | 0x2B => fma (flip b) d a
  | 0x2C => fma b a d | 0x2D => fma (flip b) a (flip d) | 0x2E => fma b a (flip d) | 0x2F => fma (flip b) a d
  | _ => none

/-- Floating-point comparisons. -/
def vFpCmp (f : Fmt) (fast : Bool) (f6 a b : Nat) : Option VEl :=
  let x := vOp fast f a
  let y := vOp fast f b
  let o := x.cmp y
  let fl (quiet : Bool) : Nat := if !fast && (if quiet then x.isSig || y.isSig else o.isNone) then 16 else 0
  match f6 with
  | 0x18 => some { v := b2n (o == some .eq), fl := fl true } | 0x1C => some { v := b2n (o != some .eq), fl := fl true }
  | 0x19 => some { v := b2n (o == some .lt || o == some .eq), fl := fl false } | 0x1B => some { v := b2n (o == some .lt), fl := fl false }
  | 0x1D => some { v := b2n (o == some .gt), fl := fl false } | 0x1F => some { v := b2n (o == some .gt || o == some .eq), fl := fl false }
  | _ => none

/-- A value as an integer of `w` bits. -/
def vToInt (fast : Bool) (w : Nat) (signed : Bool) (rm : Rm) (x : FV) : VEl :=
  match fpToInt w signed rm x with
  | .x v fl => { v := v.toNat % 2 ^ w, fl := if fast then 0 else fl }
  | _ => { v := 0 }
/-- An integer of `w` bits as a number of a format. -/
def vOfInt (fast : Bool) (w : Nat) (signed : Bool) (f : Fmt) (rm : Rm) (a : Nat) : VEl :=
  let i := if signed then si w a else (a : Int)
  vDone fast f (f.roundInt rm false i 0)

/-- A number rounded to odd. -/
def vToOdd (fast : Bool) (f : Fmt) (x : FV) : VEl :=
  let r := convert (.flt f) true .rtz false x
  vDone fast f { r with bits := if r.flags % 2 = 1 ∧ r.bits % 2 = 0 then r.bits + 1 else r.bits }

/-- Conversions of single width (k below 8), widening (8 to 0xF) and narrowing (0x10 to 0x17, and BF16's 0x1D). -/
def VIn.convert (v : VIn) (fast : Bool) (rm : Rm) : Option VOut :=
  let e := v.sew
  let w := 8 * e
  let k := v.vs1
  let src (n i : Nat) : Nat := v.el v.vs2 n i
  let s1 : VSrc := (v.vs2, v.m8, w)
  let s2 : VSrc := (v.vs2, 2 * v.m8, 2 * w)
  let trunc := k % 8 == 6 || k % 8 == 7
  let rmi : Rm := if trunc then .rtz else rm
  let sg := k % 2 == 1
  if k = 0xD ∨ k = 0x1D then
    (if e ≠ 2 then none
     else if k = 0xD then v.each 4 (2 * v.m8) [s1] (fun i => some (vDone fast fp32 (Machine.convert (.flt fp32) true rm false (vOp fast bf16 (src 2 i)))))
     else v.each 2 v.m8 [s2] (fun i => some (vDone fast bf16 (Machine.convert (.flt bf16) true rm false (vOp fast fp32 (src 4 i))))))
  else match k / 8, vFmt e, vFmt (2 * e) with
    | 0, some f, _ =>
      if k = 4 ∨ k = 5 then none
      else v.each e v.m8 [s1] (fun i => some (if k = 2 ∨ k = 3 then vOfInt fast w sg f rm (src e i) else vToInt fast w sg rmi (vOp fast f (src e i))))
    | 1, f, some g =>
      (match k % 8, f with
      | 2, _ | 3, _ => v.each (2 * e) (2 * v.m8) [s1] (fun i => some (vOfInt fast w sg g rm (src e i)))
      | 4, some f => v.each (2 * e) (2 * v.m8) [s1] (fun i => some (vDone fast g (Machine.convert (.flt g) true rm false (vOp fast f (src e i)))))
      | _, some f => v.each (2 * e) (2 * v.m8) [s1] (fun i => some (vToInt fast (2 * w) sg rmi (vOp fast f (src e i))))
      | _, none => none)
    | 2, f, some g =>
      (match k % 8, f with
      | 2, some f | 3, some f => v.each e v.m8 [s2] (fun i => some (vOfInt fast (2 * w) sg f rm (src (2 * e) i)))
      | 4, some f => v.each e v.m8 [s2] (fun i => some (vDone fast f (Machine.convert (.flt f) true rm false (vOp fast g (src (2 * e) i)))))
      | 5, some f => v.each e v.m8 [s2] (fun i => some (vToOdd fast f (vOp fast g (src (2 * e) i))))
      | 2, none | 3, none | 4, none | 5, none => none
      | _, _ => v.each e v.m8 [s2] (fun i => some (vToInt fast w sg rmi (vOp fast g (src (2 * e) i)))))
    | _, _, _ => none

/-- An unordered sum: the addends are added two at a time in an order that free values choose (log 27). -/
def vTree (f : Fmt) (fast : Bool) (rm : Rm) : Nat → Nat → List VEl → VEl
  | 0, _, l => l.headD { v := 0 }
  | n + 1, k, l =>
    match l with
    | [] => { v := 0 }
    | [x] => x
    | _ =>
      let i := Config.freeNat k % l.length
      let r := l.eraseIdx i
      let j := Config.freeNat (k + 1) % r.length
      let x := l.getD i { v := 0 }
      let y := r.getD j { v := 0 }
      let z := vDone fast f (f.addV rm (vOp fast f x.v) (vOp fast f y.v))
      vTree f fast rm n (k + 2) (r.eraseIdx j ++ [{ z with fl := Nat.lor z.fl (Nat.lor x.fl y.fl), made := z.made || x.made || y.made }])

/-- A floating-point reduction of elements, each with the flags that its widening raised, into element 0: sums ordered or not, the least, the
greatest. -/
def VIn.reduce (v : VIn) (f : Fmt) (fast : Bool) (rm : Rm) (kind : Nat) (e : Nat) (xs : List VEl) : Option VOut :=
  let z : VEl := { v := v.el v.vs1 e 0 }
  let step (g : Nat → Nat → VEl) : VEl := xs.foldl (fun acc x =>
    let r := g acc.v x.v
    { r with fl := Nat.lor (Nat.lor acc.fl x.fl) r.fl, made := acc.made || r.made }) z
  if v.vstart ≠ 0 ∨ !vGroupOk v.vs2 v.m8 then none
  else some (v.single e (match kind with
    | 1 => vTree f fast rm xs.length v.free (z :: xs)
    | 3 => step (fun a x => vDone fast f (f.addV rm (vOp fast f a) (vOp fast f x)))
    | 5 => step (vMinMax fast f false)
    | _ => step (vMinMax fast f true)))

/-- Operations of OPFVV (1) and OPFVF (5); none is legal while frm holds a reserved rounding. -/
def VIn.opF (v : VIn) : Option VOut :=
  let e := v.sew
  let w := 8 * e
  let f6 := v.f6
  let vv := v.f3 == 1
  let fast := v.h.bit 0x8C0 0
  let frm := v.h.fld 3 7 5
  let rm := rmOf frm
  let all : VIn := { v with w := v.w ||| 2 ^ 25 }
  let fr (f : Fmt) : Nat := unboxed f (v.h.f.get 0 v.vs1)
  let s2 : VSrc := (v.vs2, v.m8, w)
  let ss : List VSrc := if vv then [s2, (v.vs1, v.m8, w)] else [s2]
  let a (i : Nat) : Nat := v.el v.vs2 e i
  if 4 < frm then none
  else if f6 = 0x12 ∧ vv then v.convert fast rm
  else if f6 = 0x3B then
    (if e ≠ 2 then none
     else v.each 4 (2 * v.m8) ss (fun i =>
       let b := if vv then v.el v.vs1 2 i else fr bf16
       some (vDone fast fp32 (fp32.fmaV rm (vOp fast bf16 b) (vOp fast bf16 (a i)) (vOp fast fp32 (v.el v.vd 4 i))))))
  else match vFmt e with
    | none => none
    | some f =>
      let b (i : Nat) : Nat := if vv then v.el v.vs1 e i else fr f
      let apart : Bool := !vMeets v.vd (vRegs v.m8) v.vs2 (vRegs v.m8)
      match f6, vv with
      | 1, true | 3, true | 5, true | 7, true => v.reduce f fast rm f6 e (v.act.map (fun i => { v := a i }))
      | 0xE, false => if apart then v.each e v.m8 [s2] (fun i => some { v := if i = 0 then b 0 else a (i - 1) }) else none
      | 0xF, false => v.each e v.m8 [s2] (fun i => some { v := if i + 1 = v.vl then b 0 else a (i + 1) })
      | 0x10, true => if v.vm ∧ v.vs1 = 0 then some { dst := .f (boxed f (a 0)) } else none
      | 0x10, false => if v.vm ∧ v.vs2 = 0 then some (v.single e { v := b 0 }) else none
      | 0x13, true =>
        (match v.vs1 with
        | 0 => v.each e v.m8 [s2] (fun i => some (vSqrt fast f rm (v.free + i) (vOp fast f (a i))))
        | 4 => v.each e v.m8 [s2] (fun i => let r := vRsqrt7 f (a i); some { v := r.bits, fl := if fast then 0 else r.flags, made := r.made })
        | 5 => v.each e v.m8 [s2] (fun i => let r := vRec7 f rm (a i); some { v := r.bits, fl := if fast then 0 else r.flags, made := r.made })
        | 0x10 => v.each e v.m8 [s2] (fun i => some { v := fpClass f (a i) })
        | _ => none)
      | 0x17, false =>
        if v.vm then (if v.vs2 ≠ 0 then none else all.each e v.m8 [] (fun i => some { v := b i }))
        else if v.vd = 0 then none else all.each e v.m8 [s2] (fun i => some { v := if v.on i then b i else a i })
      | _, _ =>
        if 0x18 ≤ f6 ∧ f6 ≤ 0x1F then (if vv && (f6 == 0x1D || f6 == 0x1F) then none else v.eachBit v.act ss (fun i => vFpCmp f fast f6 (a i) (b i)))
        else if f6 < 0x30 then
          (if vv && (f6 == 0x21 || f6 == 0x27) then none else v.each e v.m8 ss (fun i => vFpEl f fast rm (v.free + i) f6 (a i) (b i) (v.el v.vd e i)))
        else match vFmt (2 * e) with
          | none => none
          | some g =>
            let up (n : Nat) : FV := vOp fast f n
            let d (i : Nat) : FV := vOp fast g (v.el v.vd (2 * e) i)
            let fin (r : FRes) : Option VEl := some (vDone fast g r)
            let wide (s : VSrc) (op : Nat → Option VEl) : Option VOut := v.each (2 * e) (2 * v.m8) (s :: (if vv then [(v.vs1, v.m8, w)] else [])) op
            let aw (i : Nat) : FV := vOp fast g (v.el v.vs2 (2 * e) i)
            (match f6, vv with
            | 0x31, true | 0x33, true => v.reduce g fast rm (f6 - 0x30) (2 * e) 
                (v.act.map (fun i => vDone fast g (Machine.convert (.flt g) true rm false (up (a i)))))
            | 0x30, _ => wide s2 (fun i => fin (g.addV rm (up (a i)) (up (b i)))) | 0x32, _ => wide s2 (fun i => fin (g.addV rm (up (a i)) (up (b i)).negate))
            | 0x34, _ => wide (v.vs2, 2 * v.m8, 2 * w) (fun i => fin (g.addV rm (aw i) (up (b i))))
            | 0x36, _ => wide (v.vs2, 2 * v.m8, 2 * w) (fun i => fin (g.addV rm (aw i) (up (b i)).negate))
            | 0x38, _ => wide s2 (fun i => fin (g.mulV rm (up (a i)) (up (b i))))
            | 0x3C, _ => wide s2 (fun i => fin (g.fmaV rm (up (b i)) (up (a i)) (d i)))
            | 0x3D, _ => wide s2 (fun i => fin (g.fmaV rm (up (b i)).negate (up (a i)) (d i).negate))
            | 0x3E, _ => wide s2 (fun i => fin (g.fmaV rm (up (b i)) (up (a i)) (d i).negate))
            | 0x3F, _ => wide s2 (fun i => fin (g.fmaV rm (up (b i)).negate (up (a i)) (d i)))
            | _, _ => none)

/-! ## Writing results -/

/-- What an element that an agnostic policy gives holds: all ones or what it held, as a free bit chooses (log 27). -/
def vAgnostic (k n old : Nat) : Nat := if Config.freeBit k then 256 ^ n - 1 else old

/-- Writes elements of a group: those before vstart stay; masked-off and tail elements stay or are agnostic by vtype (log 27). -/
def Hart.vPut (h : Hart) (v : VIn) (e m8 body : Nat) (l : List (Nat × Nat)) : Hart :=
  let t := (v.h.csr 0xC21).toNat
  if v.vl ≤ v.vstart ∧ body ≠ vRegs m8 * 64 / e then h
  else (List.range (vRegs m8 * 64 / e)).foldl (fun (h : Hart) i =>
    match l.find? (fun x => x.1 == i) with
    | some x => h.vSet v.vd (i * e) e x.2
    | none =>
      if i < v.vstart ∨ !bitAt t (if i < body then 7 else 6) then h
      else h.vSet v.vd (i * e) e (vAgnostic (v.free + 600 + i) e (h.vGet v.vd (i * e) e))) h

/-- Writes bits of a mask register; its tail is agnostic always. -/
def Hart.vPutMask (h : Hart) (v : VIn) (l : List (Nat × Bool)) : Hart :=
  let t := (v.h.csr 0xC21).toNat
  let old := (v.h.v.get 0 v.vd).toNat
  let bit (i : Nat) : Bool :=
    match l.find? (fun x => x.1 == i) with
    | some x => x.2
    | none => bitAt old i || (decide (v.vstart ≤ i) && (decide (v.vl ≤ i) || bitAt t 7) && Config.freeBit (v.free + 600 + i))
  if v.vl ≤ v.vstart then h
  else { h with v := h.v.set 0 v.vd (BitVec.ofNat 512 ((List.range 512).map (fun i => b2n (bit i) * 2 ^ i)).sum) }

/-- The result of a vector operation; none where it is illegal. -/
def VIn.run (v : VIn) : Option VOut :=
  match v.f3 with
  | 0 | 3 | 4 => v.opI
  | 2 | 6 => v.opM
  | _ => v.opF

end Sys2Proof.Machine
end

