-- ==== Sys2Proof/Machine/Hart.lean ====
section
/-! DEFINITION. The commands of the CPU harts: instructions of the profile (R392 to R395), reservations (R397), cache-block operations (R396),
power states (R404) and interrupt files (R401). A command carries the word fetched at the hart's pc. -/

namespace Sys2Proof.Machine

/-- Goes on behind an instruction of `n` bytes, with a result in `rd`. -/
def State.hNext (s : State) (m n : Nat) : HRes Unit := .ok (s.modHart m (fun h => { h with pc := h.pc + BitVec.ofNat 64 n })) ()
def State.hResult (s : State) (m n rd : Nat) (v : DWord) : HRes Unit :=
  .ok (s.modHart m (fun h => { h.setReg rd v with pc := h.pc + BitVec.ofNat 64 n })) ()

/-- An illegal instruction, or in a virtual machine one that its host traps. -/
def State.hIllegal (s : State) (w : Nat) : HRes Unit := .trap s { cause := 2, tval := BitVec.ofNat 64 w, gpa := 0 }
def State.hVirtual (s : State) (w : Nat) : HRes Unit := .trap s { cause := 22, tval := BitVec.ofNat 64 w, gpa := 0 }
/-- Illegal in user mode, a virtual instruction in a virtual machine's user mode. -/
def State.hForbid (s : State) (h : Hart) (w : Nat) : HRes Unit := if h.virt then s.hVirtual w else s.hIllegal w

/-! ## Floating point -/

/-- Whether the floating-point (13) or vector (9) unit is off in mstatus, or in a virtual machine in vsstatus. -/
def Hart.unitOff (h : Hart) (lo : Nat) : Bool := h.fld 0x300 (lo + 1) lo == 0 || (h.virt && h.fld 0x200 (lo + 1) lo == 0)
/-- Marks a unit's state as dirty. -/
def Hart.dirty (h : Hart) (lo : Nat) : Hart :=
  let h := h.put 0x300 lo 2 3
  if h.virt then h.put 0x200 lo 2 3 else h
/-- Writes a floating-point register, and adds flags to fflags. -/
def Hart.setF (h : Hart) (r : Nat) (v : DWord) : Hart := ({ h with f := h.f.set 0 r v }).dirty 13
def Hart.addFlags (h : Hart) (fl : Nat) : Hart := if fl = 0 then h else (h.setCsr 3 (h.csr 3 ||| BitVec.ofNat 64 (fl % 32))).dirty 13

/-- Whether CPU_FPCTL has a bit: FAST (0) or NANTRAP (1). -/
def Hart.fpctl (h : Hart) (i : Nat) : Bool := h.bit 0x8C0 i

/-- The NaN trap: cause 24 with the element, and the destination is not written (R395). -/
def State.hNan (s : State) (elem : Nat) : HRes Unit := .trap s { cause := 24, tval := BitVec.ofNat 64 elem, gpa := 0 }

/-- A scalar floating-point operation (R394, R395). -/
def State.hFp (s : State) (m n w : Nat) : HRes Unit :=
  let h := s.hart m
  let rd := bits w 11 7
  let fr (r : Nat) : DWord := h.f.get 0 r
  let next (s : State) (f : Hart → Hart) : HRes Unit := (s.modHart m f).hNext m n
  if h.unitOff 13 then s.hIllegal w
  else match fpExec w fr (h.reg (bits w 19 15)) (h.fld 3 7 5) with
    | .illegal => s.hIllegal w
    | .f v fl made => if made && h.fpctl 1 then s.hNan 0 else next s (fun h => (h.setF rd v).addFlags fl)
    | .x v fl => next s (fun h => (h.setReg rd v).addFlags fl)

/-- Loads and stores of floating-point registers. -/
def State.hFpLoad (s : State) (m n w : Nat) : HRes Unit :=
  let h := s.hart m
  let size := 2 ^ bits w 14 12
  if h.unitOff 13 then s.hIllegal w
  else (s.hLoad m (h.acc false false) (h.reg (bits w 19 15) + sext 12 (bits w 31 20)) size 0).bind (fun s d =>
    (s.modHart m (fun h => h.setF (bits w 11 7) (BitVec.ofNat 64 (2 ^ 64 - 2 ^ (8 * size) + leNat d)))).hNext m n)
def State.hFpStore (s : State) (m n w : Nat) : HRes Unit :=
  let h := s.hart m
  let size := 2 ^ bits w 14 12
  if h.unitOff 13 then s.hIllegal w
  else (s.hStore m (h.acc true false) (h.reg (bits w 19 15) + sext 12 (bits w 31 25 * 32 + bits w 11 7))
    (leBytes size (h.f.get 0 (bits w 24 20)).toNat)).bind (fun s _ => s.hNext m n)

/-! ## Vectors (Table 14-1) -/

/-- vsetvli, vsetivli and vsetvl: vl becomes the lesser of the length asked for and the most that vtype allows (log 27). -/
def State.hVset (s : State) (m n w : Nat) : HRes Unit :=
  let h := s.hart m
  let rd := bits w 11 7
  let rs1 := bits w 19 15
  let imm := bits w 31 30 == 3
  let t := if imm then bits w 29 20 else if bits w 31 31 = 0 then bits w 30 20 else (h.reg (bits w 24 20)).toNat
  if bits w 31 31 = 1 ∧ !imm ∧ bits w 30 25 ≠ 0 then s.hIllegal w
  else
    let avl := if imm then rs1 else if rs1 ≠ 0 then (h.reg rs1).toNat else if rd ≠ 0 then 2 ^ 64 - 1 else (h.csr 0xC20).toNat
    let (vl, vt) : Nat × Nat := match vtypeMax t with | some (_, _, mx) => (min avl mx, t) | none => (0, 2 ^ 63)
    (s.modHart m (fun h => (((h.setCsr 0xC20 (BitVec.ofNat 64 vl)).setCsr 0xC21 (BitVec.ofNat 64 vt)).setCsr 8 0).dirty 9)).hResult m n rd (BitVec.ofNat 64 vl)

/-- The elements of a vector load or store: address, register, byte offset in the group, and bytes; none where the instruction is illegal. -/
def Hart.vElems (h : Hart) (w : Nat) : Option (List (DWord × Nat × Nat × Nat)) :=
  let ew := match bits w 14 12 with | 0 => 1 | 5 => 2 | 6 => 4 | _ => 8
  let nf := bits w 31 29 + 1
  let mop := bits w 27 26
  let rs2 := bits w 24 20
  let vd := bits w 11 7
  let base := h.reg (bits w 19 15)
  let at_ (x : Nat) : DWord := base + BitVec.ofNat 64 x
  let on (i : Nat) : Bool := bitAt w 25 || bitAt (h.v.get 0 0).toNat i
  let from_ := (h.csr 8).toNat
  if bitAt w 28 then none
  else if mop = 0 ∧ rs2 = 8 then
    (if bitAt w 25 && [1, 2, 4, 8].contains nf && decide (vd + nf ≤ 32) then
      some (((List.range (nf * 64 / ew)).filter (fun i => decide (from_ ≤ i))).map (fun i => (at_ (i * ew), vd, i * ew, ew))) else none)
  else match vtypeMax (h.csr 0xC21).toNat with
    | none => none
    | some (sew, m8, _) =>
      let vl := (h.csr 0xC20).toNat
      if mop = 0 ∧ rs2 = 0xB then
        (if bitAt w 25 && nf == 1 && ew == 1 then
          some (((List.range ((vl + 7) / 8)).filter (fun i => decide (from_ ≤ i))).map (fun i => (at_ i, vd, i, 1))) else none)
      else if mop = 0 ∧ rs2 ≠ 0 ∧ rs2 ≠ 0x10 then none
      else
        let dw := if mop % 2 = 1 then sew else ew
        let e8 := if mop % 2 = 1 then m8 else m8 * ew / sew
        let regs := max 1 (e8 / 8)
        if e8 = 0 ∨ 64 < e8 ∨ 8 < nf * regs ∨ 32 < vd + nf * regs ∨ (!bitAt w 25 && vd == 0) then none
        else
          let is := (List.range vl).filter (fun i => decide (from_ ≤ i) && on i)
          some (is.flatMap (fun i => (List.range nf).map (fun f =>
            let off := match mop with
              | 0 => (i * nf + f) * ew
              | 2 => i * (h.reg rs2).toNat + f * ew
              | _ => h.vGet rs2 (i * ew) ew + f * sew
            (at_ off, vd + f * regs, i * dw, dw))))

/-- Probes the elements of a vector access in order; a fault-only-first load stops before the first later element that faults. -/
def State.vProbes (s : State) (m : Nat) (a : HAcc) (ff : Bool) (es : List (DWord × Nat × Nat × Nat)) :
    HRes (List ((DWord × Nat × Nat × Nat) × List (Nat × DWord × Nat × HSpot)) × Bool) :=
  es.zipIdx.foldl (fun (acc : HRes (List ((DWord × Nat × Nat × Nat) × List (Nat × DWord × Nat × HSpot)) × Bool)) e => acc.bind (fun s (l, stop) =>
    if stop then .ok s (l, stop)
    else match s.hProbes m a e.1.1 e.1.2.2.2 (2 * e.2) (if a.write then .write else .read) with
      | .ok s ps => .ok s (l ++ [(e.1, ps)], false)
      | .wait s => .wait s
      | .trap s' t => if ff && e.2 != 0 then .ok s (l, true) else .trap s' t)) (.ok s ([], false))

/-- A vector load or store: every element is probed before the first is accessed. -/
def State.hVecMem (s : State) (m n w : Nat) (store : Bool) : HRes Unit :=
  let h := s.hart m
  let ff := !store && bits w 27 26 == 0 && bits w 24 20 == 0x10
  if h.unitOff 9 then s.hIllegal w
  else match h.vElems w with
    | none => s.hIllegal w
    | some es =>
      (s.vProbes m (h.acc store false) ff es).bind (fun s (l, stopped) =>
        let done (s : State) : HRes Unit :=
          (s.modHart m (fun h =>
            let h := (h.setCsr 8 0).dirty 9
            if stopped then h.setCsr 0xC20 (BitVec.ofNat 64 (l.length / (bits w 31 29 + 1))) else h)).hNext m n
        let one (s : State) (x : (DWord × Nat × Nat × Nat) × List (Nat × DWord × Nat × HSpot)) : HRes Unit :=
          let e := x.1
          if store then s.hWrites m x.2 (leBytes e.2.2.2 (h.vGet e.2.1 e.2.2.1 e.2.2.2))
          else (s.hReads m x.2).bind (fun s d => .ok (s.modHart m (fun h => h.vSet e.2.1 e.2.2.1 e.2.2.2 (leNat d))) ())
        (l.foldl (fun (acc : HRes Unit) x => acc.bind (fun s _ => one s x)) (.ok s ())).bind (fun s _ => done s))

/-- A vector operation: its result, flags and saturation, vstart cleared; where CPU_FPCTL.NANTRAP is set and an element produced a NaN, the trap
with that element and no result (R392, R394, R395, log 27). -/
def State.hVecOp (s : State) (m n w : Nat) : HRes Unit :=
  let h := s.hart m
  let fp := bits w 14 12 == 1 || bits w 14 12 == 5
  if h.unitOff 9 || (fp && h.unitOff 13) then s.hIllegal w
  else match vtypeMax (h.csr 0xC21).toNat with
    | none => s.hIllegal w
    | some (sew, m8, _) =>
      let v : VIn := { h := h, w := w, sew := sew, m8 := m8, free := s.fresh }
      let s := { s with fresh := s.fresh + 1200 }
      match v.run with
      | none => s.hIllegal w
      | some r =>
        match (if h.fpctl 1 then r.made else none) with
        | some i => s.hNan i
        | none =>
          let put (h : Hart) : Hart := match r.dst with
            | .elems e k body l => h.vPut v e k body l
            | .mask l => h.vPutMask v l
            | .x x => h.setReg v.vd x
            | .f x => h.setF v.vd x
          (s.modHart m (fun h => (((((put h).setCsr 9 (h.csr 9 ||| BitVec.ofNat 64 (b2n r.sat))).addFlags r.fl).setCsr 8 0).dirty 9))).hNext m n

/-! ## System instructions -/

/-- A CSR instruction (Tables 14-1 and 14-3; log 25). -/
def State.hCsr (s : State) (m n w f3 rd rs1 num : Nat) : HRes Unit :=
  let h := s.hart m
  let ix := h.csrIx num
  let a := h.csrAllowed num
  if a = 22 then s.hVirtual w
  else if a ≠ 0 then s.hIllegal w
  else match s.csrGet m h ix with
    | none => s.hIllegal w
    | some old =>
      let s := if num = 0xC00 ∨ num = 0xB00 then s.bump else s
      match csrNew f3 rs1 old (if 4 < f3 then BitVec.ofNat 64 rs1 else h.reg rs1) with
      | none => s.hResult m n rd old
      | some v =>
        if num / 1024 = 3 then s.hIllegal w
        else
          let mark (h : Hart) : Hart := if 1 ≤ num ∧ num ≤ 3 then h.dirty 13 else if 8 ≤ num ∧ num ≤ 0xF then h.dirty 9 else h
          (s.modHart m (fun h => mark (h.csrPut ix v))).hResult m n rd old

/-- Loads and stores as the virtual machine would make them (HLV, HLVX, HSV; log 25). -/
def State.hVirtMem (s : State) (m n w : Nat) : HRes Unit :=
  let h := s.hart m
  let f7 := bits w 31 25
  let size := 2 ^ (bits w 27 26)
  let store := f7 % 2 == 1
  let kind := bits w 24 20
  let pmm := if h.fld 0x600 8 8 = 1 then h.pmmAt 5 else if h.bit 0x300 19 || h.bit 0x200 19 then 0 else h.fld 0x600 49 48
  let acc : HAcc := { write := store, fetch := false, amo := false, priv := 4 + h.fld 0x600 8 8, mxr := kind == 3, pmm := if kind = 3 then 0 else pmm }
  let va := h.reg (bits w 19 15)
  if h.virt then s.hVirtual w
  else if h.lvl = 0 ∧ !h.bit 0x600 9 then s.hIllegal w
  else if store then (if bits w 11 7 ≠ 0 then s.hIllegal w else (s.hStore m acc va (leBytes size (h.reg kind).toNat)).bind (fun s _ => s.hNext m n))
  else if kind = 2 ∨ 3 < kind ∨ (kind = 3 ∧ size ≠ 2 ∧ size ≠ 4) ∨ (kind = 1 ∧ size = 8) then s.hIllegal w
  else (s.hLoad m acc va size 0).bind (fun s d => s.hResult m n (bits w 11 7) (if kind = 0 then sext (8 * size) (leNat d) else BitVec.ofNat 64 (leNat d)))

/-- SYSTEM instructions: environment calls, returns, waiting, fences of translations, CSRs (log 25). SFENCE.VMA does not reach accelerator
translation caches (R398). -/
def State.hSystem (s : State) (m n w f3 rd rs1 imm : Nat) : HRes Unit :=
  let h := s.hart m
  let f7 := imm / 32
  if f3 = 4 then
    (if bitAt w 31 && bits w 29 28 == 0 && (bits w 25 22 == 7 || bitAt w 25) then s.hResult m n rd 0
     else if f7 / 8 = 6 then s.hVirtMem m n w else s.hIllegal w)
  else if f3 ≠ 0 then s.hCsr m n w f3 rd rs1 imm
  else if rd ≠ 0 then s.hIllegal w
  else if f7 = 9 ∨ f7 = 0xB then
    (if h.lvl = 0 then s.hForbid h w
     else if h.lvl = 1 ∧ (if h.virt then h.bit 0x600 20 else h.bit 0x300 20) then s.hForbid h w
     else s.hNext m n)
  else if f7 = 0x11 ∨ f7 = 0x13 ∨ f7 = 0x31 ∨ f7 = 0x33 then
    (if h.virt then s.hVirtual w
     else if h.lvl = 0 ∨ (h.lvl = 1 ∧ 0x31 ≤ f7 ∧ h.bit 0x300 20) then s.hIllegal w
     else s.hNext m n)
  else if rs1 ≠ 0 then s.hIllegal w
  else match imm with
    | 0 => .trap s { cause := match h.priv with | 3 => 11 | 1 => 9 | 5 => 10 | _ => 8, tval := 0, gpa := 0 }
    | 1 => .trap s { cause := 3, tval := h.pc, gpa := 0 }
    | 0x102 =>
      if h.lvl = 0 then s.hForbid h w
      else if h.lvl = 1 ∧ (if h.virt then h.bit 0x600 22 else h.bit 0x300 22) then s.hForbid h w
      else .ok (s.modHart m Hart.sret) ()
    | 0x302 => if h.lvl = 3 then .ok (s.modHart m Hart.mret) () else s.hIllegal w
    | 0x105 =>
      if h.lvl < 3 ∧ h.bit 0x300 21 then s.hIllegal w
      else if h.lvl = 0 then s.hForbid h w
      else if h.virt && h.bit 0x600 21 then s.hVirtual w
      else (s.modHart m (fun h => { h with state := 2, resv := none, delay := false })).hNext m n
    | 0xD => s.hNext m n
    | 0x1D => s.hNext m n
    | 0x180 => if h.lvl = 0 then s.hForbid h w else s.hNext m n
    | 0x181 => if h.lvl = 0 then s.hForbid h w else s.hNext m n
    | _ => s.hIllegal w

/-! ## Atomics -/

/-- LR, SC, AMOs of 8 to 64 bits, and compare-and-swap of 32 to 128 bits (Zaamo, Zalrsc, Zabha, Zacas). -/
def State.hAtomic (s : State) (m n w f5 f3 rd rs1 rs2 : Nat) (ext : List Byte) : HRes Unit :=
  let h := s.hart m
  let va := h.reg rs1
  let size := 2 ^ f3
  if f5 = 2 then (if rs2 ≠ 0 ∨ (f3 ≠ 2 ∧ f3 ≠ 3) then s.hIllegal w else (s.hLr m va size).bind (fun s d => s.hResult m n rd (sext (8 * size) (leNat d))))
  else if f5 = 3 then
    (if f3 ≠ 2 ∧ f3 ≠ 3 then s.hIllegal w
     else (s.hSc m va (leBytes size (h.reg rs2).toNat)).bind (fun s ok => s.hResult m n rd (if ok then 0 else 1)))
  else if f5 = 5 then
    (if 4 < f3 ∨ (f3 = 4 ∧ (rd % 2 = 1 ∨ rs2 % 2 = 1)) then s.hIllegal w
     else
       let wide (r : Nat) : Nat := (h.reg r).toNat + (if f3 = 4 ∧ r ≠ 0 then (h.reg (r + 1)).toNat * 2 ^ 64 else 0)
       (s.hAmo m va size .cas 10 (wide rs2) (wide rd) ext).bind (fun s old =>
         if f3 = 4 then (if rd = 0 then s.hNext m n else (s.modHart m (fun h => h.setReg (rd + 1) (BitVec.ofNat 64 (old / 2 ^ 64)))).hResult m n rd (BitVec.ofNat 64 old))
         else s.hResult m n rd (sext (8 * size) old)))
  else match rvAmo f5 with
    | none => s.hIllegal w
    | some (op, opn) =>
      if 3 < f3 then s.hIllegal w
      else (s.hAmo m va size op opn (h.reg rs2).toNat 0 ext).bind (fun s old => s.hResult m n rd (sext (8 * size) old))

/-! ## Instructions -/

/-- Whether remote stores of a hart are not performed yet; a FENCE that orders stores waits for them (R233, R458). -/
def State.hartBusy (s : State) (m : Nat) : Bool :=
  s.remotes.cells.any (fun x => match x.2 with | some r => r.agent == RemAgent.hart m && r.kind == 1 && r.reply.isNone | none => false)

/-- One instruction: `w` is its 32-bit word, or what a compressed one expands to; `n` its length. -/
def State.hExec (s : State) (m n w : Nat) (i : Rv) (ext : List Byte) : HRes Unit :=
  let h := s.hart m
  match i with
  | .const rd v => s.hResult m n rd v
  | .auipc rd imm => s.hResult m n rd (h.pc + imm)
  | .jal rd imm => .ok (s.modHart m (fun h => { h.setReg rd (h.pc + BitVec.ofNat 64 n) with pc := h.pc + imm })) ()
  | .jalr rd rs1 imm => .ok (s.modHart m (fun k => { k.setReg rd (h.pc + BitVec.ofNat 64 n) with pc := (h.reg rs1 + imm) &&& ~~~ 1 })) ()
  | .branch f3 a b imm => if rvTaken f3 (h.reg a) (h.reg b) then .ok (s.modHart m (fun h => { h with pc := h.pc + imm })) () else s.hNext m n
  | .load f3 rd rs1 imm =>
    (s.hLoad m (h.acc false false) (h.reg rs1 + imm) (rvBytes f3) 0).bind (fun s d => s.hResult m n rd (rvLoaded f3 (leNat d)))
  | .store f3 rs1 rs2 imm => (s.hStore m (h.acc true false) (h.reg rs1 + imm) (leBytes (rvBytes f3) (h.reg rs2).toNat)).bind (fun s _ => s.hNext m n)
  | .opImm x f3 rd rs1 imm =>
    (match (rvOpImm x f3 imm (h.reg rs1)).or (zbOpImm x f3 imm (h.reg rs1)) with
    | some v => s.hResult m n rd v
    | none => s.hIllegal w)
  | .op x f3 f7 rd a b =>
    (match (rvOpReg x f3 f7 (h.reg a) (h.reg b)).or (zbOp x f3 f7 b (h.reg a) (h.reg b)) with
    | some v => s.hResult m n rd v
    | none => s.hIllegal w)
  | .fence pred _ => if bitAt pred 0 && s.hartBusy m then .wait s else s.hNext m n
  | .fenceI => s.hNext m n
  | .cbo kind rs1 =>
    let env (b : Nat) : Bool := (h.lvl == 3 || h.bit 0x30A b) && (!h.virt || h.bit 0x60A b) && (h.lvl != 0 || h.bit 0x10A b)
    let inv (n : Nat) : Bool := h.fld n 5 4 == 1
    let invOk := (h.lvl == 3 || inv 0x30A) && (!h.virt || inv 0x60A) && (h.lvl != 0 || inv 0x10A)
    if 4 < kind ∨ kind = 3 then s.hIllegal w
    else if !(if kind = 4 then env 7 else if kind = 0 then invOk else env 6) then
      (if h.virt && (h.bit 0x30A (if kind = 4 then 7 else 6) || (kind == 0 && inv 0x30A)) then s.hVirtual w else s.hIllegal w)
    else (s.hCbo m kind (h.reg rs1)).bind (fun s _ => s.hNext m n)
  | .amo f5 f3 rd rs1 rs2 => s.hAtomic m n w f5 f3 rd rs1 rs2 ext
  | .system f3 rd rs1 imm => s.hSystem m n w f3 rd rs1 imm
  | .tile _ _ _ _ _ _ => s.hIllegal w
  | .long => s.hIllegal w
  | .illegal => s.hIllegal w
  | .other _ _ _ =>
    let f3 := bits w 14 12
    match w % 128 with
    | 0x07 => if 1 ≤ f3 ∧ f3 ≤ 3 then s.hFpLoad m n w else if f3 = 4 then s.hIllegal w else s.hVecMem m n w false
    | 0x27 => if 1 ≤ f3 ∧ f3 ≤ 3 then s.hFpStore m n w else if f3 = 4 then s.hIllegal w else s.hVecMem m n w true
    | 0x43 | 0x47 | 0x4B | 0x4F | 0x53 => s.hFp m n w
    | 0x57 => if f3 = 7 then (if h.unitOff 9 then s.hIllegal w else s.hVset m n w) else s.hVecOp m n w
    | _ => s.hIllegal w

/-- The 32-bit word of an instruction: its own, or the expansion of a compressed one; the may-be-operations of Zcmop expand to a NOP. -/
def fullWord (w : Word) : Nat :=
  if w.toNat % 4 = 3 then w.toNat
  else (expandC true (w.toNat % 65536)).getD (if Nat.land w.toNat 0xF8FF = 0x6081 then 0x13 else w.toNat % 65536)

/-- A hart that runs takes a pending enabled interrupt, or fetches at its pc and executes (R392, R401, R403). -/
def hartRun (hart : HartId) (word : Word) (ext : List Byte) (s : State) (only : Rv → Bool) : Outcome :=
  gate s (fun s =>
    let m := hart.val
    let h := s.hart m
    let x := fullWord word
    let i := rvDecode32 x
    let n := if word.toNat % 4 = 3 then 4 else 2
    if h.state ≠ 1 ∨ h.fenced ∨ !only i then s
    else match s.hartIrq h with
      | some (c, to_) => s.modHart m (fun h => h.takeTrap true to_ { cause := c, tval := 0, gpa := 0 })
      | none =>
        match (s.hFetch m h.pc n).bind (fun s zero => if zero then s.hIllegal 0 else s.hExec m n x i ext) with
        | .ok s _ => s.modHart m (fun h => { h with nc := [] }.setCsr 0xB02 (h.csr 0xB02 + 1))
        | .wait s => s
        | .trap s t => s.modHart m (fun h => h.trap t))

/-- HART_INSTRUCTION (R392 to R400): the word at the hart's pc, and the bytes a companion answers an atomic with. -/
def execHartInstruction (hart : HartId) (word : Word) (ext : List Byte) (s : State) : Outcome := hartRun hart word ext s (fun _ => true)
/-- LR (R397). -/
def execLr (hart : HartId) (word : Word) (s : State) : Outcome :=
  hartRun hart word [] s (fun i => match i with | .amo f5 _ _ _ _ => f5 == 2 | _ => false)
/-- SC (R397). -/
def execSc (hart : HartId) (word : Word) (s : State) : Outcome :=
  hartRun hart word [] s (fun i => match i with | .amo f5 _ _ _ _ => f5 == 3 | _ => false)
/-- CBO_CLEAN (R396). -/
def execCboClean (hart : HartId) (rs1 : Fin 32) (s : State) : Outcome := hartRun hart (BitVec.ofNat 32 (encI 0x0F 2 0 rs1.val 1)) [] s (fun _ => true)
/-- CBO_FLUSH (R396). -/
def execCboFlush (hart : HartId) (rs1 : Fin 32) (s : State) : Outcome := hartRun hart (BitVec.ofNat 32 (encI 0x0F 2 0 rs1.val 2)) [] s (fun _ => true)
/-- CBO_INVAL (R396). -/
def execCboInval (hart : HartId) (rs1 : Fin 32) (s : State) : Outcome := hartRun hart (BitVec.ofNat 32 (encI 0x0F 2 0 rs1.val 0)) [] s (fun _ => true)
/-- CBO_ZERO (R396). -/
def execCboZero (hart : HartId) (rs1 : Fin 32) (s : State) : Outcome := hartRun hart (BitVec.ofNat 32 (encI 0x0F 2 0 rs1.val 4)) [] s (fun _ => true)
/-- WFI (R404): the hart goes to C1, and its reservation ends (R397). -/
def execWfi (hart : HartId) (s : State) : Outcome := hartRun hart 0x10500073 [] s (fun _ => true)

/-! ## Events of harts -/

/-- LR_SNOOP_DELAY_EXPIRY (R397): the L2 answers the snoops it delayed for the line. -/
def execLrSnoopDelayExpiry (hart : HartId) (s : State) : Outcome :=
  gate s (fun s =>
    let c := hartCluster hart.val
    let s := s.modHart hart.val (fun h => { h with delay := false })
    let held (l : Nat) : Bool := (List.range 4).any (fun i => let h := s.hart (4 * c + i); h.delay && h.resv == some l)
    let ready := (s.l2 c).delayed.filter (fun x => !held x.2.line)
    let s := s.setL2 c { s.l2 c with delayed := (s.l2 c).delayed.filter (fun x => held x.2.line) }
    overList s ready (fun s x => s.l2Snoop x.1 c x.2))

/-- C2_ENTRY_TIMER (Table 14-5): a hart in C1 for 100 µs; its L1s are invalidated. -/
def execC2EntryTimer (hart : HartId) (s : State) : Outcome :=
  gate s (fun s =>
    if (s.hart hart.val).state = 2 ∧ !(s.hart hart.val).fenced then
      { s.modHart hart.val (fun h => { h with state := 3 }) with l1s := s.l1s.del hart.val }
    else s)

/-- C3_ENTRY_TIMER (Table 14-5, R404): all four harts in C2; the L2 is cleaned and invalidated, and gated once it holds nothing and its
write-backs are acknowledged. -/
def execC3EntryTimer (cluster : ClusterId) (s : State) : Outcome :=
  gate s (fun s =>
    let c := cluster.val
    if !(List.range 4).all (fun i => (s.hart (4 * c + i)).state == 3) then s
    else if (s.l2 c).lines.cells.isEmpty && (s.l2 c).buffer.isEmpty && (s.l2 c).wants.isEmpty then
      overList (s.setL2 c { s.l2 c with entering := false }) (List.range 4) (fun s i => s.modHart (4 * c + i) (fun h => { h with state := 4 }))
    else
      let s := overList s ((s.l2 c).lines.cells.map (·.1)) (fun s l => s.l2Evict c l)
      s.setL2 c { s.l2 c with entering := true })

/-- HART_WAKE (R404): a pending enabled interrupt wakes the hart; it abandons an entry to C3, and from C3 the other harts stay in C2. -/
def execHartWake (hart : HartId) (s : State) : Outcome :=
  gate s (fun s =>
    let h := s.hart hart.val
    let c := hartCluster hart.val
    if h.fenced ∨ h.state < 2 ∨ 4 < h.state ∨ Nat.land (s.hartMip h) (h.csr 0x304).toNat = 0 then s
    else
      let s := if h.state = 4 then overList s (List.range 4) (fun s i => s.modHart (4 * c + i) (fun h => if h.state = 4 then { h with state := 3 } else h)) else s
      (s.setL2 c { s.l2 c with entering := false }).modHart hart.val (fun h => { h with state := 1 }))

/-- INTERRUPT_FILE_WRITE (R401, R405). -/
def execInterruptFileWrite (hart : HartId) (file : Fin 9) (identity : Word) (s : State) : Outcome :=
  gate s (fun s => s.modHart hart.val (fun h => h.msiIn file.val identity.toNat))

end Sys2Proof.Machine
end

