-- ==== Sys2Proof/Machine/Power.lean ====
section
/-! DEFINITION. Power, temperature and clocks (chapter 18, R330, R331): the input, the package budget and the exchange of tokens, the stewards'
ceilings, the temperatures of dies and memory stacks, and the clock islands. -/

namespace Sys2Proof.Machine

/-! ## Budgets -/

/-- The dies a die exchanges tokens with (R505). -/
def partners (d : Nat) : List Nat :=
  match dieType d with
  | 1 | 2 => [36 + d]
  | 3 | 4 => [d - 36] ++ (List.range 4).filterMap (hallPeer d) ++ (if 68 ≤ d ∧ d < 72 then [d + 28] else [])
  | 9 => [d - 28]
  | _ => [36 + dieStack d]

/-- A die's entry of section 0x09 (R68). -/
def State.budgetCfg (s : State) (d : Nat) : BudgetCfg :=
  match s.flp.bind (fun f => f.budgets[d]?) with
  | some b => b
  | none => { min := 0, max := 0, weight := 0 }

/-- Changes a die's steward. -/
def State.modSteward (s : State) (d : Nat) (f : Steward → Steward) : State := s.setSteward d (f (s.steward d))

/-- The fields of PWR_STATUS (Table 18-8): ISOLATED, LIMITED, THROTTLED, CAPPED and FAST by bit. -/
def State.pwrBit (s : State) (d i : Nat) : Bool := s.fld d 0xD0004 i i == 1
/-- Sets a bit of PWR_STATUS. -/
def State.setPwrBit (s : State) (d i : Nat) (v : Bool) : State := s.setFld d 0xD0004 i i (b2n v)

/-- A division rounded up. -/
def ceilDiv (a b : Nat) : Nat := (a + b - 1) / b

/-- What a die needs: its demand within MIN and MAX, and within its cap (R506, R507, R511). -/
def State.needOf (s : State) (d mean : Nat) : Nat :=
  let k := s.steward d
  let b := s.budgetCfg d
  let demand := if s.pwrBit d 30 then ceilDiv (125 * mean) 100 else ceilDiv (105 * mean) 100
  let n := min b.max (max b.min demand)
  match k.cap with
  | some c => min n c
  | none => n

/-- What a die asks of a partner: its own deficit, or what its other partners asked for in the epoch before, whichever is more; a surplus
of its own counts against it (R506). -/
def State.wantOf (s : State) (d j : Nat) : Nat :=
  let k := s.steward d
  let fwd := ((partners d).filter (· != j)).foldl (fun m i => max m (k.wants.get 0 i)) 0
  if k.budget < k.need then max (k.need - k.budget) fwd else fwd - (k.budget - k.need)

/-- Isolation and the return from it, at the end of an epoch (R509). -/
def State.contact (s : State) (d : Nat) : State :=
  let k := s.steward d
  if s.pwrBit d 31 then
    if k.heard then
      if 2 ≤ k.rejoin + 1 then (s.setPwrBit d 31 false).setSteward d { k with rejoin := 0, silent := 0 }
      else s.setSteward d { k with rejoin := k.rejoin + 1 }
    else s.setSteward d { k with rejoin := 0 }
  else if k.heard then s.setSteward d { k with silent := 0 }
  else if 2 ≤ k.silent + 1 then
    let b := max (s.budgetCfg d).min (k.budget - ceilDiv k.budget 10)
    let lost := k.budget - b
    let s := s.setSteward d { k with budget := k.budget - lost, silent := 0, rejoin := 0 }
    let s := (s.setPwrBit d 31 true).wr d 0xD000C (s.rd d 0xD000C + BitVec.ofNat 32 lost)
    s.noteFault (mkFault (dieOf d) 0x4B (stewardUnit d) .none 0 0 0)
  else s.setSteward d { k with silent := k.silent + 1 }

/-- Re-minting at the active root's die: forfeits of dies that have rejoined, and budgets of fenced dies (R510). -/
def State.remint (s : State) (d : Nat) : State :=
  let fenced (j : Nat) : Bool := s.fencedU.contains (UnitKind.die, j)
  overList s (List.range 100) (fun s j =>
    if fenced j ∧ j ≠ d then
      let b := (partners j).foldl (fun m i => max m ((s.steward i).seen.get 0 j)) 0 + (s.rd j 0xD000C).toNat
      let s := overList s (partners j) (fun s i => s.modSteward i (fun k => { k with seen := k.seen.set 0 j 0 }))
      (((s.modSteward j (fun k => { k with budget := 0 })).wr j 0xD000C 0).modSteward d (fun k => { k with budget := k.budget + b }))
    else if s.pwrBit j 31 then s
    else (s.modSteward d (fun k => { k with budget := k.budget + (s.rd j 0xD000C).toNat })).wr j 0xD000C 0)

/-- The telemetry record, built at the start of an epoch (R539, Table 19-6). -/
def State.telemetryNow (s : State) : List Byte :=
  let fenced (j : Nat) : Bool := s.fencedU.contains (UnitKind.die, j)
  let temp (j : Nat) : Nat := if fenced j then 0xFF else s.fld j 0xD0010 15 8
  let stack (j : Nat) : Nat := s.fld j 0x30800 15 8
  let busy (j : Nat) : Bool := s.pwrBit j 30 || s.pwrBit j 29 || s.pwrBit j 28
  let r := s.root s.activeRoot
  leBytes 8 s.time ++ leBytes 8 (s.time / 1000000) ++ leBytes 4 (s.rd 94 0xD0108).toNat ++ leBytes 4 (s.rd 94 0xD0104).toNat
    ++ leBytes 4 (((List.range 100).map (fun j => s.fld j 0xD0008 15 0)).sum) ++ leBytes 4 s.slStatus.toNat
    ++ (List.range 100).flatMap (fun j => leBytes 1 (temp j))
    ++ (List.range 36).flatMap (fun j => leBytes 1 (stack (36 + j))) ++ (List.range 12).flatMap (fun j => leBytes 1 (stack (72 + j)))
    ++ leBytes 4 ((List.range 100).filter busy).length ++ leBytes 4 r.next.toNat ++ leBytes 4 r.log.length

/-- The first self-test of an epoch is of pattern 0 (R172; log 73). -/
def State.restartPatterns (s : State) (d : Nat) : State :=
  if d < 32 then overList s (List.range 20) (fun s i => s.modCore (d * 20 + i) (fun k => { k with stPattern := true })) else s

/-- POWER_EPOCH_START (R504, R506, R507, R509, R510, R539). -/
def execPowerEpochStart (die : DieId) (mean : Nat) (s : State) : Outcome :=
  gate s (fun s =>
    let d := die.val
    if s.flp.isNone then s
    else
      let first := s.rd64 d 0xD0018 == 0
      let s := s.wr64 d 0xD0018 (BitVec.ofNat 64 (s.time / 1000000))
      let s := s.setFld d 0xD0008 15 0 mean
      let s := s.setPwrBit d 30 (s.steward d).limited
      let s := if first then s else s.contact d
      let s := if d = s.activeDie then s.remint d else s
      let need := s.needOf d mean
      let s := s.modSteward d (fun k => { k with need := need })
      let asks := (partners d).map (fun j => (j, s.wantOf d j))
      let s := s.modSteward d (fun k => { k with wants := ⟨[]⟩, heard := false, limited := false })
      let s := s.restartPatterns d
      let s := overList s asks (fun s x => s.stair 2 d x.1 [(s.steward d).budget, x.2])
      if d = s.activeDie then s.modMgmt (fun m => { m with telemetry := s.telemetryNow }) else s)

/-- TOKEN_GIVE_TIMER (R506): the surplus goes to the partners that want it, each within its want; giving subtracts the tokens when they are
sent. -/
def execTokenGiveTimer (die : DieId) (s : State) : Outcome :=
  gate s (fun s =>
    let d := die.val
    let k := s.steward d
    let w := ((partners d).map (fun j => k.wants.get 0 j)).sum
    if s.pwrBit d 31 ∨ k.budget ≤ k.need ∨ w = 0 then s
    else
      let spare := k.budget - k.need
      overList s (partners d) (fun s j =>
        let g := min (k.wants.get 0 j) (spare * k.wants.get 0 j / w)
        if g = 0 then s
        else (s.modSteward d (fun k => { k with budget := k.budget - g })).stair 3 d j [g, s.fld d 0xD0004 15 0]))

/-- STATE (R506): a partner's budget and its want of this epoch. -/
def execState (die partner : DieId) (budget want : Nat) (s : State) : Outcome :=
  gate s (fun s =>
    if (partners die.val).contains partner.val then
      s.modSteward die.val (fun k => { k with heard := true, wants := k.wants.set 0 partner.val want, seen := k.seen.set 0 partner.val budget })
    else s)

/-- What a give of a generation counts after the CUTs that came later (R510). -/
def Steward.credit (k : Steward) (generation tokens : Nat) : Nat :=
  (k.factors.filter (fun x => decide (generation < x.1))).foldl (fun g x => g * x.2 / 65536) tokens

/-- GIVE (R508, R509, R510): the receiver's budget grows, or the giver's when the packet comes back; an isolated die takes nothing, and what
reaches it is forfeit. -/
def execGive (die giver : DieId) (tokens generation : Nat) (returned : Bool) (s : State) : Outcome :=
  gate s (fun s =>
    let d := die.val
    if !(partners d).contains giver.val && !returned then s
    else
      let g := (s.steward d).credit generation tokens
      if s.pwrBit d 31 ∧ !returned then s.wr d 0xD000C (s.rd d 0xD000C + BitVec.ofNat 32 g)
      else s.modSteward d (fun k => { k with budget := k.budget + g }))

/-- CUT (R510): the budget above MIN is scaled by the factor; a fast throttle's 100 µs count from here again (R502). -/
def execCut (die : DieId) (generation factor : Nat) (s : State) : Outcome :=
  gate s (fun s =>
    let d := die.val
    if s.fld d 0xD0004 15 0 = generation % 65536 then s
    else
      let m := (s.budgetCfg d).min
      let s := s.modSteward d (fun k => { k with
        budget := if k.budget ≤ m then k.budget else m + (k.budget - m) * factor / 65536, factors := k.factors ++ [(generation, factor)] })
      { s.setFld d 0xD0004 15 0 generation with calmUs := 0 })

/-- BUDGET_RECOMPUTE (R503, R510): the package budget from the mean input voltage and the host limit; a rise goes to the active management
die's own budget, a fall sends CUT to every die. -/
def execBudgetRecompute (meanCentivolts : Nat) (s : State) : Outcome :=
  gate s (fun s =>
    let input := min (meanCentivolts * 18) 108000
    let limit := s.fld 94 0xD0100 19 0
    let host := limit != 0 && decide (limit ≤ input)
    let p := if host then limit else input
    let old := s.fld 94 0xD0104 19 0
    let s := (s.setFld 94 0xD0104 19 0 p).setFld 94 0xD0104 30 30 (b2n !host)
    if s.flp.isNone ∨ p = old then s
    else if old < p then s.modSteward s.activeDie (fun k => { k with budget := k.budget + (p - max old s.sumMin) })
    else
      let m := s.sumMin
      let f := 65536 * (p - m) / (old - m)
      let s := { s with cutGen := s.cutGen + 1, calmUs := 0 }
      overList s (List.range 100) (fun s d => s.stair 4 s.activeDie d [s.cutGen, f]))

/-- PKG_LIMIT_WRITE (R503). -/
def execPkgLimitWrite (_root95 : Bool) (limit : Word) (s : State) : Outcome := gate s (fun s => s.setPkgLimit limit)

/-! ## The input -/

/-- The compute and CPU dies, which a fast throttle slows. -/
def fastDies : List Nat := List.range 36

/-- INPUT_SAMPLE (R502, R554): ten samples in a row below 47 V act as PWR_OK falling; two above 190 A send a fast throttle. -/
def execInputSample (centivolts centiamps : Nat) (s : State) : Outcome :=
  if s.phase = .off then .next s
  else
    let s := s.wr 94 0xD0108 (BitVec.ofNat 32 (centivolts % 2 ^ 16 * 2 ^ 16 + centiamps % 2 ^ 16))
    let s := { s with
      pins := { s.pins with vinOk := decide (5000 ≤ centivolts) },
      lowUs := if centivolts < 4700 then s.lowUs + 10 else 0,
      overUs := if 19000 < centiamps then s.overUs + 10 else 0,
      calmUs := if centiamps < 18000 then s.calmUs + 10 else 0 }
    if 100 ≤ s.lowUs then .next s.powerDown
    else if 20 ≤ s.overUs ∧ !s.pwrBit 0 27 ∧ s.phase = .running then
      let s := { s.inc 94 0xD010C with calmUs := 0 }
      .next (overList s fastDies (fun s d => (s.setPwrBit d 27 true).stair 5 94 d []))
    else .next s

/-- FAST_THROTTLE_LIFT (R502): after 100 µs below 180 A, counted from the throttle or from a CUT sent since. -/
def execFastThrottleLift (s : State) : Outcome :=
  gate s (fun s => if s.pwrBit 0 27 ∧ 100 ≤ s.calmUs then overList s fastDies (fun s d => s.setPwrBit d 27 false) else s)

/-- REGULATOR_OUT_OF_RANGE (R502): "regulator fault" against the die the output feeds. -/
def execRegulatorOutOfRange (die : DieId) (s : State) : Outcome :=
  gate s (fun s => s.leafDetect (mkFault die 0x4A (stewardUnit die.val) .die die.val 0 0))

/-! ## Ceilings -/

/-- The steps by which a die's island ceilings can be lowered: a core's 24 steps of 25 MHz, a cluster's 22 of 100 MHz (R518); other dies have no
island whose frequency a steward sets. -/
def ceilingSteps (d : Nat) : Nat := match dieType d with | 1 => 24 | 2 => 22 | _ => 0

/-- Whether a die's steward limits memory admission: it has memory channels. -/
def hasMemory (d : Nat) : Bool := dieType d == 3 || dieType d == 4 || dieType d == 5

/-- POWER_MEASURE (R504, R511): over its budget, MAX or cap, or where the steward limits it, a die's ceilings go down by a step; otherwise they
go up again by one. -/
def execPowerMeasure (die : DieId) (tokens highest100us : Nat) (limited : Bool) (s : State) : Outcome :=
  gate s (fun s =>
    let d := die.val
    if s.flp.isNone then s
    else
      let s := s.setFld d 0xD0008 31 16 highest100us
      let k := s.steward d
      let top := min (min k.budget (s.budgetCfg d).max) (k.cap.getD k.budget)
      if limited ∨ top < tokens then
        s.setSteward d { k with
          limited := true, ceiling := min (k.ceiling + 1) (ceilingSteps d), admission := if hasMemory d then min (k.admission + 1) 8 else 0 }
      else s.setSteward d { k with ceiling := k.ceiling - 1, admission := k.admission - 1 })

/-! ## Temperature -/

/-- The throttle, release and critical temperatures of a die (Table 18-3). -/
def dieTemps (d : Nat) : Nat × Nat × Nat := if dieType d ≤ 2 then (100, 97, 110) else (105, 102, 115)

/-- THERM_N is low while any die or memory stack is throttled (R515). -/
def State.thermPin (s : State) : State :=
  let hot := (List.range 100).any (fun d => s.pwrBit d 29) || (List.range 48).any (fun k => s.fld (36 + k) 0x30000 26 26 == 1)
  { s with pins := { s.pins with thermN := !hot } }

/-- DIE_TEMP_POLL (R512 to R515): the highest reading is recorded; at the throttle temperature every ceiling goes down by a step; at the
critical temperature the die is fenced. -/
def execDieTempPoll (die : DieId) (readings : List Nat) (s : State) : Outcome :=
  gate s (fun s =>
    let d := die.val
    let t := readings.foldl max 0
    let ix := readings.findIdx (· == t)
    let (hot, cool, crit) := dieTemps d
    let s := s.wr d 0xD0010 (BitVec.ofNat 32 (t % 256 * 256 + ix % 256))
    let s := if hot ≤ t then
        let s := if s.pwrBit d 29 then s else (s.setPwrBit d 29 true).noteFault (mkFault die 0x48 (stewardUnit d) .none 0 0 0)
        s.modSteward d (fun k => { k with
          thermal := min (k.thermal + 1) (ceilingSteps d), admission := if hasMemory d then min (k.admission + 1) 8 else k.admission })
      else if t < cool then s.setPwrBit d 29 false else s
    let s := s.thermPin
    if crit ≤ t then s.leafDetect (mkFault die 0x49 (stewardUnit d) .die d 0 0) else s)

/-- THROTTLE_RELEASE_STEP (R513): with the reading below the release temperature, ceilings go up by a step. -/
def execThrottleReleaseStep (die : DieId) (s : State) : Outcome :=
  gate s (fun s =>
    let d := die.val
    if s.fld d 0xD0010 15 8 < (dieTemps d).2.1 then
      s.modSteward d (fun k => { k with thermal := k.thermal - 1, admission := if hasMemory d then k.admission - 1 else k.admission })
    else s)

/-! ## Memory stacks (R330, R331, R511) -/

/-- The dies that a throttled stack's base die caps (R511). -/
def cappedBy (base : Nat) : List Nat :=
  if base < 72 then [base - 36, base] else [base, dieStack base, 36 + dieStack base]

/-- Whether a base die's stack is throttled. -/
def State.stackHot (s : State) (base : Nat) : Bool := s.fld base 0x30000 26 26 == 1

/-- Caps the dies near a stack that enters throttle, at three quarters of the budget they hold (R511). -/
def State.capNear (s : State) (base : Nat) : State :=
  overList s (cappedBy base) (fun s d =>
    if (s.steward d).cap.isSome then s
    else (s.modSteward d (fun k => { k with cap := some (k.budget * 3 / 4) })).setPwrBit d 28 true)

/-- Lifts the caps of a stack that leaves throttle, but where another throttled stack caps the die. -/
def State.liftNear (s : State) (base : Nat) : State :=
  overList s (cappedBy base) (fun s d =>
    if (List.range 48).any (fun k => s.stackHot (36 + k) && (cappedBy (36 + k)).contains d) then s
    else (s.modSteward d (fun k => { k with cap := none })).setPwrBit d 28 false)

/-- The level a stack's temperature sets: 0 to 2 the refresh band, 3 throttled. A level falls only once its threshold has been undercut by 2 °C
for 1 ms (R330, R331). -/
def bandOf (old temp hot time : Nat) (below : Map Nat) : Map Nat × Nat :=
  let limits : List (Nat × Nat) := [(1, 86), (2, 96), (3, hot)]
  let below := limits.foldl (fun (m : Map Nat) x =>
    let line := if x.1 = 3 then x.2 else x.2 - 1
    if temp + 2 ≤ line then (if m.get 0 x.1 = 0 then m.set 0 x.1 (time + 1) else m) else m.set 0 x.1 0) below
  let stays (i : Nat) : Bool := decide (i ≤ old) && !(below.get 0 i != 0 && decide (1000000 ≤ time + 1 - below.get 0 i))
  (below, limits.foldl (fun (l : Nat) x => if x.2 ≤ temp ∨ stays x.1 then x.1 else l) 0)

/-- Sets a stack's refresh band, throttle or critical trip from its temperature (R330, R331, R471, R472, R511). -/
def State.stackTemp (s : State) (base temp hot crit : Nat) : State :=
  match dieChans base with
  | [] => s
  | c0 :: cs =>
    let chans := c0 :: cs
    let mine (c : Chan) : Bool := chans.contains c
    let tripped := s.fld base 0x30800 2 0 == 4
    let old := if s.stackHot base then 3 else s.fld base 0x30000 25 24
    let (below, level) := bandOf old temp hot s.time (s.chan c0).below
    let s := s.setChan c0 { s.chan c0 with below := below }
    let s := overList s chans (fun s c =>
      (s.setFld (chanReg c).1 (chanReg c).2 25 24 (min level 2)).setFld (chanReg c).1 (chanReg c).2 26 26 (b2n (level == 3)))
    let trip := tripped || decide (crit ≤ temp)
    let s := s.wr base 0x30800 (BitVec.ofNat 32 (temp % 256 * 256 + (if trip then 4 else level)))
    let s := if old < 3 ∧ level = 3 then
        ((s.noteFault (mkFault (dieOf base) 0x20 (stewardUnit base) .none 0 0 0)).capNear base).colThrottle s.chanThrottled
      else if old = 3 ∧ level < 3 then (s.liftNear base).colThrottle s.chanThrottled
      else s
    let s := s.thermPin
    if trip ∧ !tripped then
      let s := overList s chans (fun s c => if s.chanState c = 4 then s else
        s.leafDetect (mkFault (dieOf base) 0x21 (chanLocal c) .channel (chanLocal c) 0 0))
      s.colTrip mine
    else s

/-- ATTIC_TEMP_POLL (R330, R331): the stack's temperature is the highest of its eight readings. -/
def execAtticTempPoll (stack : StackId) (readings : List Nat) (s : State) : Outcome :=
  gate s (fun s => s.stackTemp (36 + stack.val) (readings.foldl max 0) 105 110)

/-- ANNEX_TEMP_POLL (R322, R330, R331): the highest reading of the stack's channels is its temperature. -/
def execAnnexTempPoll (stack : Fin 12) (readings : List Nat) (s : State) : Outcome :=
  gate s (fun s => s.stackTemp (72 + stack.val) (readings.foldl max 0) 100 105)

/-! ## Clock islands -/

/-- CORE_CLOCK_GATE (R517): a core that runs no kernel is clock-gated; what it holds is kept. -/
def execCoreClockGate (core : CoreId) (s : State) : Outcome :=
  gate s (fun s =>
    let k := s.core core.val
    if k.kernel.isNone ∧ k.clock = 0 then s.setCore core.val { k with clock := 1 } else s)

/-- SUPPLY_DROOP (R520): the cycles stretched are counted. -/
def execSupplyDroop (island : DroopIsland) (cycles : Nat) (s : State) : Outcome :=
  gate s (fun s =>
    match island with
    | .core c => s.inc64 (coreDie c.val) (coreOff c.val 0xE08) cycles
    | .cluster n => s.inc64 (32 + n.val / 16) (0xD0200 + 8 * (n.val % 16)) cycles)

end Sys2Proof.Machine
end

