-- ==== Sys2Proof/Machine/Management.lean ====
section
/-! DEFINITION. The management plane (chapter 19): management commands on the buses and the management queue, debug unlocks, telemetry and
attestation. -/

namespace Sys2Proof.Machine

/-! ## Flash as commands see it -/

/-- A fault dump area as it stands in flash (R496). -/
def DumpArea.bytes (d : DumpArea) : List Byte :=
  if d.erased then List.replicate 0x41000 0xFF
  else
    let recs := d.records.take 4096
    let head := padTo 0x40 (leBytes 4 0x44465A4B ++ leBytes 8 d.sequence ++ leBytes 8 d.time.toNat ++ leBytes 1 d.cause ++ leBytes 2 recs.length)
    let caps := (List.range 3).flatMap (fun k => (List.range 8).flatMap (fun i => leBytes 4 (captureWord ((d.captures[k]?).getD none) k i).toNat))
    let body := padTo 0x100 (head ++ caps) ++ recs.flatMap LogRec.bytes
    let trailer := leBytes 4 body.length ++ leBytes 4 (crc32c body).toNat ++ leBytes 4 (if d.committed then 0x5A5AC3C3 else 0xFFFFFFFF)
    body ++ List.replicate (0x40100 - body.length) 0xFF ++ trailer ++ List.replicate (0x41000 - 0x4010C) 0xFF

/-- A list entry of 16 bytes: eight bytes, their CRC-32C and the commit word (R498, R526). -/
def entryBytes (b : List Byte) : List Byte := b ++ leBytes 4 (crc32c b).toNat ++ leBytes 4 0x5A5AC3C3

/-- A persistent fence list entry (R498). -/
def FenceEntry.bytes (e : FenceEntry) : List Byte := entryBytes (leBytes 1 e.kind ++ [0] ++ leBytes 2 e.index ++ [e.source, 0, 0, 0])

/-- A repair list entry (R526). -/
def RepairEntry.bytes (e : RepairEntry) : List Byte :=
  entryBytes (leBytes 1 (if e.annex then 2 else 1) ++ [0] ++ leBytes 2 e.channel ++ leBytes 1 e.bank ++ leBytes 1 e.sid ++ leBytes 2 e.row)

/-- Bytes of any flash area. -/
def Mgmt.areaRun (m : Mgmt) (a o n : Nat) : List Byte :=
  let from_ (l : List Byte) : List Byte := let t := (l.drop o).take n; t ++ List.replicate (n - t.length) 0xFF
  match a with
  | 8 => from_ (m.dumps.get DumpArea.reset 0).bytes
  | 9 => from_ (m.dumps.get DumpArea.reset 1).bytes
  | 10 => from_ (m.fences.flatMap FenceEntry.bytes)
  | 11 => from_ (m.repairs.flatMap RepairEntry.bytes)
  | a => m.flashRun a o n

/-- The area and offset of a run of flash addresses that lies in one area (Table 19-1). -/
def areaAt (addr n : Nat) : Option (Nat × Nat) :=
  ((List.range 13).find? (fun a => decide (areaBase a ≤ addr) && decide (addr + n ≤ areaBase a + areaSize a))).map (fun a => (a, addr - areaBase a))

/-- Whether an area is the copy in force of a stage that runs, or the slot of the Floorplan in force (R527). -/
def State.areaInForce (s : State) (a : Nat) : Bool :=
  (decide (a < 6) && decide (a / 2 < s.mgmt.stage) && s.mgmt.copies.get 0 (a / 2) / 8 == a % 2) || (s.flp.isSome && (a == 6 || a == 7) && s.fld 94 0x20000 11 8 == a - 5)

/-- Whether a running operation holds something (R537). -/
def Mgmt.held (m : Mgmt) (x : Nat) : Bool := m.ops.any (fun o => o.status == 1 && o.holds == x)

/-- Records an operation that is answered IN_PROGRESS. -/
def State.startOp (s : State) (tag : BitVec 16) (holds : Nat) : State :=
  s.modMgmt (fun m => { m with ops := m.ops.filter (fun o => o.tag != tag) ++ [{ tag := tag, status := 1, holds := holds }] })

/-! ## The commands (Table 19-5). Each answers a state, a status and a payload. -/

/-- What a command does. -/
abbrev MgtFn := State → MgtReq → State × Nat × List Byte

/-- MGT_STATUS: the status block, SEC_STATUS, and TAG and status of each long operation; their order in the payload is log 28. -/
def State.mgtStatus : MgtFn := fun s _ =>
  (s, 0, (List.range 40).flatMap (fun i => leBytes 4 (s.csrWord 94 (0x20100 + 4 * i)).toNat) ++ leBytes 4 (s.csrWord 94 0xF0000).toNat
    ++ s.mgmt.ops.flatMap (fun o => leBytes 2 o.tag.toNat ++ leBytes 2 o.status))

/-- MGT_TELEMETRY: the record of one epoch. -/
def State.mgtTelemetry : MgtFn := fun s _ => (s, 0, padTo 0xC0 s.mgmt.telemetry)

/-- MGT_FAULT_READ: the capture sets and the records whose SEQ lies in the range of the payload's two words (log 28), from OFFSET on, and on a bus
at most 4 KiB of them (R535). -/
def State.mgtFaultRead : MgtFn := fun s r =>
  let root := s.root s.activeRoot
  let lo := leAt r.payload 0 4
  let hi := leAt r.payload 4 4
  let caps := (List.range 3).flatMap (fun k => (List.range 8).flatMap (fun i => leBytes 4 (captureWord (root.captures.get none k) k i).toNat))
  let rest := (caps ++ (root.log.filter (fun x => decide (lo ≤ x.seq.toNat) && decide (x.seq.toNat ≤ hi))).flatMap LogRec.bytes).drop r.offset
  (s, 0, if r.transport = .queue then rest else rest.take 4096)

/-- MGT_FAULT_FREE: as FC_LOG_FREE at the active root (R484). -/
def State.mgtFaultFree : MgtFn := fun s r =>
  (s.setRoot s.activeRoot ((s.root s.activeRoot).free (BitVec.ofNat 32 (leAt r.payload 0 4))), 0, [])

/-- MGT_FLP_LOAD: a chunk of a full image, at SL0 with no configuration in force; with the image's last byte its verification begins (R81,
R86). -/
def State.mgtFlpLoad : MgtFn := fun s r =>
  if s.flp.isSome ∨ s.fld 94 0x20000 3 0 ≠ 3 then (s, if s.mgmt.held 13 || s.delta.isSome then 4 else 8, [])
  else
    let up := if r.offset = 0 then r.payload else s.mgmt.upload ++ r.payload
    if r.offset ≠ 0 ∧ r.offset ≠ s.mgmt.upload.length ∨ 0x100000 < up.length then (s, 2, [])
    else
      let s := s.modMgmt (fun m => { m with upload := up })
      if 12 ≤ up.length ∧ leAt up 8 4 ≤ up.length then ((s.startOp r.tag 13).setFld 94 0x20000 3 0 1, 1, []) else (s, 0, [])

/-- MGT_FLASH_READ: OFFSET is a flash address and the payload's first word a length, within one area. -/
def State.mgtFlashRead : MgtFn := fun s r =>
  let n := leAt r.payload 0 4
  match areaAt r.offset n with
  | some (a, o) => if r.transport ≠ .queue ∧ 4096 < n then (s, 2, []) else (s, 0, s.mgmt.areaRun a o n)
  | none => (s, 2, [])

/-- Erases an area held as bytes, or a dump area. -/
def Mgmt.erase (m : Mgmt) (a : Nat) : Mgmt :=
  if a = 8 ∨ a = 9 then { m with dumps := m.dumps.set DumpArea.reset (a - 8) DumpArea.reset } else { m with flash := m.flash.set ⟨[]⟩ a ⟨[]⟩ }

/-- MGT_FLASH_ERASE: the area whose flash address OFFSET names; the identity area and the lists have their own rules (R498, R525, R527). -/
def State.mgtFlashErase : MgtFn := fun s r =>
  match areaAt r.offset 1 with
  | some (a, 0) =>
    if 10 ≤ a then (s, 3, [])
    else if s.areaInForce a then (s, 5, [])
    else if s.mgmt.held a then (s, 4, [])
    else ((s.modMgmt (fun m => m.erase a)).startOp r.tag a, 1, [])
  | _ => (s, 2, [])

/-- MGT_FLASH_WRITE: a chunk into erased bytes of an image area not in force (R527); above 64 KiB it is a long operation (R537). -/
def State.mgtFlashWrite : MgtFn := fun s r =>
  let n := r.payload.length
  match areaAt r.offset n with
  | some (a, o) =>
    if 8 ≤ a then (s, 3, [])
    else if s.areaInForce a then (s, 5, [])
    else if s.mgmt.held a then (s, 4, [])
    else if !(s.mgmt.flashRun a o n).all (· == 0xFF) then (s, 8, [])
    else
      let s := s.modMgmt (fun m => { m with flash := m.flash.set ⟨[]⟩ a ((m.flash.get ⟨[]⟩ a).setRun 0xFF o r.payload) })
      if 0x10000 < n then (s.startOp r.tag a, 1, []) else (s, 0, [])
  | none => (s, 2, [])

/-- MGT_RESET: the payload's first byte is 0 for RESET_WARM, 1 for RESET_DIE of the die its second byte names (log 28). -/
def State.mgtReset : MgtFn := fun s r =>
  match leAt r.payload 0 1 with
  | 0 => (s.warmReset (if s.phase = .safe then 3 else 2), 0, [])
  | 1 =>
    let d := leAt r.payload 1 1
    if 100 ≤ d then (s, 2, [])
    else
      let s := (s.startOp r.tag (200 + d)).askDie d (100 + d, 8, 0, r.tag)
      (s, ((s.mgmt.ops.find? (fun o => o.tag == r.tag)).map (·.status)).getD 1, [])
  | _ => (s, 2, [])

/-- MGT_PKG_LIMIT (R503). -/
def State.mgtPkgLimit : MgtFn := fun s r => (s.setPkgLimit (BitVec.ofNat 32 (leAt r.payload 0 4)), 0, [])

/-- MGT_RT_STAGE: words of the staged route table from OFFSET [31:0] on; OFFSET [63] commits it (R454; log 28). -/
def State.mgtRtStage : MgtFn := fun s r =>
  let o := r.offset % 2 ^ 32
  let n := r.payload.length
  if o % 4 ≠ 0 ∨ n % 4 ≠ 0 ∨ 0xC088 < o + n then (s, 2, [])
  else
    let s := overList s (List.range (n / 4)) (fun s i => s.stageWord (o + 4 * i) (BitVec.ofNat 32 (leAt r.payload (4 * i) 4)))
    (if bitAt r.offset 63 then s.routeCommit else s, 0, [])

/-- MGT_FENCE_ERASE: the list is empty at the next load; an erase is a long operation (R537). -/
def State.mgtFenceErase : MgtFn := fun s r =>
  if s.mgmt.held 10 then (s, 4, [])
  else
    let s := s.modMgmt (fun m => { m with fences := [] })
    (((s.setRoot false { s.root false with fenceFull := false }).setRoot true { s.root true with fenceFull := false }).startOp r.tag 10, 1, [])

/-- MGT_REPAIR_ERASE: a long operation (R537). -/
def State.mgtRepairErase : MgtFn := fun s r =>
  if s.mgmt.held 11 then (s, 4, []) else ((s.modMgmt (fun m => { m with repairs := [] })).startOp r.tag 11, 1, [])

/-- SEC_ADVANCE: the payload's first byte names the counter, and its second word the value for ARB_DBG (R533; log 28). -/
def State.secAdvance : MgtFn := fun s r =>
  let m := s.mgmt
  let put (f : Fuses → Fuses) : State × Nat × List Byte := (s.modMgmt (fun m => { m with fuses94 := f m.fuses94, fuses95 := f m.fuses95 }), 0, [])
  match leAt r.payload 0 1 with
  | 0 =>
    let v := min (m.stageVersion 0) (min (m.stageVersion 1) (m.stageVersion 2))
    if 64 < v then (s, 7, []) else put (fun f => { f with arbFw := max f.arbFw v })
  | 1 =>
    match s.flp with
    | none => (s, 8, [])
    | some f => if 64 < f.secVersion then (s, 7, []) else put (fun g => { g with arbFlp := max g.arbFlp f.secVersion })
  | 2 =>
    let v := leAt r.payload 4 4
    if 64 < v then (s, 7, []) else put (fun f => { f with arbDbg := max f.arbDbg v })
  | _ => (s, 2, [])

/-- SEC_DEBUG_CHALLENGE: a fresh nonce (R543). -/
def State.secDebugChallenge : MgtFn := fun s _ =>
  let n := (List.range 32).map (fun i => Config.freeByte (s.fresh + i))
  ({ s with fresh := s.fresh + 32, mgmt := { s.mgmt with nonce := some (n, s.time) } }, 0, n)

/-- Whether a debug token is accepted (R499, R543). -/
def State.tokenOk (s : State) (t : List Byte) : Bool :=
  let f := s.mgmt.fuses94
  leAt t 0 4 == 0x54445A4B && leAt t 4 1 == 1 && leAt t 6 2 == 0 && ((s.flp.map (·.debugUnlock)).getD false)
    && leAt t 8 8 == f.serial.toNat
    && (match s.mgmt.nonce with | some (n, at_) => (t.drop 16).take 32 == n && decide (s.time ≤ at_ + 60000000000) | none => false)
    && decide (s.time ≤ leAt t 48 8) && decide (f.arbDbg ≤ leAt t 56 4) && sigAt t 60 f.dbgRsa f.dbgSlh

/-- SEC_DEBUG_UNLOCK: a token opens its SCOPE and extends measurement 7; the nonce serves one attempt (R543, R544). -/
def State.secDebugUnlock : MgtFn := fun s r =>
  let t := r.payload
  let ok := s.tokenOk t
  let s := s.modMgmt (fun m => { m with nonce := none })
  if ok then
    (s.modMgmt (fun m => { m with
      scope := some (Nat.lor (m.scope.getD 0) (leAt t 5 1 % 16)), notAfter := BitVec.ofNat 64 (leAt t 48 8), digestLog := m.digestLog ++ [Config.sha384 t] }), 0, [])
  else (s, 9, [])

/-- Ends every unlock: the units halted under it resume (R544). -/
def State.debugLock (s : State) : State :=
  { s with
    mgmt := { s.mgmt with scope := none },
    cores := ⟨s.cores.cells.map (fun (x : Nat × Core) => (x.1, if x.2.phase = 3 then { x.2 with phase := 1 } else x.2))⟩,
    harts := ⟨s.harts.cells.map (fun (x : Nat × Hart) => (x.1, if x.2.state = 6 then { x.2 with state := 1 } else x.2))⟩ }

/-- SEC_DEBUG_LOCK. -/
def State.secDebugLock : MgtFn := fun s _ => (s.debugLock, 0, [])

/-! ## Answering (R532, R535 to R538) -/

/-- Whether a command only reads (Table 19-5, class R). -/
def classR (code : Nat) : Bool := [0x01, 0x02, 0x03, 0x11, 0x31].contains code

/-- Whether ROM recovery answers a request: the commands of R532, on a bus, the flash ones for the stage areas. -/
def recoveryTakes (code : Nat) (r : MgtReq) : Bool :=
  r.transport != .queue && (code == 0x01 || code == 0x20 || ([0x11, 0x12, 0x13].contains code && decide (r.offset < 0x1200000)))

/-- Runs a command: none where nothing answers; else the state, status and payload (R532, R535 to R538). -/
def State.mgtRun (s : State) (code : Nat) (op : MgtFn) (r : MgtReq) : Option (State × Nat × List Byte) :=
  let tooLong := r.transport != .queue && decide (4096 < r.payload.length)
  match s.phase with
  | .recovery => if recoveryTakes code r then some (if tooLong then (s, 2, []) else op s r) else none
  | .safe =>
    if classR code ∨ (code = 0x20 ∧ leAt r.payload 0 1 = 0) then
      (if !classR code ∧ r.transport = .bus1 ∧ (s.flp.map (·.mgmtWrite0)).getD false then some (s, 3, []) else some (op s r))
    else some (s, 8, [])
  | .running =>
    if !s.pins.ready then none
    else if r.transport = .queue ∧ s.level < 1 then none
    else if tooLong then some (s, 2, [])
    else if !classR code ∧ r.transport = .bus1 ∧ (s.flp.map (·.mgmtWrite0)).getD false then some (s, 3, [])
    else some (op s r)
  | _ => none

/-- Runs a command and sends its response: the request's CODE and TAG, STATUS, what STATUS leaves of OFFSET, and the payload (R535). -/
def mgtAnswer (code : Nat) (op : MgtFn) (r : MgtReq) (s : State) : State :=
  match s.mgtRun code op r with
  | some (s, st, pl) => s.send (.mgmt r.transport code r.tag st (r.offset / 2 ^ 16) pl)
  | none => s

/-- What a code names (Table 19-5); a code outside the table is BAD_COMMAND. -/
def mgtOp (code : Nat) : MgtFn :=
  match code with
  | 0x01 => State.mgtStatus | 0x02 => State.mgtTelemetry | 0x03 => State.mgtFaultRead | 0x04 => State.mgtFaultFree | 0x10 => State.mgtFlpLoad
  | 0x11 => State.mgtFlashRead | 0x12 => State.mgtFlashErase | 0x13 => State.mgtFlashWrite | 0x20 => State.mgtReset | 0x21 => State.mgtPkgLimit
  | 0x22 => State.mgtRtStage | 0x23 => State.mgtFenceErase | 0x24 => State.mgtRepairErase | 0x30 => State.secAdvance
  | 0x31 => State.secDebugChallenge | 0x32 => State.secDebugUnlock | 0x33 => State.secDebugLock | _ => fun s _ => (s, 2, [])

/-- A request as it stands in a message or buffer: CODE, and the rest (R535). -/
def mgtParse (t : Transport) (b : List Byte) : Nat × MgtReq :=
  (leAt b 0 2, { transport := t, tag := BitVec.ofNat 16 (leAt b 2 2), offset := leAt b 8 8, payload := (b.drop 16).take (leAt b 4 4) })

/-- MGT_STATUS (R536). -/
def execMgtStatus (r : MgtReq) (s : State) : Outcome := .next (mgtAnswer 0x01 State.mgtStatus r s)
/-- MGT_TELEMETRY (R539). -/
def execMgtTelemetry (r : MgtReq) (s : State) : Outcome := .next (mgtAnswer 0x02 State.mgtTelemetry r s)
/-- MGT_FAULT_READ (R536). -/
def execMgtFaultRead (r : MgtReq) (s : State) : Outcome := .next (mgtAnswer 0x03 State.mgtFaultRead r s)
/-- MGT_FAULT_FREE (R536, R484). -/
def execMgtFaultFree (r : MgtReq) (s : State) : Outcome := .next (mgtAnswer 0x04 State.mgtFaultFree r s)
/-- MGT_FLP_LOAD (R81). -/
def execMgtFlpLoad (r : MgtReq) (s : State) : Outcome := .next (mgtAnswer 0x10 State.mgtFlpLoad r s)
/-- MGT_FLASH_READ (R536). -/
def execMgtFlashRead (r : MgtReq) (s : State) : Outcome := .next (mgtAnswer 0x11 State.mgtFlashRead r s)
/-- MGT_FLASH_ERASE (R527, R536). -/
def execMgtFlashErase (r : MgtReq) (s : State) : Outcome := .next (mgtAnswer 0x12 State.mgtFlashErase r s)
/-- MGT_FLASH_WRITE (R527, R536). -/
def execMgtFlashWrite (r : MgtReq) (s : State) : Outcome := .next (mgtAnswer 0x13 State.mgtFlashWrite r s)
/-- MGT_RESET (R99, R536). -/
def execMgtReset (r : MgtReq) (s : State) : Outcome := .next (mgtAnswer 0x20 State.mgtReset r s)
/-- MGT_PKG_LIMIT (R503, R536). -/
def execMgtPkgLimit (r : MgtReq) (s : State) : Outcome := .next (mgtAnswer 0x21 State.mgtPkgLimit r s)
/-- MGT_RT_STAGE (R454, R536). -/
def execMgtRtStage (r : MgtReq) (s : State) : Outcome := .next (mgtAnswer 0x22 State.mgtRtStage r s)
/-- MGT_FENCE_ERASE (R536). -/
def execMgtFenceErase (r : MgtReq) (s : State) : Outcome := .next (mgtAnswer 0x23 State.mgtFenceErase r s)
/-- MGT_REPAIR_ERASE (R536). -/
def execMgtRepairErase (r : MgtReq) (s : State) : Outcome := .next (mgtAnswer 0x24 State.mgtRepairErase r s)
/-- SEC_ADVANCE (R533). -/
def execSecAdvance (r : MgtReq) (s : State) : Outcome := .next (mgtAnswer 0x30 State.secAdvance r s)
/-- SEC_DEBUG_CHALLENGE (R543). -/
def execSecDebugChallenge (r : MgtReq) (s : State) : Outcome := .next (mgtAnswer 0x31 State.secDebugChallenge r s)
/-- SEC_DEBUG_UNLOCK (R543, R544). -/
def execSecDebugUnlock (r : MgtReq) (s : State) : Outcome := .next (mgtAnswer 0x32 State.secDebugUnlock r s)
/-- SEC_DEBUG_LOCK (R544). -/
def execSecDebugLock (r : MgtReq) (s : State) : Outcome := .next (mgtAnswer 0x33 State.secDebugLock r s)

/-- DEBUG_UNLOCK_EXPIRY (R544): NOT_AFTER has passed. -/
def execDebugUnlockExpiry (s : State) : Outcome :=
  gate s (fun s => if s.mgmt.scope.isSome ∧ s.mgmt.notAfter.toNat < s.time then s.debugLock else s)

/-- LONG_OPERATION_DONE (R79, R81, R537): the final status is recorded under its TAG; for a full image, the check and the load of R80, with FLP_SEQ
left 0, as no slot was loaded (DESIGN CHOICE, log 61); for a delta, whose command's CID is the TAG, its end (R86). -/
def execLongOperationDone (tag : BitVec 16) (status : Nat) (s : State) : Outcome :=
  match s.mgmt.ops.find? (fun o => o.tag == tag && o.status == 1 && decide (o.holds < 200)) with
  | none =>
    match s.delta with
    | some d => gate s (fun s => if d.cid = tag then s.endDelta d (status == 0) else s)
    | none => .next s
  | some o =>
    if s.phase ≠ .running ∧ s.phase ≠ .recovery then .next s
    else
      let finish (s : State) (st : Nat) : State := s.modMgmt (fun m => { m with ops := m.ops.map (fun x => if x.tag = tag then { x with status := st } else x) })
      if o.holds ≠ 13 then .next (finish s status)
      else
        let img := s.mgmt.upload
        let s := s.modMgmt (fun m => { m with upload := [] })
        let fail (e : FlpErr) (st : Nat) : Outcome := .next (finish ((s.setFld 94 0x20000 3 0 3).loadFailed e (oldDieOf s.loadCtx img)) st)
        if status ≠ 0 then fail { code := 0x0E, sec := 0, off := 0 } status
        else match checkImage s.loadCtx img img.length with
          | .error e => fail e (if e.code = 4 then 6 else if e.code = 5 then 7 else 2)
          | .ok l => .next (finish (s.loaded l img 3 0) 0)

/-- MGT_CMD (R434, R535): the request is read, performed, and its response written. -/
def execMgtCmd (p : PartId) (q : Nat) (ext : List Byte) (s0 : State) : Outcome :=
  runCmd p q 0x33 s0 (fun s c =>
    let n := c.arg2.toNat
    if n < 16 then s.endCmd p q c 1
    else if !s.cmdAddrOk p.val c.arg0 n false then s.endCmd p q c 4
    else match s.cmdFetch p.val c.arg0 n ext with
      | .error e => s.endCmd p q c e
      | .waits _ => (s0.rangeFree (bits c.arg0.toNat 41 0) n false).1
      | .bytes s b =>
        let (code, r) := mgtParse .queue b
        match s.mgtRun code (mgtOp code) r with
        | none => s.endCmd p q c 3
        | some (t, st, pl) =>
          let out := leBytes 2 code ++ leBytes 2 r.tag.toNat ++ leBytes 4 pl.length ++ leBytes 2 st ++ leBytes 6 (r.offset / 2 ^ 16) ++ pl
          if !s.cmdAddrOk p.val c.arg1 out.length true then s.endCmd p q c 4
          else if (s.cmdError c.arg1 out.length).isSome then s.endCmd p q c ((s.cmdError c.arg1 out.length).getD 0)
          else (t.cmdWrite p.val (some q) c.arg1 out).endCmd p q c (if bitAt c.arg1.toNat 63 && !t.hostReachable p.val then 5 else 0))

/-! ## Attestation (R540 to R542): the message codes and fields are those of DMTF SPDM 1.2 (log 29) -/

/-- Where a transport's exchange stands, and its transcript. -/
def State.spdmAt (s : State) (t : Transport) : Nat × List Byte := s.mgmt.spdm.get (0, []) (match t with | .bus0 => 0 | .bus1 => 1 | .queue => 2)

/-- Sets a transport's exchange. -/
def State.setSpdm (s : State) (t : Transport) (v : Nat × List Byte) : State :=
  s.modMgmt (fun m => { m with spdm := m.spdm.set (0, []) (match t with | .bus0 => 0 | .bus1 => 1 | .queue => 2) v })

/-- Whether a transport's messages are answered: a bus from SL0, the queue from SL1. -/
def State.spdmOn (s : State) (t : Transport) : Bool := s.phase == .running && s.pins.ready && (t != .queue || decide (1 ≤ s.level))

/-- An SPDM ERROR response. -/
def spdmError (code : Nat) : List Byte := [0x12, 0x7F, BitVec.ofNat 8 code, 0]

/-- Answers a message in an exchange that has come far enough, and adds request and response to the transcript; else UnexpectedRequest. -/
def State.spdm (s : State) (t : Transport) (least next : Nat) (req : List Byte) (answer : State → List Byte → State × Option (List Byte)) : State :=
  if !s.spdmOn t then s
  else
    let k := s.spdmAt t
    if k.1 < least then s.send (.spdm t (spdmError 4))
    else
      let log := (if next = 1 then [] else k.2) ++ req
      match answer s log with
      | (s, some b) => (s.setSpdm t (max next (if next = 1 then 1 else k.1), log ++ b)).send (.spdm t b)
      | (s, none) => s.send (.spdm t (spdmError 1))

/-- The two signatures over the transcript (R541). -/
def dualSignature (log : List Byte) : List Byte :=
  let h := digestBytes (Config.sha384 log)
  Config.sign false h ++ Config.sign true h

/-- The certificate chain of a slot: 0 the RSA chain, 1 the SLH-DSA chain, as the identity area holds them (R540, R541). -/
def State.chain (s : State) (slot : Nat) : List Byte := Config.certificate slot (s.mgmt.flashRun 12 0 0x10000)

/-- A responder's nonce of 32 free bytes. -/
def State.spdmNonce (s : State) : State × List Byte :=
  ({ s with fresh := s.fresh + 32 }, (List.range 32).map (fun i => Config.freeByte (s.fresh + i)))

/-- GET_VERSION: version 1.2. -/
def State.getVersion (s : State) (t : Transport) : State :=
  s.spdm t 0 1 [0x10, 0x84, 0, 0] (fun s _ => (s, some [0x10, 0x04, 0, 0, 0, 1, 0x00, 0x12]))

/-- GET_CAPABILITIES: certificates, challenge and signed measurements; sizes and the exponent are free. -/
def State.getCapabilities (s : State) (t : Transport) : State :=
  s.spdm t 1 2 [0x12, 0xE1, 0, 0] (fun s _ =>
    let f (i : Nat) : Byte := Config.freeByte (s.fresh + i)
    ({ s with fresh := s.fresh + 9 }, some ([0x12, 0x61, 0, 0, 0, f 0, 0, 0, 0x16, 0, 0, 0] ++ (List.range 8).map (fun i => f (i + 1)))))

/-- NEGOTIATE_ALGORITHMS: a request that does not select both schemes is answered UnsupportedRequest (R541). -/
def State.negotiate (s : State) (t : Transport) (rsa slh : Bool) : State :=
  if s.spdmOn t ∧ !(rsa && slh) ∧ 2 ≤ (s.spdmAt t).1 then s.send (.spdm t (spdmError 7))
  else s.spdm t 2 3 [0x12, 0xE3, 0, 0] (fun s _ => (s, some [0x12, 0x63, 0, 0, 4, 0, 0, 0, 2, 0, 0, 0, 1]))

/-- GET_CERTIFICATE: a part of the chain of slot 0 or 1. -/
def State.getCertificate (s : State) (t : Transport) (slot offset length : Nat) : State :=
  s.spdm t 3 0 ([0x12, 0x82, BitVec.ofNat 8 slot, 0] ++ leBytes 2 offset ++ leBytes 2 length) (fun s _ =>
    let c := s.chain slot
    if 2 ≤ slot ∨ c.length ≤ offset then (s, none)
    else
      let b := (c.drop offset).take length
      (s, some ([0x12, 0x02, BitVec.ofNat 8 slot, 0] ++ leBytes 2 b.length ++ leBytes 2 (c.length - offset - b.length) ++ b)))

/-- CHALLENGE: the chain's digest, a nonce and the measurements' digest, signed under both schemes. -/
def State.challenge (s : State) (t : Transport) (slot : Nat) (nonce : List Byte) : State :=
  s.spdm t 3 0 ([0x12, 0x83, BitVec.ofNat 8 slot, 0xFF] ++ nonce) (fun s log =>
    if 2 ≤ slot then (s, none)
    else
      let all := Config.sha384 ((List.range 8).flatMap (fun i => digestBytes (s.measurement (i + 1))))
      let (s, n) := s.spdmNonce
      let b := [0x12, 0x03, BitVec.ofNat 8 slot, 1] ++ digestBytes (Config.sha384 (s.chain slot)) ++ n ++ digestBytes all ++ [0, 0]
      (s, some (b ++ dualSignature (log ++ b))))

/-- GET_MEASUREMENTS: every block as of one device time, signed under both schemes (R542). -/
def State.getMeasurements (s : State) (t : Transport) (nonce : List Byte) : State :=
  s.spdm t 3 0 ([0x12, 0xE0, 1, 0xFF] ++ nonce) (fun s log =>
    let blocks := (List.range 8).flatMap (fun i => leBytes 1 (i + 1) ++ [1] ++ leBytes 2 48 ++ digestBytes (s.measurement (i + 1)))
    let (s, n) := s.spdmNonce
    let b := [0x12, 0x60, 0, 0, 8] ++ leBytes 3 blocks.length ++ blocks ++ n ++ [0, 0]
    (s, some (b ++ dualSignature (log ++ b))))

/-- GET_VERSION (R541). -/
def execGetVersion (t : Transport) (s : State) : Outcome := .next (s.getVersion t)
/-- GET_CAPABILITIES (R541). -/
def execGetCapabilities (t : Transport) (s : State) : Outcome := .next (s.getCapabilities t)
/-- NEGOTIATE_ALGORITHMS (R541). -/
def execNegotiateAlgorithms (t : Transport) (rsa slh : Bool) (s : State) : Outcome := .next (s.negotiate t rsa slh)
/-- GET_CERTIFICATE (R541). -/
def execGetCertificate (t : Transport) (slot offset length : Nat) (s : State) : Outcome := .next (s.getCertificate t slot offset length)
/-- CHALLENGE (R541). -/
def execChallenge (t : Transport) (slot : Nat) (nonce : List Byte) (s : State) : Outcome := .next (s.challenge t slot nonce)
/-- GET_MEASUREMENTS (R542). -/
def execGetMeasurements (t : Transport) (nonce : List Byte) (s : State) : Outcome := .next (s.getMeasurements t nonce)

/-! ## Sensors and MCTP -/

/-- The value of a PLDM sensor: the telemetry record's fields in order, each temperature a sensor of its own (R539; log 28). -/
def sensorValue (r : List Byte) (n : Nat) : Option Nat :=
  if n < 4 then some (leAt r (0x10 + 4 * n) 4)
  else if n < 152 then some (leAt r (0x20 + (n - 4)) 1)
  else if n = 152 then some (leAt r 0xB4 4) else none

/-- Answers a sensor request. -/
def State.readSensor (s : State) (bus : Bool) (n : Nat) : State :=
  if s.phase = .running ∧ s.pins.ready then
    (match sensorValue s.mgmt.telemetry n with | some v => s.send (.pldm bus v) | none => s)
  else s

/-- PLDM_SENSOR_READ (R534, R539). -/
def execPldmSensorRead (bus : Bool) (sensor : Nat) (s : State) : Outcome := .next (s.readSensor bus sensor)

/-- An SPDM message by its code (log 29). -/
def State.spdmMessage (s : State) (t : Transport) (b : List Byte) : State :=
  match leAt b 1 1 with
  | 0x84 => s.getVersion t
  | 0xE1 => s.getCapabilities t
  | 0xE3 => s.negotiate t (bitAt (leAt b 8 4) 2) (leAt b 28 1 != 0)
  | 0x82 => s.getCertificate t (leAt b 2 1 % 16) (leAt b 4 2) (leAt b 6 2)
  | 0x83 => s.challenge t (leAt b 2 1) ((b.drop 4).take 32)
  | 0xE0 => s.getMeasurements t ((b.drop 4).take 32)
  | _ => if s.spdmOn t then s.send (.spdm t (spdmError 7)) else s

/-- MCTP_MESSAGE (R534): a Strelnen message, SPDM or a PLDM sensor request by its type; MCTP control changes no state the spec names, and
other types are not accepted. -/
def execMctpMessage (bus : Bool) (type : Byte) (payload : List Byte) (s : State) : Outcome :=
  let t : Transport := if bus then .bus1 else .bus0
  .next (match type.toNat with
    | 0x7F => let (code, r) := mgtParse t payload; mgtAnswer code (mgtOp code) r s
    | 5 => s.spdmMessage t payload
    | 1 => if leAt payload 1 1 % 64 = 2 ∧ leAt payload 2 1 = 0x11 then s.readSensor bus (leAt payload 3 2) else s
    | _ => s)

end Sys2Proof.Machine
end

