-- ==== Sys2Proof/Machine/Walk.lean ====
section
/-! DEFINITION. Page walks for the agents that wait for one (R384 to R387), and the answer to a fault record (R388). -/

namespace Sys2Proof.Machine

/-! ## Agents that wait -/

/-- Whether a control core's wait is for a walk of an address; a fetch is an execute access (R112). -/
def Core.walkWanted (k : Core) (fetch : Bool) (va : DWord) (a : XlAccess) : Bool :=
  k.waiting == some (.walk va a) && fetch == (a == .execute)
/-- Whether a path waits for a walk of an address. -/
def Path.walkWanted (p : Path) (fetch : Bool) (va : DWord) (a : XlAccess) : Bool := p.state == .walk va a && fetch == (a == .execute)

/-- Whether an agent of a core waits for a walk (R383); a held stream slot without a record waits for a free one (R387). -/
def Core.wantsWalk (k : Core) (ag : XlAgent) (va : DWord) (a : XlAccess) : Bool :=
  match ag with
  | .coreFetch => k.walkWanted true va a
  | .coreData => k.walkWanted false va a
  | .groupFetch g => (k.group g.val).ring.any (fun p => p.walkWanted true va a)
  | .groupData g => (k.group g.val).ring.any (fun p => p.walkWanted false va a)
  | .stream n => let t := k.slotAt n.val; (t.phase != 2 || (k.matchRec va a).isNone) && t.waiting == some (va, a)

/-- The paths of a group changed where a condition holds. -/
def State.modPaths (s : State) (c g : Nat) (which : Path → Bool) (f : Path → Path) : State :=
  let x := (s.core c).group g
  s.setGroup c g { x with ring := x.ring.map (fun p => if which p then f p else p) }

/-- The agent that waited for a walk goes on. -/
def State.walkDone (s : State) (c : Nat) (ag : XlAgent) (va : DWord) (a : XlAccess) : State :=
  match ag with
  | .coreFetch => s.modCore c (fun k => { k with waiting := none })
  | .coreData => s.modCore c (fun k => { k with waiting := none })
  | .groupFetch g => s.modPaths c g.val (fun p => p.walkWanted true va a) (fun p => { p with state := .ready })
  | .groupData g => s.modPaths c g.val (fun p => p.walkWanted false va a) (fun p => { p with state := .ready })
  | .stream n => s.modSlot c n.val (fun t => { t with waiting := none, phase := if t.phase = 2 then 1 else t.phase })

/-- The agent waits on a fault record; the core monitor handles the fault (R112, R234, R302). -/
def State.walkHeld (s : State) (c : Nat) (ag : XlAgent) (va : DWord) (a : XlAccess) (seq : Word) : State :=
  let s := s.modCore c (fun k => { k with monitor := true })
  match ag with
  | .coreFetch => s.modCore c (fun k => { k with waiting := some (.record seq) })
  | .coreData => s.modCore c (fun k => { k with waiting := some (.record seq) })
  | .groupFetch g => s.modPaths c g.val (fun p => p.walkWanted true va a) (fun p => { p with state := .record seq })
  | .groupData g => s.modPaths c g.val (fun p => p.walkWanted false va a) (fun p => { p with state := .record seq })
  | .stream n => s.strHold c n.val va a

/-- The agent's access ends (R386). -/
def State.walkFails (s : State) (c : Nat) (ag : XlAgent) (va : DWord) (a : XlAccess) (kind : Nat) : State :=
  let path (g : GroupId) (fetch : Bool) : State :=
    match ((s.core c).group g.val).ring.find? (fun p => p.walkWanted fetch va a) with
    | some p => s.gFail c g.val 0x106 (48 + kind) p.mask p.pc
    | none => s
  match ag with
  | .coreFetch => s.kernelTrap c (48 + kind) va
  | .coreData => s.kernelTrap c (48 + kind) va
  | .groupFetch g => path g true
  | .groupData g => path g false
  | .stream n => s.strEnd c n.val 0x116

/-- PAGE_WALK (R376 to R387): the walk an agent waits for; `raced` says that a compare-and-swap of A and D failed and the walk starts over. A
resolvable fault posts a record, or waits for a free one; a walk that must wait for a line is tried again. -/
def execPageWalk (c : CoreId) (ag : XlAgent) (va : DWord) (a : XlAccess) (raced : Bool) (s : State) : Outcome :=
  gate s (fun s =>
    if (s.core c.val).wantsWalk ag va a ∧ !(s.core c.val).fenced then
      match s.walk c.val ag va a raced with
      | (s, none) => s.walkDone c.val ag va a
      | (s, some (0, _)) => s
      | (s, some (kind, level)) =>
        match ag with
        | .stream n => s.strFault c.val n kind level va a
        | _ =>
          if resolvable kind then
            match s.postRecord c.val ag va a kind level with
            | (s, some seq) => s.walkHeld c.val ag va a seq
            | (s, none) => s
          else s.walkFails c.val ag va a kind
    else s)

/-! ## XL_RESOLVE (R388) -/

/-- Whether a held stream slot waits on a record. -/
def StreamSlot.onRecord (t : StreamSlot) (r : FaultRec) : Bool :=
  t.phase == 2 && (match t.waiting with | some (va, a) => va.toNat / 4096 == r.va.toNat / 4096 && accCls a == accCls r.access | none => false)

/-- Removes an answered record; the monitor has nothing left to handle when none stands. -/
def State.dropRecord (s : State) (c : Nat) (seq : Word) : State :=
  s.modCore c (fun k => let l := k.records.filter (fun r => r.seq != seq); { (if k.waiting = some (.record seq) then k.monitorReturns else k) with records := l, monitor := !l.isEmpty })

/-- RETRY: entries for the page are discarded and every waiting access translates again by a new walk. -/
def State.retryRecord (s : State) (c : Nat) (r : FaultRec) : State :=
  let page := r.va.toNat / 4096 * 4096
  let s := (s.xlDiscard [c] (s.core c).part r.slot page (page + 4096)).dropRecord c r.seq
  let s := s.modCore c (fun k => if k.waiting = some (.record r.seq) then { k with waiting := none } else k)
  let s := overList s ((s.core c).groups.cells.map (·.1)) (fun s g =>
    s.modPaths c g (fun p => p.state == .record r.seq) (fun p => { p with state := .ready }))
  overList s (List.finRange 16) (fun s n =>
    if ((s.core c).slotAt n.val).onRecord r then s.modSlot c n.val (fun t => { t with phase := 1 }) else s)

/-- FAIL: every waiting access ends as an unresolvable fault does. -/
def State.failRecord (s : State) (c : Nat) (r : FaultRec) : State :=
  let s := s.dropRecord c r.seq
  if (s.core c).waiting = some (.record r.seq) then s.kernelTrap c (48 + r.kind) r.va
  else
    let hit (p : Path) : Bool := p.state == .record r.seq
    match (s.core c).groups.cells.findSome? (fun g => (g.2.ring.find? hit).map (fun p => (g.1, p))) with
    | some (g, p) => s.gFail c g 0x106 (48 + r.kind) p.mask p.pc
    | none =>
      overList s (List.finRange 16) (fun s n => if ((s.core c).slotAt n.val).onRecord r then s.strEnd c n.val 0x116 else s)

/-- The core of a partition that holds a record, with the record. -/
def State.findRecord (s : State) (p : Nat) (seq : Word) : Option (Nat × FaultRec) :=
  s.cores.cells.findSome? (fun x => if x.2.part = p then (x.2.records.find? (fun r => r.seq == seq)).map (fun r => (x.1, r)) else none)

/-- XL_RESOLVE (R388, R389): RETRY or FAIL for an outstanding record; an unknown or answered SEQ is stale. -/
def execXlResolve (p : PartId) (q : Nat) (s : State) : Outcome :=
  runCmd p q 0x12 s (fun s c =>
    if 2 ≤ c.target then s.endCmd p q c 1
    else match s.findRecord p.val c.arg2 with
      | none => s.endCmd p q c 9
      | some (core, r) => (if c.target = 0 then s.retryRecord core r else s.failRecord core r).endCmd p q c 0)

end Sys2Proof.Machine
end

