-- ==== Sys2Proof/Machine/Dispatch.lean ====
section
/-! DEFINITION. Which meaning each command has: one arm for each constructor. -/

namespace Sys2Proof.Machine

/-- A command's effect on everything but the queue. -/
def exec (i : Instr) (s : State) : Host.Outcome State Fault Refusal :=
  match i with
  | .csrWrite agent addr size value => Sys2Proof.Machine.execCsrWrite agent addr size value s
  | .csrAccessError agent addr size => Sys2Proof.Machine.execCsrAccessError agent addr size s
  | .hallwayPacketReceive port pkt crcOk => Sys2Proof.Machine.execHallwayPacketReceive port pkt crcOk s
  | .hallwayReplayRequest port => Sys2Proof.Machine.execHallwayReplayRequest port s
  | .hallwayPortTrain port passed => Sys2Proof.Machine.execHallwayPortTrain port passed s
  | .checkWindow port errors => Sys2Proof.Machine.execCheckWindow port errors s
  | .forwardedClockLoss port => Sys2Proof.Machine.execForwardedClockLoss port s
  | .widthToken port token => Sys2Proof.Machine.execWidthToken port token s
  | .negotiationRoundTimeout port => Sys2Proof.Machine.execNegotiationRoundTimeout port s
  | .negotiationBackoffExpiry port => Sys2Proof.Machine.execNegotiationBackoffExpiry port s
  | .pwrOkRise => Sys2Proof.Machine.execPwrOkRise s
  | .pwrOkFall low5us => Sys2Proof.Machine.execPwrOkFall low5us s
  | .powerDownCommitDone => Sys2Proof.Machine.execPowerDownCommitDone s
  | .resetNFall low1us => Sys2Proof.Machine.execResetNFall low1us s
  | .resetNRise => Sys2Proof.Machine.execResetNRise s
  | .jxlResetNFall low1us => Sys2Proof.Machine.execJxlResetNFall low1us s
  | .jxlResetNRise => Sys2Proof.Machine.execJxlResetNRise s
  | .refclkLoss lost10us => Sys2Proof.Machine.execRefclkLoss lost10us s
  | .bootStageVerify stage peerAgreesA peerAgreesB stewardMisses => Sys2Proof.Machine.execBootStageVerify stage peerAgreesA peerAgreesB stewardMisses s
  | .floorplanLoad peerAgreesA peerAgreesB => Sys2Proof.Machine.execFloorplanLoad peerAgreesA peerAgreesB s
  | .mgmtDieAnswerTimeout die95 => Sys2Proof.Machine.execMgmtDieAnswerTimeout die95 s
  | .serviceLevelEntry level => Sys2Proof.Machine.execServiceLevelEntry level s
  | .dieOnline stack => Sys2Proof.Machine.execDieOnline stack s
  | .coreSelfTestDone core passed => Sys2Proof.Machine.execCoreSelfTestDone core passed s
  | .bringUpDeadline => Sys2Proof.Machine.execBringUpDeadline s
  | .rateChange unit ok => Sys2Proof.Machine.execRateChange unit ok s
  | .resetPreconditionTimeout die => Sys2Proof.Machine.execResetPreconditionTimeout die s
  | .partitionResetDone part => Sys2Proof.Machine.execPartitionResetDone part s
  | .dieResetDone die => Sys2Proof.Machine.execDieResetDone die s
  | .quiesceDone part => Sys2Proof.Machine.execQuiesceDone part s
  | .quiesceTimeout part => Sys2Proof.Machine.execQuiesceTimeout part s
  | .controlCoreInstruction core word ecc ext => Sys2Proof.Machine.execControlCoreInstruction core word ecc ext s
  | .tWait core tk rs1 => Sys2Proof.Machine.execTWait core tk rs1 s
  | .tWaitall core tk => Sys2Proof.Machine.execTWaitall core tk s
  | .tokenWaitRelease core => Sys2Proof.Machine.execTokenWaitRelease core s
  | .tTkdone core rd tk => Sys2Proof.Machine.execTTkdone core rd tk s
  | .tTkclr core tk => Sys2Proof.Machine.execTTkclr core tk s
  | .tGrant core gr rs1 => Sys2Proof.Machine.execTGrant core gr rs1 s
  | .tGrget core rd gr => Sys2Proof.Machine.execTGrget core rd gr s
  | .tInval core => Sys2Proof.Machine.execTInval core s
  | .tEnd core => Sys2Proof.Machine.execTEnd core s
  | .tEndComplete core => Sys2Proof.Machine.execTEndComplete core s
  | .cvtH2d core rd rs1 window => Sys2Proof.Machine.execCvtH2d core rd rs1 window s
  | .cvtD2h core rd rs1 window => Sys2Proof.Machine.execCvtD2h core rd rs1 window s
  | .tileIssue core word => Sys2Proof.Machine.execTileIssue core word s
  | .executeQueuePass core => Sys2Proof.Machine.execExecuteQueuePass core s
  | .grantStallTimeout core unit => Sys2Proof.Machine.execGrantStallTimeout core unit s
  | .tMma core ecc upset second => Sys2Proof.Machine.execTMma core ecc upset second s
  | .tSload core ecc => Sys2Proof.Machine.execTSload core ecc s
  | .tSwap core => Sys2Proof.Machine.execTSwap core s
  | .tEwise core upset => Sys2Proof.Machine.execTEwise core upset s
  | .tStest core match1 match2 => Sys2Proof.Machine.execTStest core match1 match2 s
  | .arrayCompletion core => Sys2Proof.Machine.execArrayCompletion core s
  | .arraySelfTestDue core match1 match2 => Sys2Proof.Machine.execArraySelfTestDue core match1 match2 s
  | .tVchain core ecc => Sys2Proof.Machine.execTVchain core ecc s
  | .tRed core ecc => Sys2Proof.Machine.execTRed core ecc s
  | .tLd core ecc => Sys2Proof.Machine.execTLd core ecc s
  | .tSt core => Sys2Proof.Machine.execTSt core s
  | .cvtT core ecc => Sys2Proof.Machine.execCvtT core ecc s
  | .tCupd core ecc => Sys2Proof.Machine.execTCupd core ecc s
  | .vectorCompletion core => Sys2Proof.Machine.execVectorCompletion core s
  | .nanTrap core => Sys2Proof.Machine.execNanTrap core s
  | .watchRecompute core => Sys2Proof.Machine.execWatchRecompute core s
  | .watchRecomputeDone core => Sys2Proof.Machine.execWatchRecomputeDone core s
  | .watchReplay core => Sys2Proof.Machine.execWatchReplay core s
  | .watchReplayDone core replayed => Sys2Proof.Machine.execWatchReplayDone core replayed s
  | .watchDisClear core => Sys2Proof.Machine.execWatchDisClear core s
  | .kernelLaunch part queue ext => Sys2Proof.Machine.execKernelLaunch part queue ext s
  | .kernelStart launch => Sys2Proof.Machine.execKernelStart launch s
  | .kernelTimeout launch => Sys2Proof.Machine.execKernelTimeout launch s
  | .groupIntOp core group word => Sys2Proof.Machine.execGroupIntOp core group word s
  | .groupFpOp core group word => Sys2Proof.Machine.execGroupFpOp core group word s
  | .setp core group word => Sys2Proof.Machine.execSetp core group word s
  | .pop core group word => Sys2Proof.Machine.execPop core group word s
  | .cvt core group word => Sys2Proof.Machine.execCvt core group word s
  | .ld core group word ecc ext => Sys2Proof.Machine.execLd core group word ecc ext s
  | .st core group word => Sys2Proof.Machine.execSt core group word s
  | .amo core group word ecc ext => Sys2Proof.Machine.execAmo core group word ecc ext s
  | .gFence core group word => Sys2Proof.Machine.execGFence core group word s
  | .gBra core group word => Sys2Proof.Machine.execGBra core group word s
  | .gYield core group word => Sys2Proof.Machine.execGYield core group word s
  | .gCset core group word => Sys2Proof.Machine.execGCset core group word s
  | .gCwait core group word => Sys2Proof.Machine.execGCwait core group word s
  | .gExit core group word => Sys2Proof.Machine.execGExit core group word s
  | .gBar core group word => Sys2Proof.Machine.execGBar core group word s
  | .gBarRelease core => Sys2Proof.Machine.execGBarRelease core s
  | .gTkwait core group word => Sys2Proof.Machine.execGTkwait core group word s
  | .gTkwaitRelease core group => Sys2Proof.Machine.execGTkwaitRelease core group s
  | .gTkpost core group word => Sys2Proof.Machine.execGTkpost core group word s
  | .gVote core group word => Sys2Proof.Machine.execGVote core group word s
  | .gShfl core group word => Sys2Proof.Machine.execGShfl core group word s
  | .gCompact core group word => Sys2Proof.Machine.execGCompact core group word s
  | .gExpand core group word => Sys2Proof.Machine.execGExpand core group word s
  | .gMma core group word => Sys2Proof.Machine.execGMma core group word s
  | .gTld core group word => Sys2Proof.Machine.execGTld core group word s
  | .gTst core group word => Sys2Proof.Machine.execGTst core group word s
  | .groupStarvationPromotion core group => Sys2Proof.Machine.execGroupStarvationPromotion core group s
  | .pantryScrubInterval core busy ecc => Sys2Proof.Machine.execPantryScrubInterval core busy ecc s
  | .panEccFirstClear core => Sys2Proof.Machine.execPanEccFirstClear core s
  | .sCopy core ecc ext => Sys2Proof.Machine.execSCopy core ecc ext s
  | .sRoute core ecc ext => Sys2Proof.Machine.execSRoute core ecc ext s
  | .sCombine core ecc ext => Sys2Proof.Machine.execSCombine core ecc ext s
  | .chunkComplete core slot => Sys2Proof.Machine.execChunkComplete core slot s
  | .pageWalk core agent va access raced => Sys2Proof.Machine.execPageWalk core agent va access raced s
  | .channelTrain chan training clockFailed orgWrong => Sys2Proof.Machine.execChannelTrain chan training clockFailed orgWrong s
  | .channelRead chan line agent ecc retries => Sys2Proof.Machine.execChannelRead chan line agent ecc retries s
  | .channelWrite chan line agent mask data poison link => Sys2Proof.Machine.execChannelWrite chan line agent mask data poison link s
  | .refreshDue chan => Sys2Proof.Machine.execRefreshDue chan s
  | .atticTempPoll stack readings => Sys2Proof.Machine.execAtticTempPoll stack readings s
  | .annexTempPoll stack readings => Sys2Proof.Machine.execAnnexTempPoll stack readings s
  | .channelScrubTick chan link => Sys2Proof.Machine.execChannelScrubTick chan link s
  | .driftTrackingWindow chan => Sys2Proof.Machine.execDriftTrackingWindow chan s
  | .channelRetrainDone chan training clockFailed => Sys2Proof.Machine.execChannelRetrainDone chan training clockFailed s
  | .holdRetryResend chan resend => Sys2Proof.Machine.execHoldRetryResend chan resend s
  | .rds m => Sys2Proof.Machine.execRds m s
  | .rdx m => Sys2Proof.Machine.execRdx m s
  | .upg m => Sys2Proof.Machine.execUpg m s
  | .rdna m => Sys2Proof.Machine.execRdna m s
  | .wrf m => Sys2Proof.Machine.execWrf m s
  | .wrp m => Sys2Proof.Machine.execWrp m s
  | .atom m op width off operand compare => Sys2Proof.Machine.execAtom m op width off operand compare s
  | .evc m => Sys2Proof.Machine.execEvc m s
  | .wb m => Sys2Proof.Machine.execWb m s
  | .clean m => Sys2Proof.Machine.execClean m s
  | .snpFwdS m target => Sys2Proof.Machine.execSnpFwdS m target s
  | .snpFwdX m target => Sys2Proof.Machine.execSnpFwdX m target s
  | .snpFwdNa m target => Sys2Proof.Machine.execSnpFwdNa m target s
  | .snpInv m target => Sys2Proof.Machine.execSnpInv m target s
  | .snpRecall m target => Sys2Proof.Machine.execSnpRecall m target s
  | .data m => Sys2Proof.Machine.execData m s
  | .recallData m => Sys2Proof.Machine.execRecallData m s
  | .cmp m => Sys2Proof.Machine.execCmp m s
  | .cmpAck m => Sys2Proof.Machine.execCmpAck m s
  | .fwdAck m => Sys2Proof.Machine.execFwdAck m s
  | .invAck m => Sys2Proof.Machine.execInvAck m s
  | .wbAck m => Sys2Proof.Machine.execWbAck m s
  | .retry m => Sys2Proof.Machine.execRetry m s
  | .retryResend m => Sys2Proof.Machine.execRetryResend m s
  | .waiterReservationExpiry line => Sys2Proof.Machine.execWaiterReservationExpiry line s
  | .baseDieCacheRead stack m noAlloc => Sys2Proof.Machine.execBaseDieCacheRead stack m noAlloc s
  | .dirtyAgeTick cluster => Sys2Proof.Machine.execDirtyAgeTick cluster s
  | .msauIdleRelease line => Sys2Proof.Machine.execMsauIdleRelease line s
  | .snoopTimeout line agent => Sys2Proof.Machine.execSnoopTimeout line agent s
  | .hartInstruction hart word ext => Sys2Proof.Machine.execHartInstruction hart word ext s
  | .lr hart word => Sys2Proof.Machine.execLr hart word s
  | .sc hart word => Sys2Proof.Machine.execSc hart word s
  | .lrSnoopDelayExpiry hart => Sys2Proof.Machine.execLrSnoopDelayExpiry hart s
  | .cboClean hart rs1 => Sys2Proof.Machine.execCboClean hart rs1 s
  | .cboFlush hart rs1 => Sys2Proof.Machine.execCboFlush hart rs1 s
  | .cboInval hart rs1 => Sys2Proof.Machine.execCboInval hart rs1 s
  | .cboZero hart rs1 => Sys2Proof.Machine.execCboZero hart rs1 s
  | .wfi hart => Sys2Proof.Machine.execWfi hart s
  | .c2EntryTimer hart => Sys2Proof.Machine.execC2EntryTimer hart s
  | .c3EntryTimer cluster => Sys2Proof.Machine.execC3EntryTimer cluster s
  | .hartWake hart => Sys2Proof.Machine.execHartWake hart s
  | .interruptFileWrite hart file identity => Sys2Proof.Machine.execInterruptFileWrite hart file identity s
  | .linkTrain port failedLanes => Sys2Proof.Machine.execLinkTrain port failedLanes s
  | .flitReceive port flit crc fecCorrected fecUncorrected => Sys2Proof.Machine.execFlitReceive port flit crc fecCorrected fecUncorrected s
  | .flitAckDue link => Sys2Proof.Machine.execFlitAckDue link s
  | .replayRequestFlit link ack => Sys2Proof.Machine.execReplayRequestFlit link ack s
  | .retrainRequestFlit link => Sys2Proof.Machine.execRetrainRequestFlit link s
  | .linkRetrainDone port ok => Sys2Proof.Machine.execLinkRetrainDone port ok s
  | .retrainLostTimeout port => Sys2Proof.Machine.execRetrainLostTimeout port s
  | .companionSnoopTimeout port => Sys2Proof.Machine.execCompanionSnoopTimeout port s
  | .ncRd port m => Sys2Proof.Machine.execNcRd port m s
  | .ncWr port m => Sys2Proof.Machine.execNcWr port m s
  | .ncCmp port m => Sys2Proof.Machine.execNcCmp port m s
  | .biasFlip port m => Sys2Proof.Machine.execBiasFlip port m s
  | .biasFlipDone flip => Sys2Proof.Machine.execBiasFlipDone flip s
  | .biasDone port m => Sys2Proof.Machine.execBiasDone port m s
  | .msi part vector => Sys2Proof.Machine.execMsi part vector s
  | .timeExchange port => Sys2Proof.Machine.execTimeExchange port s
  | .tsRsp port t1 t2 t3 => Sys2Proof.Machine.execTsRsp port t1 t2 t3 s
  | .fnEnable part enable => Sys2Proof.Machine.execFnEnable part enable s
  | .fnReset part => Sys2Proof.Machine.execFnReset part s
  | .sqDoorbell part queue tail ext => Sys2Proof.Machine.execSqDoorbell part queue tail ext s
  | .cqDoorbell part queue head => Sys2Proof.Machine.execCqDoorbell part queue head s
  | .stampRepoll part queue ext => Sys2Proof.Machine.execStampRepoll part queue ext s
  | .jxlMsiWrite part vector addr value mask => Sys2Proof.Machine.execJxlMsiWrite part vector addr value mask s
  | .cqInterruptTimer part queue => Sys2Proof.Machine.execCqInterruptTimer part queue s
  | .commandCompletion part queue cid => Sys2Proof.Machine.execCommandCompletion part queue cid s
  | .queueCreate part queue => Sys2Proof.Machine.execQueueCreate part queue s
  | .queueDelete part queue => Sys2Proof.Machine.execQueueDelete part queue s
  | .queueReset part queue => Sys2Proof.Machine.execQueueReset part queue s
  | .cqCreate part queue => Sys2Proof.Machine.execCqCreate part queue s
  | .cqDelete part queue => Sys2Proof.Machine.execCqDelete part queue s
  | .asBind part queue => Sys2Proof.Machine.execAsBind part queue s
  | .xlInval part queue => Sys2Proof.Machine.execXlInval part queue s
  | .xlResolve part queue => Sys2Proof.Machine.execXlResolve part queue s
  | .biasSet part queue => Sys2Proof.Machine.execBiasSet part queue s
  | .hartStart part queue => Sys2Proof.Machine.execHartStart part queue s
  | .quiesce part queue => Sys2Proof.Machine.execQuiesce part queue s
  | .resume part queue => Sys2Proof.Machine.execResume part queue s
  | .resetPartition part queue => Sys2Proof.Machine.execResetPartition part queue s
  | .resetCore part queue => Sys2Proof.Machine.execResetCore part queue s
  | .statusRead part queue => Sys2Proof.Machine.execStatusRead part queue s
  | .resetWarm part queue => Sys2Proof.Machine.execResetWarm part queue s
  | .resetDie part queue => Sys2Proof.Machine.execResetDie part queue s
  | .flpDelta part queue input => Sys2Proof.Machine.execFlpDelta part queue input s
  | .mgtCmd part queue ext => Sys2Proof.Machine.execMgtCmd part queue ext s
  | .writeInline part queue => Sys2Proof.Machine.execWriteInline part queue s
  | .nop part queue => Sys2Proof.Machine.execNop part queue s
  | .fabricPortTrain port failedLanes => Sys2Proof.Machine.execFabricPortTrain port failedLanes s
  | .versionToken port maxVer minVer node => Sys2Proof.Machine.execVersionToken port maxVer minVer node s
  | .fabricFlitReceive port flit crc fecUncorrected => Sys2Proof.Machine.execFabricFlitReceive port flit crc fecUncorrected s
  | .fabricRetrainDone port ok => Sys2Proof.Machine.execFabricRetrainDone port ok s
  | .nodeDown port node => Sys2Proof.Machine.execNodeDown port node s
  | .nodeUp port node version => Sys2Proof.Machine.execNodeUp port node version s
  | .routeEpoch port node epoch => Sys2Proof.Machine.execRouteEpoch port node epoch s
  | .fabricFaultNotice port node body => Sys2Proof.Machine.execFabricFaultNotice port node body s
  | .rrd port m => Sys2Proof.Machine.execRrd port m s
  | .rwr port m => Sys2Proof.Machine.execRwr port m s
  | .ratom port m => Sys2Proof.Machine.execRatom port m s
  | .rrsp port m => Sys2Proof.Machine.execRrsp port m s
  | .rack port m => Sys2Proof.Machine.execRack port m s
  | .rnack port m => Sys2Proof.Machine.execRnack port m s
  | .remoteAccessTimeout tag => Sys2Proof.Machine.execRemoteAccessTimeout tag s
  | .routeCommit => Sys2Proof.Machine.execRouteCommit s
  | .colQueueArm queue arm => Sys2Proof.Machine.execColQueueArm queue arm s
  | .colQueueAbort queue => Sys2Proof.Machine.execColQueueAbort queue s
  | .colQueueDoorbell queue => Sys2Proof.Machine.execColQueueDoorbell queue s
  | .colQueuePoll queue => Sys2Proof.Machine.execColQueuePoll queue s
  | .cready queue rank fields version => Sys2Proof.Machine.execCready queue rank fields version s
  | .cdata queue rank chunk data poison => Sys2Proof.Machine.execCdata queue rank chunk data poison s
  | .cack queue rank chunk => Sys2Proof.Machine.execCack queue rank chunk s
  | .drow port m => Sys2Proof.Machine.execDrow port m s
  | .dclaim port m => Sys2Proof.Machine.execDclaim port m s
  | .collectiveProgressWrite queue => Sys2Proof.Machine.execCollectiveProgressWrite queue s
  | .collectiveEnd queue => Sys2Proof.Machine.execCollectiveEnd queue s
  | .collectiveTimeout queue => Sys2Proof.Machine.execCollectiveTimeout queue s
  | .collectiveAbort queue state error errNode => Sys2Proof.Machine.execCollectiveAbort queue state error errNode s
  | .thermalHold queue node => Sys2Proof.Machine.execThermalHold queue node s
  | .thermalRelease queue node => Sys2Proof.Machine.execThermalRelease queue node s
  | .faultDetect faults => Sys2Proof.Machine.execFaultDetect faults s
  | .faultNotice leaf => Sys2Proof.Machine.execFaultNotice leaf s
  | .mergedNoticeSend leaf => Sys2Proof.Machine.execMergedNoticeSend leaf s
  | .rootDigestCompare storageIntact => Sys2Proof.Machine.execRootDigestCompare storageIntact s
  | .rootFailover => Sys2Proof.Machine.execRootFailover s
  | .noticeDeliveryTimeout leaf => Sys2Proof.Machine.execNoticeDeliveryTimeout leaf s
  | .dieHeartbeatLoss die => Sys2Proof.Machine.execDieHeartbeatLoss die s
  | .safeStateCommand die => Sys2Proof.Machine.execSafeStateCommand die s
  | .fcLogFree root95 n => Sys2Proof.Machine.execFcLogFree root95 n s
  | .fcDropsClear root95 => Sys2Proof.Machine.execFcDropsClear root95 s
  | .captureSetClear die root set => Sys2Proof.Machine.execCaptureSetClear die root set s
  | .fcPartCpuMsiWrite root95 part addr value mask => Sys2Proof.Machine.execFcPartCpuMsiWrite root95 part addr value mask s
  | .dumpAreaErase => Sys2Proof.Machine.execDumpAreaErase s
  | .inputSample centivolts centiamps => Sys2Proof.Machine.execInputSample centivolts centiamps s
  | .fastThrottleLift => Sys2Proof.Machine.execFastThrottleLift s
  | .regulatorOutOfRange die => Sys2Proof.Machine.execRegulatorOutOfRange die s
  | .budgetRecompute meanCentivolts => Sys2Proof.Machine.execBudgetRecompute meanCentivolts s
  | .pkgLimitWrite root95 limit => Sys2Proof.Machine.execPkgLimitWrite root95 limit s
  | .powerMeasure die tokens highest100us limited => Sys2Proof.Machine.execPowerMeasure die tokens highest100us limited s
  | .powerEpochStart die meanTokens => Sys2Proof.Machine.execPowerEpochStart die meanTokens s
  | .tokenGiveTimer die => Sys2Proof.Machine.execTokenGiveTimer die s
  | .state die partner budget want => Sys2Proof.Machine.execState die partner budget want s
  | .give die giver tokens generation returned => Sys2Proof.Machine.execGive die giver tokens generation returned s
  | .cut die generation factor => Sys2Proof.Machine.execCut die generation factor s
  | .dieTempPoll die readings => Sys2Proof.Machine.execDieTempPoll die readings s
  | .throttleReleaseStep die => Sys2Proof.Machine.execThrottleReleaseStep die s
  | .coreClockGate core => Sys2Proof.Machine.execCoreClockGate core s
  | .mctpMessage bus type payload => Sys2Proof.Machine.execMctpMessage bus type payload s
  | .pldmSensorRead bus sensor => Sys2Proof.Machine.execPldmSensorRead bus sensor s
  | .mgtStatus req => Sys2Proof.Machine.execMgtStatus req s
  | .mgtTelemetry req => Sys2Proof.Machine.execMgtTelemetry req s
  | .mgtFaultRead req => Sys2Proof.Machine.execMgtFaultRead req s
  | .mgtFaultFree req => Sys2Proof.Machine.execMgtFaultFree req s
  | .mgtFlpLoad req => Sys2Proof.Machine.execMgtFlpLoad req s
  | .mgtFlashRead req => Sys2Proof.Machine.execMgtFlashRead req s
  | .mgtFlashErase req => Sys2Proof.Machine.execMgtFlashErase req s
  | .mgtFlashWrite req => Sys2Proof.Machine.execMgtFlashWrite req s
  | .mgtReset req => Sys2Proof.Machine.execMgtReset req s
  | .mgtPkgLimit req => Sys2Proof.Machine.execMgtPkgLimit req s
  | .mgtRtStage req => Sys2Proof.Machine.execMgtRtStage req s
  | .mgtFenceErase req => Sys2Proof.Machine.execMgtFenceErase req s
  | .mgtRepairErase req => Sys2Proof.Machine.execMgtRepairErase req s
  | .secAdvance req => Sys2Proof.Machine.execSecAdvance req s
  | .secDebugChallenge req => Sys2Proof.Machine.execSecDebugChallenge req s
  | .secDebugUnlock req => Sys2Proof.Machine.execSecDebugUnlock req s
  | .secDebugLock req => Sys2Proof.Machine.execSecDebugLock req s
  | .debugUnlockExpiry => Sys2Proof.Machine.execDebugUnlockExpiry s
  | .getVersion transport => Sys2Proof.Machine.execGetVersion transport s
  | .getCapabilities transport => Sys2Proof.Machine.execGetCapabilities transport s
  | .negotiateAlgorithms transport rsa slhDsa => Sys2Proof.Machine.execNegotiateAlgorithms transport rsa slhDsa s
  | .getCertificate transport slot offset length => Sys2Proof.Machine.execGetCertificate transport slot offset length s
  | .challenge transport slot nonce => Sys2Proof.Machine.execChallenge transport slot nonce s
  | .getMeasurements transport nonce => Sys2Proof.Machine.execGetMeasurements transport nonce s
  | .vinRise => Sys2Proof.Machine.execVinRise s
  | .supplyDroop island cycles => Sys2Proof.Machine.execSupplyDroop island cycles s
  | .coreResetDone core => Sys2Proof.Machine.execCoreResetDone core s
  | .longOperationDone tag status => Sys2Proof.Machine.execLongOperationDone tag status s

end Sys2Proof.Machine
end

