-- ==== Sys2Proof/Safety.lean ====
section
/-! DEFINITION. What the statements speak of: a run of the block that stops nowhere, the canonical form of its memories, and the
conditions on a state and a command's operands under which the spec says that the command takes effect. -/

namespace Sys2Proof.Machine

/-- The state after `n` steps, where every one of them answers a next state. -/
def runSteps : Nat → State → Option State
  | 0, s => some s
  | n + 1, s => match step s with
    | .next t => runSteps n t
    | _ => none

/-- A safe run: every step of it answers a next state. -/
def SafeRun (s : State) : Prop := ∀ n, (runSteps n s).isSome

/-- A request of an agent of the package can open a transaction at once: the package runs, the line is no companion line, its memory is in
service and its channel not in HOLD, its home is not in reset, and the home knows the line with grant sequence `g` and entry `e`, with no
transaction, waiter or reservation, no buffer of the atomic unit, and room; the message names its requester as its kind does, and it is no second
request of it (R339, R352, R355, R356, R360, R361, R364). -/
def HomeReady (s : State) (k : ReqKind) (m : CohMsg) (g : BitVec 12) (e : Option DirEntry) : Prop :=
  s.phase = .running ∧ isHost m.line = false ∧ fromComp k m = false ∧ s.inService (m.line * 128) = true ∧ s.lineHeld m.line = false ∧
    m.master = !k.caching ∧ (k.caching = true → s.secondWant m = false) ∧
    s.fld (homeDieOf m.line) 0x40000 31 30 ≠ 1 ∧ s.line m.line = { HomeLine.reset with gseq := g, entry := e } ∧
    s.buffered m.line = none ∧ s.homeOpen (homeOf (m.line * 128)) < homeMax (homeOf (m.line * 128)) ∧ (s.setLines m.line).length < 16

/-- The bytes of a line after a masked write over the bytes before. -/
def StoresLine (s t : State) (line : Nat) (mask : BitVec 128) (data : List Byte) : Prop :=
  (∀ i, i < 128 → t.pool.get 0 (line * 128 + i) = if mask.getLsbD i then data.getD i 0 else s.pool.get 0 (line * 128 + i)) ∧
    ∀ a, a < line * 128 ∨ line * 128 + 128 ≤ a → t.pool.get 0 a = s.pool.get 0 a

/-- Nothing but one core differs between two states. -/
def OnlyCore (s t : State) (c : Nat) : Prop := { t with cores := s.cores } = s ∧ ∀ d, d ≠ c → t.core d = s.core d

/-- A core's control core may run an instruction of `n` bytes, and its fetch leaves state `s'` (R111, R112, R127): the package runs, the core
runs a kernel that has not been ended, is not fenced, waits for nothing, and no error of an instruction without a token stands. -/
def CoreFetched (s : State) (c n : Nat) (s' : State) : Prop :=
  s.phase = .running ∧ (s.core c).phase = 1 ∧ (s.core c).runs = true ∧ (s.core c).fenced = false ∧ (s.core c).waiting = none ∧
    (s.core c).noToken = false ∧ s.fetchAt c 0 .coreFetch (s.core c).pc n = (s', .ok ()) ∧ (s'.core c).runs = true

/-- Instruction `i` heads the array's queue, the array would start it, its credit is there, and no self-test has fallen due (R120, R121, R128,
R150, R256, R275, R276). -/
def ArrayHead (s : State) (c func : Nat) (i : TileIns) (rest : List TileIns) : Prop :=
  s.phase = .running ∧ (s.core c).arrq = i :: rest ∧ i.func = func ∧ (s.core c).mayStart = true ∧
    s.unitReady c .array i = true ∧ ((s.core c).acquire i).isSome ∧ (s.core c).testDue = none

/-- Instruction `i` heads the vector engine's queue, the engine would start it, and its credit is there (R120, R121, R128, R181, R273, R275). -/
def VectorHead (s : State) (c func : Nat) (i : TileIns) (rest : List TileIns) : Prop :=
  s.phase = .running ∧ (s.core c).vecq = i :: rest ∧ i.func = func ∧ (s.core c).mayStart = true ∧
    s.unitReady c .vector i = true ∧ ((s.core c).acquire i).isSome

/-- A core's part of kernel `n` has ended with a code (R136, R137): nothing is queued or runs in its units, its groups are stopped, and it waits for
nothing; with no stream instruction left in a slot the core is idle, and a launch that still waits for another core has the report; else it ends
with the code once those have reached their chunk boundaries. A core that held none ends at once. -/
def CoreEnded (s t : State) (c n code : Nat) : Prop :=
  ((t.core c).accq = [] ∧ (t.core c).exq = [] ∧ (t.core c).arrq = [] ∧ (t.core c).vecq = [] ∧ (t.core c).arr = [] ∧ (t.core c).vec = none ∧
    (t.core c).waiting = none ∧ (t.core c).groups = ⟨[]⟩) ∧
  (((t.core c).phase = 0 ∧ (t.core c).kernel = none ∧ (t.core c).inflight = [] ∧
      ∀ l, s.launch n = some l → l.reports.any (fun r => r.1 == c) = false →
        (∃ d ∈ l.cores, d ≠ c ∧ l.reports.any (fun r => r.1 == d) = false) →
        ∃ info, t.launch n = some { l with reports := l.reports ++ [(c, code, info)] }) ∨
    ((t.core c).phase = 2 ∧ (t.core c).kernel = some n ∧ (t.core c).aborting = true ∧ ∃ info, (t.core c).ending = some (code, info))) ∧
  ((s.core c).aborting = false → (t.core c).kernel = none)

/-- A group's current path may issue a word, and its fetch leaves state `s'` (R209, R215, R216, R225, R256): `x` is the group once its ring has
settled on a ready path, `p` that path; no group of its quarter goes ahead of it, the word is legal, its registers are allocated and its lanes
are what a group-wide word needs. -/
def GroupReady (s : State) (c : CoreId) (g : GroupId) (w : DWord) (x : Group) (p : Path) (s' : State) : Prop :=
  s.phase = .running ∧ x = ((s.gSettle c.val g.val).core c.val).group g.val ∧ x.ring.head? = some p ∧ (s.core c.val).mayStart = true ∧ x.live ≠ 0 ∧
    p.state = .ready ∧ ((s.gSettle c.val g.val).core c.val).outranked g.val x = false ∧ p.pc.toNat % 8 = 0 ∧
    (s.gSettle c.val g.val).fetchAt c.val 3 (.groupFetch g) p.pc 8 = (s', .ok ()) ∧ (s'.core c.val).runs = true ∧
    gLegal w = true ∧ (gStrict w = true → bits (s.core c.val).vecCtrl.toNat 3 1 ≤ 4) ∧
    (gWide w = true → p.mask = x.live ∧ (gOp w = 0x74 → x.live = BitVec.allOnes 32)) ∧
    ∀ r ∈ gSources w ++ gDests w, r < (s.core c.val).grpVregs

/-- A group of a core has become `y`, and beside it only registers have changed. -/
def GroupStep (s t : State) (c g : Nat) (y : Group) : Prop :=
  (t.core c).group g = { y with promoted := false } ∧ { t with cores := s.cores, csr := s.csr } = s ∧
    (∀ h, h ≠ g → (t.core c).group h = (s.core c).group h) ∧ ∀ d, d ≠ c → t.core d = s.core d

/-- The instruction at the head of a core's access queue may start in a free slot `n`, with its descriptor in a Pantry without poison or bit errors
and its credit there (R128, R287 to R289, R293). -/
def StreamHead (s : State) (c func : Nat) (i : TileIns) (rest : List TileIns) (n : Fin 16) : Prop :=
  s.phase = .running ∧ (s.core c).accq = i :: rest ∧ i.func = func ∧ (s.core c).mayStart = true ∧ (s.core c).freeSlot = some n ∧
    ((s.core c).acquire i).isSome ∧ i.ops 31 16 = 0 ∧ panFits (i.ops 15 0 * 128) 128 = true ∧ (s.core c).poisoned = [] ∧ (s.core c).flaws = []

/-- A hart may run the instruction `word` at its pc, and its fetch leaves state `s'` (R392, R403): the package runs, the hart is in C0 and not
fenced, and no enabled interrupt is pending. -/
def HartReady (s : State) (m : Nat) (word : Word) (s' : State) : Prop :=
  s.phase = .running ∧ (s.hart m).state = 1 ∧ (s.hart m).fenced = false ∧ s.hartIrq (s.hart m) = none ∧
    s.hFetch m (s.hart m).pc (if word.toNat % 4 = 3 then 4 else 2) = .ok s' false

/-- A hart has become `h`, counted the instruction in minstret, and nothing else has changed. -/
def HartNext (s t : State) (m : Nat) (h : Hart) : Prop :=
  t.hart m = { h with nc := [] }.setCsr 0xB02 (h.csr 0xB02 + 1) ∧ (∀ j, j ≠ m → t.hart j = s.hart j) ∧ { t with harts := s.harts } = s

/-- The line that a cached place is in, and its offset there. -/
def spotLine : HSpot → Option (Nat × Nat)
  | .pool ph 0 => some (ph / 128, ph % 128)
  | .host b 0 => some (hostLine b, b % 128)
  | _ => none

/-- The L2 of a hart takes the line of a cached place in M or E, or has a companion line so, and holds it then as `x`, not poisoned (R350, R397). -/
def TakesLine (s : State) (m : Nat) (sp : HSpot) (s3 : State) (l off : Nat) (x : L2Line) : Prop :=
  spotLine sp = some (l, off) ∧ (match sp with | .pool _ _ => ∃ y, s.l2Own (hartCluster m) l = some (s3, y) | _ => s3 = s ∧ s.ownsLine m l = true) ∧
    s3.l2Line (hartCluster m) l = some x ∧ x.poison = false

/-- A hart's mode may do a cache-block operation: the envcfg registers of the modes above it allow it (R392, R396). -/
def CboMay (h : Hart) (kind : Nat) : Prop :=
  let ok := fun e : Nat => if kind = 4 then h.bit e 7 else if kind = 0 then h.fld e 5 4 == 1 else h.bit e 6
  (h.lvl ≠ 3 → ok 0x30A = true) ∧ (h.virt = true → ok 0x60A = true) ∧ (h.lvl = 0 → ok 0x10A = true)

/-- A cache-block operation on the line at an address reaches line `l`, of companion memory or of a place that PMP and the partition's windows give
the hart (R396, R399). -/
def CboLine (s : State) (m : Nat) (line : DWord) (s2 : State) (l : Nat) : Prop :=
  ∃ a : HAddr, s.hTranslate (s.hart m) (s.hartPart m) ((s.hart m).acc false false) line = .ok s2 a ∧
    (a.host = true ∧ l = hostLine a.pa ∨
      a.host = false ∧ (s.hart m).pmpOk ((s.hart m).acc false false) a.pa = true ∧ ∃ y ph p w, s2.dpa a.pa = .here y ∧ s2.place y = some ph ∧ l = ph / 128 ∧
        s2.hartPart m = some p ∧ s2.windowOf p y false false = some w)

/-- Command `c` with opcode `op` heads queue `q` of partition `p` and starts, of the queue type it needs: `s1` is the state with it started
and `k` the queue then (R431, R433, R434). -/
def CmdReady (s : State) (p : PartId) (q op : Nat) (s1 : State) (c : Slot) (k : Sq) : Prop :=
  s.phase = .running ∧ s.queueRuns p.val q = true ∧ s.takeCmd p.val q op = some (s1, c) ∧ s1.sq p.val q = some k ∧
    (cmdType op = some 1 → q = 0) ∧ (cmdType op = some 2 → q = 0 ∧ p = 0)

/-- Command `c` has ended with a code: it no longer runs, and its result waits to be posted (R435). -/
def CmdEnds (t : State) (p : PartId) (q : Nat) (k : Sq) (c : Slot) (code : Nat) : Prop :=
  ∃ r : CmdResult, r.cid = c.cid ∧ r.code = code ∧
    t.sq p.val q = some { k with running := k.running.eraseP (fun x => x.cid == c.cid), results := k.results ++ [r] }

/-- A management request on a bus that the running device answers, in the management class too (R535, R536). -/
def MgtReady (s : State) (r : MgtReq) : Prop :=
  s.phase = .running ∧ s.pins.ready = true ∧ r.transport = .bus0 ∧ r.payload.length ≤ 4096

/-- The response to a management request is the one message sent. -/
def MgtAnswers (s t : State) (r : MgtReq) (code status : Nat) (payload : List Byte) : Prop :=
  t.sent = s.sent ++ [.mgmt .bus0 code r.tag status (r.offset / 2 ^ 16) payload]

/-- A fabric port carries traffic and the message is for this node (R454, R458). -/
def FabHere (s : State) (p : FabPort) (m : FabMsg) : Prop :=
  s.phase = .running ∧ (s.fabState p.val = 2 ∨ s.fabState p.val = 3) ∧ s.isSelf m.dst = true

/-- A line has a directory entry, or its set has a free way (R364). -/
def HasWay (s : State) (line : Nat) : Prop := (s.line line).entry.isSome = true ∨ (s.setLines line).length < 16

/-- A line of the Pool that a request can use at once: no open transaction, no copy of the companion that stands in its way, a way in the directory,
no poison, and no copy in the atomic unit (R358, R364, R367, R423). -/
def LineHere (s : State) (line : Nat) (write : Bool) : Prop :=
  s.lineBlocked line = false ∧ s.compHolds line write = false ∧ (s.lineNow line).2 = false ∧ s.buffered line = none ∧ HasWay s line

end Sys2Proof.Machine
end

