-- ==== Sys2Proof/Certificates/Slice0/Obligations.lean ====
section
/-! DEFINITION. The statements for the provers: what the rules of the spec say each command does, what it leaves, and what holds of
every step. -/

open Sys2Proof Sys2Proof.Machine

/-- For every state of a running package, agent, address and size that are not a naturally aligned 4- or 8-byte access: CSR_ACCESS_ERROR answers a next state in which the agent has been sent zero data and the contained CSR access error 0x100, and CSR_WRITE of any value one in which the error has been sent; nothing else of the state changes. (R9) -/
def Obligations.MisalignedCsrAccess : Prop :=
  ∀ (s : State) (agent addr size : Nat) (value : DWord), s.phase = .running → csrAligned addr size = false →
    exec (.csrAccessError agent addr size) s = .next ((s.out (.csrData agent 0)).out (.contained agent 0x100)) ∧
    exec (.csrWrite agent addr size value) s = .next (s.out (.contained agent 0x100))

/-- For every state of a running package: an aligned CSR_WRITE of 4 or 8 bytes by an agent that may access the CSR window answers the next state in which the store of each word of it, in ascending order, has been performed, and one by another agent changes nothing. Of those stores: a 1 to DIS of a core's WATCH_STATUS and to VALID of its first-error register clears it, a 0 does nothing; a 1 to VALID of a leaf's capture set, a write of FC_LOG_FREE, of ENABLE or RESET of a function, of COMMIT of the route tables and of a collective queue's doorbell do what the command of that name does. A write of RESET of a function writes ENABLE first and then does what FN_RESET does. The function regions are the companion's to write, every other register the harts' and the management dies'. For every function p: an 8-byte CSR_WRITE of the companion at the admin submission or completion queue base of p answers a next state in which that base is the value, and differs from the state before in that function's registers alone; a 4-byte write of a staging word of the route table of die 84 answers one in which that word is the value, the standby table is dropped and every other register reads as before; a write of DIE_ID, a read-only register, changes nothing. -/
def Obligations.CsrWriteSetsRegisters : Prop :=
  ∀ (s : State) (agent comp : Nat) (p : PartId) (value : DWord), s.phase = .running → csrAgentOk agent = true → 51200 ≤ comp →
    (∀ who addr : Nat, csrMay who addr = true →
      (csrAligned addr 4 = true → exec (.csrWrite who addr 4 value) s = .next (s.csrStore addr (value.setWidth 32))) ∧
      (csrAligned addr 8 = true → exec (.csrWrite who addr 8 value) s = .next ((s.csrStore addr (value.setWidth 32)).csrStore (addr + 4) ((value >>> 32).setWidth 32)))) ∧
    (∀ other addr size : Nat, csrMay other addr = false → csrAligned addr size = true → exec (.csrWrite other addr size value) s = .next s) ∧
    (∀ c : CoreId, let at_ (x : Nat) : Nat := 0x30000000000 + coreDie c.val * 2 ^ 32 + coreOff c.val x
      (value.getLsbD 3 = true → ∃ t : State, exec (.csrWrite agent (at_ 0x804) 4 value) s = .next t ∧ t.fld (coreDie c.val) (coreOff c.val 0x804) 3 3 = 0 ∧
        t.fld (coreDie c.val) (coreOff c.val 0x820) 31 31 = 0 ∧ { t with csr := s.csr } = s) ∧
      (value.getLsbD 31 = true → ∃ t : State, exec (.csrWrite agent (at_ 0x888) 4 value) s = .next t ∧ t.rd (coreDie c.val) (coreOff c.val 0x888) = 0 ∧ { t with csr := s.csr } = s) ∧
      (value.getLsbD 3 = false → exec (.csrWrite agent (at_ 0x804) 4 value) s = .next s) ∧ (value.getLsbD 31 = false → exec (.csrWrite agent (at_ 0x888) 4 value) s = .next s)) ∧
    (∀ (d : DieId) (k : Fin 3), value.getLsbD 31 = true →
      exec (.csrWrite agent (0x30000000000 + d.val * 2 ^ 32 + 0xC0100 + 0x20 * k.val) 4 value) s = exec (.captureSetClear d false k) s) ∧
    (∀ r95 : Bool, exec (.csrWrite agent (0x30000000000 + (if r95 then 95 else 94) * 2 ^ 32 + 0xE0010) 4 value) s = exec (.fcLogFree r95 (value.setWidth 32)) s) ∧
    (value.getLsbD 1 = false → exec (.csrWrite comp (0x3F000000000 + p.val * 0x1000000) 4 value) s = exec (.fnEnable p (value.getLsbD 0)) s) ∧
    (value.getLsbD 1 = true → exec (.csrWrite comp (0x3F000000000 + p.val * 0x1000000) 4 value) s = .next ((s.fnEnable p.val (value.getLsbD 0)).fnReset p.val)) ∧
    (value.getLsbD 29 = false → value.getLsbD 31 = true → exec (.csrWrite agent (0x30000000000 + 84 * 2 ^ 32 + 0x90810) 4 value) s = exec .routeCommit s) ∧
    (∀ q : ColQueue, exec (.csrWrite agent (0x30000000000 + colDie q.val * 2 ^ 32 + colOff q.val 0x10) 4 value) s = exec (.colQueueDoorbell q) s) ∧
    (∃ t : State, exec (.csrWrite comp (0x3F000000000 + p.val * 0x1000000 + 0x10) 8 value) s = .next t ∧
      t.fn p.val = { s.fn p.val with sqBase := value } ∧ { t with fns := s.fns } = s ∧ ∀ p', p' ≠ p.val → t.fn p' = s.fn p') ∧
    (∃ t : State, exec (.csrWrite comp (0x3F000000000 + p.val * 0x1000000 + 0x18) 8 value) s = .next t ∧
      t.fn p.val = { s.fn p.val with cqBase := value } ∧ { t with fns := s.fns } = s ∧ ∀ p', p' ≠ p.val → t.fn p' = s.fn p') ∧
    (∀ i, i < 0x3022 → ∃ t : State, exec (.csrWrite agent (0x30000000000 + 84 * 2 ^ 32 + 0xB0000 + 4 * i) 4 value) s = .next t ∧
      t.rd 84 (0xB0000 + 4 * i) = value.setWidth 32 ∧ { t with csr := s.csr, tables := s.tables } = s ∧ t.tables = s.tables.del (b2n (!s.epoch)) ∧
      ∀ d o, csrKey d o ≠ csrKey 84 (0xB0000 + 4 * i) → t.rd d o = s.rd d o) ∧
    (∀ d : DieId, exec (.csrWrite agent (0x30000000000 + d.val * 2 ^ 32) 4 value) s = .next s)

/-- For every state of a running package and every agent that may access the CSR window: an 8-byte CSR_WRITE of the descriptor ring's base of a collective queue that is not armed, on any of the eight dies, answers a next state in which the register's two words read as the value; a 4-byte one of the L2 dirty limit of a CPU die answers one in which a limit of 8 to 1,000 is taken, and any other changes nothing; one of DIE_ID, which is read-only, changes nothing; and every other register of every die, and all other state, is as before. -/
def Obligations.CsrWriteCompletes : Prop :=
  ∀ (s : State) (agent : Nat) (d : DieId) (value : DWord), s.phase = .running → csrAgentOk agent = true →
    let at_ := fun o : Nat => 0x30000000000 + d.val * 2 ^ 32 + o
    (∀ q : Fin 8, let o := 0xA0000 + 0x20 * q.val
      84 ≤ d.val → d.val < 92 → s.fld d.val (o + 8) 31 31 = 0 → ∃ t : State, exec (.csrWrite agent (at_ o) 8 value) s = .next t ∧ t.rd64 d.val o = value ∧
        { t with csr := s.csr } = s ∧ ∀ e p : Nat, csrKey e p ≠ csrKey d.val o → csrKey e p ≠ csrKey d.val (o + 4) → t.rd e p = s.rd e p) ∧
    (32 ≤ d.val → d.val < 36 →
      (8 ≤ value.toNat % 1024 → value.toNat % 1024 ≤ 1000 → ∃ t : State, exec (.csrWrite agent (at_ 0x60000) 4 value) s = .next t ∧ t.fld d.val 0x60000 9 0 = value.toNat % 1024 ∧
        { t with csr := s.csr } = s ∧ ∀ e p : Nat, csrKey e p ≠ csrKey d.val 0x60000 → t.rd e p = s.rd e p) ∧
      (value.toNat % 1024 < 8 ∨ 1000 < value.toNat % 1024 → exec (.csrWrite agent (at_ 0x60000) 4 value) s = .next s)) ∧
    exec (.csrWrite agent (at_ 0) 4 value) s = .next s

/-- For every state of a running package, every ACTIVE Hallway port and every packet with a correct CRC that is delivered at the port's die: HALLWAY_PACKET_RECEIVE answers a next state in which the packet is acknowledged and its sequence is one the destination no longer takes; where the destination had accepted it already, or it lies below the 65,536 sequences kept, what the destination has accepted is unchanged; the acceptance of every other source and destination is unchanged; and the cores, the Pool and every register are unchanged. (R27) -/
def Obligations.HallwayAcceptsOnce : Prop :=
  ∀ (s : State) (p : HalPort) (pkt : Packet), s.phase = .running → s.halState p = 3 → deliveredAt p.die.val pkt.dst.val = true →
    ∃ t : State, exec (.hallwayPacketReceive p pkt true) s = .next t ∧ t.sent = s.sent ++ [.hallwayAck p pkt.seq] ∧
      (t.hallAcc.get Accepted.reset (pkt.src.val * 128 + pkt.dst.val)).takes pkt.seq.toNat = false ∧
      ((s.hallAcc.get Accepted.reset (pkt.src.val * 128 + pkt.dst.val)).takes pkt.seq.toNat = false → t.hallAcc = s.hallAcc) ∧
      (∀ k, k ≠ pkt.src.val * 128 + pkt.dst.val → t.hallAcc.get Accepted.reset k = s.hallAcc.get Accepted.reset k) ∧
      t.cores = s.cores ∧ t.pool = s.pool ∧ t.csr = s.csr

/-- For every state of a running package and every Hallway port p. A packet whose CRC fails at an ACTIVE port is answered with a replay request and nothing else changes. HALLWAY_REPLAY_REQUEST at an ACTIVE port with unacknowledged packets sends each of them again and leaves the ports as they are. HALLWAY_PORT_TRAIN of a port that is neither fenced nor absent makes its inbound mask the bundles that passed less the fenced ones and starts round 1 of the next attempt, in HOLD where the port was in service or in HOLD, else in TRAIN. CHECK_WINDOW in which no bundle reaches more than 16 errors over ten windows only adds to the error history. FORWARDED_CLOCK_LOSS puts an ACTIVE or training port in HOLD. -/
def Obligations.HallwayPortCommands : Prop :=
  ∀ (s : State) (p : HalPort), s.phase = .running →
    (∀ pkt, s.halState p = 3 → exec (.hallwayPacketReceive p pkt false) s = .next (s.out (.hallwayReplay p))) ∧
    (s.halState p = 3 → (s.port p).replay ≠ [] → ∃ t : State, exec (.hallwayReplayRequest p) s = .next t ∧
      s.sent ++ (s.port p).replay.map (fun pkt => Msg.hallway p pkt) <+: t.sent ∧ t.hall = s.hall ∧ t.csr = s.csr ∧ t.pool = s.pool ∧ t.cores = s.cores) ∧
    (∀ passed, s.halState p ≠ 4 → s.halState p ≠ 5 → ∃ t : State, exec (.hallwayPortTrain p passed) s = .next t ∧
      t.halState p = (if s.halState p = 2 ∨ s.halState p = 3 then 2 else 1) ∧ t.inbound p = passed &&& ~~~ (s.port p).fenced &&& ~~~ s.cfgFenced p ∧
      (t.port p).round = 1 ∧ (t.port p).attempt = s.fld (halReg p).1 (halReg p).2 27 24 + 1 ∧ t.pool = s.pool ∧ t.cores = s.cores) ∧
    (∀ errors, s.halState p = 3 → (∀ x ∈ windowsAfter (s.port p).windows errors, x.2.sum ≤ 16) →
      exec (.checkWindow p errors) s = .next (s.setPort p { s.port p with windows := windowsAfter (s.port p).windows errors })) ∧
    (s.halState p = 3 ∨ s.halState p = 1 → ∃ t : State, exec (.forwardedClockLoss p) s = .next t ∧ t.halState p = 2 ∧ t.pool = s.pool ∧ t.cores = s.cores)

/-- For every state of a running package and every Hallway port p. A mask token with a correct CRC, of the attempt under way, at a training or holding port in round 1 that waits after no failed attempt, whose agreed width is at least 16, and which has no confirm token yet, starts round 2 with that proposal. A confirm token of the attempt under way in round 2, with the agreed width, makes the port ACTIVE at that width with no attempt counted. NEGOTIATION_ROUND_TIMEOUT in a round counts a failed attempt and, before the third, waits. NEGOTIATION_BACKOFF_EXPIRY after that wait starts round 1 of the next attempt. -/
def Obligations.WidthNegotiation : Prop :=
  ∀ (s : State) (p : HalPort), s.phase = .running →
    (∀ token : BitVec 128, bits token.toNat 15 0 = crc16 112 (token.toNat / 2 ^ 16) → 1 ≤ bits token.toNat 119 112 → bits token.toNat 119 112 ≤ 3 →
      (s.halState p = 1 ∨ s.halState p = 2) → (s.port p).backingOff = false → bits token.toNat 119 112 = (s.port p).attempt →
      (bits token.toNat 127 120 = 0x5A → (s.port p).round = 1 → (s.port p).confirmed = none → 16 ≤ min (s.proposal p) (bits token.toNat 111 104) →
        ∃ t : State, exec (.widthToken p token) s = .next t ∧ (t.port p).round = 2 ∧ (t.port p).peerProposal = some (bits token.toNat 111 104) ∧
          (t.port p).peerMask = token.extractLsb' 16 66 ∧ t.halState p = s.halState p) ∧
      (bits token.toNat 127 120 = 0x5B → (s.port p).round = 2 → ∀ w, (s.port p).peerProposal = some w → bits token.toNat 111 104 = min (s.proposal p) w →
        ∃ t : State, exec (.widthToken p token) s = .next t ∧ t.halState p = 3 ∧ t.fld (halReg p).1 (halReg p).2 23 16 = bits token.toNat 111 104 % 256 ∧
          t.fld (halReg p).1 (halReg p).2 27 24 = 0 ∧ (t.port p).round = 0 ∧ t.sent = s.sent)) ∧
    ((s.port p).round ≠ 0 → s.fld (halReg p).1 (halReg p).2 27 24 < 2 → ∃ t : State, exec (.negotiationRoundTimeout p) s = .next t ∧
      t.fld (halReg p).1 (halReg p).2 27 24 = s.fld (halReg p).1 (halReg p).2 27 24 + 1 ∧ (t.port p).round = 0 ∧ (t.port p).backingOff = true ∧ t.sent = s.sent) ∧
    ((s.port p).backingOff = true → ∃ t : State, exec (.negotiationBackoffExpiry p) s = .next t ∧ (t.port p).round = 1 ∧ (t.port p).backingOff = false ∧
      (t.port p).attempt = s.fld (halReg p).1 (halReg p).2 27 24 + 1 ∧ t.csr = s.csr)

/-- For every state of a running package, every ACTIVE channel and every line of it: CHANNEL_WRITE of data without poison and without retries, with a clean code on the line a masked write reads, answers a next state in which the bytes of memory outside the line read as before; a write of the whole line stores its data and clears the line's poison; a masked write of a line that is not poisoned stores the masked bytes and leaves the others; a masked write of a poisoned line leaves the line poisoned and discards its bytes. Cores, L2 caches and harts are unchanged. -/
def Obligations.ChannelWriteStores : Prop :=
  ∀ (s : State) (c : Chan) (line agent : Nat) (mask : BitVec 128) (data : List Byte), s.phase = .running →
    chanOf (line * 128) = some c → s.chanState c = 2 →
    ∃ t : State, exec (.channelWrite c line agent mask data false ⟨.clean, 0⟩) s = .next t ∧
      (∀ a, a < line * 128 ∨ line * 128 + 128 ≤ a → t.pool.get 0 a = s.pool.get 0 a) ∧
      (mask = fullMask → t.poolBad.contains line = false ∧ ∀ i, i < 128 → t.pool.get 0 (line * 128 + i) = data.getD i 0) ∧
      (mask ≠ fullMask → s.poolBad.contains line = false → t.poolBad = s.poolBad ∧
        ∀ i, i < 128 → t.pool.get 0 (line * 128 + i) = if mask.getLsbD i then data.getD i 0 else s.pool.get 0 (line * 128 + i)) ∧
      (mask ≠ fullMask → s.poolBad.contains line = true → t.poolBad = s.poolBad ∧ t.pool = s.pool) ∧
      t.cores = s.cores ∧ t.l2s = s.l2s ∧ t.harts = s.harts

/-- For every state of a running package, every ACTIVE channel and every line of it: CHANNEL_READ with a clean code sends the requester the line's bytes in memory with its poison, and changes neither memory, cores nor harts; with a correctable error on a line that is not poisoned it sends the same data without poison, leaves memory and advances CORR by one; with an uncorrectable error on such a line it sends the line with poison, and the line is then poisoned. -/
def Obligations.ChannelReadAnswers : Prop :=
  ∀ (s : State) (c : Chan) (line agent : Nat), s.phase = .running → chanOf (line * 128) = some c → s.chanState c = 2 →
    (∃ t : State, exec (.channelRead c line agent .clean 0) s = .next t ∧
      t.sent = s.sent ++ [.memData agent line (s.memLine line) (s.poolBad.contains line) false] ∧
      t.pool = s.pool ∧ t.poolBad = s.poolBad ∧ t.cores = s.cores ∧ t.harts = s.harts) ∧
    (s.poolBad.contains line = false → ∃ t : State, exec (.channelRead c line agent .corrected 0) s = .next t ∧
      Msg.memData agent line (s.memLine line) false false ∈ t.sent ∧ t.pool = s.pool ∧ t.poolBad = s.poolBad ∧
      t.rd (chanReg c).1 ((chanReg c).2 + 4) = s.rd (chanReg c).1 ((chanReg c).2 + 4) + 1) ∧
    (s.poolBad.contains line = false → ∃ t : State, exec (.channelRead c line agent .uncorrectable 0) s = .next t ∧
      Msg.memData agent line (s.memLine line) true false ∈ t.sent ∧ t.poolBad.contains line = true ∧ t.pool = s.pool)

/-- For every state of a running package and every channel: CHANNEL_TRAIN of a channel that is down, training or in self-refresh, whose turn has come under a configuration, with nothing held and failures the repair covers, makes it ACTIVE with the repairs counted and its scrubber at the start; REFRESH_DUE of a channel in service counts one refresh and starts activation counts again, all of an Attic channel and those of the next bank of an Annex channel, and changes no other channel and nothing else; CHANNEL_SCRUB_TICK of an ACTIVE channel that finds no error moves the scrubber to the next line and leaves memory; CHANNEL_RETRAIN_DONE that succeeds with nothing held makes the channel ACTIVE again; HOLD_RETRY_RESEND of a read at an ACTIVE channel, by another agent than the line's home, sends the line's data, and of any such request at a channel in HOLD with room holds it, and of a request that the home keeps at a channel in HOLD with room holds that one and keeps it no more; DRIFT_TRACKING_WINDOW changes nothing (the model's reading: drift tracking adjusts no state the spec names). -/
def Obligations.ChannelService : Prop :=
  ∀ (s : State) (c : Chan), s.phase = .running →
    (∀ failed, s.flp.isSome → s.trainDue c = true → (s.chan c).hold = [] → (s.chanState c = 0 ∨ s.chanState c = 1 ∨ s.chanState c = 5) → trains c failed false = true → failed < 256 →
      ∃ t : State, exec (.channelTrain c ⟨failed, []⟩ false false) s = .next t ∧ t.chanState c = 2 ∧ t.fld (chanReg c).1 (chanReg c).2 15 8 = failed ∧
        (t.chan c).scrub = 0 ∧ t.pool = s.pool ∧ t.sent = s.sent) ∧
    (s.chanState c = 2 ∨ s.chanState c = 3 → ∃ t : State, exec (.refreshDue c) s = .next t ∧ (t.chan c).refreshes = (s.chan c).refreshes + 1 ∧
      (chanAnnex c = false → (t.chan c).activated = ⟨[]⟩) ∧
      (chanAnnex c = true → ∀ key, (t.chan c).activated.get 0 key = if key / 2 ^ 16 = (s.chan c).nextBank then 0 else (s.chan c).activated.get 0 key) ∧
      (∀ d, d ≠ c → t.chan d = s.chan d) ∧ { t with channels := s.channels } = s) ∧
    (s.chanState c = 2 → ∃ t : State, exec (.channelScrubTick c ⟨.clean, 0⟩) s = .next t ∧ (t.chan c).scrub = ((s.chan c).scrub + 1) % scrubLines c ∧
      t.pool = s.pool ∧ t.poolBad = s.poolBad ∧ t.sent = s.sent) ∧
    (∀ failed, s.chanState c = 3 → trains c failed false = true → (s.chan c).hold = [] → failed < 256 →
      ∃ t : State, exec (.channelRetrainDone c ⟨failed, []⟩ false) s = .next t ∧ t.chanState c = 2 ∧ (t.chan c).retries = [] ∧ t.pool = s.pool ∧ t.sent = s.sent) ∧
    (∀ r : ChanReq, chanOf (r.line * 128) = some c → s.chanState c = 2 → r.write = false → r.agent ≠ homeAgent r.line →
      ∃ t : State, exec (.holdRetryResend c ⟨r, ⟨.clean, 0⟩⟩) s = .next t ∧ Msg.memData r.agent r.line (s.memLine r.line) (s.poolBad.contains r.line) false ∈ t.sent ∧ t.pool = s.pool) ∧
    (∀ r : ChanReq, chanOf (r.line * 128) = some c → s.chanState c = 3 → (s.chan c).hold.length < 512 →
      (r.agent ≠ homeAgent r.line → ∃ t : State, exec (.holdRetryResend c ⟨r, ⟨.clean, 0⟩⟩) s = .next t ∧ (t.chan c).hold = (s.chan c).hold ++ [r] ∧ { t with channels := s.channels } = s) ∧
      (∀ x : ChanReq, r.agent = homeAgent r.line → (s.chan c).back = [x] → x.line = r.line → ∃ t : State, exec (.holdRetryResend c ⟨r, ⟨.clean, 0⟩⟩) s = .next t ∧
        (t.chan c).hold = (s.chan c).hold ++ [x] ∧ (t.chan c).back = [] ∧ { t with channels := s.channels } = s)) ∧
    exec (.driftTrackingWindow c) s = .next s

/-- For every request whose home can open its transaction at once on a line without a directory entry. RdS of an L2 sends it the line from memory with grant E and FINAL, and leaves a transaction that makes the L2 the owner and awaits its CmpAck; RdX does the same with grant M and the grant sequence advanced; RdNA of a master agent sends the line without a copy. WrF and WrP without poison, to a channel in service, store their bytes and no others and send Cmp; an atomic on a device-bias line that is not poisoned sends the old value and leaves the new line in the home's memory-side atomic unit. Reads leave memory, and cores and harts are unchanged throughout. -/
def Obligations.CoherenceRequests : Prop :=
  ∀ (s : State) (m : CohMsg) (g : BitVec 12),
    (HomeReady s .rdS m g none → 36 ≤ m.agent → m.agent < 100 → ∃ t : State, exec (.rds m) s = .next t ∧
      Msg.coh 0x10 m.agent { m with gseq := g, data := s.memLine m.line, poison := s.memBad m.line, grant := .E, final := true } ∈ t.sent ∧
      (∃ x, (t.line m.line).txn = some x ∧ x.kind = .rdS ∧ x.needAck = true ∧ x.snoops = [] ∧ x.next = some (ownerEntry m.agent)) ∧
      t.pool = s.pool ∧ t.cores = s.cores ∧ t.harts = s.harts) ∧
    (HomeReady s .rdX m g none → 36 ≤ m.agent → m.agent < 100 → ∃ t : State, exec (.rdx m) s = .next t ∧
      Msg.coh 0x10 m.agent { m with gseq := g + 1, data := s.memLine m.line, poison := s.memBad m.line, grant := .M, final := true } ∈ t.sent ∧
      (∃ x, (t.line m.line).txn = some x ∧ x.kind = .rdX ∧ x.needAck = true ∧ x.snoops = [] ∧ x.next = some (ownerEntry m.agent)) ∧
      (t.line m.line).gseq = g + 1 ∧ t.pool = s.pool ∧ t.cores = s.cores ∧ t.harts = s.harts) ∧
    (HomeReady s .upg m g (some { st := .S, owner := 0, coarse := false, sharers := [m.agent] }) → 36 ≤ m.agent → m.agent < 100 →
      ∃ t : State, exec (.upg m) s = .next t ∧ Msg.coh 0x12 m.agent { m with gseq := g + 1 } ∈ t.sent ∧
      (∃ x, (t.line m.line).txn = some x ∧ x.kind = .upg ∧ x.needAck = true ∧ x.next = some (ownerEntry m.agent)) ∧
      (t.line m.line).gseq = g + 1 ∧ t.pool = s.pool ∧ t.cores = s.cores ∧ t.harts = s.harts) ∧
    (HomeReady s .rdNA m g none → ∃ t : State, exec (.rdna m) s = .next t ∧
      Msg.coh 0x10 m.agent { m with gseq := g, data := s.memLine m.line, poison := s.memBad m.line, grant := .I, final := true } ∈ t.sent ∧
      (t.line m.line).gseq = g ∧ t.pool = s.pool ∧ t.cores = s.cores ∧ t.harts = s.harts) ∧
    (HomeReady s .wrF m g none → m.poison = false → s.lineFenced m.line = false → ∃ t : State, exec (.wrf m) s = .next t ∧
      Msg.coh 0x12 m.agent { m with gseq := g + 1 } ∈ t.sent ∧ StoresLine s t m.line fullMask m.data ∧ t.poolBad.contains m.line = false ∧
      t.cores = s.cores ∧ t.harts = s.harts) ∧
    (HomeReady s .wrP m g none → m.poison = false → s.lineFenced m.line = false → s.poolBad.contains m.line = false →
      ∃ t : State, exec (.wrp m) s = .next t ∧
      Msg.coh 0x12 m.agent { m with gseq := g + 1 } ∈ t.sent ∧ StoresLine s t m.line m.mask m.data ∧ t.cores = s.cores ∧ t.harts = s.harts) ∧
    (∀ op width off operand compare, HomeReady s (.atom op width off operand compare) m g none → s.sharedBias m.line = false →
      s.memBad m.line = false → ∃ t : State, exec (.atom m op width off operand compare) s = .next t ∧
      Msg.coh 0x12 m.agent { m with gseq := g + 1, data := leBytes 16 (leAt (s.memLine m.line) off (atomBits width / 8)) } ∈ t.sent ∧
      t.buffered m.line = some (atomLine (s.memLine m.line) op width off operand compare).1 ∧ t.cores = s.cores ∧ t.harts = s.harts)

/-- For every state of a running package and every Pool line without an open transaction. EvC removes its sender from the line's directory entry and changes nothing else. At a channel in service and not in HOLD, WB of the line's owner, with the line's grant sequence, stores the line, removes the owner and sends WbAck; Clean of that owner stores the line, keeps the entry and sends WbAck. A WB or Clean with an older grant sequence stores nothing and sends WbAck. -/
def Obligations.CoherenceNotices : Prop :=
  ∀ (s : State) (m : CohMsg), s.phase = .running → isHost m.line = false → (s.line m.line).txn = none → m.agent < 100 →
    (∃ t : State, exec (.evc m) s = .next t ∧ (t.line m.line).entry = (s.line m.line).entry.bind (fun e => e.delAgent m.agent) ∧
      { t with lines := s.lines } = s ∧ ∀ l, l ≠ m.line → t.line l = s.line l) ∧
    (∀ e, (s.line m.line).entry = some e → e.own = some m.agent → m.gseq = (s.line m.line).gseq → m.poison = false → s.lineFenced m.line = false → s.lineHeld m.line = false →
      (∃ t : State, exec (.wb m) s = .next t ∧ StoresLine s t m.line fullMask m.data ∧ (t.line m.line).entry = e.delAgent m.agent ∧
        Msg.coh 0x16 m.agent m ∈ t.sent ∧ t.cores = s.cores ∧ t.harts = s.harts) ∧
      (∃ t : State, exec (.clean m) s = .next t ∧ StoresLine s t m.line fullMask m.data ∧ (e.st = .X → (t.line m.line).entry = some e) ∧
        Msg.coh 0x16 m.agent m ∈ t.sent ∧ t.cores = s.cores ∧ t.harts = s.harts)) ∧
    (older m.gseq (s.line m.line).gseq = true →
      (∃ t : State, exec (.wb m) s = .next t ∧ t.pool = s.pool ∧ t.lines = s.lines ∧ t.sent = s.sent ++ [.coh 0x16 m.agent m]) ∧
      ∃ t : State, exec (.clean m) s = .next t ∧ t.pool = s.pool ∧ t.lines = s.lines ∧ t.sent = s.sent ++ [.coh 0x16 m.agent m])

/-- For every state of a running package, every Pool line and every L2 that is not fenced, holds the line and delays no answer for a reservation: SnpFwdS sends the requester the line with grant S, keeps it (M as O, E as S) and tells the home; SnpFwdX sends it with grant M and removes it; SnpFwdNA sends it and keeps it; SnpRecall sends it to the home, with SUPERSEDED where a write-back or cleaning of the line is outstanding, and removes it; SnpInv removes it and sends InvAck. For every base-die cache that is not fenced, SnpInv removes the line and sends InvAck. -/
def Obligations.SnoopsAnswered : Prop :=
  ∀ (s : State) (m : CohMsg) (n : Nat) (x : L2Line), s.phase = .running → isHost m.line = false → n < 64 → m.agent ≠ 100 → m.agent < 51200 →
    s.agentLive (36 + n) = true → s.l2Line n m.line = some x → x.st ≠ .I → (∀ i, i < 4 → (s.hart (4 * n + i)).delay = false) →
    (∃ t : State, exec (.snpFwdS m (36 + n)) s = .next t ∧ Msg.coh 0x10 m.agent { m with data := x.data, poison := x.poison, grant := .S } ∈ t.sent ∧
      (∃ y, t.l2Line n m.line = some y ∧ y.data = x.data ∧ (x.st = .M → y.st = .O) ∧ (x.st = .E → y.st = .S)) ∧ t.pool = s.pool ∧ t.harts = s.harts) ∧
    (∃ t : State, exec (.snpFwdX m (36 + n)) s = .next t ∧ Msg.coh 0x10 m.agent { m with data := x.data, poison := x.poison, grant := .M } ∈ t.sent ∧
      t.l2Line n m.line = none ∧ (∀ i, i < 4 → (t.hart (4 * n + i)).resv ≠ some m.line) ∧ t.pool = s.pool) ∧
    (∃ t : State, exec (.snpFwdNa m (36 + n)) s = .next t ∧ Msg.coh 0x10 m.agent { m with data := x.data, poison := x.poison, grant := .I } ∈ t.sent ∧
      t.l2s = s.l2s ∧ t.pool = s.pool ∧ t.harts = s.harts) ∧
    (∃ t : State, exec (.snpRecall m (36 + n)) s = .next t ∧
      (let late := (s.l2 n).buffer.any (fun b => b.2.line == m.line && b.1 != .evC)
       Msg.coh 0x11 (homeDieOf m.line) { m with data := x.data, poison := x.poison, noData := false, superseded := late, sender := 36 + n } ∈ t.sent) ∧
      t.l2Line n m.line = none ∧ t.pool = s.pool) ∧
    (∃ t : State, exec (.snpInv m (36 + n)) s = .next t ∧ Msg.coh 0x15 (homeDieOf m.line) { m with sender := 36 + n } ∈ t.sent ∧
      t.l2Line n m.line = none ∧ (∀ i, i < 4 → (t.hart (4 * n + i)).resv ≠ some m.line) ∧ t.pool = s.pool) ∧
    (∀ k : StackId, s.agentLive k.val = true → ∃ t : State, exec (.snpInv m k.val) s = .next t ∧
      (t.baseCache k.val).lines.cells.find? (fun y => y.1 == m.line) = none ∧ t.sent = s.sent ++ [.coh 0x15 (homeDieOf m.line) { m with sender := k.val }] ∧
      t.pool = s.pool)

/-- For every state of a running package, Pool line and open transaction. FwdAck and InvAck of a snooped agent, while another answer is awaited, leave the transaction open with that agent no longer awaited; RecallData without NODATA, at a channel in service and not in HOLD, also stores the line. CmpAck of the requester, with every snoop answered, no read of memory awaited and the completion sent, and nothing waiting at the home, closes the transaction and leaves the entry it decided (the atomic unit's entry where the unit holds the line). SNOOP_TIMEOUT of an awaited agent, under a severity table that fences for it, fences that agent. -/
def Obligations.TransactionProgress : Prop :=
  ∀ (s : State) (m : CohMsg) (x : Txn), s.phase = .running → isHost m.line = false → (s.line m.line).txn = some x →
    (x.snoops.contains m.sender = true → (x.snoops.erase m.sender) ≠ [] → (s.line m.line).staleAck = [] → m.sender < 100 →
      (m.noData = false → ∃ t : State, exec (.fwdAck m) s = .next t ∧ ∃ y, (t.line m.line).txn = some y ∧ y.snoops = x.snoops.erase m.sender ∧ y.kind = x.kind ∧ t.pool = s.pool) ∧
      (∃ t : State, exec (.invAck m) s = .next t ∧ (t.line m.line).txn = some { x with snoops := x.snoops.erase m.sender } ∧ t.pool = s.pool ∧ t.sent = s.sent) ∧
      (m.noData = false → m.poison = false → s.lineFenced m.line = false → s.lineHeld m.line = false → ∃ t : State, exec (.recallData m) s = .next t ∧
        StoresLine s t m.line fullMask m.data ∧ (t.line m.line).txn = some { x with snoops := x.snoops.erase m.sender })) ∧
    (x.msg.txn = m.txn → x.msg.agent = m.agent → x.snoops = [] → x.memory = none → x.cmpSent = true → s.atomStopped x = false → (x.next = some (ownerEntry 127) → (s.buffered m.line).isSome) →
      (s.line m.line).held = [] → (s.line m.line).staleAck = [] → (∀ c ∈ s.lines.cells, c.2.waiters = []) →
      ∃ t : State, exec (.cmpAck m) s = .next t ∧ (t.line m.line).txn = none ∧ (t.line m.line).entry = x.next ∧ t.pool = s.pool ∧ t.sent = s.sent ∧
        ∀ l, l ≠ m.line → t.line l = s.line l) ∧
    (∀ a, a < 100 → 36 ≤ a → x.snoops.contains a = true → bitAt (s.sev 0x13) 11 = true →
      s.unitFenced (mkFault (dieOf (homeDieOf m.line)) 0x13 (if homeDieOf m.line < 72 then 16 else 32) .cacheAgent a (BitVec.ofNat 64 (s.localOf (m.line * 128))) 5) = false →
      ∃ t : State, exec (.snoopTimeout m.line a) s = .next t ∧ (UnitKind.cacheAgent, a) ∈ t.fencedU)

/-- For every state of a running package. DATA with FINAL for an L2's outstanding RdS whose set has room installs the line with the granted state, ends the request and sends CmpAck. CMP for an L2's outstanding upgrade of a line it holds makes the line M. WB_ACK frees the write-back buffer's entry. RETRY marks an outstanding request as refused; RETRY_RESEND sends a refused request of a master agent again with STARVE raised by one, at most 15. WAITER_RESERVATION_EXPIRY ends the line's reservation. BASE_DIE_CACHE_READ of a line the cache holds sends it; of another, with allocation and no request for it outstanding, asks the home with RdS of its own and notes the request it serves. DIRTY_AGE_TICK ages a dirty line below its ninth tick by one. MSAU_IDLE_RELEASE of a buffered line nobody blocks stores it. -/
def Obligations.CacheCommands : Prop :=
  ∀ (s : State), s.phase = .running →
    (∀ (m : CohMsg) (w : Want) (n : Nat), m.agent = 36 + n → n < 64 → m.master = false → m.final = true → (s.l2 n).wants = [w] → w.msg.line = m.line → w.msg.txn = m.txn →
      isHost m.line = false → ((s.l2 n).lines.cells.filter (fun c => c.1 % 4096 == m.line % 4096 && c.1 != m.line)).length < 16 → m.data ≠ [] →
      ∃ t : State, exec (.data m) s = .next t ∧ t.l2Line n m.line = some { st := m.grant, data := m.data, age := 0, poison := m.poison, gseq := m.gseq } ∧
        (t.l2 n).wants = [] ∧ t.sent = s.sent ++ [.coh 0x13 (homeDieOf m.line) { w.msg with sender := 36 + n }] ∧ t.pool = s.pool) ∧
    (∀ (m : CohMsg) (w : Want) (n : Nat) (x : L2Line), m.agent = 36 + n → n < 64 → m.master = false → (s.l2 n).wants = [w] → w.msg.line = m.line → w.msg.txn = m.txn →
      w.kind = .upg → w.data = none → isHost m.line = false → s.l2Line n m.line = some x →
      ((s.l2 n).lines.cells.filter (fun c => c.1 % 4096 == m.line % 4096 && c.1 != m.line)).length < 16 → x.data ≠ [] →
      ∃ t : State, exec (.cmp m) s = .next t ∧ (∃ y, t.l2Line n m.line = some y ∧ y.st = .M ∧ y.data = x.data ∧ y.gseq = m.gseq) ∧ (t.l2 n).wants = [] ∧ t.pool = s.pool) ∧
    (∀ (m : CohMsg) (n : Nat), m.agent = 36 + n → n < 64 → ∃ t : State, exec (.wbAck m) s = .next t ∧
      (t.l2 n).buffer = (s.l2 n).buffer.eraseP (fun b => b.2.line == m.line && b.2.gseq == m.gseq) ∧ { t with l2s := s.l2s } = s) ∧
    (∀ (m : CohMsg) (w : Want) (n : Nat), m.agent = 36 + n → n < 64 → m.master = false → (s.l2 n).wants = [w] → w.msg.line = m.line → w.msg.txn = m.txn → w.data = none → w.cmp = false →
      ∃ t : State, exec (.retry m) s = .next t ∧ (t.l2 n).wants = [{ w with refused := true }] ∧ { t with l2s := s.l2s } = s) ∧
    (∀ (m r : CohMsg) (k : ReqKind), s.refused = [(k, r)] → r.line = m.line → r.txn = m.txn → r.agent = m.agent → r.master = true → m.master = true → k.caching = false → r.starve.val < 15 →
      ∃ t : State, exec (.retryResend m) s = .next t ∧ t.refused = [] ∧ ∃ r', t.sent = s.sent ++ [.coh k.code (homeDieOf m.line) r'] ∧ r'.starve.val = r.starve.val + 1 ∧
        { r' with starve := r.starve } = r) ∧
    (∀ l, ∃ t : State, exec (.waiterReservationExpiry l) s = .next t ∧ (t.line l).reserved = none ∧ { t with lines := s.lines } = s ∧ ∀ j, j ≠ l → t.line j = s.line j) ∧
    (∀ (k : StackId) (m : CohMsg) (d : List Byte), s.fencedU.contains (.cacheAgent, k.val) = false → (s.baseCache k.val).lines.cells.find? (fun x => x.1 == m.line) = some (m.line, d) →
      ∀ na, ∃ t : State, exec (.baseDieCacheRead k m na) s = .next t ∧ t.sent = s.sent ++ [.coh 0x10 m.agent { m with data := d, grant := .S, final := true, poison := false }] ∧
        t.pool = s.pool ∧ t.bases = s.bases) ∧
    (∀ (k : StackId) (m : CohMsg), s.fencedU.contains (.cacheAgent, k.val) = false → (s.baseCache k.val).lines.cells.find? (fun x => x.1 == m.line) = none →
      (∀ w ∈ (s.baseCache k.val).wants, w.msg.line ≠ m.line ∧ w.msg.txn ≠ m.txn) →
      ∃ t : State, exec (.baseDieCacheRead k m false) s = .next t ∧
        t.sent = s.sent ++ [.coh 1 (homeDieOf m.line) { m with agent := k.val, sender := k.val, master := false }] ∧
        (t.baseCache k.val).wants = (s.baseCache k.val).wants ++
          [{ kind := .rdS, msg := { m with agent := k.val, sender := k.val, master := false }, data := none, cmp := false, refused := false, back := [m] }] ∧ t.pool = s.pool) ∧
    (∀ (n : ClusterId) (l : Nat) (x : L2Line), (s.l2 n.val).lines = ⟨[(l, x)]⟩ → x.st = .M → x.age < 8 →
      ∃ t : State, exec (.dirtyAgeTick n) s = .next t ∧ t.l2Line n.val l = some { x with age := x.age + 1 } ∧ t.sent = s.sent ∧ t.pool = s.pool) ∧
    (∀ (l : Nat) (d : List Byte), s.lineBlocked l = false → s.buffered l = some d → s.lineFenced l = false →
      ∃ t : State, exec (.msauIdleRelease l) s = .next t ∧ StoresLine s t l fullMask d ∧ (t.line l).entry = none ∧ t.buffered l = none)

/-- For every state in which a core's control core has fetched a 32-bit word. T.WAIT on a counter without an error that has reached its target, and T.WAITALL on one whose tokens are all here, advance the pc; otherwise the core waits. T.TKCLR of a counter that is done clears DONE and EXPECT. T.TKDONE and T.GRGET write the counter's DONE and the grant count to rd; T.GRANT without overflow adds the low byte of rs1 to the grant count; T.INVAL empties the L1 caches; T.END makes the core wait for its end. CVT.H2D and CVT.D2H write the pointer through the window: 0 for 0, the translated address inside the window, else 0x8000_0000_0000_0000. A register x0 keeps reading zero. Nothing but the core changes after the fetch. -/
def Obligations.TileControlInstructions : Prop :=
  ∀ (s s' : State) (c : CoreId), CoreFetched s c.val 4 s' →
    let k := s'.core c.val
    let next (k : Core) : Core := { k with pc := k.pc + 4 }
    let gives (o : Outcome) (k' : Core) : Prop := ∃ t, o = .next t ∧ t.core c.val = k' ∧ OnlyCore s' t c.val
    (∀ tk rs1 : Fin 32, k.tkErr.getLsbD tk.val = false →
      ((k.tkDone.get 0 tk.val - (k.reg rs1.val).setWidth 32).msb = false → gives (exec (.tWait c tk rs1) s) (next k)) ∧
      ((k.tkDone.get 0 tk.val - (k.reg rs1.val).setWidth 32).msb = true →
        gives (exec (.tWait c tk rs1) s) { k with waiting := some (.wait tk.val ((k.reg rs1.val).setWidth 32)) })) ∧
    (∀ tk : Fin 32, k.tkErr.getLsbD tk.val = false → k.allDone tk.val = true →
      gives (exec (.tWaitall c tk) s) (next k) ∧
      ∃ t : State, exec (.tTkclr c tk) s = .next t ∧ (t.core c.val).tkDone.get 0 tk.val = 0 ∧ (t.core c.val).tkExpect.get 0 tk.val = 0 ∧
        (t.core c.val).pc = k.pc + 4 ∧ OnlyCore s' t c.val) ∧
    (∀ rd tk : Fin 32, ∃ t : State, exec (.tTkdone c rd tk) s = .next t ∧
      (t.core c.val).reg rd.val = (if rd.val = 0 then 0 else (k.tkDone.get 0 tk.val).setWidth 64) ∧ (t.core c.val).pc = k.pc + 4 ∧ OnlyCore s' t c.val) ∧
    (∀ (gr : Fin 4) (rs1 : Fin 32), k.grants.get 0 gr.val + fieldOf (k.reg rs1.val) 7 0 ≤ 255 → ∃ t : State, exec (.tGrant c gr rs1) s = .next t ∧
      (t.core c.val).grants.get 0 gr.val = k.grants.get 0 gr.val + fieldOf (k.reg rs1.val) 7 0 ∧ (t.core c.val).pc = k.pc + 4 ∧ OnlyCore s' t c.val) ∧
    (∀ (rd : Fin 32) (gr : Fin 4), ∃ t : State, exec (.tGrget c rd gr) s = .next t ∧
      (t.core c.val).reg rd.val = (if rd.val = 0 then 0 else BitVec.ofNat 64 (k.grants.get 0 gr.val)) ∧ (t.core c.val).pc = k.pc + 4 ∧ OnlyCore s' t c.val) ∧
    gives (exec (.tInval c) s) (next { k with l1d := ⟨[]⟩, l1i := [] }) ∧
    gives (exec (.tEnd c) s) { k with phase := 2, waiting := some .ending } ∧
    (∀ (rd rs1 : Fin 32) (w : Fin 4) (a : AsDesc) (lo hi len : DWord), k.space = some a → a.windows[w.val]? = some (lo, hi, len) → rd.val ≠ 0 →
      let v := k.reg rs1.val
      (∃ t : State, exec (.cvtH2d c rd rs1 w) s = .next t ∧ (t.core c.val).pc = k.pc + 4 ∧ OnlyCore s' t c.val ∧
        (t.core c.val).reg rd.val = if v = 0 then 0 else if lo ≤ v ∧ v - lo < len then v - lo + hi else 0x8000000000000000) ∧
      ∃ t : State, exec (.cvtD2h c rd rs1 w) s = .next t ∧ (t.core c.val).pc = k.pc + 4 ∧ OnlyCore s' t c.val ∧
        (t.core c.val).reg rd.val = if v = 0 then 0 else if hi ≤ v ∧ v - hi < len then v - hi + lo else 0x8000000000000000)

/-- For every state in which a core's control core has fetched a word, by what the word decodes to: constants, register and immediate arithmetic write rd and advance the pc by the word's length; jumps write the return address and go to their target; branches go to their target where the condition holds and advance otherwise. An aligned load in the Pantry's aperture, of a Pantry without poison or bit errors, writes the loaded value; an aligned store there writes the Pantry's bytes. ECALL traps: with no self-test held back, the core's part of its kernel ends with kernel trap and cause 8. -/
def Obligations.ControlCoreInstructions : Prop :=
  ∀ (s s' : State) (c : CoreId) (word : Word) (n : Nat), CoreFetched s c.val n s' →
    let k := s'.core c.val
    let run := exec (.controlCoreInstruction c word [] []) s
    let gives (k' : Core) : Prop := ∃ t, run = .next t ∧ t.core c.val = k' ∧ OnlyCore s' t c.val
    let result (rd : Nat) (v : DWord) : Prop := gives { k.setReg rd v with pc := k.pc + BitVec.ofNat 64 n }
    (∀ rd v, rvDecode false word = (.const rd v, n) → result rd v) ∧
    (∀ rd v, rvDecode false word = (.auipc rd v, n) → result rd (k.pc + v)) ∧
    (∀ w f3 rd rs1 imm v, rvDecode false word = (.opImm w f3 rd rs1 imm, n) → rvOpImm w f3 imm (k.reg rs1) = some v → result rd v) ∧
    (∀ w f3 f7 rd a b v, rvDecode false word = (.op w f3 f7 rd a b, n) → rvOpReg w f3 f7 (k.reg a) (k.reg b) = some v → result rd v) ∧
    (∀ rd imm, rvDecode false word = (.jal rd imm, n) → gives { k.setReg rd (k.pc + BitVec.ofNat 64 n) with pc := k.pc + imm }) ∧
    (∀ f3 a b imm, rvDecode false word = (.branch f3 a b imm, n) →
      gives { k with pc := if rvTaken f3 (k.reg a) (k.reg b) then k.pc + imm else k.pc + BitVec.ofNat 64 n }) ∧
    (∀ f3 rd rs1 imm, rvDecode false word = (.load f3 rd rs1 imm, n) → k.inAperture (k.reg rs1 + imm) = true →
      (k.reg rs1 + imm).toNat % rvBytes f3 = 0 → k.poisoned = [] → k.flaws = [] →
      result rd (rvLoaded f3 (leNat (k.pan (k.apOff (k.reg rs1 + imm)) (rvBytes f3))))) ∧
    (∀ f3 rs1 rs2 imm, rvDecode false word = (.store f3 rs1 rs2 imm, n) → k.inAperture (k.reg rs1 + imm) = true →
      (k.reg rs1 + imm).toNat % (leBytes (rvBytes f3) (k.reg rs2).toNat).length = 0 → k.poisoned = [] → k.flaws = [] →
      gives { k.panWrite (k.apOff (k.reg rs1 + imm)) (leBytes (rvBytes f3) (k.reg rs2).toNat) with pc := k.pc + BitVec.ofNat 64 n }) ∧
    (rvDecode false word = (.system 0 0 0 0, n) → ∀ l, k.kernel = some l → k.testDue = none → ∃ t, run = .next t ∧ CoreEnded s' t c.val l 0x106)

/-- The words of ADDI x1, x0, 5; of LUI x2, 0x12345; of JAL x1, +8; of LD x3, 16(x2); of BEQ x1, x2, +8; of ECALL; and of the compressed C.LI x5, 1, written out from the base encodings, decode to those instructions with their lengths. -/
def Obligations.ControlWordsDecode : Prop :=
  rvDecode false 0b00000000010100000000000010010011 = (.opImm false 0 1 0 5, 4) ∧
  rvDecode false 0b00010010001101000101000100110111 = (.const 2 0x12345000, 4) ∧
  rvDecode false 0b00000000100000000000000011101111 = (.jal 1 8, 4) ∧
  rvDecode false 0b00000001000000010011000110000011 = (.load 3 3 2 16, 4) ∧
  rvDecode false 0b00000000001000001000010001100011 = (.branch 0 1 2 8, 4) ∧
  rvDecode false 0b00000000000000000000000001110011 = (.system 0 0 0 0, 4) ∧
  rvDecode false 0b0100001010000101 = (.opImm false 0 5 0 1, 2)

/-- A legal 64-bit word with room, once the core's earlier remote stores are performed, joins its queue and the instructions in flight with its two scalars, the lowest free tag and its pc; an execute instruction with a counter advances EXPECT by one; the pc advances by 8. EXECUTE_QUEUE_PASS moves the head of the execute queue to the array's queue. TOKEN_WAIT_RELEASE lets a waiting control core go on once its target is reached. T_END_COMPLETE of a core that ends with nothing in flight, no live group and no error, and GRANT_STALL_TIMEOUT of a head whose missing credit alone keeps it from starting, with no self-test held back, end the core's part of the kernel with success and with code 0x109. -/
def Obligations.IssueAndEnd : Prop :=
  (∀ (s s' : State) (c : CoreId) (word : DWord), CoreFetched s c.val 8 s' → tileLegal word = true →
    let k := s'.core c.val
    let i : TileIns := {
      word := word, a := k.reg (fieldOf word 19 15), b := k.reg (fieldOf word 24 20), tag := BitVec.ofNat 8 k.freeTag, pc := k.pc, strict := fieldOf word 14 13 == 2 && k.vecCtrl.getLsbD 0, frm := bits k.vecCtrl.toNat 3 1, stages := [] }
    k.inflight.length < 256 → s'.writesOut (remAgent c.val .coreData) = false →
    (fieldOf word 14 13 = 0 → k.accq.length < 128 → ∃ t : State, exec (.tileIssue c word) s = .next t ∧
      t.core c.val = { k with accq := k.accq ++ [i], inflight := k.inflight ++ [i], pc := k.pc + 8 } ∧ OnlyCore s' t c.val) ∧
    (fieldOf word 14 13 ≠ 0 → k.exq.length < 128 → word.getLsbD 12 = false → ∃ t : State, exec (.tileIssue c word) s = .next t ∧
      (t.core c.val).exq = k.exq ++ [i] ∧ (t.core c.val).inflight = k.inflight ++ [i] ∧ (t.core c.val).pc = k.pc + 8 ∧
      (t.core c.val).tkExpect.get 0 (fieldOf word 11 7) = k.tkExpect.get 0 (fieldOf word 11 7) + 1 ∧ OnlyCore s' t c.val)) ∧
  (∀ (s : State) (c : CoreId), s.phase = .running →
    let k := s.core c.val
    (∀ i rest, k.mayStart = true → k.exq = i :: rest → i.cls = 1 → k.arrq.length < 8 → ∃ t : State, exec (.executeQueuePass c) s = .next t ∧
      t.core c.val = { k with exq := rest, arrq := k.arrq ++ [i] } ∧ OnlyCore s t c.val) ∧
    (∀ tk target, k.waiting = some (.wait tk target) → k.reached tk target = true → ∃ t : State, exec (.tokenWaitRelease c) s = .next t ∧
      t.core c.val = { k with waiting := none, pc := k.pc + 4 } ∧ OnlyCore s t c.val) ∧
    (∀ n, k.kernel = some n → k.waiting = some .ending → k.inflight = [] → k.watch.sample = none → k.groups.cells.all (fun g => g.2.live == 0) = true → k.tkErr = 0 → k.errTag = none →
      ∃ t : State, exec (.tEndComplete c) s = .next t ∧ CoreEnded s t c.val n 0) ∧
    (∀ n i rest, k.kernel = some n → k.mayStart = true → k.accq = i :: rest → k.freeSlot.isSome → k.acquire i = none → k.testDue = none →
      ∃ t : State, exec (.grantStallTimeout c .stream) s = .next t ∧ CoreEnded s t c.val n 0x109))

/-- For every instruction that heads the array's queue and may start, no self-test having fallen due. T.MMA of an absent operand of the format's group, not accumulating, will write zeros to every element, and of an empty buffer ends in array sequence 0x10D. T.SLOAD of an absent operand marks the shadow buffer absent. T.SWAP moves the shadow operand to the active buffer and empties the shadow. T.EWISE will write the 16,384 elements of its operation. T.STEST and ARRAY_SELF_TEST_DUE that match advance the test counter and leave memory as it is; one that falls due during a replay is kept for its end. Each takes its place among the array's running instructions. ARRAY_COMPLETION of an instruction without error, whose result is free to be written, writes its tile words, takes it out of flight and returns one token. -/
def Obligations.ArrayInstructions : Prop :=
  ∀ (s : State) (c : CoreId) (i : TileIns) (rest : List TileIns),
    let k := s.core c.val
    let quart := s.quartered c.val
    let started (t : State) (r : Running) : Prop := (t.core c.val).arrq = rest ∧ (t.core c.val).arr = k.arr ++ [r] ∧ r.ins = i ∧ t.pool = s.pool
    let sub := k.sub (i.ops 24 23)
    (ArrayHead s c.val 0 i rest → i.ops 27 27 = 0 →
      i.ops 18 16 ≠ 7 → (i.ops 22 21 = 0 ∨ i.ops 18 16 = 0) → (quart = true ∨ (i.ops 24 23 = 0 ∧ i.ops 20 19 = 0)) →
      blockOk (i.at_ (i.ops 15 0) 128) ((if quart then 64 else 128) * (mmaR (i.ops 18 16) * (if quart then 64 else 128) * fmtBits (i.ops 18 16) / 8)) = true →
      (∀ f, sub.active = .absent f → fmtGroup f = fmtGroup (i.ops 18 16) → ∃ t r, exec (.tMma c [] [] []) s = .next t ∧ started t r ∧ r.error = 0 ∧
        (∀ x ∈ r.words, x.2 = 0) ∧ r.words.length = (if quart then 4096 else 16384)) ∧
      (sub.active = .empty → ∃ t r, exec (.tMma c [] [] []) s = .next t ∧ started t r ∧ r.error = 0x10D ∧ r.words = [])) ∧
    (ArrayHead s c.val 1 i rest → i.ops 18 16 ≠ 7 → i.ops 20 19 ≠ 3 → (i.ops 22 21 = 0 ∨ i.ops 18 16 = 0) → (quart = true ∨ i.ops 24 23 = 0) →
      i.ops 25 25 = 1 → i.b.getLsbD (i.ops 31 26) = false → ∃ t r, exec (.tSload c []) s = .next t ∧ started t r ∧ r.error = 0 ∧
        (t.core c.val).sub (i.ops 24 23) = { sub with shadow := .absent (i.ops 18 16) }) ∧
    (ArrayHead s c.val 2 i rest → i.ops 31 25 = 0 → i.ops 22 0 = 0 → (quart = true ∨ i.ops 24 23 = 0) → sub.shadow ≠ .empty →
      ∃ t r, exec (.tSwap c) s = .next t ∧ started t r ∧ r.error = 0 ∧ (t.core c.val).sub (i.ops 24 23) = { sub with active := sub.shadow, shadow := .empty }) ∧
    (ArrayHead s c.val 3 i rest → i.ops 15 14 ≠ 3 → i.ops 12 0 = 0 → ∃ t r, exec (.tEwise c []) s = .next t ∧ started t r ∧ r.error = 0 ∧
        r.words = (List.range 16384).map (fun j => (i.ops 31 28 * 16384 + j, ewiseElement (i.ops 15 14) (i.ops 13 13 == 1)
          (k.tiles.get 0 (i.ops 27 24 * 16384 + j)) (k.tiles.get 0 (i.ops 23 20 * 16384 + j)) (k.tiles.get 0 (i.ops 19 16 * 16384 + j))))) ∧
    (ArrayHead s c.val 4 i rest → i.ops 31 1 = 0 → ∃ t r, exec (.tStest c true false) s = .next t ∧ started t r ∧ r.error = 0 ∧
      t.fld (coreDie c.val) (coreOff c.val 0x404) 15 0 = (s.fld (coreDie c.val) (coreOff c.val 0x404) 15 0 + 1) % 65536) ∧
    (s.phase = .running → s.dieOnline (coreDie c.val) = true → k.fenced = false → k.testing = false → k.resetting = false → k.testDue = none →
      (k.samplePhase = some 3 → ∃ t : State, exec (.arraySelfTestDue c true false) s = .next t ∧
        t.core c.val = { k with testDue := some (true, false) } ∧ OnlyCore s t c.val) ∧
      (k.samplePhase ≠ some 3 → ∃ t : State, exec (.arraySelfTestDue c true false) s = .next t ∧
      t.core c.val = { k with stPattern := !k.stPattern } ∧
      t.fld (coreDie c.val) (coreOff c.val 0x404) 15 0 = (s.fld (coreDie c.val) (coreOff c.val 0x404) 15 0 + 1) % 65536 ∧ t.pool = s.pool)) ∧
    (∀ r, s.phase = .running → k.arr = [r] → k.canWrite quart r.ins = true → r.error = 0 → r.nan = none → r.bytes = [] → r.tracker = none → k.waiting = none →
      fieldOf r.ins.word 28 27 ≠ 2 → r.ins.word.getLsbD 12 = false → ∃ t : State, exec (.arrayCompletion c) s = .next t ∧ (t.core c.val).arr = [] ∧
      (t.core c.val).tiles = r.words.foldl (fun m w => m.set 0 w.1 w.2) k.tiles ∧ (t.core c.val).inflight = k.inflight.filter (fun x => x.tag != r.ins.tag) ∧
      (t.core c.val).tkDone.get 0 (fieldOf r.ins.word 11 7) = k.tkDone.get 0 (fieldOf r.ins.word 11 7) + 1 ∧ OnlyCore s t c.val)

/-- For every instruction that heads the vector engine's queue and may start on a core without poisoned granules or bit errors in its Pantry: each of T.VCHAIN, T.RED, T.LD, T.ST, CVT.T and T.CUPD occupies the engine as the running instruction and leaves its queue. T.LD of a legal block of FP32 words will write the block's words to its tile register, T.ST of a legal block will write the tile register's words to the Pantry, and a legal T.RED, CVT.T, T.CUPD or chain into a tile register without a conversion or a reduction runs without error. VECTOR_COMPLETION of an instruction without error writes its words and bytes, raises its flags, frees the engine and returns one token. -/
def Obligations.VectorInstructions : Prop :=
  ∀ (s : State) (c : CoreId) (i : TileIns) (rest : List TileIns),
    let k := s.core c.val
    let runs (t : State) (r : Running) : Prop := (t.core c.val).vecq = rest ∧ (t.core c.val).vec = some r ∧ r.ins = i ∧ t.pool = s.pool
    k.poisoned = [] → k.flaws = [] →
    (VectorHead s c.val 0 i rest → i.spoiled = false → i.ops 23 22 = 0 → i.ops 21 20 < 2 → i.ops 19 18 = 1 → i.ops 17 17 = 0 →
      i.stages.length = i.ops 16 14 + 1 → i.ops 13 0 * 512 + 8 * (i.ops 16 14 + 1) ≤ pantrySize →
      (∀ w ∈ i.stages, stKind w ≠ 6 ∧ stKind w ≠ 8) → (∀ w ∈ i.stages.zipIdx, stageOk (i.ops 21 20) 0 (w.2 + 1 == i.ops 16 14 + 1) w.1 = true) →
      (∀ w ∈ i.stages, ∀ r ∈ stageRegions (i.ops 21 20) w, regionOk r = true) →
      ∃ t r, exec (.tVchain c []) s = .next t ∧ runs t r ∧ r.error = 0) ∧
    (VectorHead s c.val 1 i rest → i.ops 27 24 ≤ 9 → i.ops 22 21 < 2 → i.ops 20 19 = 1 → i.ops 17 0 = 0 → i.ops 18 18 = 0 →
      regionOk (i.a.toNat, (if i.ops 23 23 == 1 then wtWidth (i.ops 22 21) else 128) * redBytes (i.ops 22 21) (i.ops 27 24), redBytes (i.ops 22 21) (i.ops 27 24)) = true →
      ∃ t r, exec (.tRed c []) s = .next t ∧ runs t r ∧ r.error = 0) ∧
    (VectorHead s c.val 3 i rest → i.ops 27 25 = 0 → i.ops 24 24 = 0 → i.ops 23 16 = 0 → blockOk (i.at_ (i.ops 15 0) 128) 65536 = true →
      ∃ t r, exec (.tLd c []) s = .next t ∧ runs t r ∧ r.error = 0 ∧
        r.words = (List.range 16384).map (fun j => (i.ops 31 28 * 16384 + j, BitVec.ofNat 32 (elemAt 32 (k.pan (i.at_ (i.ops 15 0) 128) 65536) j)))) ∧
    (VectorHead s c.val 4 i rest → i.ops 27 16 = 0 → blockOk (i.at_ (i.ops 15 0) 128) 65536 = true →
      ∃ t r, exec (.tSt c) s = .next t ∧ runs t r ∧ r.error = 0 ∧
        r.bytes = placed (i.at_ (i.ops 15 0) 128) ((List.range 16384).flatMap (fun j => leBytes 4 (k.tiles.get 0 (i.ops 31 28 * 16384 + j)).toNat))) ∧
    (VectorHead s c.val 5 i rest → i.ops 31 28 ≤ 8 → i.ops 27 24 ≤ 8 → i.ops 15 0 ≠ 0 → i.ops 19 16 = 0 → i.ops 21 20 = 1 →
      blockOk i.a.toNat (i.ops 15 0 * 128 * (tyOf (i.ops 31 28)).width / 8) = true → blockOk i.b.toNat (i.ops 15 0 * 128 * (tyOf (i.ops 27 24)).width / 8) = true →
      rangesMeet i.a.toNat (i.ops 15 0 * 128 * (tyOf (i.ops 31 28)).width / 8) i.b.toNat (i.ops 15 0 * 128 * (tyOf (i.ops 27 24)).width / 8) = false →
      ∃ t r, exec (.cvtT c []) s = .next t ∧ runs t r ∧ r.error = 0) ∧
    (VectorHead s c.val 2 i rest → i.ops 26 16 = 0 → blockOk i.a.toNat 32768 = true → blockOk (i.ops 15 0 * 128) 32768 = true →
      rangesMeet i.a.toNat 32768 (i.ops 15 0 * 128) 32768 = false →
      ∃ t r, exec (.tCupd c []) s = .next t ∧ runs t r ∧ r.error = 0 ∧ (t.core c.val).stoch = k.stoch + 1) ∧
    (∀ r, s.phase = .running → k.vec = some r → k.canWrite (s.quartered c.val) r.ins = true → r.error = 0 → r.nan = none → r.tracker = none → k.waiting = none →
      fieldOf r.ins.word 28 27 ≠ 2 → r.ins.word.getLsbD 12 = false → ∃ t : State, exec (.vectorCompletion c) s = .next t ∧ (t.core c.val).vec = none ∧
      (t.core c.val).tiles = r.words.foldl (fun m w => m.set 0 w.1 w.2) k.tiles ∧ (t.core c.val).pantry = r.bytes.foldl (fun m b => m.set 0 b.1 b.2) k.pantry ∧
      (t.core c.val).vecFlags = k.vecFlags ||| r.flags ∧ (t.core c.val).inflight = k.inflight.filter (fun x => x.tag != r.ins.tag) ∧
      (t.core c.val).tkDone.get 0 (fieldOf r.ins.word 11 7) = k.tkDone.get 0 (fieldOf r.ins.word 11 7) + 1)

/-- For every state of a running package and core. NAN_TRAP of a core whose trap stands, its monitor handling no other trap and no self-test held back, ends its part of the kernel with code 0x114. WATCH_RECOMPUTE of a complete sample on an idle vector engine begins its recompute; WATCH_RECOMPUTE_DONE of a sample whose elements all agree frees the watch; WATCH_REPLAY of a sample that disagreed begins its replay; WATCH_REPLAY_DONE, with the vector engine free, frees the watch. WATCH_DIS_CLEAR clears the disagreement's flag and its record's valid bit. -/
def Obligations.NumericsWatch : Prop :=
  ∀ (s : State) (c : CoreId), s.phase = .running →
    let k := s.core c.val
    let die := coreDie c.val
    (∀ n, k.nanTrap = true → k.monitor = false → k.kernel = some n → k.ending = none → k.testDue = none → ∃ t : State, exec (.nanTrap c) s = .next t ∧ CoreEnded s t c.val n 0x114) ∧
    (∀ x, k.watch.sample = some x →
      (x.phase = 0 → x.complete = true → k.vec = none → k.fenced = false → ∃ t : State, exec (.watchRecompute c) s = .next t ∧
        t.core c.val = { k with watch := { k.watch with sample := some { x with phase := 1 } } } ∧ OnlyCore s t c.val) ∧
      (x.phase = 1 → (∀ e ∈ x.elements, (watchJudge x e.2.2.2.2.toNat (watchValues Mode.fast x e.2.2.1 e.2.2.2.1).1
          (watchValues Mode.fast x e.2.2.1 e.2.2.2.1).2.1 (watchValues Mode.fast x e.2.2.1 e.2.2.2.1).2.2).2 = false) → ∃ t : State, exec (.watchRecomputeDone c) s = .next t ∧
        t.core c.val = { k with watch := { k.watch with sample := none } } ∧ t.pool = s.pool ∧ t.sent = s.sent) ∧
      (x.phase = 2 → ∃ t : State, exec (.watchReplay c) s = .next t ∧
        t.core c.val = { k with watch := { k.watch with sample := some { x with phase := 3 } } } ∧ OnlyCore s t c.val) ∧
      (x.phase = 3 → k.vec = none → k.kernel = none → ∃ t : State, exec (.watchReplayDone c []) s = .next t ∧ (t.core c.val).watch.sample = none)) ∧
    ∃ t : State, exec (.watchDisClear c) s = .next t ∧ t.fld die (coreOff c.val 0x804) 3 3 = 0 ∧ t.fld die (coreOff c.val 0x820) 31 31 = 0 ∧ { t with csr := s.csr } = s

/-- For every group whose current path issues a legal word with no trap. A two-operand integer instruction (OP 0x00 to 0x0B) writes its 32-bit operation to VD in the executing lanes, leaves VD in the other lanes and every other vector register, and the path advances by 8; with UD it writes the lowest executing lane's result to the uniform register instead. An integer SETP writes the comparison to its predicate in the executing lanes, and POP its truth table's value; a predicate p0 reads true. G.VOTE ballot writes the predicate's live lanes to a uniform register. G.SHFL with FN 0 reads VA of the lane that VB names, G.COMPACT packs the selected lanes' values and writes their count, and G.EXPAND hands them out. Only the group and the core's counters change after the fetch. -/
def Obligations.GroupIntegerAndLanes : Prop :=
  ∀ (s s' : State) (c : CoreId) (g : GroupId) (w : DWord) (x : Group) (p : Path), GroupReady s c g w x p s' →
    let lanes := x.guard w p.mask
    (gOp w ≤ 0x0B → gUD w = false → gVD w ≠ 255 → ∃ (t : State) (y : Group), exec (.groupIntOp c g w) s = .next t ∧ GroupStep s' t c.val g.val y ∧
      y.ring.head? = some { p with pc := p.pc + 8 } ∧ y.ring.tail = x.ring.tail ∧
      (∀ l, l < 32 → y.vreg (gVD w) l = if lanes.getLsbD l then gInt (gOp w) (x.va w 0 l) (x.vreg (gVB w) l) else x.vreg (gVD w) l) ∧
      (∀ r l, r ≠ gVD w → l < 32 → y.vreg r l = x.vreg r l) ∧ y.u = x.u ∧ y.p = x.p) ∧
    (gOp w ≤ 0x0B → gUD w = true → ∀ l, (lanesOf lanes).head? = some l → ∃ (t : State) (y : Group), exec (.groupIntOp c g w) s = .next t ∧ GroupStep s' t c.val g.val y ∧
      y.ring.head? = some { p with pc := p.pc + 8 } ∧ y.u.get 0 (gVD w % 64) = gInt (gOp w) (x.va w 0 l) (x.vreg (gVB w) l) ∧
      (∀ r, r ≠ gVD w % 64 → y.u.get 0 r = x.u.get 0 r) ∧ y.v = x.v ∧ y.p = x.p) ∧
    (gOp w = 0x42 → gVD w % 8 ≠ 0 → ∃ t : State, exec (.setp c g w) s = .next t ∧ { (t.core c.val).group g.val with p := x.p } = { x.advance with promoted := false } ∧
      ∀ l, l < 32 → (((t.core c.val).group g.val).pred (gVD w % 8)).getLsbD l =
        if lanes.getLsbD l then cmpHolds (gFN w % 8) (some (compare (x.va w 0 l).toInt (x.vreg (gVB w) l).toInt)) else (x.pred (gVD w % 8)).getLsbD l) ∧
    (gOp w = 0x44 → gVD w % 8 ≠ 0 → ∃ t : State, exec (.pop c g w) s = .next t ∧ { (t.core c.val).group g.val with p := x.p } = { x.advance with promoted := false } ∧
      ∀ l, l < 32 → (((t.core c.val).group g.val).pred (gVD w % 8)).getLsbD l =
        if lanes.getLsbD l then bitAt (gFN w) (2 * b2n ((x.pred (gVA w % 8)).getLsbD l) + b2n ((x.pred (gVB w % 8)).getLsbD l)) else (x.pred (gVD w % 8)).getLsbD l) ∧
    (gOp w = 0x70 → gFN w = 2 → ∃ t : State, exec (.gVote c g w) s = .next t ∧
      ((t.core c.val).group g.val).u.get 0 (gVD w % 64) = x.pred (gVA w % 8) &&& x.live ∧ { (t.core c.val).group g.val with u := x.u } = { x.advance with promoted := false }) ∧
    (gOp w = 0x71 → gFN w = 0 → gUD w = false → gVD w ≠ 255 → ∃ t : State, exec (.gShfl c g w) s = .next t ∧
      ∀ l, l < 32 → ((t.core c.val).group g.val).vreg (gVD w) l = if lanes.getLsbD l then x.va w 0 ((x.vreg (gVB w) l).toNat % 32) else x.vreg (gVD w) l) ∧
    (gOp w = 0x72 → gUD w = false → gVD w ≠ 255 → ∃ t : State, exec (.gCompact c g w) s = .next t ∧
      ((t.core c.val).group g.val).u.get 0 (gVC w % 64) = BitVec.ofNat 32 (lanesOf (x.pred (gVB w % 8) &&& x.live)).length ∧
      ∀ l, l < 32 → ((t.core c.val).group g.val).vreg (gVD w) l = match (lanesOf (x.pred (gVB w % 8) &&& x.live))[l]? with | some j => x.va w 0 j | none => 0) ∧
    (gOp w = 0x73 → gUD w = false → gVD w ≠ 255 → ∃ t : State, exec (.gExpand c g w) s = .next t ∧
      ∀ l, l < 32 → lanes.getLsbD l = true → ((t.core c.val).group g.val).vreg (gVD w) l =
        if (x.pred (gVB w % 8) &&& x.live).getLsbD l then x.va w 0 ((lanesOf (x.pred (gVB w % 8) &&& x.live)).idxOf l) else 0)

/-- For every group whose current path issues a legal word with no trap. An FP32 instruction of OP 0x10 to 0x15 writes the operation's bits, in the mode the word names, to VD in the executing lanes; a CVT between 32-bit types without stochastic rounding writes its conversion. An FP32 SETP writes the comparison of its operands, in which a NaN is unordered, to its predicate. G.MMA on BF16 writes each element of its product with the accumulator to its eight registers. G.TLD reads the tile-register elements its lanes name and G.TST writes them, where no tile instruction uses the register. The path advances by 8. -/
def Obligations.GroupFloatAndTile : Prop :=
  ∀ (s s' : State) (c : CoreId) (g : GroupId) (w : DWord) (x : Group) (p : Path), GroupReady s c g w x p s' →
    let lanes := x.guard w p.mask
    let k := s'.core c.val
    let after (t : State) : Group := (t.core c.val).group g.val
    (0x10 ≤ gOp w → gOp w ≤ 0x15 → gUD w = false → gVD w ≠ 255 → ∃ t : State, exec (.groupFpOp c g w) s = .next t ∧
      (after t).ring.head? = some { p with pc := p.pc + 8 } ∧
      ∀ l, l < 32 → (after t).vreg (gVD w) l = if lanes.getLsbD l then
          BitVec.ofNat 32 (gFloat fp32 (k.gMode w) (gOp w % 16) (gFN w % 16) (s'.fresh + l) (x.va w 0 l).toNat (x.vreg (gVB w) l).toNat (x.vreg (gVC w) l).toNat).bits
        else x.vreg (gVD w) l) ∧
    (gOp w = 0x45 → gFN w / 16 ≠ 8 → gFN w % 16 ≠ 8 → bitAt (gVC w) 0 = false → gUD w = false → gVD w ≠ 255 → ∃ t : State, exec (.cvt c g w) s = .next t ∧
      (after t).ring.head? = some { p with pc := p.pc + 8 } ∧
      ∀ l, l < 32 → (after t).vreg (gVD w) l = if lanes.getLsbD l then
          BitVec.ofNat 32 (cvtTy (tyOf (gFN w / 16)) (tyOf (gFN w % 16)) (k.gMode w).strict (k.gMode w).rm (bitAt (gVC w) 1) (x.va w 0 l).toNat).bits
        else x.vreg (gVD w) l) ∧
    (gOp w = 0x40 → gVD w % 8 ≠ 0 → ∃ t : State, exec (.setp c g w) s = .next t ∧ (after t).ring.head? = some { p with pc := p.pc + 8 } ∧
      ∀ l, l < 32 → lanes.getLsbD l = true → ((after t).pred (gVD w % 8)).getLsbD l =
        cmpHolds (gFN w % 8) ((fp32.operand (k.gMode w) (x.va w 0 l).toNat).cmp (fp32.operand (k.gMode w) (x.vreg (gVB w) l).toNat))) ∧
    (gOp w = 0x74 → gFN w = 0 → gVD w + 8 ≤ 255 → ∃ t : State, exec (.gMma c g w) s = .next t ∧ (after t).ring.head? = some { p with pc := p.pc + 8 } ∧
      let halfAt (v : Word) (j : Nat) : Nat := if j % 2 = 0 then v.toNat % 65536 else v.toNat / 65536
      ∀ l j, l < 32 → j < 8 → (after t).vreg (gVD w + j) l = BitVec.ofNat 32 (gmmaElement fp32
        ((List.range 16).map (fun n => (halfAt (x.va w (n % 8 / 2) (l % 16 + 16 * (n / 8))) (n % 8),
          halfAt (x.vreg (gVB w + n % 8 / 2) (8 * (l / 16) + j + 16 * (n / 8))) (n % 8)))) (x.vreg (gVD w + j) l).toNat bf16).bits) ∧
    (gOp w = 0x80 → gUD w = false → gVD w ≠ 255 → (∀ m n, k.tileBusy (s'.quartered c.val) (gFN w % 16) m n = false) → ∃ t : State, exec (.gTld c g w) s = .next t ∧
      (after t).ring.head? = some { p with pc := p.pc + 8 } ∧ (t.core c.val).tiles = k.tiles ∧
      ∀ l, l < 32 → (after t).vreg (gVD w) l = if lanes.getLsbD l then k.tile (gFN w % 16) (x.element w l).1 (x.element w l).2 else x.vreg (gVD w) l) ∧
    (gOp w = 0x81 → (∀ m n, k.tileBusy (s'.quartered c.val) (gFN w % 16) m n = false) → ∃ t : State, exec (.gTst c g w) s = .next t ∧
      after t = { x.advance with promoted := false } ∧
      (t.core c.val).tiles = (lanesOf lanes).foldl (fun m l => m.set 0 (tileKey (gFN w % 16) (x.element w l).1 (x.element w l).2) (x.vreg (gVC w) l)) k.tiles)

/-- For every group whose current path issues a legal word with no trap, whose executing lanes name aligned addresses in the Pantry's aperture, on a core without poisoned granules or bit errors in its Pantry. A 32-bit LD without sign extension writes each executing lane's Pantry word to VD; ST writes the lanes' values to the Pantry in ascending lane order; a 32-bit AMO of one lane writes the old value to VD and the operation's result to the Pantry. G.FENCE without remote or host accesses outstanding advances the path, and an acquire beyond core scope empties the L1 data cache. The Pool is unchanged throughout. -/
def Obligations.GroupMemory : Prop :=
  ∀ (s s' : State) (c : CoreId) (g : GroupId) (w : DWord) (x : Group) (p : Path), GroupReady s c g w x p s' →
    let lanes := x.guard w p.mask
    let k := s'.core c.val
    let after (t : State) : Group := (t.core c.val).group g.val
    (k.poisoned = [] → k.flaws = [] → (∀ l ∈ lanesOf lanes, (x.addr w l).toNat % gMemBytes w = 0 ∧ k.inAperture (x.addr w l) = true) →
      (gOp w = 0x50 → gFN w % 16 = 2 → gVD w ≠ 255 → gUD w = false → ∃ t : State, exec (.ld c g w [] []) s = .next t ∧ (after t).ring.head? = some { p with pc := p.pc + 8 } ∧
        t.pool = s'.pool ∧ (t.core c.val).pantry = k.pantry ∧
        ∀ l, l < 32 → (after t).vreg (gVD w) l = if lanes.getLsbD l then BitVec.ofNat 32 (k.panNat (k.apOff (x.addr w l)) 4) else x.vreg (gVD w) l) ∧
      (gOp w = 0x51 → ∃ t : State, exec (.st c g w) s = .next t ∧ after t = { x.advance with promoted := false } ∧ t.pool = s'.pool ∧
        (t.core c.val).pantry = ((lanesOf lanes).foldl (fun (k : Core) l => k.panWrite (k.apOff (x.addr w l)) (x.storeBytes w l)) k).pantry) ∧
      (∀ l, gOp w = 0x52 → gFN w % 32 < 9 → gVD w ≠ 255 → gUD w = false → lanesOf lanes = [l] → ∃ t : State, exec (.amo c g w [] []) s = .next t ∧
        (after t).vreg (gVD w) l = BitVec.ofNat 32 (k.panNat (k.apOff (x.addr w l)) 4) ∧ t.pool = s'.pool ∧
        (t.core c.val).pantry = (k.panWrite (k.apOff (x.addr w l)) (leBytes 4
          (atomResult (gAtom (gFN w % 16)) 32 (k.panNat (k.apOff (x.addr w l)) 4) (leNat (x.storeBytes w l)) 0 faddAtomic))).pantry)) ∧
    (gOp w = 0x53 → s'.groupBusy c.val g = false → ∃ t : State, exec (.gFence c g w) s = .next t ∧ after t = { x.advance with promoted := false } ∧
      (t.core c.val).l1d = (if bitAt (gFN w) 2 && gFN w % 4 != 0 then ⟨[]⟩ else k.l1d) ∧ t.pool = s'.pool)

/-- For every group whose current path issues a legal word with no trap. G.BRA forward goes to its target when every lane of the path takes it, advances when none does, and otherwise leaves the lanes that take it as a second, ready path at the target after the one that advances. G.YIELD turns to the next ready path. G.CSET makes the path's lanes a convergence barrier's participants; G.CWAIT on an empty barrier advances. G.EXIT of every live lane ends the group. G.BAR holds the path at the barrier, and G_BAR_RELEASE frees a group that is the only live one. G.TKWAIT on a reached counter advances and otherwise holds the path, which G_TKWAIT_RELEASE frees; G.TKPOST advances DONE and EXPECT of its counter by one. GROUP_STARVATION_PROMOTION promotes a group with a ready path. -/
def Obligations.GroupControl : Prop :=
  (∀ (s s' : State) (c : CoreId) (g : GroupId) (w : DWord) (x : Group) (p : Path), GroupReady s c g w x p s' →
    let k := s'.core c.val
    let after (t : State) : Group := (t.core c.val).group g.val
    let target := p.pc + (gImm w).signExtend 64
    let step (o : Outcome) (y : Group) : Prop := ∃ t, o = .next t ∧ GroupStep s' t c.val g.val y
    (gOp w = 0x60 → (gImm w).toInt > 0 →
      (x.guard w p.mask = 0 → step (exec (.gBra c g w) s) x.advance) ∧
      (x.guard w p.mask = p.mask → p.mask ≠ 0 → step (exec (.gBra c g w) s) { x with ring := { p with pc := target } :: x.ring.tail }) ∧
      (x.guard w p.mask ≠ 0 → x.guard w p.mask ≠ p.mask → step (exec (.gBra c g w) s) { x with ring :=
        { p with pc := p.pc + 8, mask := p.mask &&& ~~~ x.guard w p.mask } :: { pc := target, mask := x.guard w p.mask, state := .ready } :: x.ring.tail })) ∧
    (gOp w = 0x61 → step (exec (.gYield c g w) s) x.advance.turn.1) ∧
    (gOp w = 0x62 → step (exec (.gCset c g w) s) { x.advance with mask := x.mask.set 0 (gVD w % 4) p.mask, arrived := x.arrived.set 0 (gVD w % 4) 0 }) ∧
    (gOp w = 0x63 → x.mask.get 0 (gVD w % 4) = 0 → step (exec (.gCwait c g w) s) x.advance) ∧
    (gOp w = 0x64 → x.live &&& ~~~ x.guard w p.mask = 0 → ∃ t : State, exec (.gExit c g w) s = .next t ∧ after t = Group.reset ∧ t.pool = s'.pool) ∧
    (gOp w = 0x65 → x.ring = [p] → step (exec (.gBar c g w) s) { x with ring := [{ p with pc := p.pc + 8, state := .barWait }] }) ∧
    (gOp w = 0x66 → k.reached (gVD w % 32) (x.u.get 0 (gVA w % 64)) = true → step (exec (.gTkwait c g w) s) x.advance) ∧
    (gOp w = 0x66 → k.reached (gVD w % 32) (x.u.get 0 (gVA w % 64)) = false → x.ring = [p] → step (exec (.gTkwait c g w) s)
      { x with ring := [{ p with pc := p.pc + 8, state := .tkWait (gVD w % 32) (x.u.get 0 (gVA w % 64)) }] }) ∧
    (gOp w = 0x67 → ∃ t : State, exec (.gTkpost c g w) s = .next t ∧ after t = { x.advance with promoted := false } ∧
      (t.core c.val).tkDone.get 0 (gVD w % 32) = k.tkDone.get 0 (gVD w % 32) + 1 ∧ (t.core c.val).tkExpect.get 0 (gVD w % 32) = k.tkExpect.get 0 (gVD w % 32) + 1)) ∧
  ∀ (s : State) (c : CoreId) (g : GroupId), s.phase = .running →
    let k := s.core c.val
    let x := k.group g.val
    (∀ p, k.runs = true → k.groups = ⟨[(g.val, x)]⟩ → x.live ≠ 0 → x.ring = [p] → p.state = .barWait → ∃ t : State, exec (.gBarRelease c) s = .next t ∧
      (t.core c.val).group g.val = { x with ring := [{ p with state := .ready }] } ∧ OnlyCore s t c.val) ∧
    (∀ p tk target, x.ring = [p] → p.state = .tkWait tk target → k.reached tk target = true → ∃ t : State, exec (.gTkwaitRelease c g) s = .next t ∧
      (t.core c.val).group g.val = { x with ring := [{ p with state := .ready }] } ∧ OnlyCore s t c.val) ∧
    (x.live ≠ 0 → k.runs = true → x.ring.any (fun p => p.state == .ready) = true → ∃ t : State, exec (.groupStarvationPromotion c g) s = .next t ∧
      (t.core c.val).group g.val = { x with promoted := true } ∧ OnlyCore s t c.val)

/-- For every state of a running package. KERNEL_START, the partition not quiesced, of a waiting launch of one idle, unblocked core that no earlier launch waits for puts the core in state running at the entry point, with the argument pointer in x10, its position 0 in x11, the number of cores in x12, its own ID in x13 and the stack pointer 0x60_0000 above the Pantry's aperture, no tokens expected or done and nothing queued, and marks the launch started. KERNEL_TIMEOUT of a started launch with a limit leaves none of its cores running it: a core that still holds it only lets its last stream instructions reach their chunk boundaries. -/
def Obligations.KernelStartAndTimeout : Prop :=
  ∀ (s : State) (n : Nat) (l : Launch), s.phase = .running → s.launch n = some l →
    (∀ c, l.started = false → s.partState l.part ≠ 4 → l.cores = [c] → c < 640 → s.launchBlock l.part c = none → (s.core c).isIdle = true →
      (∀ e ∈ s.launches.cells, e.1 < n → e.2.started = true ∨ c ∉ e.2.cores) → ∃ t : State, exec (.kernelStart n) s = .next t ∧
      t.launch n = some { l with started := true } ∧ (t.core c).phase = 1 ∧ (t.core c).pc = l.entry ∧ (t.core c).kernel = some n ∧
      (t.core c).reg 2 = l.pantryVa + 0x600000 ∧ (t.core c).reg 10 = l.args ∧ (t.core c).reg 11 = 0 ∧ (t.core c).reg 12 = 1 ∧
      (t.core c).reg 13 = BitVec.ofNat 64 c ∧ (t.core c).tkDone = ⟨[]⟩ ∧ (t.core c).tkExpect = ⟨[]⟩ ∧ (t.core c).inflight = [] ∧
      (l.clear = true → (t.core c).pantry = ⟨[]⟩ ∧ (t.core c).tiles = ⟨[]⟩) ∧ (l.clear = false → (t.core c).pantry = (s.core c).pantry) ∧ t.pool = s.pool) ∧
    (l.started = true → l.timeout ≠ 0 → ∃ t : State, exec (.kernelTimeout n) s = .next t ∧ ∀ c ∈ l.cores, (t.core c).kernel = some n → (t.core c).ending.isSome ∧ (t.core c).runs = false)

/-- For every state, of a core whose Pantry has no poison or bit errors. S_COPY of a plain copy or a fill of one run within the Pantry, whose descriptor passes its checks and whose source and destination do not overlap, leaves the destination's bytes equal to the source's or to the repeated pattern, every other Pantry byte as before, the Pool unchanged, and the slot with its one chunk written. S_ROUTE of one pair whose enabled expert has room writes the map entry that names the expert and the slot its counter gave. S_COMBINE of 32 FP32 elements of one used pair writes the product of the gate and each element, rounded once. PANTRY_SCRUB_INTERVAL advances the row pointer of exactly the banks that are not busy. PAN_ECC_FIRST_CLEAR clears the record of the first error. -/
def Obligations.StreamCommands : Prop :=
  (∀ (s : State) (c : CoreId) (i : TileIns) (rest : List TileIns) (n : Fin 16), StreamHead s c.val 0 i rest n →
    let k := s.core c.val
    let d := copyDesc (k.pan (i.ops 15 0 * 128) 128) i
    d.ok k = true → d.runCount = 1 → d.dstP = true → (d.mode = 0 ∧ d.srcP = true ∧ (d.src + d.len0 ≤ d.dst ∨ d.dst + d.len0 ≤ d.src)) ∨ d.mode = 3 →
    ∃ t : State, exec (.sCopy c [] []) s = .next t ∧ t.pool = s.pool ∧ (t.core c.val).accq = rest ∧
      (∀ j, j < d.len0 → (t.core c.val).pantry.get 0 (d.dst + j) = if d.mode = 3 then BitVec.ofNat 8 (d.aux / 2 ^ (8 * (j % 8))) else k.pantry.get 0 (d.src + j)) ∧
      (∀ a, a < d.dst ∨ d.dst + d.len0 ≤ a → (t.core c.val).pantry.get 0 a = k.pantry.get 0 a) ∧
      ((t.core c.val).slotAt n.val).phase = 3 ∧ ((t.core c.val).slotAt n.val).chunks = 1 ∧ ((t.core c.val).slotAt n.val).written = 1 ∧
      ((t.core c.val).slotAt n.val).returned = 0 ∧ ∀ e, e ≠ c.val → t.core e = s.core e) ∧
  (∀ (s : State) (c : CoreId) (i : TileIns) (rest : List TileIns) (n : Fin 16), StreamHead s c.val 1 i rest n →
    let k := s.core c.val
    let d := routeDesc (k.pan (i.ops 15 0 * 128) 128) i
    let e := k.panNat d.idx 2
    let x := k.expert d e
    d.routeOk = true → d.tableOk k d.len false = true → d.tokens = 1 → d.k = 1 → d.ctrl = 3 → e < d.experts → x.enabled = true → x.pan = true → k.panNat x.counter 8 < x.cap →
    (x.counter + 8 ≤ d.idx ∨ d.idx + 2 ≤ x.counter) → (x.counter + 8 ≤ d.table ∨ d.table + 32 * d.experts ≤ x.counter) →
    ∃ t : State, exec (.sRoute c [] []) s = .next t ∧ t.pool = s.pool ∧ (t.core c.val).panNat d.map 4 = e * 2 ^ 18 + k.panNat x.counter 8 ∧
      ((t.core c.val).slotAt n.val).phase = 3 ∧ ((t.core c.val).slotAt n.val).result = [1, 0, 0, 0] ∧ ∀ e, e ≠ c.val → t.core e = s.core e) ∧
  (∀ (s : State) (c : CoreId) (i : TileIns) (rest : List TileIns) (n : Fin 16), StreamHead s c.val 2 i rest n →
    let k := s.core c.val
    let d := routeDesc (k.pan (i.ops 15 0 * 128) 128) i
    let m := k.panNat d.map 4
    let x := k.expert d (m / 2 ^ 18)
    d.combineOk = true → d.tableOk k (d.len * d.isz) true = true → d.tokens = 1 → d.k = 1 → d.ctrl = 3 → d.len = 32 → m / 2 ^ 18 < d.experts → x.enabled = true → x.pan = true →
    panFits (x.outBase + m % 2 ^ 18 * 2 ^ x.log2) 128 = true →
    ∃ t : State, exec (.sCombine c [] []) s = .next t ∧ t.pool = s.pool ∧ ((t.core c.val).slotAt n.val).phase = 3 ∧
      (∀ a, a < d.row ∨ d.row + 128 ≤ a → (t.core c.val).pantry.get 0 a = k.pantry.get 0 a) ∧
      ∀ j, j < 32 → (t.core c.val).panNat (d.row + 4 * j) 4 =
        (fp32.fma Mode.fast (k.panNat d.idx 4) (k.panNat (x.outBase + m % 2 ^ 18 * 2 ^ x.log2 + 4 * j) 4) 0).bits) ∧
  (∀ (s : State) (c : CoreId) (busy : List (Fin 32)), s.phase = .running → s.dieOnline (coreDie c.val) = true → (s.core c.val).fenced = false →
    (s.core c.val).clock ≠ 2 → (s.core c.val).flaws = [] → ∃ t : State, exec (.pantryScrubInterval c busy []) s = .next t ∧ t.pool = s.pool ∧ (t.core c.val).pantry = (s.core c.val).pantry ∧
      ∀ b : Fin 32, (t.core c.val).scrubRow.get 0 b.val =
        if b ∈ busy then (s.core c.val).scrubRow.get 0 b.val else ((s.core c.val).scrubRow.get 0 b.val + 1) % 3072) ∧
  ∀ (s : State) (c : CoreId), s.phase = .running → ∃ t : State, exec (.panEccFirstClear c) s = .next t ∧ t.fld (coreDie c.val) (coreOff c.val 0x888) 31 0 = 0 ∧
    { t with csr := s.csr } = s

/-- For every state of a running package. CHUNK_COMPLETE of a slot with a written chunk that is not the last and no remote or host write of it outstanding delivers one token to the instruction's counter and counts the chunk returned. The last chunk of a plain copy delivers its token, takes the instruction out of flight and frees the slot, where the control core waits for nothing and the instruction releases no grant. PAGE_WALK for the control core's data access, whose walk from the root finds a leaf that permits it with A and D as they must be, ends the wait and leaves the translation in the core's data cache, with no memory changed. -/
def Obligations.ChunkTokensAndWalks : Prop :=
  (∀ (s : State) (c : CoreId) (n : Fin 16) (i : TileIns), s.phase = .running → ((s.core c.val).slotAt n.val).ins = some i →
    ((s.core c.val).slotAt n.val).error = 0 → ((s.core c.val).slotAt n.val).returned < ((s.core c.val).slotAt n.val).written → s.strBusy c.val n ((s.core c.val).slotAt n.val).returned = false →
    fieldOf i.word 12 12 = 0 →
    let x := (s.core c.val).slotAt n.val
    let tk := fieldOf i.word 11 7
    (x.returned + 1 < x.chunks → ∃ t : State, exec (.chunkComplete c n) s = .next t ∧ OnlyCore s t c.val ∧ (t.core c.val).slotAt n.val = { x with returned := x.returned + 1 } ∧
      (t.core c.val).tkDone.get 0 tk = (s.core c.val).tkDone.get 0 tk + 1 ∧ (t.core c.val).inflight = (s.core c.val).inflight) ∧
    (x.chunks ≤ x.returned + 1 → x.waiting = none → x.abort = false → i.func = 0 → (copyDesc x.desc i).mode ≠ 4 → (s.core c.val).waiting = none → fieldOf i.word 28 27 ≠ 2 →
      ∃ t : State, exec (.chunkComplete c n) s = .next t ∧ OnlyCore s t c.val ∧
      (t.core c.val).slotAt n.val = { StreamSlot.reset with cursor := x.cursor, faultVa := x.faultVa } ∧ (t.core c.val).pantry = (s.core c.val).pantry ∧
      (t.core c.val).tkDone.get 0 tk = (s.core c.val).tkDone.get 0 tk + 1 ∧ (t.core c.val).inflight = (s.core c.val).inflight.filter (fun y => y.tag != i.tag))) ∧
  ∀ (s : State) (c : CoreId) (va : DWord) (a : XlAccess) (d : AsDesc) (h : WalkHit), s.phase = .running → (s.core c.val).fenced = false →
    (s.core c.val).waiting = some (.walk va a) → a ≠ .execute → (s.core c.val).space = some d → s.xlWalk.get [] (coreDie c.val) = [] →
    s.walkFrom va 4 (fieldOf d.root 43 0) [] = .ok h → ptePermits h.pte a = true → pteA h.pte = true → (accWrites a = true → pteD h.pte = true) →
    ∃ t : State, exec (.pageWalk c .coreData va a false) s = .next t ∧ (t.core c.val).waiting = none ∧ t.pool = s.pool ∧ t.sent = s.sent ∧
      { leafEntry (s.core c.val).part (s.core c.val).slot (rootAsid d.root) va h.level h.pte with apart := h.apart } ∈ (t.core c.val).xlD ∧ (t.core c.val).pantry = (s.core c.val).pantry ∧
      ∀ e, e ≠ c.val → t.core e = s.core e

/-- For every hart that runs, with the instruction at its pc fetched. An ADD or SUB writes the sum or the difference modulo 2^64 to rd, where x0 takes nothing, and the pc advances by the instruction's length; JAL links and jumps; BEQ goes to its target exactly where its operands are equal; nothing else changes but the count of instructions. A tile instruction in machine mode is illegal: mepc, mcause and the pc take the values of the trap, and a reservation ends. WFI in machine mode leaves the hart in C1 behind the instruction, without a reservation. -/
def Obligations.HartInstructions : Prop :=
  ∀ (s s' : State) (m : HartId) (word : Word), HartReady s m.val word s' →
    let h := s'.hart m.val
    let n : DWord := if word.toNat % 4 = 3 then 4 else 2
    let i := rvDecode32 (fullWord word)
    (∀ f7 rd a b, i = .op false 0 f7 rd a b → f7 = 0 ∨ f7 = 0x20 → ∃ t : State, exec (.hartInstruction m word []) s = .next t ∧
      HartNext s' t m.val { h.setReg rd (if f7 = 0 then h.reg a + h.reg b else h.reg a - h.reg b) with pc := h.pc + n }) ∧
    (∀ rd imm, i = .jal rd imm → ∃ t : State, exec (.hartInstruction m word []) s = .next t ∧ HartNext s' t m.val { h.setReg rd (h.pc + n) with pc := h.pc + imm }) ∧
    (∀ a b imm, i = .branch 0 a b imm → ∃ t : State, exec (.hartInstruction m word []) s = .next t ∧
      HartNext s' t m.val { h with pc := if h.reg a = h.reg b then h.pc + imm else h.pc + n }) ∧
    (∀ q f7 sel rs1 f3 rd, i = .tile q f7 sel rs1 f3 rd → h.priv = 3 → ∃ t : State, exec (.hartInstruction m word []) s = .next t ∧
      (t.hart m.val).csr 0x341 = h.pc ∧ (t.hart m.val).csr 0x342 = 2 ∧ (t.hart m.val).priv = 3 ∧ (t.hart m.val).pc = tvecPc (h.csr 0x305) false 2 ∧
      (t.hart m.val).resv = none ∧ (t.hart m.val).x = h.x ∧ (∀ j, j ≠ m.val → t.hart j = s'.hart j) ∧ { t with harts := s'.harts } = s') ∧
    (word = 0x10500073 → h.priv = 3 → ∃ t : State, exec (.wfi m) s = .next t ∧ HartNext s' t m.val { h with state := 2, resv := none, delay := false, pc := h.pc + 4 })

/-- For every hart that runs, in every privilege mode, with the instruction at its pc fetched, and for every place that the access reaches. LR at an aligned address whose line the L2 takes in M or E, of the Pool or of companion memory, reserves the line, delays the L2's answers to snoops for it, loads the value into rd (x0 takes nothing) and goes on; SC with no reservation, or with one on another line, writes 1 and stores nothing; SC whose reservation holds stores into the line, which the L2 then has in M, writes 0, and ends the reservation, and those of the other harts of the cluster on the line; a misaligned one takes its trap. Where the mode may do them, cbo.clean of a line that no cache owns changes nothing but the pc, and of one that an L2 owns sends its dirty data back and leaves it E from M and S from O, a clean one as it is; cbo.flush and cbo.inval of an unblocked Pool line leave it in no L2 and no directory entry, with what was dirty or buffered in memory, and of a companion line leave it in no L2; cbo.zero of an unblocked Pool line makes it zero in memory and leaves it in no L2 and no directory entry, and sends any other place a write of zeros. Nothing else changes. -/
def Obligations.HartReservationsAndBlocks : Prop :=
  ∀ (s s' : State) (m : HartId) (word : Word), HartReady s m.val word s' →
    let h := s'.hart m.val
    let i := rvDecode32 (fullWord word)
    let n : DWord := if word.toNat % 4 = 3 then 4 else 2
    (∀ f3 rd rs1 : Nat, i = .amo 2 f3 rd rs1 0 → f3 = 2 ∨ f3 = 3 →
      ((h.reg rs1).toNat % 2 ^ f3 ≠ 0 → exec (.lr m word) s = .next (s'.modHart m.val (fun k => k.trap { cause := 4, tval := h.reg rs1, gpa := 0 }))) ∧
      ∀ (s'' s3 : State) (sp : HSpot) (l off : Nat) (x : L2Line), (h.reg rs1).toNat % 2 ^ f3 = 0 →
        s'.hProbe m.val { h.acc false true with write := false } (h.reg rs1) (2 ^ f3) 0 .read = .ok s'' sp → TakesLine s'' m.val sp s3 l off x →
        ∃ t : State, exec (.lr m word) s = .next t ∧ HartNext s3 t m.val
          { (Hart.setReg { s3.hart m.val with resv := some l, delay := true } rd (sext (8 * 2 ^ f3) (leNat ((x.data.drop off).take (2 ^ f3))))) with pc := (s3.hart m.val).pc + n }) ∧
    (∀ f3 rd rs1 rs2 : Nat, i = .amo 3 f3 rd rs1 rs2 → f3 = 2 ∨ f3 = 3 →
      ((h.reg rs1).toNat % 2 ^ f3 ≠ 0 → exec (.sc m word) s = .next (s'.modHart m.val (fun k => k.trap { cause := 6, tval := h.reg rs1, gpa := 0 }))) ∧
      ((h.reg rs1).toNat % 2 ^ f3 = 0 →
        (h.resv = none → ∃ t : State, exec (.sc m word) s = .next t ∧ HartNext s' t m.val { (h.setReg rd 1) with resv := none, delay := false, pc := h.pc + n }) ∧
        ∀ (s'' : State) (sp : HSpot) (l0 : Nat), h.resv = some l0 → s'.hProbe m.val (h.acc true false) (h.reg rs1) (2 ^ f3) 0 .write = .ok s'' sp →
          let k := s''.hart m.val
          ((spotLine sp).map (·.1) ≠ some l0 → ∃ t : State, exec (.sc m word) s = .next t ∧ HartNext s'' t m.val { (k.setReg rd 1) with resv := none, delay := false, pc := k.pc + n }) ∧
          ∀ (s3 : State) (off : Nat) (x : L2Line), TakesLine s'' m.val sp s3 l0 off x →
            let b := leBytes (2 ^ f3) (h.reg rs2).toNat
            ∃ t : State, exec (.sc m word) s = .next t ∧ t.pool = s3.pool ∧ (t.hart m.val).resv = none ∧ (t.hart m.val).reg rd = 0 ∧ (t.hart m.val).pc = (s3.hart m.val).pc + n ∧
              (∀ r : Nat, r ≠ rd → (t.hart m.val).reg r = (s3.hart m.val).reg r) ∧ (∃ y : L2Line, t.l2Line (hartCluster m.val) l0 = some y ∧ y.st = .M ∧ y.poison = false ∧
              y.data = x.data.take off ++ b ++ x.data.drop (off + 2 ^ f3)) ∧ (∀ j : Nat, hartCluster j ≠ hartCluster m.val → t.hart j = s3.hart j) ∧
              (∀ j : Nat, hartCluster j = hartCluster m.val → j ≠ m.val → t.hart j = if (s3.hart j).resv = some l0 then { s3.hart j with resv := none, delay := false } else s3.hart j) ∧
              { t with harts := s3.harts, l2s := s3.l2s } = s3)) ∧
    (∀ (r : Fin 32) (s2 : State) (l : Nat), CboLine s' m.val (BitVec.ofNat 64 ((h.reg r.val).toNat / 128 * 128)) s2 l →
      let k := s2.hart m.val
      (word = BitVec.ofNat 32 (encI 0x0F 2 0 r.val 1) → CboMay h 1 →
        (s2.ownerOf l = none → ∃ t : State, exec (.cboClean m r) s = .next t ∧ HartNext s2 t m.val { k with pc := k.pc + 4 }) ∧
        ∀ (c : Nat) (x : L2Line), s2.ownerOf l = some (c, x) → s2.l2Line c l = some x →
          (x.st = .E → ∃ t : State, exec (.cboClean m r) s = .next t ∧ HartNext s2 t m.val { k with pc := k.pc + 4 }) ∧
          (x.st = .M ∨ x.st = .O → ∃ t : State, exec (.cboClean m r) s = .next t ∧ HartNext (s2.l2Clean c l) t m.val { k with pc := k.pc + 4 } ∧
            t.l2Line c l = some { x with st := if x.st = .M then .E else .S, age := 0 } ∧ t.pool = s2.pool ∧
            ∃ (d : Nat) (q : CohMsg), t.sent = s2.sent ++ [.coh 10 d q] ∧ q.line = l ∧ q.data = x.data ∧ (isHost l = false → d = homeDieOf l))) ∧
      ∀ c : Instr, (c = .cboFlush m r ∧ word = BitVec.ofNat 32 (encI 0x0F 2 0 r.val 2) ∧ CboMay h 2 ∨ c = .cboInval m r ∧ word = BitVec.ofNat 32 (encI 0x0F 2 0 r.val 0) ∧ CboMay h 0) →
        s2.lineBlocked l = false → s2.l2Busy (hartCluster m.val) l = false →
        ∃ t : State, exec c s = .next t ∧ HartNext (s2.flushLine l) t m.val { (s2.flushLine l).hart m.val with pc := ((s2.flushLine l).hart m.val).pc + 4 } ∧
          (isHost l = false → (t.line l).entry = none ∧ (∀ c : Nat, t.l2Line c l = none) ∧
            ((s2.ownerOf l).isSome ∨ (s2.buffered l).isSome ∨ (s2.inBuffer l).isSome → (s2.lineNow l).2 = false → s2.lineFenced l = false → s2.lineHeld l = false →
              StoresLine s2 t l fullMask (s2.lineNow l).1))) ∧
    ∀ (r : Fin 32) (s1 : State) (a : HAddr), let line := BitVec.ofNat 64 ((h.reg r.val).toNat / 128 * 128)
      let zeros : List Byte := List.replicate 128 0
      word = BitVec.ofNat 32 (encI 0x0F 2 0 r.val 4) → CboMay h 4 → s'.hTranslate h (s'.hartPart m.val) (h.acc true false) line = .ok s1 a →
      (a.host = true → a.pbmt = 0 → ∀ p : Nat, s1.hartPart m.val = some p → s1.hostReachable p = true → ∃ (u t : State) (w : HostWrite), exec (.cboZero m r) s = .next t ∧
        HartNext u t m.val { u.hart m.val with pc := (u.hart m.val).pc + 4 } ∧ w ∈ t.hostWrites ∧ w.agent = .hart m.val ∧ w.part = p ∧ w.line = hostLine a.pa) ∧
      ∀ (s2 : State) (sp : HSpot), (a.host = false ∨ a.pbmt ≠ 0) → s1.hProbe m.val (h.acc true false) line 128 0 .write = .ok s2 sp →
        (∀ ph b : Nat, sp = .pool ph b → s2.lineBlocked (ph / 128) = false → s2.l2Busy (hartCluster m.val) (ph / 128) = false →
          ∃ t : State, exec (.cboZero m r) s = .next t ∧ HartNext (s2.writePhys ph zeros) t m.val { (s2.writePhys ph zeros).hart m.val with pc := ((s2.writePhys ph zeros).hart m.val).pc + 4 } ∧
          (t.line (ph / 128)).entry = none ∧ (∀ c : Nat, t.l2Line c (ph / 128) = none) ∧
          (ph % 128 = 0 → s2.lineFenced (ph / 128) = false → s2.lineHeld (ph / 128) = false → StoresLine s2 t (ph / 128) fullMask zeros)) ∧
        ((∀ ph b : Nat, sp ≠ .pool ph b) → ∀ s3 : State, s2.hWrite m.val sp zeros = .ok s3 () → ∃ t : State, exec (.cboZero m r) s = .next t ∧
          HartNext s3 t m.val { s3.hart m.val with pc := (s3.hart m.val).pc + 4 })

/-- For every state of a running package. LR_SNOOP_DELAY_EXPIRY with no snoop delayed ends the hart's delay and changes no other hart. C2_ENTRY_TIMER takes a hart from C1 to C2 and invalidates its L1s; C3_ENTRY_TIMER takes the four harts of a cluster from C2 to C3 where the L2 holds nothing. HART_WAKE of an unfenced hart in C1 or C2 with a pending enabled interrupt runs it, and only it. INTERRUPT_FILE_WRITE of an identity the file holds makes it pending, leaves every other identity of every file as it was, and at a fenced hart only counts the dropped write. -/
def Obligations.HartEvents : Prop :=
  ∀ (s : State) (m : HartId), s.phase = .running →
    let h := s.hart m.val
    ((s.l2 (hartCluster m.val)).delayed = [] → ∃ t : State, exec (.lrSnoopDelayExpiry m) s = .next t ∧ t.hart m.val = { h with delay := false } ∧
      (∀ j, j ≠ m.val → t.hart j = s.hart j) ∧ { t with harts := s.harts, l2s := s.l2s } = s ∧ t.l2 (hartCluster m.val) = s.l2 (hartCluster m.val)) ∧
    (h.state = 2 → h.fenced = false → ∃ t : State, exec (.c2EntryTimer m) s = .next t ∧ t.hart m.val = { h with state := 3 } ∧ (∀ j, j ≠ m.val → t.hart j = s.hart j) ∧
      t.l1s = s.l1s.del m.val ∧ { t with harts := s.harts, l1s := s.l1s } = s) ∧
    (∀ c : ClusterId, (∀ i, i < 4 → (s.hart (4 * c.val + i)).state = 3) → (s.l2 c.val).lines = ⟨[]⟩ → (s.l2 c.val).buffer = [] → (s.l2 c.val).wants = [] →
      ∃ t : State, exec (.c3EntryTimer c) s = .next t ∧ (∀ i, i < 4 → t.hart (4 * c.val + i) = { s.hart (4 * c.val + i) with state := 4 }) ∧
      (∀ j, j / 4 ≠ c.val → t.hart j = s.hart j) ∧ t.pool = s.pool ∧ t.sent = s.sent) ∧
    (h.state = 2 ∨ h.state = 3 → h.fenced = false → Nat.land (s.hartMip h) (h.csr 0x304).toNat ≠ 0 → ∃ t : State, exec (.hartWake m) s = .next t ∧
      t.hart m.val = { h with state := 1 } ∧ (∀ j, j ≠ m.val → t.hart j = s.hart j) ∧ { t with harts := s.harts, l2s := s.l2s } = s) ∧
    ∀ (f : Fin 9) (id : Word), 1 ≤ id.toNat → id.toNat ≤ fileMax f.val →
      (h.fenced = false → ∃ t : State, exec (.interruptFileWrite m f id) s = .next t ∧ (∀ g n, n ∈ (t.hart m.val).files.get [] g ↔ n ∈ h.files.get [] g ∨ (g = f.val ∧ n = id.toNat)) ∧
        { t.hart m.val with files := h.files } = h ∧ (∀ j, j ≠ m.val → t.hart j = s.hart j) ∧ { t with harts := s.harts } = s) ∧
      (h.fenced = true → ∃ t : State, exec (.interruptFileWrite m f id) s = .next t ∧ t.hart m.val = { h with dropped := min 255 (h.dropped + 1) } ∧ { t with harts := s.harts } = s)

/-- For every state of a running package. FLIT_RECEIVE at an ACTIVE port takes the ACK of a payload flit in sequence and counts it to be acknowledged, and acknowledges with the 64th; a flit whose CRC is not that of its bytes is discarded and asks once for a replay; an idle flit gives its credits. FLIT_ACK_DUE acknowledges by one idle flit where no credit is owed. REPLAY_REQUEST_FLIT sends the flits that its ACK does not cover again, in order, and counts a replay of each, where none has been replayed eight times. RETRAIN_REQUEST_FLIT holds the link in retraining, and LINK_RETRAIN_DONE makes it ACTIVE again, with the next time exchange as the first, or counts a failed attempt; without a half of whole lanes no attempt succeeds. LINK_TRAIN from SL0 on of an enabled port that is not fenced, without failed lanes, makes it ACTIVE with the lanes its entry and the level name, with at least 64 credits of each class and new sequence numbers. TIME_EXCHANGE sends the device time. The first TS_RSP sets the port's offset. MSI of an unmasked vector sends its message, of a masked one sets PENDING. -/
def Obligations.LinkTraffic : Prop :=
  ∀ (s : State), s.phase = .running →
    (∀ (p : JxlPort) (f : Flit), s.linkSt (.jxl p) = 2 →
      let k := s.link (.jxl p)
      (f.ftype = 0 → f.seq = k.rxSeq + 1 → ∃ t : State, exec (.flitReceive p f (flitCrc (.jxl p) f) 0 0) s = .next t ∧ (t.link (.jxl p)).rxSeq = f.seq ∧
        (t.link (.jxl p)).unacked = (if 64 ≤ k.unacked + 1 then 0 else k.unacked + 1) ∧ (t.link (.jxl p)).discarding = false ∧ t.pool = s.pool) ∧
      (∀ crc : DWord, crc ≠ flitCrc (.jxl p) f → k.discarding = false → ∃ t : State, exec (.flitReceive p f crc 0 0) s = .next t ∧ t.link (.jxl p) = { k with discarding := true } ∧
        t.sent = s.sent ++ [.linkFlit (.jxl p) { seq := 0, ack := k.rxSeq, ftype := 2, crdClass := 0, crdSlots := 0, slots := [] }]) ∧
      (f.ftype = 1 → k.discarding = false → k.replay = [] → k.replays = ⟨[]⟩ → k.writes = [] → k.sendHeld = [] → s.msiDue = [] → ∃ t : State, exec (.flitReceive p f (flitCrc (.jxl p) f) 0 0) s = .next t ∧
        t.link (.jxl p) = { k with credits := k.credits.set 0 f.crdClass (k.credits.get 0 f.crdClass + f.crdSlots) } ∧ t.sent = s.sent)) ∧
    (∀ l : LinkId, s.linkSt l = 2 →
      let k := s.link l
      (k.unacked ≠ 0 → k.owed = ⟨[]⟩ → ∃ t : State, exec (.flitAckDue l) s = .next t ∧ t.link l = { k with unacked := 0 } ∧
        t.sent = s.sent ++ [.linkFlit l { seq := 0, ack := k.rxSeq, ftype := 1, crdClass := 0, crdSlots := 0, slots := [] }]) ∧
      (∀ ack, (k.acked ack).replay ≠ [] → (∀ f ∈ (k.acked ack).replay, (k.acked ack).tries f < 8) → k.sendHeld = [] → s.msiDue = [] → ∃ t r, exec (.replayRequestFlit l ack) s = .next t ∧
        t.sent = s.sent ++ (k.acked ack).replay.map (fun f => .linkFlit l f) ++ r ∧ t.link l = (k.acked ack).countReplay ∧ (∀ f ∈ (k.acked ack).replay, f ∈ k.replay ∧ 2048 ≤ (ack - f.seq).toNat)) ∧
      (∃ t : State, exec (.retrainRequestFlit l) s = .next t ∧ t.linkSt l = 3 ∧ t.link l = { k with attempts := 0 } ∧ t.sent = s.sent)) ∧
    (∀ p : JxlPort, s.linkSt (.jxl p) = 3 →
      let k := s.link (.jxl p)
      (s.lanes (.jxl p) ≠ 0 → k.replay = [] → k.sendHeld = [] → ∃ t : State, exec (.linkRetrainDone p true) s = .next t ∧ t.linkSt (.jxl p) = 2 ∧
        t.link (.jxl p) = { k with replays := ⟨[]⟩, attempts := 0, tsFirst := true }) ∧
      (s.lanes (.jxl p) = 0 → ∃ t : State, exec (.linkRetrainDone p true) s = .next t ∧ t.linkSt (.jxl p) = 3) ∧
      (∃ t : State, exec (.linkRetrainDone p false) s = .next t ∧ t.linkSt (.jxl p) = 3 ∧ t.link (.jxl p) = { k with attempts := k.attempts + 1 })) ∧
    (∀ p : JxlPort, (s.linkPort p.val).enable = true → s.pins.jxlResetN = true → s.pins.ready = true → s.linkSt (.jxl p) ≤ 1 ∨ s.linkSt (.jxl p) = 4 → (s.link (.jxl p)).failed = 0 → s.fencedU.contains (.port, 2000 + p.val) = false →
      ∃ t : State, exec (.linkTrain p 0) s = .next t ∧ t.linkSt (.jxl p) = 2 ∧
      t.fld (92 + p.val) 0x80000 23 16 = (if (s.linkPort p.val).lanes16 = true ∧ 4 ≤ s.level then 16 else 8) ∧ (t.link (.jxl p)).txSeq = LinkState.reset.txSeq ∧
      (t.link (.jxl p)).rxSeq = LinkState.reset.rxSeq ∧ (t.link (.jxl p)).replay = [] ∧ (t.link (.jxl p)).tsFirst = true ∧
      ∀ c, c < 7 → 64 ≤ (t.link (.jxl p)).credits.get 0 c) ∧
    (∀ p : JxlPort, s.linkSt (.jxl p) = 2 → ∃ t m, exec (.timeExchange p) s = .next t ∧ t.sent = s.sent ++ [.link p m] ∧ m.opcode = 0x40 ∧
      m.data = padTo 64 (leBytes 8 s.now.toNat)) ∧
    (∀ (p : JxlPort) (t1 t2 t3 : DWord), s.linkSt (.jxl p) = 2 → (s.link (.jxl p)).tsFirst = true → ∃ t : State, exec (.tsRsp p t1 t2 t3) s = .next t ∧
      t.rd64 (92 + p.val) 0x80028 = BitVec.ofInt 64 (((t2 - t1).toInt + (t3 - s.now).toInt) / 2) ∧ t.link (.jxl p) = { s.link (.jxl p) with tsFirst := false } ∧ t.steer = s.steer) ∧
    ∀ (p : PartId) (v : Nat), v < 4096 →
      let e := (s.fn p.val).msi.get MsiEntry.reset v
      (e.mask = true → ∃ t : State, exec (.msi p v) s = .next t ∧ (t.fn p.val).msi.get MsiEntry.reset v = { e with pending := true } ∧ { t with fns := s.fns } = s) ∧
      (∀ h : s.partPort p.val < 2, e.mask = false → s.hostReachable p.val = true → ∃ t : State, exec (.msi p v) s = .next t ∧
        t.sent = s.sent ++ [.linkMsi ⟨s.partPort p.val, h⟩ p.val e.addr e.value] ∧ t.fns = s.fns)

/-- For every state of a running package and a port that carries traffic. NC_RD of a Pool place with no open transaction and no copy of the companion answers the bytes its owner, its nearest sharer or memory holds; of a register it answers the register; for a function of another port the status is UR. NC_WR of a masked line with nothing cached stores exactly the bytes of its mask and answers OK. NC_CMP with status OK gives a hart's read its data. BIAS_FLIP outside the partition's windows answers WINDOW and flips nothing, else it takes the flip of its pages; BIAS_FLIP_DONE of a flip whose one page every home has done changes the page's bias and answers. BIAS_DONE changes nothing. RETRAIN_LOST_TIMEOUT of a retraining port, and COMPANION_SNOOP_TIMEOUT of an active one with a snoop unanswered, put the port in training and mark every function of its partitions as lost, in a new episode. -/
def Obligations.CompanionRequests : Prop :=
  ∀ (s : State) (p : JxlPort) (m : LinkMsg), s.phase = .running →
    (s.linkSt (.jxl p) = 2 ∨ s.linkSt (.jxl p) = 3 →
      (s.fnOfPort p.val m.fn.val = false → ∃ (t : State) (r : LinkMsg), exec (.ncRd p m) s = .next t ∧ t.sent = s.sent ++ [.link p r] ∧ r.opcode = 0x22 ∧ r.status = 1 ∧ r.tag = m.tag ∧
        t.pool = s.pool ∧ t.csr = s.csr) ∧
      (∀ ph : Nat, s.ncDecode p m false = .pool ph → s.lineBlocked (ph / 128) = false → s.compHolds (ph / 128) false = false → HasWay s (ph / 128) →
        (s.lineRead (ph / 128) (dieStack (92 + p.val))).2 = false →
        s.buffered (ph / 128) = none → ∃ (t : State) (r : LinkMsg), exec (.ncRd p m) s = .next t ∧ t.sent = s.sent ++ [.link p r] ∧ r.opcode = 0x22 ∧ r.status = 0 ∧ r.tag = m.tag ∧
        r.data = ((s.lineRead (ph / 128) (dieStack (92 + p.val))).1.drop (ph % 128)).take (ncRange m).2 ∧ t.pool = s.pool) ∧
      (∀ a : Nat, s.ncDecode p m false = .csr a → ∃ (t : State) (r : LinkMsg), exec (.ncRd p m) s = .next t ∧ t.sent = s.sent ++ [.link p r] ∧ r.opcode = 0x22 ∧ r.status = 0 ∧
        r.data = leBytes (ncRange m).2 (s.csrRead a (ncRange m).2).toNat ∧ t.csr = s.csr) ∧
      (∀ ph : Nat, m.len = 3 → m.poison = false → s.ncDecode p m true = .pool ph → s.lineBlocked (ph / 128) = false → s.compHolds (ph / 128) true = false → HasWay s (ph / 128) → s.ncWait = [] →
        s.lineNow (ph / 128) = (s.memLine (ph / 128), false) → s.compNamed (ph / 128) = false → s.lineFenced (ph / 128) = false → s.lineHeld (ph / 128) = false →
        ∃ (t : State) (r : LinkMsg), exec (.ncWr p m) s = .next t ∧ StoresLine s t (ph / 128) m.mask m.data ∧ t.sent = s.sent ++ [.link p r] ∧ r.opcode = 0x22 ∧ r.status = 0 ∧
        (t.line (ph / 128)).entry = none) ∧
      (∀ (n : Nat) (x : HostRead), s.hostReads = [(m.tag, n)] → (s.hart n).nc = [x] → x.tag = m.tag → m.status = 0 → ∃ t : State, exec (.ncCmp p m) s = .next t ∧ t.hostReads = [] ∧
        (t.hart n).nc = [{ x with reply := some (padTo x.size m.data, m.poison) }] ∧ (∀ j : Nat, j ≠ n → t.hart j = s.hart j) ∧ t.sent = s.sent)) ∧
    (s.fnOfPort p.val m.fn.val = true → m.addr < 0x30000000000 → bits m.aux.toNat 20 1 = 0 →
      (s.windowOf m.fn.val (m.addr / 4096 * 4096) false false = none → ∃ (t : State) (r : LinkMsg), exec (.biasFlip p m) s = .next t ∧ t.sent = s.sent ++ [.link p r] ∧
        r.opcode = 0x29 ∧ r.status = 2 ∧ t.shared = s.shared ∧ t.flips = s.flips ∧ t.lines = s.lines) ∧
      ((s.windowOf m.fn.val (m.addr / 4096 * 4096) false false).isSome → s.setReady (m.addr / 4096 * 4096) = true → (∀ l ∈ s.pageLines (m.addr / 4096), s.inService (l * 128) = true) →
        ∃ (t : State) (f : Flip), exec (.biasFlip p m) s = .next t ∧ t.nextFlip = s.nextFlip + 1 ∧ t.flip s.nextFlip = some f ∧ f.pages = [m.addr / 4096] ∧
        f.toShared = m.aux.getLsbD 0 ∧ f.from_ = some (p, m) ∧ t.shared = s.shared)) ∧
    (∀ (n : Nat) (f : Flip) (g : Nat), s.flips = ⟨[(n, some f)]⟩ → f.pages = [g] → f.started = [g] → s.pageFlipped g f.toShared = true → f.from_ = some (p, m) → f.cmd = none →
      s.linkSt (.jxl p) = 2 → ∃ (t : State) (r : LinkMsg), exec (.biasFlipDone n) s = .next t ∧ t.flip n = none ∧ t.sent = s.sent ++ [.link p r] ∧ r.opcode = 0x29 ∧ r.status = 0 ∧
      ∀ q, q ∈ t.shared ↔ if q = g then f.toShared = true else q ∈ s.shared) ∧
    exec (.biasDone p m) s = .next s ∧
    (s.linkSt (.jxl p) = 3 → ∃ t : State, exec (.retrainLostTimeout p) s = .next t ∧ t.linkSt (.jxl p) = 1 ∧
      ∀ q : Nat, q < 8 → s.fnOfPort p.val q = true → (t.fn q).lost = true ∧ (t.fn q).episode = (s.fn q).episode + 1 ∧ (t.fn q).lostCause = 1) ∧
    (s.linkSt (.jxl p) = 2 → s.compPort = some p.val → s.lines.cells.any (fun c => match c.2.txn with | some t => t.snoops.contains 100 | none => false) = true →
      ∃ t : State, exec (.companionSnoopTimeout p) s = .next t ∧ t.linkSt (.jxl p) = 1 ∧
      ∀ q : Nat, q < 8 → s.fnOfPort p.val q = true → (t.fn q).lost = true ∧ (t.fn q).episode = (s.fn q).episode + 1 ∧ (t.fn q).lostCause = 2)

/-- For every state of a running package. FN_ENABLE with usable admin rings creates both admin queues empty, with phase 1, and sets ENABLE; clearing it on a function without queues clears ENABLE. SQ_DOORBELL with a tail outside the ring stops the queue with error 8; with one slot of a companion ring whose stamp matches it fetches the slot, and the head and the command's number advance. STAMP_REPOLL whose stamp does not match counts the read, and the seventh stops the queue with error 7. CQ_DOORBELL with a head inside the ring, where doorbells are not held, takes it. JXL_MSI_WRITE sets the vector's entry. CQ_INTERRUPT_TIMER with entries performed and not signalled signals the vector. COMMAND_COMPLETION, with the queue's host writes performed, of a quiet success posts nothing; any other result is written at the ring's tail in companion memory with the phase bit. -/
def Obligations.QueuesAndRings : Prop :=
  ∀ (s : State) (p : PartId), s.phase = .running →
    ((s.partEntry p.val).isSome → 1 ≤ s.level → (s.fn p.val).enable = false → (s.fn p.val).reportDue = false →
      s.ringOk p.val (s.fn p.val).sqBase (2 ^ bits (s.fn p.val).adminSize.toNat 4 0) (s.slotSize p.val) false = true →
      s.ringOk p.val (s.fn p.val).cqBase (2 ^ bits (s.fn p.val).adminSize.toNat 12 8) 64 true = true →
      ∃ t : State, exec (.fnEnable p true) s = .next t ∧ (t.fn p.val).enable = true ∧ t.pool = s.pool ∧ t.sent = s.sent ∧
        (∃ k : Sq, t.sq p.val 0 = some k ∧ k.base = (s.fn p.val).sqBase ∧ k.entries = 2 ^ bits (s.fn p.val).adminSize.toNat 4 0 ∧ k.cq = 0 ∧ k.head = 0 ∧ k.tail = 0 ∧
          k.n = 0 ∧ k.stopped = 0 ∧ k.fetched = [] ∧ k.running = [] ∧ k.results = []) ∧
        ∃ c : Cq, t.cq p.val 0 = some c ∧ c.base = (s.fn p.val).cqBase ∧ c.entries = 2 ^ bits (s.fn p.val).adminSize.toNat 12 8 ∧ c.head = 0 ∧ c.tail = 0 ∧ c.phase = true ∧ c.waiting = []) ∧
    ((s.partEntry p.val).isSome → 1 ≤ s.level → (∀ c ∈ s.sqs.cells, c.1 / 4096 ≠ p.val) → ∃ t : State, exec (.fnEnable p false) s = .next t ∧ (t.fn p.val).enable = false ∧
      t.sqs = s.sqs ∧ t.pool = s.pool ∧ t.sent = s.sent) ∧
    (∀ (q : Nat) (k : Sq), q < 4096 → s.sq p.val q = some k → s.partState p.val ≠ 5 → k.stopped = 0 → s.bellHeld p.val q = false →
      (∀ (v : Word) (b : List Byte), k.entries ≤ v.toNat → ∃ t : State, exec (.sqDoorbell p q v b) s = .next t ∧ t.sq p.val q = some { k with stopped := 8 }) ∧
      (∀ b : List Byte, k.head = 0 → 2 ≤ k.entries → k.fetched = [] → k.rereads = 0 → k.deleting = none → k.base.getLsbD 63 = true → b.length = s.slotSize p.val →
        leAt b 28 4 = k.stamp → ∃ t : State, exec (.sqDoorbell p q 1 b) s = .next t ∧
        t.sq p.val q = some { k with tail := 1, head := 1, n := k.n + 1, fetched := [slotOf b] } ∧ { t with sqs := s.sqs } = s)) ∧
    (∀ (q : Nat) (k : Sq) (b : List Byte), s.sq p.val q = some k → k.stopped = 0 → k.deleting = none → k.head ≠ k.tail → k.fetched.length < 8 → k.base.getLsbD 63 = true →
      b.length = s.slotSize p.val → leAt b 28 4 ≠ k.stamp → ∃ t : State, exec (.stampRepoll p q b) s = .next t ∧
      t.sq p.val q = some (if k.rereads < 6 then { k with rereads := k.rereads + 1 } else { k with stopped := 7 })) ∧
    (∀ (q : Nat) (c : Cq) (v : Word), q < 4096 → s.cq p.val q = some c → c.waiting = [] → v.toNat < c.entries → s.partState p.val ≠ 5 → (q = 0 ∨ (s.partState p.val ≠ 3 ∧ s.partState p.val ≠ 4)) →
      ∃ t : State, exec (.cqDoorbell p q v) s = .next t ∧ t.cq p.val q = some { c with head := v.toNat } ∧ { t with cqs := s.cqs } = s) ∧
    (∀ (v : Nat) (a : DWord) (x : Word) (mask : Bool), v < 4096 → (((s.fn p.val).msi.get MsiEntry.reset v).pending = false ∨ mask = true) →
      ∃ t : State, exec (.jxlMsiWrite p v a x mask) s = .next t ∧ { t with fns := s.fns } = s ∧ (∀ w : Nat, w ≠ v → (t.fn p.val).msi.get MsiEntry.reset w = (s.fn p.val).msi.get MsiEntry.reset w) ∧
      (t.fn p.val).msi.get MsiEntry.reset v = { addr := a, value := x, mask := mask, pending := ((s.fn p.val).msi.get MsiEntry.reset v).pending && mask }) ∧
    (∀ (q v : Nat) (c : Cq) (h : s.partPort p.val < 2), s.cq p.val q = some c → c.vector = some v → c.unsent ≠ 0 → s.writesOf p.val none = false → ((s.fn p.val).msi.get MsiEntry.reset v).mask = false →
      s.hostReachable p.val = true → ∃ t : State, exec (.cqInterruptTimer p q) s = .next t ∧ t.cq p.val q = some { c with unsent := 0 } ∧
      t.sent = s.sent ++ [.linkMsi ⟨s.partPort p.val, h⟩ p.val ((s.fn p.val).msi.get MsiEntry.reset v).addr ((s.fn p.val).msi.get MsiEntry.reset v).value]) ∧
    ∀ (q : Nat) (k : Sq) (r : CmdResult), s.sq p.val q = some k → k.results = [r] → k.deleting = none → s.writesOf p.val (some q) = false →
      (r.quiet = true → r.code = 0 → ∃ t : State, exec (.commandCompletion p q r.cid) s = .next t ∧ t.sq p.val q = some { k with results := [] } ∧ { t with sqs := s.sqs } = s) ∧
      (∀ (c : Cq) (h : s.partPort p.val < 2), r.quiet = false → s.cq p.val k.cq = some c → c.full = false → c.waiting = [] → c.vector = none →
        (c.base + BitVec.ofNat 64 (c.tail * 64)).getLsbD 63 = true → s.hostReachable p.val = true → ∃ t : State, exec (.commandCompletion p q r.cid) s = .next t ∧
        t.sq p.val q = some { k with results := [] } ∧ (∃ d : Cq, t.cq p.val k.cq = some d ∧ d.tail = (c.tail + 1) % c.entries ∧ d.head = c.head ∧ d.waiting = []) ∧
        t.sent = s.sent ++ [.hostWrite ⟨s.partPort p.val, h⟩ p.val (bits (c.base + BitVec.ofNat 64 (c.tail * 64)).toNat 51 0)
          ((cqEntry r.body q r.cid k.head r.code r.detail 0 s.now).set 47 (BitVec.ofNat 8 (b2n c.phase)))])

/-- For every state in which the command heads its queue, of its queue type, and starts. NOP ends with success and changes nothing else. QUEUE_CREATE and CQ_CREATE with fields in range and a usable ring create an empty queue; QUEUE_RESET gives a queue its new head, tail and number and runs it; QUEUE_DELETE of a queue with nothing waiting or started, and CQ_DELETE of one that no submission queue names, remove it. AS_BIND of a slot that no running kernel uses binds the descriptor it reads. XL_INVAL of a whole slot, the partition's cores having no access outstanding, leaves no translation of it in a core's caches. XL_RESOLVE of an unknown record is stale; RETRY ends the control core's wait. BIAS_SET takes the flip of its page and runs on. STATUS_READ sends the 160 bytes to companion memory; WRITE_INLINE of bytes within a line in service stores them; both end with success. -/
def Obligations.QueueCommandEffects : Prop :=
  ∀ (s s1 : State) (p : PartId) (q : Nat) (c : Slot) (k : Sq),
    (CmdReady s p q 0x42 s1 c k → ∃ t : State, exec (.nop p q) s = .next t ∧ CmdEnds t p q k c 0 ∧ { t with sqs := s1.sqs } = s1) ∧
    (CmdReady s p q 0x01 s1 c k → 1 ≤ c.target → c.target < (s1.linkPart p.val).queues → s1.sq p.val c.target = none → (s1.cq p.val (fieldOf c.arg1 47 32)).isSome →
      fieldOf c.arg1 47 32 < 4096 → fieldOf c.arg1 55 48 ≠ 0 → fieldOf c.arg1 63 56 = 0 → 16 ≤ fieldOf c.arg1 31 0 → fieldOf c.arg1 31 0 ≤ 65536 →
      (fieldOf c.arg1 31 0).isPowerOfTwo → s1.cmdAddrOk p.val c.arg0 (fieldOf c.arg1 31 0 * s1.slotSize p.val) false = true →
      ∃ (t : State) (n : Sq), exec (.queueCreate p q) s = .next t ∧ CmdEnds t p q k c 0 ∧ t.sq p.val c.target = some n ∧ n.base = c.arg0 ∧ n.entries = fieldOf c.arg1 31 0 ∧
        n.cq = fieldOf c.arg1 47 32 ∧ n.weight = fieldOf c.arg1 55 48 ∧ n.head = 0 ∧ n.tail = 0 ∧ n.n = 0 ∧ n.stopped = 0 ∧ n.fetched = []) ∧
    (∀ n : Sq, CmdReady s p q 0x02 s1 c k → c.target ≠ 0 → c.target < 4096 → s1.sq p.val c.target = some n → n.deleting = none → n.fetched = [] → n.running = [] → n.results = [] → n.head = n.tail →
      ∃ t : State, exec (.queueDelete p q) s = .next t ∧ t.sq p.val c.target = none ∧ CmdEnds t p q k c 0) ∧
    (∀ n : Sq, CmdReady s p q 0x03 s1 c k → c.target ≠ 0 → c.target < 4096 → s1.sq p.val c.target = some n → n.deleting = none → fieldOf c.arg1 31 0 < n.entries →
      ∃ t : State, exec (.queueReset p q) s = .next t ∧ CmdEnds t p q k c 0 ∧
      t.sq p.val c.target = some { n with head := fieldOf c.arg1 31 0, tail := fieldOf c.arg1 31 0, n := fieldOf c.arg1 63 32, stopped := 0, rereads := 0 }) ∧
    (CmdReady s p q 0x04 s1 c k → 1 ≤ c.target → c.target < (s1.linkPart p.val).queues → s1.cq p.val c.target = none → fieldOf c.arg1 47 32 < 4096 → fieldOf c.arg1 62 48 = 0 →
      16 ≤ fieldOf c.arg1 31 0 → fieldOf c.arg1 31 0 ≤ 65536 → (fieldOf c.arg1 31 0).isPowerOfTwo → s1.cmdAddrOk p.val c.arg0 (fieldOf c.arg1 31 0 * 64) true = true →
      ∃ (t : State) (n : Cq), exec (.cqCreate p q) s = .next t ∧ CmdEnds t p q k c 0 ∧ t.cq p.val c.target = some n ∧ n.base = c.arg0 ∧ n.entries = fieldOf c.arg1 31 0 ∧
        n.head = 0 ∧ n.tail = 0 ∧ n.phase = true ∧ n.vector = if c.arg1.getLsbD 63 then none else some (fieldOf c.arg1 47 32)) ∧
    (CmdReady s p q 0x05 s1 c k → c.target ≠ 0 → c.target < 4096 → (s1.cq p.val c.target).isSome → (∀ (x : Nat) (y : Sq), s1.sq p.val x = some y → y.cq ≠ c.target) →
      ∃ t : State, exec (.cqDelete p q) s = .next t ∧ CmdEnds t p q k c 0 ∧ t.cq p.val c.target = none) ∧
    (∀ (s2 : State) (b : List Byte) (d : AsDesc), CmdReady s p q 0x10 s1 c k → c.target < 256 → (∀ l ∈ s1.launches.cells, l.2.started = true → l.2.part = p.val → l.2.slot ≠ c.target) → c.arg0.getLsbD 63 = false →
      c.arg0.toNat % 128 = 0 → s1.cmdAddrOk p.val c.arg0 128 false = true → s1.rangeError c.arg0.toNat 128 = none → s1.rangeFree c.arg0.toNat 128 false = (s1, true) → s1.readLocal c.arg0.toNat 128 = some (s2, b, false) → asDescOf b = some d →
      ∃ t : State, exec (.asBind p q) s = .next t ∧ CmdEnds t p q k c 0 ∧ t.asSlot p.val c.target = some d ∧ t.pool = s2.pool) ∧
    (CmdReady s p q 0x11 s1 c k → s.coresOut p.val = false → c.target < 256 → c.arg1 = 0 → ∃ t : State, exec (.xlInval p q) s = .next t ∧ CmdEnds t p q k c 0 ∧ t.pool = s1.pool ∧
      ∀ core ∈ s1.partCores p.val, ∀ e ∈ (t.core core).xlI ++ (t.core core).xlD ++ (t.core core).xlS, e.vpn * 2 ^ (12 + 9 * e.level) < 2 ^ 64 → e.part = p.val → e.slot ≠ c.target) ∧
    (CmdReady s p q 0x12 s1 c k → c.target < 2 → s1.findRecord p.val c.arg2 = none → ∃ t : State, exec (.xlResolve p q) s = .next t ∧ CmdEnds t p q k c 9 ∧ { t with sqs := s1.sqs } = s1) ∧
    (∀ (core : Nat) (r : FaultRec), CmdReady s p q 0x12 s1 c k → c.target = 0 → s1.findRecord p.val c.arg2 = some (core, r) → (s1.core core).waiting = some (.record r.seq) →
      ∃ t : State, exec (.xlResolve p q) s = .next t ∧ CmdEnds t p q k c 0 ∧ (t.core core).waiting = none ∧ (∀ x ∈ (t.core core).records, x.seq ≠ r.seq) ∧ t.pool = s1.pool) ∧
    (CmdReady s p q 0x18 s1 c k → c.target ≤ 1 → c.arg0.toNat % 4096 = 0 → c.arg1 = 4096 → (s1.windowOf p.val c.arg0.toNat false false).isSome →
      ∃ (t : State) (f : Flip), exec (.biasSet p q) s = .next t ∧ t.flip s1.nextFlip = some f ∧ f.pages = [c.arg0.toNat / 4096] ∧ f.toShared = (c.target == 1) ∧
        f.cmd = some (p.val, q, c.cid) ∧ t.sq p.val q = some k ∧ t.shared = s1.shared) ∧
    (∀ h : s1.partPort p.val < 2, CmdReady s p q 0x28 s1 c k → c.arg0.getLsbD 63 = true → bits c.arg0.toNat 62 52 = 0 → s1.hostReachable p.val = true →
      ∃ t : State, exec (.statusRead p q) s = .next t ∧ CmdEnds t p q k c 0 ∧ t.pool = s1.pool ∧
      t.sent = s1.sent ++ [.hostWrite ⟨s1.partPort p.val, h⟩ p.val (bits c.arg0.toNat 51 0) ((List.range 40).flatMap (fun i => leBytes 4 (s1.csrWord 94 (0x20100 + 4 * i)).toNat))]) ∧
    ∀ ph : Nat, CmdReady s p q 0x41 s1 c k → 1 ≤ c.arg2.toNat → c.arg2.toNat ≤ c.extra.length → c.arg0.toNat % 128 + c.arg2.toNat ≤ 128 → c.flags.getLsbD 1 = true →
      c.arg0.getLsbD 63 = false → s1.cmdAddrOk p.val c.arg0 c.arg2.toNat true = true → s1.cmdError c.arg0 c.arg2.toNat = none → s1.place c.arg0.toNat = some ph → ph % 128 = c.arg0.toNat % 128 →
      s1.lineNow (ph / 128) = (s1.memLine (ph / 128), false) → s1.compNamed (ph / 128) = false → s1.lineFenced (ph / 128) = false → s1.lineHeld (ph / 128) = false →
      ∃ t : State, exec (.writeInline p q) s = .next t ∧ CmdEnds t p q k c 0 ∧
      StoresLine s1 t (ph / 128) (runMask (ph % 128) c.arg2.toNat) (List.replicate (ph % 128) 0 ++ c.extra.take c.arg2.toNat)

/-- For every state in which the command heads its queue, of its queue type, and starts. KERNEL_LAUNCH inline, of one unblocked core with a descriptor in range, leaves a launch waiting and runs on. HART_START of a held hart of a partition that is not quiesced puts it in machine mode in C0 at ARG0, with its ID in a0 and ARG1 in a1 and every CSR zero. QUIESCE begins quiescing and waits; RESUME of a quiesced partition runs it and its halted harts. RESET_PARTITION begins the partition's reset; RESET_CORE of an idle core leaves its Pantry, tile registers and queues empty and the core resetting; RESET_DIE of a ready die begins, a home that still has entries evicting them first, and is refused for a management die or an interposer tile; RESET_WARM keeps device time and the Pool's contents and restarts bring-up. FLP_DELTA of an image that passes its checks puts its configuration in force; one that fails changes none; one that begins holds its image, STATE 4, with its command still running. MGT_CMD for MGT_STATUS sends its response to the companion. -/
def Obligations.UnitCommandEffects : Prop :=
  ∀ (s s1 : State) (p : PartId) (q : Nat) (c : Slot) (k : Sq),
    (∀ (d : AsDesc) (s2 : State) (lb e : List Byte) (core : Nat), let b := padTo 64 c.extra
      CmdReady s p q 0x40 s1 c k → s1.asSlot p.val c.target = some d → c.target < 256 → c.arg1 = 0 → c.flags.getLsbD 1 = true → c.arg0 = 0 → leAt b 0x30 2 = 1 → s1.virtStop p.val c.target d (BitVec.ofNat 64 (leAt b 0x20 8)) 2 = none →
      s1.readVirt p.val c.target d (BitVec.ofNat 64 (leAt b 0x20 8)) 2 e = some (s2, lb) → leAt lb 0 2 = core → core < 640 → descOk b = true →
      s2.launchBlock p.val core = none → ∃ t : State, exec (.kernelLaunch p q e) s = .next t ∧ t.sq p.val q = s2.sq p.val q ∧ t.nextLaunch = s2.nextLaunch + 1 ∧
      t.launch s2.nextLaunch = some { launchOf p.val q c b with cores := [core] } ∧ t.pool = s2.pool) ∧
    (CmdReady s p q 0x20 s1 c k → c.target < 256 → s1.hartPart c.target = some p.val → 2 ≤ s1.level → s1.partState p.val ≠ 4 → (s1.hart c.target).state = 0 → (s1.hart c.target).fenced = false →
      ∃ t : State, exec (.hartStart p q) s = .next t ∧ CmdEnds t p q k c 0 ∧ (t.hart c.target).state = 1 ∧ (t.hart c.target).priv = 3 ∧ (t.hart c.target).pc = c.arg0 ∧
        (t.hart c.target).reg 10 = BitVec.ofNat 64 c.target ∧ (t.hart c.target).reg 11 = c.arg1 ∧ (t.hart c.target).csrs = Hart.reset.csrs ∧
        (∀ h : Nat, h ≠ c.target → t.hart h = s1.hart h) ∧ t.pool = s1.pool) ∧
    (CmdReady s p q 0x21 s1 c k → s.partState p.val ≠ 5 → s1.partState p.val = 2 → 1 ≤ c.arg2.toNat → c.arg2.toNat ≤ 10000 → ∃ t : State, exec (.quiesce p q) s = .next t ∧
      t.partState p.val = 3 ∧ t.sq p.val q = some k ∧ t.harts = s1.harts ∧ t.pool = s1.pool) ∧
    (CmdReady s p q 0x22 s1 c k → s1.partState p.val = 4 → s1.heldBells = [] → s1.delta = none → ∃ t : State, exec (.resume p q) s = .next t ∧ CmdEnds t p q k c 0 ∧ t.partState p.val = 2 ∧
      (∀ h : Nat, t.hart h = if h ∈ s1.partHarts p.val ∧ (s1.hart h).state = 5 then { s1.hart h with state := 1 } else s1.hart h) ∧ t.pool = s1.pool) ∧
    (CmdReady s p q 0x23 s1 c k → s1.partState p.val ≠ 5 → (s1.partEntry p.val).isSome → s1.delta = none → ∃ t : State, exec (.resetPartition p q) s = .next t ∧ t.partState p.val = 5 ∧
      (p.val, p.val, q, c.cid) ∈ t.resetCmds) ∧
    (CmdReady s p q 0x24 s1 c k → c.target < 640 → s1.corePart c.target = some p.val → (s1.core c.target).fenced = false → (s1.core c.target).kernel = none →
      (s1.core c.target).watch.sample = none → ∃ t : State, exec (.resetCore p q) s = .next t ∧ (t.core c.target).resetting = true ∧ (t.core c.target).pantry = ⟨[]⟩ ∧
      (t.core c.target).tiles = ⟨[]⟩ ∧ (t.core c.target).accq = [] ∧ (t.core c.target).exq = [] ∧ (t.core c.target).l1d = ⟨[]⟩ ∧ (1000 + c.target, p.val, q, c.cid) ∈ t.resetCmds ∧
      (∀ e : Nat, e ≠ c.target → t.core e = s1.core e) ∧ t.sq p.val q = some k ∧ t.pool = s1.pool) ∧
    (CmdReady s p q 0x31 s1 c k → c.target < 100 → dieType c.target ≠ 8 → dieType c.target ≠ 9 → s1.fencedU.contains (.die, c.target) = false → s1.dieReset.get 0 c.target = 0 →
      s1.dieReady c.target = true → ∃ t : State, exec (.resetDie p q) s = .next t ∧
      (3 ≤ dieType c.target ∧ dieType c.target ≤ 5 → t.dieReset.get 0 c.target = 2 ∨ t.dieReset.get 0 c.target = 3) ∧
      (s1.homeFree c.target = true ∨ ¬ (3 ≤ dieType c.target ∧ dieType c.target ≤ 5) → t.dieReset.get 0 c.target = 2) ∧ (100 + c.target, p.val, q, c.cid) ∈ t.resetCmds) ∧
    (CmdReady s p q 0x31 s1 c k → c.target < 100 → dieType c.target = 8 ∨ dieType c.target = 9 → ∃ t : State, exec (.resetDie p q) s = .next t ∧ CmdEnds t p q k c 0x11C ∧
      { t with sqs := s1.sqs } = s1) ∧
    (CmdReady s p q 0x30 s1 c k → s1.pins.pwrOk = true → s1.pins.vinOk = true → s1.pins.resetN = true → s1.mgmt.mismatch = false → ∃ t : State, exec (.resetWarm p q) s = .next t ∧
      t.phase = .running ∧ t.time = s1.time ∧ t.pool = s1.pool ∧ t.poolBad = s1.poolBad ∧ t.flp = none ∧ t.cores = State.reset.cores ∧ t.harts = State.reset.harts ∧
      t.fld 94 0x20100 7 4 = 2 ∧ t.mgmt.flash = s1.mgmt.flash ∧ t.pins.ready = false) ∧
    (∀ (f : Floorplan) (e : List Byte), let img := e.take c.arg2.toNat
      let ctx := { s1.loadCtx with base := some (f, s1.flpDigest), quiesced := (List.range 8).filter (fun r => s1.partState r == 4) }
      CmdReady s p q 0x32 s1 c k → 0x50 ≤ c.arg2.toNat → c.arg2.toNat ≤ 0x100000 → c.arg0.getLsbD 63 = true → bits c.arg0.toNat 62 52 = 0 → s1.hostReachable p.val = true →
      s1.flp = some f → s1.delta = none →
      (∀ l : Loaded, checkImage ctx img c.arg2.toNat = .ok l → ∃ t : State, exec (.flpDelta p q ⟨e, false⟩) s = .next t ∧ t.flp = some l.flp ∧ CmdEnds t p q k c 0) ∧
      (∀ x : FlpErr, checkImage ctx img c.arg2.toNat = .error x → ∃ t : State, exec (.flpDelta p q ⟨e, false⟩) s = .next t ∧ t.flp = some f ∧ CmdEnds t p q k c 1 ∧ t.cores = s1.cores ∧ t.csr = s1.csr) ∧
      (∃ t : State, exec (.flpDelta p q ⟨e, true⟩) s = .next t ∧ t.flp = some f ∧ t.delta = some { part := p.val, queue := q, cid := c.cid, image := img, resumes := [], resets := [] } ∧
        t.fld 94 0x20000 3 0 = 4 ∧ t.sq p.val q = some k ∧ t.cores = s1.cores)) ∧
    ∀ (e : List Byte) (r : MgtReq) (h : s1.partPort p.val < 2),
      CmdReady s p q 0x33 s1 c k → 16 ≤ c.arg2.toNat → c.arg0.getLsbD 63 = true → bits c.arg0.toNat 62 52 = 0 → c.arg1.getLsbD 63 = true → bits c.arg1.toNat 62 52 = 0 →
      s1.hostReachable p.val = true → s1.phase = .running → s1.pins.ready = true → 1 ≤ s1.level → mgtParse .queue (e.take c.arg2.toNat) = (0x01, r) →
      ∃ t : State, exec (.mgtCmd p q e) s = .next t ∧ CmdEnds t p q k c 0 ∧ t.pool = s1.pool ∧
      t.sent = s1.sent ++ [.hostWrite ⟨s1.partPort p.val, h⟩ p.val (bits c.arg1.toNat 51 0)
        (leBytes 2 0x01 ++ leBytes 2 r.tag.toNat ++ leBytes 4 (s1.mgtStatus r).2.2.length ++ leBytes 2 0 ++ leBytes 6 (r.offset / 2 ^ 16) ++ (s1.mgtStatus r).2.2)]

/-- For every state of a running package. FN_RESET at SL1 or above begins the reset of a partition that exists. PARTITION_RESET_DONE of a partition in reset whose lines are home leaves it held, the Pantry and the tile registers of its cores zero, its harts reset but for their fences and counts, and every submission queue empty at its start. QUIESCE_DONE of a quiescing partition that is quiet leaves it quiesced. QUIESCE_TIMEOUT aborts what a quiescing partition still runs, and leaves it quiesced once all has stopped and its host writes are done, else quiescing. CORE_RESET_DONE makes the core take launches again. RESET_PRECONDITION_TIMEOUT ends a reset whose precondition does not hold, with every command that waits for it, and begins one whose precondition holds, a home that still has entries evicting them first. DIE_RESET_DONE of a reset in progress, its channels trained, ends it. -/
def Obligations.ResetsGoOn : Prop :=
  (∀ (s : State) (p : PartId), s.phase = .running →
    (1 ≤ s.level → (s.partEntry p.val).isSome → ∃ t : State, exec (.fnReset p) s = .next t ∧ t.partState p.val = 5) ∧
    (s.partState p.val = 5 → s.partClean p.val = true → ∃ t : State, exec (.partitionResetDone p) s = .next t ∧ t.partState p.val = 1 ∧
      (∀ c ∈ s.partCores p.val, (t.core c).pantry = ⟨[]⟩ ∧ (t.core c).tiles = ⟨[]⟩ ∧ (t.core c).resetting = false) ∧
      (∀ h ∈ s.partHarts p.val, t.hart h = { Hart.reset with fenced := (s.hart h).fenced, dropped := (s.hart h).dropped }) ∧
      ∀ (q : Nat) (k : Sq), q < 4096 → t.sq p.val q = some k → k.head = 0 ∧ k.tail = 0 ∧ k.n = 0 ∧ k.stopped = 0 ∧ k.fetched = [] ∧ k.running = [] ∧ k.deleting = none) ∧
    (s.partState p.val = 3 → s.quiet p.val = true → ∃ t : State, exec (.quiesceDone p) s = .next t ∧ t.partState p.val = 4 ∧ t.cores = s.cores ∧ t.pool = s.pool ∧
      ∀ h : Nat, t.hart h = if h ∈ s.partHarts p.val ∧ (s.hart h).state ≠ 0 then { s.hart h with state := 5, resv := none, delay := false } else s.hart h) ∧
    (s.partState p.val = 3 → ∃ t : State, exec (.quiesceTimeout p) s = .next t ∧
      t.partState p.val = if ((s.abortCmds p.val 0x11B).abortCols p.val 0x11B).quiet p.val then 4 else 3)) ∧
  (∀ (s : State) (c : CoreId), s.phase = .running → (s.core c.val).resetting = true → s.dieReset.get 0 (coreDie c.val) = 0 → (s.corePart c.val).map s.partState ≠ some 5 →
    ∃ t : State, exec (.coreResetDone c) s = .next t ∧ t.core c.val = { s.core c.val with resetting := false } ∧ (∀ d : Nat, d ≠ c.val → t.core d = s.core d) ∧
      (∀ x ∈ t.resetCmds, x.1 ≠ 1000 + c.val) ∧ t.pool = s.pool) ∧
  ∀ (s : State) (d : DieId), s.phase = .running →
    (s.dieReset.get 0 d.val = 1 → s.dieReady d.val = false → ∃ t : State, exec (.resetPreconditionTimeout d) s = .next t ∧ t.dieReset.get 0 d.val = 0 ∧
      (∀ x ∈ t.resetCmds, x.1 ≠ 100 + d.val) ∧ t.cores = s.cores ∧ t.harts = s.harts ∧ t.pool = s.pool) ∧
    (s.dieReset.get 0 d.val = 1 → s.dieReady d.val = true → ∃ t : State, exec (.resetPreconditionTimeout d) s = .next t ∧
      (3 ≤ dieType d.val ∧ dieType d.val ≤ 5 → t.dieReset.get 0 d.val = 2 ∨ t.dieReset.get 0 d.val = 3) ∧
      (s.homeFree d.val = true ∨ ¬ (3 ≤ dieType d.val ∧ dieType d.val ≤ 5) → t.dieReset.get 0 d.val = 2)) ∧
    (s.dieReset.get 0 d.val = 2 → s.dieTrained d.val = true → ∃ t : State, exec (.dieResetDone d) s = .next t ∧ t.dieReset.get 0 d.val = 0 ∧ ∀ x ∈ t.resetCmds, x.1 ≠ 100 + d.val)

/-- For every state. PWR_OK rising from Off with the input present, RESET_N high and fuses that agree, and VIN rising with PWR_OK high, are cold resets: bring-up runs at device time 0 from empty memory, with the flash kept. PWR_OK rising elsewhere only sets the pin. A low PWR_OK of 5 microseconds, and a lost reference clock of 10 at READY, begin a power-down, shorter ones change nothing; when its commit is done the package is Off, or in a cold reset where PWR_OK is high again. RESET_N low for 1 microsecond holds the running package in a warm reset that keeps device time and the Pool; its rise starts bring-up. JXL_RESET_N low takes both ports out of traffic, and its rise puts each enabled one in training. -/
def Obligations.PinsAndResets : Prop :=
  ∀ (s : State),
    (s.phase = .off → s.pins.resetN = true → s.mgmt.restart.levelFuses.mismatch = false →
      (s.pins.vinOk = true → ∃ t : State, exec .pwrOkRise s = .next t ∧ t.phase = .running ∧ t.time = 0 ∧ t.pool = ⟨[]⟩ ∧ t.mgmt.flash = s.mgmt.flash ∧ t.flp = none ∧ t.pins.pwrOk = true) ∧
      (s.pins.pwrOk = true → ∃ t : State, exec .vinRise s = .next t ∧ t.phase = .running ∧ t.time = 0 ∧ t.pool = ⟨[]⟩ ∧ t.mgmt.flash = s.mgmt.flash ∧ t.flp = none ∧ t.pins.vinOk = true)) ∧
    (s.phase ≠ .off → exec .pwrOkRise s = .next { s with pins := { s.pins with pwrOk := true } } ∧ exec .vinRise s = .next { s with pins := { s.pins with vinOk := true } }) ∧
    exec (.pwrOkFall false) s = .next s ∧ exec (.refclkLoss false) s = .next s ∧ exec (.resetNFall false) s = .next s ∧ exec (.jxlResetNFall false) s = .next s ∧
    (s.phase = .running → ∃ t : State, exec (.pwrOkFall true) s = .next t ∧ t.phase = .powerDown ∧ t.pins.pwrOk = false ∧ t.pins.ready = false ∧ t.pool = s.pool ∧ t.csr = s.csr) ∧
    (s.phase = .running → s.pins.ready = true → ∃ t : State, exec (.refclkLoss true) s = .next t ∧ t.phase = .powerDown ∧ t.pins.ready = false ∧ t.pool = s.pool ∧ t.csr = s.csr) ∧
    (s.phase = .powerDown → ∃ t : State, exec .powerDownCommitDone s = .next t ∧ t.mgmt.flash = s.mgmt.flash ∧ t.flp = none ∧ t.cores = ⟨[]⟩ ∧
      (s.pins.pwrOk = false → t.phase = .off) ∧ (s.pins.pwrOk = true → t.time = 0 ∧ t.phase ≠ .powerDown)) ∧
    (s.phase = .running → s.pins.pwrOk = true → s.pins.vinOk = true → ∃ t : State, exec (.resetNFall true) s = .next t ∧ t.phase = .held ∧ t.pins.resetN = false ∧ t.time = s.time ∧
      t.pool = s.pool ∧ t.poolBad = s.poolBad ∧ t.mgmt.flash = s.mgmt.flash ∧ t.flp = none ∧ t.fld 94 0x20100 7 4 = 1) ∧
    (s.phase = .held → s.pins.pwrOk = true → s.pins.vinOk = true → s.mgmt.mismatch = false → ∃ t : State, exec .resetNRise s = .next t ∧ t.phase = .running ∧ t.pins.resetN = true ∧
      t.time = (if s.fld 94 0x20100 7 4 = 0 then 0 else s.time) ∧ t.pool = s.pool ∧ t.csr = s.csr) ∧
    (s.phase = .running → ∃ t : State, exec (.jxlResetNFall true) s = .next t ∧ t.pins.jxlResetN = false ∧ ∀ p : JxlPort, t.linkSt (.jxl p) ≠ 2 ∧ t.linkSt (.jxl p) ≠ 3) ∧
    (s.phase = .running → 1 ≤ s.level → ∃ t : State, exec .jxlResetNRise s = .next t ∧ t.pins.jxlResetN = true ∧ t.pool = s.pool ∧
      ∀ p : JxlPort, (s.linkPort p.val).enable = true → s.linkSt (.jxl p) ≠ 2 → s.linkSt (.jxl p) ≠ 3 → t.linkSt (.jxl p) = 1)

/-- For every state of a running package. BOOT_STAGE_VERIFY of the stage awaited enters ROM recovery where no copy is a candidate, and runs a copy that passes. FLOORPLAN_LOAD without a candidate fails with NONE for both slots; with slot A the one candidate and every check passed its configuration is in force, every partition held. MGMT_DIE_ANSWER_TIMEOUT leaves the other die to load alone. SERVICE_LEVEL_ENTRY raises READY at SL0, and enters each later level in order with its time, once its units are up. DIE_ONLINE of a compute die whose Attic has trained puts it online. CORE_SELF_TEST_DONE of a core that passes marks it tested. RATE_CHANGE, no other unit's change under way, moves an Annex channel to its SL4 rate through HOLD, or sets DEGRADED, and a Jexesk Link port to its width, or sets DEGRADED with the port still in service. BRING_UP_DEADLINE enters SL4 with DEGRADED set. -/
def Obligations.BringUpSteps : Prop :=
  ∀ (s : State), s.phase = .running →
    (∀ (st : Fin 3) (a b : Bool), s.mgmt.stage = st.val → s.mgmt.candidates (2 * st.val) 0x40 = [] → ∃ t : State, exec (.bootStageVerify st a b []) s = .next t ∧
      t.phase = .recovery ∧ { t with phase := .running } = s) ∧
    (∀ (st : Fin 3) (b : Bool), s.mgmt.stage = st.val → s.mgmt.candidates (2 * st.val) 0x40 = [2 * st.val] → s.mgmt.stageResult st.val (2 * st.val) true = 0 →
      ∃ t : State, exec (.bootStageVerify st true b []) s = .next t ∧ t.mgmt.stage = st.val + 1 ∧ t.phase = .running ∧ t.mgmt.flash = s.mgmt.flash ∧
      t.mgmt.digests.get 0 st.val = Config.sha384 (s.mgmt.flashRun (2 * st.val) 0 (s.mgmt.trailer (2 * st.val)).len)) ∧
    (s.flp = none → 3 ≤ s.mgmt.stage → s.fld 94 0x20000 3 0 = 0 → s.hallTrained = true → (∀ e ∈ s.mgmt.fences, e.kind = 5 → e.index ≠ 94 ∧ e.index ≠ 95) →
      (s.mgmt.candidates 6 0x50 = [] → ∃ t : State, exec (.floorplanLoad true true) s = .next t ∧ t.flp = none ∧ t.fld 94 0x20000 3 0 = 3 ∧ t.fld 94 0x20000 31 24 = 1 ∧
        t.fld 94 0x20000 23 16 = 1 ∧ { t with csr := s.csr } = s) ∧
      (∀ (l : Loaded) (img : List Byte), s.mgmt.candidates 6 0x50 = [6] → s.trySlot 6 true = .ok (l, img) → ∃ t : State, exec (.floorplanLoad true true) s = .next t ∧
        t.flp = some l.flp ∧ t.locked = true ∧ t.fld 94 0x20000 3 0 = 2 ∧ t.fld 94 0x20000 11 8 = 1 ∧ ∀ e ∈ l.flp.parts, e.id < 8 → t.partState e.id = 1)) ∧
    (s.flp = none → s.mgmt.answers95 = true → (s.root false).alive = true → ∃ t : State, exec (.mgmtDieAnswerTimeout true) s = .next t ∧ t.mgmt.answers95 = false) ∧
    (s.pins.ready = false → 2 ≤ s.fld 94 0x20000 3 0 → s.levelUp 0 = true → ∃ t : State, exec (.serviceLevelEntry 0) s = .next t ∧ t.pins.ready = true ∧ t.level = 0 ∧ t.rd64 94 0x20108 = s.now) ∧
    (∀ n : Fin 5, n.val ≠ 0 → s.pins.ready = true → s.flp.isSome → s.level + 1 = n.val → s.levelUp n.val = true → ∃ t : State, exec (.serviceLevelEntry n) s = .next t ∧ t.level = n.val ∧
      t.rd64 94 (0x20108 + 8 * n.val) = s.now) ∧
    (∀ k : StackId, k.val < 32 → 3 ≤ s.level → s.dieOnline k.val = false → s.fencedU.contains (UnitKind.die, k.val) = false → s.stackTrained (36 + k.val) = true →
      ∃ t : State, exec (.dieOnline k) s = .next t ∧ t.dieOnline k.val = true) ∧
    (∀ c : CoreId, s.checked (coreDie c.val) = true → (s.core c.val).testing = true → ∃ t : State, exec (.coreSelfTestDone c true) s = .next t ∧
      (t.core c.val).tested = true ∧ (t.core c.val).testing = false ∧ (t.core c.val).fenced = (s.core c.val).fenced) ∧
    (∀ x : Fin 384, 3 ≤ s.level → s.rateMoving = false → s.chanState (.annex x) = 2 → (∃ t : State, exec (.rateChange (.annex x) true) s = .next t ∧
        t.fld (chanReg (.annex x)).1 (chanReg (.annex x)).2 0 0 = 1 ∧ t.chanState (.annex x) = 3 ∧ { t with csr := s.csr, channels := s.channels } = s) ∧
      ∃ t : State, exec (.rateChange (.annex x) false) s = .next t ∧ t.fld 94 0x20100 31 31 = 1 ∧ t.chanState (.annex x) = 3 ∧
        { t with csr := s.csr, channels := s.channels } = { s with rateFailed := s.rateFailed ++ [.annex x] }) ∧
    (∀ j : JxlPort, 3 ≤ s.level → s.rateMoving = false → s.linkSt (.jxl j) = 2 → (∃ t : State, exec (.rateChange (.jxl j) true) s = .next t ∧
        let x := linkLanes (.jxl j) (s.linkPort j.val).lanes16 (s.link (.jxl j)).failed
        t.fld (92 + j.val) 0x80000 23 16 = x.1 ∧ t.link (.jxl j) = { s.link (.jxl j) with high := x.2 } ∧ { t with csr := s.csr, links := s.links } = s) ∧
      ∃ t : State, exec (.rateChange (.jxl j) false) s = .next t ∧ t.fld 94 0x20100 31 31 = 1 ∧ t.linkSt (.jxl j) = 2 ∧
        { t with csr := s.csr } = { s with rateFailed := s.rateFailed ++ [.jxl j] }) ∧
    (s.flp.isSome → s.pins.ready = true → s.level < 4 → ∃ t : State, exec .bringUpDeadline s = .next t ∧ t.level = 4 ∧ t.fld 94 0x20100 31 31 = 1)

/-- For every state of a running, READY device and every request on bus 0. MGT_STATUS, MGT_TELEMETRY and MGT_FLASH_READ answer what they read and change nothing else, and MGT_FAULT_READ at most 4 KiB of it from OFFSET on. MGT_FAULT_FREE frees the active root's log. MGT_FLP_LOAD without a configuration takes the first chunk, and with one in force is refused. MGT_FLASH_ERASE of an image area not in force empties it as a long operation and is refused for the lists and the identity area; MGT_FLASH_WRITE of erased bytes stores them. MGT_RESET 0 is a warm reset. MGT_PKG_LIMIT sets the limit, MGT_RT_STAGE one word of the staged table. MGT_FENCE_ERASE and MGT_REPAIR_ERASE empty their lists as long operations. SEC_ADVANCE raises ARB_DBG in both dies' fuses and never lowers it. SEC_DEBUG_CHALLENGE answers a nonce, SEC_DEBUG_UNLOCK with a token that passes every check opens its SCOPE until its NOT_AFTER and extends the log of measurement 7, and without one is refused; each attempt spends the nonce; SEC_DEBUG_LOCK and DEBUG_UNLOCK_EXPIRY close the scope. LONG_OPERATION_DONE records the operation's status, and ends a delta whose command's CID it names. MCTP_MESSAGE carries the same commands, and PLDM_SENSOR_READ answers a sensor. -/
def Obligations.ManagementCommands : Prop :=
  (∀ (s : State) (r : MgtReq), MgtReady s r →
    (∃ t : State, exec (.mgtStatus r) s = .next t ∧ MgtAnswers s t r 0x01 0 (s.mgtStatus r).2.2 ∧ { t with sent := s.sent } = s) ∧
    (∃ t : State, exec (.mgtTelemetry r) s = .next t ∧ MgtAnswers s t r 0x02 0 (padTo 0xC0 s.mgmt.telemetry) ∧ { t with sent := s.sent } = s) ∧
    (∃ (t : State) (all : List Byte), exec (.mgtFaultRead r) s = .next t ∧ MgtAnswers s t r 0x03 0 ((all.drop r.offset).take 4096) ∧ { t with sent := s.sent } = s ∧
      all.take 96 = (List.range 3).flatMap (fun k => (List.range 8).flatMap (fun i => leBytes 4 (captureWord ((s.root s.activeRoot).captures.get none k) k i).toNat)) ∧
      all.drop 96 = ((s.root s.activeRoot).log.filter (fun x => decide (leAt r.payload 0 4 ≤ x.seq.toNat) && decide (x.seq.toNat ≤ leAt r.payload 4 4))).flatMap LogRec.bytes) ∧
    (∃ t : State, exec (.mgtFaultFree r) s = .next t ∧ MgtAnswers s t r 0x04 0 [] ∧ (t.root s.activeRoot).log = ((s.root s.activeRoot).free (BitVec.ofNat 32 (leAt r.payload 0 4))).log ∧
      t.root (!s.activeRoot) = s.root (!s.activeRoot) ∧ t.mgmt = s.mgmt) ∧
    (s.flp = none → s.fld 94 0x20000 3 0 = 3 → r.offset = 0 → r.payload.length < 12 → ∃ t : State, exec (.mgtFlpLoad r) s = .next t ∧ MgtAnswers s t r 0x10 0 [] ∧ t.mgmt.upload = r.payload) ∧
    (s.flp.isSome → s.mgmt.held 13 = false → s.delta = none → ∃ t : State, exec (.mgtFlpLoad r) s = .next t ∧ MgtAnswers s t r 0x10 8 [] ∧ { t with sent := s.sent } = s) ∧
    (∀ a o : Nat, areaAt r.offset (leAt r.payload 0 4) = some (a, o) → leAt r.payload 0 4 ≤ 4096 → ∃ t : State, exec (.mgtFlashRead r) s = .next t ∧
      MgtAnswers s t r 0x11 0 (s.mgmt.areaRun a o (leAt r.payload 0 4)) ∧ { t with sent := s.sent } = s) ∧
    (∀ a : Nat, areaAt r.offset 1 = some (a, 0) → (10 ≤ a → ∃ t : State, exec (.mgtFlashErase r) s = .next t ∧ MgtAnswers s t r 0x12 3 [] ∧ { t with sent := s.sent } = s) ∧
      (a < 8 → s.areaInForce a = false → s.mgmt.held a = false → ∃ t : State, exec (.mgtFlashErase r) s = .next t ∧ MgtAnswers s t r 0x12 1 [] ∧
        t.mgmt.flash.get ⟨[]⟩ a = ⟨[]⟩ ∧ (∀ b : Nat, b ≠ a → t.mgmt.flash.get ⟨[]⟩ b = s.mgmt.flash.get ⟨[]⟩ b) ∧ { t with mgmt := s.mgmt, sent := s.sent } = s)) ∧
    (∀ a o : Nat, areaAt r.offset r.payload.length = some (a, o) → a < 8 → s.areaInForce a = false → s.mgmt.held a = false →
      (∀ b ∈ s.mgmt.flashRun a o r.payload.length, b = 0xFF) → ∃ t : State, exec (.mgtFlashWrite r) s = .next t ∧ MgtAnswers s t r 0x13 0 [] ∧
      t.mgmt.flashRun a o r.payload.length = r.payload ∧ (∀ b : Nat, b ≠ a → t.mgmt.flash.get ⟨[]⟩ b = s.mgmt.flash.get ⟨[]⟩ b)) ∧
    (leAt r.payload 0 1 = 0 → ∃ (t : State) (l : List Msg), exec (.mgtReset r) s = .next t ∧ t.sent = s.sent ++ l ++ [.mgmt .bus0 0x20 r.tag 0 (r.offset / 2 ^ 16) []] ∧ t.flp = none ∧
      t.time = s.time ∧ t.pool = s.pool ∧ t.fld 94 0x20100 7 4 = 2) ∧
    (leAt r.payload 0 4 = 0 ∨ s.sumMin ≤ leAt r.payload 0 4 → leAt r.payload 0 4 < 2 ^ 20 → ∃ t : State, exec (.mgtPkgLimit r) s = .next t ∧ MgtAnswers s t r 0x21 0 [] ∧
      t.fld 94 0xD0100 19 0 = leAt r.payload 0 4 ∧ t.fld 94 0xD0104 31 31 = 0) ∧
    (∀ o : Nat, r.offset = o → o % 4 = 0 → o + 4 ≤ 0xC088 → r.payload.length = 4 → ∃ t : State, exec (.mgtRtStage r) s = .next t ∧ MgtAnswers s t r 0x22 0 [] ∧
      t.fld 84 (0xB0000 + o) 31 0 = leAt r.payload 0 4 ∧ t.tables = s.tables.del (b2n (!s.epoch)) ∧
        { t with sent := s.sent, csr := s.csr, tables := s.tables } = s) ∧
    (s.mgmt.held 10 = false → ∃ t : State, exec (.mgtFenceErase r) s = .next t ∧ MgtAnswers s t r 0x23 1 [] ∧ t.mgmt = { s.mgmt with fences := [], ops := t.mgmt.ops } ∧ t.mgmt.held 10 = true) ∧
    (s.mgmt.held 11 = false → ∃ t : State, exec (.mgtRepairErase r) s = .next t ∧ MgtAnswers s t r 0x24 1 [] ∧ t.mgmt = { s.mgmt with repairs := [], ops := t.mgmt.ops } ∧ t.mgmt.held 11 = true) ∧
    (leAt r.payload 0 1 = 2 → leAt r.payload 4 4 ≤ 64 → ∃ t : State, exec (.secAdvance r) s = .next t ∧ MgtAnswers s t r 0x30 0 [] ∧
      t.mgmt.fuses94 = { s.mgmt.fuses94 with arbDbg := max s.mgmt.fuses94.arbDbg (leAt r.payload 4 4) } ∧
      t.mgmt.fuses95 = { s.mgmt.fuses95 with arbDbg := max s.mgmt.fuses95.arbDbg (leAt r.payload 4 4) }) ∧
    (∃ (t : State) (n : List Byte), exec (.secDebugChallenge r) s = .next t ∧ MgtAnswers s t r 0x31 0 n ∧ n.length = 32 ∧ t.mgmt = { s.mgmt with nonce := some (n, s.time) }) ∧
    (s.tokenOk r.payload = false → ∃ t : State, exec (.secDebugUnlock r) s = .next t ∧ MgtAnswers s t r 0x32 9 [] ∧ t.mgmt = { s.mgmt with nonce := none }) ∧
    (s.tokenOk r.payload = true → ∃ t : State, exec (.secDebugUnlock r) s = .next t ∧ MgtAnswers s t r 0x32 0 [] ∧ t.mgmt = { s.mgmt with
        nonce := none, scope := some (Nat.lor (s.mgmt.scope.getD 0) (leAt r.payload 5 1 % 16)), notAfter := BitVec.ofNat 64 (leAt r.payload 48 8),
        digestLog := s.mgmt.digestLog ++ [Config.sha384 r.payload] } ∧ { t with sent := s.sent, mgmt := s.mgmt } = s) ∧
    (∃ t : State, exec (.secDebugLock r) s = .next t ∧ MgtAnswers s t r 0x33 0 [] ∧ t.mgmt = { s.mgmt with scope := none } ∧ ∀ c ∈ t.cores.cells, c.2.phase ≠ 3) ∧
    (∀ b : List Byte, mgtParse .bus0 b = (0x01, r) → exec (.mctpMessage false 0x7F b) s = exec (.mgtStatus r) s)) ∧
  ∀ (s : State), s.phase = .running →
    (∀ n : Nat, s.mgmt.scope = some n → s.mgmt.notAfter.toNat < s.time → ∃ t : State, exec .debugUnlockExpiry s = .next t ∧ t.mgmt = { s.mgmt with scope := none }) ∧
    (∀ (o : MgtOp) (st : Nat), s.mgmt.ops = [o] → o.status = 1 → o.holds < 13 → ∃ t : State, exec (.longOperationDone o.tag st) s = .next t ∧
      t.mgmt = { s.mgmt with ops := [{ o with status := st }] } ∧ { t with mgmt := s.mgmt } = s) ∧
    (∀ (d : DeltaRun), s.mgmt.ops = [] → s.delta = some d → d.resets = [] → d.resumes = [] → ∃ t : State, exec (.longOperationDone d.cid 1) s = .next t ∧
      t.delta = none ∧ t.flp = s.flp ∧ t.fld 94 0x20000 3 0 = 2 ∧ t.cores = s.cores ∧ t.mgmt = s.mgmt) ∧
    (∀ (bus : Bool) (n : Nat), s.pins.ready = true → n < 4 → ∃ t : State, exec (.pldmSensorRead bus n) s = .next t ∧
      t.sent = s.sent ++ [.pldm bus (leAt s.mgmt.telemetry (0x10 + 4 * n) 4)] ∧ { t with sent := s.sent } = s)

/-- For every transport on which SPDM messages are answered (the message codes are those of DMTF SPDM 1.2: log 29). GET_VERSION starts an exchange; GET_CAPABILITIES before it is an unexpected request, after it is answered; NEGOTIATE_ALGORITHMS that selects both schemes completes the negotiation, one that does not is refused. GET_CERTIFICATE answers a part of a slot's chain with what remains. CHALLENGE and GET_MEASUREMENTS are answered with the signatures of both schemes over the transcript up to and with the answer's own bytes, the first with the chain's digest, the second with the eight measurement blocks in order. -/
def Obligations.Attestation : Prop :=
  ∀ (s : State) (x : Transport), s.spdmOn x = true →
    (∃ (t : State) (b : List Byte), exec (.getVersion x) s = .next t ∧ t.sent = s.sent ++ [.spdm x b] ∧ t.spdmAt x = (1, [0x10, 0x84, 0, 0] ++ b) ∧ b.take 2 = [0x10, 0x04]) ∧
    ((s.spdmAt x).1 = 0 → ∃ t : State, exec (.getCapabilities x) s = .next t ∧ t.sent = s.sent ++ [.spdm x [0x12, 0x7F, 4, 0]] ∧ t.spdmAt x = s.spdmAt x) ∧
    ((s.spdmAt x).1 = 1 → ∃ (t : State) (b : List Byte), exec (.getCapabilities x) s = .next t ∧ t.sent = s.sent ++ [.spdm x b] ∧ b.take 2 = [0x12, 0x61] ∧ b.length = 20 ∧
      (t.spdmAt x).1 = 2) ∧
    ((s.spdmAt x).1 = 2 → (∃ (t : State) (b : List Byte), exec (.negotiateAlgorithms x true true) s = .next t ∧ t.sent = s.sent ++ [.spdm x b] ∧ b.take 2 = [0x12, 0x63] ∧ (t.spdmAt x).1 = 3) ∧
      ∃ t : State, exec (.negotiateAlgorithms x true false) s = .next t ∧ t.sent = s.sent ++ [.spdm x [0x12, 0x7F, 7, 0]] ∧ t.spdmAt x = s.spdmAt x) ∧
    (3 ≤ (s.spdmAt x).1 → ∀ (slot : Nat), slot < 2 →
      (∀ o n : Nat, o < (s.chain slot).length → ∃ (t : State) (b : List Byte), exec (.getCertificate x slot o n) s = .next t ∧ t.sent = s.sent ++ [.spdm x b] ∧
        b.drop 8 = ((s.chain slot).drop o).take n ∧ b.take 4 = [0x12, 0x02, BitVec.ofNat 8 slot, 0]) ∧
      (∀ nonce : List Byte, ∃ (t : State) (b : List Byte), exec (.challenge x slot nonce) s = .next t ∧
        t.sent = s.sent ++ [.spdm x (b ++ dualSignature ((s.spdmAt x).2 ++ [0x12, 0x83, BitVec.ofNat 8 slot, 0xFF] ++ nonce ++ b))] ∧
        (b.drop 4).take 48 = digestBytes (Config.sha384 (s.chain slot)) ∧ b.take 2 = [0x12, 0x03])) ∧
    (3 ≤ (s.spdmAt x).1 → ∀ nonce : List Byte, ∃ (t : State) (b : List Byte), exec (.getMeasurements x nonce) s = .next t ∧
      t.sent = s.sent ++ [.spdm x (b ++ dualSignature ((s.spdmAt x).2 ++ [0x12, 0xE0, 1, 0xFF] ++ nonce ++ b))] ∧ b.take 2 = [0x12, 0x60] ∧
      (b.drop 8).take (8 * 52) = (List.range 8).flatMap (fun i => leBytes 1 (i + 1) ++ [1] ++ leBytes 2 48 ++ digestBytes (s.measurement (i + 1))))

/-- For every state of a running package. FABRIC_PORT_TRAIN from SL2 on of an enabled port without failed lanes takes eight lanes, at the high rate from SL4, and sends its version token. VERSION_TOKEN that allows a common version makes the port ACTIVE at the lower maximum, names the peer and sends node-up. FABRIC_FLIT_RECEIVE takes a payload flit in sequence, whose messages are for this node, acknowledges with the 64th, and asks for a replay of a flit whose CRC is not that of its bytes. FABRIC_RETRAIN_DONE makes a retraining port with whole lanes ACTIVE again and sends node-up. NODE_UP records the peer; NODE_DOWN marks the node as down and refuses what waits on it, and of a node already known to be down, or with no other ACTIVE port, sends nothing. ROUTE_EPOCH and FABRIC_FAULT_NOTICE change nothing. ROUTE_COMMIT without a fabric configuration, or of a table that fails its checks, sets ERR and changes no table; one that passes makes the other epoch active and holds the staged table. -/
def Obligations.FabricPorts : Prop :=
  ∀ (s : State) (p : FabPort), s.phase = .running →
    let l : LinkId := .fabric p
    let r := fabReg p.val
    (∀ (g : Floorplan) (f : FabricCfg), s.flp = some g → g.fabric = some f → f.portEnable.getLsbD p.val = true → 2 ≤ s.level → s.linkSt l ≤ 1 → (s.link l).failed = 0 →
      ∃ (t : State) (x : Flit), exec (.fabricPortTrain p 0) s = .next t ∧ t.linkSt l = 1 ∧ t.fld r.1 r.2 23 20 = 8 ∧ t.fld r.1 r.2 19 19 = b2n (decide (4 ≤ s.level)) ∧
        t.sent = s.sent ++ [.linkFlit l x] ∧ x.ftype = 4) ∧
    (∀ (mx mn : Nat) (n : BitVec 14), s.linkSt l = 1 → s.fld r.1 r.2 23 20 ≠ 0 → 1 ≤ mx → mn ≤ min 2 mx → ∃ t : State, exec (.versionToken p mx mn n) s = .next t ∧
      t.linkSt l = 2 ∧ t.fld r.1 r.2 27 24 = min 2 mx ∧ t.fld r.1 r.2 13 0 = n.toNat ∧ t.sent = s.sent ++ [.notice p 6 (s.nodeId.getD 0x3FFF) n.toNat s.epoch [2]]) ∧
    (∀ f : Flit, s.linkSt l = 2 → (f.ftype = 0 → f.seq = (s.link l).rxSeq + 1 → (∀ b ∈ ((s.link l).taken l f).2, s.isSelf (fabOfSlots b).dst = true) → ∃ t : State,
        exec (.fabricFlitReceive p f (flitCrc l f) 0) s = .next t ∧ (t.link l).rxSeq = f.seq ∧
        (t.link l).unacked = (if 64 ≤ (s.link l).unacked + 1 then 0 else (s.link l).unacked + 1) ∧ (t.link l).discarding = false) ∧
      (∀ crc : DWord, crc ≠ flitCrc l f → (s.link l).discarding = false → ∃ t : State, exec (.fabricFlitReceive p f crc 0) s = .next t ∧ t.link l = { s.link l with discarding := true } ∧
        t.sent = s.sent ++ [.linkFlit l { seq := 0, ack := (s.link l).rxSeq, ftype := 2, crdClass := 0, crdSlots := 0, slots := [] }])) ∧
    (s.linkSt l = 3 → s.lanes l ≠ 0 → (s.link l).replay = [] → ∃ t : State, exec (.fabricRetrainDone p true) s = .next t ∧ t.linkSt l = 2 ∧
      (t.link l).replays = ⟨[]⟩ ∧ (t.link l).attempts = 0 ∧ (t.link l).rxSeq = (s.link l).rxSeq ∧
      t.sent = s.sent ++ [.notice p 6 (s.nodeId.getD 0x3FFF) (s.fld r.1 r.2 13 0) s.epoch [2]]) ∧
    (∀ n v : Nat, n < 16384 → ∃ t : State, exec (.nodeUp p n v) s = .next t ∧ t.fld r.1 r.2 13 0 = n ∧ n ∉ t.nodesDown ∧ (p.val, n, v) ∈ t.nodesUp ∧
      (∀ k : Nat, k ≠ n → (k ∈ t.nodesDown ↔ k ∈ s.nodesDown))) ∧
    (∀ n : Nat, s.cols = ⟨[]⟩ →
      (s.remotes = ⟨[]⟩ → n ∈ s.nodesDown ∨ (∀ q : FabPort, q ≠ p → s.fabState q.val ≠ 2) → ∃ t : State, exec (.nodeDown p n) s = .next t ∧ (∀ k : Nat, k ∈ t.nodesDown ↔ k = n ∨ k ∈ s.nodesDown) ∧
        { t with nodesDown := s.nodesDown } = s) ∧
      (∀ (tag : Nat) (x : Remote), s.remotes = ⟨[(tag, some x)]⟩ → x.node = n → x.reply = none → x.kind ≠ 1 → ∃ t : State, exec (.nodeDown p n) s = .next t ∧
        t.remote tag = some { x with reply := some none } ∧ n ∈ t.nodesDown)) ∧
    (∀ (n : Nat) (e : Bool) (b : List Byte), exec (.routeEpoch p n e) s = .next s ∧ exec (.fabricFaultNotice p n b) s = .next s) ∧
    (s.flp.bind (·.fabric) = none → ∃ t : State, exec .routeCommit s = .next t ∧ t.fld 84 0x90810 29 29 = 1 ∧ { t with csr := s.csr } = s) ∧
    ∀ f : FabricCfg, s.flp.bind (·.fabric) = some f →
      let w (i : Nat) : Word := s.rd 84 (0xB0000 + 4 * i)
      let n := (w 32).toNat
      let tab : RouteTable := { groups := (List.range 16).map (fun g => w (2 * g + 1) ++ w (2 * g)), entries := (List.range (min n 12289)).map (fun d => w (34 + d)) }
      (tableOk tab f.nodeId f.portEnable = false → ∃ t : State, exec .routeCommit s = .next t ∧ t.fld 84 0x90810 29 29 = 1 ∧ { t with csr := s.csr } = s ∧ t.epoch = s.epoch) ∧
      (tableOk tab f.nodeId f.portEnable = true → ∃ t : State, exec .routeCommit s = .next t ∧ t.epoch = (!s.epoch) ∧ t.routeTable (!s.epoch) = some tab ∧
        t.routeTable s.epoch = s.routeTable s.epoch ∧ t.pool = s.pool)

/-- For every message at a port that carries traffic. A message for another node goes on with TTL one less on the port that its route names, and is discarded where TTL reaches zero. RRD of an accessible place answers its bytes; RWR with a mask stores exactly the bytes of its mask and is acknowledged; RATOM answers the old value of the atomic it performs; an access that a window refuses is answered RNack WINDOW. RRSP hands its data to the access that waits for it, RACK ends a write. RNACK, and REMOTE_ACCESS_TIMEOUT of an access without an answer, where no row of a collective has been refused, end a read in a refusal for its agent, and the time-out a hart's write in a contained error. -/
def Obligations.RemoteMemory : Prop :=
  (∀ (s : State) (p : FabPort) (m : FabMsg), s.phase = .running → s.fabState p.val = 2 → s.isSelf m.dst = false → (s.routeTable m.epoch).isSome →
    (∀ (q : FabPort) (d : Bool), 2 ≤ m.ttl → s.choosePort { m with ttl := m.ttl - 1 } (s.fabPart p.val) = some (q, d) → ∃ t : State, exec (.rrd p m) s = .next t ∧
      t.sent = s.sent ++ [.fabric q { m with ttl := m.ttl - 1, cls := m.cls || d }] ∧ t.pool = s.pool) ∧
    (m.ttl ≤ 1 → ∃ t : State, exec (.rwr p m) s = .next t ∧ t.sent = s.sent ∧ { t with csr := s.csr } = s)) ∧
  (∀ (s : State) (p : FabPort) (m : FabMsg), FabHere s p m →
    let a := (fabRange m).1
    let n := (fabRange m).2
    let part := s.fabPart p.val
    (∀ e : Nat, s.remoteCheck p a n false false = .error e → (s.choosePort (s.replyTo m 6 e [] false) part).isSome → ∃ (t : State) (q : FabPort) (x : FabMsg),
      exec (.rrd p m) s = .next t ∧ t.sent = s.sent ++ [.fabric q x] ∧ x.opcode = 6 ∧ x.status = e ∧ x.dst = m.src ∧ x.tag = m.tag ∧ t.pool = s.pool) ∧
    (∀ ph : Nat, s.remoteCheck p a n false false = .ok ph → LineHere s (ph / 128) false →
      (s.lineRead (ph / 128) (dieStack (fabReg p.val).1)).2 = false →
      (s.choosePort (s.replyTo m 4 0 (((s.lineRead (ph / 128) (dieStack (fabReg p.val).1)).1.drop (ph % 128)).take n) false) part).isSome → ∃ (t : State) (q : FabPort) (x : FabMsg),
      exec (.rrd p m) s = .next t ∧ t.sent = s.sent ++ [.fabric q x] ∧ x.opcode = 4 ∧ x.status = 0 ∧ x.dst = m.src ∧ x.tag = m.tag ∧ t.pool = s.pool ∧
      x.data = ((s.lineRead (ph / 128) (dieStack (fabReg p.val).1)).1.drop (ph % 128)).take n) ∧
    (∀ ph : Nat, s.remoteCheck p a n true false = .ok ph → m.mask ≠ 0 → m.poison = false → LineHere s (ph / 128) true → (s.lineNow (ph / 128)).1 = s.memLine (ph / 128) →
      s.compNamed (ph / 128) = false → s.lineFenced (ph / 128) = false → (s.choosePort (s.replyTo m 5 0 [] false) part).isSome → ∃ (t : State) (q : FabPort) (x : FabMsg),
      exec (.rwr p m) s = .next t ∧ StoresLine s t (ph / 128) m.mask m.data ∧ t.sent = s.sent ++ [.fabric q x] ∧ x.opcode = 5 ∧ x.dst = m.src ∧ x.tag = m.tag) ∧
    (∀ (op : AtomOp) (w off ph old : Nat) (s2 : State), auxAtom m.aux.toNat = some (op, w, off) → (m.addr / 64 * 64 + off) % (atomBits w / 8) = 0 →
      s.remoteCheck p (m.addr / 64 * 64 + off) (atomBits w / 8) true true = .ok ph → LineHere s (ph / 128) true →
      s.poolAtom (ph / 128) op w (ph % 128) (BitVec.ofNat 128 (leAt m.data 0 16)) (BitVec.ofNat 128 (leAt m.data 16 16)) = some (s2, some old) →
      (s2.choosePort (s2.replyTo m 4 0 (leBytes 16 old) false) part).isSome → ∃ (t : State) (q : FabPort) (x : FabMsg), exec (.ratom p m) s = .next t ∧
      t.sent = s2.sent ++ [.fabric q x] ∧ x.opcode = 4 ∧ x.data = leBytes 16 old ∧ x.dst = m.src ∧ t.pool = s2.pool) ∧
    (∀ y : Remote, s.remote m.tag.toNat = some y → y.reply = none →
      (y.kind ≠ 1 → (∃ t : State, exec (.rrsp p m) s = .next t ∧ t.remote m.tag.toNat = some { y with reply := some (some (m.data, m.poison)) } ∧ { t with remotes := s.remotes } = s) ∧
        (m.tag.toNat < 0xC000 → (∀ q : ColQueue, s.rowLost q.val = none) → ∃ t : State, exec (.rnack p m) s = .next t ∧ t.remote m.tag.toNat = some { y with reply := some none } ∧ { t with remotes := s.remotes } = s)) ∧
      (y.kind = 1 → ∃ t : State, exec (.rack p m) s = .next t ∧ t.remote m.tag.toNat = none ∧ { t with remotes := s.remotes } = s))) ∧
  ∀ (s : State) (tag : Nat) (y : Remote), s.phase = .running → s.remote tag = some y → y.reply = none → (∀ q : ColQueue, s.rowLost q.val = none) →
    (y.kind ≠ 1 → ∃ t : State, exec (.remoteAccessTimeout tag) s = .next t ∧ t.remote tag = some { y with reply := some none } ∧ { t with remotes := s.remotes } = s) ∧
    (∀ h : Nat, y.kind = 1 → y.agent = .hart h → ∃ t : State, exec (.remoteAccessTimeout tag) s = .next t ∧ t.remote tag = none ∧
      t.sent = s.sent ++ [.contained (hartDie h * 512 + h % 64) 0x118])

/-- For every state of a running package and every collective queue. COL_QUEUE_ARM from 0 to 1 sets ARM and resets the slot count, and clears ARM otherwise. COL_QUEUE_DOORBELL and COL_QUEUE_POLL of an armed, idle queue whose head slot bears its stamp take the collective it describes, where no stack is throttled, count the slot and send CReady to the rank it exchanges data with. CREADY before its collective, or of a rank that the running one does not wait for, is kept; of one it waits for, with the collective's own fields it makes the rank ready, with others it fails the collective. CACK is recorded. COL_QUEUE_ABORT, COLLECTIVE_TIMEOUT, COLLECTIVE_ABORT, and COLLECTIVE_END after the last step leave the queue idle. THERMAL_HOLD of another node puts the collective in hold and THERMAL_RELEASE of the last one takes it out. -/
def Obligations.CollectiveQueues : Prop :=
  ∀ (s : State) (q : ColQueue), s.phase = .running →
    let die := colDie q.val
    let ctl := colOff q.val 8
    (s.fld die ctl 31 31 = 0 → ∃ t : State, exec (.colQueueArm q true) s = .next t ∧ t.fld die ctl 31 31 = 1 ∧ t.fld die (colOff q.val 0xC) 31 0 = 0 ∧ { t with csr := s.csr } = s) ∧
    (∃ t : State, exec (.colQueueArm q false) s = .next t ∧ t.fld die ctl 31 31 = 0 ∧ t.fld die (colOff q.val 0xC) 31 0 = s.fld die (colOff q.val 0xC) 31 0 ∧ { t with csr := s.csr } = s) ∧
    (∀ (s2 : State) (b : List Byte) (c : Collective) (r : Nat), let size := s.fld die ctl 20 16
      let head := (s.rd die (colOff q.val 0xC)).toNat
      let a := (s.rd64 die (colOff q.val 0)).toNat / 128 * 128 + head % 2 ^ size * 128
      s.col q.val = none → s.fld die ctl 31 31 = 1 → 4 ≤ size → size ≤ 12 → s.partState (s.colPart q.val) ≤ 2 → s.rangeFree a 128 false = (s, true) → s.readLocal a 128 = some (s2, b, false) →
      leAt b 0x7C 4 = 0x80000000 + head % 2 ^ 31 → ((s2.inc die (colOff q.val 0xC)).setFld die ctl 29 29 1).colParse q.val b = .ok c → c.peers = [r] → s.earlyReady = [] →
      (s.colPort q.val c r 0x11 0).isSome → (∀ ch : Chan, s2.chanThrottled ch = false) →
      (∃ (t : State) (l : List Msg) (p : FabPort) (h : FabMsg), exec (.colQueueDoorbell q) s = .next t ∧ t.col q.val = some c ∧ t.fld die ctl 29 29 = 1 ∧ t.rd die (colOff q.val 0xC) = s.rd die (colOff q.val 0xC) + 1 ∧
        t.sent = s2.sent ++ l ++ [.colMsg p h c.wsz q r 0x11 0 (b ++ c.fields.group.flatMap (leBytes 2) ++ [2]) []] ∧ h.opcode = 0x11 ∧ h.dst = c.node r) ∧
      exec (.colQueuePoll q) s = exec (.colQueueDoorbell q) s) ∧
    (∀ (rank v : Nat) (f : ColFields), s.col q.val = none → ∃ t : State, exec (.cready q rank f v) s = .next t ∧ t.earlyReady = s.earlyReady ++ [(q.val, rank, f, v)] ∧
      { t with earlyReady := s.earlyReady } = s) ∧
    ∀ c : Collective, s.col q.val = some c →
      (∀ (rank v x : Nat), rank ∈ c.peers → rank ∉ c.ready → x ∈ c.peers → x ≠ rank → x ∉ c.ready → ∃ t : State, exec (.cready q rank c.fields v) s = .next t ∧
        t.col q.val = some { c with ready := c.ready ++ [rank], version1 := c.version1 || v == 1 } ∧ t.sent = s.sent ∧ t.pool = s.pool) ∧
      (∀ (rank v : Nat) (f : ColFields), rank ∉ c.peers ∨ rank ∈ c.ready → ∃ t : State, exec (.cready q rank f v) s = .next t ∧ t.earlyReady = s.earlyReady ++ [(q.val, rank, f, v)] ∧
        { t with earlyReady := s.earlyReady } = s) ∧
      (∀ (rank v : Nat) (f : ColFields), rank ∈ c.peers → rank ∉ c.ready → f ≠ c.fields → ∃ t : State, exec (.cready q rank f v) s = .next t ∧ t.col q.val = none ∧ t.fld die ctl 29 29 = 0) ∧
      (∀ rank chunk : Nat, ∃ t : State, exec (.cack q rank chunk) s = .next t ∧ t.col q.val = some { c with acked := c.acked ++ [(rank, chunk)] } ∧ { t with cols := s.cols } = s) ∧
      (∃ t : State, exec (.colQueueAbort q) s = .next t ∧ t.col q.val = none ∧ t.fld die ctl 31 31 = 0 ∧ t.fld die ctl 29 29 = 0) ∧
      (c.timeout ≠ 0 → c.holds = [] → ∃ t : State, exec (.collectiveTimeout q) s = .next t ∧ t.col q.val = none ∧ t.fld die ctl 29 29 = 0) ∧
      (∀ st e n : Nat, st = 5 ∨ st = 6 → ∃ t : State, exec (.collectiveAbort q st e n) s = .next t ∧ t.col q.val = none ∧ t.fld die ctl 29 29 = 0) ∧
      (c.state = 2 ∨ c.state = 3 → c.stepsDone = c.steps → ∃ t : State, exec (.collectiveEnd q) s = .next t ∧ t.col q.val = none ∧ t.fld die ctl 29 29 = 0 ∧
        ∀ p : ColQueue, p ≠ q → t.col p.val = s.col p.val) ∧
      (∀ n : Nat, n ∈ c.fields.group → n ≠ c.self → c.version1 = false →
        (n ∉ c.holds → ∃ t : State, exec (.thermalHold q n) s = .next t ∧ t.col q.val = some { c with holds := n :: c.holds, held := true, state := 3 }) ∧
        (c.holds = [n] → ∃ t : State, exec (.thermalRelease q n) s = .next t ∧
          t.col q.val = some { c with holds := [], state := if ∀ r ∈ c.peers, r ∈ c.ready then 2 else 1 }))

/-- For every state of a running package. CDATA of an all-gather's one chunk, from the other of two ranks that are both ready, whose block lies in one line, stores exactly the chunk in that rank's place of DST, acknowledges it and completes the step. COLLECTIVE_PROGRESS_WRITE stores the collective's record at its progress address and nothing else. DROW of rows that lie in one line, which the window permits, stores exactly them and acknowledges. DCLAIM answers the old value of the atomic it performs, as RATOM does. -/
def Obligations.CollectiveStores : Prop :=
  (∀ (s : State) (q : ColQueue) (c : Collective) (data : List Byte) (ph : Nat), s.phase = .running → s.col q.val = some c →
    let other := 1 - c.rank
    let a := c.dst + other * data.length
    c.fields.opcode = 2 → c.fields.nodes = 2 → c.rank < 2 → other ∈ c.ready → c.steps = 1 → c.stepsDone = 0 → c.rows = 0 → data ≠ [] →
    data.length = c.fields.count.toNat * c.isz → a % 128 + data.length ≤ 128 → c.fields.ifmt ≤ 1 →
    s.rangeFree (c.srcAt other 0) data.length false = (s, true) → s.rangeFree a data.length true = (s, true) → s.place a = some ph → ph % 128 = a % 128 →
    s.lineNow (ph / 128) = (s.memLine (ph / 128), false) → s.compNamed (ph / 128) = false → s.lineFenced (ph / 128) = false → (s.colPort q.val c other 0x12 0).isSome →
    ∃ (t : State) (p : FabPort) (h : FabMsg), exec (.cdata q other 0 data []) s = .next t ∧ StoresLine s t (ph / 128) (runMask (ph % 128) data.length) (List.replicate (ph % 128) 0 ++ data) ∧
      t.sent = s.sent ++ [.colMsg p h c.wsz q other 0x12 0 [] []] ∧ h.opcode = 0x12 ∧ h.dst = c.node other ∧ t.col q.val = some { c with rows := 1, stepsDone := 1 }) ∧
  (∀ (s : State) (q : ColQueue) (c : Collective) (ph : Nat), s.phase = .running → s.col q.val = some c → c.progress % 64 = 0 → s.place c.progress = some ph → s.lineHeld (ph / 128) = false →
    ph % 128 = c.progress % 128 → s.lineNow (ph / 128) = (s.memLine (ph / 128), false) → s.compNamed (ph / 128) = false → s.lineFenced (ph / 128) = false →
    ∃ t : State, exec (.collectiveProgressWrite q) s = .next t ∧ StoresLine s t (ph / 128) (runMask (ph % 128) 64) (List.replicate (ph % 128) 0 ++ c.record) ∧
      t.sent = s.sent ∧ t.cols = s.cols) ∧
  (∀ (s : State) (p : FabPort) (m : FabMsg) (ph : Nat), FabHere s p m →
    let a := m.addr / 64 * 64
    let part := s.fabPart p.val
    a < 0x30000000000 → m.data ≠ [] → a % 128 + m.data.length ≤ 128 → m.poison = false → s.rangeOk part true 4096 a m.data.length = true → s.place a = some ph →
    ph % 128 = a % 128 → s.inService ph = true → s.setReady a = true → s.rangeFree a m.data.length true = (s, true) → s.lineNow (ph / 128) = (s.memLine (ph / 128), false) →
    s.compNamed (ph / 128) = false → s.lineFenced (ph / 128) = false → (s.choosePort (s.replyTo m 5 0 [] false) part).isSome →
    ∃ (t : State) (r : FabPort) (x : FabMsg), exec (.drow p m) s = .next t ∧
      StoresLine s t (ph / 128) (runMask (ph % 128) m.data.length) (List.replicate (ph % 128) 0 ++ m.data) ∧ t.sent = s.sent ++ [.fabric r x] ∧ x.opcode = 5 ∧ x.dst = m.src) ∧
  ∀ (s s2 : State) (p : FabPort) (m : FabMsg) (op : AtomOp) (w off ph old : Nat), FabHere s p m → auxAtom m.aux.toNat = some (op, w, off) →
    (m.addr / 64 * 64 + off) % (atomBits w / 8) = 0 → s.remoteCheck p (m.addr / 64 * 64 + off) (atomBits w / 8) true true = .ok ph → LineHere s (ph / 128) true →
    s.poolAtom (ph / 128) op w (ph % 128) (BitVec.ofNat 128 (leAt m.data 0 16)) (BitVec.ofNat 128 (leAt m.data 16 16)) = some (s2, some old) →
    (s2.choosePort (s2.replyTo m 4 0 (leBytes 16 old) false) (s.fabPart p.val)).isSome → ∃ (t : State) (r : FabPort) (x : FabMsg), exec (.dclaim p m) s = .next t ∧
    t.sent = s2.sent ++ [.fabric r x] ∧ x.opcode = 4 ∧ x.data = leBytes 16 old ∧ x.dst = m.src ∧ t.pool = s2.pool

/-- For every state of a running package. FAULT_DETECT of a fault whose entry fences nothing and asks for no safe state queues one notice at the leaf with the class, reaction, partitions and time the entry gives, fills the empty capture set of the class, and changes nothing else; with a full queue, while the leaf still accepts, a corrected one only counts; of two faults of one cycle at one leaf the one of the lower unit, then of the lower source, is taken first, and the other, which waits, is recorded as queued. FAULT_NOTICE takes the leaf's next notice with the next leaf sequence to both roots, whose logs gain it with the next SEQ. MERGED_NOTICE_SEND queues the lowest source's total. ROOT_DIGEST_COMPARE of roots that have not logged the same and NOTICE_DELIVERY_TIMEOUT send the safe-state command and fill the fatal set. FC_LOG_FREE drops exactly the records whose SEQ precedes n + 1 and ignores a value that is not held; FC_DROPS_CLEAR, CAPTURE_SET_CLEAR and FC_PART_CPU_MSI_WRITE change the one register they name, the last sending a pending interrupt as MASK clears, unless one sent within 10 µs covers it. -/
def Obligations.FaultReports : Prop :=
  (∀ (s : State) (f : FaultIn), s.phase = .running → f.kind = .none → f.source ≠ 0x10 → s.root94.alive = true → s.unitFenced f = false → bitAt (s.sev f.source.toNat) 12 = false →
    let d := f.die.val
    let cls := s.sev f.source.toNat % 4
    ((s.leaf d).queue.length < 64 → ∃ t : State, exec (.faultDetect ⟨f, []⟩) s = .next t ∧ { t with leaves := s.leaves } = s ∧ (∀ e : Nat, e ≠ d → t.leaf e = s.leaf e) ∧
      (t.leaf d).queue = (s.leaf d).queue ++ [{
        leaf := f.die, leafSeq := 0, fault := f, cls := cls, react := BitVec.ofNat 8 (bits (s.sev f.source.toNat) 15 8), fenced := false,
        suppressed := false, merged := false, count := 1, time := s.now, parts := BitVec.ofNat 8 (s.faultParts f) }] ∧
      (t.leaf d).captures.get none cls = ((s.leaf d).captures.get none cls).or (some { source := f.source, access := f.access, agent := d * 512 + f.unit, addr := f.addr, time := s.now }) ∧
      ∀ k : Nat, k ≠ cls → (t.leaf d).captures.get none k = (s.leaf d).captures.get none k) ∧
    (64 ≤ (s.leaf d).queue.length → (s.leaf d).held = [] → cls = 0 → ∃ t : State, exec (.faultDetect ⟨f, []⟩) s = .next t ∧ { t with leaves := s.leaves } = s ∧ (t.leaf d).queue = (s.leaf d).queue ∧
      (t.leaf d).merged.get 0 f.source.toNat = min ((s.leaf d).merged.get 0 f.source.toNat + 1) 0xFFFFFFFF) ∧
    ∀ g : FaultIn, g.die = f.die → g.kind = .none → g.source ≠ 0x10 → s.unitFenced g = false → bitAt (s.sev g.source.toNat) 12 = false → (s.leaf d).queue.length < 63 →
      g.unit < f.unit ∨ g.unit = f.unit ∧ g.source.toNat < f.source.toNat → ∃ t : State, exec (.faultDetect ⟨f, [g]⟩) s = .next t ∧ exec (.faultDetect ⟨g, [f]⟩) s = .next t ∧
      (t.leaf d).queue.map (·.fault) = (s.leaf d).queue.map (·.fault) ++ [g, { f with waited := true }]) ∧
  (∀ (s : State) (d : DieId) (n : Notice) (rest : List Notice), s.phase = .running → (s.leaf d.val).queue = n :: rest → (s.leaf d.val).held = [] → n.react.getLsbD 0 = true →
    s.root94.alive = true → s.root95.alive = true → s.root94.log.length < 4096 → s.root95.log.length < 4096 →
    ∃ t : State, exec (.faultNotice d) s = .next t ∧ (t.leaf d.val).queue = rest ∧ (t.leaf d.val).seq = (s.leaf d.val).seq + 1 ∧ (∀ e : Nat, e ≠ d.val → t.leaf e = s.leaf e) ∧
      t.root94.log = s.root94.log ++ [{ seq := s.root94.next, safe := n.cls == 2 && !n.suppressed, notice := { n with leafSeq := (s.leaf d.val).seq + 1 } }] ∧ t.root94.next = s.root94.next + 1 ∧
      t.root95.log = s.root95.log ++ [{ seq := s.root95.next, safe := n.cls == 2 && !n.suppressed, notice := { n with leafSeq := (s.leaf d.val).seq + 1 } }] ∧ t.root95.next = s.root95.next + 1 ∧
      t.pool = s.pool ∧ t.cores = s.cores ∧ t.csr = s.csr) ∧
  ∀ (s : State), s.phase = .running →
    (∀ (d : DieId) (src n : Nat) (more : List (Nat × Nat)), (s.leaf d.val).queue.length < 64 → (s.leaf d.val).merged.cells = (src, n) :: more →
      ∃ (t : State) (x : Notice), exec (.mergedNoticeSend d) s = .next t ∧ { t with leaves := s.leaves } = s ∧ (t.leaf d.val).queue = (s.leaf d.val).queue ++ [x] ∧
        x.merged = true ∧ x.count = n ∧ x.cls = 0 ∧ x.fault.source = BitVec.ofNat 8 src ∧ (t.leaf d.val).merged.get 0 src = 0) ∧
    (s.root94.alive = true → s.root95.alive = true → ∀ b : Bool,
      (s.root94.logged = s.root95.logged → exec (.rootDigestCompare b) s = .next s) ∧
      (s.root94.logged ≠ s.root95.logged → ∃ t : State, exec (.rootDigestCompare b) s = .next t ∧ t.sent = s.sent ++ [.backStair 1 94 0xFF [1]] ∧
        { t with leaves := s.leaves, sent := s.sent, hallSeq := s.hallSeq, hallOut := s.hallOut } = s ∧ (b = false → t.leaves = s.leaves) ∧
        (b = true → ((t.leaf 94).captures.get none 2).isSome))) ∧
    (∀ d : DieId, (s.leaf d.val).queue ≠ [] → ∃ t : State, exec (.noticeDeliveryTimeout d) s = .next t ∧ t.sent = s.sent ++ [.backStair 1 d.val 0xFF [1]] ∧
      { t with leaves := s.leaves, sent := s.sent, hallSeq := s.hallSeq, hallOut := s.hallOut } = s ∧ ((t.leaf d.val).captures.get none 2).isSome ∧ (t.leaf d.val).queue = (s.leaf d.val).queue) ∧
    (∀ r95 : Bool,
      (∃ t : State, exec (.fcDropsClear r95) s = .next t ∧ t.root r95 = { s.root r95 with drops := ⟨[]⟩ } ∧ t.root (!r95) = s.root (!r95) ∧ { t with root94 := s.root94, root95 := s.root95 } = s) ∧
      (∀ (x : LogRec) (more : List LogRec) (n : Word), (s.root r95).log = x :: more →
        ∃ t : State, exec (.fcLogFree r95 n) s = .next t ∧ t.root (!r95) = s.root (!r95) ∧ { t with root94 := s.root94, root95 := s.root95 } = s ∧
          ((n - x.seq).toNat < ((s.root r95).next - x.seq).toNat →
            ∀ y : LogRec, y ∈ (t.root r95).log ↔ y ∈ (s.root r95).log ∧ (n - x.seq).toNat < (y.seq - x.seq).toNat) ∧
          (((s.root r95).next - x.seq).toNat ≤ (n - x.seq).toNat → t.root r95 = s.root r95)) ∧
      (∀ (p : PartId) (a : DWord) (v : Word) (m : Bool), ∃ t : State, exec (.fcPartCpuMsiWrite r95 p a v m) s = .next t ∧
        (t.root r95).cpuMsi.get MsiEntry.reset p.val = { addr := a, value := v, mask := m, pending := ((s.root r95).cpuMsi.get MsiEntry.reset p.val).pending && m } ∧
        (∀ q : Nat, q ≠ p.val → (t.root r95).cpuMsi.get MsiEntry.reset q = (s.root r95).cpuMsi.get MsiEntry.reset q) ∧
        t.sent = s.sent ++ (if ((s.root r95).cpuMsi.get MsiEntry.reset p.val).pending = true ∧ m = false ∧ a ≠ 0 ∧ s.covered r95 p.val = false then [.msi a v] else []) ∧ t.root (!r95) = s.root (!r95))) ∧
    ∀ (d : DieId) (k : Fin 3),
      (∃ t : State, exec (.captureSetClear d false k) s = .next t ∧ (t.leaf d.val).captures.get none k.val = none ∧ { t with leaves := s.leaves } = s ∧
        (∀ j : Nat, j ≠ k.val → (t.leaf d.val).captures.get none j = (s.leaf d.val).captures.get none j) ∧ ∀ e : Nat, e ≠ d.val → t.leaf e = s.leaf e) ∧
      (d.val = 94 ∨ d.val = 95 → ∃ t : State, exec (.captureSetClear d true k) s = .next t ∧ (t.root (d.val == 95)).captures.get none k.val = none ∧
        { t with root94 := s.root94, root95 := s.root95 } = s)

/-- For every state of a running package. FAULT_DETECT of a hart or a core whose entry's bit 11 is set and that is not fenced takes it out of service. ROOT_FAILOVER makes die 95's root the active one and ends die 94's. DIE_HEARTBEAT_LOSS fences the die that is lost, where its entry fences. SAFE_STATE_COMMAND enters the safe state: READY and FATAL_N go low, SL_STATUS shows it, every channel that is neither held in reset nor fenced goes to self-refresh, the Pool keeps its bytes, the page mappings of remote memory end, and the erased dump area takes the log, with area 1 first. DUMP_AREA_ERASE leaves one area erased and keeps the other: an uncommitted one before a committed one, else the one of the smaller sequence. -/
def Obligations.FaultReactions : Prop :=
  ∀ (s : State), s.phase = .running →
    (∀ f : FaultIn, f.kind = .hart → s.unitFenced f = false → fenceKind f.source.toNat = .hart → bitAt (s.sev f.source.toNat) 11 = true →
      ∃ t : State, exec (.faultDetect ⟨f, []⟩) s = .next t ∧ (t.hart f.index).fenced = true ∧ (t.hart f.index).resv = none ∧ (∀ j : Nat, j ≠ f.index → t.hart j = s.hart j) ∧
        t.fencedU.contains (UnitKind.hart, f.index) = true ∧ t.pool = s.pool ∧ t.cores = s.cores) ∧
    (∀ f : FaultIn, f.kind = .core → s.unitFenced f = false → fenceKind f.source.toNat = .core → bitAt (s.sev f.source.toNat) 11 = true →
      ∃ t : State, exec (.faultDetect ⟨f, []⟩) s = .next t ∧ t.fencedU.contains (UnitKind.core, f.index) = true ∧
        ((s.core f.index).kernel = none → (s.core f.index).testing = false → s.launches = ⟨[]⟩ → (t.core f.index).fenced = true ∧ (t.core f.index).kernel = none ∧ t.pool = s.pool ∧ ∀ j : Nat, j ≠ f.index → t.core j = s.core j) ∧
        ∀ (n d : Nat) (l : Launch), (s.core f.index).kernel = some n → (s.core f.index).testing = false → s.launches.cells = [(n, l)] → l.started = true → l.reports.any (fun r => r.1 == f.index) = false → d ∈ l.cores → d ≠ f.index →
          l.reports.any (fun r => r.1 == d) = false → (t.core f.index).fenced = true ∧ (t.core f.index).kernel = none ∧ t.pool = s.pool ∧ (∀ j : Nat, j ≠ f.index → t.core j = s.core j) ∧
          ∃ info : List Nat, t.launch n = some { l with reports := l.reports ++ [(f.index, 0x105, info)] }) ∧
    (s.mgmt.active95 = false → s.root95.alive = true → ∃ t : State, exec .rootFailover s = .next t ∧ t.mgmt.active95 = true ∧ t.root94.alive = false ∧ t.root95.alive = true ∧
      t.root95.peerLost = true ∧ t.activeRoot = true ∧ t.root95.log = s.root95.log ∧ t.root95.next = s.root95.next) ∧
    (∀ d : DieId, s.fencedU.contains (UnitKind.die, d.val) = false → s.fencedU.contains (UnitKind.die, if s.activeRoot then 95 else 94) = false → bitAt (s.sev 0x50) 11 = true →
      ∃ t : State, exec (.dieHeartbeatLoss d) s = .next t ∧ t.fencedU.contains (UnitKind.die, d.val) = true) ∧
    (∀ d : DieId, ∃ t : State, exec (.safeStateCommand d) s = .next t ∧ t.phase = .safe ∧ t.pins.ready = false ∧ t.pins.fatalN = false ∧ t.fld 94 0x20100 30 30 = 1 ∧ t.pool = s.pool ∧
      t.remotes = ⟨[]⟩ ∧ t.cores = s.cores ∧ t.harts = s.harts ∧
      (∀ c : Chan, s.chanState c ≠ 0 → s.chanState c ≠ 4 → t.chanState c = 5) ∧ (∀ c : Chan, s.chanState c = 0 ∨ s.chanState c = 4 → t.chanState c = s.chanState c) ∧
      let area := fun (x : State) (i : Nat) => x.mgmt.dumps.get DumpArea.reset i
      let r := if s.mgmt.active95 then s.root95 else s.root94
      (∀ i j : Nat, (area s i).erased = true → (i = 1 ∧ j = 0 ∨ i = 0 ∧ j = 1 ∧ (area s 1).erased = false) →
        (area t i).committed = true ∧ (area t i).erased = false ∧ (area t i).sequence = (area s j).sequence + 1 ∧ (area t i).time = s.now ∧ (area t i).cause = 0 ∧
        (area t i).records = r.log.filter (fun x => x.notice.cls != 0) ++ r.log.filter (fun x => x.notice.cls == 0) ∧ area t j = area s j) ∧
      ((area s 0).erased = false → (area s 1).erased = false → t.mgmt = s.mgmt)) ∧
    (∀ i j : Nat, let area := fun (x : State) (n : Nat) => x.mgmt.dumps.get DumpArea.reset n
      (i = 0 ∧ j = 1 ∧ (area s 1).committed = true ∧ ((area s 0).committed = false ∨ (area s 0).sequence < (area s 1).sequence) ∨
        i = 1 ∧ j = 0 ∧ ((area s 1).committed = false ∨ (area s 0).committed = true ∧ (area s 1).sequence ≤ (area s 0).sequence)) →
      ∃ t : State, exec .dumpAreaErase s = .next t ∧ (area t i).erased = DumpArea.reset.erased ∧ (area t i).committed = false ∧ (area t i).records = [] ∧ area t j = area s j ∧
        { t with mgmt := s.mgmt } = s)

/-- For every state of a running package. BUDGET_RECOMPUTE sets P to the smallest of the input's power, the host limit and 10.8 kW; a rise goes to the active management die, a fall sends CUT with a new generation to every die. PKG_LIMIT_WRITE takes a limit, or sets LIMIT_ERR for one below the sum of MIN. POWER_EPOCH_START of a die that has contact computes its need from its demand, and sends each partner STATE with its budget and want; one without contact for two epochs isolates itself and forfeits a tenth. TOKEN_GIVE_TIMER gives each partner its share, and what is left and what is given make up the old budget. STATE records a partner's budget and want, GIVE adds its tokens to the budget, or to the forfeit of an isolated die, CUT scales what a budget has above MIN, and POWER_MEASURE lowers the ceilings of a die above its budget, MAX or cap and raises them otherwise. -/
def Obligations.TokenExchange : Prop :=
  ∀ (s : State), s.phase = .running →
    (∀ v : Nat, let input := min (v * 18) 108000
      let limit := s.fld 94 0xD0100 19 0
      let p := if limit ≠ 0 ∧ limit ≤ input then limit else input
      let old := s.fld 94 0xD0104 19 0
      ∃ t : State, exec (.budgetRecompute v) s = .next t ∧ t.fld 94 0xD0104 19 0 = p ∧ t.fld 94 0xD0104 30 30 = (if limit ≠ 0 ∧ limit ≤ input then 0 else 1) ∧
        (s.flp = none ∨ p = old → t.sent = s.sent ∧ t.stewards = s.stewards) ∧
        (s.flp.isSome → s.sumMin ≤ old → old < p → t.sent = s.sent ∧ (t.steward s.activeDie).budget = (s.steward s.activeDie).budget + (p - old) ∧
          ∀ d : Nat, d ≠ s.activeDie → t.steward d = s.steward d) ∧
        (s.flp.isSome → p < old → t.stewards = s.stewards ∧ t.cutGen = s.cutGen + 1 ∧
          t.sent = s.sent ++ (List.range 100).map (fun d => .backStair 4 s.activeDie d [s.cutGen + 1, 65536 * (p - s.sumMin) / (old - s.sumMin)]))) ∧
    (∀ (r : Bool) (v : Word), let n := v.toNat % 2 ^ 20
      ∃ t : State, exec (.pkgLimitWrite r v) s = .next t ∧ { t with csr := s.csr } = s ∧
        (n ≠ 0 → n < s.sumMin → t.fld 94 0xD0104 31 31 = 1 ∧ t.fld 94 0xD0100 19 0 = s.fld 94 0xD0100 19 0) ∧
        (n = 0 ∨ s.sumMin ≤ n → t.fld 94 0xD0104 31 31 = 0 ∧ t.fld 94 0xD0100 19 0 = n)) ∧
    (∀ (d : DieId) (m : Nat), let k := s.steward d.val
      let b := s.budgetCfg d.val
      let need := min (min b.max (max b.min (ceilDiv ((if k.limited then 125 else 105) * m) 100))) (k.cap.getD (min b.max (max b.min (ceilDiv ((if k.limited then 125 else 105) * m) 100))))
      let first := s.rd64 d.val 0xD0018 = 0
      let fwd := fun j : Nat => ((partners d.val).filter (· != j)).foldl (fun x i => max x (k.wants.get 0 i)) 0
      s.flp.isSome → d.val ≠ s.activeDie →
      (first ∨ s.pwrBit d.val 31 = false ∧ k.heard = true → ∃ t : State, exec (.powerEpochStart d m) s = .next t ∧ (t.steward d.val).need = need ∧ (t.steward d.val).budget = k.budget ∧
        (t.steward d.val).heard = false ∧ t.fld d.val 0xD0008 15 0 = m % 65536 ∧ t.rd64 d.val 0xD0018 = BitVec.ofNat 64 (s.time / 1000000) ∧
        t.sent = s.sent ++ (partners d.val).map (fun j => .backStair 2 d.val j [k.budget, if k.budget < need then max (need - k.budget) (fwd j) else fwd j - (k.budget - need)]) ∧
        ∀ e : Nat, e ≠ d.val → t.steward e = s.steward e) ∧
      (¬ first → s.pwrBit d.val 31 = false → k.heard = false → k.silent = 1 → b.min ≤ k.budget → ∃ t : State, exec (.powerEpochStart d m) s = .next t ∧ t.pwrBit d.val 31 = true ∧
        (t.steward d.val).budget = max b.min (k.budget - ceilDiv k.budget 10) ∧
        t.rd d.val 0xD000C = s.rd d.val 0xD000C + BitVec.ofNat 32 (k.budget - max b.min (k.budget - ceilDiv k.budget 10)))) ∧
    (∀ m : Nat, ∀ d : DieId, d.val = s.activeDie → s.flp.isSome → ∃ t : State, exec (.powerEpochStart d m) s = .next t ∧ t.mgmt.telemetry.take 16 = leBytes 8 s.time ++ leBytes 8 (s.time / 1000000)) ∧
    (∀ d : DieId, let k := s.steward d.val
      (s.pwrBit d.val 31 = true ∨ k.budget ≤ k.need → exec (.tokenGiveTimer d) s = .next s) ∧
      (s.pwrBit d.val 31 = false → k.need < k.budget → ∃ (t : State) (l : List (Nat × Nat)), exec (.tokenGiveTimer d) s = .next t ∧
        t.sent = s.sent ++ l.map (fun x => .backStair 3 d.val x.1 [x.2, s.fld d.val 0xD0004 15 0]) ∧ (t.steward d.val).budget + (l.map (·.2)).sum = k.budget ∧ k.need ≤ (t.steward d.val).budget ∧
        (∀ x ∈ l, x.1 ∈ partners d.val ∧ 0 < x.2 ∧ x.2 ≤ k.wants.get 0 x.1) ∧ { t with sent := s.sent, stewards := s.stewards, hallSeq := s.hallSeq, hallOut := s.hallOut } = s ∧ ∀ e : Nat, e ≠ d.val → t.steward e = s.steward e)) ∧
    (∀ (d j : DieId) (b w : Nat), j.val ∈ partners d.val → ∃ t : State, exec (.state d j b w) s = .next t ∧ (t.steward d.val).heard = true ∧ (t.steward d.val).wants.get 0 j.val = w ∧
      (t.steward d.val).seen.get 0 j.val = b ∧ (t.steward d.val).budget = (s.steward d.val).budget ∧ { t with stewards := s.stewards } = s) ∧
    (∀ (d j : DieId) (n gen : Nat) (ret : Bool), j.val ∈ partners d.val → (s.steward d.val).factors.all (fun x => decide (x.1 ≤ gen)) = true →
      ∃ t : State, exec (.give d j n gen ret) s = .next t ∧
        (s.pwrBit d.val 31 = false ∨ ret = true → (t.steward d.val).budget = (s.steward d.val).budget + n ∧ { t with stewards := s.stewards } = s) ∧
        (s.pwrBit d.val 31 = true → ret = false → t.rd d.val 0xD000C = s.rd d.val 0xD000C + BitVec.ofNat 32 n ∧ { t with csr := s.csr } = s)) ∧
    (∀ (d : DieId) (gen f : Nat), s.fld d.val 0xD0004 15 0 ≠ gen % 65536 → (s.budgetCfg d.val).min < (s.steward d.val).budget →
      ∃ t : State, exec (.cut d gen f) s = .next t ∧ t.fld d.val 0xD0004 15 0 = gen % 65536 ∧
        (t.steward d.val).budget = (s.budgetCfg d.val).min + ((s.steward d.val).budget - (s.budgetCfg d.val).min) * f / 65536 ∧ ∀ e : Nat, e ≠ d.val → t.steward e = s.steward e) ∧
    ∀ (d : DieId) (n hi : Nat) (lim : Bool), let k := s.steward d.val
      s.flp.isSome → ∃ t : State, exec (.powerMeasure d n hi lim) s = .next t ∧ t.fld d.val 0xD0008 31 16 = hi % 65536 ∧ { t with csr := s.csr, stewards := s.stewards } = s ∧
        (∀ e : Nat, e ≠ d.val → t.steward e = s.steward e) ∧
        (lim = true ∨ k.budget < n ∨ (s.budgetCfg d.val).max < n ∨ (∃ c, k.cap = some c ∧ c < n) → t.steward d.val = { k with
          limited := true, ceiling := min (k.ceiling + 1) (ceilingSteps d.val),
          admission := if hasMemory d.val then min (k.admission + 1) 8 else 0 }) ∧
        (lim = false → n ≤ k.budget → n ≤ (s.budgetCfg d.val).max → (∀ c, k.cap = some c → n ≤ c) → t.steward d.val = { k with ceiling := k.ceiling - 1, admission := k.admission - 1 })

/-- For every state of a running package. INPUT_SAMPLE records voltage and current; the tenth sample below 47 V in a row begins a power-down, the second above 190 A sends one fast throttle to every compute and CPU die, and any other changes only the record and its counts. FAST_THROTTLE_LIFT ends the throttle after 100 microseconds below 180 A. REGULATOR_OUT_OF_RANGE fences its die where its entry fences. DIE_TEMP_POLL records the highest reading, throttles at the throttle temperature with THERM_N low, and ends the throttle below the release temperature; THROTTLE_RELEASE_STEP raises the ceilings below it. ATTIC_TEMP_POLL and ANNEX_TEMP_POLL set the refresh band of every channel of the stack, up at once and down only after a millisecond two degrees below, and throttle a hot stack. CORE_CLOCK_GATE gates a core without a kernel. SUPPLY_DROOP adds its cycles to the island's counter. -/
def Obligations.InputAndTemperatures : Prop :=
  ∀ (s : State), s.phase = .running →
    (∀ v a : Nat, let v2 := v % 65536 * 65536 + a % 65536
      (4700 ≤ v ∨ s.lowUs + 10 < 100 → a ≤ 19000 ∨ s.overUs + 10 < 20 ∨ s.pwrBit 0 27 = true → ∃ t : State, exec (.inputSample v a) s = .next t ∧ t.rd 94 0xD0108 = BitVec.ofNat 32 v2 ∧
        t.lowUs = (if v < 4700 then s.lowUs + 10 else 0) ∧ t.overUs = (if 19000 < a then s.overUs + 10 else 0) ∧ t.calmUs = (if a < 18000 then s.calmUs + 10 else 0) ∧
        t.phase = .running ∧ t.sent = s.sent ∧ t.pool = s.pool) ∧
      (v < 4700 → 90 ≤ s.lowUs → ∃ t : State, exec (.inputSample v a) s = .next t ∧ t.phase = .powerDown ∧ t.pins.ready = false ∧ t.pool = s.pool) ∧
      (4700 ≤ v → 19000 < a → 10 ≤ s.overUs → s.pwrBit 0 27 = false → ∃ t : State, exec (.inputSample v a) s = .next t ∧ (∀ d : Nat, d < 36 → t.pwrBit d 27 = true) ∧
        t.rd 94 0xD010C = s.rd 94 0xD010C + 1 ∧ t.sent = s.sent ++ (List.range 36).map (fun d => .backStair 5 94 d []) ∧ t.phase = .running)) ∧
    (s.pwrBit 0 27 = true → 100 ≤ s.calmUs → ∃ t : State, exec .fastThrottleLift s = .next t ∧ (∀ d : Nat, d < 36 → t.pwrBit d 27 = false) ∧ { t with csr := s.csr } = s) ∧
    (s.pwrBit 0 27 = false ∨ s.calmUs < 100 → exec .fastThrottleLift s = .next s) ∧
    (∀ d : DieId, s.fencedU.contains (UnitKind.die, d.val) = false → (match unitOfNumber d.val (stewardUnit d.val) with | some u => s.fencedU.contains u | none => false) = false → bitAt (s.sev 0x4A) 11 = true →
      ∃ t : State, exec (.regulatorOutOfRange d) s = .next t ∧ t.fencedU.contains (UnitKind.die, d.val) = true) ∧
    (∀ (d : DieId) (l : List Nat), let x := l.foldl max 0
      let (hot, cool, crit) := if d.val < 36 then (100, 97, 110) else (105, 102, 115)
      let k := s.steward d.val
      x < crit → ∃ t : State, exec (.dieTempPoll d l) s = .next t ∧ t.fld d.val 0xD0010 15 8 = x ∧ t.pool = s.pool ∧ t.cores = s.cores ∧
        (hot ≤ x → t.pwrBit d.val 29 = true ∧ t.pins.thermN = false ∧ (t.steward d.val).thermal = min (k.thermal + 1) (ceilingSteps d.val) ∧ (t.steward d.val).budget = k.budget ∧ s.sent <+: t.sent) ∧
        (x < hot → t.stewards = s.stewards ∧ t.sent = s.sent ∧ (cool ≤ x → t.pwrBit d.val 29 = s.pwrBit d.val 29) ∧ (x < cool → t.pwrBit d.val 29 = false))) ∧
    (∀ d : DieId, let k := s.steward d.val
      let cool := if d.val < 36 then 97 else 102
      (s.fld d.val 0xD0010 15 8 < cool → ∃ t : State, exec (.throttleReleaseStep d) s = .next t ∧ { t with stewards := s.stewards } = s ∧
        t.steward d.val = { k with thermal := k.thermal - 1, admission := if hasMemory d.val then k.admission - 1 else k.admission }) ∧
      (cool ≤ s.fld d.val 0xD0010 15 8 → exec (.throttleReleaseStep d) s = .next s)) ∧
    (∀ (base temp hot crit : Nat) (i : Instr), 
      ((∃ (k : StackId) (l : List Nat), i = .atticTempPoll k l ∧ base = 36 + k.val ∧ temp = l.foldl max 0 ∧ hot = 105 ∧ crit = 110) ∨
        (∃ (k : Fin 12) (l : List Nat), i = .annexTempPoll k l ∧ base = 72 + k.val ∧ temp = l.foldl max 0 ∧ hot = 100 ∧ crit = 105)) →
      ∀ (c0 : Chan) (cs : List Chan), dieChans base = c0 :: cs → s.stackHot base = false → s.fld base 0x30800 2 0 ≠ 4 → temp < crit →
        let old := s.fld base 0x30000 25 24
        let now := if 96 ≤ temp then 2 else if 86 ≤ temp then 1 else 0
        (temp < hot → old ≤ now → ∃ t : State, exec i s = .next t ∧ t.fld base 0x30800 15 8 = temp ∧ t.fld base 0x30800 2 0 = now ∧ t.sent = s.sent ∧ t.pool = s.pool ∧
          ∀ c ∈ c0 :: cs, t.fld (chanReg c).1 (chanReg c).2 25 24 = now ∧ t.fld (chanReg c).1 (chanReg c).2 26 26 = 0) ∧
        (old = 1 → temp < 84 → (s.chan c0).below.get 0 1 ≠ 0 → (s.chan c0).below.get 0 1 ≤ s.time + 1 → ∃ t : State, exec i s = .next t ∧
          ∀ c ∈ c0 :: cs, t.fld (chanReg c).1 (chanReg c).2 25 24 = if 1000000 ≤ s.time + 1 - (s.chan c0).below.get 0 1 then 0 else 1) ∧
        (old = 1 → 84 ≤ temp → temp < 86 → ∃ t : State, exec i s = .next t ∧ ∀ c ∈ c0 :: cs, t.fld (chanReg c).1 (chanReg c).2 25 24 = 1) ∧
        (hot ≤ temp → old ≤ 2 → ∃ t : State, exec i s = .next t ∧ t.pins.thermN = false)) ∧
    (∀ c : CoreId, (s.core c.val).kernel = none → ∃ t : State, exec (.coreClockGate c) s = .next t ∧ OnlyCore s t c.val ∧
      t.core c.val = { s.core c.val with clock := if (s.core c.val).clock = 0 then 1 else (s.core c.val).clock }) ∧
    (∀ c : CoreId, (s.core c.val).kernel.isSome → exec (.coreClockGate c) s = .next s) ∧
    (∀ (c : CoreId) (n : Nat), ∃ t : State, exec (.supplyDroop (.core c) n) s = .next t ∧ { t with csr := s.csr } = s ∧
      t.rd64 (coreDie c.val) (coreOff c.val 0xE08) = s.rd64 (coreDie c.val) (coreOff c.val 0xE08) + BitVec.ofNat 64 n) ∧
    ∀ (c : ClusterId) (n : Nat), ∃ t : State, exec (.supplyDroop (.cluster c) n) s = .next t ∧ { t with csr := s.csr } = s ∧
      t.rd64 (32 + c.val / 16) (0xD0200 + 8 * (c.val % 16)) = s.rd64 (32 + c.val / 16) (0xD0200 + 8 * (c.val % 16)) + BitVec.ofNat 64 n

/-- For every command c and state s, the step of s with c put at the front of its queue is exec of c on s, and a state whose queue is c and a rest steps as exec of c does on the state with that rest. The queue is the model's (log 1). -/
def Obligations.StepRunsFront : Prop :=
  ∀ (c : Instr) (s : State), step { s with pending := c :: s.pending } = exec c s ∧
    ∀ rest : List Instr, s.pending = c :: rest → step s = exec c { s with pending := rest }

/-- For every state whose queue is empty, a step changes nothing but device time and the remainder of its steering: device time advances by one nanosecond, by two or none where the steering has added up to a nanosecond, and not at all while the package has no power. The idle step and the form of the steering are the model's choices (log 1, log 21); that device time starts at zero in a cold reset and runs on is R99's. -/
def Obligations.EmptyQueueIdles : Prop :=
  ∀ s : State, s.pending = [] → (s.phase = .off → step s = .next s) ∧
    (s.phase ≠ .off → ∃ t : State, step s = .next t ∧ { t with time := s.time, steerSum := s.steerSum } = s ∧
      let a := s.steerSum + s.steer
      (-1000000 < a → a < 1000000 → t.time = s.time + 1 ∧ t.steerSum = a) ∧ (1000000 ≤ a → t.time = s.time + 2 ∧ t.steerSum = a - 1000000) ∧
      (a ≤ -1000000 → t.time = s.time ∧ t.steerSum = a + 1000000))

/-- For every command and every state, exec answers a next state: the rules answer, refuse, ignore or report every command, and none ends in a fault or a refusal of the model. -/
def Obligations.EveryCommandAnswers : Prop := ∀ (c : Instr) (s : State), ∃ t : State, exec c s = .next t

/-- State.reset is the start of bring-up: device time 0, the pins PWR_OK and RESET_N high, READY low, THERM_N and FATAL_N released, no Floorplan in force and none locked, service level 0, no SL time, every memory channel and fabric port in state 0, every core idle, every hart stopped, no function enabled, no unit fenced, both root logs empty, every FC_SEV entry the reference entry, every register of a die's CSR block at its reset value (FLP_STATUS 0xFFFF0000, HAL_PORT_STATUS 0xFF00, an Attic channel's registers, the L2 dirty limit and a fabric port at theirs), and the queue of commands empty. That no byte of memory is listed, which reads as zero, is the model's choice of log 4. -/
def Obligations.ResetState : Prop :=
  let s := State.reset
  s.pending = [] ∧ s.time = 0 ∧ s.phase = .running ∧ s.pins.ready = false ∧ s.pins.thermN = true ∧ s.pins.fatalN = true ∧ s.pins.resetN = true ∧ s.pins.pwrOk = true ∧
    s.flp = none ∧ s.locked = false ∧ s.level = 0 ∧ s.pool = ⟨[]⟩ ∧ s.fencedU = [] ∧ s.root94.log = [] ∧ s.root95.log = [] ∧ s.root94.alive = true ∧ s.root95.alive = true ∧
    (∀ d o : Nat, s.rd d o = csrReset d o) ∧ s.rd 94 0x20000 = 0xFFFF0000 ∧ s.rd 36 0x10000 = 0xFF00 ∧ s.rd 36 0x30000 = 1 ∧ s.rd 32 0x60000 = 64 ∧ s.rd 84 0x90000 = 0x3FFF ∧ s.rd 94 0x20100 = 0 ∧ (∀ c : Chan, s.chanState c = 0) ∧ (∀ c : Nat, (s.core c).phase = 0 ∧ (s.core c).kernel = none ∧ (s.core c).fenced = false) ∧
    (∀ h : Nat, (s.hart h).state = 0 ∧ (s.hart h).resv = none) ∧ (∀ p : Nat, (s.fn p).enable = false ∧ s.sq p 0 = none) ∧
    (∀ n : Nat, s.sev n = referenceEntry n) ∧ s.sev 0x1A = 0x0701 ∧ s.sev 0x50 = 0x0F01 ∧ s.sev 0x77 = 0x0100

/-- The Pool of State.reset is in the one canonical form of a memory: addresses strictly rising, no entry equal to what an unlisted address reads as. -/
def Obligations.PoolCanonicalAtReset : Prop := Memory.wf State.reset.pool

/-- For every state whose Pool is in canonical form, and whatever command heads its queue, the Pool of the next state is in canonical form, so that equal memories stay equal data. -/
def Obligations.PoolStaysCanonical : Prop :=
  ∀ s t : State, Memory.wf s.pool → step s = .next t → Memory.wf t.pool

/-- For every command and state, exec leaves the queue of waiting commands as it was, through resets and power-downs too: what the device does never orders a command of its own. -/
def Obligations.CommandsComeFromOutside : Prop :=
  ∀ (c : Instr) (s t : State), exec c s = .next t → t.pending = s.pending

/-- For every command and state. Off ends only as PWR_OK or the input rises, a power-down only when its commit is done, a held reset only as RESET_N rises or power is lost, ROM recovery and the safe state only by RESET_N, a power loss, or a management reset. In the safe state every other command leaves the Pool, the cores, the harts, the configuration and the phase as they are, and in Off every command but the two leaves the package off with its flash kept. -/
def Obligations.PhasesEndOnlySo : Prop :=
  ∀ (c : Instr) (s t : State), exec c s = .next t →
    let powerLoss := c = .pwrOkFall true ∨ c = .refclkLoss true ∨ ∃ v a : Nat, c = .inputSample v a
    let mgtResets := (∃ r : MgtReq, c = .mgtReset r) ∨ ∃ (b : Bool) (x : Byte) (l : List Byte), c = .mctpMessage b x l
    (s.phase = .off → t.phase ≠ .off → c = .pwrOkRise ∨ c = .vinRise) ∧
    (s.phase = .off → c ≠ .pwrOkRise → c ≠ .vinRise → t.pool = s.pool ∧ t.mgmt.flash = s.mgmt.flash) ∧
    (s.phase = .powerDown → t.phase ≠ .powerDown → c = .powerDownCommitDone) ∧
    (s.phase = .held → t.phase ≠ .held → c = .resetNRise ∨ powerLoss) ∧
    (s.phase = .recovery → t.phase ≠ .recovery → c = .resetNFall true ∨ powerLoss ∨ mgtResets) ∧
    (s.phase = .safe → t.phase ≠ .safe → c = .resetNFall true ∨ powerLoss ∨ mgtResets ∨ ∃ (p : PartId) (q : Nat), c = .resetWarm p q) ∧
    (s.phase = .safe → t.phase = .safe → t.pool = s.pool ∧ t.cores = s.cores ∧ t.harts = s.harts ∧ t.flp = s.flp)

/-- For every command and state, device time after the command is what it was, or zero; and it becomes zero only in a cold reset, which only the rise of PWR_OK, of the input or of RESET_N, or the end of a power-down, brings. Only an idle step advances it (log 1). -/
def Obligations.DeviceTimeRuns : Prop :=
  ∀ (c : Instr) (s t : State), exec c s = .next t →
    t.time = s.time ∨ t.time = 0 ∧ (c = .pwrOkRise ∨ c = .vinRise ∨ c = .resetNRise ∨ c = .powerDownCommitDone)

/-- For every message of every kind that arrives at a port that carries traffic and is for another node. With a TTL of at most one it is discarded: DSF_DISCARDS of the port's die counts one more, nothing is sent, and nothing else changes. With a larger one and a route it goes on with a TTL one less, the rest of the message as it was but for the buffer class that a dateline sets, and nothing but the links changes. A collective message or a Back Stair notice, which a node passes on as its last slot arrives in a flit, is discarded and counted so too, and with a route goes on so. (R457) -/
def Obligations.HopsTakeTtl : Prop :=
  ∀ (s : State) (p : FabPort) (m : FabMsg) (c : Instr), s.phase = .running → (s.fabState p.val = 2 ∨ s.fabState p.val = 3) → s.isSelf m.dst = false →
    c ∈ [Instr.rrd p m, .rwr p m, .ratom p m, .rrsp p m, .rack p m, .rnack p m, .drow p m, .dclaim p m] →
    (m.ttl ≤ 1 → ∃ t : State, exec c s = .next t ∧ { t with csr := s.csr } = s ∧ t.rd64 (fabReg p.val).1 0x90808 = s.rd64 (fabReg p.val).1 0x90808 + 1) ∧
    (∀ (q : FabPort) (d : Bool), 2 ≤ m.ttl → s.choosePort { m with ttl := m.ttl - 1 } (s.fabPart p.val) = some (q, d) → ∃ t : State, exec c s = .next t ∧
      t.sent = s.sent ++ [.fabric q { m with ttl := m.ttl - 1, cls := m.cls || d }] ∧ { t with sent := s.sent, links := s.links } = s) ∧
    ∀ (f : Flit) (r b : List Byte), let n := fabOfSlots b
      s.fabState p.val = 2 → f.ftype = 0 → f.seq = (s.link (.fabric p)).rxSeq + 1 → (s.link (.fabric p)).taken (.fabric p) f = (r, [b]) → s.isSelf n.dst = false →
      (n.opcode ∈ [0x10, 0x11, 0x12, 0x20] → n.ttl ≤ 1 → ∃ t : State, exec (.fabricFlitReceive p f (flitCrc (.fabric p) f) 0) s = .next t ∧
        t.rd64 (fabReg p.val).1 0x90808 = s.rd64 (fabReg p.val).1 0x90808 + 1) ∧
      (∀ (q : FabPort) (d : Bool), n.opcode ∈ [0x10, 0x11, 0x12] → 2 ≤ n.ttl → s.choosePort { n with ttl := n.ttl - 1 } (s.fabPart p.val) = some (q, d) →
        ∃ (t : State) (l : List Msg), exec (.fabricFlitReceive p f (flitCrc (.fabric p) f) 0) s = .next t ∧ t.sent = s.sent ++ l ++ [.fabric q { n with ttl := n.ttl - 1, cls := n.cls || d }])

/-- For every request on bus 1 to a running package whose configuration's MGMT_WRITE is 1: each of the twelve class W commands is answered DENIED and changes nothing else. In ROM recovery an erase or a write of a stage area that bus 0 would be answered for is answered on bus 1 with the same status and the same effect. (R538) -/
def Obligations.ManagementWriteDenied : Prop :=
  (∀ (s : State) (f : Floorplan) (r : MgtReq) (c : Instr) (code : Nat), s.phase = .running → s.pins.ready = true → s.flp = some f → f.mgmtWrite0 = true → r.transport = .bus1 → r.payload.length ≤ 4096 →
    (c, code) ∈ [(Instr.mgtFaultFree r, 0x04), (.mgtFlpLoad r, 0x10), (.mgtFlashErase r, 0x12), (.mgtFlashWrite r, 0x13), (.mgtReset r, 0x20), (.mgtPkgLimit r, 0x21), (.mgtRtStage r, 0x22),
      (.mgtFenceErase r, 0x23), (.mgtRepairErase r, 0x24), (.secAdvance r, 0x30), (.secDebugUnlock r, 0x32), (.secDebugLock r, 0x33)] →
    exec c s = .next (s.send (.mgmt .bus1 code r.tag 3 (r.offset / 2 ^ 16) []))) ∧
  ∀ (s : State) (r : MgtReq) (make : MgtReq → Instr) (code : Nat), s.phase = .recovery → s.flp = none → r.transport = .bus1 →
    (make = Instr.mgtFlashErase ∧ code = 0x12 ∧ r.offset < 0x1200000 ∨ make = Instr.mgtFlashWrite ∧ code = 0x13 ∧ r.offset < 0x1200000) →
    ∃ (t u : State) (st : Nat) (pl : List Byte), exec (make r) s = .next t ∧ exec (make { r with transport := .bus0 }) s = .next u ∧
      t.sent = s.sent ++ [.mgmt .bus1 code r.tag st (r.offset / 2 ^ 16) pl] ∧ u.sent = s.sent ++ [.mgmt .bus0 code r.tag st (r.offset / 2 ^ 16) pl] ∧ { t with sent := u.sent } = u
end

