-- ==== Sys2Proof/Laws/Maps.lean ====
section
/-! SUPPORT. Laws of the sparse maps: a read after a write at the same key gives the value written, every other key reads as before, and
every operation keeps the canonical form. The memories of the block are such maps of bytes (`Memory.wf`). -/

namespace Sys2Proof

theorem find_insCell_self {α : Type} (k : Nat) (v : α) (l : List (Nat × α)) :
    (insCell k v l).find? (fun c => c.1 == k) = some (k, v) := by
  induction l with
  | nil => simp [insCell]
  | cons c cs ih =>
    unfold insCell
    split
    · simp
    · split
      · simp
      · rename_i h1 h2
        have : (c.1 == k) = false := by simpa using fun h => h2 h.symm
        simp [this, ih]

theorem find_insCell_ne {α : Type} (k j : Nat) (h : j ≠ k) (v : α) (l : List (Nat × α)) :
    (insCell k v l).find? (fun c => c.1 == j) = l.find? (fun c => c.1 == j) := by
  have hk : (k == j) = false := by simpa using fun e => h e.symm
  induction l with
  | nil => simp [insCell, hk]
  | cons c cs ih =>
    unfold insCell
    split
    · simp [List.find?_cons, hk]
    · split
      · rename_i e
        have : (c.1 == j) = false := by simpa [← e] using hk
        simp [hk, this]
      · simp only [List.find?_cons, ih]

theorem find_filter_ne {α : Type} (k j : Nat) (h : j ≠ k) (l : List (Nat × α)) :
    (l.filter (fun c => c.1 != k)).find? (fun c => c.1 == j) = l.find? (fun c => c.1 == j) := by
  induction l with
  | nil => rfl
  | cons c cs ih =>
    by_cases e : c.1 = k
    · have h1 : (c.1 == j) = false := by simpa [e] using fun x => h x.symm
      have h2 : (c.1 != k) = false := by simp [e]
      rw [List.filter_cons_of_neg (by simp [h2]), List.find?_cons_of_neg (by simp [h1]), ih]
    · have h2 : (c.1 != k) = true := by simpa using e
      have h3 : (c :: cs).filter (fun c => c.1 != k) = c :: cs.filter (fun c => c.1 != k) := by simp [e]
      rw [h3]; simp only [List.find?_cons, ih]

theorem find_filter_self {α : Type} (k : Nat) (l : List (Nat × α)) :
    (l.filter (fun c => c.1 != k)).find? (fun c => c.1 == k) = none := by
  simp [List.find?_eq_none]

theorem Map.set_default {α : Type} [DecidableEq α] (d : α) (m : Map α) (k : Nat) : m.set d k d = m.del k := by simp [Map.set]
theorem Map.set_other {α : Type} [DecidableEq α] {d v : α} (h : v ≠ d) (m : Map α) (k : Nat) : m.set d k v = ⟨insCell k v m.cells⟩ := by
  simp [Map.set, h]

@[simp] theorem Map.get_del_self {α : Type} (d : α) (m : Map α) (k : Nat) : (m.del k).get d k = d := by
  show (match (m.cells.filter (fun c => c.1 != k)).find? (fun c => c.1 == k) with | some c => c.2 | none => d) = d
  rw [find_filter_self]

theorem Map.get_del_ne {α : Type} (d : α) (m : Map α) (k j : Nat) (h : j ≠ k) : (m.del k).get d j = m.get d j := by
  show (match (m.cells.filter (fun c => c.1 != k)).find? (fun c => c.1 == j) with | some c => c.2 | none => d) = m.get d j
  rw [find_filter_ne k j h]; rfl

/-- A read after a write at the same key gives the value written. -/
@[simp] theorem Map.get_set_self {α : Type} [DecidableEq α] (d : α) (m : Map α) (k : Nat) (v : α) : (m.set d k v).get d k = v := by
  by_cases h : v = d
  · rw [h, Map.set_default, Map.get_del_self]
  · rw [Map.set_other h]
    show (match (insCell k v m.cells).find? (fun c => c.1 == k) with | some c => c.2 | none => d) = v
    rw [find_insCell_self]

/-- Every other key reads as before. -/
theorem Map.get_set_ne {α : Type} [DecidableEq α] (d e : α) (m : Map α) (k j : Nat) (v : α) (h : j ≠ k) :
    (m.set d k v).get e j = m.get e j := by
  by_cases hv : v = d
  · rw [hv, Map.set_default, Map.get_del_ne e m k j h]
  · rw [Map.set_other hv]
    show (match (insCell k v m.cells).find? (fun c => c.1 == j) with | some c => c.2 | none => e) = m.get e j
    rw [find_insCell_ne k j h]; rfl

/-- The same, as simp uses it. -/
theorem Map.get_set {α : Type} [DecidableEq α] (d : α) (m : Map α) (k j : Nat) (v : α) :
    (m.set d k v).get d j = if j = k then v else m.get d j := by
  split
  · rename_i h; rw [h, Map.get_set_self]
  · rename_i h; exact Map.get_set_ne d d m k j v h

@[simp] theorem Map.get_empty {α : Type} (d : α) (k : Nat) : (Map.get d (⟨[]⟩ : Map α) k) = d := rfl

/-! ## The canonical form -/

theorem mem_insCell {α : Type} (k : Nat) (v : α) (l : List (Nat × α)) : ∀ c ∈ insCell k v l, c = (k, v) ∨ c ∈ l := by
  induction l with
  | nil => simp [insCell]
  | cons b bs ih =>
    intro c hc
    unfold insCell at hc
    split at hc
    · simpa using hc
    · split at hc
      · rcases List.mem_cons.mp hc with h | h
        · exact Or.inl h
        · exact Or.inr (List.mem_cons_of_mem _ h)
      · rcases List.mem_cons.mp hc with h | h
        · exact Or.inr (h ▸ List.mem_cons_self)
        · rcases ih c h with h | h
          · exact Or.inl h
          · exact Or.inr (List.mem_cons_of_mem _ h)

theorem rising_insCell {α : Type} (k : Nat) (v : α) (l : List (Nat × α)) (h : l.Pairwise (fun a b => a.1 < b.1)) :
    (insCell k v l).Pairwise (fun a b => a.1 < b.1) := by
  induction l with
  | nil => simp [insCell]
  | cons b bs ih =>
    rw [List.pairwise_cons] at h
    unfold insCell
    split
    · rename_i hk
      refine List.pairwise_cons.mpr ⟨?_, List.pairwise_cons.mpr h⟩
      intro c hc
      rcases List.mem_cons.mp hc with e | e
      · simpa [e] using hk
      · exact Nat.lt_trans hk (h.1 c e)
    · split
      · rename_i e
        exact List.pairwise_cons.mpr ⟨fun c hc => by simpa [e] using h.1 c hc, h.2⟩
      · rename_i h1 h2
        refine List.pairwise_cons.mpr ⟨?_, ih h.2⟩
        intro c hc
        rcases mem_insCell k v bs c hc with e | e
        · simp only [e]; omega
        · exact h.1 c e

/-- Removing a key keeps the canonical form. -/
theorem Map.wf_del {α : Type} {d : α} {m : Map α} (h : m.wf d) (k : Nat) : (m.del k).wf d :=
  ⟨h.1.filter _, fun c hc => h.2 c (List.mem_filter.mp hc).1⟩

/-- Removing keys keeps the canonical form. -/
theorem Map.wf_drop {α : Type} {d : α} {m : Map α} (h : m.wf d) (p : Nat → Bool) : (m.drop p).wf d :=
  ⟨h.1.filter _, fun c hc => h.2 c (List.mem_filter.mp hc).1⟩

/-- A write keeps the canonical form. -/
theorem Map.wf_set {α : Type} [DecidableEq α] {d : α} {m : Map α} (h : m.wf d) (k : Nat) (v : α) : (m.set d k v).wf d := by
  unfold Map.set
  split
  · exact Map.wf_del h k
  · rename_i hv
    refine ⟨rising_insCell k v m.cells h.1, fun c hc => ?_⟩
    rcases mem_insCell k v m.cells c hc with e | e
    · simpa [e] using hv
    · exact h.2 c e

/-- A run of writes keeps the canonical form. -/
theorem Map.wf_setRun {α : Type} [DecidableEq α] {d : α} (vs : List α) : ∀ {m : Map α} (k : Nat), m.wf d → (m.setRun d k vs).wf d := by
  induction vs with
  | nil => intro m k h; exact h
  | cons v vs ih => intro m k h; exact ih (k + 1) (Map.wf_set h k v)

/-- A run of writes leaves every key outside it as it was. -/
theorem Map.get_setRun_out {α : Type} [DecidableEq α] (d : α) (vs : List α) :
    ∀ (m : Map α) (k j : Nat), j < k ∨ k + vs.length ≤ j → (m.setRun d k vs).get d j = m.get d j := by
  induction vs with
  | nil => intro m k j _; rfl
  | cons v vs ih =>
    intro m k j h
    simp only [List.length_cons] at h
    show ((m.set d k v).setRun d (k + 1) vs).get d j = m.get d j
    rw [ih (m.set d k v) (k + 1) j (by omega), Map.get_set_ne d d m k j v (by omega)]

/-- A run of writes is read back inside it. -/
theorem Map.get_setRun_in {α : Type} [DecidableEq α] (d : α) (vs : List α) :
    ∀ (m : Map α) (k i : Nat), i < vs.length → (m.setRun d k vs).get d (k + i) = vs.getD i d := by
  induction vs with
  | nil => intro m k i h; simp at h
  | cons v vs ih =>
    intro m k i h
    show ((m.set d k v).setRun d (k + 1) vs).get d (k + i) = (v :: vs).getD i d
    cases i with
    | zero => rw [Map.get_setRun_out d vs _ (k + 1) (k + 0) (by omega)]; simp
    | succ i =>
      have := ih (m.set d k v) (k + 1) i (by simpa using h)
      rw [show k + (i + 1) = k + 1 + i by omega, this]
      simp

namespace Machine

/-- The empty memory has the canonical form. -/
theorem Memory.wf_empty : Memory.wf ⟨[]⟩ := ⟨List.Pairwise.nil, by simp⟩

/-- A write of a byte keeps the memory's canonical form. -/
theorem Memory.wf_set {m : Memory} (h : Memory.wf m) (a : Nat) (b : Byte) : Memory.wf (m.set 0 a b) := Map.wf_set h a b

/-- A write of a run of bytes keeps the memory's canonical form. -/
theorem Memory.wf_setRun {m : Memory} (h : Memory.wf m) (a : Nat) (bs : List Byte) : Memory.wf (m.setRun 0 a bs) := Map.wf_setRun bs a h

end Machine
end Sys2Proof
end

