-- ==== Sys2Proof/Laws/State.lean ====
section
/-! SUPPORT. What each update of the state leaves: one lemma for each update and each field it does not write, and what an
accessor reads after a write of its own map. -/

namespace Sys2Proof.Machine

variable (s : State)

@[simp] theorem State.wr_pending (d o : Nat) (v : Word) : (s.wr d o v).pending = s.pending := rfl
@[simp] theorem State.wr_fresh (d o : Nat) (v : Word) : (s.wr d o v).fresh = s.fresh := rfl
@[simp] theorem State.wr_time (d o : Nat) (v : Word) : (s.wr d o v).time = s.time := rfl
@[simp] theorem State.wr_phase (d o : Nat) (v : Word) : (s.wr d o v).phase = s.phase := rfl
@[simp] theorem State.wr_pins (d o : Nat) (v : Word) : (s.wr d o v).pins = s.pins := rfl
@[simp] theorem State.wr_locked (d o : Nat) (v : Word) : (s.wr d o v).locked = s.locked := rfl
@[simp] theorem State.wr_flp (d o : Nat) (v : Word) : (s.wr d o v).flp = s.flp := rfl
@[simp] theorem State.wr_hall (d o : Nat) (v : Word) : (s.wr d o v).hall = s.hall := rfl
@[simp] theorem State.wr_hallAcc (d o : Nat) (v : Word) : (s.wr d o v).hallAcc = s.hallAcc := rfl
@[simp] theorem State.wr_hallIn (d o : Nat) (v : Word) : (s.wr d o v).hallIn = s.hallIn := rfl
@[simp] theorem State.wr_hallSeq (d o : Nat) (v : Word) : (s.wr d o v).hallSeq = s.hallSeq := rfl
@[simp] theorem State.wr_hallOut (d o : Nat) (v : Word) : (s.wr d o v).hallOut = s.hallOut := rfl
@[simp] theorem State.wr_cores (d o : Nat) (v : Word) : (s.wr d o v).cores = s.cores := rfl
@[simp] theorem State.wr_launches (d o : Nat) (v : Word) : (s.wr d o v).launches = s.launches := rfl
@[simp] theorem State.wr_nextLaunch (d o : Nat) (v : Word) : (s.wr d o v).nextLaunch = s.nextLaunch := rfl
@[simp] theorem State.wr_pool (d o : Nat) (v : Word) : (s.wr d o v).pool = s.pool := rfl
@[simp] theorem State.wr_poolBad (d o : Nat) (v : Word) : (s.wr d o v).poolBad = s.poolBad := rfl
@[simp] theorem State.wr_channels (d o : Nat) (v : Word) : (s.wr d o v).channels = s.channels := rfl
@[simp] theorem State.wr_lines (d o : Nat) (v : Word) : (s.wr d o v).lines = s.lines := rfl
@[simp] theorem State.wr_msau (d o : Nat) (v : Word) : (s.wr d o v).msau = s.msau := rfl
@[simp] theorem State.wr_refused (d o : Nat) (v : Word) : (s.wr d o v).refused = s.refused := rfl
@[simp] theorem State.wr_l2s (d o : Nat) (v : Word) : (s.wr d o v).l2s = s.l2s := rfl
@[simp] theorem State.wr_l1s (d o : Nat) (v : Word) : (s.wr d o v).l1s = s.l1s := rfl
@[simp] theorem State.wr_bases (d o : Nat) (v : Word) : (s.wr d o v).bases = s.bases := rfl
@[simp] theorem State.wr_hostDir (d o : Nat) (v : Word) : (s.wr d o v).hostDir = s.hostDir := rfl
@[simp] theorem State.wr_hostTxns (d o : Nat) (v : Word) : (s.wr d o v).hostTxns = s.hostTxns := rfl
@[simp] theorem State.wr_hostTxn (d o : Nat) (v : Word) : (s.wr d o v).hostTxn = s.hostTxn := rfl
@[simp] theorem State.wr_slots (d o : Nat) (v : Word) : (s.wr d o v).slots = s.slots := rfl
@[simp] theorem State.wr_xlDie (d o : Nat) (v : Word) : (s.wr d o v).xlDie = s.xlDie := rfl
@[simp] theorem State.wr_xlWalk (d o : Nat) (v : Word) : (s.wr d o v).xlWalk = s.xlWalk := rfl
@[simp] theorem State.wr_xlSeq (d o : Nat) (v : Word) : (s.wr d o v).xlSeq = s.xlSeq := rfl
@[simp] theorem State.wr_harts (d o : Nat) (v : Word) : (s.wr d o v).harts = s.harts := rfl
@[simp] theorem State.wr_links (d o : Nat) (v : Word) : (s.wr d o v).links = s.links := rfl
@[simp] theorem State.wr_fns (d o : Nat) (v : Word) : (s.wr d o v).fns = s.fns := rfl
@[simp] theorem State.wr_sqs (d o : Nat) (v : Word) : (s.wr d o v).sqs = s.sqs := rfl
@[simp] theorem State.wr_cqs (d o : Nat) (v : Word) : (s.wr d o v).cqs = s.cqs := rfl
@[simp] theorem State.wr_heldBells (d o : Nat) (v : Word) : (s.wr d o v).heldBells = s.heldBells := rfl
@[simp] theorem State.wr_shared (d o : Nat) (v : Word) : (s.wr d o v).shared = s.shared := rfl
@[simp] theorem State.wr_flips (d o : Nat) (v : Word) : (s.wr d o v).flips = s.flips := rfl
@[simp] theorem State.wr_nextFlip (d o : Nat) (v : Word) : (s.wr d o v).nextFlip = s.nextFlip := rfl
@[simp] theorem State.wr_hostReads (d o : Nat) (v : Word) : (s.wr d o v).hostReads = s.hostReads := rfl
@[simp] theorem State.wr_steer (d o : Nat) (v : Word) : (s.wr d o v).steer = s.steer := rfl
@[simp] theorem State.wr_remotes (d o : Nat) (v : Word) : (s.wr d o v).remotes = s.remotes := rfl
@[simp] theorem State.wr_hostWrites (d o : Nat) (v : Word) : (s.wr d o v).hostWrites = s.hostWrites := rfl
@[simp] theorem State.wr_msiDue (d o : Nat) (v : Word) : (s.wr d o v).msiDue = s.msiDue := rfl
@[simp] theorem State.wr_ncWait (d o : Nat) (v : Word) : (s.wr d o v).ncWait = s.ncWait := rfl
@[simp] theorem State.wr_steerSum (d o : Nat) (v : Word) : (s.wr d o v).steerSum = s.steerSum := rfl
@[simp] theorem State.wr_nextTag (d o : Nat) (v : Word) : (s.wr d o v).nextTag = s.nextTag := rfl
@[simp] theorem State.wr_tables (d o : Nat) (v : Word) : (s.wr d o v).tables = s.tables := rfl
@[simp] theorem State.wr_nodesDown (d o : Nat) (v : Word) : (s.wr d o v).nodesDown = s.nodesDown := rfl
@[simp] theorem State.wr_nodesUp (d o : Nat) (v : Word) : (s.wr d o v).nodesUp = s.nodesUp := rfl
@[simp] theorem State.wr_cols (d o : Nat) (v : Word) : (s.wr d o v).cols = s.cols := rfl
@[simp] theorem State.wr_earlyReady (d o : Nat) (v : Word) : (s.wr d o v).earlyReady = s.earlyReady := rfl
@[simp] theorem State.wr_leaves (d o : Nat) (v : Word) : (s.wr d o v).leaves = s.leaves := rfl
@[simp] theorem State.wr_root94 (d o : Nat) (v : Word) : (s.wr d o v).root94 = s.root94 := rfl
@[simp] theorem State.wr_root95 (d o : Nat) (v : Word) : (s.wr d o v).root95 = s.root95 := rfl
@[simp] theorem State.wr_fencedU (d o : Nat) (v : Word) : (s.wr d o v).fencedU = s.fencedU := rfl
@[simp] theorem State.wr_mgmt (d o : Nat) (v : Word) : (s.wr d o v).mgmt = s.mgmt := rfl
@[simp] theorem State.wr_stewards (d o : Nat) (v : Word) : (s.wr d o v).stewards = s.stewards := rfl
@[simp] theorem State.wr_cutGen (d o : Nat) (v : Word) : (s.wr d o v).cutGen = s.cutGen := rfl
@[simp] theorem State.wr_overUs (d o : Nat) (v : Word) : (s.wr d o v).overUs = s.overUs := rfl
@[simp] theorem State.wr_lowUs (d o : Nat) (v : Word) : (s.wr d o v).lowUs = s.lowUs := rfl
@[simp] theorem State.wr_calmUs (d o : Nat) (v : Word) : (s.wr d o v).calmUs = s.calmUs := rfl
@[simp] theorem State.wr_partWork (d o : Nat) (v : Word) : (s.wr d o v).partWork = s.partWork := rfl
@[simp] theorem State.wr_delta (d o : Nat) (v : Word) : (s.wr d o v).delta = s.delta := rfl
@[simp] theorem State.wr_dieReset (d o : Nat) (v : Word) : (s.wr d o v).dieReset = s.dieReset := rfl
@[simp] theorem State.wr_resetCmds (d o : Nat) (v : Word) : (s.wr d o v).resetCmds = s.resetCmds := rfl
@[simp] theorem State.wr_rateFailed (d o : Nat) (v : Word) : (s.wr d o v).rateFailed = s.rateFailed := rfl
@[simp] theorem State.wr_served (d o : Nat) (v : Word) : (s.wr d o v).served = s.served := rfl
@[simp] theorem State.wr_sent (d o : Nat) (v : Word) : (s.wr d o v).sent = s.sent := rfl
@[simp] theorem State.wr64_pending (d o : Nat) (v : DWord) : (s.wr64 d o v).pending = s.pending := rfl
@[simp] theorem State.wr64_fresh (d o : Nat) (v : DWord) : (s.wr64 d o v).fresh = s.fresh := rfl
@[simp] theorem State.wr64_time (d o : Nat) (v : DWord) : (s.wr64 d o v).time = s.time := rfl
@[simp] theorem State.wr64_phase (d o : Nat) (v : DWord) : (s.wr64 d o v).phase = s.phase := rfl
@[simp] theorem State.wr64_pins (d o : Nat) (v : DWord) : (s.wr64 d o v).pins = s.pins := rfl
@[simp] theorem State.wr64_locked (d o : Nat) (v : DWord) : (s.wr64 d o v).locked = s.locked := rfl
@[simp] theorem State.wr64_flp (d o : Nat) (v : DWord) : (s.wr64 d o v).flp = s.flp := rfl
@[simp] theorem State.wr64_hall (d o : Nat) (v : DWord) : (s.wr64 d o v).hall = s.hall := rfl
@[simp] theorem State.wr64_hallAcc (d o : Nat) (v : DWord) : (s.wr64 d o v).hallAcc = s.hallAcc := rfl
@[simp] theorem State.wr64_hallIn (d o : Nat) (v : DWord) : (s.wr64 d o v).hallIn = s.hallIn := rfl
@[simp] theorem State.wr64_hallSeq (d o : Nat) (v : DWord) : (s.wr64 d o v).hallSeq = s.hallSeq := rfl
@[simp] theorem State.wr64_hallOut (d o : Nat) (v : DWord) : (s.wr64 d o v).hallOut = s.hallOut := rfl
@[simp] theorem State.wr64_cores (d o : Nat) (v : DWord) : (s.wr64 d o v).cores = s.cores := rfl
@[simp] theorem State.wr64_launches (d o : Nat) (v : DWord) : (s.wr64 d o v).launches = s.launches := rfl
@[simp] theorem State.wr64_nextLaunch (d o : Nat) (v : DWord) : (s.wr64 d o v).nextLaunch = s.nextLaunch := rfl
@[simp] theorem State.wr64_pool (d o : Nat) (v : DWord) : (s.wr64 d o v).pool = s.pool := rfl
@[simp] theorem State.wr64_poolBad (d o : Nat) (v : DWord) : (s.wr64 d o v).poolBad = s.poolBad := rfl
@[simp] theorem State.wr64_channels (d o : Nat) (v : DWord) : (s.wr64 d o v).channels = s.channels := rfl
@[simp] theorem State.wr64_lines (d o : Nat) (v : DWord) : (s.wr64 d o v).lines = s.lines := rfl
@[simp] theorem State.wr64_msau (d o : Nat) (v : DWord) : (s.wr64 d o v).msau = s.msau := rfl
@[simp] theorem State.wr64_refused (d o : Nat) (v : DWord) : (s.wr64 d o v).refused = s.refused := rfl
@[simp] theorem State.wr64_l2s (d o : Nat) (v : DWord) : (s.wr64 d o v).l2s = s.l2s := rfl
@[simp] theorem State.wr64_l1s (d o : Nat) (v : DWord) : (s.wr64 d o v).l1s = s.l1s := rfl
@[simp] theorem State.wr64_bases (d o : Nat) (v : DWord) : (s.wr64 d o v).bases = s.bases := rfl
@[simp] theorem State.wr64_hostDir (d o : Nat) (v : DWord) : (s.wr64 d o v).hostDir = s.hostDir := rfl
@[simp] theorem State.wr64_hostTxns (d o : Nat) (v : DWord) : (s.wr64 d o v).hostTxns = s.hostTxns := rfl
@[simp] theorem State.wr64_hostTxn (d o : Nat) (v : DWord) : (s.wr64 d o v).hostTxn = s.hostTxn := rfl
@[simp] theorem State.wr64_slots (d o : Nat) (v : DWord) : (s.wr64 d o v).slots = s.slots := rfl
@[simp] theorem State.wr64_xlDie (d o : Nat) (v : DWord) : (s.wr64 d o v).xlDie = s.xlDie := rfl
@[simp] theorem State.wr64_xlWalk (d o : Nat) (v : DWord) : (s.wr64 d o v).xlWalk = s.xlWalk := rfl
@[simp] theorem State.wr64_xlSeq (d o : Nat) (v : DWord) : (s.wr64 d o v).xlSeq = s.xlSeq := rfl
@[simp] theorem State.wr64_harts (d o : Nat) (v : DWord) : (s.wr64 d o v).harts = s.harts := rfl
@[simp] theorem State.wr64_links (d o : Nat) (v : DWord) : (s.wr64 d o v).links = s.links := rfl
@[simp] theorem State.wr64_fns (d o : Nat) (v : DWord) : (s.wr64 d o v).fns = s.fns := rfl
@[simp] theorem State.wr64_sqs (d o : Nat) (v : DWord) : (s.wr64 d o v).sqs = s.sqs := rfl
@[simp] theorem State.wr64_cqs (d o : Nat) (v : DWord) : (s.wr64 d o v).cqs = s.cqs := rfl
@[simp] theorem State.wr64_heldBells (d o : Nat) (v : DWord) : (s.wr64 d o v).heldBells = s.heldBells := rfl
@[simp] theorem State.wr64_shared (d o : Nat) (v : DWord) : (s.wr64 d o v).shared = s.shared := rfl
@[simp] theorem State.wr64_flips (d o : Nat) (v : DWord) : (s.wr64 d o v).flips = s.flips := rfl
@[simp] theorem State.wr64_nextFlip (d o : Nat) (v : DWord) : (s.wr64 d o v).nextFlip = s.nextFlip := rfl
@[simp] theorem State.wr64_hostReads (d o : Nat) (v : DWord) : (s.wr64 d o v).hostReads = s.hostReads := rfl
@[simp] theorem State.wr64_steer (d o : Nat) (v : DWord) : (s.wr64 d o v).steer = s.steer := rfl
@[simp] theorem State.wr64_remotes (d o : Nat) (v : DWord) : (s.wr64 d o v).remotes = s.remotes := rfl
@[simp] theorem State.wr64_hostWrites (d o : Nat) (v : DWord) : (s.wr64 d o v).hostWrites = s.hostWrites := rfl
@[simp] theorem State.wr64_msiDue (d o : Nat) (v : DWord) : (s.wr64 d o v).msiDue = s.msiDue := rfl
@[simp] theorem State.wr64_ncWait (d o : Nat) (v : DWord) : (s.wr64 d o v).ncWait = s.ncWait := rfl
@[simp] theorem State.wr64_steerSum (d o : Nat) (v : DWord) : (s.wr64 d o v).steerSum = s.steerSum := rfl
@[simp] theorem State.wr64_nextTag (d o : Nat) (v : DWord) : (s.wr64 d o v).nextTag = s.nextTag := rfl
@[simp] theorem State.wr64_tables (d o : Nat) (v : DWord) : (s.wr64 d o v).tables = s.tables := rfl
@[simp] theorem State.wr64_nodesDown (d o : Nat) (v : DWord) : (s.wr64 d o v).nodesDown = s.nodesDown := rfl
@[simp] theorem State.wr64_nodesUp (d o : Nat) (v : DWord) : (s.wr64 d o v).nodesUp = s.nodesUp := rfl
@[simp] theorem State.wr64_cols (d o : Nat) (v : DWord) : (s.wr64 d o v).cols = s.cols := rfl
@[simp] theorem State.wr64_earlyReady (d o : Nat) (v : DWord) : (s.wr64 d o v).earlyReady = s.earlyReady := rfl
@[simp] theorem State.wr64_leaves (d o : Nat) (v : DWord) : (s.wr64 d o v).leaves = s.leaves := rfl
@[simp] theorem State.wr64_root94 (d o : Nat) (v : DWord) : (s.wr64 d o v).root94 = s.root94 := rfl
@[simp] theorem State.wr64_root95 (d o : Nat) (v : DWord) : (s.wr64 d o v).root95 = s.root95 := rfl
@[simp] theorem State.wr64_fencedU (d o : Nat) (v : DWord) : (s.wr64 d o v).fencedU = s.fencedU := rfl
@[simp] theorem State.wr64_mgmt (d o : Nat) (v : DWord) : (s.wr64 d o v).mgmt = s.mgmt := rfl
@[simp] theorem State.wr64_stewards (d o : Nat) (v : DWord) : (s.wr64 d o v).stewards = s.stewards := rfl
@[simp] theorem State.wr64_cutGen (d o : Nat) (v : DWord) : (s.wr64 d o v).cutGen = s.cutGen := rfl
@[simp] theorem State.wr64_overUs (d o : Nat) (v : DWord) : (s.wr64 d o v).overUs = s.overUs := rfl
@[simp] theorem State.wr64_lowUs (d o : Nat) (v : DWord) : (s.wr64 d o v).lowUs = s.lowUs := rfl
@[simp] theorem State.wr64_calmUs (d o : Nat) (v : DWord) : (s.wr64 d o v).calmUs = s.calmUs := rfl
@[simp] theorem State.wr64_partWork (d o : Nat) (v : DWord) : (s.wr64 d o v).partWork = s.partWork := rfl
@[simp] theorem State.wr64_delta (d o : Nat) (v : DWord) : (s.wr64 d o v).delta = s.delta := rfl
@[simp] theorem State.wr64_dieReset (d o : Nat) (v : DWord) : (s.wr64 d o v).dieReset = s.dieReset := rfl
@[simp] theorem State.wr64_resetCmds (d o : Nat) (v : DWord) : (s.wr64 d o v).resetCmds = s.resetCmds := rfl
@[simp] theorem State.wr64_rateFailed (d o : Nat) (v : DWord) : (s.wr64 d o v).rateFailed = s.rateFailed := rfl
@[simp] theorem State.wr64_served (d o : Nat) (v : DWord) : (s.wr64 d o v).served = s.served := rfl
@[simp] theorem State.wr64_sent (d o : Nat) (v : DWord) : (s.wr64 d o v).sent = s.sent := rfl
@[simp] theorem State.setFld_pending (d o hi lo v : Nat) : (s.setFld d o hi lo v).pending = s.pending := rfl
@[simp] theorem State.setFld_fresh (d o hi lo v : Nat) : (s.setFld d o hi lo v).fresh = s.fresh := rfl
@[simp] theorem State.setFld_time (d o hi lo v : Nat) : (s.setFld d o hi lo v).time = s.time := rfl
@[simp] theorem State.setFld_phase (d o hi lo v : Nat) : (s.setFld d o hi lo v).phase = s.phase := rfl
@[simp] theorem State.setFld_pins (d o hi lo v : Nat) : (s.setFld d o hi lo v).pins = s.pins := rfl
@[simp] theorem State.setFld_locked (d o hi lo v : Nat) : (s.setFld d o hi lo v).locked = s.locked := rfl
@[simp] theorem State.setFld_flp (d o hi lo v : Nat) : (s.setFld d o hi lo v).flp = s.flp := rfl
@[simp] theorem State.setFld_hall (d o hi lo v : Nat) : (s.setFld d o hi lo v).hall = s.hall := rfl
@[simp] theorem State.setFld_hallAcc (d o hi lo v : Nat) : (s.setFld d o hi lo v).hallAcc = s.hallAcc := rfl
@[simp] theorem State.setFld_hallIn (d o hi lo v : Nat) : (s.setFld d o hi lo v).hallIn = s.hallIn := rfl
@[simp] theorem State.setFld_hallSeq (d o hi lo v : Nat) : (s.setFld d o hi lo v).hallSeq = s.hallSeq := rfl
@[simp] theorem State.setFld_hallOut (d o hi lo v : Nat) : (s.setFld d o hi lo v).hallOut = s.hallOut := rfl
@[simp] theorem State.setFld_cores (d o hi lo v : Nat) : (s.setFld d o hi lo v).cores = s.cores := rfl
@[simp] theorem State.setFld_launches (d o hi lo v : Nat) : (s.setFld d o hi lo v).launches = s.launches := rfl
@[simp] theorem State.setFld_nextLaunch (d o hi lo v : Nat) : (s.setFld d o hi lo v).nextLaunch = s.nextLaunch := rfl
@[simp] theorem State.setFld_pool (d o hi lo v : Nat) : (s.setFld d o hi lo v).pool = s.pool := rfl
@[simp] theorem State.setFld_poolBad (d o hi lo v : Nat) : (s.setFld d o hi lo v).poolBad = s.poolBad := rfl
@[simp] theorem State.setFld_channels (d o hi lo v : Nat) : (s.setFld d o hi lo v).channels = s.channels := rfl
@[simp] theorem State.setFld_lines (d o hi lo v : Nat) : (s.setFld d o hi lo v).lines = s.lines := rfl
@[simp] theorem State.setFld_msau (d o hi lo v : Nat) : (s.setFld d o hi lo v).msau = s.msau := rfl
@[simp] theorem State.setFld_refused (d o hi lo v : Nat) : (s.setFld d o hi lo v).refused = s.refused := rfl
@[simp] theorem State.setFld_l2s (d o hi lo v : Nat) : (s.setFld d o hi lo v).l2s = s.l2s := rfl
@[simp] theorem State.setFld_l1s (d o hi lo v : Nat) : (s.setFld d o hi lo v).l1s = s.l1s := rfl
@[simp] theorem State.setFld_bases (d o hi lo v : Nat) : (s.setFld d o hi lo v).bases = s.bases := rfl
@[simp] theorem State.setFld_hostDir (d o hi lo v : Nat) : (s.setFld d o hi lo v).hostDir = s.hostDir := rfl
@[simp] theorem State.setFld_hostTxns (d o hi lo v : Nat) : (s.setFld d o hi lo v).hostTxns = s.hostTxns := rfl
@[simp] theorem State.setFld_hostTxn (d o hi lo v : Nat) : (s.setFld d o hi lo v).hostTxn = s.hostTxn := rfl
@[simp] theorem State.setFld_slots (d o hi lo v : Nat) : (s.setFld d o hi lo v).slots = s.slots := rfl
@[simp] theorem State.setFld_xlDie (d o hi lo v : Nat) : (s.setFld d o hi lo v).xlDie = s.xlDie := rfl
@[simp] theorem State.setFld_xlWalk (d o hi lo v : Nat) : (s.setFld d o hi lo v).xlWalk = s.xlWalk := rfl
@[simp] theorem State.setFld_xlSeq (d o hi lo v : Nat) : (s.setFld d o hi lo v).xlSeq = s.xlSeq := rfl
@[simp] theorem State.setFld_harts (d o hi lo v : Nat) : (s.setFld d o hi lo v).harts = s.harts := rfl
@[simp] theorem State.setFld_links (d o hi lo v : Nat) : (s.setFld d o hi lo v).links = s.links := rfl
@[simp] theorem State.setFld_fns (d o hi lo v : Nat) : (s.setFld d o hi lo v).fns = s.fns := rfl
@[simp] theorem State.setFld_sqs (d o hi lo v : Nat) : (s.setFld d o hi lo v).sqs = s.sqs := rfl
@[simp] theorem State.setFld_cqs (d o hi lo v : Nat) : (s.setFld d o hi lo v).cqs = s.cqs := rfl
@[simp] theorem State.setFld_heldBells (d o hi lo v : Nat) : (s.setFld d o hi lo v).heldBells = s.heldBells := rfl
@[simp] theorem State.setFld_shared (d o hi lo v : Nat) : (s.setFld d o hi lo v).shared = s.shared := rfl
@[simp] theorem State.setFld_flips (d o hi lo v : Nat) : (s.setFld d o hi lo v).flips = s.flips := rfl
@[simp] theorem State.setFld_nextFlip (d o hi lo v : Nat) : (s.setFld d o hi lo v).nextFlip = s.nextFlip := rfl
@[simp] theorem State.setFld_hostReads (d o hi lo v : Nat) : (s.setFld d o hi lo v).hostReads = s.hostReads := rfl
@[simp] theorem State.setFld_steer (d o hi lo v : Nat) : (s.setFld d o hi lo v).steer = s.steer := rfl
@[simp] theorem State.setFld_remotes (d o hi lo v : Nat) : (s.setFld d o hi lo v).remotes = s.remotes := rfl
@[simp] theorem State.setFld_hostWrites (d o hi lo v : Nat) : (s.setFld d o hi lo v).hostWrites = s.hostWrites := rfl
@[simp] theorem State.setFld_msiDue (d o hi lo v : Nat) : (s.setFld d o hi lo v).msiDue = s.msiDue := rfl
@[simp] theorem State.setFld_ncWait (d o hi lo v : Nat) : (s.setFld d o hi lo v).ncWait = s.ncWait := rfl
@[simp] theorem State.setFld_steerSum (d o hi lo v : Nat) : (s.setFld d o hi lo v).steerSum = s.steerSum := rfl
@[simp] theorem State.setFld_nextTag (d o hi lo v : Nat) : (s.setFld d o hi lo v).nextTag = s.nextTag := rfl
@[simp] theorem State.setFld_tables (d o hi lo v : Nat) : (s.setFld d o hi lo v).tables = s.tables := rfl
@[simp] theorem State.setFld_nodesDown (d o hi lo v : Nat) : (s.setFld d o hi lo v).nodesDown = s.nodesDown := rfl
@[simp] theorem State.setFld_nodesUp (d o hi lo v : Nat) : (s.setFld d o hi lo v).nodesUp = s.nodesUp := rfl
@[simp] theorem State.setFld_cols (d o hi lo v : Nat) : (s.setFld d o hi lo v).cols = s.cols := rfl
@[simp] theorem State.setFld_earlyReady (d o hi lo v : Nat) : (s.setFld d o hi lo v).earlyReady = s.earlyReady := rfl
@[simp] theorem State.setFld_leaves (d o hi lo v : Nat) : (s.setFld d o hi lo v).leaves = s.leaves := rfl
@[simp] theorem State.setFld_root94 (d o hi lo v : Nat) : (s.setFld d o hi lo v).root94 = s.root94 := rfl
@[simp] theorem State.setFld_root95 (d o hi lo v : Nat) : (s.setFld d o hi lo v).root95 = s.root95 := rfl
@[simp] theorem State.setFld_fencedU (d o hi lo v : Nat) : (s.setFld d o hi lo v).fencedU = s.fencedU := rfl
@[simp] theorem State.setFld_mgmt (d o hi lo v : Nat) : (s.setFld d o hi lo v).mgmt = s.mgmt := rfl
@[simp] theorem State.setFld_stewards (d o hi lo v : Nat) : (s.setFld d o hi lo v).stewards = s.stewards := rfl
@[simp] theorem State.setFld_cutGen (d o hi lo v : Nat) : (s.setFld d o hi lo v).cutGen = s.cutGen := rfl
@[simp] theorem State.setFld_overUs (d o hi lo v : Nat) : (s.setFld d o hi lo v).overUs = s.overUs := rfl
@[simp] theorem State.setFld_lowUs (d o hi lo v : Nat) : (s.setFld d o hi lo v).lowUs = s.lowUs := rfl
@[simp] theorem State.setFld_calmUs (d o hi lo v : Nat) : (s.setFld d o hi lo v).calmUs = s.calmUs := rfl
@[simp] theorem State.setFld_partWork (d o hi lo v : Nat) : (s.setFld d o hi lo v).partWork = s.partWork := rfl
@[simp] theorem State.setFld_delta (d o hi lo v : Nat) : (s.setFld d o hi lo v).delta = s.delta := rfl
@[simp] theorem State.setFld_dieReset (d o hi lo v : Nat) : (s.setFld d o hi lo v).dieReset = s.dieReset := rfl
@[simp] theorem State.setFld_resetCmds (d o hi lo v : Nat) : (s.setFld d o hi lo v).resetCmds = s.resetCmds := rfl
@[simp] theorem State.setFld_rateFailed (d o hi lo v : Nat) : (s.setFld d o hi lo v).rateFailed = s.rateFailed := rfl
@[simp] theorem State.setFld_served (d o hi lo v : Nat) : (s.setFld d o hi lo v).served = s.served := rfl
@[simp] theorem State.setFld_sent (d o hi lo v : Nat) : (s.setFld d o hi lo v).sent = s.sent := rfl
@[simp] theorem State.setCore_pending (c : Nat) (k : Core) : (s.setCore c k).pending = s.pending := rfl
@[simp] theorem State.setCore_fresh (c : Nat) (k : Core) : (s.setCore c k).fresh = s.fresh := rfl
@[simp] theorem State.setCore_time (c : Nat) (k : Core) : (s.setCore c k).time = s.time := rfl
@[simp] theorem State.setCore_phase (c : Nat) (k : Core) : (s.setCore c k).phase = s.phase := rfl
@[simp] theorem State.setCore_pins (c : Nat) (k : Core) : (s.setCore c k).pins = s.pins := rfl
@[simp] theorem State.setCore_csr (c : Nat) (k : Core) : (s.setCore c k).csr = s.csr := rfl
@[simp] theorem State.setCore_locked (c : Nat) (k : Core) : (s.setCore c k).locked = s.locked := rfl
@[simp] theorem State.setCore_flp (c : Nat) (k : Core) : (s.setCore c k).flp = s.flp := rfl
@[simp] theorem State.setCore_hall (c : Nat) (k : Core) : (s.setCore c k).hall = s.hall := rfl
@[simp] theorem State.setCore_hallAcc (c : Nat) (k : Core) : (s.setCore c k).hallAcc = s.hallAcc := rfl
@[simp] theorem State.setCore_hallIn (c : Nat) (k : Core) : (s.setCore c k).hallIn = s.hallIn := rfl
@[simp] theorem State.setCore_hallSeq (c : Nat) (k : Core) : (s.setCore c k).hallSeq = s.hallSeq := rfl
@[simp] theorem State.setCore_hallOut (c : Nat) (k : Core) : (s.setCore c k).hallOut = s.hallOut := rfl
@[simp] theorem State.setCore_launches (c : Nat) (k : Core) : (s.setCore c k).launches = s.launches := rfl
@[simp] theorem State.setCore_nextLaunch (c : Nat) (k : Core) : (s.setCore c k).nextLaunch = s.nextLaunch := rfl
@[simp] theorem State.setCore_pool (c : Nat) (k : Core) : (s.setCore c k).pool = s.pool := rfl
@[simp] theorem State.setCore_poolBad (c : Nat) (k : Core) : (s.setCore c k).poolBad = s.poolBad := rfl
@[simp] theorem State.setCore_channels (c : Nat) (k : Core) : (s.setCore c k).channels = s.channels := rfl
@[simp] theorem State.setCore_lines (c : Nat) (k : Core) : (s.setCore c k).lines = s.lines := rfl
@[simp] theorem State.setCore_msau (c : Nat) (k : Core) : (s.setCore c k).msau = s.msau := rfl
@[simp] theorem State.setCore_refused (c : Nat) (k : Core) : (s.setCore c k).refused = s.refused := rfl
@[simp] theorem State.setCore_l2s (c : Nat) (k : Core) : (s.setCore c k).l2s = s.l2s := rfl
@[simp] theorem State.setCore_l1s (c : Nat) (k : Core) : (s.setCore c k).l1s = s.l1s := rfl
@[simp] theorem State.setCore_bases (c : Nat) (k : Core) : (s.setCore c k).bases = s.bases := rfl
@[simp] theorem State.setCore_hostDir (c : Nat) (k : Core) : (s.setCore c k).hostDir = s.hostDir := rfl
@[simp] theorem State.setCore_hostTxns (c : Nat) (k : Core) : (s.setCore c k).hostTxns = s.hostTxns := rfl
@[simp] theorem State.setCore_hostTxn (c : Nat) (k : Core) : (s.setCore c k).hostTxn = s.hostTxn := rfl
@[simp] theorem State.setCore_slots (c : Nat) (k : Core) : (s.setCore c k).slots = s.slots := rfl
@[simp] theorem State.setCore_xlDie (c : Nat) (k : Core) : (s.setCore c k).xlDie = s.xlDie := rfl
@[simp] theorem State.setCore_xlWalk (c : Nat) (k : Core) : (s.setCore c k).xlWalk = s.xlWalk := rfl
@[simp] theorem State.setCore_xlSeq (c : Nat) (k : Core) : (s.setCore c k).xlSeq = s.xlSeq := rfl
@[simp] theorem State.setCore_harts (c : Nat) (k : Core) : (s.setCore c k).harts = s.harts := rfl
@[simp] theorem State.setCore_links (c : Nat) (k : Core) : (s.setCore c k).links = s.links := rfl
@[simp] theorem State.setCore_fns (c : Nat) (k : Core) : (s.setCore c k).fns = s.fns := rfl
@[simp] theorem State.setCore_sqs (c : Nat) (k : Core) : (s.setCore c k).sqs = s.sqs := rfl
@[simp] theorem State.setCore_cqs (c : Nat) (k : Core) : (s.setCore c k).cqs = s.cqs := rfl
@[simp] theorem State.setCore_heldBells (c : Nat) (k : Core) : (s.setCore c k).heldBells = s.heldBells := rfl
@[simp] theorem State.setCore_shared (c : Nat) (k : Core) : (s.setCore c k).shared = s.shared := rfl
@[simp] theorem State.setCore_flips (c : Nat) (k : Core) : (s.setCore c k).flips = s.flips := rfl
@[simp] theorem State.setCore_nextFlip (c : Nat) (k : Core) : (s.setCore c k).nextFlip = s.nextFlip := rfl
@[simp] theorem State.setCore_hostReads (c : Nat) (k : Core) : (s.setCore c k).hostReads = s.hostReads := rfl
@[simp] theorem State.setCore_steer (c : Nat) (k : Core) : (s.setCore c k).steer = s.steer := rfl
@[simp] theorem State.setCore_remotes (c : Nat) (k : Core) : (s.setCore c k).remotes = s.remotes := rfl
@[simp] theorem State.setCore_hostWrites (c : Nat) (k : Core) : (s.setCore c k).hostWrites = s.hostWrites := rfl
@[simp] theorem State.setCore_msiDue (c : Nat) (k : Core) : (s.setCore c k).msiDue = s.msiDue := rfl
@[simp] theorem State.setCore_ncWait (c : Nat) (k : Core) : (s.setCore c k).ncWait = s.ncWait := rfl
@[simp] theorem State.setCore_steerSum (c : Nat) (k : Core) : (s.setCore c k).steerSum = s.steerSum := rfl
@[simp] theorem State.setCore_nextTag (c : Nat) (k : Core) : (s.setCore c k).nextTag = s.nextTag := rfl
@[simp] theorem State.setCore_tables (c : Nat) (k : Core) : (s.setCore c k).tables = s.tables := rfl
@[simp] theorem State.setCore_nodesDown (c : Nat) (k : Core) : (s.setCore c k).nodesDown = s.nodesDown := rfl
@[simp] theorem State.setCore_nodesUp (c : Nat) (k : Core) : (s.setCore c k).nodesUp = s.nodesUp := rfl
@[simp] theorem State.setCore_cols (c : Nat) (k : Core) : (s.setCore c k).cols = s.cols := rfl
@[simp] theorem State.setCore_earlyReady (c : Nat) (k : Core) : (s.setCore c k).earlyReady = s.earlyReady := rfl
@[simp] theorem State.setCore_leaves (c : Nat) (k : Core) : (s.setCore c k).leaves = s.leaves := rfl
@[simp] theorem State.setCore_root94 (c : Nat) (k : Core) : (s.setCore c k).root94 = s.root94 := rfl
@[simp] theorem State.setCore_root95 (c : Nat) (k : Core) : (s.setCore c k).root95 = s.root95 := rfl
@[simp] theorem State.setCore_fencedU (c : Nat) (k : Core) : (s.setCore c k).fencedU = s.fencedU := rfl
@[simp] theorem State.setCore_mgmt (c : Nat) (k : Core) : (s.setCore c k).mgmt = s.mgmt := rfl
@[simp] theorem State.setCore_stewards (c : Nat) (k : Core) : (s.setCore c k).stewards = s.stewards := rfl
@[simp] theorem State.setCore_cutGen (c : Nat) (k : Core) : (s.setCore c k).cutGen = s.cutGen := rfl
@[simp] theorem State.setCore_overUs (c : Nat) (k : Core) : (s.setCore c k).overUs = s.overUs := rfl
@[simp] theorem State.setCore_lowUs (c : Nat) (k : Core) : (s.setCore c k).lowUs = s.lowUs := rfl
@[simp] theorem State.setCore_calmUs (c : Nat) (k : Core) : (s.setCore c k).calmUs = s.calmUs := rfl
@[simp] theorem State.setCore_partWork (c : Nat) (k : Core) : (s.setCore c k).partWork = s.partWork := rfl
@[simp] theorem State.setCore_delta (c : Nat) (k : Core) : (s.setCore c k).delta = s.delta := rfl
@[simp] theorem State.setCore_dieReset (c : Nat) (k : Core) : (s.setCore c k).dieReset = s.dieReset := rfl
@[simp] theorem State.setCore_resetCmds (c : Nat) (k : Core) : (s.setCore c k).resetCmds = s.resetCmds := rfl
@[simp] theorem State.setCore_rateFailed (c : Nat) (k : Core) : (s.setCore c k).rateFailed = s.rateFailed := rfl
@[simp] theorem State.setCore_served (c : Nat) (k : Core) : (s.setCore c k).served = s.served := rfl
@[simp] theorem State.setCore_sent (c : Nat) (k : Core) : (s.setCore c k).sent = s.sent := rfl
@[simp] theorem State.setPort_pending (p : HalPort) (k : HallPort) : (s.setPort p k).pending = s.pending := rfl
@[simp] theorem State.setPort_fresh (p : HalPort) (k : HallPort) : (s.setPort p k).fresh = s.fresh := rfl
@[simp] theorem State.setPort_time (p : HalPort) (k : HallPort) : (s.setPort p k).time = s.time := rfl
@[simp] theorem State.setPort_phase (p : HalPort) (k : HallPort) : (s.setPort p k).phase = s.phase := rfl
@[simp] theorem State.setPort_pins (p : HalPort) (k : HallPort) : (s.setPort p k).pins = s.pins := rfl
@[simp] theorem State.setPort_csr (p : HalPort) (k : HallPort) : (s.setPort p k).csr = s.csr := rfl
@[simp] theorem State.setPort_locked (p : HalPort) (k : HallPort) : (s.setPort p k).locked = s.locked := rfl
@[simp] theorem State.setPort_flp (p : HalPort) (k : HallPort) : (s.setPort p k).flp = s.flp := rfl
@[simp] theorem State.setPort_hallAcc (p : HalPort) (k : HallPort) : (s.setPort p k).hallAcc = s.hallAcc := rfl
@[simp] theorem State.setPort_hallIn (p : HalPort) (k : HallPort) : (s.setPort p k).hallIn = s.hallIn := rfl
@[simp] theorem State.setPort_hallSeq (p : HalPort) (k : HallPort) : (s.setPort p k).hallSeq = s.hallSeq := rfl
@[simp] theorem State.setPort_hallOut (p : HalPort) (k : HallPort) : (s.setPort p k).hallOut = s.hallOut := rfl
@[simp] theorem State.setPort_cores (p : HalPort) (k : HallPort) : (s.setPort p k).cores = s.cores := rfl
@[simp] theorem State.setPort_launches (p : HalPort) (k : HallPort) : (s.setPort p k).launches = s.launches := rfl
@[simp] theorem State.setPort_nextLaunch (p : HalPort) (k : HallPort) : (s.setPort p k).nextLaunch = s.nextLaunch := rfl
@[simp] theorem State.setPort_pool (p : HalPort) (k : HallPort) : (s.setPort p k).pool = s.pool := rfl
@[simp] theorem State.setPort_poolBad (p : HalPort) (k : HallPort) : (s.setPort p k).poolBad = s.poolBad := rfl
@[simp] theorem State.setPort_channels (p : HalPort) (k : HallPort) : (s.setPort p k).channels = s.channels := rfl
@[simp] theorem State.setPort_lines (p : HalPort) (k : HallPort) : (s.setPort p k).lines = s.lines := rfl
@[simp] theorem State.setPort_msau (p : HalPort) (k : HallPort) : (s.setPort p k).msau = s.msau := rfl
@[simp] theorem State.setPort_refused (p : HalPort) (k : HallPort) : (s.setPort p k).refused = s.refused := rfl
@[simp] theorem State.setPort_l2s (p : HalPort) (k : HallPort) : (s.setPort p k).l2s = s.l2s := rfl
@[simp] theorem State.setPort_l1s (p : HalPort) (k : HallPort) : (s.setPort p k).l1s = s.l1s := rfl
@[simp] theorem State.setPort_bases (p : HalPort) (k : HallPort) : (s.setPort p k).bases = s.bases := rfl
@[simp] theorem State.setPort_hostDir (p : HalPort) (k : HallPort) : (s.setPort p k).hostDir = s.hostDir := rfl
@[simp] theorem State.setPort_hostTxns (p : HalPort) (k : HallPort) : (s.setPort p k).hostTxns = s.hostTxns := rfl
@[simp] theorem State.setPort_hostTxn (p : HalPort) (k : HallPort) : (s.setPort p k).hostTxn = s.hostTxn := rfl
@[simp] theorem State.setPort_slots (p : HalPort) (k : HallPort) : (s.setPort p k).slots = s.slots := rfl
@[simp] theorem State.setPort_xlDie (p : HalPort) (k : HallPort) : (s.setPort p k).xlDie = s.xlDie := rfl
@[simp] theorem State.setPort_xlWalk (p : HalPort) (k : HallPort) : (s.setPort p k).xlWalk = s.xlWalk := rfl
@[simp] theorem State.setPort_xlSeq (p : HalPort) (k : HallPort) : (s.setPort p k).xlSeq = s.xlSeq := rfl
@[simp] theorem State.setPort_harts (p : HalPort) (k : HallPort) : (s.setPort p k).harts = s.harts := rfl
@[simp] theorem State.setPort_links (p : HalPort) (k : HallPort) : (s.setPort p k).links = s.links := rfl
@[simp] theorem State.setPort_fns (p : HalPort) (k : HallPort) : (s.setPort p k).fns = s.fns := rfl
@[simp] theorem State.setPort_sqs (p : HalPort) (k : HallPort) : (s.setPort p k).sqs = s.sqs := rfl
@[simp] theorem State.setPort_cqs (p : HalPort) (k : HallPort) : (s.setPort p k).cqs = s.cqs := rfl
@[simp] theorem State.setPort_heldBells (p : HalPort) (k : HallPort) : (s.setPort p k).heldBells = s.heldBells := rfl
@[simp] theorem State.setPort_shared (p : HalPort) (k : HallPort) : (s.setPort p k).shared = s.shared := rfl
@[simp] theorem State.setPort_flips (p : HalPort) (k : HallPort) : (s.setPort p k).flips = s.flips := rfl
@[simp] theorem State.setPort_nextFlip (p : HalPort) (k : HallPort) : (s.setPort p k).nextFlip = s.nextFlip := rfl
@[simp] theorem State.setPort_hostReads (p : HalPort) (k : HallPort) : (s.setPort p k).hostReads = s.hostReads := rfl
@[simp] theorem State.setPort_steer (p : HalPort) (k : HallPort) : (s.setPort p k).steer = s.steer := rfl
@[simp] theorem State.setPort_remotes (p : HalPort) (k : HallPort) : (s.setPort p k).remotes = s.remotes := rfl
@[simp] theorem State.setPort_hostWrites (p : HalPort) (k : HallPort) : (s.setPort p k).hostWrites = s.hostWrites := rfl
@[simp] theorem State.setPort_msiDue (p : HalPort) (k : HallPort) : (s.setPort p k).msiDue = s.msiDue := rfl
@[simp] theorem State.setPort_ncWait (p : HalPort) (k : HallPort) : (s.setPort p k).ncWait = s.ncWait := rfl
@[simp] theorem State.setPort_steerSum (p : HalPort) (k : HallPort) : (s.setPort p k).steerSum = s.steerSum := rfl
@[simp] theorem State.setPort_nextTag (p : HalPort) (k : HallPort) : (s.setPort p k).nextTag = s.nextTag := rfl
@[simp] theorem State.setPort_tables (p : HalPort) (k : HallPort) : (s.setPort p k).tables = s.tables := rfl
@[simp] theorem State.setPort_nodesDown (p : HalPort) (k : HallPort) : (s.setPort p k).nodesDown = s.nodesDown := rfl
@[simp] theorem State.setPort_nodesUp (p : HalPort) (k : HallPort) : (s.setPort p k).nodesUp = s.nodesUp := rfl
@[simp] theorem State.setPort_cols (p : HalPort) (k : HallPort) : (s.setPort p k).cols = s.cols := rfl
@[simp] theorem State.setPort_earlyReady (p : HalPort) (k : HallPort) : (s.setPort p k).earlyReady = s.earlyReady := rfl
@[simp] theorem State.setPort_leaves (p : HalPort) (k : HallPort) : (s.setPort p k).leaves = s.leaves := rfl
@[simp] theorem State.setPort_root94 (p : HalPort) (k : HallPort) : (s.setPort p k).root94 = s.root94 := rfl
@[simp] theorem State.setPort_root95 (p : HalPort) (k : HallPort) : (s.setPort p k).root95 = s.root95 := rfl
@[simp] theorem State.setPort_fencedU (p : HalPort) (k : HallPort) : (s.setPort p k).fencedU = s.fencedU := rfl
@[simp] theorem State.setPort_mgmt (p : HalPort) (k : HallPort) : (s.setPort p k).mgmt = s.mgmt := rfl
@[simp] theorem State.setPort_stewards (p : HalPort) (k : HallPort) : (s.setPort p k).stewards = s.stewards := rfl
@[simp] theorem State.setPort_cutGen (p : HalPort) (k : HallPort) : (s.setPort p k).cutGen = s.cutGen := rfl
@[simp] theorem State.setPort_overUs (p : HalPort) (k : HallPort) : (s.setPort p k).overUs = s.overUs := rfl
@[simp] theorem State.setPort_lowUs (p : HalPort) (k : HallPort) : (s.setPort p k).lowUs = s.lowUs := rfl
@[simp] theorem State.setPort_calmUs (p : HalPort) (k : HallPort) : (s.setPort p k).calmUs = s.calmUs := rfl
@[simp] theorem State.setPort_partWork (p : HalPort) (k : HallPort) : (s.setPort p k).partWork = s.partWork := rfl
@[simp] theorem State.setPort_delta (p : HalPort) (k : HallPort) : (s.setPort p k).delta = s.delta := rfl
@[simp] theorem State.setPort_dieReset (p : HalPort) (k : HallPort) : (s.setPort p k).dieReset = s.dieReset := rfl
@[simp] theorem State.setPort_resetCmds (p : HalPort) (k : HallPort) : (s.setPort p k).resetCmds = s.resetCmds := rfl
@[simp] theorem State.setPort_rateFailed (p : HalPort) (k : HallPort) : (s.setPort p k).rateFailed = s.rateFailed := rfl
@[simp] theorem State.setPort_served (p : HalPort) (k : HallPort) : (s.setPort p k).served = s.served := rfl
@[simp] theorem State.setPort_sent (p : HalPort) (k : HallPort) : (s.setPort p k).sent = s.sent := rfl
@[simp] theorem State.setChan_pending (c : Chan) (k : Channel) : (s.setChan c k).pending = s.pending := rfl
@[simp] theorem State.setChan_fresh (c : Chan) (k : Channel) : (s.setChan c k).fresh = s.fresh := rfl
@[simp] theorem State.setChan_time (c : Chan) (k : Channel) : (s.setChan c k).time = s.time := rfl
@[simp] theorem State.setChan_phase (c : Chan) (k : Channel) : (s.setChan c k).phase = s.phase := rfl
@[simp] theorem State.setChan_pins (c : Chan) (k : Channel) : (s.setChan c k).pins = s.pins := rfl
@[simp] theorem State.setChan_csr (c : Chan) (k : Channel) : (s.setChan c k).csr = s.csr := rfl
@[simp] theorem State.setChan_locked (c : Chan) (k : Channel) : (s.setChan c k).locked = s.locked := rfl
@[simp] theorem State.setChan_flp (c : Chan) (k : Channel) : (s.setChan c k).flp = s.flp := rfl
@[simp] theorem State.setChan_hall (c : Chan) (k : Channel) : (s.setChan c k).hall = s.hall := rfl
@[simp] theorem State.setChan_hallAcc (c : Chan) (k : Channel) : (s.setChan c k).hallAcc = s.hallAcc := rfl
@[simp] theorem State.setChan_hallIn (c : Chan) (k : Channel) : (s.setChan c k).hallIn = s.hallIn := rfl
@[simp] theorem State.setChan_hallSeq (c : Chan) (k : Channel) : (s.setChan c k).hallSeq = s.hallSeq := rfl
@[simp] theorem State.setChan_hallOut (c : Chan) (k : Channel) : (s.setChan c k).hallOut = s.hallOut := rfl
@[simp] theorem State.setChan_cores (c : Chan) (k : Channel) : (s.setChan c k).cores = s.cores := rfl
@[simp] theorem State.setChan_launches (c : Chan) (k : Channel) : (s.setChan c k).launches = s.launches := rfl
@[simp] theorem State.setChan_nextLaunch (c : Chan) (k : Channel) : (s.setChan c k).nextLaunch = s.nextLaunch := rfl
@[simp] theorem State.setChan_pool (c : Chan) (k : Channel) : (s.setChan c k).pool = s.pool := rfl
@[simp] theorem State.setChan_poolBad (c : Chan) (k : Channel) : (s.setChan c k).poolBad = s.poolBad := rfl
@[simp] theorem State.setChan_lines (c : Chan) (k : Channel) : (s.setChan c k).lines = s.lines := rfl
@[simp] theorem State.setChan_msau (c : Chan) (k : Channel) : (s.setChan c k).msau = s.msau := rfl
@[simp] theorem State.setChan_refused (c : Chan) (k : Channel) : (s.setChan c k).refused = s.refused := rfl
@[simp] theorem State.setChan_l2s (c : Chan) (k : Channel) : (s.setChan c k).l2s = s.l2s := rfl
@[simp] theorem State.setChan_l1s (c : Chan) (k : Channel) : (s.setChan c k).l1s = s.l1s := rfl
@[simp] theorem State.setChan_bases (c : Chan) (k : Channel) : (s.setChan c k).bases = s.bases := rfl
@[simp] theorem State.setChan_hostDir (c : Chan) (k : Channel) : (s.setChan c k).hostDir = s.hostDir := rfl
@[simp] theorem State.setChan_hostTxns (c : Chan) (k : Channel) : (s.setChan c k).hostTxns = s.hostTxns := rfl
@[simp] theorem State.setChan_hostTxn (c : Chan) (k : Channel) : (s.setChan c k).hostTxn = s.hostTxn := rfl
@[simp] theorem State.setChan_slots (c : Chan) (k : Channel) : (s.setChan c k).slots = s.slots := rfl
@[simp] theorem State.setChan_xlDie (c : Chan) (k : Channel) : (s.setChan c k).xlDie = s.xlDie := rfl
@[simp] theorem State.setChan_xlWalk (c : Chan) (k : Channel) : (s.setChan c k).xlWalk = s.xlWalk := rfl
@[simp] theorem State.setChan_xlSeq (c : Chan) (k : Channel) : (s.setChan c k).xlSeq = s.xlSeq := rfl
@[simp] theorem State.setChan_harts (c : Chan) (k : Channel) : (s.setChan c k).harts = s.harts := rfl
@[simp] theorem State.setChan_links (c : Chan) (k : Channel) : (s.setChan c k).links = s.links := rfl
@[simp] theorem State.setChan_fns (c : Chan) (k : Channel) : (s.setChan c k).fns = s.fns := rfl
@[simp] theorem State.setChan_sqs (c : Chan) (k : Channel) : (s.setChan c k).sqs = s.sqs := rfl
@[simp] theorem State.setChan_cqs (c : Chan) (k : Channel) : (s.setChan c k).cqs = s.cqs := rfl
@[simp] theorem State.setChan_heldBells (c : Chan) (k : Channel) : (s.setChan c k).heldBells = s.heldBells := rfl
@[simp] theorem State.setChan_shared (c : Chan) (k : Channel) : (s.setChan c k).shared = s.shared := rfl
@[simp] theorem State.setChan_flips (c : Chan) (k : Channel) : (s.setChan c k).flips = s.flips := rfl
@[simp] theorem State.setChan_nextFlip (c : Chan) (k : Channel) : (s.setChan c k).nextFlip = s.nextFlip := rfl
@[simp] theorem State.setChan_hostReads (c : Chan) (k : Channel) : (s.setChan c k).hostReads = s.hostReads := rfl
@[simp] theorem State.setChan_steer (c : Chan) (k : Channel) : (s.setChan c k).steer = s.steer := rfl
@[simp] theorem State.setChan_remotes (c : Chan) (k : Channel) : (s.setChan c k).remotes = s.remotes := rfl
@[simp] theorem State.setChan_hostWrites (c : Chan) (k : Channel) : (s.setChan c k).hostWrites = s.hostWrites := rfl
@[simp] theorem State.setChan_msiDue (c : Chan) (k : Channel) : (s.setChan c k).msiDue = s.msiDue := rfl
@[simp] theorem State.setChan_ncWait (c : Chan) (k : Channel) : (s.setChan c k).ncWait = s.ncWait := rfl
@[simp] theorem State.setChan_steerSum (c : Chan) (k : Channel) : (s.setChan c k).steerSum = s.steerSum := rfl
@[simp] theorem State.setChan_nextTag (c : Chan) (k : Channel) : (s.setChan c k).nextTag = s.nextTag := rfl
@[simp] theorem State.setChan_tables (c : Chan) (k : Channel) : (s.setChan c k).tables = s.tables := rfl
@[simp] theorem State.setChan_nodesDown (c : Chan) (k : Channel) : (s.setChan c k).nodesDown = s.nodesDown := rfl
@[simp] theorem State.setChan_nodesUp (c : Chan) (k : Channel) : (s.setChan c k).nodesUp = s.nodesUp := rfl
@[simp] theorem State.setChan_cols (c : Chan) (k : Channel) : (s.setChan c k).cols = s.cols := rfl
@[simp] theorem State.setChan_earlyReady (c : Chan) (k : Channel) : (s.setChan c k).earlyReady = s.earlyReady := rfl
@[simp] theorem State.setChan_leaves (c : Chan) (k : Channel) : (s.setChan c k).leaves = s.leaves := rfl
@[simp] theorem State.setChan_root94 (c : Chan) (k : Channel) : (s.setChan c k).root94 = s.root94 := rfl
@[simp] theorem State.setChan_root95 (c : Chan) (k : Channel) : (s.setChan c k).root95 = s.root95 := rfl
@[simp] theorem State.setChan_fencedU (c : Chan) (k : Channel) : (s.setChan c k).fencedU = s.fencedU := rfl
@[simp] theorem State.setChan_mgmt (c : Chan) (k : Channel) : (s.setChan c k).mgmt = s.mgmt := rfl
@[simp] theorem State.setChan_stewards (c : Chan) (k : Channel) : (s.setChan c k).stewards = s.stewards := rfl
@[simp] theorem State.setChan_cutGen (c : Chan) (k : Channel) : (s.setChan c k).cutGen = s.cutGen := rfl
@[simp] theorem State.setChan_overUs (c : Chan) (k : Channel) : (s.setChan c k).overUs = s.overUs := rfl
@[simp] theorem State.setChan_lowUs (c : Chan) (k : Channel) : (s.setChan c k).lowUs = s.lowUs := rfl
@[simp] theorem State.setChan_calmUs (c : Chan) (k : Channel) : (s.setChan c k).calmUs = s.calmUs := rfl
@[simp] theorem State.setChan_partWork (c : Chan) (k : Channel) : (s.setChan c k).partWork = s.partWork := rfl
@[simp] theorem State.setChan_delta (c : Chan) (k : Channel) : (s.setChan c k).delta = s.delta := rfl
@[simp] theorem State.setChan_dieReset (c : Chan) (k : Channel) : (s.setChan c k).dieReset = s.dieReset := rfl
@[simp] theorem State.setChan_resetCmds (c : Chan) (k : Channel) : (s.setChan c k).resetCmds = s.resetCmds := rfl
@[simp] theorem State.setChan_rateFailed (c : Chan) (k : Channel) : (s.setChan c k).rateFailed = s.rateFailed := rfl
@[simp] theorem State.setChan_served (c : Chan) (k : Channel) : (s.setChan c k).served = s.served := rfl
@[simp] theorem State.setChan_sent (c : Chan) (k : Channel) : (s.setChan c k).sent = s.sent := rfl
@[simp] theorem State.setLine_pending (l : Nat) (k : HomeLine) : (s.setLine l k).pending = s.pending := rfl
@[simp] theorem State.setLine_fresh (l : Nat) (k : HomeLine) : (s.setLine l k).fresh = s.fresh := rfl
@[simp] theorem State.setLine_time (l : Nat) (k : HomeLine) : (s.setLine l k).time = s.time := rfl
@[simp] theorem State.setLine_phase (l : Nat) (k : HomeLine) : (s.setLine l k).phase = s.phase := rfl
@[simp] theorem State.setLine_pins (l : Nat) (k : HomeLine) : (s.setLine l k).pins = s.pins := rfl
@[simp] theorem State.setLine_csr (l : Nat) (k : HomeLine) : (s.setLine l k).csr = s.csr := rfl
@[simp] theorem State.setLine_locked (l : Nat) (k : HomeLine) : (s.setLine l k).locked = s.locked := rfl
@[simp] theorem State.setLine_flp (l : Nat) (k : HomeLine) : (s.setLine l k).flp = s.flp := rfl
@[simp] theorem State.setLine_hall (l : Nat) (k : HomeLine) : (s.setLine l k).hall = s.hall := rfl
@[simp] theorem State.setLine_hallAcc (l : Nat) (k : HomeLine) : (s.setLine l k).hallAcc = s.hallAcc := rfl
@[simp] theorem State.setLine_hallIn (l : Nat) (k : HomeLine) : (s.setLine l k).hallIn = s.hallIn := rfl
@[simp] theorem State.setLine_hallSeq (l : Nat) (k : HomeLine) : (s.setLine l k).hallSeq = s.hallSeq := rfl
@[simp] theorem State.setLine_hallOut (l : Nat) (k : HomeLine) : (s.setLine l k).hallOut = s.hallOut := rfl
@[simp] theorem State.setLine_cores (l : Nat) (k : HomeLine) : (s.setLine l k).cores = s.cores := rfl
@[simp] theorem State.setLine_launches (l : Nat) (k : HomeLine) : (s.setLine l k).launches = s.launches := rfl
@[simp] theorem State.setLine_nextLaunch (l : Nat) (k : HomeLine) : (s.setLine l k).nextLaunch = s.nextLaunch := rfl
@[simp] theorem State.setLine_pool (l : Nat) (k : HomeLine) : (s.setLine l k).pool = s.pool := rfl
@[simp] theorem State.setLine_poolBad (l : Nat) (k : HomeLine) : (s.setLine l k).poolBad = s.poolBad := rfl
@[simp] theorem State.setLine_channels (l : Nat) (k : HomeLine) : (s.setLine l k).channels = s.channels := rfl
@[simp] theorem State.setLine_msau (l : Nat) (k : HomeLine) : (s.setLine l k).msau = s.msau := rfl
@[simp] theorem State.setLine_refused (l : Nat) (k : HomeLine) : (s.setLine l k).refused = s.refused := rfl
@[simp] theorem State.setLine_l2s (l : Nat) (k : HomeLine) : (s.setLine l k).l2s = s.l2s := rfl
@[simp] theorem State.setLine_l1s (l : Nat) (k : HomeLine) : (s.setLine l k).l1s = s.l1s := rfl
@[simp] theorem State.setLine_bases (l : Nat) (k : HomeLine) : (s.setLine l k).bases = s.bases := rfl
@[simp] theorem State.setLine_hostDir (l : Nat) (k : HomeLine) : (s.setLine l k).hostDir = s.hostDir := rfl
@[simp] theorem State.setLine_hostTxns (l : Nat) (k : HomeLine) : (s.setLine l k).hostTxns = s.hostTxns := rfl
@[simp] theorem State.setLine_hostTxn (l : Nat) (k : HomeLine) : (s.setLine l k).hostTxn = s.hostTxn := rfl
@[simp] theorem State.setLine_slots (l : Nat) (k : HomeLine) : (s.setLine l k).slots = s.slots := rfl
@[simp] theorem State.setLine_xlDie (l : Nat) (k : HomeLine) : (s.setLine l k).xlDie = s.xlDie := rfl
@[simp] theorem State.setLine_xlWalk (l : Nat) (k : HomeLine) : (s.setLine l k).xlWalk = s.xlWalk := rfl
@[simp] theorem State.setLine_xlSeq (l : Nat) (k : HomeLine) : (s.setLine l k).xlSeq = s.xlSeq := rfl
@[simp] theorem State.setLine_harts (l : Nat) (k : HomeLine) : (s.setLine l k).harts = s.harts := rfl
@[simp] theorem State.setLine_links (l : Nat) (k : HomeLine) : (s.setLine l k).links = s.links := rfl
@[simp] theorem State.setLine_fns (l : Nat) (k : HomeLine) : (s.setLine l k).fns = s.fns := rfl
@[simp] theorem State.setLine_sqs (l : Nat) (k : HomeLine) : (s.setLine l k).sqs = s.sqs := rfl
@[simp] theorem State.setLine_cqs (l : Nat) (k : HomeLine) : (s.setLine l k).cqs = s.cqs := rfl
@[simp] theorem State.setLine_heldBells (l : Nat) (k : HomeLine) : (s.setLine l k).heldBells = s.heldBells := rfl
@[simp] theorem State.setLine_shared (l : Nat) (k : HomeLine) : (s.setLine l k).shared = s.shared := rfl
@[simp] theorem State.setLine_flips (l : Nat) (k : HomeLine) : (s.setLine l k).flips = s.flips := rfl
@[simp] theorem State.setLine_nextFlip (l : Nat) (k : HomeLine) : (s.setLine l k).nextFlip = s.nextFlip := rfl
@[simp] theorem State.setLine_hostReads (l : Nat) (k : HomeLine) : (s.setLine l k).hostReads = s.hostReads := rfl
@[simp] theorem State.setLine_steer (l : Nat) (k : HomeLine) : (s.setLine l k).steer = s.steer := rfl
@[simp] theorem State.setLine_remotes (l : Nat) (k : HomeLine) : (s.setLine l k).remotes = s.remotes := rfl
@[simp] theorem State.setLine_hostWrites (l : Nat) (k : HomeLine) : (s.setLine l k).hostWrites = s.hostWrites := rfl
@[simp] theorem State.setLine_msiDue (l : Nat) (k : HomeLine) : (s.setLine l k).msiDue = s.msiDue := rfl
@[simp] theorem State.setLine_ncWait (l : Nat) (k : HomeLine) : (s.setLine l k).ncWait = s.ncWait := rfl
@[simp] theorem State.setLine_steerSum (l : Nat) (k : HomeLine) : (s.setLine l k).steerSum = s.steerSum := rfl
@[simp] theorem State.setLine_nextTag (l : Nat) (k : HomeLine) : (s.setLine l k).nextTag = s.nextTag := rfl
@[simp] theorem State.setLine_tables (l : Nat) (k : HomeLine) : (s.setLine l k).tables = s.tables := rfl
@[simp] theorem State.setLine_nodesDown (l : Nat) (k : HomeLine) : (s.setLine l k).nodesDown = s.nodesDown := rfl
@[simp] theorem State.setLine_nodesUp (l : Nat) (k : HomeLine) : (s.setLine l k).nodesUp = s.nodesUp := rfl
@[simp] theorem State.setLine_cols (l : Nat) (k : HomeLine) : (s.setLine l k).cols = s.cols := rfl
@[simp] theorem State.setLine_earlyReady (l : Nat) (k : HomeLine) : (s.setLine l k).earlyReady = s.earlyReady := rfl
@[simp] theorem State.setLine_leaves (l : Nat) (k : HomeLine) : (s.setLine l k).leaves = s.leaves := rfl
@[simp] theorem State.setLine_root94 (l : Nat) (k : HomeLine) : (s.setLine l k).root94 = s.root94 := rfl
@[simp] theorem State.setLine_root95 (l : Nat) (k : HomeLine) : (s.setLine l k).root95 = s.root95 := rfl
@[simp] theorem State.setLine_fencedU (l : Nat) (k : HomeLine) : (s.setLine l k).fencedU = s.fencedU := rfl
@[simp] theorem State.setLine_mgmt (l : Nat) (k : HomeLine) : (s.setLine l k).mgmt = s.mgmt := rfl
@[simp] theorem State.setLine_stewards (l : Nat) (k : HomeLine) : (s.setLine l k).stewards = s.stewards := rfl
@[simp] theorem State.setLine_cutGen (l : Nat) (k : HomeLine) : (s.setLine l k).cutGen = s.cutGen := rfl
@[simp] theorem State.setLine_overUs (l : Nat) (k : HomeLine) : (s.setLine l k).overUs = s.overUs := rfl
@[simp] theorem State.setLine_lowUs (l : Nat) (k : HomeLine) : (s.setLine l k).lowUs = s.lowUs := rfl
@[simp] theorem State.setLine_calmUs (l : Nat) (k : HomeLine) : (s.setLine l k).calmUs = s.calmUs := rfl
@[simp] theorem State.setLine_partWork (l : Nat) (k : HomeLine) : (s.setLine l k).partWork = s.partWork := rfl
@[simp] theorem State.setLine_delta (l : Nat) (k : HomeLine) : (s.setLine l k).delta = s.delta := rfl
@[simp] theorem State.setLine_dieReset (l : Nat) (k : HomeLine) : (s.setLine l k).dieReset = s.dieReset := rfl
@[simp] theorem State.setLine_resetCmds (l : Nat) (k : HomeLine) : (s.setLine l k).resetCmds = s.resetCmds := rfl
@[simp] theorem State.setLine_rateFailed (l : Nat) (k : HomeLine) : (s.setLine l k).rateFailed = s.rateFailed := rfl
@[simp] theorem State.setLine_served (l : Nat) (k : HomeLine) : (s.setLine l k).served = s.served := rfl
@[simp] theorem State.setLine_sent (l : Nat) (k : HomeLine) : (s.setLine l k).sent = s.sent := rfl
@[simp] theorem State.setL2_pending (n : Nat) (k : L2) : (s.setL2 n k).pending = s.pending := rfl
@[simp] theorem State.setL2_fresh (n : Nat) (k : L2) : (s.setL2 n k).fresh = s.fresh := rfl
@[simp] theorem State.setL2_time (n : Nat) (k : L2) : (s.setL2 n k).time = s.time := rfl
@[simp] theorem State.setL2_phase (n : Nat) (k : L2) : (s.setL2 n k).phase = s.phase := rfl
@[simp] theorem State.setL2_pins (n : Nat) (k : L2) : (s.setL2 n k).pins = s.pins := rfl
@[simp] theorem State.setL2_csr (n : Nat) (k : L2) : (s.setL2 n k).csr = s.csr := rfl
@[simp] theorem State.setL2_locked (n : Nat) (k : L2) : (s.setL2 n k).locked = s.locked := rfl
@[simp] theorem State.setL2_flp (n : Nat) (k : L2) : (s.setL2 n k).flp = s.flp := rfl
@[simp] theorem State.setL2_hall (n : Nat) (k : L2) : (s.setL2 n k).hall = s.hall := rfl
@[simp] theorem State.setL2_hallAcc (n : Nat) (k : L2) : (s.setL2 n k).hallAcc = s.hallAcc := rfl
@[simp] theorem State.setL2_hallIn (n : Nat) (k : L2) : (s.setL2 n k).hallIn = s.hallIn := rfl
@[simp] theorem State.setL2_hallSeq (n : Nat) (k : L2) : (s.setL2 n k).hallSeq = s.hallSeq := rfl
@[simp] theorem State.setL2_hallOut (n : Nat) (k : L2) : (s.setL2 n k).hallOut = s.hallOut := rfl
@[simp] theorem State.setL2_cores (n : Nat) (k : L2) : (s.setL2 n k).cores = s.cores := rfl
@[simp] theorem State.setL2_launches (n : Nat) (k : L2) : (s.setL2 n k).launches = s.launches := rfl
@[simp] theorem State.setL2_nextLaunch (n : Nat) (k : L2) : (s.setL2 n k).nextLaunch = s.nextLaunch := rfl
@[simp] theorem State.setL2_pool (n : Nat) (k : L2) : (s.setL2 n k).pool = s.pool := rfl
@[simp] theorem State.setL2_poolBad (n : Nat) (k : L2) : (s.setL2 n k).poolBad = s.poolBad := rfl
@[simp] theorem State.setL2_channels (n : Nat) (k : L2) : (s.setL2 n k).channels = s.channels := rfl
@[simp] theorem State.setL2_lines (n : Nat) (k : L2) : (s.setL2 n k).lines = s.lines := rfl
@[simp] theorem State.setL2_msau (n : Nat) (k : L2) : (s.setL2 n k).msau = s.msau := rfl
@[simp] theorem State.setL2_refused (n : Nat) (k : L2) : (s.setL2 n k).refused = s.refused := rfl
@[simp] theorem State.setL2_l1s (n : Nat) (k : L2) : (s.setL2 n k).l1s = s.l1s := rfl
@[simp] theorem State.setL2_bases (n : Nat) (k : L2) : (s.setL2 n k).bases = s.bases := rfl
@[simp] theorem State.setL2_hostDir (n : Nat) (k : L2) : (s.setL2 n k).hostDir = s.hostDir := rfl
@[simp] theorem State.setL2_hostTxns (n : Nat) (k : L2) : (s.setL2 n k).hostTxns = s.hostTxns := rfl
@[simp] theorem State.setL2_hostTxn (n : Nat) (k : L2) : (s.setL2 n k).hostTxn = s.hostTxn := rfl
@[simp] theorem State.setL2_slots (n : Nat) (k : L2) : (s.setL2 n k).slots = s.slots := rfl
@[simp] theorem State.setL2_xlDie (n : Nat) (k : L2) : (s.setL2 n k).xlDie = s.xlDie := rfl
@[simp] theorem State.setL2_xlWalk (n : Nat) (k : L2) : (s.setL2 n k).xlWalk = s.xlWalk := rfl
@[simp] theorem State.setL2_xlSeq (n : Nat) (k : L2) : (s.setL2 n k).xlSeq = s.xlSeq := rfl
@[simp] theorem State.setL2_harts (n : Nat) (k : L2) : (s.setL2 n k).harts = s.harts := rfl
@[simp] theorem State.setL2_links (n : Nat) (k : L2) : (s.setL2 n k).links = s.links := rfl
@[simp] theorem State.setL2_fns (n : Nat) (k : L2) : (s.setL2 n k).fns = s.fns := rfl
@[simp] theorem State.setL2_sqs (n : Nat) (k : L2) : (s.setL2 n k).sqs = s.sqs := rfl
@[simp] theorem State.setL2_cqs (n : Nat) (k : L2) : (s.setL2 n k).cqs = s.cqs := rfl
@[simp] theorem State.setL2_heldBells (n : Nat) (k : L2) : (s.setL2 n k).heldBells = s.heldBells := rfl
@[simp] theorem State.setL2_shared (n : Nat) (k : L2) : (s.setL2 n k).shared = s.shared := rfl
@[simp] theorem State.setL2_flips (n : Nat) (k : L2) : (s.setL2 n k).flips = s.flips := rfl
@[simp] theorem State.setL2_nextFlip (n : Nat) (k : L2) : (s.setL2 n k).nextFlip = s.nextFlip := rfl
@[simp] theorem State.setL2_hostReads (n : Nat) (k : L2) : (s.setL2 n k).hostReads = s.hostReads := rfl
@[simp] theorem State.setL2_steer (n : Nat) (k : L2) : (s.setL2 n k).steer = s.steer := rfl
@[simp] theorem State.setL2_remotes (n : Nat) (k : L2) : (s.setL2 n k).remotes = s.remotes := rfl
@[simp] theorem State.setL2_hostWrites (n : Nat) (k : L2) : (s.setL2 n k).hostWrites = s.hostWrites := rfl
@[simp] theorem State.setL2_msiDue (n : Nat) (k : L2) : (s.setL2 n k).msiDue = s.msiDue := rfl
@[simp] theorem State.setL2_ncWait (n : Nat) (k : L2) : (s.setL2 n k).ncWait = s.ncWait := rfl
@[simp] theorem State.setL2_steerSum (n : Nat) (k : L2) : (s.setL2 n k).steerSum = s.steerSum := rfl
@[simp] theorem State.setL2_nextTag (n : Nat) (k : L2) : (s.setL2 n k).nextTag = s.nextTag := rfl
@[simp] theorem State.setL2_tables (n : Nat) (k : L2) : (s.setL2 n k).tables = s.tables := rfl
@[simp] theorem State.setL2_nodesDown (n : Nat) (k : L2) : (s.setL2 n k).nodesDown = s.nodesDown := rfl
@[simp] theorem State.setL2_nodesUp (n : Nat) (k : L2) : (s.setL2 n k).nodesUp = s.nodesUp := rfl
@[simp] theorem State.setL2_cols (n : Nat) (k : L2) : (s.setL2 n k).cols = s.cols := rfl
@[simp] theorem State.setL2_earlyReady (n : Nat) (k : L2) : (s.setL2 n k).earlyReady = s.earlyReady := rfl
@[simp] theorem State.setL2_leaves (n : Nat) (k : L2) : (s.setL2 n k).leaves = s.leaves := rfl
@[simp] theorem State.setL2_root94 (n : Nat) (k : L2) : (s.setL2 n k).root94 = s.root94 := rfl
@[simp] theorem State.setL2_root95 (n : Nat) (k : L2) : (s.setL2 n k).root95 = s.root95 := rfl
@[simp] theorem State.setL2_fencedU (n : Nat) (k : L2) : (s.setL2 n k).fencedU = s.fencedU := rfl
@[simp] theorem State.setL2_mgmt (n : Nat) (k : L2) : (s.setL2 n k).mgmt = s.mgmt := rfl
@[simp] theorem State.setL2_stewards (n : Nat) (k : L2) : (s.setL2 n k).stewards = s.stewards := rfl
@[simp] theorem State.setL2_cutGen (n : Nat) (k : L2) : (s.setL2 n k).cutGen = s.cutGen := rfl
@[simp] theorem State.setL2_overUs (n : Nat) (k : L2) : (s.setL2 n k).overUs = s.overUs := rfl
@[simp] theorem State.setL2_lowUs (n : Nat) (k : L2) : (s.setL2 n k).lowUs = s.lowUs := rfl
@[simp] theorem State.setL2_calmUs (n : Nat) (k : L2) : (s.setL2 n k).calmUs = s.calmUs := rfl
@[simp] theorem State.setL2_partWork (n : Nat) (k : L2) : (s.setL2 n k).partWork = s.partWork := rfl
@[simp] theorem State.setL2_delta (n : Nat) (k : L2) : (s.setL2 n k).delta = s.delta := rfl
@[simp] theorem State.setL2_dieReset (n : Nat) (k : L2) : (s.setL2 n k).dieReset = s.dieReset := rfl
@[simp] theorem State.setL2_resetCmds (n : Nat) (k : L2) : (s.setL2 n k).resetCmds = s.resetCmds := rfl
@[simp] theorem State.setL2_rateFailed (n : Nat) (k : L2) : (s.setL2 n k).rateFailed = s.rateFailed := rfl
@[simp] theorem State.setL2_served (n : Nat) (k : L2) : (s.setL2 n k).served = s.served := rfl
@[simp] theorem State.setL2_sent (n : Nat) (k : L2) : (s.setL2 n k).sent = s.sent := rfl
@[simp] theorem State.setBase_pending (n : Nat) (k : BaseCache) : (s.setBase n k).pending = s.pending := rfl
@[simp] theorem State.setBase_fresh (n : Nat) (k : BaseCache) : (s.setBase n k).fresh = s.fresh := rfl
@[simp] theorem State.setBase_time (n : Nat) (k : BaseCache) : (s.setBase n k).time = s.time := rfl
@[simp] theorem State.setBase_phase (n : Nat) (k : BaseCache) : (s.setBase n k).phase = s.phase := rfl
@[simp] theorem State.setBase_pins (n : Nat) (k : BaseCache) : (s.setBase n k).pins = s.pins := rfl
@[simp] theorem State.setBase_csr (n : Nat) (k : BaseCache) : (s.setBase n k).csr = s.csr := rfl
@[simp] theorem State.setBase_locked (n : Nat) (k : BaseCache) : (s.setBase n k).locked = s.locked := rfl
@[simp] theorem State.setBase_flp (n : Nat) (k : BaseCache) : (s.setBase n k).flp = s.flp := rfl
@[simp] theorem State.setBase_hall (n : Nat) (k : BaseCache) : (s.setBase n k).hall = s.hall := rfl
@[simp] theorem State.setBase_hallAcc (n : Nat) (k : BaseCache) : (s.setBase n k).hallAcc = s.hallAcc := rfl
@[simp] theorem State.setBase_hallIn (n : Nat) (k : BaseCache) : (s.setBase n k).hallIn = s.hallIn := rfl
@[simp] theorem State.setBase_hallSeq (n : Nat) (k : BaseCache) : (s.setBase n k).hallSeq = s.hallSeq := rfl
@[simp] theorem State.setBase_hallOut (n : Nat) (k : BaseCache) : (s.setBase n k).hallOut = s.hallOut := rfl
@[simp] theorem State.setBase_cores (n : Nat) (k : BaseCache) : (s.setBase n k).cores = s.cores := rfl
@[simp] theorem State.setBase_launches (n : Nat) (k : BaseCache) : (s.setBase n k).launches = s.launches := rfl
@[simp] theorem State.setBase_nextLaunch (n : Nat) (k : BaseCache) : (s.setBase n k).nextLaunch = s.nextLaunch := rfl
@[simp] theorem State.setBase_pool (n : Nat) (k : BaseCache) : (s.setBase n k).pool = s.pool := rfl
@[simp] theorem State.setBase_poolBad (n : Nat) (k : BaseCache) : (s.setBase n k).poolBad = s.poolBad := rfl
@[simp] theorem State.setBase_channels (n : Nat) (k : BaseCache) : (s.setBase n k).channels = s.channels := rfl
@[simp] theorem State.setBase_lines (n : Nat) (k : BaseCache) : (s.setBase n k).lines = s.lines := rfl
@[simp] theorem State.setBase_msau (n : Nat) (k : BaseCache) : (s.setBase n k).msau = s.msau := rfl
@[simp] theorem State.setBase_refused (n : Nat) (k : BaseCache) : (s.setBase n k).refused = s.refused := rfl
@[simp] theorem State.setBase_l2s (n : Nat) (k : BaseCache) : (s.setBase n k).l2s = s.l2s := rfl
@[simp] theorem State.setBase_l1s (n : Nat) (k : BaseCache) : (s.setBase n k).l1s = s.l1s := rfl
@[simp] theorem State.setBase_hostDir (n : Nat) (k : BaseCache) : (s.setBase n k).hostDir = s.hostDir := rfl
@[simp] theorem State.setBase_hostTxns (n : Nat) (k : BaseCache) : (s.setBase n k).hostTxns = s.hostTxns := rfl
@[simp] theorem State.setBase_hostTxn (n : Nat) (k : BaseCache) : (s.setBase n k).hostTxn = s.hostTxn := rfl
@[simp] theorem State.setBase_slots (n : Nat) (k : BaseCache) : (s.setBase n k).slots = s.slots := rfl
@[simp] theorem State.setBase_xlDie (n : Nat) (k : BaseCache) : (s.setBase n k).xlDie = s.xlDie := rfl
@[simp] theorem State.setBase_xlWalk (n : Nat) (k : BaseCache) : (s.setBase n k).xlWalk = s.xlWalk := rfl
@[simp] theorem State.setBase_xlSeq (n : Nat) (k : BaseCache) : (s.setBase n k).xlSeq = s.xlSeq := rfl
@[simp] theorem State.setBase_harts (n : Nat) (k : BaseCache) : (s.setBase n k).harts = s.harts := rfl
@[simp] theorem State.setBase_links (n : Nat) (k : BaseCache) : (s.setBase n k).links = s.links := rfl
@[simp] theorem State.setBase_fns (n : Nat) (k : BaseCache) : (s.setBase n k).fns = s.fns := rfl
@[simp] theorem State.setBase_sqs (n : Nat) (k : BaseCache) : (s.setBase n k).sqs = s.sqs := rfl
@[simp] theorem State.setBase_cqs (n : Nat) (k : BaseCache) : (s.setBase n k).cqs = s.cqs := rfl
@[simp] theorem State.setBase_heldBells (n : Nat) (k : BaseCache) : (s.setBase n k).heldBells = s.heldBells := rfl
@[simp] theorem State.setBase_shared (n : Nat) (k : BaseCache) : (s.setBase n k).shared = s.shared := rfl
@[simp] theorem State.setBase_flips (n : Nat) (k : BaseCache) : (s.setBase n k).flips = s.flips := rfl
@[simp] theorem State.setBase_nextFlip (n : Nat) (k : BaseCache) : (s.setBase n k).nextFlip = s.nextFlip := rfl
@[simp] theorem State.setBase_hostReads (n : Nat) (k : BaseCache) : (s.setBase n k).hostReads = s.hostReads := rfl
@[simp] theorem State.setBase_steer (n : Nat) (k : BaseCache) : (s.setBase n k).steer = s.steer := rfl
@[simp] theorem State.setBase_remotes (n : Nat) (k : BaseCache) : (s.setBase n k).remotes = s.remotes := rfl
@[simp] theorem State.setBase_hostWrites (n : Nat) (k : BaseCache) : (s.setBase n k).hostWrites = s.hostWrites := rfl
@[simp] theorem State.setBase_msiDue (n : Nat) (k : BaseCache) : (s.setBase n k).msiDue = s.msiDue := rfl
@[simp] theorem State.setBase_ncWait (n : Nat) (k : BaseCache) : (s.setBase n k).ncWait = s.ncWait := rfl
@[simp] theorem State.setBase_steerSum (n : Nat) (k : BaseCache) : (s.setBase n k).steerSum = s.steerSum := rfl
@[simp] theorem State.setBase_nextTag (n : Nat) (k : BaseCache) : (s.setBase n k).nextTag = s.nextTag := rfl
@[simp] theorem State.setBase_tables (n : Nat) (k : BaseCache) : (s.setBase n k).tables = s.tables := rfl
@[simp] theorem State.setBase_nodesDown (n : Nat) (k : BaseCache) : (s.setBase n k).nodesDown = s.nodesDown := rfl
@[simp] theorem State.setBase_nodesUp (n : Nat) (k : BaseCache) : (s.setBase n k).nodesUp = s.nodesUp := rfl
@[simp] theorem State.setBase_cols (n : Nat) (k : BaseCache) : (s.setBase n k).cols = s.cols := rfl
@[simp] theorem State.setBase_earlyReady (n : Nat) (k : BaseCache) : (s.setBase n k).earlyReady = s.earlyReady := rfl
@[simp] theorem State.setBase_leaves (n : Nat) (k : BaseCache) : (s.setBase n k).leaves = s.leaves := rfl
@[simp] theorem State.setBase_root94 (n : Nat) (k : BaseCache) : (s.setBase n k).root94 = s.root94 := rfl
@[simp] theorem State.setBase_root95 (n : Nat) (k : BaseCache) : (s.setBase n k).root95 = s.root95 := rfl
@[simp] theorem State.setBase_fencedU (n : Nat) (k : BaseCache) : (s.setBase n k).fencedU = s.fencedU := rfl
@[simp] theorem State.setBase_mgmt (n : Nat) (k : BaseCache) : (s.setBase n k).mgmt = s.mgmt := rfl
@[simp] theorem State.setBase_stewards (n : Nat) (k : BaseCache) : (s.setBase n k).stewards = s.stewards := rfl
@[simp] theorem State.setBase_cutGen (n : Nat) (k : BaseCache) : (s.setBase n k).cutGen = s.cutGen := rfl
@[simp] theorem State.setBase_overUs (n : Nat) (k : BaseCache) : (s.setBase n k).overUs = s.overUs := rfl
@[simp] theorem State.setBase_lowUs (n : Nat) (k : BaseCache) : (s.setBase n k).lowUs = s.lowUs := rfl
@[simp] theorem State.setBase_calmUs (n : Nat) (k : BaseCache) : (s.setBase n k).calmUs = s.calmUs := rfl
@[simp] theorem State.setBase_partWork (n : Nat) (k : BaseCache) : (s.setBase n k).partWork = s.partWork := rfl
@[simp] theorem State.setBase_delta (n : Nat) (k : BaseCache) : (s.setBase n k).delta = s.delta := rfl
@[simp] theorem State.setBase_dieReset (n : Nat) (k : BaseCache) : (s.setBase n k).dieReset = s.dieReset := rfl
@[simp] theorem State.setBase_resetCmds (n : Nat) (k : BaseCache) : (s.setBase n k).resetCmds = s.resetCmds := rfl
@[simp] theorem State.setBase_rateFailed (n : Nat) (k : BaseCache) : (s.setBase n k).rateFailed = s.rateFailed := rfl
@[simp] theorem State.setBase_served (n : Nat) (k : BaseCache) : (s.setBase n k).served = s.served := rfl
@[simp] theorem State.setBase_sent (n : Nat) (k : BaseCache) : (s.setBase n k).sent = s.sent := rfl
@[simp] theorem State.setHart_pending (h : Nat) (k : Hart) : (s.setHart h k).pending = s.pending := rfl
@[simp] theorem State.setHart_fresh (h : Nat) (k : Hart) : (s.setHart h k).fresh = s.fresh := rfl
@[simp] theorem State.setHart_time (h : Nat) (k : Hart) : (s.setHart h k).time = s.time := rfl
@[simp] theorem State.setHart_phase (h : Nat) (k : Hart) : (s.setHart h k).phase = s.phase := rfl
@[simp] theorem State.setHart_pins (h : Nat) (k : Hart) : (s.setHart h k).pins = s.pins := rfl
@[simp] theorem State.setHart_csr (h : Nat) (k : Hart) : (s.setHart h k).csr = s.csr := rfl
@[simp] theorem State.setHart_locked (h : Nat) (k : Hart) : (s.setHart h k).locked = s.locked := rfl
@[simp] theorem State.setHart_flp (h : Nat) (k : Hart) : (s.setHart h k).flp = s.flp := rfl
@[simp] theorem State.setHart_hall (h : Nat) (k : Hart) : (s.setHart h k).hall = s.hall := rfl
@[simp] theorem State.setHart_hallAcc (h : Nat) (k : Hart) : (s.setHart h k).hallAcc = s.hallAcc := rfl
@[simp] theorem State.setHart_hallIn (h : Nat) (k : Hart) : (s.setHart h k).hallIn = s.hallIn := rfl
@[simp] theorem State.setHart_hallSeq (h : Nat) (k : Hart) : (s.setHart h k).hallSeq = s.hallSeq := rfl
@[simp] theorem State.setHart_hallOut (h : Nat) (k : Hart) : (s.setHart h k).hallOut = s.hallOut := rfl
@[simp] theorem State.setHart_cores (h : Nat) (k : Hart) : (s.setHart h k).cores = s.cores := rfl
@[simp] theorem State.setHart_launches (h : Nat) (k : Hart) : (s.setHart h k).launches = s.launches := rfl
@[simp] theorem State.setHart_nextLaunch (h : Nat) (k : Hart) : (s.setHart h k).nextLaunch = s.nextLaunch := rfl
@[simp] theorem State.setHart_pool (h : Nat) (k : Hart) : (s.setHart h k).pool = s.pool := rfl
@[simp] theorem State.setHart_poolBad (h : Nat) (k : Hart) : (s.setHart h k).poolBad = s.poolBad := rfl
@[simp] theorem State.setHart_channels (h : Nat) (k : Hart) : (s.setHart h k).channels = s.channels := rfl
@[simp] theorem State.setHart_lines (h : Nat) (k : Hart) : (s.setHart h k).lines = s.lines := rfl
@[simp] theorem State.setHart_msau (h : Nat) (k : Hart) : (s.setHart h k).msau = s.msau := rfl
@[simp] theorem State.setHart_refused (h : Nat) (k : Hart) : (s.setHart h k).refused = s.refused := rfl
@[simp] theorem State.setHart_l2s (h : Nat) (k : Hart) : (s.setHart h k).l2s = s.l2s := rfl
@[simp] theorem State.setHart_l1s (h : Nat) (k : Hart) : (s.setHart h k).l1s = s.l1s := rfl
@[simp] theorem State.setHart_bases (h : Nat) (k : Hart) : (s.setHart h k).bases = s.bases := rfl
@[simp] theorem State.setHart_hostDir (h : Nat) (k : Hart) : (s.setHart h k).hostDir = s.hostDir := rfl
@[simp] theorem State.setHart_hostTxns (h : Nat) (k : Hart) : (s.setHart h k).hostTxns = s.hostTxns := rfl
@[simp] theorem State.setHart_hostTxn (h : Nat) (k : Hart) : (s.setHart h k).hostTxn = s.hostTxn := rfl
@[simp] theorem State.setHart_slots (h : Nat) (k : Hart) : (s.setHart h k).slots = s.slots := rfl
@[simp] theorem State.setHart_xlDie (h : Nat) (k : Hart) : (s.setHart h k).xlDie = s.xlDie := rfl
@[simp] theorem State.setHart_xlWalk (h : Nat) (k : Hart) : (s.setHart h k).xlWalk = s.xlWalk := rfl
@[simp] theorem State.setHart_xlSeq (h : Nat) (k : Hart) : (s.setHart h k).xlSeq = s.xlSeq := rfl
@[simp] theorem State.setHart_links (h : Nat) (k : Hart) : (s.setHart h k).links = s.links := rfl
@[simp] theorem State.setHart_fns (h : Nat) (k : Hart) : (s.setHart h k).fns = s.fns := rfl
@[simp] theorem State.setHart_sqs (h : Nat) (k : Hart) : (s.setHart h k).sqs = s.sqs := rfl
@[simp] theorem State.setHart_cqs (h : Nat) (k : Hart) : (s.setHart h k).cqs = s.cqs := rfl
@[simp] theorem State.setHart_heldBells (h : Nat) (k : Hart) : (s.setHart h k).heldBells = s.heldBells := rfl
@[simp] theorem State.setHart_shared (h : Nat) (k : Hart) : (s.setHart h k).shared = s.shared := rfl
@[simp] theorem State.setHart_flips (h : Nat) (k : Hart) : (s.setHart h k).flips = s.flips := rfl
@[simp] theorem State.setHart_nextFlip (h : Nat) (k : Hart) : (s.setHart h k).nextFlip = s.nextFlip := rfl
@[simp] theorem State.setHart_hostReads (h : Nat) (k : Hart) : (s.setHart h k).hostReads = s.hostReads := rfl
@[simp] theorem State.setHart_steer (h : Nat) (k : Hart) : (s.setHart h k).steer = s.steer := rfl
@[simp] theorem State.setHart_remotes (h : Nat) (k : Hart) : (s.setHart h k).remotes = s.remotes := rfl
@[simp] theorem State.setHart_hostWrites (h : Nat) (k : Hart) : (s.setHart h k).hostWrites = s.hostWrites := rfl
@[simp] theorem State.setHart_msiDue (h : Nat) (k : Hart) : (s.setHart h k).msiDue = s.msiDue := rfl
@[simp] theorem State.setHart_ncWait (h : Nat) (k : Hart) : (s.setHart h k).ncWait = s.ncWait := rfl
@[simp] theorem State.setHart_steerSum (h : Nat) (k : Hart) : (s.setHart h k).steerSum = s.steerSum := rfl
@[simp] theorem State.setHart_nextTag (h : Nat) (k : Hart) : (s.setHart h k).nextTag = s.nextTag := rfl
@[simp] theorem State.setHart_tables (h : Nat) (k : Hart) : (s.setHart h k).tables = s.tables := rfl
@[simp] theorem State.setHart_nodesDown (h : Nat) (k : Hart) : (s.setHart h k).nodesDown = s.nodesDown := rfl
@[simp] theorem State.setHart_nodesUp (h : Nat) (k : Hart) : (s.setHart h k).nodesUp = s.nodesUp := rfl
@[simp] theorem State.setHart_cols (h : Nat) (k : Hart) : (s.setHart h k).cols = s.cols := rfl
@[simp] theorem State.setHart_earlyReady (h : Nat) (k : Hart) : (s.setHart h k).earlyReady = s.earlyReady := rfl
@[simp] theorem State.setHart_leaves (h : Nat) (k : Hart) : (s.setHart h k).leaves = s.leaves := rfl
@[simp] theorem State.setHart_root94 (h : Nat) (k : Hart) : (s.setHart h k).root94 = s.root94 := rfl
@[simp] theorem State.setHart_root95 (h : Nat) (k : Hart) : (s.setHart h k).root95 = s.root95 := rfl
@[simp] theorem State.setHart_fencedU (h : Nat) (k : Hart) : (s.setHart h k).fencedU = s.fencedU := rfl
@[simp] theorem State.setHart_mgmt (h : Nat) (k : Hart) : (s.setHart h k).mgmt = s.mgmt := rfl
@[simp] theorem State.setHart_stewards (h : Nat) (k : Hart) : (s.setHart h k).stewards = s.stewards := rfl
@[simp] theorem State.setHart_cutGen (h : Nat) (k : Hart) : (s.setHart h k).cutGen = s.cutGen := rfl
@[simp] theorem State.setHart_overUs (h : Nat) (k : Hart) : (s.setHart h k).overUs = s.overUs := rfl
@[simp] theorem State.setHart_lowUs (h : Nat) (k : Hart) : (s.setHart h k).lowUs = s.lowUs := rfl
@[simp] theorem State.setHart_calmUs (h : Nat) (k : Hart) : (s.setHart h k).calmUs = s.calmUs := rfl
@[simp] theorem State.setHart_partWork (h : Nat) (k : Hart) : (s.setHart h k).partWork = s.partWork := rfl
@[simp] theorem State.setHart_delta (h : Nat) (k : Hart) : (s.setHart h k).delta = s.delta := rfl
@[simp] theorem State.setHart_dieReset (h : Nat) (k : Hart) : (s.setHart h k).dieReset = s.dieReset := rfl
@[simp] theorem State.setHart_resetCmds (h : Nat) (k : Hart) : (s.setHart h k).resetCmds = s.resetCmds := rfl
@[simp] theorem State.setHart_rateFailed (h : Nat) (k : Hart) : (s.setHart h k).rateFailed = s.rateFailed := rfl
@[simp] theorem State.setHart_served (h : Nat) (k : Hart) : (s.setHart h k).served = s.served := rfl
@[simp] theorem State.setHart_sent (h : Nat) (k : Hart) : (s.setHart h k).sent = s.sent := rfl
@[simp] theorem State.setFn_pending (p : Nat) (k : Fn) : (s.setFn p k).pending = s.pending := rfl
@[simp] theorem State.setFn_fresh (p : Nat) (k : Fn) : (s.setFn p k).fresh = s.fresh := rfl
@[simp] theorem State.setFn_time (p : Nat) (k : Fn) : (s.setFn p k).time = s.time := rfl
@[simp] theorem State.setFn_phase (p : Nat) (k : Fn) : (s.setFn p k).phase = s.phase := rfl
@[simp] theorem State.setFn_pins (p : Nat) (k : Fn) : (s.setFn p k).pins = s.pins := rfl
@[simp] theorem State.setFn_csr (p : Nat) (k : Fn) : (s.setFn p k).csr = s.csr := rfl
@[simp] theorem State.setFn_locked (p : Nat) (k : Fn) : (s.setFn p k).locked = s.locked := rfl
@[simp] theorem State.setFn_flp (p : Nat) (k : Fn) : (s.setFn p k).flp = s.flp := rfl
@[simp] theorem State.setFn_hall (p : Nat) (k : Fn) : (s.setFn p k).hall = s.hall := rfl
@[simp] theorem State.setFn_hallAcc (p : Nat) (k : Fn) : (s.setFn p k).hallAcc = s.hallAcc := rfl
@[simp] theorem State.setFn_hallIn (p : Nat) (k : Fn) : (s.setFn p k).hallIn = s.hallIn := rfl
@[simp] theorem State.setFn_hallSeq (p : Nat) (k : Fn) : (s.setFn p k).hallSeq = s.hallSeq := rfl
@[simp] theorem State.setFn_hallOut (p : Nat) (k : Fn) : (s.setFn p k).hallOut = s.hallOut := rfl
@[simp] theorem State.setFn_cores (p : Nat) (k : Fn) : (s.setFn p k).cores = s.cores := rfl
@[simp] theorem State.setFn_launches (p : Nat) (k : Fn) : (s.setFn p k).launches = s.launches := rfl
@[simp] theorem State.setFn_nextLaunch (p : Nat) (k : Fn) : (s.setFn p k).nextLaunch = s.nextLaunch := rfl
@[simp] theorem State.setFn_pool (p : Nat) (k : Fn) : (s.setFn p k).pool = s.pool := rfl
@[simp] theorem State.setFn_poolBad (p : Nat) (k : Fn) : (s.setFn p k).poolBad = s.poolBad := rfl
@[simp] theorem State.setFn_channels (p : Nat) (k : Fn) : (s.setFn p k).channels = s.channels := rfl
@[simp] theorem State.setFn_lines (p : Nat) (k : Fn) : (s.setFn p k).lines = s.lines := rfl
@[simp] theorem State.setFn_msau (p : Nat) (k : Fn) : (s.setFn p k).msau = s.msau := rfl
@[simp] theorem State.setFn_refused (p : Nat) (k : Fn) : (s.setFn p k).refused = s.refused := rfl
@[simp] theorem State.setFn_l2s (p : Nat) (k : Fn) : (s.setFn p k).l2s = s.l2s := rfl
@[simp] theorem State.setFn_l1s (p : Nat) (k : Fn) : (s.setFn p k).l1s = s.l1s := rfl
@[simp] theorem State.setFn_bases (p : Nat) (k : Fn) : (s.setFn p k).bases = s.bases := rfl
@[simp] theorem State.setFn_hostDir (p : Nat) (k : Fn) : (s.setFn p k).hostDir = s.hostDir := rfl
@[simp] theorem State.setFn_hostTxns (p : Nat) (k : Fn) : (s.setFn p k).hostTxns = s.hostTxns := rfl
@[simp] theorem State.setFn_hostTxn (p : Nat) (k : Fn) : (s.setFn p k).hostTxn = s.hostTxn := rfl
@[simp] theorem State.setFn_slots (p : Nat) (k : Fn) : (s.setFn p k).slots = s.slots := rfl
@[simp] theorem State.setFn_xlDie (p : Nat) (k : Fn) : (s.setFn p k).xlDie = s.xlDie := rfl
@[simp] theorem State.setFn_xlWalk (p : Nat) (k : Fn) : (s.setFn p k).xlWalk = s.xlWalk := rfl
@[simp] theorem State.setFn_xlSeq (p : Nat) (k : Fn) : (s.setFn p k).xlSeq = s.xlSeq := rfl
@[simp] theorem State.setFn_harts (p : Nat) (k : Fn) : (s.setFn p k).harts = s.harts := rfl
@[simp] theorem State.setFn_links (p : Nat) (k : Fn) : (s.setFn p k).links = s.links := rfl
@[simp] theorem State.setFn_sqs (p : Nat) (k : Fn) : (s.setFn p k).sqs = s.sqs := rfl
@[simp] theorem State.setFn_cqs (p : Nat) (k : Fn) : (s.setFn p k).cqs = s.cqs := rfl
@[simp] theorem State.setFn_heldBells (p : Nat) (k : Fn) : (s.setFn p k).heldBells = s.heldBells := rfl
@[simp] theorem State.setFn_shared (p : Nat) (k : Fn) : (s.setFn p k).shared = s.shared := rfl
@[simp] theorem State.setFn_flips (p : Nat) (k : Fn) : (s.setFn p k).flips = s.flips := rfl
@[simp] theorem State.setFn_nextFlip (p : Nat) (k : Fn) : (s.setFn p k).nextFlip = s.nextFlip := rfl
@[simp] theorem State.setFn_hostReads (p : Nat) (k : Fn) : (s.setFn p k).hostReads = s.hostReads := rfl
@[simp] theorem State.setFn_steer (p : Nat) (k : Fn) : (s.setFn p k).steer = s.steer := rfl
@[simp] theorem State.setFn_remotes (p : Nat) (k : Fn) : (s.setFn p k).remotes = s.remotes := rfl
@[simp] theorem State.setFn_hostWrites (p : Nat) (k : Fn) : (s.setFn p k).hostWrites = s.hostWrites := rfl
@[simp] theorem State.setFn_msiDue (p : Nat) (k : Fn) : (s.setFn p k).msiDue = s.msiDue := rfl
@[simp] theorem State.setFn_ncWait (p : Nat) (k : Fn) : (s.setFn p k).ncWait = s.ncWait := rfl
@[simp] theorem State.setFn_steerSum (p : Nat) (k : Fn) : (s.setFn p k).steerSum = s.steerSum := rfl
@[simp] theorem State.setFn_nextTag (p : Nat) (k : Fn) : (s.setFn p k).nextTag = s.nextTag := rfl
@[simp] theorem State.setFn_tables (p : Nat) (k : Fn) : (s.setFn p k).tables = s.tables := rfl
@[simp] theorem State.setFn_nodesDown (p : Nat) (k : Fn) : (s.setFn p k).nodesDown = s.nodesDown := rfl
@[simp] theorem State.setFn_nodesUp (p : Nat) (k : Fn) : (s.setFn p k).nodesUp = s.nodesUp := rfl
@[simp] theorem State.setFn_cols (p : Nat) (k : Fn) : (s.setFn p k).cols = s.cols := rfl
@[simp] theorem State.setFn_earlyReady (p : Nat) (k : Fn) : (s.setFn p k).earlyReady = s.earlyReady := rfl
@[simp] theorem State.setFn_leaves (p : Nat) (k : Fn) : (s.setFn p k).leaves = s.leaves := rfl
@[simp] theorem State.setFn_root94 (p : Nat) (k : Fn) : (s.setFn p k).root94 = s.root94 := rfl
@[simp] theorem State.setFn_root95 (p : Nat) (k : Fn) : (s.setFn p k).root95 = s.root95 := rfl
@[simp] theorem State.setFn_fencedU (p : Nat) (k : Fn) : (s.setFn p k).fencedU = s.fencedU := rfl
@[simp] theorem State.setFn_mgmt (p : Nat) (k : Fn) : (s.setFn p k).mgmt = s.mgmt := rfl
@[simp] theorem State.setFn_stewards (p : Nat) (k : Fn) : (s.setFn p k).stewards = s.stewards := rfl
@[simp] theorem State.setFn_cutGen (p : Nat) (k : Fn) : (s.setFn p k).cutGen = s.cutGen := rfl
@[simp] theorem State.setFn_overUs (p : Nat) (k : Fn) : (s.setFn p k).overUs = s.overUs := rfl
@[simp] theorem State.setFn_lowUs (p : Nat) (k : Fn) : (s.setFn p k).lowUs = s.lowUs := rfl
@[simp] theorem State.setFn_calmUs (p : Nat) (k : Fn) : (s.setFn p k).calmUs = s.calmUs := rfl
@[simp] theorem State.setFn_partWork (p : Nat) (k : Fn) : (s.setFn p k).partWork = s.partWork := rfl
@[simp] theorem State.setFn_delta (p : Nat) (k : Fn) : (s.setFn p k).delta = s.delta := rfl
@[simp] theorem State.setFn_dieReset (p : Nat) (k : Fn) : (s.setFn p k).dieReset = s.dieReset := rfl
@[simp] theorem State.setFn_resetCmds (p : Nat) (k : Fn) : (s.setFn p k).resetCmds = s.resetCmds := rfl
@[simp] theorem State.setFn_rateFailed (p : Nat) (k : Fn) : (s.setFn p k).rateFailed = s.rateFailed := rfl
@[simp] theorem State.setFn_served (p : Nat) (k : Fn) : (s.setFn p k).served = s.served := rfl
@[simp] theorem State.setFn_sent (p : Nat) (k : Fn) : (s.setFn p k).sent = s.sent := rfl
@[simp] theorem State.setSq_pending (p q : Nat) (k : Option Sq) : (s.setSq p q k).pending = s.pending := rfl
@[simp] theorem State.setSq_fresh (p q : Nat) (k : Option Sq) : (s.setSq p q k).fresh = s.fresh := rfl
@[simp] theorem State.setSq_time (p q : Nat) (k : Option Sq) : (s.setSq p q k).time = s.time := rfl
@[simp] theorem State.setSq_phase (p q : Nat) (k : Option Sq) : (s.setSq p q k).phase = s.phase := rfl
@[simp] theorem State.setSq_pins (p q : Nat) (k : Option Sq) : (s.setSq p q k).pins = s.pins := rfl
@[simp] theorem State.setSq_csr (p q : Nat) (k : Option Sq) : (s.setSq p q k).csr = s.csr := rfl
@[simp] theorem State.setSq_locked (p q : Nat) (k : Option Sq) : (s.setSq p q k).locked = s.locked := rfl
@[simp] theorem State.setSq_flp (p q : Nat) (k : Option Sq) : (s.setSq p q k).flp = s.flp := rfl
@[simp] theorem State.setSq_hall (p q : Nat) (k : Option Sq) : (s.setSq p q k).hall = s.hall := rfl
@[simp] theorem State.setSq_hallAcc (p q : Nat) (k : Option Sq) : (s.setSq p q k).hallAcc = s.hallAcc := rfl
@[simp] theorem State.setSq_hallIn (p q : Nat) (k : Option Sq) : (s.setSq p q k).hallIn = s.hallIn := rfl
@[simp] theorem State.setSq_hallSeq (p q : Nat) (k : Option Sq) : (s.setSq p q k).hallSeq = s.hallSeq := rfl
@[simp] theorem State.setSq_hallOut (p q : Nat) (k : Option Sq) : (s.setSq p q k).hallOut = s.hallOut := rfl
@[simp] theorem State.setSq_cores (p q : Nat) (k : Option Sq) : (s.setSq p q k).cores = s.cores := rfl
@[simp] theorem State.setSq_launches (p q : Nat) (k : Option Sq) : (s.setSq p q k).launches = s.launches := rfl
@[simp] theorem State.setSq_nextLaunch (p q : Nat) (k : Option Sq) : (s.setSq p q k).nextLaunch = s.nextLaunch := rfl
@[simp] theorem State.setSq_pool (p q : Nat) (k : Option Sq) : (s.setSq p q k).pool = s.pool := rfl
@[simp] theorem State.setSq_poolBad (p q : Nat) (k : Option Sq) : (s.setSq p q k).poolBad = s.poolBad := rfl
@[simp] theorem State.setSq_channels (p q : Nat) (k : Option Sq) : (s.setSq p q k).channels = s.channels := rfl
@[simp] theorem State.setSq_lines (p q : Nat) (k : Option Sq) : (s.setSq p q k).lines = s.lines := rfl
@[simp] theorem State.setSq_msau (p q : Nat) (k : Option Sq) : (s.setSq p q k).msau = s.msau := rfl
@[simp] theorem State.setSq_refused (p q : Nat) (k : Option Sq) : (s.setSq p q k).refused = s.refused := rfl
@[simp] theorem State.setSq_l2s (p q : Nat) (k : Option Sq) : (s.setSq p q k).l2s = s.l2s := rfl
@[simp] theorem State.setSq_l1s (p q : Nat) (k : Option Sq) : (s.setSq p q k).l1s = s.l1s := rfl
@[simp] theorem State.setSq_bases (p q : Nat) (k : Option Sq) : (s.setSq p q k).bases = s.bases := rfl
@[simp] theorem State.setSq_hostDir (p q : Nat) (k : Option Sq) : (s.setSq p q k).hostDir = s.hostDir := rfl
@[simp] theorem State.setSq_hostTxns (p q : Nat) (k : Option Sq) : (s.setSq p q k).hostTxns = s.hostTxns := rfl
@[simp] theorem State.setSq_hostTxn (p q : Nat) (k : Option Sq) : (s.setSq p q k).hostTxn = s.hostTxn := rfl
@[simp] theorem State.setSq_slots (p q : Nat) (k : Option Sq) : (s.setSq p q k).slots = s.slots := rfl
@[simp] theorem State.setSq_xlDie (p q : Nat) (k : Option Sq) : (s.setSq p q k).xlDie = s.xlDie := rfl
@[simp] theorem State.setSq_xlWalk (p q : Nat) (k : Option Sq) : (s.setSq p q k).xlWalk = s.xlWalk := rfl
@[simp] theorem State.setSq_xlSeq (p q : Nat) (k : Option Sq) : (s.setSq p q k).xlSeq = s.xlSeq := rfl
@[simp] theorem State.setSq_harts (p q : Nat) (k : Option Sq) : (s.setSq p q k).harts = s.harts := rfl
@[simp] theorem State.setSq_links (p q : Nat) (k : Option Sq) : (s.setSq p q k).links = s.links := rfl
@[simp] theorem State.setSq_fns (p q : Nat) (k : Option Sq) : (s.setSq p q k).fns = s.fns := rfl
@[simp] theorem State.setSq_cqs (p q : Nat) (k : Option Sq) : (s.setSq p q k).cqs = s.cqs := rfl
@[simp] theorem State.setSq_heldBells (p q : Nat) (k : Option Sq) : (s.setSq p q k).heldBells = s.heldBells := rfl
@[simp] theorem State.setSq_shared (p q : Nat) (k : Option Sq) : (s.setSq p q k).shared = s.shared := rfl
@[simp] theorem State.setSq_flips (p q : Nat) (k : Option Sq) : (s.setSq p q k).flips = s.flips := rfl
@[simp] theorem State.setSq_nextFlip (p q : Nat) (k : Option Sq) : (s.setSq p q k).nextFlip = s.nextFlip := rfl
@[simp] theorem State.setSq_hostReads (p q : Nat) (k : Option Sq) : (s.setSq p q k).hostReads = s.hostReads := rfl
@[simp] theorem State.setSq_steer (p q : Nat) (k : Option Sq) : (s.setSq p q k).steer = s.steer := rfl
@[simp] theorem State.setSq_remotes (p q : Nat) (k : Option Sq) : (s.setSq p q k).remotes = s.remotes := rfl
@[simp] theorem State.setSq_hostWrites (p q : Nat) (k : Option Sq) : (s.setSq p q k).hostWrites = s.hostWrites := rfl
@[simp] theorem State.setSq_msiDue (p q : Nat) (k : Option Sq) : (s.setSq p q k).msiDue = s.msiDue := rfl
@[simp] theorem State.setSq_ncWait (p q : Nat) (k : Option Sq) : (s.setSq p q k).ncWait = s.ncWait := rfl
@[simp] theorem State.setSq_steerSum (p q : Nat) (k : Option Sq) : (s.setSq p q k).steerSum = s.steerSum := rfl
@[simp] theorem State.setSq_nextTag (p q : Nat) (k : Option Sq) : (s.setSq p q k).nextTag = s.nextTag := rfl
@[simp] theorem State.setSq_tables (p q : Nat) (k : Option Sq) : (s.setSq p q k).tables = s.tables := rfl
@[simp] theorem State.setSq_nodesDown (p q : Nat) (k : Option Sq) : (s.setSq p q k).nodesDown = s.nodesDown := rfl
@[simp] theorem State.setSq_nodesUp (p q : Nat) (k : Option Sq) : (s.setSq p q k).nodesUp = s.nodesUp := rfl
@[simp] theorem State.setSq_cols (p q : Nat) (k : Option Sq) : (s.setSq p q k).cols = s.cols := rfl
@[simp] theorem State.setSq_earlyReady (p q : Nat) (k : Option Sq) : (s.setSq p q k).earlyReady = s.earlyReady := rfl
@[simp] theorem State.setSq_leaves (p q : Nat) (k : Option Sq) : (s.setSq p q k).leaves = s.leaves := rfl
@[simp] theorem State.setSq_root94 (p q : Nat) (k : Option Sq) : (s.setSq p q k).root94 = s.root94 := rfl
@[simp] theorem State.setSq_root95 (p q : Nat) (k : Option Sq) : (s.setSq p q k).root95 = s.root95 := rfl
@[simp] theorem State.setSq_fencedU (p q : Nat) (k : Option Sq) : (s.setSq p q k).fencedU = s.fencedU := rfl
@[simp] theorem State.setSq_mgmt (p q : Nat) (k : Option Sq) : (s.setSq p q k).mgmt = s.mgmt := rfl
@[simp] theorem State.setSq_stewards (p q : Nat) (k : Option Sq) : (s.setSq p q k).stewards = s.stewards := rfl
@[simp] theorem State.setSq_cutGen (p q : Nat) (k : Option Sq) : (s.setSq p q k).cutGen = s.cutGen := rfl
@[simp] theorem State.setSq_overUs (p q : Nat) (k : Option Sq) : (s.setSq p q k).overUs = s.overUs := rfl
@[simp] theorem State.setSq_lowUs (p q : Nat) (k : Option Sq) : (s.setSq p q k).lowUs = s.lowUs := rfl
@[simp] theorem State.setSq_calmUs (p q : Nat) (k : Option Sq) : (s.setSq p q k).calmUs = s.calmUs := rfl
@[simp] theorem State.setSq_partWork (p q : Nat) (k : Option Sq) : (s.setSq p q k).partWork = s.partWork := rfl
@[simp] theorem State.setSq_delta (p q : Nat) (k : Option Sq) : (s.setSq p q k).delta = s.delta := rfl
@[simp] theorem State.setSq_dieReset (p q : Nat) (k : Option Sq) : (s.setSq p q k).dieReset = s.dieReset := rfl
@[simp] theorem State.setSq_resetCmds (p q : Nat) (k : Option Sq) : (s.setSq p q k).resetCmds = s.resetCmds := rfl
@[simp] theorem State.setSq_rateFailed (p q : Nat) (k : Option Sq) : (s.setSq p q k).rateFailed = s.rateFailed := rfl
@[simp] theorem State.setSq_served (p q : Nat) (k : Option Sq) : (s.setSq p q k).served = s.served := rfl
@[simp] theorem State.setSq_sent (p q : Nat) (k : Option Sq) : (s.setSq p q k).sent = s.sent := rfl
@[simp] theorem State.setCq_pending (p q : Nat) (k : Option Cq) : (s.setCq p q k).pending = s.pending := rfl
@[simp] theorem State.setCq_fresh (p q : Nat) (k : Option Cq) : (s.setCq p q k).fresh = s.fresh := rfl
@[simp] theorem State.setCq_time (p q : Nat) (k : Option Cq) : (s.setCq p q k).time = s.time := rfl
@[simp] theorem State.setCq_phase (p q : Nat) (k : Option Cq) : (s.setCq p q k).phase = s.phase := rfl
@[simp] theorem State.setCq_pins (p q : Nat) (k : Option Cq) : (s.setCq p q k).pins = s.pins := rfl
@[simp] theorem State.setCq_csr (p q : Nat) (k : Option Cq) : (s.setCq p q k).csr = s.csr := rfl
@[simp] theorem State.setCq_locked (p q : Nat) (k : Option Cq) : (s.setCq p q k).locked = s.locked := rfl
@[simp] theorem State.setCq_flp (p q : Nat) (k : Option Cq) : (s.setCq p q k).flp = s.flp := rfl
@[simp] theorem State.setCq_hall (p q : Nat) (k : Option Cq) : (s.setCq p q k).hall = s.hall := rfl
@[simp] theorem State.setCq_hallAcc (p q : Nat) (k : Option Cq) : (s.setCq p q k).hallAcc = s.hallAcc := rfl
@[simp] theorem State.setCq_hallIn (p q : Nat) (k : Option Cq) : (s.setCq p q k).hallIn = s.hallIn := rfl
@[simp] theorem State.setCq_hallSeq (p q : Nat) (k : Option Cq) : (s.setCq p q k).hallSeq = s.hallSeq := rfl
@[simp] theorem State.setCq_hallOut (p q : Nat) (k : Option Cq) : (s.setCq p q k).hallOut = s.hallOut := rfl
@[simp] theorem State.setCq_cores (p q : Nat) (k : Option Cq) : (s.setCq p q k).cores = s.cores := rfl
@[simp] theorem State.setCq_launches (p q : Nat) (k : Option Cq) : (s.setCq p q k).launches = s.launches := rfl
@[simp] theorem State.setCq_nextLaunch (p q : Nat) (k : Option Cq) : (s.setCq p q k).nextLaunch = s.nextLaunch := rfl
@[simp] theorem State.setCq_pool (p q : Nat) (k : Option Cq) : (s.setCq p q k).pool = s.pool := rfl
@[simp] theorem State.setCq_poolBad (p q : Nat) (k : Option Cq) : (s.setCq p q k).poolBad = s.poolBad := rfl
@[simp] theorem State.setCq_channels (p q : Nat) (k : Option Cq) : (s.setCq p q k).channels = s.channels := rfl
@[simp] theorem State.setCq_lines (p q : Nat) (k : Option Cq) : (s.setCq p q k).lines = s.lines := rfl
@[simp] theorem State.setCq_msau (p q : Nat) (k : Option Cq) : (s.setCq p q k).msau = s.msau := rfl
@[simp] theorem State.setCq_refused (p q : Nat) (k : Option Cq) : (s.setCq p q k).refused = s.refused := rfl
@[simp] theorem State.setCq_l2s (p q : Nat) (k : Option Cq) : (s.setCq p q k).l2s = s.l2s := rfl
@[simp] theorem State.setCq_l1s (p q : Nat) (k : Option Cq) : (s.setCq p q k).l1s = s.l1s := rfl
@[simp] theorem State.setCq_bases (p q : Nat) (k : Option Cq) : (s.setCq p q k).bases = s.bases := rfl
@[simp] theorem State.setCq_hostDir (p q : Nat) (k : Option Cq) : (s.setCq p q k).hostDir = s.hostDir := rfl
@[simp] theorem State.setCq_hostTxns (p q : Nat) (k : Option Cq) : (s.setCq p q k).hostTxns = s.hostTxns := rfl
@[simp] theorem State.setCq_hostTxn (p q : Nat) (k : Option Cq) : (s.setCq p q k).hostTxn = s.hostTxn := rfl
@[simp] theorem State.setCq_slots (p q : Nat) (k : Option Cq) : (s.setCq p q k).slots = s.slots := rfl
@[simp] theorem State.setCq_xlDie (p q : Nat) (k : Option Cq) : (s.setCq p q k).xlDie = s.xlDie := rfl
@[simp] theorem State.setCq_xlWalk (p q : Nat) (k : Option Cq) : (s.setCq p q k).xlWalk = s.xlWalk := rfl
@[simp] theorem State.setCq_xlSeq (p q : Nat) (k : Option Cq) : (s.setCq p q k).xlSeq = s.xlSeq := rfl
@[simp] theorem State.setCq_harts (p q : Nat) (k : Option Cq) : (s.setCq p q k).harts = s.harts := rfl
@[simp] theorem State.setCq_links (p q : Nat) (k : Option Cq) : (s.setCq p q k).links = s.links := rfl
@[simp] theorem State.setCq_fns (p q : Nat) (k : Option Cq) : (s.setCq p q k).fns = s.fns := rfl
@[simp] theorem State.setCq_sqs (p q : Nat) (k : Option Cq) : (s.setCq p q k).sqs = s.sqs := rfl
@[simp] theorem State.setCq_heldBells (p q : Nat) (k : Option Cq) : (s.setCq p q k).heldBells = s.heldBells := rfl
@[simp] theorem State.setCq_shared (p q : Nat) (k : Option Cq) : (s.setCq p q k).shared = s.shared := rfl
@[simp] theorem State.setCq_flips (p q : Nat) (k : Option Cq) : (s.setCq p q k).flips = s.flips := rfl
@[simp] theorem State.setCq_nextFlip (p q : Nat) (k : Option Cq) : (s.setCq p q k).nextFlip = s.nextFlip := rfl
@[simp] theorem State.setCq_hostReads (p q : Nat) (k : Option Cq) : (s.setCq p q k).hostReads = s.hostReads := rfl
@[simp] theorem State.setCq_steer (p q : Nat) (k : Option Cq) : (s.setCq p q k).steer = s.steer := rfl
@[simp] theorem State.setCq_remotes (p q : Nat) (k : Option Cq) : (s.setCq p q k).remotes = s.remotes := rfl
@[simp] theorem State.setCq_hostWrites (p q : Nat) (k : Option Cq) : (s.setCq p q k).hostWrites = s.hostWrites := rfl
@[simp] theorem State.setCq_msiDue (p q : Nat) (k : Option Cq) : (s.setCq p q k).msiDue = s.msiDue := rfl
@[simp] theorem State.setCq_ncWait (p q : Nat) (k : Option Cq) : (s.setCq p q k).ncWait = s.ncWait := rfl
@[simp] theorem State.setCq_steerSum (p q : Nat) (k : Option Cq) : (s.setCq p q k).steerSum = s.steerSum := rfl
@[simp] theorem State.setCq_nextTag (p q : Nat) (k : Option Cq) : (s.setCq p q k).nextTag = s.nextTag := rfl
@[simp] theorem State.setCq_tables (p q : Nat) (k : Option Cq) : (s.setCq p q k).tables = s.tables := rfl
@[simp] theorem State.setCq_nodesDown (p q : Nat) (k : Option Cq) : (s.setCq p q k).nodesDown = s.nodesDown := rfl
@[simp] theorem State.setCq_nodesUp (p q : Nat) (k : Option Cq) : (s.setCq p q k).nodesUp = s.nodesUp := rfl
@[simp] theorem State.setCq_cols (p q : Nat) (k : Option Cq) : (s.setCq p q k).cols = s.cols := rfl
@[simp] theorem State.setCq_earlyReady (p q : Nat) (k : Option Cq) : (s.setCq p q k).earlyReady = s.earlyReady := rfl
@[simp] theorem State.setCq_leaves (p q : Nat) (k : Option Cq) : (s.setCq p q k).leaves = s.leaves := rfl
@[simp] theorem State.setCq_root94 (p q : Nat) (k : Option Cq) : (s.setCq p q k).root94 = s.root94 := rfl
@[simp] theorem State.setCq_root95 (p q : Nat) (k : Option Cq) : (s.setCq p q k).root95 = s.root95 := rfl
@[simp] theorem State.setCq_fencedU (p q : Nat) (k : Option Cq) : (s.setCq p q k).fencedU = s.fencedU := rfl
@[simp] theorem State.setCq_mgmt (p q : Nat) (k : Option Cq) : (s.setCq p q k).mgmt = s.mgmt := rfl
@[simp] theorem State.setCq_stewards (p q : Nat) (k : Option Cq) : (s.setCq p q k).stewards = s.stewards := rfl
@[simp] theorem State.setCq_cutGen (p q : Nat) (k : Option Cq) : (s.setCq p q k).cutGen = s.cutGen := rfl
@[simp] theorem State.setCq_overUs (p q : Nat) (k : Option Cq) : (s.setCq p q k).overUs = s.overUs := rfl
@[simp] theorem State.setCq_lowUs (p q : Nat) (k : Option Cq) : (s.setCq p q k).lowUs = s.lowUs := rfl
@[simp] theorem State.setCq_calmUs (p q : Nat) (k : Option Cq) : (s.setCq p q k).calmUs = s.calmUs := rfl
@[simp] theorem State.setCq_partWork (p q : Nat) (k : Option Cq) : (s.setCq p q k).partWork = s.partWork := rfl
@[simp] theorem State.setCq_delta (p q : Nat) (k : Option Cq) : (s.setCq p q k).delta = s.delta := rfl
@[simp] theorem State.setCq_dieReset (p q : Nat) (k : Option Cq) : (s.setCq p q k).dieReset = s.dieReset := rfl
@[simp] theorem State.setCq_resetCmds (p q : Nat) (k : Option Cq) : (s.setCq p q k).resetCmds = s.resetCmds := rfl
@[simp] theorem State.setCq_rateFailed (p q : Nat) (k : Option Cq) : (s.setCq p q k).rateFailed = s.rateFailed := rfl
@[simp] theorem State.setCq_served (p q : Nat) (k : Option Cq) : (s.setCq p q k).served = s.served := rfl
@[simp] theorem State.setCq_sent (p q : Nat) (k : Option Cq) : (s.setCq p q k).sent = s.sent := rfl
@[simp] theorem State.setCol_pending (j : Nat) (k : Option Collective) : (s.setCol j k).pending = s.pending := rfl
@[simp] theorem State.setCol_fresh (j : Nat) (k : Option Collective) : (s.setCol j k).fresh = s.fresh := rfl
@[simp] theorem State.setCol_time (j : Nat) (k : Option Collective) : (s.setCol j k).time = s.time := rfl
@[simp] theorem State.setCol_phase (j : Nat) (k : Option Collective) : (s.setCol j k).phase = s.phase := rfl
@[simp] theorem State.setCol_pins (j : Nat) (k : Option Collective) : (s.setCol j k).pins = s.pins := rfl
@[simp] theorem State.setCol_csr (j : Nat) (k : Option Collective) : (s.setCol j k).csr = s.csr := rfl
@[simp] theorem State.setCol_locked (j : Nat) (k : Option Collective) : (s.setCol j k).locked = s.locked := rfl
@[simp] theorem State.setCol_flp (j : Nat) (k : Option Collective) : (s.setCol j k).flp = s.flp := rfl
@[simp] theorem State.setCol_hall (j : Nat) (k : Option Collective) : (s.setCol j k).hall = s.hall := rfl
@[simp] theorem State.setCol_hallAcc (j : Nat) (k : Option Collective) : (s.setCol j k).hallAcc = s.hallAcc := rfl
@[simp] theorem State.setCol_hallIn (j : Nat) (k : Option Collective) : (s.setCol j k).hallIn = s.hallIn := rfl
@[simp] theorem State.setCol_hallSeq (j : Nat) (k : Option Collective) : (s.setCol j k).hallSeq = s.hallSeq := rfl
@[simp] theorem State.setCol_hallOut (j : Nat) (k : Option Collective) : (s.setCol j k).hallOut = s.hallOut := rfl
@[simp] theorem State.setCol_cores (j : Nat) (k : Option Collective) : (s.setCol j k).cores = s.cores := rfl
@[simp] theorem State.setCol_launches (j : Nat) (k : Option Collective) : (s.setCol j k).launches = s.launches := rfl
@[simp] theorem State.setCol_nextLaunch (j : Nat) (k : Option Collective) : (s.setCol j k).nextLaunch = s.nextLaunch := rfl
@[simp] theorem State.setCol_pool (j : Nat) (k : Option Collective) : (s.setCol j k).pool = s.pool := rfl
@[simp] theorem State.setCol_poolBad (j : Nat) (k : Option Collective) : (s.setCol j k).poolBad = s.poolBad := rfl
@[simp] theorem State.setCol_channels (j : Nat) (k : Option Collective) : (s.setCol j k).channels = s.channels := rfl
@[simp] theorem State.setCol_lines (j : Nat) (k : Option Collective) : (s.setCol j k).lines = s.lines := rfl
@[simp] theorem State.setCol_msau (j : Nat) (k : Option Collective) : (s.setCol j k).msau = s.msau := rfl
@[simp] theorem State.setCol_refused (j : Nat) (k : Option Collective) : (s.setCol j k).refused = s.refused := rfl
@[simp] theorem State.setCol_l2s (j : Nat) (k : Option Collective) : (s.setCol j k).l2s = s.l2s := rfl
@[simp] theorem State.setCol_l1s (j : Nat) (k : Option Collective) : (s.setCol j k).l1s = s.l1s := rfl
@[simp] theorem State.setCol_bases (j : Nat) (k : Option Collective) : (s.setCol j k).bases = s.bases := rfl
@[simp] theorem State.setCol_hostDir (j : Nat) (k : Option Collective) : (s.setCol j k).hostDir = s.hostDir := rfl
@[simp] theorem State.setCol_hostTxns (j : Nat) (k : Option Collective) : (s.setCol j k).hostTxns = s.hostTxns := rfl
@[simp] theorem State.setCol_hostTxn (j : Nat) (k : Option Collective) : (s.setCol j k).hostTxn = s.hostTxn := rfl
@[simp] theorem State.setCol_slots (j : Nat) (k : Option Collective) : (s.setCol j k).slots = s.slots := rfl
@[simp] theorem State.setCol_xlDie (j : Nat) (k : Option Collective) : (s.setCol j k).xlDie = s.xlDie := rfl
@[simp] theorem State.setCol_xlWalk (j : Nat) (k : Option Collective) : (s.setCol j k).xlWalk = s.xlWalk := rfl
@[simp] theorem State.setCol_xlSeq (j : Nat) (k : Option Collective) : (s.setCol j k).xlSeq = s.xlSeq := rfl
@[simp] theorem State.setCol_harts (j : Nat) (k : Option Collective) : (s.setCol j k).harts = s.harts := rfl
@[simp] theorem State.setCol_links (j : Nat) (k : Option Collective) : (s.setCol j k).links = s.links := rfl
@[simp] theorem State.setCol_fns (j : Nat) (k : Option Collective) : (s.setCol j k).fns = s.fns := rfl
@[simp] theorem State.setCol_sqs (j : Nat) (k : Option Collective) : (s.setCol j k).sqs = s.sqs := rfl
@[simp] theorem State.setCol_cqs (j : Nat) (k : Option Collective) : (s.setCol j k).cqs = s.cqs := rfl
@[simp] theorem State.setCol_heldBells (j : Nat) (k : Option Collective) : (s.setCol j k).heldBells = s.heldBells := rfl
@[simp] theorem State.setCol_shared (j : Nat) (k : Option Collective) : (s.setCol j k).shared = s.shared := rfl
@[simp] theorem State.setCol_flips (j : Nat) (k : Option Collective) : (s.setCol j k).flips = s.flips := rfl
@[simp] theorem State.setCol_nextFlip (j : Nat) (k : Option Collective) : (s.setCol j k).nextFlip = s.nextFlip := rfl
@[simp] theorem State.setCol_hostReads (j : Nat) (k : Option Collective) : (s.setCol j k).hostReads = s.hostReads := rfl
@[simp] theorem State.setCol_steer (j : Nat) (k : Option Collective) : (s.setCol j k).steer = s.steer := rfl
@[simp] theorem State.setCol_remotes (j : Nat) (k : Option Collective) : (s.setCol j k).remotes = s.remotes := rfl
@[simp] theorem State.setCol_hostWrites (j : Nat) (k : Option Collective) : (s.setCol j k).hostWrites = s.hostWrites := rfl
@[simp] theorem State.setCol_msiDue (j : Nat) (k : Option Collective) : (s.setCol j k).msiDue = s.msiDue := rfl
@[simp] theorem State.setCol_ncWait (j : Nat) (k : Option Collective) : (s.setCol j k).ncWait = s.ncWait := rfl
@[simp] theorem State.setCol_steerSum (j : Nat) (k : Option Collective) : (s.setCol j k).steerSum = s.steerSum := rfl
@[simp] theorem State.setCol_nextTag (j : Nat) (k : Option Collective) : (s.setCol j k).nextTag = s.nextTag := rfl
@[simp] theorem State.setCol_tables (j : Nat) (k : Option Collective) : (s.setCol j k).tables = s.tables := rfl
@[simp] theorem State.setCol_nodesDown (j : Nat) (k : Option Collective) : (s.setCol j k).nodesDown = s.nodesDown := rfl
@[simp] theorem State.setCol_nodesUp (j : Nat) (k : Option Collective) : (s.setCol j k).nodesUp = s.nodesUp := rfl
@[simp] theorem State.setCol_earlyReady (j : Nat) (k : Option Collective) : (s.setCol j k).earlyReady = s.earlyReady := rfl
@[simp] theorem State.setCol_leaves (j : Nat) (k : Option Collective) : (s.setCol j k).leaves = s.leaves := rfl
@[simp] theorem State.setCol_root94 (j : Nat) (k : Option Collective) : (s.setCol j k).root94 = s.root94 := rfl
@[simp] theorem State.setCol_root95 (j : Nat) (k : Option Collective) : (s.setCol j k).root95 = s.root95 := rfl
@[simp] theorem State.setCol_fencedU (j : Nat) (k : Option Collective) : (s.setCol j k).fencedU = s.fencedU := rfl
@[simp] theorem State.setCol_mgmt (j : Nat) (k : Option Collective) : (s.setCol j k).mgmt = s.mgmt := rfl
@[simp] theorem State.setCol_stewards (j : Nat) (k : Option Collective) : (s.setCol j k).stewards = s.stewards := rfl
@[simp] theorem State.setCol_cutGen (j : Nat) (k : Option Collective) : (s.setCol j k).cutGen = s.cutGen := rfl
@[simp] theorem State.setCol_overUs (j : Nat) (k : Option Collective) : (s.setCol j k).overUs = s.overUs := rfl
@[simp] theorem State.setCol_lowUs (j : Nat) (k : Option Collective) : (s.setCol j k).lowUs = s.lowUs := rfl
@[simp] theorem State.setCol_calmUs (j : Nat) (k : Option Collective) : (s.setCol j k).calmUs = s.calmUs := rfl
@[simp] theorem State.setCol_partWork (j : Nat) (k : Option Collective) : (s.setCol j k).partWork = s.partWork := rfl
@[simp] theorem State.setCol_delta (j : Nat) (k : Option Collective) : (s.setCol j k).delta = s.delta := rfl
@[simp] theorem State.setCol_dieReset (j : Nat) (k : Option Collective) : (s.setCol j k).dieReset = s.dieReset := rfl
@[simp] theorem State.setCol_resetCmds (j : Nat) (k : Option Collective) : (s.setCol j k).resetCmds = s.resetCmds := rfl
@[simp] theorem State.setCol_rateFailed (j : Nat) (k : Option Collective) : (s.setCol j k).rateFailed = s.rateFailed := rfl
@[simp] theorem State.setCol_served (j : Nat) (k : Option Collective) : (s.setCol j k).served = s.served := rfl
@[simp] theorem State.setCol_sent (j : Nat) (k : Option Collective) : (s.setCol j k).sent = s.sent := rfl
@[simp] theorem State.setLeaf_pending (d : Nat) (k : Leaf) : (s.setLeaf d k).pending = s.pending := rfl
@[simp] theorem State.setLeaf_fresh (d : Nat) (k : Leaf) : (s.setLeaf d k).fresh = s.fresh := rfl
@[simp] theorem State.setLeaf_time (d : Nat) (k : Leaf) : (s.setLeaf d k).time = s.time := rfl
@[simp] theorem State.setLeaf_phase (d : Nat) (k : Leaf) : (s.setLeaf d k).phase = s.phase := rfl
@[simp] theorem State.setLeaf_pins (d : Nat) (k : Leaf) : (s.setLeaf d k).pins = s.pins := rfl
@[simp] theorem State.setLeaf_csr (d : Nat) (k : Leaf) : (s.setLeaf d k).csr = s.csr := rfl
@[simp] theorem State.setLeaf_locked (d : Nat) (k : Leaf) : (s.setLeaf d k).locked = s.locked := rfl
@[simp] theorem State.setLeaf_flp (d : Nat) (k : Leaf) : (s.setLeaf d k).flp = s.flp := rfl
@[simp] theorem State.setLeaf_hall (d : Nat) (k : Leaf) : (s.setLeaf d k).hall = s.hall := rfl
@[simp] theorem State.setLeaf_hallAcc (d : Nat) (k : Leaf) : (s.setLeaf d k).hallAcc = s.hallAcc := rfl
@[simp] theorem State.setLeaf_hallIn (d : Nat) (k : Leaf) : (s.setLeaf d k).hallIn = s.hallIn := rfl
@[simp] theorem State.setLeaf_hallSeq (d : Nat) (k : Leaf) : (s.setLeaf d k).hallSeq = s.hallSeq := rfl
@[simp] theorem State.setLeaf_hallOut (d : Nat) (k : Leaf) : (s.setLeaf d k).hallOut = s.hallOut := rfl
@[simp] theorem State.setLeaf_cores (d : Nat) (k : Leaf) : (s.setLeaf d k).cores = s.cores := rfl
@[simp] theorem State.setLeaf_launches (d : Nat) (k : Leaf) : (s.setLeaf d k).launches = s.launches := rfl
@[simp] theorem State.setLeaf_nextLaunch (d : Nat) (k : Leaf) : (s.setLeaf d k).nextLaunch = s.nextLaunch := rfl
@[simp] theorem State.setLeaf_pool (d : Nat) (k : Leaf) : (s.setLeaf d k).pool = s.pool := rfl
@[simp] theorem State.setLeaf_poolBad (d : Nat) (k : Leaf) : (s.setLeaf d k).poolBad = s.poolBad := rfl
@[simp] theorem State.setLeaf_channels (d : Nat) (k : Leaf) : (s.setLeaf d k).channels = s.channels := rfl
@[simp] theorem State.setLeaf_lines (d : Nat) (k : Leaf) : (s.setLeaf d k).lines = s.lines := rfl
@[simp] theorem State.setLeaf_msau (d : Nat) (k : Leaf) : (s.setLeaf d k).msau = s.msau := rfl
@[simp] theorem State.setLeaf_refused (d : Nat) (k : Leaf) : (s.setLeaf d k).refused = s.refused := rfl
@[simp] theorem State.setLeaf_l2s (d : Nat) (k : Leaf) : (s.setLeaf d k).l2s = s.l2s := rfl
@[simp] theorem State.setLeaf_l1s (d : Nat) (k : Leaf) : (s.setLeaf d k).l1s = s.l1s := rfl
@[simp] theorem State.setLeaf_bases (d : Nat) (k : Leaf) : (s.setLeaf d k).bases = s.bases := rfl
@[simp] theorem State.setLeaf_hostDir (d : Nat) (k : Leaf) : (s.setLeaf d k).hostDir = s.hostDir := rfl
@[simp] theorem State.setLeaf_hostTxns (d : Nat) (k : Leaf) : (s.setLeaf d k).hostTxns = s.hostTxns := rfl
@[simp] theorem State.setLeaf_hostTxn (d : Nat) (k : Leaf) : (s.setLeaf d k).hostTxn = s.hostTxn := rfl
@[simp] theorem State.setLeaf_slots (d : Nat) (k : Leaf) : (s.setLeaf d k).slots = s.slots := rfl
@[simp] theorem State.setLeaf_xlDie (d : Nat) (k : Leaf) : (s.setLeaf d k).xlDie = s.xlDie := rfl
@[simp] theorem State.setLeaf_xlWalk (d : Nat) (k : Leaf) : (s.setLeaf d k).xlWalk = s.xlWalk := rfl
@[simp] theorem State.setLeaf_xlSeq (d : Nat) (k : Leaf) : (s.setLeaf d k).xlSeq = s.xlSeq := rfl
@[simp] theorem State.setLeaf_harts (d : Nat) (k : Leaf) : (s.setLeaf d k).harts = s.harts := rfl
@[simp] theorem State.setLeaf_links (d : Nat) (k : Leaf) : (s.setLeaf d k).links = s.links := rfl
@[simp] theorem State.setLeaf_fns (d : Nat) (k : Leaf) : (s.setLeaf d k).fns = s.fns := rfl
@[simp] theorem State.setLeaf_sqs (d : Nat) (k : Leaf) : (s.setLeaf d k).sqs = s.sqs := rfl
@[simp] theorem State.setLeaf_cqs (d : Nat) (k : Leaf) : (s.setLeaf d k).cqs = s.cqs := rfl
@[simp] theorem State.setLeaf_heldBells (d : Nat) (k : Leaf) : (s.setLeaf d k).heldBells = s.heldBells := rfl
@[simp] theorem State.setLeaf_shared (d : Nat) (k : Leaf) : (s.setLeaf d k).shared = s.shared := rfl
@[simp] theorem State.setLeaf_flips (d : Nat) (k : Leaf) : (s.setLeaf d k).flips = s.flips := rfl
@[simp] theorem State.setLeaf_nextFlip (d : Nat) (k : Leaf) : (s.setLeaf d k).nextFlip = s.nextFlip := rfl
@[simp] theorem State.setLeaf_hostReads (d : Nat) (k : Leaf) : (s.setLeaf d k).hostReads = s.hostReads := rfl
@[simp] theorem State.setLeaf_steer (d : Nat) (k : Leaf) : (s.setLeaf d k).steer = s.steer := rfl
@[simp] theorem State.setLeaf_remotes (d : Nat) (k : Leaf) : (s.setLeaf d k).remotes = s.remotes := rfl
@[simp] theorem State.setLeaf_hostWrites (d : Nat) (k : Leaf) : (s.setLeaf d k).hostWrites = s.hostWrites := rfl
@[simp] theorem State.setLeaf_msiDue (d : Nat) (k : Leaf) : (s.setLeaf d k).msiDue = s.msiDue := rfl
@[simp] theorem State.setLeaf_ncWait (d : Nat) (k : Leaf) : (s.setLeaf d k).ncWait = s.ncWait := rfl
@[simp] theorem State.setLeaf_steerSum (d : Nat) (k : Leaf) : (s.setLeaf d k).steerSum = s.steerSum := rfl
@[simp] theorem State.setLeaf_nextTag (d : Nat) (k : Leaf) : (s.setLeaf d k).nextTag = s.nextTag := rfl
@[simp] theorem State.setLeaf_tables (d : Nat) (k : Leaf) : (s.setLeaf d k).tables = s.tables := rfl
@[simp] theorem State.setLeaf_nodesDown (d : Nat) (k : Leaf) : (s.setLeaf d k).nodesDown = s.nodesDown := rfl
@[simp] theorem State.setLeaf_nodesUp (d : Nat) (k : Leaf) : (s.setLeaf d k).nodesUp = s.nodesUp := rfl
@[simp] theorem State.setLeaf_cols (d : Nat) (k : Leaf) : (s.setLeaf d k).cols = s.cols := rfl
@[simp] theorem State.setLeaf_earlyReady (d : Nat) (k : Leaf) : (s.setLeaf d k).earlyReady = s.earlyReady := rfl
@[simp] theorem State.setLeaf_root94 (d : Nat) (k : Leaf) : (s.setLeaf d k).root94 = s.root94 := rfl
@[simp] theorem State.setLeaf_root95 (d : Nat) (k : Leaf) : (s.setLeaf d k).root95 = s.root95 := rfl
@[simp] theorem State.setLeaf_fencedU (d : Nat) (k : Leaf) : (s.setLeaf d k).fencedU = s.fencedU := rfl
@[simp] theorem State.setLeaf_mgmt (d : Nat) (k : Leaf) : (s.setLeaf d k).mgmt = s.mgmt := rfl
@[simp] theorem State.setLeaf_stewards (d : Nat) (k : Leaf) : (s.setLeaf d k).stewards = s.stewards := rfl
@[simp] theorem State.setLeaf_cutGen (d : Nat) (k : Leaf) : (s.setLeaf d k).cutGen = s.cutGen := rfl
@[simp] theorem State.setLeaf_overUs (d : Nat) (k : Leaf) : (s.setLeaf d k).overUs = s.overUs := rfl
@[simp] theorem State.setLeaf_lowUs (d : Nat) (k : Leaf) : (s.setLeaf d k).lowUs = s.lowUs := rfl
@[simp] theorem State.setLeaf_calmUs (d : Nat) (k : Leaf) : (s.setLeaf d k).calmUs = s.calmUs := rfl
@[simp] theorem State.setLeaf_partWork (d : Nat) (k : Leaf) : (s.setLeaf d k).partWork = s.partWork := rfl
@[simp] theorem State.setLeaf_delta (d : Nat) (k : Leaf) : (s.setLeaf d k).delta = s.delta := rfl
@[simp] theorem State.setLeaf_dieReset (d : Nat) (k : Leaf) : (s.setLeaf d k).dieReset = s.dieReset := rfl
@[simp] theorem State.setLeaf_resetCmds (d : Nat) (k : Leaf) : (s.setLeaf d k).resetCmds = s.resetCmds := rfl
@[simp] theorem State.setLeaf_rateFailed (d : Nat) (k : Leaf) : (s.setLeaf d k).rateFailed = s.rateFailed := rfl
@[simp] theorem State.setLeaf_served (d : Nat) (k : Leaf) : (s.setLeaf d k).served = s.served := rfl
@[simp] theorem State.setLeaf_sent (d : Nat) (k : Leaf) : (s.setLeaf d k).sent = s.sent := rfl
@[simp] theorem State.setSteward_pending (d : Nat) (k : Steward) : (s.setSteward d k).pending = s.pending := rfl
@[simp] theorem State.setSteward_fresh (d : Nat) (k : Steward) : (s.setSteward d k).fresh = s.fresh := rfl
@[simp] theorem State.setSteward_time (d : Nat) (k : Steward) : (s.setSteward d k).time = s.time := rfl
@[simp] theorem State.setSteward_phase (d : Nat) (k : Steward) : (s.setSteward d k).phase = s.phase := rfl
@[simp] theorem State.setSteward_pins (d : Nat) (k : Steward) : (s.setSteward d k).pins = s.pins := rfl
@[simp] theorem State.setSteward_csr (d : Nat) (k : Steward) : (s.setSteward d k).csr = s.csr := rfl
@[simp] theorem State.setSteward_locked (d : Nat) (k : Steward) : (s.setSteward d k).locked = s.locked := rfl
@[simp] theorem State.setSteward_flp (d : Nat) (k : Steward) : (s.setSteward d k).flp = s.flp := rfl
@[simp] theorem State.setSteward_hall (d : Nat) (k : Steward) : (s.setSteward d k).hall = s.hall := rfl
@[simp] theorem State.setSteward_hallAcc (d : Nat) (k : Steward) : (s.setSteward d k).hallAcc = s.hallAcc := rfl
@[simp] theorem State.setSteward_hallIn (d : Nat) (k : Steward) : (s.setSteward d k).hallIn = s.hallIn := rfl
@[simp] theorem State.setSteward_hallSeq (d : Nat) (k : Steward) : (s.setSteward d k).hallSeq = s.hallSeq := rfl
@[simp] theorem State.setSteward_hallOut (d : Nat) (k : Steward) : (s.setSteward d k).hallOut = s.hallOut := rfl
@[simp] theorem State.setSteward_cores (d : Nat) (k : Steward) : (s.setSteward d k).cores = s.cores := rfl
@[simp] theorem State.setSteward_launches (d : Nat) (k : Steward) : (s.setSteward d k).launches = s.launches := rfl
@[simp] theorem State.setSteward_nextLaunch (d : Nat) (k : Steward) : (s.setSteward d k).nextLaunch = s.nextLaunch := rfl
@[simp] theorem State.setSteward_pool (d : Nat) (k : Steward) : (s.setSteward d k).pool = s.pool := rfl
@[simp] theorem State.setSteward_poolBad (d : Nat) (k : Steward) : (s.setSteward d k).poolBad = s.poolBad := rfl
@[simp] theorem State.setSteward_channels (d : Nat) (k : Steward) : (s.setSteward d k).channels = s.channels := rfl
@[simp] theorem State.setSteward_lines (d : Nat) (k : Steward) : (s.setSteward d k).lines = s.lines := rfl
@[simp] theorem State.setSteward_msau (d : Nat) (k : Steward) : (s.setSteward d k).msau = s.msau := rfl
@[simp] theorem State.setSteward_refused (d : Nat) (k : Steward) : (s.setSteward d k).refused = s.refused := rfl
@[simp] theorem State.setSteward_l2s (d : Nat) (k : Steward) : (s.setSteward d k).l2s = s.l2s := rfl
@[simp] theorem State.setSteward_l1s (d : Nat) (k : Steward) : (s.setSteward d k).l1s = s.l1s := rfl
@[simp] theorem State.setSteward_bases (d : Nat) (k : Steward) : (s.setSteward d k).bases = s.bases := rfl
@[simp] theorem State.setSteward_hostDir (d : Nat) (k : Steward) : (s.setSteward d k).hostDir = s.hostDir := rfl
@[simp] theorem State.setSteward_hostTxns (d : Nat) (k : Steward) : (s.setSteward d k).hostTxns = s.hostTxns := rfl
@[simp] theorem State.setSteward_hostTxn (d : Nat) (k : Steward) : (s.setSteward d k).hostTxn = s.hostTxn := rfl
@[simp] theorem State.setSteward_slots (d : Nat) (k : Steward) : (s.setSteward d k).slots = s.slots := rfl
@[simp] theorem State.setSteward_xlDie (d : Nat) (k : Steward) : (s.setSteward d k).xlDie = s.xlDie := rfl
@[simp] theorem State.setSteward_xlWalk (d : Nat) (k : Steward) : (s.setSteward d k).xlWalk = s.xlWalk := rfl
@[simp] theorem State.setSteward_xlSeq (d : Nat) (k : Steward) : (s.setSteward d k).xlSeq = s.xlSeq := rfl
@[simp] theorem State.setSteward_harts (d : Nat) (k : Steward) : (s.setSteward d k).harts = s.harts := rfl
@[simp] theorem State.setSteward_links (d : Nat) (k : Steward) : (s.setSteward d k).links = s.links := rfl
@[simp] theorem State.setSteward_fns (d : Nat) (k : Steward) : (s.setSteward d k).fns = s.fns := rfl
@[simp] theorem State.setSteward_sqs (d : Nat) (k : Steward) : (s.setSteward d k).sqs = s.sqs := rfl
@[simp] theorem State.setSteward_cqs (d : Nat) (k : Steward) : (s.setSteward d k).cqs = s.cqs := rfl
@[simp] theorem State.setSteward_heldBells (d : Nat) (k : Steward) : (s.setSteward d k).heldBells = s.heldBells := rfl
@[simp] theorem State.setSteward_shared (d : Nat) (k : Steward) : (s.setSteward d k).shared = s.shared := rfl
@[simp] theorem State.setSteward_flips (d : Nat) (k : Steward) : (s.setSteward d k).flips = s.flips := rfl
@[simp] theorem State.setSteward_nextFlip (d : Nat) (k : Steward) : (s.setSteward d k).nextFlip = s.nextFlip := rfl
@[simp] theorem State.setSteward_hostReads (d : Nat) (k : Steward) : (s.setSteward d k).hostReads = s.hostReads := rfl
@[simp] theorem State.setSteward_steer (d : Nat) (k : Steward) : (s.setSteward d k).steer = s.steer := rfl
@[simp] theorem State.setSteward_remotes (d : Nat) (k : Steward) : (s.setSteward d k).remotes = s.remotes := rfl
@[simp] theorem State.setSteward_hostWrites (d : Nat) (k : Steward) : (s.setSteward d k).hostWrites = s.hostWrites := rfl
@[simp] theorem State.setSteward_msiDue (d : Nat) (k : Steward) : (s.setSteward d k).msiDue = s.msiDue := rfl
@[simp] theorem State.setSteward_ncWait (d : Nat) (k : Steward) : (s.setSteward d k).ncWait = s.ncWait := rfl
@[simp] theorem State.setSteward_steerSum (d : Nat) (k : Steward) : (s.setSteward d k).steerSum = s.steerSum := rfl
@[simp] theorem State.setSteward_nextTag (d : Nat) (k : Steward) : (s.setSteward d k).nextTag = s.nextTag := rfl
@[simp] theorem State.setSteward_tables (d : Nat) (k : Steward) : (s.setSteward d k).tables = s.tables := rfl
@[simp] theorem State.setSteward_nodesDown (d : Nat) (k : Steward) : (s.setSteward d k).nodesDown = s.nodesDown := rfl
@[simp] theorem State.setSteward_nodesUp (d : Nat) (k : Steward) : (s.setSteward d k).nodesUp = s.nodesUp := rfl
@[simp] theorem State.setSteward_cols (d : Nat) (k : Steward) : (s.setSteward d k).cols = s.cols := rfl
@[simp] theorem State.setSteward_earlyReady (d : Nat) (k : Steward) : (s.setSteward d k).earlyReady = s.earlyReady := rfl
@[simp] theorem State.setSteward_leaves (d : Nat) (k : Steward) : (s.setSteward d k).leaves = s.leaves := rfl
@[simp] theorem State.setSteward_root94 (d : Nat) (k : Steward) : (s.setSteward d k).root94 = s.root94 := rfl
@[simp] theorem State.setSteward_root95 (d : Nat) (k : Steward) : (s.setSteward d k).root95 = s.root95 := rfl
@[simp] theorem State.setSteward_fencedU (d : Nat) (k : Steward) : (s.setSteward d k).fencedU = s.fencedU := rfl
@[simp] theorem State.setSteward_mgmt (d : Nat) (k : Steward) : (s.setSteward d k).mgmt = s.mgmt := rfl
@[simp] theorem State.setSteward_cutGen (d : Nat) (k : Steward) : (s.setSteward d k).cutGen = s.cutGen := rfl
@[simp] theorem State.setSteward_overUs (d : Nat) (k : Steward) : (s.setSteward d k).overUs = s.overUs := rfl
@[simp] theorem State.setSteward_lowUs (d : Nat) (k : Steward) : (s.setSteward d k).lowUs = s.lowUs := rfl
@[simp] theorem State.setSteward_calmUs (d : Nat) (k : Steward) : (s.setSteward d k).calmUs = s.calmUs := rfl
@[simp] theorem State.setSteward_partWork (d : Nat) (k : Steward) : (s.setSteward d k).partWork = s.partWork := rfl
@[simp] theorem State.setSteward_delta (d : Nat) (k : Steward) : (s.setSteward d k).delta = s.delta := rfl
@[simp] theorem State.setSteward_dieReset (d : Nat) (k : Steward) : (s.setSteward d k).dieReset = s.dieReset := rfl
@[simp] theorem State.setSteward_resetCmds (d : Nat) (k : Steward) : (s.setSteward d k).resetCmds = s.resetCmds := rfl
@[simp] theorem State.setSteward_rateFailed (d : Nat) (k : Steward) : (s.setSteward d k).rateFailed = s.rateFailed := rfl
@[simp] theorem State.setSteward_served (d : Nat) (k : Steward) : (s.setSteward d k).served = s.served := rfl
@[simp] theorem State.setSteward_sent (d : Nat) (k : Steward) : (s.setSteward d k).sent = s.sent := rfl
@[simp] theorem State.setLink_pending (l : LinkId) (k : LinkState) : (s.setLink l k).pending = s.pending := rfl
@[simp] theorem State.setLink_fresh (l : LinkId) (k : LinkState) : (s.setLink l k).fresh = s.fresh := rfl
@[simp] theorem State.setLink_time (l : LinkId) (k : LinkState) : (s.setLink l k).time = s.time := rfl
@[simp] theorem State.setLink_phase (l : LinkId) (k : LinkState) : (s.setLink l k).phase = s.phase := rfl
@[simp] theorem State.setLink_pins (l : LinkId) (k : LinkState) : (s.setLink l k).pins = s.pins := rfl
@[simp] theorem State.setLink_csr (l : LinkId) (k : LinkState) : (s.setLink l k).csr = s.csr := rfl
@[simp] theorem State.setLink_locked (l : LinkId) (k : LinkState) : (s.setLink l k).locked = s.locked := rfl
@[simp] theorem State.setLink_flp (l : LinkId) (k : LinkState) : (s.setLink l k).flp = s.flp := rfl
@[simp] theorem State.setLink_hall (l : LinkId) (k : LinkState) : (s.setLink l k).hall = s.hall := rfl
@[simp] theorem State.setLink_hallAcc (l : LinkId) (k : LinkState) : (s.setLink l k).hallAcc = s.hallAcc := rfl
@[simp] theorem State.setLink_hallIn (l : LinkId) (k : LinkState) : (s.setLink l k).hallIn = s.hallIn := rfl
@[simp] theorem State.setLink_hallSeq (l : LinkId) (k : LinkState) : (s.setLink l k).hallSeq = s.hallSeq := rfl
@[simp] theorem State.setLink_hallOut (l : LinkId) (k : LinkState) : (s.setLink l k).hallOut = s.hallOut := rfl
@[simp] theorem State.setLink_cores (l : LinkId) (k : LinkState) : (s.setLink l k).cores = s.cores := rfl
@[simp] theorem State.setLink_launches (l : LinkId) (k : LinkState) : (s.setLink l k).launches = s.launches := rfl
@[simp] theorem State.setLink_nextLaunch (l : LinkId) (k : LinkState) : (s.setLink l k).nextLaunch = s.nextLaunch := rfl
@[simp] theorem State.setLink_pool (l : LinkId) (k : LinkState) : (s.setLink l k).pool = s.pool := rfl
@[simp] theorem State.setLink_poolBad (l : LinkId) (k : LinkState) : (s.setLink l k).poolBad = s.poolBad := rfl
@[simp] theorem State.setLink_channels (l : LinkId) (k : LinkState) : (s.setLink l k).channels = s.channels := rfl
@[simp] theorem State.setLink_lines (l : LinkId) (k : LinkState) : (s.setLink l k).lines = s.lines := rfl
@[simp] theorem State.setLink_msau (l : LinkId) (k : LinkState) : (s.setLink l k).msau = s.msau := rfl
@[simp] theorem State.setLink_refused (l : LinkId) (k : LinkState) : (s.setLink l k).refused = s.refused := rfl
@[simp] theorem State.setLink_l2s (l : LinkId) (k : LinkState) : (s.setLink l k).l2s = s.l2s := rfl
@[simp] theorem State.setLink_l1s (l : LinkId) (k : LinkState) : (s.setLink l k).l1s = s.l1s := rfl
@[simp] theorem State.setLink_bases (l : LinkId) (k : LinkState) : (s.setLink l k).bases = s.bases := rfl
@[simp] theorem State.setLink_hostDir (l : LinkId) (k : LinkState) : (s.setLink l k).hostDir = s.hostDir := rfl
@[simp] theorem State.setLink_hostTxns (l : LinkId) (k : LinkState) : (s.setLink l k).hostTxns = s.hostTxns := rfl
@[simp] theorem State.setLink_hostTxn (l : LinkId) (k : LinkState) : (s.setLink l k).hostTxn = s.hostTxn := rfl
@[simp] theorem State.setLink_slots (l : LinkId) (k : LinkState) : (s.setLink l k).slots = s.slots := rfl
@[simp] theorem State.setLink_xlDie (l : LinkId) (k : LinkState) : (s.setLink l k).xlDie = s.xlDie := rfl
@[simp] theorem State.setLink_xlWalk (l : LinkId) (k : LinkState) : (s.setLink l k).xlWalk = s.xlWalk := rfl
@[simp] theorem State.setLink_xlSeq (l : LinkId) (k : LinkState) : (s.setLink l k).xlSeq = s.xlSeq := rfl
@[simp] theorem State.setLink_harts (l : LinkId) (k : LinkState) : (s.setLink l k).harts = s.harts := rfl
@[simp] theorem State.setLink_fns (l : LinkId) (k : LinkState) : (s.setLink l k).fns = s.fns := rfl
@[simp] theorem State.setLink_sqs (l : LinkId) (k : LinkState) : (s.setLink l k).sqs = s.sqs := rfl
@[simp] theorem State.setLink_cqs (l : LinkId) (k : LinkState) : (s.setLink l k).cqs = s.cqs := rfl
@[simp] theorem State.setLink_heldBells (l : LinkId) (k : LinkState) : (s.setLink l k).heldBells = s.heldBells := rfl
@[simp] theorem State.setLink_shared (l : LinkId) (k : LinkState) : (s.setLink l k).shared = s.shared := rfl
@[simp] theorem State.setLink_flips (l : LinkId) (k : LinkState) : (s.setLink l k).flips = s.flips := rfl
@[simp] theorem State.setLink_nextFlip (l : LinkId) (k : LinkState) : (s.setLink l k).nextFlip = s.nextFlip := rfl
@[simp] theorem State.setLink_hostReads (l : LinkId) (k : LinkState) : (s.setLink l k).hostReads = s.hostReads := rfl
@[simp] theorem State.setLink_steer (l : LinkId) (k : LinkState) : (s.setLink l k).steer = s.steer := rfl
@[simp] theorem State.setLink_remotes (l : LinkId) (k : LinkState) : (s.setLink l k).remotes = s.remotes := rfl
@[simp] theorem State.setLink_hostWrites (l : LinkId) (k : LinkState) : (s.setLink l k).hostWrites = s.hostWrites := rfl
@[simp] theorem State.setLink_msiDue (l : LinkId) (k : LinkState) : (s.setLink l k).msiDue = s.msiDue := rfl
@[simp] theorem State.setLink_ncWait (l : LinkId) (k : LinkState) : (s.setLink l k).ncWait = s.ncWait := rfl
@[simp] theorem State.setLink_steerSum (l : LinkId) (k : LinkState) : (s.setLink l k).steerSum = s.steerSum := rfl
@[simp] theorem State.setLink_nextTag (l : LinkId) (k : LinkState) : (s.setLink l k).nextTag = s.nextTag := rfl
@[simp] theorem State.setLink_tables (l : LinkId) (k : LinkState) : (s.setLink l k).tables = s.tables := rfl
@[simp] theorem State.setLink_nodesDown (l : LinkId) (k : LinkState) : (s.setLink l k).nodesDown = s.nodesDown := rfl
@[simp] theorem State.setLink_nodesUp (l : LinkId) (k : LinkState) : (s.setLink l k).nodesUp = s.nodesUp := rfl
@[simp] theorem State.setLink_cols (l : LinkId) (k : LinkState) : (s.setLink l k).cols = s.cols := rfl
@[simp] theorem State.setLink_earlyReady (l : LinkId) (k : LinkState) : (s.setLink l k).earlyReady = s.earlyReady := rfl
@[simp] theorem State.setLink_leaves (l : LinkId) (k : LinkState) : (s.setLink l k).leaves = s.leaves := rfl
@[simp] theorem State.setLink_root94 (l : LinkId) (k : LinkState) : (s.setLink l k).root94 = s.root94 := rfl
@[simp] theorem State.setLink_root95 (l : LinkId) (k : LinkState) : (s.setLink l k).root95 = s.root95 := rfl
@[simp] theorem State.setLink_fencedU (l : LinkId) (k : LinkState) : (s.setLink l k).fencedU = s.fencedU := rfl
@[simp] theorem State.setLink_mgmt (l : LinkId) (k : LinkState) : (s.setLink l k).mgmt = s.mgmt := rfl
@[simp] theorem State.setLink_stewards (l : LinkId) (k : LinkState) : (s.setLink l k).stewards = s.stewards := rfl
@[simp] theorem State.setLink_cutGen (l : LinkId) (k : LinkState) : (s.setLink l k).cutGen = s.cutGen := rfl
@[simp] theorem State.setLink_overUs (l : LinkId) (k : LinkState) : (s.setLink l k).overUs = s.overUs := rfl
@[simp] theorem State.setLink_lowUs (l : LinkId) (k : LinkState) : (s.setLink l k).lowUs = s.lowUs := rfl
@[simp] theorem State.setLink_calmUs (l : LinkId) (k : LinkState) : (s.setLink l k).calmUs = s.calmUs := rfl
@[simp] theorem State.setLink_partWork (l : LinkId) (k : LinkState) : (s.setLink l k).partWork = s.partWork := rfl
@[simp] theorem State.setLink_delta (l : LinkId) (k : LinkState) : (s.setLink l k).delta = s.delta := rfl
@[simp] theorem State.setLink_dieReset (l : LinkId) (k : LinkState) : (s.setLink l k).dieReset = s.dieReset := rfl
@[simp] theorem State.setLink_resetCmds (l : LinkId) (k : LinkState) : (s.setLink l k).resetCmds = s.resetCmds := rfl
@[simp] theorem State.setLink_rateFailed (l : LinkId) (k : LinkState) : (s.setLink l k).rateFailed = s.rateFailed := rfl
@[simp] theorem State.setLink_served (l : LinkId) (k : LinkState) : (s.setLink l k).served = s.served := rfl
@[simp] theorem State.setLink_sent (l : LinkId) (k : LinkState) : (s.setLink l k).sent = s.sent := rfl
@[simp] theorem State.modMgmt_pending (f : Mgmt → Mgmt) : (s.modMgmt f).pending = s.pending := rfl
@[simp] theorem State.modMgmt_fresh (f : Mgmt → Mgmt) : (s.modMgmt f).fresh = s.fresh := rfl
@[simp] theorem State.modMgmt_time (f : Mgmt → Mgmt) : (s.modMgmt f).time = s.time := rfl
@[simp] theorem State.modMgmt_phase (f : Mgmt → Mgmt) : (s.modMgmt f).phase = s.phase := rfl
@[simp] theorem State.modMgmt_pins (f : Mgmt → Mgmt) : (s.modMgmt f).pins = s.pins := rfl
@[simp] theorem State.modMgmt_csr (f : Mgmt → Mgmt) : (s.modMgmt f).csr = s.csr := rfl
@[simp] theorem State.modMgmt_locked (f : Mgmt → Mgmt) : (s.modMgmt f).locked = s.locked := rfl
@[simp] theorem State.modMgmt_flp (f : Mgmt → Mgmt) : (s.modMgmt f).flp = s.flp := rfl
@[simp] theorem State.modMgmt_hall (f : Mgmt → Mgmt) : (s.modMgmt f).hall = s.hall := rfl
@[simp] theorem State.modMgmt_hallAcc (f : Mgmt → Mgmt) : (s.modMgmt f).hallAcc = s.hallAcc := rfl
@[simp] theorem State.modMgmt_hallIn (f : Mgmt → Mgmt) : (s.modMgmt f).hallIn = s.hallIn := rfl
@[simp] theorem State.modMgmt_hallSeq (f : Mgmt → Mgmt) : (s.modMgmt f).hallSeq = s.hallSeq := rfl
@[simp] theorem State.modMgmt_hallOut (f : Mgmt → Mgmt) : (s.modMgmt f).hallOut = s.hallOut := rfl
@[simp] theorem State.modMgmt_cores (f : Mgmt → Mgmt) : (s.modMgmt f).cores = s.cores := rfl
@[simp] theorem State.modMgmt_launches (f : Mgmt → Mgmt) : (s.modMgmt f).launches = s.launches := rfl
@[simp] theorem State.modMgmt_nextLaunch (f : Mgmt → Mgmt) : (s.modMgmt f).nextLaunch = s.nextLaunch := rfl
@[simp] theorem State.modMgmt_pool (f : Mgmt → Mgmt) : (s.modMgmt f).pool = s.pool := rfl
@[simp] theorem State.modMgmt_poolBad (f : Mgmt → Mgmt) : (s.modMgmt f).poolBad = s.poolBad := rfl
@[simp] theorem State.modMgmt_channels (f : Mgmt → Mgmt) : (s.modMgmt f).channels = s.channels := rfl
@[simp] theorem State.modMgmt_lines (f : Mgmt → Mgmt) : (s.modMgmt f).lines = s.lines := rfl
@[simp] theorem State.modMgmt_msau (f : Mgmt → Mgmt) : (s.modMgmt f).msau = s.msau := rfl
@[simp] theorem State.modMgmt_refused (f : Mgmt → Mgmt) : (s.modMgmt f).refused = s.refused := rfl
@[simp] theorem State.modMgmt_l2s (f : Mgmt → Mgmt) : (s.modMgmt f).l2s = s.l2s := rfl
@[simp] theorem State.modMgmt_l1s (f : Mgmt → Mgmt) : (s.modMgmt f).l1s = s.l1s := rfl
@[simp] theorem State.modMgmt_bases (f : Mgmt → Mgmt) : (s.modMgmt f).bases = s.bases := rfl
@[simp] theorem State.modMgmt_hostDir (f : Mgmt → Mgmt) : (s.modMgmt f).hostDir = s.hostDir := rfl
@[simp] theorem State.modMgmt_hostTxns (f : Mgmt → Mgmt) : (s.modMgmt f).hostTxns = s.hostTxns := rfl
@[simp] theorem State.modMgmt_hostTxn (f : Mgmt → Mgmt) : (s.modMgmt f).hostTxn = s.hostTxn := rfl
@[simp] theorem State.modMgmt_slots (f : Mgmt → Mgmt) : (s.modMgmt f).slots = s.slots := rfl
@[simp] theorem State.modMgmt_xlDie (f : Mgmt → Mgmt) : (s.modMgmt f).xlDie = s.xlDie := rfl
@[simp] theorem State.modMgmt_xlWalk (f : Mgmt → Mgmt) : (s.modMgmt f).xlWalk = s.xlWalk := rfl
@[simp] theorem State.modMgmt_xlSeq (f : Mgmt → Mgmt) : (s.modMgmt f).xlSeq = s.xlSeq := rfl
@[simp] theorem State.modMgmt_harts (f : Mgmt → Mgmt) : (s.modMgmt f).harts = s.harts := rfl
@[simp] theorem State.modMgmt_links (f : Mgmt → Mgmt) : (s.modMgmt f).links = s.links := rfl
@[simp] theorem State.modMgmt_fns (f : Mgmt → Mgmt) : (s.modMgmt f).fns = s.fns := rfl
@[simp] theorem State.modMgmt_sqs (f : Mgmt → Mgmt) : (s.modMgmt f).sqs = s.sqs := rfl
@[simp] theorem State.modMgmt_cqs (f : Mgmt → Mgmt) : (s.modMgmt f).cqs = s.cqs := rfl
@[simp] theorem State.modMgmt_heldBells (f : Mgmt → Mgmt) : (s.modMgmt f).heldBells = s.heldBells := rfl
@[simp] theorem State.modMgmt_shared (f : Mgmt → Mgmt) : (s.modMgmt f).shared = s.shared := rfl
@[simp] theorem State.modMgmt_flips (f : Mgmt → Mgmt) : (s.modMgmt f).flips = s.flips := rfl
@[simp] theorem State.modMgmt_nextFlip (f : Mgmt → Mgmt) : (s.modMgmt f).nextFlip = s.nextFlip := rfl
@[simp] theorem State.modMgmt_hostReads (f : Mgmt → Mgmt) : (s.modMgmt f).hostReads = s.hostReads := rfl
@[simp] theorem State.modMgmt_steer (f : Mgmt → Mgmt) : (s.modMgmt f).steer = s.steer := rfl
@[simp] theorem State.modMgmt_remotes (f : Mgmt → Mgmt) : (s.modMgmt f).remotes = s.remotes := rfl
@[simp] theorem State.modMgmt_hostWrites (f : Mgmt → Mgmt) : (s.modMgmt f).hostWrites = s.hostWrites := rfl
@[simp] theorem State.modMgmt_msiDue (f : Mgmt → Mgmt) : (s.modMgmt f).msiDue = s.msiDue := rfl
@[simp] theorem State.modMgmt_ncWait (f : Mgmt → Mgmt) : (s.modMgmt f).ncWait = s.ncWait := rfl
@[simp] theorem State.modMgmt_steerSum (f : Mgmt → Mgmt) : (s.modMgmt f).steerSum = s.steerSum := rfl
@[simp] theorem State.modMgmt_nextTag (f : Mgmt → Mgmt) : (s.modMgmt f).nextTag = s.nextTag := rfl
@[simp] theorem State.modMgmt_tables (f : Mgmt → Mgmt) : (s.modMgmt f).tables = s.tables := rfl
@[simp] theorem State.modMgmt_nodesDown (f : Mgmt → Mgmt) : (s.modMgmt f).nodesDown = s.nodesDown := rfl
@[simp] theorem State.modMgmt_nodesUp (f : Mgmt → Mgmt) : (s.modMgmt f).nodesUp = s.nodesUp := rfl
@[simp] theorem State.modMgmt_cols (f : Mgmt → Mgmt) : (s.modMgmt f).cols = s.cols := rfl
@[simp] theorem State.modMgmt_earlyReady (f : Mgmt → Mgmt) : (s.modMgmt f).earlyReady = s.earlyReady := rfl
@[simp] theorem State.modMgmt_leaves (f : Mgmt → Mgmt) : (s.modMgmt f).leaves = s.leaves := rfl
@[simp] theorem State.modMgmt_root94 (f : Mgmt → Mgmt) : (s.modMgmt f).root94 = s.root94 := rfl
@[simp] theorem State.modMgmt_root95 (f : Mgmt → Mgmt) : (s.modMgmt f).root95 = s.root95 := rfl
@[simp] theorem State.modMgmt_fencedU (f : Mgmt → Mgmt) : (s.modMgmt f).fencedU = s.fencedU := rfl
@[simp] theorem State.modMgmt_stewards (f : Mgmt → Mgmt) : (s.modMgmt f).stewards = s.stewards := rfl
@[simp] theorem State.modMgmt_cutGen (f : Mgmt → Mgmt) : (s.modMgmt f).cutGen = s.cutGen := rfl
@[simp] theorem State.modMgmt_overUs (f : Mgmt → Mgmt) : (s.modMgmt f).overUs = s.overUs := rfl
@[simp] theorem State.modMgmt_lowUs (f : Mgmt → Mgmt) : (s.modMgmt f).lowUs = s.lowUs := rfl
@[simp] theorem State.modMgmt_calmUs (f : Mgmt → Mgmt) : (s.modMgmt f).calmUs = s.calmUs := rfl
@[simp] theorem State.modMgmt_partWork (f : Mgmt → Mgmt) : (s.modMgmt f).partWork = s.partWork := rfl
@[simp] theorem State.modMgmt_delta (f : Mgmt → Mgmt) : (s.modMgmt f).delta = s.delta := rfl
@[simp] theorem State.modMgmt_dieReset (f : Mgmt → Mgmt) : (s.modMgmt f).dieReset = s.dieReset := rfl
@[simp] theorem State.modMgmt_resetCmds (f : Mgmt → Mgmt) : (s.modMgmt f).resetCmds = s.resetCmds := rfl
@[simp] theorem State.modMgmt_rateFailed (f : Mgmt → Mgmt) : (s.modMgmt f).rateFailed = s.rateFailed := rfl
@[simp] theorem State.modMgmt_served (f : Mgmt → Mgmt) : (s.modMgmt f).served = s.served := rfl
@[simp] theorem State.modMgmt_sent (f : Mgmt → Mgmt) : (s.modMgmt f).sent = s.sent := rfl
@[simp] theorem State.bump_pending : (s.bump).pending = s.pending := rfl
@[simp] theorem State.bump_time : (s.bump).time = s.time := rfl
@[simp] theorem State.bump_phase : (s.bump).phase = s.phase := rfl
@[simp] theorem State.bump_pins : (s.bump).pins = s.pins := rfl
@[simp] theorem State.bump_csr : (s.bump).csr = s.csr := rfl
@[simp] theorem State.bump_locked : (s.bump).locked = s.locked := rfl
@[simp] theorem State.bump_flp : (s.bump).flp = s.flp := rfl
@[simp] theorem State.bump_hall : (s.bump).hall = s.hall := rfl
@[simp] theorem State.bump_hallAcc : (s.bump).hallAcc = s.hallAcc := rfl
@[simp] theorem State.bump_hallIn : (s.bump).hallIn = s.hallIn := rfl
@[simp] theorem State.bump_hallSeq : (s.bump).hallSeq = s.hallSeq := rfl
@[simp] theorem State.bump_hallOut : (s.bump).hallOut = s.hallOut := rfl
@[simp] theorem State.bump_cores : (s.bump).cores = s.cores := rfl
@[simp] theorem State.bump_launches : (s.bump).launches = s.launches := rfl
@[simp] theorem State.bump_nextLaunch : (s.bump).nextLaunch = s.nextLaunch := rfl
@[simp] theorem State.bump_pool : (s.bump).pool = s.pool := rfl
@[simp] theorem State.bump_poolBad : (s.bump).poolBad = s.poolBad := rfl
@[simp] theorem State.bump_channels : (s.bump).channels = s.channels := rfl
@[simp] theorem State.bump_lines : (s.bump).lines = s.lines := rfl
@[simp] theorem State.bump_msau : (s.bump).msau = s.msau := rfl
@[simp] theorem State.bump_refused : (s.bump).refused = s.refused := rfl
@[simp] theorem State.bump_l2s : (s.bump).l2s = s.l2s := rfl
@[simp] theorem State.bump_l1s : (s.bump).l1s = s.l1s := rfl
@[simp] theorem State.bump_bases : (s.bump).bases = s.bases := rfl
@[simp] theorem State.bump_hostDir : (s.bump).hostDir = s.hostDir := rfl
@[simp] theorem State.bump_hostTxns : (s.bump).hostTxns = s.hostTxns := rfl
@[simp] theorem State.bump_hostTxn : (s.bump).hostTxn = s.hostTxn := rfl
@[simp] theorem State.bump_slots : (s.bump).slots = s.slots := rfl
@[simp] theorem State.bump_xlDie : (s.bump).xlDie = s.xlDie := rfl
@[simp] theorem State.bump_xlWalk : (s.bump).xlWalk = s.xlWalk := rfl
@[simp] theorem State.bump_xlSeq : (s.bump).xlSeq = s.xlSeq := rfl
@[simp] theorem State.bump_harts : (s.bump).harts = s.harts := rfl
@[simp] theorem State.bump_links : (s.bump).links = s.links := rfl
@[simp] theorem State.bump_fns : (s.bump).fns = s.fns := rfl
@[simp] theorem State.bump_sqs : (s.bump).sqs = s.sqs := rfl
@[simp] theorem State.bump_cqs : (s.bump).cqs = s.cqs := rfl
@[simp] theorem State.bump_heldBells : (s.bump).heldBells = s.heldBells := rfl
@[simp] theorem State.bump_shared : (s.bump).shared = s.shared := rfl
@[simp] theorem State.bump_flips : (s.bump).flips = s.flips := rfl
@[simp] theorem State.bump_nextFlip : (s.bump).nextFlip = s.nextFlip := rfl
@[simp] theorem State.bump_hostReads : (s.bump).hostReads = s.hostReads := rfl
@[simp] theorem State.bump_steer : (s.bump).steer = s.steer := rfl
@[simp] theorem State.bump_remotes : (s.bump).remotes = s.remotes := rfl
@[simp] theorem State.bump_hostWrites : (s.bump).hostWrites = s.hostWrites := rfl
@[simp] theorem State.bump_msiDue : (s.bump).msiDue = s.msiDue := rfl
@[simp] theorem State.bump_ncWait : (s.bump).ncWait = s.ncWait := rfl
@[simp] theorem State.bump_steerSum : (s.bump).steerSum = s.steerSum := rfl
@[simp] theorem State.bump_nextTag : (s.bump).nextTag = s.nextTag := rfl
@[simp] theorem State.bump_tables : (s.bump).tables = s.tables := rfl
@[simp] theorem State.bump_nodesDown : (s.bump).nodesDown = s.nodesDown := rfl
@[simp] theorem State.bump_nodesUp : (s.bump).nodesUp = s.nodesUp := rfl
@[simp] theorem State.bump_cols : (s.bump).cols = s.cols := rfl
@[simp] theorem State.bump_earlyReady : (s.bump).earlyReady = s.earlyReady := rfl
@[simp] theorem State.bump_leaves : (s.bump).leaves = s.leaves := rfl
@[simp] theorem State.bump_root94 : (s.bump).root94 = s.root94 := rfl
@[simp] theorem State.bump_root95 : (s.bump).root95 = s.root95 := rfl
@[simp] theorem State.bump_fencedU : (s.bump).fencedU = s.fencedU := rfl
@[simp] theorem State.bump_mgmt : (s.bump).mgmt = s.mgmt := rfl
@[simp] theorem State.bump_stewards : (s.bump).stewards = s.stewards := rfl
@[simp] theorem State.bump_cutGen : (s.bump).cutGen = s.cutGen := rfl
@[simp] theorem State.bump_overUs : (s.bump).overUs = s.overUs := rfl
@[simp] theorem State.bump_lowUs : (s.bump).lowUs = s.lowUs := rfl
@[simp] theorem State.bump_calmUs : (s.bump).calmUs = s.calmUs := rfl
@[simp] theorem State.bump_partWork : (s.bump).partWork = s.partWork := rfl
@[simp] theorem State.bump_delta : (s.bump).delta = s.delta := rfl
@[simp] theorem State.bump_dieReset : (s.bump).dieReset = s.dieReset := rfl
@[simp] theorem State.bump_resetCmds : (s.bump).resetCmds = s.resetCmds := rfl
@[simp] theorem State.bump_rateFailed : (s.bump).rateFailed = s.rateFailed := rfl
@[simp] theorem State.bump_served : (s.bump).served = s.served := rfl
@[simp] theorem State.bump_sent : (s.bump).sent = s.sent := rfl
@[simp] theorem State.out_pending (m : Msg) : (s.out m).pending = s.pending := rfl
@[simp] theorem State.out_fresh (m : Msg) : (s.out m).fresh = s.fresh := rfl
@[simp] theorem State.out_time (m : Msg) : (s.out m).time = s.time := rfl
@[simp] theorem State.out_phase (m : Msg) : (s.out m).phase = s.phase := rfl
@[simp] theorem State.out_pins (m : Msg) : (s.out m).pins = s.pins := rfl
@[simp] theorem State.out_csr (m : Msg) : (s.out m).csr = s.csr := rfl
@[simp] theorem State.out_locked (m : Msg) : (s.out m).locked = s.locked := rfl
@[simp] theorem State.out_flp (m : Msg) : (s.out m).flp = s.flp := rfl
@[simp] theorem State.out_hall (m : Msg) : (s.out m).hall = s.hall := rfl
@[simp] theorem State.out_hallAcc (m : Msg) : (s.out m).hallAcc = s.hallAcc := rfl
@[simp] theorem State.out_hallIn (m : Msg) : (s.out m).hallIn = s.hallIn := rfl
@[simp] theorem State.out_hallSeq (m : Msg) : (s.out m).hallSeq = s.hallSeq := rfl
@[simp] theorem State.out_hallOut (m : Msg) : (s.out m).hallOut = s.hallOut := rfl
@[simp] theorem State.out_cores (m : Msg) : (s.out m).cores = s.cores := rfl
@[simp] theorem State.out_launches (m : Msg) : (s.out m).launches = s.launches := rfl
@[simp] theorem State.out_nextLaunch (m : Msg) : (s.out m).nextLaunch = s.nextLaunch := rfl
@[simp] theorem State.out_pool (m : Msg) : (s.out m).pool = s.pool := rfl
@[simp] theorem State.out_poolBad (m : Msg) : (s.out m).poolBad = s.poolBad := rfl
@[simp] theorem State.out_channels (m : Msg) : (s.out m).channels = s.channels := rfl
@[simp] theorem State.out_lines (m : Msg) : (s.out m).lines = s.lines := rfl
@[simp] theorem State.out_msau (m : Msg) : (s.out m).msau = s.msau := rfl
@[simp] theorem State.out_refused (m : Msg) : (s.out m).refused = s.refused := rfl
@[simp] theorem State.out_l2s (m : Msg) : (s.out m).l2s = s.l2s := rfl
@[simp] theorem State.out_l1s (m : Msg) : (s.out m).l1s = s.l1s := rfl
@[simp] theorem State.out_bases (m : Msg) : (s.out m).bases = s.bases := rfl
@[simp] theorem State.out_hostDir (m : Msg) : (s.out m).hostDir = s.hostDir := rfl
@[simp] theorem State.out_hostTxns (m : Msg) : (s.out m).hostTxns = s.hostTxns := rfl
@[simp] theorem State.out_hostTxn (m : Msg) : (s.out m).hostTxn = s.hostTxn := rfl
@[simp] theorem State.out_slots (m : Msg) : (s.out m).slots = s.slots := rfl
@[simp] theorem State.out_xlDie (m : Msg) : (s.out m).xlDie = s.xlDie := rfl
@[simp] theorem State.out_xlWalk (m : Msg) : (s.out m).xlWalk = s.xlWalk := rfl
@[simp] theorem State.out_xlSeq (m : Msg) : (s.out m).xlSeq = s.xlSeq := rfl
@[simp] theorem State.out_harts (m : Msg) : (s.out m).harts = s.harts := rfl
@[simp] theorem State.out_links (m : Msg) : (s.out m).links = s.links := rfl
@[simp] theorem State.out_fns (m : Msg) : (s.out m).fns = s.fns := rfl
@[simp] theorem State.out_sqs (m : Msg) : (s.out m).sqs = s.sqs := rfl
@[simp] theorem State.out_cqs (m : Msg) : (s.out m).cqs = s.cqs := rfl
@[simp] theorem State.out_heldBells (m : Msg) : (s.out m).heldBells = s.heldBells := rfl
@[simp] theorem State.out_shared (m : Msg) : (s.out m).shared = s.shared := rfl
@[simp] theorem State.out_flips (m : Msg) : (s.out m).flips = s.flips := rfl
@[simp] theorem State.out_nextFlip (m : Msg) : (s.out m).nextFlip = s.nextFlip := rfl
@[simp] theorem State.out_hostReads (m : Msg) : (s.out m).hostReads = s.hostReads := rfl
@[simp] theorem State.out_steer (m : Msg) : (s.out m).steer = s.steer := rfl
@[simp] theorem State.out_remotes (m : Msg) : (s.out m).remotes = s.remotes := rfl
@[simp] theorem State.out_hostWrites (m : Msg) : (s.out m).hostWrites = s.hostWrites := rfl
@[simp] theorem State.out_msiDue (m : Msg) : (s.out m).msiDue = s.msiDue := rfl
@[simp] theorem State.out_ncWait (m : Msg) : (s.out m).ncWait = s.ncWait := rfl
@[simp] theorem State.out_steerSum (m : Msg) : (s.out m).steerSum = s.steerSum := rfl
@[simp] theorem State.out_nextTag (m : Msg) : (s.out m).nextTag = s.nextTag := rfl
@[simp] theorem State.out_tables (m : Msg) : (s.out m).tables = s.tables := rfl
@[simp] theorem State.out_nodesDown (m : Msg) : (s.out m).nodesDown = s.nodesDown := rfl
@[simp] theorem State.out_nodesUp (m : Msg) : (s.out m).nodesUp = s.nodesUp := rfl
@[simp] theorem State.out_cols (m : Msg) : (s.out m).cols = s.cols := rfl
@[simp] theorem State.out_earlyReady (m : Msg) : (s.out m).earlyReady = s.earlyReady := rfl
@[simp] theorem State.out_leaves (m : Msg) : (s.out m).leaves = s.leaves := rfl
@[simp] theorem State.out_root94 (m : Msg) : (s.out m).root94 = s.root94 := rfl
@[simp] theorem State.out_root95 (m : Msg) : (s.out m).root95 = s.root95 := rfl
@[simp] theorem State.out_fencedU (m : Msg) : (s.out m).fencedU = s.fencedU := rfl
@[simp] theorem State.out_mgmt (m : Msg) : (s.out m).mgmt = s.mgmt := rfl
@[simp] theorem State.out_stewards (m : Msg) : (s.out m).stewards = s.stewards := rfl
@[simp] theorem State.out_cutGen (m : Msg) : (s.out m).cutGen = s.cutGen := rfl
@[simp] theorem State.out_overUs (m : Msg) : (s.out m).overUs = s.overUs := rfl
@[simp] theorem State.out_lowUs (m : Msg) : (s.out m).lowUs = s.lowUs := rfl
@[simp] theorem State.out_calmUs (m : Msg) : (s.out m).calmUs = s.calmUs := rfl
@[simp] theorem State.out_partWork (m : Msg) : (s.out m).partWork = s.partWork := rfl
@[simp] theorem State.out_delta (m : Msg) : (s.out m).delta = s.delta := rfl
@[simp] theorem State.out_dieReset (m : Msg) : (s.out m).dieReset = s.dieReset := rfl
@[simp] theorem State.out_resetCmds (m : Msg) : (s.out m).resetCmds = s.resetCmds := rfl
@[simp] theorem State.out_rateFailed (m : Msg) : (s.out m).rateFailed = s.rateFailed := rfl
@[simp] theorem State.out_served (m : Msg) : (s.out m).served = s.served := rfl

/-! ## Reading what was written -/

@[simp] theorem State.rd_wr (d o : Nat) (v : Word) : (s.wr d o v).rd d o = v := by
  simp [State.rd, State.wr, Map.get_set_self]
theorem State.rd_wr_ne (d o d' o' : Nat) (v : Word) (h : csrKey d' o' ≠ csrKey d o) : (s.wr d o v).rd d' o' = s.rd d' o' := by
  simp [State.rd, State.wr, Map.get_set_ne _ _ _ _ _ _ h]

@[simp] theorem State.core_setCore (c : Nat) (k : Core) : (s.setCore c k).core c = k := Map.get_set_self _ _ _ _
theorem State.core_setCore_ne (c c2 : Nat) (k : Core) (h : c2 ≠ c) : (s.setCore c k).core c2 = s.core c2 := Map.get_set_ne _ _ _ _ _ _ h
@[simp] theorem State.line_setLine (c : Nat) (k : HomeLine) : (s.setLine c k).line c = k := Map.get_set_self _ _ _ _
theorem State.line_setLine_ne (c c2 : Nat) (k : HomeLine) (h : c2 ≠ c) : (s.setLine c k).line c2 = s.line c2 := Map.get_set_ne _ _ _ _ _ _ h
@[simp] theorem State.l2_setL2 (c : Nat) (k : L2) : (s.setL2 c k).l2 c = k := Map.get_set_self _ _ _ _
theorem State.l2_setL2_ne (c c2 : Nat) (k : L2) (h : c2 ≠ c) : (s.setL2 c k).l2 c2 = s.l2 c2 := Map.get_set_ne _ _ _ _ _ _ h
@[simp] theorem State.baseCache_setBase (c : Nat) (k : BaseCache) : (s.setBase c k).baseCache c = k := Map.get_set_self _ _ _ _
theorem State.baseCache_setBase_ne (c c2 : Nat) (k : BaseCache) (h : c2 ≠ c) : (s.setBase c k).baseCache c2 = s.baseCache c2 := Map.get_set_ne _ _ _ _ _ _ h
@[simp] theorem State.hart_setHart (c : Nat) (k : Hart) : (s.setHart c k).hart c = k := Map.get_set_self _ _ _ _
theorem State.hart_setHart_ne (c c2 : Nat) (k : Hart) (h : c2 ≠ c) : (s.setHart c k).hart c2 = s.hart c2 := Map.get_set_ne _ _ _ _ _ _ h
@[simp] theorem State.fn_setFn (c : Nat) (k : Fn) : (s.setFn c k).fn c = k := Map.get_set_self _ _ _ _
theorem State.fn_setFn_ne (c c2 : Nat) (k : Fn) (h : c2 ≠ c) : (s.setFn c k).fn c2 = s.fn c2 := Map.get_set_ne _ _ _ _ _ _ h
@[simp] theorem State.col_setCol (c : Nat) (k : Option Collective) : (s.setCol c k).col c = k := Map.get_set_self _ _ _ _
theorem State.col_setCol_ne (c c2 : Nat) (k : Option Collective) (h : c2 ≠ c) : (s.setCol c k).col c2 = s.col c2 := Map.get_set_ne _ _ _ _ _ _ h
@[simp] theorem State.leaf_setLeaf (c : Nat) (k : Leaf) : (s.setLeaf c k).leaf c = k := Map.get_set_self _ _ _ _
theorem State.leaf_setLeaf_ne (c c2 : Nat) (k : Leaf) (h : c2 ≠ c) : (s.setLeaf c k).leaf c2 = s.leaf c2 := Map.get_set_ne _ _ _ _ _ _ h
@[simp] theorem State.steward_setSteward (c : Nat) (k : Steward) : (s.setSteward c k).steward c = k := Map.get_set_self _ _ _ _
theorem State.steward_setSteward_ne (c c2 : Nat) (k : Steward) (h : c2 ≠ c) : (s.setSteward c k).steward c2 = s.steward c2 := Map.get_set_ne _ _ _ _ _ _ h
@[simp] theorem State.sq_setSq (p q : Nat) (k : Option Sq) : (s.setSq p q k).sq p q = k := Map.get_set_self _ _ _ _
@[simp] theorem State.cq_setCq (p q : Nat) (k : Option Cq) : (s.setCq p q k).cq p q = k := Map.get_set_self _ _ _ _
@[simp] theorem State.port_setPort (c : HalPort) (k : HallPort) : (s.setPort c k).port c = k := Map.get_set_self _ _ _ _
@[simp] theorem State.chan_setChan (c : Chan) (k : Channel) : (s.setChan c k).chan c = k := Map.get_set_self _ _ _ _
@[simp] theorem State.link_setLink (c : LinkId) (k : LinkState) : (s.setLink c k).link c = k := Map.get_set_self _ _ _ _

@[simp] theorem State.out_sent (m : Msg) : (s.out m).sent = s.sent ++ [m] := rfl

/-! ## Sending -/

/-- A message that no link carries is only noted as sent. -/
theorem State.send_quiet {m : Msg} (h : m.wire = none) : s.send m = s.out m := by simp [State.send, State.sendTagged, h]

/-- A message of a link changes that link beside the list of messages sent. -/
theorem State.sendTagged_frame (w : Option WriteTag) (m : Msg) :
    ∃ l, s.sendTagged w m = { s.out m with links := l } := by
  unfold State.sendTagged
  split
  · exact ⟨_, rfl⟩
  · dsimp only
    split
    · exact ⟨_, rfl⟩
    · split
      · exact ⟨_, rfl⟩
      · exact ⟨_, rfl⟩
theorem State.send_frame (m : Msg) : ∃ l, s.send m = { s.out m with links := l } := s.sendTagged_frame none m
@[simp] theorem State.send_sent (m : Msg) : (s.send m).sent = s.sent ++ [m] := by
  obtain ⟨l, h⟩ := s.send_frame m; rw [h]; rfl

@[simp] theorem State.send_pending (m : Msg) : (s.send m).pending = s.pending := by obtain ⟨l, h⟩ := s.send_frame m; rw [h]; rfl
@[simp] theorem State.send_fresh (m : Msg) : (s.send m).fresh = s.fresh := by obtain ⟨l, h⟩ := s.send_frame m; rw [h]; rfl
@[simp] theorem State.send_time (m : Msg) : (s.send m).time = s.time := by obtain ⟨l, h⟩ := s.send_frame m; rw [h]; rfl
@[simp] theorem State.send_phase (m : Msg) : (s.send m).phase = s.phase := by obtain ⟨l, h⟩ := s.send_frame m; rw [h]; rfl
@[simp] theorem State.send_pins (m : Msg) : (s.send m).pins = s.pins := by obtain ⟨l, h⟩ := s.send_frame m; rw [h]; rfl
@[simp] theorem State.send_csr (m : Msg) : (s.send m).csr = s.csr := by obtain ⟨l, h⟩ := s.send_frame m; rw [h]; rfl
@[simp] theorem State.send_locked (m : Msg) : (s.send m).locked = s.locked := by obtain ⟨l, h⟩ := s.send_frame m; rw [h]; rfl
@[simp] theorem State.send_flp (m : Msg) : (s.send m).flp = s.flp := by obtain ⟨l, h⟩ := s.send_frame m; rw [h]; rfl
@[simp] theorem State.send_hall (m : Msg) : (s.send m).hall = s.hall := by obtain ⟨l, h⟩ := s.send_frame m; rw [h]; rfl
@[simp] theorem State.send_hallAcc (m : Msg) : (s.send m).hallAcc = s.hallAcc := by obtain ⟨l, h⟩ := s.send_frame m; rw [h]; rfl
@[simp] theorem State.send_hallIn (m : Msg) : (s.send m).hallIn = s.hallIn := by obtain ⟨l, h⟩ := s.send_frame m; rw [h]; rfl
@[simp] theorem State.send_hallSeq (m : Msg) : (s.send m).hallSeq = s.hallSeq := by obtain ⟨l, h⟩ := s.send_frame m; rw [h]; rfl
@[simp] theorem State.send_hallOut (m : Msg) : (s.send m).hallOut = s.hallOut := by obtain ⟨l, h⟩ := s.send_frame m; rw [h]; rfl
@[simp] theorem State.send_cores (m : Msg) : (s.send m).cores = s.cores := by obtain ⟨l, h⟩ := s.send_frame m; rw [h]; rfl
@[simp] theorem State.send_launches (m : Msg) : (s.send m).launches = s.launches := by obtain ⟨l, h⟩ := s.send_frame m; rw [h]; rfl
@[simp] theorem State.send_nextLaunch (m : Msg) : (s.send m).nextLaunch = s.nextLaunch := by obtain ⟨l, h⟩ := s.send_frame m; rw [h]; rfl
@[simp] theorem State.send_pool (m : Msg) : (s.send m).pool = s.pool := by obtain ⟨l, h⟩ := s.send_frame m; rw [h]; rfl
@[simp] theorem State.send_poolBad (m : Msg) : (s.send m).poolBad = s.poolBad := by obtain ⟨l, h⟩ := s.send_frame m; rw [h]; rfl
@[simp] theorem State.send_channels (m : Msg) : (s.send m).channels = s.channels := by obtain ⟨l, h⟩ := s.send_frame m; rw [h]; rfl
@[simp] theorem State.send_lines (m : Msg) : (s.send m).lines = s.lines := by obtain ⟨l, h⟩ := s.send_frame m; rw [h]; rfl
@[simp] theorem State.send_msau (m : Msg) : (s.send m).msau = s.msau := by obtain ⟨l, h⟩ := s.send_frame m; rw [h]; rfl
@[simp] theorem State.send_refused (m : Msg) : (s.send m).refused = s.refused := by obtain ⟨l, h⟩ := s.send_frame m; rw [h]; rfl
@[simp] theorem State.send_l2s (m : Msg) : (s.send m).l2s = s.l2s := by obtain ⟨l, h⟩ := s.send_frame m; rw [h]; rfl
@[simp] theorem State.send_l1s (m : Msg) : (s.send m).l1s = s.l1s := by obtain ⟨l, h⟩ := s.send_frame m; rw [h]; rfl
@[simp] theorem State.send_bases (m : Msg) : (s.send m).bases = s.bases := by obtain ⟨l, h⟩ := s.send_frame m; rw [h]; rfl
@[simp] theorem State.send_hostDir (m : Msg) : (s.send m).hostDir = s.hostDir := by obtain ⟨l, h⟩ := s.send_frame m; rw [h]; rfl
@[simp] theorem State.send_hostTxns (m : Msg) : (s.send m).hostTxns = s.hostTxns := by obtain ⟨l, h⟩ := s.send_frame m; rw [h]; rfl
@[simp] theorem State.send_hostTxn (m : Msg) : (s.send m).hostTxn = s.hostTxn := by obtain ⟨l, h⟩ := s.send_frame m; rw [h]; rfl
@[simp] theorem State.send_slots (m : Msg) : (s.send m).slots = s.slots := by obtain ⟨l, h⟩ := s.send_frame m; rw [h]; rfl
@[simp] theorem State.send_xlDie (m : Msg) : (s.send m).xlDie = s.xlDie := by obtain ⟨l, h⟩ := s.send_frame m; rw [h]; rfl
@[simp] theorem State.send_xlWalk (m : Msg) : (s.send m).xlWalk = s.xlWalk := by obtain ⟨l, h⟩ := s.send_frame m; rw [h]; rfl
@[simp] theorem State.send_xlSeq (m : Msg) : (s.send m).xlSeq = s.xlSeq := by obtain ⟨l, h⟩ := s.send_frame m; rw [h]; rfl
@[simp] theorem State.send_harts (m : Msg) : (s.send m).harts = s.harts := by obtain ⟨l, h⟩ := s.send_frame m; rw [h]; rfl
@[simp] theorem State.send_fns (m : Msg) : (s.send m).fns = s.fns := by obtain ⟨l, h⟩ := s.send_frame m; rw [h]; rfl
@[simp] theorem State.send_sqs (m : Msg) : (s.send m).sqs = s.sqs := by obtain ⟨l, h⟩ := s.send_frame m; rw [h]; rfl
@[simp] theorem State.send_cqs (m : Msg) : (s.send m).cqs = s.cqs := by obtain ⟨l, h⟩ := s.send_frame m; rw [h]; rfl
@[simp] theorem State.send_heldBells (m : Msg) : (s.send m).heldBells = s.heldBells := by obtain ⟨l, h⟩ := s.send_frame m; rw [h]; rfl
@[simp] theorem State.send_shared (m : Msg) : (s.send m).shared = s.shared := by obtain ⟨l, h⟩ := s.send_frame m; rw [h]; rfl
@[simp] theorem State.send_flips (m : Msg) : (s.send m).flips = s.flips := by obtain ⟨l, h⟩ := s.send_frame m; rw [h]; rfl
@[simp] theorem State.send_nextFlip (m : Msg) : (s.send m).nextFlip = s.nextFlip := by obtain ⟨l, h⟩ := s.send_frame m; rw [h]; rfl
@[simp] theorem State.send_hostReads (m : Msg) : (s.send m).hostReads = s.hostReads := by obtain ⟨l, h⟩ := s.send_frame m; rw [h]; rfl
@[simp] theorem State.send_steer (m : Msg) : (s.send m).steer = s.steer := by obtain ⟨l, h⟩ := s.send_frame m; rw [h]; rfl
@[simp] theorem State.send_remotes (m : Msg) : (s.send m).remotes = s.remotes := by obtain ⟨l, h⟩ := s.send_frame m; rw [h]; rfl
@[simp] theorem State.send_hostWrites (m : Msg) : (s.send m).hostWrites = s.hostWrites := by obtain ⟨l, h⟩ := s.send_frame m; rw [h]; rfl
@[simp] theorem State.send_msiDue (m : Msg) : (s.send m).msiDue = s.msiDue := by obtain ⟨l, h⟩ := s.send_frame m; rw [h]; rfl
@[simp] theorem State.send_ncWait (m : Msg) : (s.send m).ncWait = s.ncWait := by obtain ⟨l, h⟩ := s.send_frame m; rw [h]; rfl
@[simp] theorem State.send_steerSum (m : Msg) : (s.send m).steerSum = s.steerSum := by obtain ⟨l, h⟩ := s.send_frame m; rw [h]; rfl
@[simp] theorem State.send_nextTag (m : Msg) : (s.send m).nextTag = s.nextTag := by obtain ⟨l, h⟩ := s.send_frame m; rw [h]; rfl
@[simp] theorem State.send_tables (m : Msg) : (s.send m).tables = s.tables := by obtain ⟨l, h⟩ := s.send_frame m; rw [h]; rfl
@[simp] theorem State.send_nodesDown (m : Msg) : (s.send m).nodesDown = s.nodesDown := by obtain ⟨l, h⟩ := s.send_frame m; rw [h]; rfl
@[simp] theorem State.send_nodesUp (m : Msg) : (s.send m).nodesUp = s.nodesUp := by obtain ⟨l, h⟩ := s.send_frame m; rw [h]; rfl
@[simp] theorem State.send_cols (m : Msg) : (s.send m).cols = s.cols := by obtain ⟨l, h⟩ := s.send_frame m; rw [h]; rfl
@[simp] theorem State.send_earlyReady (m : Msg) : (s.send m).earlyReady = s.earlyReady := by obtain ⟨l, h⟩ := s.send_frame m; rw [h]; rfl
@[simp] theorem State.send_leaves (m : Msg) : (s.send m).leaves = s.leaves := by obtain ⟨l, h⟩ := s.send_frame m; rw [h]; rfl
@[simp] theorem State.send_root94 (m : Msg) : (s.send m).root94 = s.root94 := by obtain ⟨l, h⟩ := s.send_frame m; rw [h]; rfl
@[simp] theorem State.send_root95 (m : Msg) : (s.send m).root95 = s.root95 := by obtain ⟨l, h⟩ := s.send_frame m; rw [h]; rfl
@[simp] theorem State.send_fencedU (m : Msg) : (s.send m).fencedU = s.fencedU := by obtain ⟨l, h⟩ := s.send_frame m; rw [h]; rfl
@[simp] theorem State.send_mgmt (m : Msg) : (s.send m).mgmt = s.mgmt := by obtain ⟨l, h⟩ := s.send_frame m; rw [h]; rfl
@[simp] theorem State.send_stewards (m : Msg) : (s.send m).stewards = s.stewards := by obtain ⟨l, h⟩ := s.send_frame m; rw [h]; rfl
@[simp] theorem State.send_cutGen (m : Msg) : (s.send m).cutGen = s.cutGen := by obtain ⟨l, h⟩ := s.send_frame m; rw [h]; rfl
@[simp] theorem State.send_overUs (m : Msg) : (s.send m).overUs = s.overUs := by obtain ⟨l, h⟩ := s.send_frame m; rw [h]; rfl
@[simp] theorem State.send_lowUs (m : Msg) : (s.send m).lowUs = s.lowUs := by obtain ⟨l, h⟩ := s.send_frame m; rw [h]; rfl
@[simp] theorem State.send_calmUs (m : Msg) : (s.send m).calmUs = s.calmUs := by obtain ⟨l, h⟩ := s.send_frame m; rw [h]; rfl
@[simp] theorem State.send_partWork (m : Msg) : (s.send m).partWork = s.partWork := by obtain ⟨l, h⟩ := s.send_frame m; rw [h]; rfl
@[simp] theorem State.send_delta (m : Msg) : (s.send m).delta = s.delta := by obtain ⟨l, h⟩ := s.send_frame m; rw [h]; rfl
@[simp] theorem State.send_dieReset (m : Msg) : (s.send m).dieReset = s.dieReset := by obtain ⟨l, h⟩ := s.send_frame m; rw [h]; rfl
@[simp] theorem State.send_resetCmds (m : Msg) : (s.send m).resetCmds = s.resetCmds := by obtain ⟨l, h⟩ := s.send_frame m; rw [h]; rfl
@[simp] theorem State.send_rateFailed (m : Msg) : (s.send m).rateFailed = s.rateFailed := by obtain ⟨l, h⟩ := s.send_frame m; rw [h]; rfl
@[simp] theorem State.send_served (m : Msg) : (s.send m).served = s.served := by obtain ⟨l, h⟩ := s.send_frame m; rw [h]; rfl

end Sys2Proof.Machine
end

