-- ==== Sys2Proof/Laws/Registers.lean ====
section
/-! SUPPORT. Fields of registers: a field reads back what was written to it, and the fields beside it read as before. -/

namespace Sys2Proof

theorem bits_lt (v hi lo : Nat) : bits v hi lo < 2 ^ (hi - lo + 1) := Nat.mod_lt _ (Nat.two_pow_pos _)

theorem field_split (w lo n : Nat) : w = w / 2 ^ (lo + n) * 2 ^ (lo + n) + w / 2 ^ lo % 2 ^ n * 2 ^ lo + w % 2 ^ lo := by
  have h1 := Nat.div_add_mod w (2 ^ lo)
  have h2 := Nat.div_add_mod (w / 2 ^ lo) (2 ^ n)
  rw [Nat.div_div_eq_div_mul, ← Nat.pow_add] at h2
  have h3 : 2 ^ lo * (2 ^ n * (w / 2 ^ (lo + n)) + w / 2 ^ lo % 2 ^ n) = 2 ^ (lo + n) * (w / 2 ^ (lo + n)) + w / 2 ^ lo % 2 ^ n * 2 ^ lo := by
    rw [Nat.pow_add]; ring
  rw [h2] at h3
  rw [Nat.mul_comm (w / 2 ^ (lo + n))]
  omega

/-- A word with field [hi:lo] replaced, as the sum of what stands above, in and below the field. -/
theorem putField_toNat (w : DWord) (hi lo v : Nat) (hl : lo ≤ hi) (hh : hi < 64) :
    (putField w hi lo v).toNat =
      w.toNat / 2 ^ (hi + 1) * 2 ^ (hi + 1) + v % 2 ^ (hi - lo + 1) * 2 ^ lo + w.toNat % 2 ^ lo := by
  have e : lo + (hi - lo + 1) = hi + 1 := by omega
  have h := field_split w.toNat lo (hi - lo + 1)
  rw [e] at h
  have hv : v % 2 ^ (hi - lo + 1) * 2 ^ lo + 2 ^ lo ≤ 2 ^ (hi + 1) := by
    have := Nat.mod_lt v (Nat.two_pow_pos (hi - lo + 1))
    calc v % 2 ^ (hi - lo + 1) * 2 ^ lo + 2 ^ lo = (v % 2 ^ (hi - lo + 1) + 1) * 2 ^ lo := by ring
      _ ≤ 2 ^ (hi - lo + 1) * 2 ^ lo := Nat.mul_le_mul_right _ this
      _ = 2 ^ (hi + 1) := by rw [← Nat.pow_add]; congr 1; omega
  have hr := Nat.mod_lt w.toNat (Nat.two_pow_pos lo)
  have hw : w.toNat / 2 ^ (hi + 1) * 2 ^ (hi + 1) + 2 ^ (hi + 1) ≤ 2 ^ 64 := by
    have h64 : 2 ^ 64 = 2 ^ (63 - hi) * 2 ^ (hi + 1) := by rw [← Nat.pow_add]; congr 1; omega
    have : w.toNat / 2 ^ (hi + 1) < 2 ^ (63 - hi) := by
      rw [Nat.div_lt_iff_lt_mul (Nat.two_pow_pos _), ← h64]; exact w.isLt
    calc _ = (w.toNat / 2 ^ (hi + 1) + 1) * 2 ^ (hi + 1) := by ring
      _ ≤ 2 ^ (63 - hi) * 2 ^ (hi + 1) := Nat.mul_le_mul_right _ this
      _ = 2 ^ 64 := h64.symm
  simp only [putField, BitVec.toNat_ofNat, bits]
  generalize w.toNat / 2 ^ (hi + 1) * 2 ^ (hi + 1) = A at *
  generalize w.toNat % 2 ^ lo = C at *
  generalize v % 2 ^ (hi - lo + 1) * 2 ^ lo = V at *
  generalize w.toNat / 2 ^ lo % 2 ^ (hi - lo + 1) * 2 ^ lo = B at *
  rw [Nat.mod_eq_of_lt] <;> omega

theorem bits_putField (w : DWord) (hi lo v : Nat) (hl : lo ≤ hi) (hh : hi < 64) :
    bits (putField w hi lo v).toNat hi lo = v % 2 ^ (hi - lo + 1) := by
  rw [putField_toNat w hi lo v hl hh, bits]
  have hc := Nat.mod_lt w.toNat (Nat.two_pow_pos lo)
  have e : 2 ^ (hi + 1) = 2 ^ lo * 2 ^ (hi - lo + 1) := by rw [← Nat.pow_add]; congr 1; omega
  generalize w.toNat / 2 ^ (hi + 1) = A
  generalize w.toNat % 2 ^ lo = C at *
  rw [e]
  have h : A * (2 ^ lo * 2 ^ (hi - lo + 1)) + v % 2 ^ (hi - lo + 1) * 2 ^ lo + C =
      C + 2 ^ lo * (A * 2 ^ (hi - lo + 1) + v % 2 ^ (hi - lo + 1)) := by ring
  rw [h, Nat.add_mul_div_left _ _ (Nat.two_pow_pos lo), Nat.div_eq_of_lt hc, Nat.zero_add, Nat.add_comm, Nat.add_mul_mod_self_right,
    Nat.mod_mod]

theorem bits_putField_above (w : DWord) (hi lo v a b : Nat) (hl : lo ≤ hi) (hh : hi < 64) (h : hi < b) :
    bits (putField w hi lo v).toNat a b = bits w.toNat a b := by
  rw [putField_toNat w hi lo v hl hh, bits, bits]
  congr 1
  have hc := Nat.mod_lt w.toNat (Nat.two_pow_pos lo)
  have hv : v % 2 ^ (hi - lo + 1) * 2 ^ lo + 2 ^ lo ≤ 2 ^ (hi + 1) := by
    have := Nat.mod_lt v (Nat.two_pow_pos (hi - lo + 1))
    calc v % 2 ^ (hi - lo + 1) * 2 ^ lo + 2 ^ lo = (v % 2 ^ (hi - lo + 1) + 1) * 2 ^ lo := by ring
      _ ≤ 2 ^ (hi - lo + 1) * 2 ^ lo := Nat.mul_le_mul_right _ this
      _ = 2 ^ (hi + 1) := by rw [← Nat.pow_add]; congr 1; omega
  have e : 2 ^ b = 2 ^ (hi + 1) * 2 ^ (b - hi - 1) := by rw [← Nat.pow_add]; congr 1; omega
  rw [e, ← Nat.div_div_eq_div_mul, ← Nat.div_div_eq_div_mul]
  congr 1
  rw [Nat.add_assoc, Nat.add_comm, Nat.add_mul_div_right _ _ (Nat.two_pow_pos _), Nat.div_eq_of_lt (by omega), Nat.zero_add]

theorem bits_putField_below (w : DWord) (hi lo v a b : Nat) (hl : lo ≤ hi) (hh : hi < 64) (hb : b ≤ a) (h : a < lo) :
    bits (putField w hi lo v).toNat a b = bits w.toNat a b := by
  have key (x : Nat) : bits x a b = x % 2 ^ lo / 2 ^ b % 2 ^ (a - b + 1) := by
    have e : 2 ^ lo = 2 ^ b * 2 ^ (lo - b) := by rw [← Nat.pow_add]; congr 1; omega
    have e' : 2 ^ (a - b + 1) ∣ 2 ^ (lo - b) := Nat.pow_dvd_pow 2 (by omega)
    rw [bits, e, Nat.mod_mul_right_div_self, Nat.mod_mod_of_dvd _ e']
  rw [key, key, putField_toNat w hi lo v hl hh]
  have e : 2 ^ (hi + 1) = 2 ^ lo * 2 ^ (hi - lo + 1) := by rw [← Nat.pow_add]; congr 1; omega
  have h : w.toNat / 2 ^ (hi + 1) * 2 ^ (hi + 1) + v % 2 ^ (hi - lo + 1) * 2 ^ lo + w.toNat % 2 ^ lo =
      w.toNat % 2 ^ lo + 2 ^ lo * (w.toNat / 2 ^ (hi + 1) * 2 ^ (hi - lo + 1) + v % 2 ^ (hi - lo + 1)) := by
    generalize w.toNat / 2 ^ (hi + 1) = A
    rw [e]
    ring
  rw [h, Nat.add_mul_mod_self_left, Nat.mod_mod]

namespace Machine

/-- What the 32-bit word of a written field reads. -/
theorem toNat_putField32 (w : Word) (hi lo v : Nat) (hl : lo ≤ hi) (hh : hi < 32) :
    ((putField (w.setWidth 64) hi lo v).setWidth 32).toNat = (putField (w.setWidth 64) hi lo v).toNat := by
  have hc := Nat.mod_lt w.toNat (Nat.two_pow_pos lo)
  have hw : (w.setWidth 64).toNat = w.toNat := by simp; exact Nat.lt_trans w.isLt (by decide)
  have hv : v % 2 ^ (hi - lo + 1) * 2 ^ lo + 2 ^ lo ≤ 2 ^ (hi + 1) := by
    have := Nat.mod_lt v (Nat.two_pow_pos (hi - lo + 1))
    calc v % 2 ^ (hi - lo + 1) * 2 ^ lo + 2 ^ lo = (v % 2 ^ (hi - lo + 1) + 1) * 2 ^ lo := by ring
      _ ≤ 2 ^ (hi - lo + 1) * 2 ^ lo := Nat.mul_le_mul_right _ this
      _ = 2 ^ (hi + 1) := by rw [← Nat.pow_add]; congr 1; omega
  have h64 : 2 ^ 32 = 2 ^ (31 - hi) * 2 ^ (hi + 1) := by rw [← Nat.pow_add]; congr 1; omega
  have hq : w.toNat / 2 ^ (hi + 1) < 2 ^ (31 - hi) := by
    rw [Nat.div_lt_iff_lt_mul (Nat.two_pow_pos _), ← h64]; exact w.isLt
  have hA : w.toNat / 2 ^ (hi + 1) * 2 ^ (hi + 1) + 2 ^ (hi + 1) ≤ 2 ^ 32 := by
    calc _ = (w.toNat / 2 ^ (hi + 1) + 1) * 2 ^ (hi + 1) := by ring
      _ ≤ 2 ^ (31 - hi) * 2 ^ (hi + 1) := Nat.mul_le_mul_right _ hq
      _ = 2 ^ 32 := h64.symm
  rw [BitVec.toNat_setWidth, Nat.mod_eq_of_lt]
  rw [putField_toNat _ hi lo v hl (by omega), hw]
  omega

theorem State.fld_setFld (s : State) (d o hi lo v : Nat) (hl : lo ≤ hi) (hh : hi < 32) :
    (s.setFld d o hi lo v).fld d o hi lo = v % 2 ^ (hi - lo + 1) := by
  rw [State.fld, State.setFld, State.rd_wr, toNat_putField32 _ _ _ _ hl hh, bits_putField _ _ _ _ hl (by omega)]

theorem State.fld_setFld_other (s : State) (d o hi lo v a b : Nat) (hl : lo ≤ hi) (hh : hi < 32) (hb : b ≤ a) (h : hi < b ∨ a < lo) :
    (s.setFld d o hi lo v).fld d o a b = s.fld d o a b := by
  have hw : ((s.rd d o).setWidth 64).toNat = (s.rd d o).toNat := by
    simp; exact Nat.lt_trans (s.rd d o).isLt (by decide)
  rw [State.fld, State.setFld, State.rd_wr, toNat_putField32 _ _ _ _ hl hh]
  rcases h with h | h
  · rw [bits_putField_above _ _ _ _ _ _ hl (by omega) h, hw, State.fld]
  · rw [bits_putField_below _ _ _ _ _ _ hl (by omega) hb h, hw, State.fld]

/-- A field of a register at another place reads as before. -/
theorem State.fld_setFld_ne (s : State) (d o hi lo v d' o' a b : Nat) (h : csrKey d' o' ≠ csrKey d o) :
    (s.setFld d o hi lo v).fld d' o' a b = s.fld d' o' a b := by
  rw [State.fld, State.setFld, State.rd_wr_ne _ _ _ _ _ _ h, State.fld]

/-- Places in the CSR window differ where the offsets differ. -/
theorem csrKey_ne {d o d' o' : Nat} (ho : o < 2 ^ 32) (ho' : o' < 2 ^ 32) (h : o' ≠ o) : csrKey d' o' ≠ csrKey d o := by
  unfold csrKey; omega

theorem State.halState_setHalState (s : State) (p : HalPort) (v : Nat) (h : v < 16) : (s.setHalState p v).halState p = v := by
  rw [State.halState, State.setHalState, State.fld_setFld _ _ _ _ _ _ (by decide) (by decide)]; exact Nat.mod_eq_of_lt h
theorem State.chanState_setChanState (s : State) (c : Chan) (v : Nat) (h : v < 16) : (s.setChanState c v).chanState c = v := by
  rw [State.chanState, State.setChanState, State.fld_setFld _ _ _ _ _ _ (by decide) (by decide)]; exact Nat.mod_eq_of_lt h
theorem State.linkSt_setLinkSt (s : State) (l : LinkId) (v : Nat) (h : v < 16) : (s.setLinkSt l v).linkSt l = v := by
  rw [State.linkSt, State.setLinkSt, State.fld_setFld _ _ _ _ _ _ (by decide) (by decide)]; exact Nat.mod_eq_of_lt h
theorem State.partState_setPartState (s : State) (p v : Nat) (h : v < 16) : (s.setPartState p v).partState p = v := by
  rw [State.partState, State.setPartState, State.fld_setFld _ _ _ _ _ _ (by decide) (by decide)]; exact Nat.mod_eq_of_lt h

/-- A 64-bit register reads what was written to it. -/
theorem State.rd64_wr64 (s : State) (d o : Nat) (v : DWord) (ho : o + 4 < 2 ^ 32) : (s.wr64 d o v).rd64 d o = v := by
  have hne : csrKey d o ≠ csrKey d (o + 4) := csrKey_ne ho (by omega) (by omega)
  rw [State.rd64, State.wr64, State.rd_wr, State.rd_wr_ne _ _ _ _ _ _ hne, State.rd_wr]
  ext i hi
  simp only [BitVec.getElem_append, BitVec.getElem_setWidth, BitVec.getLsbD_ushiftRight]
  split
  · simp [BitVec.getLsbD_eq_getElem hi]
  · rw [show 32 + (i - 32) = i by omega, BitVec.getLsbD_eq_getElem hi]

end Machine

end Sys2Proof
end

