-- ==== Sys2Proof/Laws/Faults.lean ====
section
/-! SUPPORT. What recording a fault changes: the leaf of its die and, for a fault that ends in the safe state, what the device has
sent. -/

namespace Sys2Proof.Machine

/-- A packet that enters the Hallway takes an injection number and is listed; nothing else changes. -/
theorem State.inject_frame (s : State) (src dst : Nat) (vc : HalVc) (m : Msg) :
    ∃ q h, s.inject src dst vc m = { s with hallSeq := q, hallOut := h } := by
  unfold State.inject
  split
  · exact ⟨s.hallSeq, s.hallOut, rfl⟩
  · exact ⟨_, _, rfl⟩

/-- So do packets for several dies. -/
theorem State.injectAll_frame (s : State) (src : Nat) (vc : HalVc) (m : Msg) (ds : List Nat) :
    ∃ q h, ds.foldl (fun s d => s.inject src d vc m) s = { s with hallSeq := q, hallOut := h } := by
  induction ds generalizing s with
  | nil => exact ⟨s.hallSeq, s.hallOut, rfl⟩
  | cons d ds ih =>
    obtain ⟨q, h, e⟩ := s.inject_frame src d vc m
    rw [List.foldl_cons, e]
    exact ih _

/-- A Back Stair message enters the Hallway and is sent; nothing else changes. -/
theorem State.stair_frame (s : State) (kind src dst : Nat) (body : List Nat) :
    ∃ q h, s.stair kind src dst body = ({ s with hallSeq := q, hallOut := h } : State).out (.backStair kind src dst body) := by
  unfold State.stair
  obtain ⟨q, h, e⟩ := s.injectAll_frame src .backStair (.backStair kind src dst body) (if dst = 0xFF then List.range 100 else [dst])
  exact ⟨q, h, (State.send_quiet _ rfl).trans (congrArg (State.out · _) e)⟩

/-- Recording a fault at its leaf changes that leaf, and sends a message only where the verdict asks for the safe state. -/
theorem State.leafRecord_frame (s : State) (f : FaultIn) (v : Verdict) :
    ∃ k, s.leafRecord f v = s.setLeaf f.die.val k ∨
      (v.safe = true ∧ s.leafRecord f v = (s.setLeaf f.die.val k).stair 1 f.die.val 0xFF [f.source.toNat]) := by
  unfold State.leafRecord
  dsimp only
  split
  · rename_i h; exact ⟨_, .inr ⟨h, rfl⟩⟩
  · exact ⟨_, .inl rfl⟩

/-- A fault that fences nothing changes leaves, what has entered the Hallway and messages sent, and nothing else. -/
theorem State.noteFault_frame (s : State) (f : FaultIn) : ∃ l q h m, s.noteFault f = { s with leaves := l, hallSeq := q, hallOut := h, sent := m } := by
  unfold State.noteFault
  split
  · obtain ⟨k, h | h⟩ := s.leafRecord_frame f { s.verdict f with fences := false }
    · exact ⟨_, s.hallSeq, s.hallOut, s.sent, h⟩
    · obtain ⟨q, o, e⟩ := State.stair_frame (s.setLeaf f.die.val k) 1 f.die.val 0xFF [f.source.toNat]
      exact ⟨_, q, o, _, h.2.trans e⟩
  · exact ⟨s.leaves, s.hallSeq, s.hallOut, s.sent, rfl⟩

/-- What has been sent stays sent. -/
theorem State.noteFault_sent (s : State) (f : FaultIn) : s.sent <+: (s.noteFault f).sent := by
  unfold State.noteFault
  split
  · obtain ⟨k, h | h⟩ := s.leafRecord_frame f { s.verdict f with fences := false }
    · rw [h]; exact List.prefix_refl _
    · obtain ⟨q, o, e⟩ := State.stair_frame (s.setLeaf f.die.val k) 1 f.die.val 0xFF [f.source.toNat]
      rw [h.2, e]; exact List.prefix_append _ _
  · exact List.prefix_refl _

@[simp] theorem State.noteFault_pending (s : State) (f : FaultIn) : (s.noteFault f).pending = s.pending := by
  obtain ⟨l, q, o, m, h⟩ := s.noteFault_frame f; rw [h]
@[simp] theorem State.noteFault_fresh (s : State) (f : FaultIn) : (s.noteFault f).fresh = s.fresh := by
  obtain ⟨l, q, o, m, h⟩ := s.noteFault_frame f; rw [h]
@[simp] theorem State.noteFault_time (s : State) (f : FaultIn) : (s.noteFault f).time = s.time := by
  obtain ⟨l, q, o, m, h⟩ := s.noteFault_frame f; rw [h]
@[simp] theorem State.noteFault_phase (s : State) (f : FaultIn) : (s.noteFault f).phase = s.phase := by
  obtain ⟨l, q, o, m, h⟩ := s.noteFault_frame f; rw [h]
@[simp] theorem State.noteFault_pins (s : State) (f : FaultIn) : (s.noteFault f).pins = s.pins := by
  obtain ⟨l, q, o, m, h⟩ := s.noteFault_frame f; rw [h]
@[simp] theorem State.noteFault_csr (s : State) (f : FaultIn) : (s.noteFault f).csr = s.csr := by
  obtain ⟨l, q, o, m, h⟩ := s.noteFault_frame f; rw [h]
@[simp] theorem State.noteFault_locked (s : State) (f : FaultIn) : (s.noteFault f).locked = s.locked := by
  obtain ⟨l, q, o, m, h⟩ := s.noteFault_frame f; rw [h]
@[simp] theorem State.noteFault_flp (s : State) (f : FaultIn) : (s.noteFault f).flp = s.flp := by
  obtain ⟨l, q, o, m, h⟩ := s.noteFault_frame f; rw [h]
@[simp] theorem State.noteFault_hall (s : State) (f : FaultIn) : (s.noteFault f).hall = s.hall := by
  obtain ⟨l, q, o, m, h⟩ := s.noteFault_frame f; rw [h]
@[simp] theorem State.noteFault_hallAcc (s : State) (f : FaultIn) : (s.noteFault f).hallAcc = s.hallAcc := by
  obtain ⟨l, q, o, m, h⟩ := s.noteFault_frame f; rw [h]
@[simp] theorem State.noteFault_cores (s : State) (f : FaultIn) : (s.noteFault f).cores = s.cores := by
  obtain ⟨l, q, o, m, h⟩ := s.noteFault_frame f; rw [h]
@[simp] theorem State.noteFault_launches (s : State) (f : FaultIn) : (s.noteFault f).launches = s.launches := by
  obtain ⟨l, q, o, m, h⟩ := s.noteFault_frame f; rw [h]
@[simp] theorem State.noteFault_nextLaunch (s : State) (f : FaultIn) : (s.noteFault f).nextLaunch = s.nextLaunch := by
  obtain ⟨l, q, o, m, h⟩ := s.noteFault_frame f; rw [h]
@[simp] theorem State.noteFault_pool (s : State) (f : FaultIn) : (s.noteFault f).pool = s.pool := by
  obtain ⟨l, q, o, m, h⟩ := s.noteFault_frame f; rw [h]
@[simp] theorem State.noteFault_poolBad (s : State) (f : FaultIn) : (s.noteFault f).poolBad = s.poolBad := by
  obtain ⟨l, q, o, m, h⟩ := s.noteFault_frame f; rw [h]
@[simp] theorem State.noteFault_channels (s : State) (f : FaultIn) : (s.noteFault f).channels = s.channels := by
  obtain ⟨l, q, o, m, h⟩ := s.noteFault_frame f; rw [h]
@[simp] theorem State.noteFault_lines (s : State) (f : FaultIn) : (s.noteFault f).lines = s.lines := by
  obtain ⟨l, q, o, m, h⟩ := s.noteFault_frame f; rw [h]
@[simp] theorem State.noteFault_msau (s : State) (f : FaultIn) : (s.noteFault f).msau = s.msau := by
  obtain ⟨l, q, o, m, h⟩ := s.noteFault_frame f; rw [h]
@[simp] theorem State.noteFault_refused (s : State) (f : FaultIn) : (s.noteFault f).refused = s.refused := by
  obtain ⟨l, q, o, m, h⟩ := s.noteFault_frame f; rw [h]
@[simp] theorem State.noteFault_l2s (s : State) (f : FaultIn) : (s.noteFault f).l2s = s.l2s := by
  obtain ⟨l, q, o, m, h⟩ := s.noteFault_frame f; rw [h]
@[simp] theorem State.noteFault_bases (s : State) (f : FaultIn) : (s.noteFault f).bases = s.bases := by
  obtain ⟨l, q, o, m, h⟩ := s.noteFault_frame f; rw [h]
@[simp] theorem State.noteFault_hostDir (s : State) (f : FaultIn) : (s.noteFault f).hostDir = s.hostDir := by
  obtain ⟨l, q, o, m, h⟩ := s.noteFault_frame f; rw [h]
@[simp] theorem State.noteFault_slots (s : State) (f : FaultIn) : (s.noteFault f).slots = s.slots := by
  obtain ⟨l, q, o, m, h⟩ := s.noteFault_frame f; rw [h]
@[simp] theorem State.noteFault_xlDie (s : State) (f : FaultIn) : (s.noteFault f).xlDie = s.xlDie := by
  obtain ⟨l, q, o, m, h⟩ := s.noteFault_frame f; rw [h]
@[simp] theorem State.noteFault_xlWalk (s : State) (f : FaultIn) : (s.noteFault f).xlWalk = s.xlWalk := by
  obtain ⟨l, q, o, m, h⟩ := s.noteFault_frame f; rw [h]
@[simp] theorem State.noteFault_xlSeq (s : State) (f : FaultIn) : (s.noteFault f).xlSeq = s.xlSeq := by
  obtain ⟨l, q, o, m, h⟩ := s.noteFault_frame f; rw [h]
@[simp] theorem State.noteFault_harts (s : State) (f : FaultIn) : (s.noteFault f).harts = s.harts := by
  obtain ⟨l, q, o, m, h⟩ := s.noteFault_frame f; rw [h]
@[simp] theorem State.noteFault_links (s : State) (f : FaultIn) : (s.noteFault f).links = s.links := by
  obtain ⟨l, q, o, m, h⟩ := s.noteFault_frame f; rw [h]
@[simp] theorem State.noteFault_fns (s : State) (f : FaultIn) : (s.noteFault f).fns = s.fns := by
  obtain ⟨l, q, o, m, h⟩ := s.noteFault_frame f; rw [h]
@[simp] theorem State.noteFault_sqs (s : State) (f : FaultIn) : (s.noteFault f).sqs = s.sqs := by
  obtain ⟨l, q, o, m, h⟩ := s.noteFault_frame f; rw [h]
@[simp] theorem State.noteFault_cqs (s : State) (f : FaultIn) : (s.noteFault f).cqs = s.cqs := by
  obtain ⟨l, q, o, m, h⟩ := s.noteFault_frame f; rw [h]
@[simp] theorem State.noteFault_heldBells (s : State) (f : FaultIn) : (s.noteFault f).heldBells = s.heldBells := by
  obtain ⟨l, q, o, m, h⟩ := s.noteFault_frame f; rw [h]
@[simp] theorem State.noteFault_shared (s : State) (f : FaultIn) : (s.noteFault f).shared = s.shared := by
  obtain ⟨l, q, o, m, h⟩ := s.noteFault_frame f; rw [h]
@[simp] theorem State.noteFault_flips (s : State) (f : FaultIn) : (s.noteFault f).flips = s.flips := by
  obtain ⟨l, q, o, m, h⟩ := s.noteFault_frame f; rw [h]
@[simp] theorem State.noteFault_nextFlip (s : State) (f : FaultIn) : (s.noteFault f).nextFlip = s.nextFlip := by
  obtain ⟨l, q, o, m, h⟩ := s.noteFault_frame f; rw [h]
@[simp] theorem State.noteFault_hostReads (s : State) (f : FaultIn) : (s.noteFault f).hostReads = s.hostReads := by
  obtain ⟨l, q, o, m, h⟩ := s.noteFault_frame f; rw [h]
@[simp] theorem State.noteFault_steer (s : State) (f : FaultIn) : (s.noteFault f).steer = s.steer := by
  obtain ⟨l, q, o, m, h⟩ := s.noteFault_frame f; rw [h]
@[simp] theorem State.noteFault_remotes (s : State) (f : FaultIn) : (s.noteFault f).remotes = s.remotes := by
  obtain ⟨l, q, o, m, h⟩ := s.noteFault_frame f; rw [h]
@[simp] theorem State.noteFault_nextTag (s : State) (f : FaultIn) : (s.noteFault f).nextTag = s.nextTag := by
  obtain ⟨l, q, o, m, h⟩ := s.noteFault_frame f; rw [h]
@[simp] theorem State.noteFault_tables (s : State) (f : FaultIn) : (s.noteFault f).tables = s.tables := by
  obtain ⟨l, q, o, m, h⟩ := s.noteFault_frame f; rw [h]
@[simp] theorem State.noteFault_nodesDown (s : State) (f : FaultIn) : (s.noteFault f).nodesDown = s.nodesDown := by
  obtain ⟨l, q, o, m, h⟩ := s.noteFault_frame f; rw [h]
@[simp] theorem State.noteFault_nodesUp (s : State) (f : FaultIn) : (s.noteFault f).nodesUp = s.nodesUp := by
  obtain ⟨l, q, o, m, h⟩ := s.noteFault_frame f; rw [h]
@[simp] theorem State.noteFault_cols (s : State) (f : FaultIn) : (s.noteFault f).cols = s.cols := by
  obtain ⟨l, q, o, m, h⟩ := s.noteFault_frame f; rw [h]
@[simp] theorem State.noteFault_earlyReady (s : State) (f : FaultIn) : (s.noteFault f).earlyReady = s.earlyReady := by
  obtain ⟨l, q, o, m, h⟩ := s.noteFault_frame f; rw [h]
@[simp] theorem State.noteFault_root94 (s : State) (f : FaultIn) : (s.noteFault f).root94 = s.root94 := by
  obtain ⟨l, q, o, m, h⟩ := s.noteFault_frame f; rw [h]
@[simp] theorem State.noteFault_root95 (s : State) (f : FaultIn) : (s.noteFault f).root95 = s.root95 := by
  obtain ⟨l, q, o, m, h⟩ := s.noteFault_frame f; rw [h]
@[simp] theorem State.noteFault_fencedU (s : State) (f : FaultIn) : (s.noteFault f).fencedU = s.fencedU := by
  obtain ⟨l, q, o, m, h⟩ := s.noteFault_frame f; rw [h]
@[simp] theorem State.noteFault_mgmt (s : State) (f : FaultIn) : (s.noteFault f).mgmt = s.mgmt := by
  obtain ⟨l, q, o, m, h⟩ := s.noteFault_frame f; rw [h]
@[simp] theorem State.noteFault_stewards (s : State) (f : FaultIn) : (s.noteFault f).stewards = s.stewards := by
  obtain ⟨l, q, o, m, h⟩ := s.noteFault_frame f; rw [h]
@[simp] theorem State.noteFault_cutGen (s : State) (f : FaultIn) : (s.noteFault f).cutGen = s.cutGen := by
  obtain ⟨l, q, o, m, h⟩ := s.noteFault_frame f; rw [h]
@[simp] theorem State.noteFault_overUs (s : State) (f : FaultIn) : (s.noteFault f).overUs = s.overUs := by
  obtain ⟨l, q, o, m, h⟩ := s.noteFault_frame f; rw [h]
@[simp] theorem State.noteFault_lowUs (s : State) (f : FaultIn) : (s.noteFault f).lowUs = s.lowUs := by
  obtain ⟨l, q, o, m, h⟩ := s.noteFault_frame f; rw [h]
@[simp] theorem State.noteFault_calmUs (s : State) (f : FaultIn) : (s.noteFault f).calmUs = s.calmUs := by
  obtain ⟨l, q, o, m, h⟩ := s.noteFault_frame f; rw [h]
@[simp] theorem State.noteFault_partWork (s : State) (f : FaultIn) : (s.noteFault f).partWork = s.partWork := by
  obtain ⟨l, q, o, m, h⟩ := s.noteFault_frame f; rw [h]
@[simp] theorem State.noteFault_dieReset (s : State) (f : FaultIn) : (s.noteFault f).dieReset = s.dieReset := by
  obtain ⟨l, q, o, m, h⟩ := s.noteFault_frame f; rw [h]
@[simp] theorem State.noteFault_resetCmds (s : State) (f : FaultIn) : (s.noteFault f).resetCmds = s.resetCmds := by
  obtain ⟨l, q, o, m, h⟩ := s.noteFault_frame f; rw [h]
@[simp] theorem State.noteFault_hallIn (s : State) (f : FaultIn) : (s.noteFault f).hallIn = s.hallIn := by
  obtain ⟨l, q, o, m, h⟩ := s.noteFault_frame f; rw [h]
@[simp] theorem State.noteFault_l1s (s : State) (f : FaultIn) : (s.noteFault f).l1s = s.l1s := by
  obtain ⟨l, q, o, m, h⟩ := s.noteFault_frame f; rw [h]
@[simp] theorem State.noteFault_hostWrites (s : State) (f : FaultIn) : (s.noteFault f).hostWrites = s.hostWrites := by
  obtain ⟨l, q, o, m, h⟩ := s.noteFault_frame f; rw [h]
@[simp] theorem State.noteFault_delta (s : State) (f : FaultIn) : (s.noteFault f).delta = s.delta := by
  obtain ⟨l, q, o, m, h⟩ := s.noteFault_frame f; rw [h]
@[simp] theorem State.noteFault_rateFailed (s : State) (f : FaultIn) : (s.noteFault f).rateFailed = s.rateFailed := by
  obtain ⟨l, q, o, m, h⟩ := s.noteFault_frame f; rw [h]

@[simp] theorem State.noteFault_hostTxns (s : State) (f : FaultIn) : (s.noteFault f).hostTxns = s.hostTxns := by
  obtain ⟨l, q, o, m, h⟩ := s.noteFault_frame f; rw [h]
@[simp] theorem State.noteFault_hostTxn (s : State) (f : FaultIn) : (s.noteFault f).hostTxn = s.hostTxn := by
  obtain ⟨l, q, o, m, h⟩ := s.noteFault_frame f; rw [h]
@[simp] theorem State.noteFault_msiDue (s : State) (f : FaultIn) : (s.noteFault f).msiDue = s.msiDue := by
  obtain ⟨l, q, o, m, h⟩ := s.noteFault_frame f; rw [h]
@[simp] theorem State.noteFault_ncWait (s : State) (f : FaultIn) : (s.noteFault f).ncWait = s.ncWait := by
  obtain ⟨l, q, o, m, h⟩ := s.noteFault_frame f; rw [h]
@[simp] theorem State.noteFault_steerSum (s : State) (f : FaultIn) : (s.noteFault f).steerSum = s.steerSum := by
  obtain ⟨l, q, o, m, h⟩ := s.noteFault_frame f; rw [h]
@[simp] theorem State.noteFault_served (s : State) (f : FaultIn) : (s.noteFault f).served = s.served := by
  obtain ⟨l, q, o, m, h⟩ := s.noteFault_frame f; rw [h]

end Sys2Proof.Machine
end

