-- ==== Sys2Proof/Laws/Memory.lean ====
section
/-! SUPPORT. The Pool's writes: what a write at a line stores, what it leaves, and that every write keeps the memory's canonical form. -/

namespace Sys2Proof.Machine

@[simp] theorem State.setBad_pool (s : State) (l : Nat) (v : Bool) : (s.setBad l v).pool = s.pool := rfl
@[simp] theorem State.satFld_pool (s : State) (d o hi lo n : Nat) : (s.satFld d o hi lo n).pool = s.pool := rfl

theorem fullMask_bit (i : Nat) (h : i < 128) : fullMask.getLsbD i = true := by
  unfold fullMask; rw [BitVec.getLsbD_allOnes]; simpa using h

@[simp] theorem mergeLine_length (old : List Byte) (m : BitVec 128) (d : List Byte) : (mergeLine old m d).length = 128 := by
  simp [mergeLine]
theorem mergeLine_getD (old : List Byte) (m : BitVec 128) (d : List Byte) (i : Nat) (h : i < 128) :
    (mergeLine old m d).getD i 0 = if m.getLsbD i then d.getD i 0 else old.getD i 0 := by
  simp [mergeLine, List.getD, h]
theorem memLine_getD (s : State) (l i : Nat) (h : i < 128) : (s.memLine l).getD i 0 = s.pool.get 0 (l * 128 + i) := by
  simp [State.memLine, Map.getRun, List.getD, h]

theorem State.setChan_frame (s : State) (c : Chan) (k : Channel) : ∃ m, s.setChan c k = { s with channels := m } := ⟨_, rfl⟩
theorem State.inc64_frame (s : State) (d o : Nat) : ∃ c, s.inc64 d o = { s with csr := c } := ⟨_, rfl⟩

/-- An activation changes its channel alone. -/
theorem State.activate_frame (s : State) (c : Chan) (l : Nat) : ∃ k, s.activate c l = { s with channels := k } := by
  unfold State.activate
  rcases bankRow (l * 128) with ⟨b, r⟩
  dsimp only
  split
  · exact ⟨s.channels, rfl⟩
  · exact s.setChan_frame c _

/-- Counting a transfer changes registers and its channel alone. -/
theorem State.countLine_frame (s : State) (l : Nat) : ∃ c k, s.countLine l = { s with csr := c, channels := k } := by
  unfold State.countLine
  split
  · rename_i ch _
    split
    · exact ⟨s.csr, s.channels, rfl⟩
    · obtain ⟨k, h⟩ := s.activate_frame ch l
      obtain ⟨c, e⟩ := (s.activate ch l).inc64_frame (chanReg ch).1 ((chanReg ch).2 + 0x18)
      exact ⟨c, k, by rw [e, h]⟩
  · exact ⟨s.csr, s.channels, rfl⟩

/-- A request that waits at its channel changes the channel alone. -/
theorem State.holdHome_frame (s : State) (l : Nat) (w : Bool) (m : BitVec 128) (d : List Byte) (p : Bool) :
    ∃ k, s.holdHome l w m d p = { s with channels := k } := by
  unfold State.holdHome; split
  · exact ⟨_, rfl⟩
  · exact ⟨s.channels, rfl⟩

/-- What a write does in a channel in service: the transfers are counted, then the line takes poison, is stored whole and loses its poison, is
left as it is poisoned, or takes the masked bytes. -/
theorem State.memStore_cases (s : State) (l : Nat) (m : BitVec 128) (d : List Byte) (p : Bool) :
    ∃ c k, s.memStore l m d p =
      (if p then ({ s with csr := c, channels := k } : State).setBad l true
       else if m = fullMask then ({ s with csr := c, channels := k, pool := s.pool.setRun 0 (l * 128) (mergeLine [] fullMask d) } : State).setBad l false
       else if s.poolBad.contains l then { s with csr := c, channels := k }
       else { s with csr := c, channels := k, pool := s.pool.setRun 0 (l * 128) (mergeLine (s.memLine l) m d) }) := by
  unfold State.memStore
  by_cases hm : m = fullMask ∨ l * 128 < 2 ^ 40
  · obtain ⟨c, k, h⟩ := s.countLine_frame l
    rw [if_pos hm]; dsimp only; rw [h]; exact ⟨c, k, rfl⟩
  · obtain ⟨c1, k1, h1⟩ := s.countLine_frame l
    obtain ⟨c, k, h⟩ := State.countLine_frame { s with csr := c1, channels := k1 } l
    rw [if_neg hm, h1]; dsimp only; rw [h]; exact ⟨c, k, rfl⟩

/-- A write at a line changes registers, its channel, the Pool and its list of poisoned lines, and nothing else. -/
theorem State.memWrite_frame (s : State) (l : Nat) (m : BitVec 128) (d : List Byte) (p : Bool) :
    ∃ c k q b, s.memWrite l m d p = { s with csr := c, channels := k, pool := q, poolBad := b } := by
  unfold State.memWrite
  split
  · split
    · exact ⟨_, s.channels, s.pool, s.poolBad, rfl⟩
    · exact ⟨s.csr, s.channels, s.pool, s.poolBad, rfl⟩
  · split
    · obtain ⟨k, h⟩ := s.holdHome_frame l true m d p
      exact ⟨s.csr, k, s.pool, s.poolBad, h⟩
    · obtain ⟨c, k, h⟩ := s.memStore_cases l m d p
      rw [h]
      split
      · exact ⟨_, _, _, _, rfl⟩
      · split
        · exact ⟨_, _, _, _, rfl⟩
        · split
          · exact ⟨_, _, _, _, rfl⟩
          · exact ⟨_, _, _, _, rfl⟩

/-- A write at a line keeps the canonical form. -/
theorem State.memWrite_wf (s : State) (l : Nat) (m : BitVec 128) (d : List Byte) (p : Bool) (h : Memory.wf s.pool) :
    Memory.wf (s.memWrite l m d p).pool := by
  unfold State.memWrite
  split
  · split <;> exact h
  · split
    · obtain ⟨k, e⟩ := s.holdHome_frame l true m d p
      rw [e]; exact h
    · obtain ⟨c, k, e⟩ := s.memStore_cases l m d p
      rw [e]
      split
      · exact h
      · split
        · exact Memory.wf_setRun h _ _
        · split
          · exact h
          · exact Memory.wf_setRun h _ _

/-- Every address outside the line reads as before. -/
theorem State.memWrite_outside (s : State) (l : Nat) (m : BitVec 128) (d : List Byte) (p : Bool) (a : Nat)
    (h : a < l * 128 ∨ l * 128 + 128 ≤ a) : (s.memWrite l m d p).pool.get 0 a = s.pool.get 0 a := by
  unfold State.memWrite
  split
  · split <;> simp
  · split
    · obtain ⟨k, e⟩ := s.holdHome_frame l true m d p
      rw [e]
    · obtain ⟨c, k, e⟩ := s.memStore_cases l m d p
      rw [e]
      split
      · simp
      · split
        · rw [State.setBad_pool]
          dsimp only; exact Map.get_setRun_out 0 _ s.pool _ _ (by rw [mergeLine_length]; exact h)
        · split
          · rfl
          · exact Map.get_setRun_out 0 _ s.pool _ _ (by rw [mergeLine_length]; exact h)

/-- A write of a whole line in a channel in service, without poison: its bytes are stored and the line's poison is cleared. -/
theorem State.memWrite_full (s : State) (l : Nat) (d : List Byte) (hf : s.lineFenced l = false) (hh : s.lineHeld l = false) :
    (s.memWrite l fullMask d false).poolBad.contains l = false ∧
      ∀ i, i < 128 → (s.memWrite l fullMask d false).pool.get 0 (l * 128 + i) = d.getD i 0 := by
  obtain ⟨c, k, e⟩ := s.memStore_cases l fullMask d false
  unfold State.memWrite
  rw [hf, hh, e]
  simp only [Bool.false_eq_true, if_false, if_true]
  refine ⟨by simp [State.setBad], fun i hi => ?_⟩
  rw [State.setBad_pool]
  dsimp only
  rw [Map.get_setRun_in (0 : Byte) _ s.pool (l * 128) i (by rw [mergeLine_length]; exact hi), mergeLine_getD _ _ _ _ hi, fullMask_bit _ hi, if_pos rfl]

/-- A masked write of a line that is not poisoned: the masked bytes are stored, the others keep their values. -/
theorem State.memWrite_masked (s : State) (l : Nat) (m : BitVec 128) (d : List Byte) (hf : s.lineFenced l = false) (hh : s.lineHeld l = false)
    (hm : m ≠ fullMask) (hp : s.poolBad.contains l = false) : (s.memWrite l m d false).poolBad = s.poolBad ∧ ∀ i, i < 128 →
      (s.memWrite l m d false).pool.get 0 (l * 128 + i) = if m.getLsbD i then d.getD i 0 else s.pool.get 0 (l * 128 + i) := by
  obtain ⟨c, k, e⟩ := s.memStore_cases l m d false
  unfold State.memWrite
  rw [hf, hh, e]
  simp only [Bool.false_eq_true, if_false, if_neg hm, hp]
  refine ⟨trivial, fun i hi => ?_⟩
  rw [Map.get_setRun_in (0 : Byte) _ s.pool (l * 128) i (by rw [mergeLine_length]; exact hi), mergeLine_getD _ _ _ _ hi, memLine_getD _ _ _ hi]

end Sys2Proof.Machine
end

