-- ==== Sys2Proof/WellFormed.lean ====
section
/-! DEFINITION. Well-formed commands: every operand that the syntax carries as a plain number or a list of bytes lies in the
width the spec gives its field. Ids of dies, cores, harts, queues of the collectives and ports are bounded by their types. -/

namespace Sys2Proof

/-- A master agent ID: die ID × 512 + unit number (R14). -/
def agentWf (a : Nat) : Bool := decide (a < 100 * 512)

/-- A requester: a master agent of the package, or the companion, whose numbers lie beyond those of the dies (R14, R375; log 76). -/
def requesterWf (a : Nat) : Bool := decide (a < 2 ^ 16)

/-- The caching agents, and the home's atomic unit (R352). -/
def cacheAgentWf (a : Nat) : Bool := decide (a ≤ 100) || decide (a = 127)

/-- A CSR access of 4 or 8 bytes in a die's register window (R7, R9). -/
def csrWf (agent addr size : Nat) : Bool := requesterWf agent && decide (addr < 2 ^ 52) && (size == 4 || size == 8)

/-- A queue number of a function: 0 to 4,095 (R428). -/
def queueWf (q : Nat) : Bool := decide (q < 4096)

/-- A coherence message: its agents, and data of no line or of one (R345, R356). -/
def CohMsg.wf (m : CohMsg) : Bool := requesterWf m.agent && decide (m.sender < 100 * 512) && (m.data.length == 0 || m.data.length == 128)

/-- Data of the length that LEN gives (Table 15-4). -/
def lenWf (len n : Nat) : Bool := match len with
  | 0 => n == 0
  | 1 => n == 64
  | _ => n == 128

/-- A Jexesk Link message: the widths of Table 15-4. -/
def LinkMsg.wf (m : LinkMsg) : Bool := decide (m.status < 16) && decide (m.addr < 2 ^ 52) && lenWf m.len.val m.data.length

/-- A fabric message: the widths of Table 16-5. -/
def FabMsg.wf (m : FabMsg) : Bool :=
  decide (m.ttl < 64) && decide (m.dst < 2 ^ 14) && decide (m.src < 2 ^ 14) && decide (m.status < 16) && decide (m.addr < 2 ^ 42) &&
    (m.data.length == 0 || m.data.length == 64 || m.data.length == 128)

/-- A flit: the header widths of Tables 15-2 and 16-2, and fifteen slots of 16 bytes. -/
def Flit.wf (f : Flit) : Bool := decide (f.ftype < 16) && decide (f.crdClass < 8) && decide (f.crdSlots < 2 ^ 12) && f.slots.length == 240

/-- A fault report: the widths of Table 17-4. -/
def FaultIn.wf (f : FaultIn) : Bool := decide (f.unit < 512) && decide (f.index < 2 ^ 16) && decide (f.access < 8) && decide (f.detail.length ≤ 28)

/-- A management request: an OFFSET of 8 bytes (R535). -/
def MgtReq.wf (m : MgtReq) : Bool := decide (m.offset < 2 ^ 64)

/-- The fields of CReady: a group of as many node IDs as NODES says (R463, R465). -/
def ColFields.wf (f : ColFields) : Bool := f.group.all (fun n => decide (n < 2 ^ 14)) && f.group.length == f.nodes

/-- The error counts of a check window each name one of the 66 physical bundles of a port (R33, R34). -/
def bundlesWf (l : List (Nat × Nat)) : Bool := l.all (fun e => decide (e.1 < 66))

/-- A request that waits at a channel carries at most the data of one line (R333, R339). -/
def ChanReq.wf (r : ChanReq) : Bool := agentWf r.agent && decide (r.data.length ≤ 128)

/-- Whether every operand of a command lies in the width the spec gives it. -/
def Instr.wellFormed : Instr → Bool
  | .csrWrite agent addr size _ => csrWf agent addr size
  | .csrAccessError agent addr _ => agentWf agent && decide (addr < 2 ^ 52)
  | .checkWindow _ errors => bundlesWf errors
  | .channelRead _ _ agent _ _ => agentWf agent
  | .channelWrite _ _ agent _ bytes _ _ => agentWf agent && bytes.length == 128
  | .holdRetryResend _ r => r.req.wf
  | .rds m | .rdx m | .upg m | .rdna m | .wrf m | .wrp m | .evc m | .wb m | .clean m | .data m | .recallData m | .cmp m | .cmpAck m | .fwdAck m
  | .invAck m | .wbAck m | .retry m | .retryResend m => m.wf
  | .atom m _ width off _ _ => m.wf && decide (width < 3) && decide (off + 4 * 2 ^ width ≤ 128)
  | .snpFwdS m target | .snpFwdX m target | .snpFwdNa m target | .snpInv m target | .snpRecall m target => m.wf && cacheAgentWf target
  | .baseDieCacheRead _ m _ => m.wf
  | .snoopTimeout _ agent => cacheAgentWf agent
  | .flitReceive _ f _ _ _ | .fabricFlitReceive _ f _ _ => f.wf
  | .ncRd _ m | .ncWr _ m | .ncCmp _ m | .biasFlip _ m | .biasDone _ m => m.wf
  | .msi _ vector | .jxlMsiWrite _ vector _ _ _ => decide (vector < 4096)
  | .kernelLaunch _ q _ | .sqDoorbell _ q _ _ | .cqDoorbell _ q _ | .stampRepoll _ q _ | .cqInterruptTimer _ q | .commandCompletion _ q _
  | .queueCreate _ q | .queueDelete _ q | .queueReset _ q | .cqCreate _ q | .cqDelete _ q | .asBind _ q | .xlInval _ q | .xlResolve _ q
  | .biasSet _ q | .hartStart _ q | .quiesce _ q | .resume _ q | .resetPartition _ q | .resetCore _ q | .statusRead _ q | .resetWarm _ q
  | .resetDie _ q | .flpDelta _ q _ | .mgtCmd _ q _ | .writeInline _ q | .nop _ q => queueWf q
  | .versionToken _ maxVer minVer _ => decide (maxVer < 256) && decide (minVer < 256)
  | .nodeDown _ node | .routeEpoch _ node _ | .fabricFaultNotice _ node _ | .thermalHold _ node | .thermalRelease _ node => decide (node < 2 ^ 14)
  | .nodeUp _ node version => decide (node < 2 ^ 14) && decide (version < 256)
  | .rrd _ m | .rwr _ m | .ratom _ m | .rrsp _ m | .rack _ m | .rnack _ m | .drow _ m | .dclaim _ m => m.wf
  | .remoteAccessTimeout tag => decide (tag < 2 ^ 16)
  | .cready _ rank fields version => decide (rank < 12288) && fields.wf && decide (version < 256)
  | .cdata _ rank chunk _ _ | .cack _ rank chunk => decide (rank < 12288) && decide (chunk < 2 ^ 22)
  | .collectiveAbort _ outcome error errNode => decide (outcome < 256) && decide (error < 2 ^ 16) && decide (errNode < 2 ^ 16)
  | .faultDetect l => l.first.wf && l.same.all FaultIn.wf
  | .mgtStatus r | .mgtTelemetry r | .mgtFaultRead r | .mgtFaultFree r | .mgtFlpLoad r | .mgtFlashRead r | .mgtFlashErase r | .mgtFlashWrite r
  | .mgtReset r | .mgtPkgLimit r | .mgtRtStage r | .mgtFenceErase r | .mgtRepairErase r | .secAdvance r | .secDebugChallenge r | .secDebugUnlock r
  | .secDebugLock r => r.wf
  | .pldmSensorRead _ sensor => decide (sensor < 2 ^ 16)
  | .getCertificate _ slot offset length => decide (slot < 8) && decide (offset < 2 ^ 16) && decide (length < 2 ^ 16)
  | .challenge _ slot nonce => decide (slot < 8) && nonce.length == 32
  | .getMeasurements _ nonce => nonce.length == 32
  | .longOperationDone _ status => decide (status < 256)
  | .hallwayPacketReceive _ _ _ | .hallwayReplayRequest _ | .hallwayPortTrain _ _ | .forwardedClockLoss _ | .widthToken _ _ | .negotiationRoundTimeout _
  | .negotiationBackoffExpiry _ | .pwrOkRise | .pwrOkFall _ | .powerDownCommitDone | .resetNFall _ | .resetNRise | .jxlResetNFall _ | .jxlResetNRise
  | .refclkLoss _ | .bootStageVerify _ _ _ _ | .floorplanLoad _ _ | .mgmtDieAnswerTimeout _ | .serviceLevelEntry _ | .dieOnline _
  | .coreSelfTestDone _ _ | .bringUpDeadline | .rateChange _ _ | .resetPreconditionTimeout _ | .partitionResetDone _ | .dieResetDone _
  | .quiesceDone _ | .quiesceTimeout _ | .controlCoreInstruction _ _ _ _ | .tWait _ _ _ | .tWaitall _ _ | .tokenWaitRelease _ | .tTkdone _ _ _
  | .tTkclr _ _ | .tGrant _ _ _ | .tGrget _ _ _ | .tInval _ | .tEnd _ | .tEndComplete _ | .cvtH2d _ _ _ _ | .cvtD2h _ _ _ _ | .tileIssue _ _
  | .executeQueuePass _ | .grantStallTimeout _ _ | .tMma _ _ _ _ | .tSload _ _ | .tSwap _ | .tEwise _ _ | .tStest _ _ _ | .arrayCompletion _
  | .arraySelfTestDue _ _ _ | .tVchain _ _ | .tRed _ _ | .tLd _ _ | .tSt _ | .cvtT _ _ | .tCupd _ _ | .vectorCompletion _ | .nanTrap _
  | .watchRecompute _ | .watchRecomputeDone _ | .watchReplay _ | .watchReplayDone _ _ | .watchDisClear _ | .kernelStart _ | .kernelTimeout _
  | .groupIntOp _ _ _ | .groupFpOp _ _ _ | .setp _ _ _ | .pop _ _ _ | .cvt _ _ _ | .ld _ _ _ _ _ | .st _ _ _ | .amo _ _ _ _ _ | .gFence _ _ _
  | .gBra _ _ _ | .gYield _ _ _ | .gCset _ _ _ | .gCwait _ _ _ | .gExit _ _ _ | .gBar _ _ _ | .gBarRelease _ | .gTkwait _ _ _
  | .gTkwaitRelease _ _ | .gTkpost _ _ _ | .gVote _ _ _ | .gShfl _ _ _ | .gCompact _ _ _ | .gExpand _ _ _ | .gMma _ _ _ | .gTld _ _ _ | .gTst _ _ _
  | .groupStarvationPromotion _ _ | .pantryScrubInterval _ _ _ | .panEccFirstClear _ | .sCopy _ _ _ | .sRoute _ _ _ | .sCombine _ _ _
  | .chunkComplete _ _ | .pageWalk _ _ _ _ _ | .channelTrain _ _ _ _ | .refreshDue _ | .annexTempPoll _ _ | .channelScrubTick _ _
  | .driftTrackingWindow _ | .channelRetrainDone _ _ _ | .waiterReservationExpiry _ | .dirtyAgeTick _ | .msauIdleRelease _ | .hartInstruction _ _ _
  | .lr _ _ | .sc _ _ | .lrSnoopDelayExpiry _ | .cboClean _ _ | .cboFlush _ _ | .cboInval _ _ | .cboZero _ _ | .wfi _ | .c2EntryTimer _
  | .c3EntryTimer _ | .hartWake _ | .interruptFileWrite _ _ _ | .linkTrain _ _ | .flitAckDue _ | .replayRequestFlit _ _ | .retrainRequestFlit _
  | .linkRetrainDone _ _ | .retrainLostTimeout _ | .companionSnoopTimeout _ | .biasFlipDone _ | .timeExchange _ | .tsRsp _ _ _ _ | .fnEnable _ _
  | .fnReset _ | .fabricPortTrain _ _ | .fabricRetrainDone _ _ | .routeCommit | .colQueueArm _ _ | .colQueueAbort _ | .colQueueDoorbell _
  | .colQueuePoll _ | .collectiveProgressWrite _ | .collectiveEnd _ | .collectiveTimeout _ | .faultNotice _ | .mergedNoticeSend _
  | .rootDigestCompare _ | .rootFailover | .noticeDeliveryTimeout _ | .dieHeartbeatLoss _ | .safeStateCommand _ | .fcLogFree _ _ | .fcDropsClear _
  | .captureSetClear _ _ _ | .fcPartCpuMsiWrite _ _ _ _ _ | .dumpAreaErase | .inputSample _ _ | .fastThrottleLift | .regulatorOutOfRange _
  | .budgetRecompute _ | .pkgLimitWrite _ _ | .powerMeasure _ _ _ _ | .powerEpochStart _ _ | .tokenGiveTimer _ | .state _ _ _ _ | .give _ _ _ _ _ | .cut _ _ _
  | .atticTempPoll _ _ | .dieTempPoll _ _
  | .throttleReleaseStep _ | .coreClockGate _ | .mctpMessage _ _ _ | .debugUnlockExpiry | .getVersion _ | .getCapabilities _
  | .negotiateAlgorithms _ _ _ | .vinRise | .supplyDroop _ _ | .coreResetDone _ => true

end Sys2Proof
end

