-- ==== Sys2Proof/Tests/Slice0.lean ====
section
/-! SUPPORT. Tests of the model's author. Each states one step on a small state, with a value taken from a rule of the spec, or shows that the
hypotheses of a statement in Certificates/Slice0/Obligations.lean are met by a concrete state. -/

set_option maxRecDepth 100000
set_option Elab.async false

namespace Sys2Proof.Tests
open Sys2Proof Sys2Proof.Machine

/-- A Floorplan with one partition that holds every core and hart, one window over the Attic, fabric port 0 and both Jexesk Link ports. -/
def tf : Floorplan :=
  { name := [], featuresReq := 0, revSet := [], parts := [{ id := 0, cores := BitVec.allOnes 640, harts := BitVec.allOnes 256 }], quartered := [], sets := [],
    windows := [{ part := 0, read := true, write := true, shared := true, noAlloc := false, base := 0, size := 36 * 2 ^ 33 }], routes := none, bundleFences := [],
    fabric := some { nodeId := 1, switched := false, portEnable := 1, portPart := [], table := { groups := [], entries := [] } },
    linkPorts := [{ enable := true, lanes16 := true, rate224 := true }, { enable := true, lanes16 := true, rate224 := true }],
    linkParts := [{ port := 0, slot256 := false, queues := 64 }], budgets := List.replicate 100 { min := 10, max := 1000, weight := 1 }, clocks := [], severity := [],
    watch := [], debugUnlock := false, mgmtWrite0 := false, secVersion := 0 }

/-- A running package at SL4 with the Floorplan `tf` in force: every die online, Attic channel 0 and the ports of link 0 in service. -/
def tb : State :=
  let s := { State.reset with flp := some tf, locked := true, pins := { State.reset.pins with ready := true } }
  let s := (s.setFld 94 0x20100 3 0 4).setFld 94 0x20180 3 0 2
  let s := (s.wr64 94 0x20130 (BitVec.allOnes 64)).wr64 94 0x20138 (BitVec.allOnes 36 |>.setWidth 64)
  (overList s (List.finRange 16) (fun s c => s.setChanState (.attic 0 c) 2)).setLinkSt (.jxl 0) 2

/-- What holds of the next state of a command. -/
def after (c : Instr) (s : State) (p : State → Prop) [∀ t, Decidable (p t)] : Bool :=
  match exec c s with
  | .next t => decide (p t)
  | .fault _ | .refused _ => false

/-! ### The Hallway and the registers -/

theorem test_misaligned_csr : (tb.phase = .running ∧ csrAligned 0x3F000000002 4 = false) ∧
    after (.csrAccessError 7 0x3F000000002 4) tb (fun t => t.sent = [.csrData 7 0, .contained 7 0x100]) ∧
    after (.csrWrite 7 0x3F000000002 4 9) tb (fun t => t.sent = [.contained 7 0x100]) := by decide +kernel
theorem test_csr_write : csrAgentOk 17000 = true ∧
    after (.csrWrite 51200 (0x3F000000000 + 7 * 0x1000000 + 0x10) 8 77) tb (fun t => (t.fn 7).sqBase = 77 ∧ t.fn 6 = tb.fn 6) ∧
    after (.csrWrite 17000 (0x30000000000 + 84 * 2 ^ 32 + 0xB0000 + 4 * 0x3021) 4 5) tb (fun t => t.rd 84 (0xB0000 + 4 * 0x3021) = 5) ∧
    after (.csrWrite 17000 (0x30000000000 + 99 * 2 ^ 32) 4 5) tb (fun t => t = tb) := by decide +kernel
/-- DIS of a core's WATCH_STATUS and VALID of its first-error register stand. -/
def tdis : State := (tb.setFld 0 (coreOff 5 0x804) 3 3 1).wr 0 (coreOff 5 0x888) 0x80000007
theorem test_csr_write_clears : (csrAligned (0x30000000000 + coreOff 5 0x804) 4 = true ∧ csrAligned 8 8 = true ∧ csrAgentOk 7 = false) ∧
    after (.csrWrite 17000 (0x30000000000 + coreOff 5 0x804) 4 8) tdis (fun t => t.fld 0 (coreOff 5 0x804) 3 3 = 0 ∧ t.rd 0 (coreOff 5 0x888) = 0x80000007) ∧
    after (.csrWrite 17000 (0x30000000000 + coreOff 5 0x888) 4 0x80000000) tdis (fun t => t.rd 0 (coreOff 5 0x888) = 0) ∧
    after (.csrWrite 17000 (0x30000000000 + coreOff 5 0x804) 4 0) tdis (fun t => t = tdis) ∧
    after (.csrWrite 7 (0x30000000000 + coreOff 5 0x804) 4 8) tdis (fun t => t = tdis) := by decide +kernel
theorem test_csr_write_acts : (csrMay 51200 0x3F000000000 = true ∧ csrMay 17000 0x3F000000000 = false ∧ csrMay 51200 0x30000000000 = false) ∧ after (.csrWrite 51200 0x3F000000000 4 2) tb (fun t => t.partState 0 = 5) ∧
    after (.csrWrite 17000 (0x30000000000 + 84 * 2 ^ 32 + 0x90810) 4 0x80000000) { tb with flp := none } (fun t => t.fld 84 0x90810 29 29 = 1) ∧
    after (.csrWrite 17000 (0x30000000000 + 84 * 2 ^ 32 + 0xA0008) 4 0x80000000) tb (fun t => t.fld 84 0xA0008 31 31 = 1) := by decide +kernel
theorem test_csr_write_completes : tb.fld 91 0xA0028 31 31 = 0 ∧ after (.csrWrite 48128 (0x30000000000 + 91 * 2 ^ 32 + 0xA0020) 8 (2 ^ 40 + 7)) tb (fun t => t.rd64 91 0xA0020 = 2 ^ 40 + 7 ∧ t.rd64 91 0xA0000 = 0) ∧
    after (.csrWrite 17000 (0x30000000000 + 32 * 2 ^ 32 + 0x60000) 4 1000) tb (fun t => t.fld 32 0x60000 9 0 = 1000) ∧ after (.csrWrite 17000 (0x30000000000 + 35 * 2 ^ 32 + 0x60000) 4 7) tb (fun t => t = tb) := by decide +kernel

/-- An ACTIVE Hallway port of die 36. -/
def hp : HalPort := ⟨36, 0⟩
def th : State := tb.setHalState hp 3
def pk : Packet := { src := 3, dst := 36, seq := 9, vc := .request, agent := 17000, payload := [] }
theorem test_hallway_accepts_once : (th.phase = .running ∧ th.halState hp = 3 ∧ deliveredAt hp.die.val pk.dst.val = true) ∧
    after (.hallwayPacketReceive hp pk true) th (fun t => t.sent = [.hallwayAck hp 9] ∧ (t.hallAcc.get Accepted.reset (3 * 128 + 36)).takes 9 = false) := by decide +kernel
theorem test_hallway_replay : (th.setPort hp { th.port hp with replay := [pk] }).halState hp = 3 ∧
    after (.hallwayPacketReceive hp pk false) th (fun t => t.sent = [.hallwayReplay hp]) ∧
    after (.hallwayReplayRequest hp) (th.setPort hp { th.port hp with replay := [pk] }) (fun t => t.sent = [.hallway hp pk]) := by decide +kernel
theorem test_hallway_train : (tb.halState hp ≠ 4 ∧ tb.halState hp ≠ 5) ∧
    after (.hallwayPortTrain hp (BitVec.allOnes 66)) tb (fun t => t.halState hp = 1 ∧ t.inbound hp = BitVec.allOnes 66 ∧ (t.port hp).attempt = 1) := by decide +kernel
theorem test_hallway_window : (∀ x ∈ windowsAfter (th.port hp).windows [(0, 16)], x.2.sum ≤ 16) ∧
    after (.checkWindow hp [(0, 16)]) th (fun t => t.halState hp = 3 ∧ t.sent = []) ∧ after (.forwardedClockLoss hp) th (fun t => t.halState hp = 2) := by decide +kernel

/-- A mask token: its bits above the CRC, and the CRC. -/
def tok (b : Nat) : BitVec 128 := BitVec.ofNat 128 (b * 2 ^ 16 + crc16 112 b)
/-- The body of a proposal of 33 bundles in attempt 1. -/
def prop33 : Nat := 0x5A * 2 ^ 104 + 1 * 2 ^ 96 + 33 * 2 ^ 88
def tp : State := match exec (.hallwayPortTrain hp (BitVec.allOnes 66)) tb with | .next t => t | _ => tb
theorem test_width_proposal : (bits (tok prop33).toNat 15 0 = crc16 112 ((tok prop33).toNat / 2 ^ 16) ∧ tp.halState hp = 1 ∧ (tp.port hp).attempt = 1 ∧ (tp.port hp).round = 1 ∧
      (tp.port hp).confirmed = none ∧ 16 ≤ min (tp.proposal hp) 33) ∧
    after (.widthToken hp (tok prop33)) tp (fun t => (t.port hp).round = 2 ∧ (t.port hp).peerProposal = some 33) := by decide +kernel
def tq : State := match exec (.widthToken hp (tok prop33)) tp with | .next t => t | _ => tb
theorem test_width_confirm : ((tq.port hp).round = 2 ∧ (tq.port hp).peerProposal = some 33) ∧
    after (.widthToken hp (tok (prop33 + 2 ^ 104))) tq (fun t => t.halState hp = 3 ∧ t.fld (halReg hp).1 (halReg hp).2 23 16 = 33 ∧ (t.port hp).round = 0) := by decide +kernel
def tbo : State := match exec (.negotiationRoundTimeout hp) tq with | .next t => t | _ => tb
theorem test_round_timeout : ((tq.port hp).round ≠ 0 ∧ tq.fld (halReg hp).1 (halReg hp).2 27 24 < 2) ∧
    after (.negotiationRoundTimeout hp) tq (fun t => t.fld (halReg hp).1 (halReg hp).2 27 24 = 1 ∧ (t.port hp).backingOff = true) ∧
    after (.negotiationBackoffExpiry hp) tbo (fun t => (t.port hp).round = 1 ∧ (t.port hp).attempt = 2 ∧ t.csr = tbo.csr) := by decide +kernel

/-! ### Memory channels -/

/-- Attic channel 0 of stack 0, in which line 0 lies. -/
def ch0 : Chan := .attic 0 0
def tm : State := { tb with pool := (⟨[]⟩ : Memory).set 0 3 9 }
def th3 : State := tm.setChanState ch0 3
theorem test_channel_write : (chanOf 0 = some ch0 ∧ tm.chanState ch0 = 2) ∧
    after (.channelWrite ch0 0 5 fullMask (List.replicate 128 7) false ⟨.clean, 0⟩) tm (fun t => t.pool.get 0 127 = 7 ∧ t.pool.get 0 128 = 0) ∧
    after (.channelWrite ch0 0 5 2 [1, 2] false ⟨.clean, 0⟩) tm (fun t => t.pool = (⟨[(1, 2), (3, 9)]⟩ : Memory)) ∧
    after (.channelWrite ch0 0 5 2 [1, 2] false ⟨.clean, 0⟩) { tm with poolBad := [0] } (fun t => t.pool = tm.pool ∧ t.poolBad = [0]) := by decide +kernel
theorem test_channel_read :
    after (.channelRead ch0 0 5 .clean 0) tm (fun t => t.sent = [.memData 5 0 ([0, 0, 0, 9] ++ List.replicate 124 0) false false]) ∧
    after (.channelRead ch0 0 5 .corrected 0) tm (fun t => t.rd 36 0x30004 = 1 ∧ t.poolBad = []) ∧
    after (.channelRead ch0 0 5 .uncorrectable 0) tm (fun t => t.poolBad = [0] ∧ t.pool = tm.pool) := by decide +kernel
theorem test_channel_train : ((tm.setChanState ch0 5).flp.isSome ∧ (tm.setChanState ch0 5).trainDue ch0 = true ∧ ((tm.setChanState ch0 5).chan ch0).hold = [] ∧ trains ch0 0 false = true) ∧
    after (.channelTrain ch0 ⟨0, []⟩ false false) (tm.setChanState ch0 5) (fun t => t.chanState ch0 = 2 ∧ t.pool = tm.pool) ∧
    after (.channelRetrainDone ch0 ⟨0, []⟩ false) th3 (fun t => t.chanState ch0 = 2) := by decide +kernel
def rq : ChanReq := { agent := 5, write := false, line := 0, mask := 0, data := [] }
theorem test_channel_service : after (.refreshDue ch0) tm (fun t => (t.chan ch0).refreshes = 1) ∧
    after (.channelScrubTick ch0 ⟨.clean, 0⟩) tm (fun t => (t.chan ch0).scrub = 1 ∧ t.pool = tm.pool) ∧
    after (.holdRetryResend ch0 ⟨rq, ⟨.clean, 0⟩⟩) tm (fun t => t.sent.length = 1) ∧
    after (.holdRetryResend ch0 ⟨rq, ⟨.clean, 0⟩⟩) th3 (fun t => (t.chan ch0).hold = [rq]) ∧ after (.driftTrackingWindow ch0) tm (fun t => t = tm) := by decide +kernel

/-! ### Coherence -/

/-- A request of the L2 agent 36 for line 0. -/
def m0 : CohMsg :=
  { line := 0, agent := 36, txn := 5, gseq := 0, data := [], mask := 2, poison := false, grant := .I, final := false, superseded := false, noData := false, starve := 0, sender := 36 }
/-- The same request by an agent without a cache. -/
def mm0 : CohMsg := { m0 with master := true }
def line0 : List Byte := [0, 0, 0, 9] ++ List.replicate 124 0
/-- The L2 of agent 36 shares line 0. -/
def tsh : State := tm.setLine 0 { HomeLine.reset with entry := some { st := .S, owner := 0, coarse := false, sharers := [36] } }
theorem test_home_ready : HomeReady tm .rdS m0 0 none ∧ HomeReady tm .rdX m0 0 none ∧ HomeReady tm .rdNA mm0 0 none ∧ HomeReady tm .wrF mm0 0 none ∧ HomeReady tm .wrP mm0 0 none ∧
    HomeReady tsh .upg m0 0 (some { st := .S, owner := 0, coarse := false, sharers := [36] }) ∧ HomeReady tm (.atom .add 2 0 5 0) mm0 0 none := by
  unfold HomeReady; and_intros <;> decide +kernel
theorem test_rds : after (.rds m0) tm (fun t => .coh 0x10 36 { m0 with data := line0, grant := .E, final := true } ∈ t.sent ∧ (t.line 0).txn.map (·.next) = some (some (ownerEntry 36)) ∧ t.pool = tm.pool) := by
  decide +kernel
theorem test_rdx : after (.rdx m0) tm (fun t => .coh 0x10 36 { m0 with gseq := 1, data := line0, grant := .M, final := true } ∈ t.sent ∧ (t.line 0).gseq = 1) := by decide +kernel
theorem test_upg : after (.upg m0) tsh (fun t => .coh 0x12 36 { m0 with gseq := 1 } ∈ t.sent ∧ (t.line 0).txn.map (·.next) = some (some (ownerEntry 36))) := by decide +kernel
theorem test_rdna : after (.rdna mm0) tm (fun t => .coh 0x10 36 { mm0 with data := line0, grant := .I, final := true } ∈ t.sent) := by decide +kernel
theorem test_wrf : (m0.poison = false ∧ tm.lineFenced 0 = false) ∧
    after (.wrf { mm0 with data := List.replicate 128 1 }) tm (fun t => t.pool.get 0 3 = 1 ∧ t.pool.get 0 127 = 1 ∧ t.pool.get 0 128 = 0) := by decide +kernel
theorem test_wrp : after (.wrp { mm0 with data := [4, 6] }) tm (fun t => t.pool = (⟨[(1, 6), (3, 9)]⟩ : Memory)) := by decide +kernel
theorem test_atom : (tm.sharedBias 0 = false ∧ tm.memBad 0 = false) ∧
    after (.atom mm0 .add 1 0 5 0) tm (fun t => .coh 0x12 36 { mm0 with gseq := 1, data := leBytes 16 0x09000000 } ∈ t.sent ∧ (t.buffered 0).map (·.take 4) = some [5, 0, 0, 9]) := by decide +kernel

def own0 : State := tm.setLine 0 { HomeLine.reset with entry := some (ownerEntry 36), gseq := 7 }
def wb0 : CohMsg := { m0 with gseq := 7, data := List.replicate 128 2 }
theorem test_evc : after (.evc m0) tsh (fun t => (t.line 0).entry = none) := by decide +kernel
theorem test_wb : ((own0.line 0).txn = none ∧ (ownerEntry 36).own = some 36 ∧ own0.lineFenced 0 = false ∧ own0.lineHeld 0 = false) ∧
    after (.wb wb0) own0 (fun t => t.pool.get 0 3 = 2 ∧ (t.line 0).entry = none ∧ .coh 0x16 36 wb0 ∈ t.sent) := by decide +kernel
theorem test_clean : after (.clean wb0) own0 (fun t => t.pool.get 0 0 = 2 ∧ (t.line 0).entry = some (ownerEntry 36)) ∧
    after (.clean { wb0 with gseq := 6 }) own0 (fun t => t.pool = own0.pool ∧ t.sent.length = 1) := by decide +kernel

/-- L2 0 holds line 0 in M. -/
def x0 : L2Line := { st := .M, data := line0, age := 0, poison := false, gseq := 7 }
def tl2 : State := own0.setL2 0 { L2.reset with lines := (⟨[]⟩ : Map L2Line).set x0 0 x0 |>.set { x0 with st := .I } 0 x0 }
theorem test_snoop_hyps : tl2.agentLive 36 = true ∧ tl2.l2Line 0 0 = some x0 ∧ (∀ i, i < 4 → (tl2.hart (4 * 0 + i)).delay = false) := by decide +kernel
def sn : CohMsg := { m0 with agent := 37 }
theorem test_snp_fwd : after (.snpFwdS sn 36) tl2 (fun t => .coh 0x10 37 { sn with data := line0, grant := .S } ∈ t.sent ∧ (t.l2Line 0 0).map (·.st) = some .O) ∧
    after (.snpFwdX sn 36) tl2 (fun t => .coh 0x10 37 { sn with data := line0, grant := .M } ∈ t.sent ∧ t.l2Line 0 0 = none) ∧
    after (.snpFwdNa sn 36) tl2 (fun t => .coh 0x10 37 { sn with data := line0, grant := .I } ∈ t.sent ∧ t.l2s = tl2.l2s) := by decide +kernel
theorem test_snp_recall : after (.snpRecall sn 36) tl2 (fun t => t.l2Line 0 0 = none ∧ t.pool = tl2.pool ∧ t.sent.length = 1) ∧
    after (.snpInv sn 36) tl2 (fun t => t.l2Line 0 0 = none ∧ .coh 0x15 (homeDieOf 0) { sn with sender := 36 } ∈ t.sent) := by decide +kernel

def ttx : State := tm.setLine 0 { HomeLine.reset with txn := some { kind := .rdX, msg := m0, needAck := true, snoops := [37, 38], supplier := none, cmpSent := true, next := some (ownerEntry 36), since := 0 } }
def ak : CohMsg := { m0 with sender := 37, data := List.replicate 128 3 }
theorem test_txn_answers : (ttx.sev 0x13 = 0x0F01 ∧ ttx.lineFenced 0 = false ∧ ttx.lineHeld 0 = false) ∧
    after (.fwdAck ak) ttx (fun t => (t.line 0).txn.map (·.snoops) = some [38]) ∧ after (.invAck ak) ttx (fun t => (t.line 0).txn.map (·.snoops) = some [38] ∧ t.sent = []) ∧
    after (.recallData ak) ttx (fun t => t.pool.get 0 0 = 3 ∧ (t.line 0).txn.map (·.snoops) = some [38]) ∧
    after (.snoopTimeout 0 38) ttx (fun t => (UnitKind.cacheAgent, 38) ∈ t.fencedU) := by decide +kernel
def tdone : State := tm.setLine 0 { HomeLine.reset with txn := some { kind := .rdX, msg := m0, needAck := true, snoops := [], supplier := none, cmpSent := true, next := some (ownerEntry 36), since := 0 } }
theorem test_cmp_ack : (tdone.atomStopped { kind := .rdX, msg := m0, needAck := true, snoops := [], supplier := none, cmpSent := true, next := some (ownerEntry 36), since := 0 } = false) ∧
    after (.cmpAck m0) tdone (fun t => (t.line 0).txn = none ∧ (t.line 0).entry = some (ownerEntry 36) ∧ t.sent = []) := by decide +kernel

def want (k : ReqKind) : Want := { kind := k, msg := m0, data := none, cmp := false, refused := false }
def twant : State := tm.setL2 0 { L2.reset with wants := [want .rdS] }
def dat : CohMsg := { m0 with data := line0, grant := .E, final := true, gseq := 4 }
theorem test_data : after (.data dat) twant (fun t => t.l2Line 0 0 = some { st := .E, data := line0, age := 0, poison := false, gseq := 4 } ∧ (t.l2 0).wants = [] ∧
    t.sent = [.coh 0x13 (homeDieOf 0) m0]) := by decide +kernel
theorem test_cmp : after (.cmp { m0 with gseq := 3 }) (tm.setL2 0 { L2.reset with lines := ⟨[(0, { x0 with st := .S })]⟩, wants := [want .upg] }) (fun t =>
    (t.l2Line 0 0).map (fun y => (y.st, y.gseq)) = some (.M, 3) ∧ (t.l2 0).wants = []) := by decide +kernel
theorem test_wb_ack : after (.wbAck m0) (tm.setL2 0 { L2.reset with buffer := [(.wb, m0)] }) (fun t => (t.l2 0).buffer = []) := by decide +kernel
theorem test_retry : after (.retry m0) twant (fun t => (t.l2 0).wants = [{ want .rdS with refused := true }]) ∧
    after (.retryResend { m0 with agent := 5 }) { tm with refused := [(.rdNA, { m0 with agent := 5, starve := 14 })] } (fun t => t.refused = [] ∧
      t.sent = [.coh 4 (homeDieOf 0) { m0 with agent := 5, starve := 15 }]) := by decide +kernel
theorem test_reservation_expiry : after (.waiterReservationExpiry 0) (tm.setLine 0 { HomeLine.reset with reserved := some (36, 5, 0) }) (fun t => (t.line 0).reserved = none) := by decide +kernel
theorem test_base_read : after (.baseDieCacheRead 0 sn true) (tm.setBase 0 { lines := ⟨[(0, line0)]⟩, wants := [] }) (fun t =>
      t.sent = [.coh 0x10 37 { sn with data := line0, grant := .S, final := true }]) ∧
    after (.baseDieCacheRead 0 sn false) tm (fun t => t.sent = [.coh 1 (homeDieOf 0) { sn with agent := 0, sender := 0 }] ∧ (t.baseCache 0).wants.length = 1) := by decide +kernel
theorem test_dirty_age : after (.dirtyAgeTick 0) (tm.setL2 0 { L2.reset with lines := ⟨[(0, { x0 with age := 7 })]⟩ }) (fun t => (t.l2Line 0 0).map (·.age) = some 8) := by decide +kernel
def tms : State := { tm with msau := tm.msau.set [] (homeOf 0) [(0, line0)] }
theorem test_msau_release : (tms.buffered 0 = some line0) ∧
    after (.msauIdleRelease 0) tms (fun t => t.pool = tm.pool ∧ t.buffered 0 = none) := by decide +kernel

/-! ### The accelerator core -/

/-- A core that runs kernel 0 in its Pantry aperture. -/
def kc : Core := { Core.reset with phase := 1, kernel := some 0, pantryVa := 0x1000000, pc := 0x1000000, x := ⟨[(5, 0x1000040)]⟩ }
def tc : State := tb.setCore 0 kc
theorem test_core_fetched : CoreFetched tc 0 8 (tc.fetchAt 0 0 .coreFetch kc.pc 8).1 ∧ CoreFetched tc 0 4 (tc.fetchAt 0 0 .coreFetch kc.pc 4).1 := by
  unfold CoreFetched; and_intros <;> decide +kernel
/-- Kernel 0 of cores 0 and 1. -/
def l0 : Launch := { Launch.none with cores := [0, 1], started := true }
def tl : State := { tc with launches := ⟨[(0, l0)]⟩ }
def withCore (k : Core) : State := tb.setCore 0 k
theorem test_t_wait : (kc.tkErr.getLsbD 3 = false) ∧ after (.tWait 0 3 0) tc (fun t => (t.core 0).pc = kc.pc + 4) ∧
    after (.tWait 0 3 5) tc (fun t => (t.core 0).waiting = some (.wait 3 0x1000040) ∧ (t.core 0).pc = kc.pc) := by decide +kernel
theorem test_t_waitall : kc.allDone 3 = true ∧ after (.tWaitall 0 3) tc (fun t => (t.core 0).pc = kc.pc + 4) ∧
    after (.tTkclr 0 3) (withCore { kc with tkDone := ⟨[(3, 2)]⟩, tkExpect := ⟨[(3, 2)]⟩ }) (fun t => (t.core 0).tkDone.get 0 3 = 0 ∧ (t.core 0).tkExpect.get 0 3 = 0) := by decide +kernel
theorem test_t_tkdone : after (.tTkdone 0 31 3) (withCore { kc with tkDone := ⟨[(3, 2)]⟩ }) (fun t => (t.core 0).reg 31 = 2) ∧ after (.tTkdone 0 0 3) tc (fun t => (t.core 0).reg 0 = 0) := by decide +kernel
theorem test_t_grant : after (.tGrant 0 3 5) (withCore { kc with grants := ⟨[(3, 191)]⟩ }) (fun t => (t.core 0).grants.get 0 3 = 255) ∧
    after (.tGrget 0 1 3) (withCore { kc with grants := ⟨[(3, 191)]⟩ }) (fun t => (t.core 0).reg 1 = 191) := by decide +kernel
theorem test_t_inval : after (.tInval 0) (withCore { kc with l1i := [7] }) (fun t => (t.core 0).l1i = []) ∧ after (.tEnd 0) tc (fun t => (t.core 0).phase = 2 ∧ (t.core 0).waiting = some .ending) := by
  decide +kernel
def asd : AsDesc := { root := 0, faultCq := 0, adu := false, windows := [(0x1000000, 0x2000000, 0x41)] }
def tw : State := withCore { kc with space := some asd }
theorem test_cvt_window : asd.windows[0]? = some (0x1000000, 0x2000000, 0x41) ∧ after (.cvtH2d 0 1 5 0) tw (fun t => (t.core 0).reg 1 = 0x2000040) ∧
    after (.cvtD2h 0 1 5 0) tw (fun t => (t.core 0).reg 1 = 0x8000000000000000) ∧ after (.cvtD2h 0 1 0 0) tw (fun t => (t.core 0).reg 1 = 0) := by decide +kernel

theorem test_cc_addi : after (.controlCoreInstruction 0 0x00328093 [] []) tc (fun t => (t.core 0).reg 1 = 0x1000043 ∧ (t.core 0).pc = kc.pc + 4) := by decide +kernel
theorem test_cc_lui_auipc : after (.controlCoreInstruction 0 0x12345137 [] []) tc (fun t => (t.core 0).reg 2 = 0x12345000) ∧
    after (.controlCoreInstruction 0 0x00001117 [] []) tc (fun t => (t.core 0).reg 2 = 0x1001000) := by decide +kernel
theorem test_cc_add_sub : after (.controlCoreInstruction 0 0x005280B3 [] []) tc (fun t => (t.core 0).reg 1 = 0x2000080) ∧
    after (.controlCoreInstruction 0 0x405000B3 [] []) tc (fun t => (t.core 0).reg 1 = 0xFFFFFFFFFEFFFFC0) := by decide +kernel
theorem test_cc_jal_branch : after (.controlCoreInstruction 0 0x008000EF [] []) tc (fun t => (t.core 0).reg 1 = 0x1000004 ∧ (t.core 0).pc = 0x1000008) ∧
    after (.controlCoreInstruction 0 0x00000463 [] []) tc (fun t => (t.core 0).pc = 0x1000008) ∧
    after (.controlCoreInstruction 0 0x00028463 [] []) tc (fun t => (t.core 0).pc = 0x1000004) := by decide +kernel
theorem test_cc_ld_sd : (kc.poisoned = [] ∧ kc.flaws = [] ∧ kc.inAperture (kc.reg 5) = true ∧ (kc.reg 5).toNat % 8 = 0) ∧
    after (.controlCoreInstruction 0 0x0002B183 [] []) (withCore { kc with pantry := ⟨[(0x40, 5), (0x47, 0x80)]⟩ }) (fun t => (t.core 0).reg 3 = 0x8000000000000005) ∧
    after (.controlCoreInstruction 0 0x0052B423 [] []) tc (fun t => (t.core 0).pantry = (⟨[(0x48, 0x40), (0x4B, 1)]⟩ : Memory)) := by decide +kernel
theorem test_cc_ecall : after (.controlCoreInstruction 0 0x00000073 [] []) tl (fun t => (t.core 0).kernel = none ∧ (t.core 0).phase = 0 ∧
    (t.launch 0).map (fun l => l.reports.map (fun r => (r.1, r.2.1))) = some [(0, 0x106)]) := by decide +kernel

/-- A tile instruction word of a class and function with given operand bits. -/
def tword (cls func ops : Nat) : DWord := BitVec.ofNat 64 (0x3F + cls * 2 ^ 13 + func * 2 ^ 29 + ops * 2 ^ 32)
def tins (cls func ops : Nat) : TileIns := { word := tword cls func ops, a := 0, b := 0, tag := 0, pc := 0, strict := false, frm := 0, stages := [] }
theorem test_tile_issue : (tileLegal (tword 0 0 0) = true ∧ tileLegal (tword 1 0 0) = true ∧ kc.freeTag = 0 ∧ tc.writesOut (remAgent 0 .coreData) = false) ∧
    after (.tileIssue 0 (tword 0 0 0)) tc (fun t => (t.core 0).accq.length = 1 ∧ (t.core 0).pc = kc.pc + 8 ∧ (t.core 0).inflight.length = 1) ∧
    after (.tileIssue 0 (tword 1 0 0)) tc (fun t => (t.core 0).exq.length = 1 ∧ (t.core 0).tkExpect.get 0 0 = 1) := by decide +kernel
theorem test_queue_pass : ({ kc with exq := [tins 1 0 0] } : Core).mayStart = true ∧ after (.executeQueuePass 0) (withCore { kc with exq := [tins 1 0 0] }) (fun t => (t.core 0).arrq = [tins 1 0 0] ∧ (t.core 0).exq = []) := by
  decide +kernel
theorem test_wait_release : ({ kc with tkDone := ⟨[(3, 2)]⟩ } : Core).reached 3 2 = true ∧
    after (.tokenWaitRelease 0) (withCore { kc with waiting := some (.wait 3 2), tkDone := ⟨[(3, 2)]⟩ }) (fun t => (t.core 0).waiting = none ∧ (t.core 0).pc = kc.pc + 4) := by decide +kernel
theorem test_t_end_complete : (kc.inflight = [] ∧ kc.watch.sample = none ∧ kc.groups.cells.all (fun g => g.2.live == 0) = true ∧ kc.tkErr = 0 ∧ kc.errTag = none) ∧
    after (.tEndComplete 0) ({ tl with cores := tl.cores.set Core.reset 0 { kc with waiting := some .ending } } : State) (fun t => (t.core 0).kernel = none ∧
      (t.launch 0).map (fun l => l.reports.map (fun r => (r.1, r.2.1))) = some [(0, 0)]) := by decide +kernel
/-- An instruction that waits for grant 0. -/
def gi : TileIns := { tins 0 0 0 with word := tword 0 0 0 ||| (1 <<< 27) }
theorem test_grant_stall : (kc.acquire gi = none ∧ kc.freeSlot.isSome = true) ∧ after (.grantStallTimeout 0 .stream) ({ tl with cores := tl.cores.set Core.reset 0 { kc with accq := [gi] } } : State) (fun t => (t.core 0).kernel = none) := by
  decide +kernel

theorem test_array_head : (∀ f : Fin 5, ({ kc with arrq := [tins 1 f.val 0] } : Core).mayStart = true ∧ (tins 1 f.val 0).func = f.val ∧ (({ kc with arrq := [tins 1 f.val 0] } : Core).acquire (tins 1 f.val 0)).isSome = true) ∧
    blockOk ((tins 1 0 0).at_ 0 128) (128 * (mmaR 0 * 128 * fmtBits 0 / 8)) = true ∧ tc.quartered 0 = false := by decide +kernel
theorem test_array_ready : ArrayHead (withCore { kc with arrq := [tins 1 0 0] }) 0 0 (tins 1 0 0) [] ∧ ArrayHead (withCore { kc with arrq := [tins 1 3 0] }) 0 3 (tins 1 3 0) [] := by
  unfold ArrayHead; and_intros <;> decide +kernel
theorem test_t_mma_empty : after (.tMma 0 [] [] []) (withCore { kc with arrq := [tins 1 0 0] }) (fun t => (t.core 0).arr.map (fun r => (r.error, r.words)) = [(0x10D, [])] ∧ (t.core 0).arrq = []) := by decide +kernel
theorem test_t_sload_absent : (let i := tins 1 1 (2 ^ 25); i.ops 25 25 = 1 ∧ i.b.getLsbD (i.ops 31 26) = false ∧ i.ops 18 16 ≠ 7 ∧ i.ops 20 19 ≠ 3) ∧
    after (.tSload 0 []) (withCore { kc with arrq := [tins 1 1 (2 ^ 25)] }) (fun t => ((t.core 0).sub 0).shadow = .absent 0 ∧ (t.core 0).arr.map (·.error) = [0]) := by decide +kernel
theorem test_t_swap : after (.tSwap 0) (withCore { kc with arrq := [tins 1 2 0], subs := ⟨[(0, { active := .empty, shadow := .absent 3, chain := none })]⟩ }) (fun t =>
    (t.core 0).sub 0 = { active := .absent 3, shadow := .empty, chain := none }) := by decide +kernel
theorem test_t_stest : after (.tStest 0 true false) (withCore { kc with arrq := [tins 1 4 0] }) (fun t => t.fld (coreDie 0) (coreOff 0 0x404) 15 0 = 1) ∧ (tc.dieOnline (coreDie 0) = true ∧ kc.testDue = none ∧ kc.samplePhase = none) ∧
    after (.arraySelfTestDue 0 true false) (withCore { kc with watch := { kc.watch with sample := some { own := true, tag := 0, fmt := 0, sub := 0, depth := 128, boundS := 0, elements := [], scaleA := 0, scaleB := 0, epi := false, complete := true, phase := 3 } } }) (fun t => (t.core 0).testDue = some (true, false)) ∧
    after (.arraySelfTestDue 0 true false) tc (fun t => (t.core 0).stPattern = !kc.stPattern ∧ t.fld (coreDie 0) (coreOff 0 0x404) 15 0 = 1) := by decide +kernel
def ri : Running := { kc.run (tins 1 0 0) 0 with words := [(3, 7)] }
theorem test_array_completion : (kc.canWrite false ri.ins = true ∧ ri.error = 0 ∧ ri.nan = none ∧ ri.bytes = [] ∧ ri.tracker = none ∧ fieldOf ri.ins.word 28 27 ≠ 2 ∧ ri.ins.word.getLsbD 12 = false) ∧
    after (.arrayCompletion 0) (withCore { kc with arr := [ri], inflight := [ri.ins] }) (fun t => (t.core 0).tiles.get 0 3 = 7 ∧ (t.core 0).inflight = [] ∧ (t.core 0).tkDone.get 0 0 = 1 ∧ (t.core 0).arr = []) ∧
    after (.vectorCompletion 0) (withCore { kc with vec := some ri, inflight := [ri.ins] }) (fun t => (t.core 0).tiles.get 0 3 = 7 ∧ (t.core 0).inflight = [] ∧ (t.core 0).tkDone.get 0 0 = 1 ∧ (t.core 0).vec = none) := by
  decide +kernel
theorem test_vector_head : ∀ f : Fin 6, (let k := { kc with vecq := [tins 2 f.val 0] }; k.mayStart = true ∧ (tins 2 f.val 0).func = f.val ∧ k.canRead false (tins 2 f.val 0) = true ∧ (k.acquire (tins 2 f.val 0)).isSome = true) := by
  decide +kernel
theorem test_vector_ready : VectorHead (withCore { kc with vecq := [tins 2 1 0] }) 0 1 (tins 2 1 0) [] ∧ (tins 2 0 0).spoiled = false := by
  unfold VectorHead; and_intros <;> decide +kernel
/-- Operand bits of legal vector instructions: a chain of one copy stage into a register, a reduction, and a conversion of one row. -/
def chainI : TileIns := { tins 2 0 (2 ^ 18) with stages := [2] }
theorem test_vector_forms : (chainI.ops 19 18 = 1 ∧ chainI.ops 21 20 < 2 ∧ chainI.ops 23 22 = 0 ∧ chainI.ops 17 17 = 0 ∧ chainI.stages.length = chainI.ops 16 14 + 1 ∧ stKind 2 ≠ 6 ∧ stKind 2 ≠ 8 ∧ stageOk 0 0 true 2 = true ∧
      stageRegions 0 2 = []) ∧
    (let i := tins 2 1 (2 ^ 19); i.ops 20 19 = 1 ∧ i.ops 27 24 ≤ 9 ∧ i.ops 17 0 = 0 ∧ regionOk (0, 128 * redBytes 0 0, redBytes 0 0) = true) ∧
    (let i := { tins 2 5 (2 ^ 20 + 1) with b := 0x8000 }; i.ops 21 20 = 1 ∧ i.ops 15 0 = 1 ∧ blockOk 0 (128 * (tyOf 0).width / 8) = true ∧ blockOk 0x8000 (128 * (tyOf 0).width / 8) = true ∧
      rangesMeet 0 (128 * (tyOf 0).width / 8) 0x8000 (128 * (tyOf 0).width / 8) = false) ∧
    (let i := tins 2 2 256; blockOk 0 32768 = true ∧ blockOk (i.ops 15 0 * 128) 32768 = true ∧ rangesMeet 0 32768 (i.ops 15 0 * 128) 32768 = false) ∧
    blockOk ((tins 2 3 0).at_ 0 128) 65536 = true := by decide +kernel
theorem test_nan_trap : (kc.monitor = false ∧ kc.ending = none) ∧ after (.nanTrap 0) ({ tl with cores := tl.cores.set Core.reset 0 { kc with nanTrap := true } } : State) (fun t => (t.core 0).kernel = none ∧
    (t.launch 0).map (fun l => l.reports.map (fun r => (r.1, r.2.1))) = some [(0, 0x114)]) := by decide +kernel
def smp (n : Nat) : Sample := { own := true, tag := 0, fmt := 0, sub := 0, depth := 128, boundS := 0, elements := [], scaleA := 0, scaleB := 0, epi := false, complete := true, phase := n }
def withSample (n : Nat) : State := withCore { Core.reset with watch := { Core.reset.watch with sample := some (smp n) } }
theorem test_watch : after (.watchRecompute 0) (withSample 0) (fun t => (t.core 0).watch.sample = some (smp 1)) ∧ after (.watchRecomputeDone 0) (withSample 1) (fun t => (t.core 0).watch.sample = none) ∧
    after (.watchReplay 0) (withSample 2) (fun t => (t.core 0).watch.sample = some (smp 3)) ∧ after (.watchReplayDone 0 []) (withSample 3) (fun t => (t.core 0).watch.sample = none) ∧
    after (.watchDisClear 0) (tb.setFld 0 (coreOff 0 0x804) 3 3 1) (fun t => t.fld 0 (coreOff 0 0x804) 3 3 = 0) := by decide +kernel

/-! ### Thread groups -/

/-- A word of a group: operation, VD, VA, VB, VC, FN, with predicate p0. -/
def gw (op vd va vb vc fn : Nat) : DWord := BitVec.ofNat 64 (op * 2 ^ 56 + vd * 2 ^ 48 + va * 2 ^ 40 + vb * 2 ^ 32 + vc * 2 ^ 24 + fn * 2 ^ 8)
/-- A word with a 32-bit immediate. -/
def gwi (op vd va imm : Nat) : DWord := BitVec.ofNat 64 (op * 2 ^ 56 + vd * 2 ^ 48 + va * 2 ^ 40 + imm * 2 ^ 8 + 8)
/-- A word with its low flag bits. -/
def gwf (w : DWord) (low : Nat) : DWord := w ||| BitVec.ofNat 64 low
def p00 : Path := { pc := 0x1000000, mask := BitVec.allOnes 32, state := .ready }
/-- Group 0 with all lanes live; register 1 holds lane numbers and 100 in lane 31, register 2 holds 3 in every lane; p1 is lanes 0, 1 and 31. -/
def g0 : Group :=
  { Group.reset with
    live := BitVec.allOnes 32, ring := [p00], p := ⟨[(1, 0x80000003)]⟩,
    v := ⟨(List.range 31).tail.map (fun l => (32 + l, BitVec.ofNat 32 l)) ++ [(63, 100)] ++ (List.range 32).map (fun l => (64 + l, 3))⟩ }
def kg : Core := { kc with groups := ⟨[(0, g0)]⟩, grpCount := 1, grpVregs := 64 }
def tg : State := tb.setCore 0 kg
def tg' : State := (tg.fetchAt 0 3 (.groupFetch 0) p00.pc 8).1
/-- Words of the group tests: add, setp lt, pop and, ballot, shuffle, compact, expand, FP32 add, cvt FP32, setp eq, mma, tile read and write. -/
def gwords : List DWord := [gw 0 3 1 2 0 0, gwf (gw 0 3 1 2 0 0) 1, gw 0x42 2 1 2 0 0, gw 0x44 2 1 1 0 8, gwf (gw 0x70 3 1 0 0 2) 1, gw 0x71 3 1 2 0 0, gw 0x72 3 1 1 4 0, gw 0x73 3 1 1 0 0,
  gw 0x10 3 1 2 0 0, gw 0x45 3 1 0 0 0x33, gw 0x40 2 1 2 0 0, gw 0x74 8 16 24 8 0, gw 0x80 3 1 2 0 0, gw 0x81 0 1 2 2 0]
/-- The words of loads, stores, atomics, fences and control. -/
def gwords2 : List DWord := [gw 0x50 3 4 0 0 2, gw 0x51 0 4 2 0 2, gw 0x52 3 4 2 0 0, gw 0x53 0 0 0 0 4, gwi 0x60 0 0 64, gw 0x61 0 0 0 0 0, gw 0x62 1 0 0 0 0, gw 0x63 1 0 0 0 0,
  gw 0x64 0 0 0 0 0, gw 0x65 0 0 0 0 0, gwf (gw 0x66 1 1 0 0 0) 4, gw 0x67 1 0 0 0 0]
theorem test_group_ready : GroupReady tg 0 0 (gw 0 3 1 2 0 0) g0 p00 tg' := by unfold GroupReady; and_intros <;> decide +kernel
theorem test_group_words : (gwords ++ gwords2).all (fun w => gLegal w && !gStrict w && (gSources w ++ gDests w).all (fun r => r < 64)) = true := by decide +kernel
def gAfter (t : State) : Group := (t.core 0).group 0
theorem test_g_int : after (.groupIntOp 0 0 (gw 0 3 1 2 0 0)) tg (fun t => (gAfter t).vreg 3 31 = 103 ∧ (gAfter t).vreg 3 0 = 3 ∧ (gAfter t).ring.map (·.pc) = [0x1000008]) ∧
    after (.groupIntOp 0 0 (gwf (gw 0 3 1 2 0 0) 1)) tg (fun t => (gAfter t).u.get 0 3 = 3 ∧ (gAfter t).v = g0.v) := by decide +kernel
theorem test_g_setp_pop : after (.setp 0 0 (gw 0x42 2 1 2 0 2)) tg (fun t => (gAfter t).pred 2 = 0x00000007) ∧ after (.pop 0 0 (gw 0x44 2 1 1 0 8)) tg (fun t => (gAfter t).pred 2 = 0x80000003) := by decide +kernel
theorem test_g_vote : after (.gVote 0 0 (gwf (gw 0x70 3 1 0 0 2) 1)) tg (fun t => (gAfter t).u.get 0 3 = 0x80000003) := by decide +kernel
theorem test_g_shfl : after (.gShfl 0 0 (gw 0x71 3 2 1 0 0)) tg (fun t => (gAfter t).vreg 3 0 = 3) ∧ after (.gShfl 0 0 (gw 0x71 3 1 2 0 0)) tg (fun t => (gAfter t).vreg 3 9 = 3) := by decide +kernel
theorem test_g_compact : after (.gCompact 0 0 (gw 0x72 3 1 1 4 0)) tg (fun t => (gAfter t).vreg 3 2 = 100 ∧ (gAfter t).vreg 3 3 = 0 ∧ (gAfter t).u.get 0 4 = 3) := by decide +kernel
theorem test_g_expand : after (.gExpand 0 0 (gw 0x73 3 1 1 0 0)) tg (fun t => (gAfter t).vreg 3 31 = 2 ∧ (gAfter t).vreg 3 2 = 0) := by decide +kernel
theorem test_g_fp : after (.groupFpOp 0 0 (gw 0x10 3 6 7 0 0)) (tb.setCore 0 { kg with groups := ⟨[(0, { g0 with v := ⟨[(6 * 32, 0x3F800000), (7 * 32, 0x40000000)]⟩ })]⟩ }) (fun t => (gAfter t).vreg 3 0 = 0x40400000) := by decide +kernel
theorem test_g_cvt_setp : after (.cvt 0 0 (gw 0x45 3 1 0 0 0)) tg (fun t => (gAfter t).ring.map (·.pc) = [0x1000008]) ∧ after (.setp 0 0 (gw 0x40 2 2 2 0 0)) tg (fun t => (gAfter t).pred 2 = 0xFFFFFFFF) := by decide +kernel
theorem test_g_tile : (∀ n : Fin 128, kg.tileBusy false 0 0 n.val = false) ∧
    after (.gTst 0 0 (gw 0x81 0 2 1 2 0)) tg (fun t => (t.core 0).tile 0 3 100 = 3 ∧ (t.core 0).tile 0 3 31 = 0) ∧
    after (.gTld 0 0 (gw 0x80 3 2 1 0 0)) (tb.setCore 0 { kg with tiles := ⟨[(tileKey 0 3 100, 9)]⟩ }) (fun t => (gAfter t).vreg 3 31 = 9) := by decide +kernel

/-- Registers 4 and 5 hold a Pantry address of each lane. -/
def gm : Group := { g0 with v := ⟨(List.range 32).map (fun l => (64 + l, 3)) ++ (List.range 32).map (fun l => (128 + l, BitVec.ofNat 32 (0x1000100 + 4 * l)))⟩ }
def tgm : State := tb.setCore 0 { kg with groups := ⟨[(0, gm)]⟩, pantry := ⟨[(0x104, 7)]⟩ }
theorem test_g_addresses : ∀ l ∈ lanesOf (gm.guard (gw 0x50 3 4 0 0 2) (BitVec.allOnes 32)), (gm.addr (gw 0x50 3 4 0 0 2) l).toNat % gMemBytes (gw 0x50 3 4 0 0 2) = 0 ∧ kg.inAperture (gm.addr (gw 0x50 3 4 0 0 2) l) = true := by
  decide +kernel
theorem test_g_ld : after (.ld 0 0 (gw 0x50 3 4 0 0 2) [] []) tgm (fun t => (gAfter t).vreg 3 1 = 7 ∧ (gAfter t).vreg 3 0 = 0) := by decide +kernel
theorem test_g_st : after (.st 0 0 (gw 0x51 0 4 2 0 2)) tgm (fun t => (t.core 0).panNat 0x104 4 = 3 ∧ (t.core 0).panNat 0x17C 4 = 3 ∧ (t.core 0).panNat 0x180 4 = 0) := by decide +kernel
def tamo : State := tb.setCore 0 { kg with groups := ⟨[(0, { gm with ring := [{ p00 with mask := 2 }] })]⟩, pantry := ⟨[(0x104, 7)]⟩ }
theorem test_g_amo : lanesOf (2#32) = [1] ∧ after (.amo 0 0 (gw 0x52 3 4 2 0 1) [] []) tamo (fun t => (gAfter t).vreg 3 1 = 7 ∧ (t.core 0).panNat 0x104 4 = 10) := by decide +kernel
theorem test_g_fence : tg'.groupBusy 0 0 = false ∧ after (.gFence 0 0 (gw 0x53 0 0 0 0 5)) (tb.setCore 0 { kg with l1d := ⟨[(4, [])]⟩ }) (fun t => (t.core 0).l1d = ⟨[]⟩) := by decide +kernel
theorem test_g_bra : after (.gBra 0 0 (gwf (gwi 0x60 0 0 64) 0x20)) tg (fun t => (gAfter t).ring.map (fun q => (q.pc, q.mask)) = [(0x1000008, 0x7FFFFFFC), (0x1000040, 0x80000003)]) ∧
    after (.gBra 0 0 (gwi 0x60 0 0 64)) tg (fun t => (gAfter t).ring.map (·.pc) = [0x1000040]) := by decide +kernel
theorem test_g_barrier : after (.gYield 0 0 (gw 0x61 0 0 0 0 0)) tg (fun t => (gAfter t).ring.map (·.pc) = [0x1000008]) ∧ after (.gCset 0 0 (gw 0x62 1 0 0 0 0)) tg (fun t => (gAfter t).mask.get 0 1 = 0xFFFFFFFF) ∧
    after (.gCwait 0 0 (gw 0x63 1 0 0 0 0)) tg (fun t => (gAfter t).ring.map (·.state) = [.ready]) ∧ after (.gBar 0 0 (gw 0x65 0 0 0 0 0)) tg (fun t => (gAfter t).ring.map (·.state) = [.barWait]) := by decide +kernel
theorem test_g_exit : after (.gExit 0 0 (gw 0x64 0 0 0 0 0)) tg (fun t => gAfter t = Group.reset) := by decide +kernel
theorem test_g_tkwait : after (.gTkwait 0 0 (gwf (gw 0x66 1 1 0 0 0) 4)) tg (fun t => (gAfter t).ring.map (·.pc) = [0x1000008]) ∧
    after (.gTkwait 0 0 (gwf (gw 0x66 1 1 0 0 0) 4)) (tb.setCore 0 { kg with groups := ⟨[(0, { g0 with u := ⟨[(1, 5)]⟩ })]⟩ }) (fun t => (gAfter t).ring.map (·.state) = [.tkWait 1 5]) ∧
    after (.gTkpost 0 0 (gw 0x67 1 0 0 0 0)) tg (fun t => (t.core 0).tkDone.get 0 1 = 1 ∧ (t.core 0).tkExpect.get 0 1 = 1) := by decide +kernel
def inState (st : PathState) : State := tb.setCore 0 { kg with groups := ⟨[(0, { g0 with ring := [{ p00 with state := st }] })]⟩, tkDone := ⟨[(1, 5)]⟩ }
theorem test_g_release : (kg.runs = true ∧ kg.flaws = []) ∧ after (.gBarRelease 0) (inState .barWait) (fun t => (gAfter t).ring = [p00]) ∧ after (.gTkwaitRelease 0 0) (inState (.tkWait 1 5)) (fun t => (gAfter t).ring = [p00]) ∧
    after (.groupStarvationPromotion 0 0) tg (fun t => (gAfter t).promoted = true) := by decide +kernel
/-- Launch 0 of core 0 alone, not started. -/
def lw : Launch := { Launch.none with cores := [0], entry := 0x4000, args := 0x50, pantryVa := 0x1000000, timeout := 5 }
def tlw : State := { tb with launches := ⟨[(0, lw)]⟩ }
theorem test_kernel_start : (tlw.launchBlock 0 0 = none ∧ (tlw.core 0).isIdle = true) ∧ after (.kernelStart 0) tlw (fun t => (t.core 0).pc = 0x4000 ∧ (t.core 0).reg 2 = 0x1600000 ∧ (t.core 0).reg 12 = 1 ∧
      (t.launch 0).map (·.started) = some true) ∧
    after (.kernelTimeout 0) ({ tl with launches := ⟨[(0, { l0 with timeout := 5 })]⟩ } : State) (fun t => (t.core 0).kernel = none) := by decide +kernel

/-! ### Streams and page walks -/

/-- A Pantry that holds numbers at offsets: offset, size, value. -/
def pan (l : List (Nat × Nat × Nat)) : Memory := l.foldl (fun m x => m.setRun 0 x.1 (leBytes x.2.1 x.2.2)) ⟨[]⟩
def withStr (func : Nat) (l : List (Nat × Nat × Nat)) : State := tb.setCore 0 { kc with accq := [tins 0 func 0], inflight := [tins 0 func 0], pantry := pan l }
theorem test_stream_head (f : Fin 3) : StreamHead (withStr f.val []) 0 f.val (tins 0 f.val 0) [] 0 := by
  revert f; unfold StreamHead; decide +kernel
/-- A plain copy of 64 bytes, and a fill. -/
def cpy (mode : Nat) : List (Nat × Nat × Nat) := [(0, 8, 0x100), (8, 8, 0x200), (0x10, 4, 2 ^ 26 + 2 ^ 19 + 2 ^ 18 + mode * 2 ^ 20), (0x14, 4, 64), (0x18, 8, if mode = 3 then 0xAB else 0), (0x100, 8, 5)]
theorem test_copy_ok : (∀ m : Fin 2, let k := (withStr 0 (cpy (3 * m.val))).core 0; let d := copyDesc (k.pan 0 128) (tins 0 0 0)
    d.ok k = true ∧ d.runCount = 1 ∧ d.dstP = true ∧ d.mode = 3 * m.val ∧ d.src + d.len0 ≤ d.dst) := by decide +kernel
theorem test_s_copy : after (.sCopy 0 [] []) (withStr 0 (cpy 0)) (fun t => (t.core 0).panNat 0x200 8 = 5 ∧ (t.core 0).panNat 0x240 8 = 0 ∧ ((t.core 0).slotAt 0).phase = 3) ∧
    after (.sCopy 0 [] []) (withStr 0 (cpy 3)) (fun t => (t.core 0).panNat 0x200 8 = 0xAB ∧ (t.core 0).panNat 0x238 1 = 0xAB) := by decide +kernel
/-- A route of one pair to expert 1, whose counter stands at 2. -/
def rte : List (Nat × Nat × Nat) := [(0, 8, 0x1000), (8, 8, 0x600), (0x10, 4, 3), (0x14, 4, 64), (0x18, 8, 64), (0x20, 4, 1), (0x24, 1, 1), (0x25, 1, 0), (0x26, 2, 2), (0x28, 4, 0x400), (0x2C, 4, 0x800),
  (0x400, 2, 1), (0x820, 8, 0x4000), (0x828, 8, 0x5000), (0x830, 8, 0x900), (0x838, 4, 4), (0x83C, 1, 7), (0x83D, 1, 3), (0x900, 8, 2)]
theorem test_route_ok : let k := (withStr 1 rte).core 0; let d := routeDesc (k.pan 0 128) (tins 0 1 0); let x := k.expert d 1
    d.routeOk = true ∧ d.tableOk k d.len false = true ∧ d.tokens = 1 ∧ d.k = 1 ∧ d.ctrl = 3 ∧ k.panNat d.idx 2 = 1 ∧ 1 < d.experts ∧ x.enabled = true ∧ x.pan = true ∧ k.panNat x.counter 8 < x.cap ∧ d.idx + 2 ≤ x.counter ∧
    d.table + 32 * d.experts ≤ x.counter := by decide +kernel
theorem test_s_route : after (.sRoute 0 [] []) (withStr 1 rte) (fun t => (t.core 0).panNat 0x600 4 = 2 ^ 18 + 2 ∧ (t.core 0).panNat 0x900 8 = 3 ∧ ((t.core 0).slotAt 0).result = [1, 0, 0, 0]) := by
  decide +kernel
/-- A combine of 32 elements of expert 1, slot 2, with gate 0.5 and element 2.0. -/
def cmb : List (Nat × Nat × Nat) := rte ++ [(0x14, 4, 32), (0x18, 8, 128), (0x400, 4, 0x3F000000), (0x600, 4, 2 ^ 18 + 2), (0x5100, 4, 0x40000000)]
theorem test_combine_ok : let k := (withStr 2 cmb).core 0; let d := routeDesc (k.pan 0 128) (tins 0 2 0); let x := k.expert d 1
    d.combineOk = true ∧ d.tableOk k (d.len * d.isz) true = true ∧ d.len = 32 ∧ k.panNat d.map 4 = 2 ^ 18 + 2 ∧ x.enabled = true ∧ panFits (x.outBase + 2 * 2 ^ x.log2) 128 = true := by decide +kernel
theorem test_s_combine : after (.sCombine 0 [] []) (withStr 2 cmb) (fun t => (t.core 0).panNat 0x1000 4 = 0x3F800000 ∧ (t.core 0).panNat 0x1004 4 = 0) := by decide +kernel
theorem test_pantry_scrub : (tb.dieOnline (coreDie 0) = true ∧ (tb.core 0).clock ≠ 2 ∧ (tb.core 0).flaws = []) ∧ after (.pantryScrubInterval 0 [31] []) tb (fun t => (t.core 0).scrubRow.get 0 0 = 1 ∧ (t.core 0).scrubRow.get 0 31 = 0) ∧
    after (.panEccFirstClear 0) (tb.setFld 0 (coreOff 0 0x888) 31 0 9) (fun t => t.fld 0 (coreOff 0 0x888) 31 0 = 0) := by decide +kernel
def slotOf (chunks : Nat) : State := withCore { kc with inflight := [tins 0 0 0], slots := ⟨[(0, { StreamSlot.reset with phase := 3, ins := some (tins 0 0 0), desc := [], chunks := chunks, written := 1 })]⟩ }
theorem test_chunk_complete : (slotOf 1).strBusy 0 0 0 = false ∧ after (.chunkComplete 0 0) (slotOf 2) (fun t => ((t.core 0).slotAt 0).returned = 1 ∧ (t.core 0).tkDone.get 0 0 = 1) ∧
    after (.chunkComplete 0 0) (slotOf 1) (fun t => (t.core 0).slotAt 0 = StreamSlot.reset ∧ (t.core 0).inflight = []) := by decide +kernel
/-- Tables at 0x1000, 0x2000 and 0x3000 of the Attic of node 1, and a leaf at level 2 in the third: readable, writable, for users, accessed and dirty. -/
def twalk : State := { withCore { kc with waiting := some (.walk 0x40 .read), space := some { asd with root := 0x40000001 } } with
  pool := (((⟨[]⟩ : Memory).setRun 0 0x1000 (leBytes 8 (0x40000002 * 1024 + 1))).setRun 0 0x2000 (leBytes 8 (0x40000003 * 1024 + 1))).setRun 0 0x3000 (leBytes 8 0xD7) }
def hit : WalkHit := { pte := 0xD7, level := 2, at_ := 0x3000, path := [(4, 0x10000000801), (3, 0x10000000C01)] }
theorem test_page_walk : (twalk.walkFrom 0x40 4 (fieldOf (0x40000001 : DWord) 43 0) [] = .ok hit ∧ ptePermits hit.pte .read = true ∧ pteA hit.pte = true ∧ twalk.xlWalk.get [] (coreDie 0) = []) ∧
    after (.pageWalk 0 .coreData 0x40 .read false) twalk (fun t => (t.core 0).waiting = none ∧ (t.core 0).xlD.length = 1 ∧ t.pool = twalk.pool) := by decide +kernel

/-! ### Harts -/

/-- The state that an access of a hart leaves. -/
def stateOf {α : Type} (r : HRes α) : State := match r with | .ok s _ | .wait s | .trap s _ => s
/-- Hart 0 runs in machine mode at local address 0x4000 of node 1; x5 holds an address of line 2 of the Pool. -/
def hh : Hart := { Hart.reset with state := 1, pc := 0x40000004000, x := ⟨[(5, 0x40000000100), (6, 7)]⟩ }
def thart (w : Nat) : State := ({ tb with pool := (⟨[]⟩ : Memory).setRun 0 0x4000 (leBytes 4 w) }).setHart 0 hh
def fetch (s : State) (n : Nat) : HRes Bool := s.hFetch 0 (s.hart 0).pc n
def fetched (r : HRes Bool) : Bool := match r with | .ok _ z => !z | .wait _ | .trap _ _ => false
theorem fetched_state {r : HRes Bool} (h : fetched r = true) : r = .ok (stateOf r) false := by
  cases r with
  | ok s z => cases z with | false => rfl | true => cases h
  | wait s => cases h
  | trap s t => cases h
theorem test_hart_ready : HartReady (thart 0x005300B3) 0 0x005300B3 (stateOf (fetch (thart 0x005300B3) 4)) :=
  ⟨by decide +kernel, by decide +kernel, by decide +kernel, by decide +kernel, fetched_state (by decide +kernel)⟩
theorem test_hart_add : after (.hartInstruction 0 0x005300B3 []) (thart 0x005300B3) (fun t => (t.hart 0).reg 1 = 0x40000000107 ∧ (t.hart 0).pc = 0x40000004004) ∧
    after (.hartInstruction 0 0x406280B3 []) (thart 0x406280B3) (fun t => (t.hart 0).reg 1 = 0x400000000F9) := by decide +kernel
theorem test_hart_jumps : after (.hartInstruction 0 0x008000EF []) (thart 0x008000EF) (fun t => (t.hart 0).reg 1 = 0x40000004004 ∧ (t.hart 0).pc = 0x40000004008) ∧
    after (.hartInstruction 0 0x00628463 []) (thart 0x00628463) (fun t => (t.hart 0).pc = 0x40000004004) ∧
    after (.hartInstruction 0 0x00528463 []) (thart 0x00528463) (fun t => (t.hart 0).pc = 0x40000004008) := by decide +kernel
theorem test_hart_tile_traps : rvDecode32 0x0000000B = .tile false 0 0 0 0 0 ∧
    after (.hartInstruction 0 0x0000000B []) ((thart 0x0000000B).setHart 0 { hh with resv := some 4, csrs := ⟨[(0x305, 0x40000008000)]⟩ }) (fun t =>
      (t.hart 0).csr 0x341 = 0x40000004000 ∧ (t.hart 0).csr 0x342 = 2 ∧ (t.hart 0).pc = 0x40000008000 ∧ (t.hart 0).resv = none) := by decide +kernel
theorem test_wfi : after (.wfi 0) (thart 0x10500073) (fun t => (t.hart 0).state = 2 ∧ (t.hart 0).pc = 0x40000004004) := by decide +kernel
/-- The L2 of hart 0 holds line 2 of the Pool in M, as its home knows. -/
def xm : L2Line := { st := .M, data := 9 :: List.replicate 127 1, age := 0, poison := false, gseq := 7 }
def towned (w : Nat) (r : Option Nat) : State :=
  (((thart w).setHart 0 { hh with resv := r }).setLine 2 { HomeLine.reset with entry := some (ownerEntry 36), gseq := 7 }).setL2 0 { L2.reset with lines := ⟨[(2, xm)]⟩ }
theorem test_lr_hyps : (let s := stateOf (fetch (towned 0x1002B0AF none) 4)
    let h := s.hart 0
    match s.hProbe 0 { h.acc false true with write := false } (h.reg 5) 8 0 .read with | .ok t sp => decide (sp = .pool 0x100 0 ∧ t.l2Line 0 2 = some xm) | _ => false) = true ∧
    rvDecode32 0x1002B0AF = .amo 2 3 1 5 0 ∧ rvDecode32 0x1862B0AF = .amo 3 3 1 5 6 := by decide +kernel
theorem test_lr : after (.lr 0 0x1002B0AF) (towned 0x1002B0AF none) (fun t => (t.hart 0).resv = some 2 ∧ (t.hart 0).delay = true ∧ (t.hart 0).reg 1 = 0x0101010101010109) := by decide +kernel
theorem test_sc : after (.sc 0 0x1862B0AF) (towned 0x1862B0AF none) (fun t => (t.hart 0).reg 1 = 1 ∧ t.l2Line 0 2 = some xm) ∧
    after (.sc 0 0x1862B0AF) (towned 0x1862B0AF (some 2)) (fun t => (t.hart 0).reg 1 = 0 ∧ (t.hart 0).resv = none ∧ (t.l2Line 0 2).map (·.data.take 9) = some [7, 0, 0, 0, 0, 0, 0, 0, 1]) := by decide +kernel
def cboW (n : Nat) : Nat := encI 0x0F 2 0 5 n
theorem test_takes_line : TakesLine (towned 0 none) 0 (.pool 0x100 0) (towned 0 none) 2 0 xm := ⟨rfl, ⟨xm, rfl⟩, by decide +kernel, rfl⟩
theorem test_cbo_may : CboMay hh 0 ∧ CboMay hh 1 ∧ CboMay hh 4 ∧ CboMay { hh with priv := 0, csrs := ⟨[(0x10A, 0x90), (0x30A, 0x90)]⟩ } 0 ∧ ¬ CboMay { hh with priv := 0, csrs := ⟨[(0x10A, 0x90), (0x30A, 0x90)]⟩ } 1 := by
  unfold CboMay; decide +kernel
theorem test_cbo_line : CboLine (towned (cboW 1) none) 0 0x40000000100 (towned (cboW 1) none) 2 :=
  ⟨{ pa := 0x40000000100, pbmt := 0, host := false }, rfl, .inr ⟨rfl, by decide +kernel, 0x100, 0x100, 0, { part := 0, read := true, write := true, shared := true, noAlloc := false, base := 0, size := 36 * 2 ^ 33 },
    by decide +kernel, by decide +kernel, rfl, by decide +kernel, by decide +kernel⟩⟩
theorem test_cbo_hyps : let s := stateOf (fetch (towned (cboW 1) none) 4)
    (s.hart 0).priv = 3 ∧ (s.hart 0).bit 0x300 17 = false ∧ (s.hart 0).pmpOk ((s.hart 0).acc false false) 0x40000000100 = true ∧ s.dpa 0x40000000100 = .here 0x100 ∧ s.place 0x100 = some 0x100 ∧
    s.hartPart 0 = some 0 ∧ (s.windowOf 0 0x100 false false).isSome ∧ isHost 2 = false ∧ s.lineBlocked 2 = false ∧ s.l2Busy 0 2 = false ∧ s.buffered 2 = none ∧ s.compOwns 2 = false ∧
    s.ownerOf 2 = some (0, xm) ∧ s.lineFenced 2 = false ∧ s.lineHeld 2 = false := by decide +kernel
theorem test_cbo_clean : after (.cboClean 0 5) (towned (cboW 1) none) (fun t => t.l2Line 0 2 = some { xm with st := .E } ∧ t.sent.length = 1) := by decide +kernel
theorem test_cbo_flush : after (.cboFlush 0 5) (towned (cboW 2) none) (fun t => t.pool.get 0 0x100 = 9 ∧ t.pool.get 0 0x17F = 1 ∧ (t.line 2).entry = none) ∧
    after (.cboInval 0 5) (towned (cboW 0) none) (fun t => t.pool.get 0 0x100 = 9 ∧ (t.line 2).entry = none) := by decide +kernel
theorem test_cbo_zero_hyps : (let s := stateOf (fetch (towned (cboW 4) none) 4)
    match s.hProbe 0 ((s.hart 0).acc true false) 0x40000000100 128 0 .write with | .ok t sp => decide (sp = .pool 0x100 0 ∧ t.lineBlocked 2 = false ∧ t.l2Busy 0 2 = false) | _ => false) = true := by decide +kernel
theorem test_cbo_zero : after (.cboZero 0 5) (towned (cboW 4) none) (fun t => t.l2Line 0 2 = none ∧ (t.line 2).entry = none ∧ t.pool.get 0 0x100 = 0) := by decide +kernel
theorem test_hart_timers : after (.lrSnoopDelayExpiry 0) (tb.setHart 0 { hh with delay := true }) (fun t => (t.hart 0).delay = false) ∧
    after (.c2EntryTimer 0) { tb.setHart 0 { hh with state := 2 } with l1s := ⟨[(0, { CpuL1.reset with d := [4] }), (1, { CpuL1.reset with d := [4] })]⟩ } (fun t => (t.hart 0).state = 3 ∧ t.l1s.cells.map (·.1) = [1]) ∧
    after (.c3EntryTimer 0) (overList tb [0, 1, 2, 3] (fun s i => s.setHart i { hh with state := 3 })) (fun t => (t.hart 3).state = 4 ∧ (t.hart 4).state = 0) := by decide +kernel
def tirq : State := tb.setHart 0 { hh with state := 3, csrs := ⟨[(0x304, 2), (0x344, 2)]⟩, files := ⟨[]⟩ }
theorem test_interrupt_file : 1 ≤ fileMax 8 ∧ after (.interruptFileWrite 0 8 1) tb (fun t => (t.hart 0).files.get [] 8 = [1] ∧ (t.hart 0).files.get [] 7 = []) ∧
    after (.interruptFileWrite 0 0 1) (tb.setHart 0 { hh with fenced := true, dropped := 255 }) (fun t => (t.hart 0).dropped = 255) := by decide +kernel
theorem test_hart_wake : Nat.land (tirq.hartMip (tirq.hart 0)) ((tirq.hart 0).csr 0x304).toNat ≠ 0 ∧ after (.hartWake 0) tirq (fun t => (t.hart 0).state = 1) := by decide +kernel

/-! ### The Jexesk Link -/

def lk : LinkState := { LinkState.reset with rxSeq := 6, credits := ⟨[(0, 64)]⟩ }
def tlk : State := tb.setLink (.jxl 0) lk
def flit (ft seq : Nat) : Flit := { seq := BitVec.ofNat 12 seq, ack := 0, ftype := ft, crdClass := 2, crdSlots := 5, slots := [] }
theorem test_flit_receive : after (.flitReceive 0 (flit 0 7) (flitCrc (.jxl 0) (flit 0 7)) 0 0) tlk (fun t => (t.link (.jxl 0)).rxSeq = 7 ∧ (t.link (.jxl 0)).unacked = 1) ∧
    after (.flitReceive 0 (flit 0 7) (flitCrc (.jxl 0) (flit 0 7) + 1) 0 0) tlk (fun t => (t.link (.jxl 0)).discarding = true ∧ t.sent.length = 1) ∧
    after (.flitReceive 0 (flit 1 0) (flitCrc (.jxl 0) (flit 1 0)) 0 0) tlk (fun t => (t.link (.jxl 0)).credits.get 0 2 = lk.credits.get 0 2 + 5 ∧ t.sent = []) := by decide +kernel
theorem test_flit_ack_due : after (.flitAckDue (.jxl 0)) (tb.setLink (.jxl 0) { lk with unacked := 4 }) (fun t => (t.link (.jxl 0)).unacked = 0 ∧
    t.sent = [.linkFlit (.jxl 0) { seq := 0, ack := 6, ftype := 1, crdClass := 0, crdSlots := 0, slots := [] }]) := by decide +kernel
def lrp : LinkState := { lk with replay := [flit 0 4, flit 0 5], replays := ⟨[(4, 7), (5, 7)]⟩ }
theorem test_replay_request : ((lrp.acked 4).replay = [flit 0 5] ∧ (lrp.acked 4).tries (flit 0 5) < 8) ∧ after (.replayRequestFlit (.jxl 0) 4) (tb.setLink (.jxl 0) lrp) (fun t =>
    t.sent.head? = some (.linkFlit (.jxl 0) (flit 0 5)) ∧ (t.link (.jxl 0)).replays = ⟨[(5, 8)]⟩) := by decide +kernel
theorem test_retrain : after (.retrainRequestFlit (.jxl 0)) tlk (fun t => t.linkSt (.jxl 0) = 3 ∧ t.sent = []) ∧ after (.linkRetrainDone 0 true) ((tlk.setLinkSt (.jxl 0) 3).setFld 92 0x80000 23 16 16) (fun t => t.linkSt (.jxl 0) = 2) ∧
    after (.linkRetrainDone 0 false) (tlk.setLinkSt (.jxl 0) 3) (fun t => (t.link (.jxl 0)).attempts = 1 ∧ t.linkSt (.jxl 0) = 3) := by decide +kernel
theorem test_link_train : ((tb.linkPort 1).enable = true ∧ tb.pins.jxlResetN = true ∧ tb.linkSt (.jxl 1) ≤ 1 ∧ (tb.link (.jxl 1)).failed = 0 ∧ tb.fencedU.contains (.port, 2001) = false) ∧
    after (.linkTrain 1 0) tb (fun t => t.linkSt (.jxl 1) = 2 ∧ t.fld 93 0x80000 23 16 = 16 ∧ (t.link (.jxl 1)).tsFirst = true) := by decide +kernel
theorem test_time_exchange : after (.timeExchange 0) tb (fun t => t.sent.length = 1) ∧
    after (.tsRsp 0 100 140 160) { tb.setLink (.jxl 0) { lk with tsFirst := true } with time := 200 } (fun t => t.rd64 92 0x80028 = 0 ∧ (t.link (.jxl 0)).tsFirst = false) ∧
    after (.tsRsp 0 100 240 260) { tb.setLink (.jxl 0) { lk with tsFirst := true } with time := 200 } (fun t => t.rd64 92 0x80028 = 100) := by decide +kernel
theorem test_msi : (tb.partPort 0 < 2 ∧ tb.hostReachable 0 = true) ∧ after (.msi 0 4095) tb (fun t => t.sent = [.linkMsi 0 0 0 0]) ∧
    after (.msi 0 4095) (tb.setFn 0 { tb.fn 0 with msi := ⟨[(4095, { MsiEntry.reset with mask := true })]⟩ }) (fun t => ((t.fn 0).msi.get MsiEntry.reset 4095).pending = true) := by decide +kernel

/-- A request of function 0 for `n` bytes at link address `a`. -/
def lm (a n : Nat) : LinkMsg := { opcode := 0x20, fn := 0, tag := 3, status := 0, addr := a / 64 * 64, aux := BitVec.ofNat 27 (a % 64 + (n - 1) * 64), len := 3, mask := 1, data := [8], poison := false }
theorem test_nc_hyps : tm.fnOfPort 0 0 = true ∧ tm.fnOfPort 1 0 = false ∧ tm.ncDecode 0 (lm 0 8) false = .pool 0 ∧ tm.ncDecode 0 (lm 0 8) true = .pool 0 ∧
    tm.ncDecode 0 (lm (0x30000000000 + 94 * 2 ^ 32 + 0x20100) 4) false = .csr (0x30000000000 + 94 * 2 ^ 32 + 0x20100) ∧ tm.lineBlocked 0 = false ∧ tm.compHolds 0 true = false ∧
    tm.lineNow 0 = (tm.memLine 0, false) ∧ (tm.lineRead 0 (dieStack 92)).2 = false ∧ tm.compNamed 0 = false ∧ tm.lineFenced 0 = false ∧ tm.lineHeld 0 = false := by decide +kernel
/-- R363: a sharer supplies the line, not memory. -/
theorem test_nc_rd_sharer : after (.ncRd 0 (lm 0 8)) ((tm.setBase 5 { tm.baseCache 5 with lines := ⟨[(0, List.replicate 128 7)]⟩ }).setLine 0 { HomeLine.reset with entry := sharersEntry [5] })
    (fun t => t.sent.map (fun m => match m with | .link _ r => r.data | _ => []) = [List.replicate 8 7] ∧ t.rd64 36 0x40028 = 1) := by decide +kernel
theorem test_nc_rd : after (.ncRd 0 (lm 0 8)) tm (fun t => t.sent.map (fun m => match m with | .link _ r => (r.opcode, r.status, r.data) | _ => (0, 9, [])) = [(0x22, 0, [0, 0, 0, 9, 0, 0, 0, 0])]) ∧
    after (.ncRd 0 (lm (0x30000000000 + 94 * 2 ^ 32 + 0x20100) 4)) tm (fun t => t.sent.map (fun m => match m with | .link _ r => (r.opcode, r.status, r.data) | _ => (0, 9, [])) = [(0x22, 0, leBytes 4 tm.slStatus.toNat)]) ∧
    after (.ncRd 1 (lm 0 8)) (tm.setLinkSt (.jxl 1) 2) (fun t => t.sent.map (fun m => match m with | .link _ r => (r.opcode, r.status) | _ => (0, 9)) = [(0x22, 1)]) := by decide +kernel
theorem test_nc_wr : after (.ncWr 0 (lm 0 128)) tm (fun t => t.pool = (⟨[(0, 8), (3, 9)]⟩ : Memory) ∧ t.sent.length = 1) := by decide +kernel
theorem test_nc_cmp : after (.ncCmp 0 { lm 0 4 with data := [1, 2, 3, 4] }) { tb.setHart 7 { hh with nc := [{ tag := 3, addr := 0, size := 4, reply := none }] } with hostReads := [(3, 7)] } (fun t =>
    t.hostReads = [] ∧ (t.hart 7).nc.map (·.reply) = [some ([1, 2, 3, 4], false)]) := by decide +kernel
/-- A flip of one page, in the companion's bias where bit 0 of its auxiliary field is set. -/
def bm (a : Nat) : LinkMsg := { lm 0 1 with addr := a, aux := 1 }
theorem test_bias_flip : (tm.windowOf 0 (36 * 2 ^ 33) false false = none ∧ (tm.windowOf 0 0 false false).isSome = true ∧ tm.setReady 0 = true ∧ ∀ l ∈ tm.pageLines 0, tm.inService (l * 128) = true) ∧
    after (.biasFlip 0 (bm (36 * 2 ^ 33))) tm (fun t => t.sent.length = 1 ∧ t.flips = tm.flips) ∧ after (.biasFlip 0 (bm 0)) tm (fun t => t.nextFlip = 1 ∧ (t.flip 0).map (fun f => (f.pages, f.toShared)) = some ([0], true)) := by
  decide +kernel
/-- Every line of page 0 has ended its part of a flip to shared bias. -/
def tflip : State := { overList tm (tm.pageLines 0) (fun s l => s.setLine l { HomeLine.reset with bias := some true }) with
  flips := ⟨[(4, some { pages := [0], started := [0], toShared := true, from_ := some (0, bm 0), cmd := none })]⟩ }
theorem test_bias_flip_done : tflip.pageFlipped 0 true = true ∧ after (.biasFlipDone 4) tflip (fun t => t.flip 4 = none ∧ t.shared = [0] ∧ t.sent.length = 1) ∧ after (.biasDone 0 (bm 0)) tm (fun t => t = tm) := by
  decide +kernel
def tsnoop : State := tm.setLine 0 { HomeLine.reset with txn := some { kind := .rdX, msg := m0, needAck := true, snoops := [100], supplier := none, cmpSent := false, next := none, since := 0 } }
theorem test_link_lost : tsnoop.compPort = some 0 ∧ after (.retrainLostTimeout 0) (tb.setLinkSt (.jxl 0) 3) (fun t => t.linkSt (.jxl 0) = 1 ∧ (t.fn 0).lost = true ∧ (t.fn 0).episode = 1 ∧ (t.fn 0).lostCause = 1) ∧
    after (.companionSnoopTimeout 0) tsnoop (fun t => t.linkSt (.jxl 0) = 1 ∧ (t.fn 0).lost = true ∧ (t.fn 0).lostCause = 2) := by decide +kernel

/-! ### Queues -/

def cq0 : Cq := { base := 0x8000000000001000, entries := 16, head := 0, tail := 15, phase := true, vector := none, count := 0, micros := 0, unsent := 1, waiting := [] }
def sq0 : Sq := { base := 0x8000000000000000, entries := 16, cq := 0, weight := 1, head := 0, tail := 0, n := 0, stopped := 0, rereads := 0, fetched := [], running := [], results := [], deleting := none }
def slot (op target : Nat) (a0 a1 : DWord) (a2 : Word) : Slot := { opcode := op, flags := 2, cid := 7, target := target, arg0 := a0, arg1 := a1, arg2 := a2, extra := [5, 6], rsvd := false }
/-- Admin queue 0 of partition 0 whose front command is the slot, beside a queue 3 and a completion queue 2. -/
def tcmd (x : Slot) : State := ((tm.setSq 0 0 (some { sq0 with fetched := [x] })).setSq 0 3 (some sq0)).setCq 0 2 (some cq0)
def started (x : Slot) : State := match (tcmd x).takeCmd 0 0 x.opcode with | some (s, _) => s | none => tb
theorem test_fn_enable : let s := tb.setFn 0 { tb.fn 0 with sqBase := 0x8000000000000000, cqBase := 0x8000000000001000, adminSize := 0x404 }
    ((s.partEntry 0).isSome ∧ 1 ≤ s.level ∧ s.ringOk 0 (s.fn 0).sqBase 16 (s.slotSize 0) false = true ∧ s.ringOk 0 (s.fn 0).cqBase 16 64 true = true) ∧
    after (.fnEnable 0 true) s (fun t => (t.fn 0).enable = true ∧ (t.sq 0 0).map (·.entries) = some 16 ∧ (t.cq 0 0).map (·.phase) = some true) ∧
    after (.fnEnable 0 false) (s.setFn 0 { s.fn 0 with enable := true }) (fun t => (t.fn 0).enable = false) := by decide +kernel
def bytes64 (stamp : Nat) : List Byte := List.replicate 28 0 ++ leBytes 4 stamp ++ List.replicate 32 0
theorem test_sq_doorbell : let s := tb.setSq 0 3 (some sq0)
    (s.bellHeld 0 3 = false ∧ (bytes64 0x80000000).length = s.slotSize 0 ∧ leAt (bytes64 0x80000000) 28 4 = sq0.stamp) ∧ after (.sqDoorbell 0 3 16 []) s (fun t => (t.sq 0 3).map (·.stopped) = some 8) ∧
    after (.sqDoorbell 0 3 1 (bytes64 0x80000000)) s (fun t => (t.sq 0 3).map (fun k => (k.tail, k.head, k.n, k.fetched.length)) = some (1, 1, 1, 1)) ∧
    after (.stampRepoll 0 3 (bytes64 5)) (tb.setSq 0 3 (some { sq0 with tail := 1, rereads := 5 })) (fun t => (t.sq 0 3).map (fun k => (k.rereads, k.stopped)) = some (6, 0)) ∧
    after (.stampRepoll 0 3 (bytes64 5)) (tb.setSq 0 3 (some { sq0 with tail := 1, rereads := 6 })) (fun t => (t.sq 0 3).map (·.stopped) = some 7) := by decide +kernel
theorem test_cq_doorbell : after (.cqDoorbell 0 2 15) (tb.setCq 0 2 (some cq0)) (fun t => t.cq 0 2 = some { cq0 with head := 15 }) ∧
    after (.jxlMsiWrite 0 9 0x10 3 true) tb (fun t => (t.fn 0).msi.get MsiEntry.reset 9 = { addr := 0x10, value := 3, mask := true, pending := false }) ∧
    after (.cqInterruptTimer 0 2) (tb.setCq 0 2 (some { cq0 with vector := some 9 })) (fun t => t.sent = [.linkMsi 0 0 0 0] ∧ (t.cq 0 2).map (·.unsent) = some 0) := by decide +kernel
def res (quiet : Bool) : CmdResult := { cid := 7, quiet := quiet, code := 0, detail := 0, body := [] }
theorem test_command_completion : cq0.full = true ∧ ({ cq0 with tail := 14 } : Cq).full = false ∧
    after (.commandCompletion 0 0 7) (tb.setSq 0 0 (some { sq0 with results := [res true] })) (fun t => t.sq 0 0 = some sq0 ∧ t.sent = []) ∧
    after (.commandCompletion 0 0 7) ((tb.setSq 0 0 (some { sq0 with results := [res false] })).setCq 0 0 (some { cq0 with tail := 14 })) (fun t => t.sq 0 0 = some sq0 ∧ (t.cq 0 0).map (·.tail) = some 15 ∧ t.sent.length = 1) := by
  decide +kernel
theorem test_cmd_ready : ∀ op ∈ [0x42, 1, 2, 3, 4, 5, 0x10, 0x11, 0x12, 0x18, 0x28, 0x41], CmdReady (tcmd (slot op 0 0 0 0)) 0 0 op (started (slot op 0 0 0 0)) (slot op 0 0 0 0) { sq0 with running := [slot op 0 0 0 0] } := by
  intro op h; fin_cases h <;> (unfold CmdReady; and_intros <;> decide +kernel)
theorem test_cmd_nop : after (.nop 0 0) (tcmd (slot 0x42 0 0 0 0)) (fun t => (t.sq 0 0).map (fun k => (k.running.length, k.results.map (·.code))) = some (0, [0])) := by decide +kernel
/-- Queue 5 with ring 0x8000, 16 entries, completion queue 2, weight 1. -/
def mkQ : Slot := slot 1 5 0x8000 (BitVec.ofNat 64 (16 + 2 * 2 ^ 32 + 2 ^ 48)) 0
theorem test_queue_create : ((started mkQ).cmdAddrOk 0 0x8000 1024 false = true ∧ 5 < ((started mkQ).linkPart 0).queues ∧ (16).isPowerOfTwo) ∧
    after (.queueCreate 0 0) (tcmd mkQ) (fun t => (t.sq 0 5).map (fun k => (k.base, k.entries, k.cq, k.weight)) = some (0x8000, 16, 2, 1) ∧ (t.sq 0 0).map (fun k => k.results.map (·.code)) = some [0]) := by decide +kernel
theorem test_queue_delete : after (.queueDelete 0 0) (tcmd (slot 2 3 0 0 0)) (fun t => t.sq 0 3 = none ∧ (t.sq 0 0).map (fun k => k.results.map (·.code)) = some [0]) ∧
    after (.queueReset 0 0) (tcmd (slot 3 3 0 (BitVec.ofNat 64 (15 + 9 * 2 ^ 32)) 0)) (fun t => (t.sq 0 3).map (fun k => (k.head, k.tail, k.n)) = some (15, 15, 9)) := by decide +kernel
def mkC : Slot := slot 4 5 0x8000 (BitVec.ofNat 64 (16 + 2 * 2 ^ 32)) 0
theorem test_cq_create : (started mkC).cmdAddrOk 0 0x8000 1024 true = true ∧ after (.cqCreate 0 0) (tcmd mkC) (fun t => (t.cq 0 5).map (fun c => (c.base, c.entries, c.vector)) = some (0x8000, 16, some 2)) ∧
    after (.cqDelete 0 0) (tcmd (slot 5 2 0 0 0)) (fun t => t.cq 0 2 = none) := by decide +kernel
/-- A descriptor of translation mode 10 at 0x80 of the Pool. -/
def tbind : State := { tcmd (slot 0x10 255 0x80 0 0) with pool := (⟨[]⟩ : Memory).setRun 0 0x80 (leBytes 8 (10 * 2 ^ 60)) }
def tbind1 : State := match tbind.takeCmd 0 0 0x10 with | some (s, _) => s | none => tb
theorem test_as_bind : (asDescOf (leBytes 8 (10 * 2 ^ 60) ++ List.replicate 120 0) = some { root := 0xA000000000000000, faultCq := 0, adu := false, windows := List.replicate 4 (0, 0, 0) } ∧
      tbind1.rangeError 0x80 128 = none ∧ tbind1.rangeFree 0x80 128 false = (tbind1, true) ∧ (tbind1.readLocal 0x80 128).map (·.2) = some (leBytes 8 (10 * 2 ^ 60) ++ List.replicate 120 0, false)) ∧
    after (.asBind 0 0) tbind (fun t => (t.asSlot 0 255).isSome = true) := by decide +kernel
def xe : XlEntry := { part := 0, slot := 9, asid := 0, vpn := 5, level := 0, run := 0, pte := 0 }
theorem test_xl_inval : (tcmd (slot 0x11 9 0 0 0)).coresOut 0 = false ∧ after (.xlInval 0 0) ((tcmd (slot 0x11 9 0 0 0)).setCore 3 { Core.reset with xlD := [xe] }) (fun t => (t.core 3).xlD = []) := by decide +kernel
def rec0 : FaultRec := { seq := 4, slot := 0, kind := 1, va := 0x40, agent := .coreData, access := .read, level := 0 }
def tres : State := (tcmd (slot 0x12 0 0 0 4)).setCore 3 { kc with part := 0, records := [rec0], waiting := some (.record 4) }
theorem test_xl_resolve : ((tcmd (slot 0x12 0 0 0 4)).findRecord 0 4 = none ∧ tres.findRecord 0 4 = some (3, rec0)) ∧
    after (.xlResolve 0 0) (tcmd (slot 0x12 0 0 0 4)) (fun t => (t.sq 0 0).map (fun k => k.results.map (·.code)) = some [9]) ∧
    after (.xlResolve 0 0) tres (fun t => (t.core 3).waiting = none ∧ (t.core 3).records = [] ∧ (t.sq 0 0).map (fun k => k.results.map (·.code)) = some [0]) := by decide +kernel
theorem test_bias_set : after (.biasSet 0 0) (tcmd (slot 0x18 1 0x2000 4096 0)) (fun t => (t.flip 0).map (·.pages) = some [2] ∧ (t.flip 0).map (·.toShared) = some true ∧
    (t.sq 0 0).map (fun k => k.running.length) = some 1) := by decide +kernel
theorem test_status_read : after (.statusRead 0 0) (tcmd (slot 0x28 0 0x8000000000000400 0 0)) (fun t => t.sent.length = 1 ∧ (t.sq 0 0).map (fun k => k.results.map (·.code)) = some [0]) := by decide +kernel
theorem test_write_inline : ((tcmd (slot 0x41 0 0x7E 0 2)).place 0x7E = some 0x7E ∧ (tcmd (slot 0x41 0 0x7E 0 2)).cmdError 0x7E 2 = none) ∧
    after (.writeInline 0 0) (tcmd (slot 0x41 0 0x7E 0 2)) (fun t => t.pool = (⟨[(3, 9), (0x7E, 5), (0x7F, 6)]⟩ : Memory) ∧ (t.sq 0 0).map (fun k => k.results.map (·.code)) = some [0]) := by decide +kernel

/-! ### Commands on kernels, harts, resets and configurations -/

/-- A list of one core, core 3, at virtual address 0x10, and the launch descriptor that names it. -/
def lext : List Byte := leBytes 8 0x4000 ++ List.replicate 8 0 ++ leBytes 8 0x200000 ++ List.replicate 8 0 ++ leBytes 8 0x10 ++ List.replicate 8 0 ++ leBytes 2 1
def las : AsDesc := { asd with root := 0x40000001 }
def klx : Slot := { slot 0x40 9 0 0 0 with extra := lext }
/-- The tables of `twalk` with a leaf that maps address 0x10 to place 0x10 of this node, where core number 3 stands. -/
def tkl : State := { tcmd klx with slots := ⟨[(9, some las)]⟩, pool := (twalk.pool.setRun 0 0x3000 (leBytes 8 (0x40000000 * 1024 + 0xD7))).setRun 0 0x10 [3, 0] }
def tkl1 : State := match tkl.takeCmd 0 0 0x40 with | some (s, _) => s | none => tb
theorem test_launch_hyps : CmdReady tkl 0 0 0x40 tkl1 klx { sq0 with running := [klx] } ∧ descOk (padTo 64 lext) = true ∧ tkl1.asSlot 0 9 = some las ∧ tkl1.virtStop 0 9 las 0x10 2 = none ∧ (tkl1.readVirt 0 9 las 0x10 2 []).map (·.2) = some [3, 0] ∧
    tkl1.launchBlock 0 3 = none := by
  unfold CmdReady; and_intros <;> decide +kernel
theorem test_kernel_launch : after (.kernelLaunch 0 0 []) tkl (fun t => (t.launch 0).map (·.cores) = some [3] ∧ (t.launch 0).map (·.entry) = some 0x4000 ∧ (t.sq 0 0).map (fun k => k.running.length) = some 1) := by decide +kernel
theorem test_hart_start : ((tcmd (slot 0x20 5 0x4000 9 0)).hartPart 5 = some 0 ∧ ((tcmd (slot 0x20 5 0x4000 9 0)).hart 5).state = 0) ∧
    after (.hartStart 0 0) (tcmd (slot 0x20 5 0x4000 9 0)) (fun t => (t.hart 5).pc = 0x4000 ∧ (t.hart 5).reg 10 = 5 ∧ (t.hart 5).reg 11 = 9 ∧ (t.hart 5).state = 1) := by decide +kernel
theorem test_quiesce : after (.quiesce 0 0) (tcmd (slot 0x21 0 0 0 10000)) (fun t => t.partState 0 = 3 ∧ (t.sq 0 0).map (fun k => k.running.length) = some 1) ∧
    after (.resume 0 0) (((tcmd (slot 0x22 0 0 0 0)).setPartState 0 4).setHart 5 { hh with state := 5 }) (fun t => t.partState 0 = 2 ∧ (t.hart 5).state = 1 ∧ (t.hart 6).state = 0) := by decide +kernel
theorem test_reset_partition : after (.resetPartition 0 0) (tcmd (slot 0x23 0 0 0 0)) (fun t => t.partState 0 = 5 ∧ (0, 0, 0, 7) ∈ t.resetCmds) := by decide +kernel
theorem test_reset_core : (tcmd (slot 0x24 9 0 0 0)).corePart 9 = some 0 ∧
    after (.resetCore 0 0) ((tcmd (slot 0x24 9 0 0 0)).setCore 9 { Core.reset with pantry := ⟨[(1, 1)]⟩, tiles := ⟨[(1, 1)]⟩ }) (fun t => (t.core 9).resetting = true ∧ (t.core 9).pantry = ⟨[]⟩ ∧ (t.core 9).tiles = ⟨[]⟩ ∧
      (1009, 0, 0, 7) ∈ t.resetCmds) := by decide +kernel
theorem test_reset_die : (tcmd (slot 0x31 0 0 0 0)).dieReady 0 = true ∧ dieType 0 = 1 ∧ dieType 94 = 8 ∧ dieType 96 = 9 ∧ after (.resetDie 0 0) (tcmd (slot 0x31 0 0 0 0)) (fun t => t.dieReset.get 0 0 = 2 ∧ (100, 0, 0, 7) ∈ t.resetCmds) ∧
    (tcmd (slot 0x31 36 0 0 0)).homeFree 36 = true ∧ after (.resetDie 0 0) (tcmd (slot 0x31 36 0 0 0)) (fun t => t.dieReset.get 0 36 = 2) ∧
    after (.resetDie 0 0) (tcmd (slot 0x31 99 0 0 0)) (fun t => (t.sq 0 0).map (fun k => k.results.map (·.code)) = some [0x11C]) := by decide +kernel
theorem test_reset_warm : ((tcmd (slot 0x30 0 0 0 0)).pins.pwrOk = true ∧ (tcmd (slot 0x30 0 0 0 0)).mgmt.mismatch = false) ∧
    after (.resetWarm 0 0) { tcmd (slot 0x30 0 0 0 0) with time := 50 } (fun t => t.phase = .running ∧ t.time = 50 ∧ t.pool = tm.pool ∧ t.flp = none ∧ t.fld 94 0x20100 7 4 = 2) := by decide +kernel
def deltaX : Slot := slot 0x32 0 0x8000000000000000 0 0x50
theorem test_flp_delta : (tcmd deltaX).delta = none ∧ after (.flpDelta 0 0 ⟨(List.replicate 80 0), true⟩) (tcmd deltaX) (fun t => t.delta.map (·.cid) = some 7 ∧ t.fld 94 0x20000 3 0 = 4) ∧
    after (.flpDelta 0 0 ⟨(List.replicate 80 0), false⟩) (tcmd deltaX) (fun t => t.flp = some tf ∧ (t.sq 0 0).map (fun k => k.results.map (·.code)) = some [1]) := by decide +kernel
def mgx : Slot := slot 0x33 0 0x8000000000000000 0x8000000000001000 16
theorem test_mgt_cmd : (mgtParse .queue ((leBytes 2 1 ++ leBytes 2 6 ++ List.replicate 12 0).take 16)).1 = 1 ∧
    after (.mgtCmd 0 0 (leBytes 2 1 ++ leBytes 2 6 ++ List.replicate 12 0)) (tcmd mgx) (fun t => t.sent.length = 1 ∧ (t.sq 0 0).map (fun k => k.results.map (·.code)) = some [0]) := by decide +kernel
theorem test_fn_reset : after (.fnReset 0) tb (fun t => t.partState 0 = 5) := by decide +kernel
theorem test_partition_reset_done : (tb.setPartState 0 5).partClean 0 = true ∧ after (.partitionResetDone 0) ((tb.setPartState 0 5).setCore 9 { Core.reset with pantry := ⟨[(1, 1)]⟩, resetting := true }) (fun t =>
    t.partState 0 = 1 ∧ (t.core 9).pantry = ⟨[]⟩ ∧ (t.core 9).resetting = false) := by decide +kernel
theorem test_quiesce_done : (tb.setPartState 0 3).quiet 0 = true ∧ after (.quiesceDone 0) ((tb.setPartState 0 3).setHart 5 hh) (fun t => t.partState 0 = 4 ∧ (t.hart 5).state = 5 ∧ (t.hart 6).state = 0) ∧
    after (.quiesceTimeout 0) ((tb.setPartState 0 3).setHart 5 hh) (fun t => t.partState 0 = 4) := by decide +kernel
theorem test_core_reset_done : after (.coreResetDone 9) (tb.setCore 9 { Core.reset with resetting := true }) (fun t => (t.core 9).resetting = false) := by decide +kernel
def tdie (n : Nat) : State := { tb with dieReset := ⟨[(0, n)]⟩, resetCmds := [] }
theorem test_die_reset : ((tdie 1).setCore 3 kc).dieReady 0 = false ∧ after (.resetPreconditionTimeout 0) ((tdie 1).setCore 3 kc) (fun t => t.dieReset.get 0 0 = 0) ∧ after (.resetPreconditionTimeout 0) (tdie 1) (fun t => t.dieReset.get 0 0 = 2) ∧
    after (.dieResetDone 0) (tdie 2) (fun t => t.dieReset.get 0 0 = 0) := by decide +kernel

/-! ### Power, pins and bring-up -/

def toff : State := { tb with phase := .off, time := 9, pins := { tb.pins with resetN := true, vinOk := true, pwrOk := true, ready := false } }
theorem test_cold_hyps : toff.phase = .off ∧ toff.pins.resetN = true ∧ toff.pins.vinOk = true ∧ toff.pins.pwrOk = true ∧ toff.mgmt.restart.levelFuses.mismatch = false := by decide +kernel
theorem test_pwr_ok_rise : after .pwrOkRise toff (fun t => t.phase = .running ∧ t.time = 0 ∧ t.flp = none) ∧ after .pwrOkRise { tb with time := 9 } (fun t => t.time = 9 ∧ t.pins.pwrOk = true) := by decide +kernel
theorem test_vin_rise : after .vinRise toff (fun t => t.phase = .running ∧ t.time = 0 ∧ t.flp = none) := by decide +kernel
theorem test_short_pulses : after (.pwrOkFall false) tb (fun t => t.phase = .running ∧ t.pins.pwrOk = tb.pins.pwrOk) ∧ after (.refclkLoss false) tb (fun t => t.phase = .running) ∧
    after (.resetNFall false) tb (fun t => t.phase = .running) ∧ after (.jxlResetNFall false) tb (fun t => t.linkSt (.jxl 0) = 2) := by decide +kernel
def ton : State := { tb with time := 9, pins := { tb.pins with pwrOk := true, vinOk := true, resetN := true } }
theorem test_power_down : (ton.phase = .running ∧ ton.pins.ready = true) ∧ after (.pwrOkFall true) ton (fun t => t.phase = .powerDown ∧ t.pins.ready = false) ∧
    after (.refclkLoss true) ton (fun t => t.phase = .powerDown) ∧ after .powerDownCommitDone { ton with phase := .powerDown } (fun t => t.time = 0 ∧ t.flp = none) ∧
    after .powerDownCommitDone { ton with phase := .powerDown, pins := { ton.pins with pwrOk := false } } (fun t => t.phase = .off) := by decide +kernel
theorem test_reset_n : after (.resetNFall true) ton (fun t => t.phase = .held ∧ t.time = 9 ∧ t.fld 94 0x20100 7 4 = 1 ∧ t.flp = none) ∧ ton.mgmt.mismatch = false ∧
    after .resetNRise { ton with phase := .held } (fun t => t.phase = .running ∧ t.pins.resetN = true ∧ t.time = 0) ∧
    after .resetNRise ({ ton with phase := .held }.setFld 94 0x20100 7 4 1) (fun t => t.time = 9) := by decide +kernel
theorem test_jxl_reset_n : after (.jxlResetNFall true) ton (fun t => t.linkSt (.jxl 0) ≠ 2 ∧ t.pins.jxlResetN = false) ∧
    (ton.linkPort 1).enable = true ∧ ton.linkSt (.jxl 1) = 0 ∧ after .jxlResetNRise ton (fun t => t.linkSt (.jxl 1) = 1 ∧ t.linkSt (.jxl 0) = 2) := by decide +kernel
def tboot : State := { ton with flp := none, mgmt := { ton.mgmt with stage := 0 } }
theorem test_boot_stage : tboot.mgmt.candidates 0 0x40 = [] ∧ after (.bootStageVerify 0 true true []) tboot (fun t => t.phase = .recovery) ∧
    after (.bootStageVerify 1 true true []) tboot (fun t => t.phase = .running) := by decide +kernel
/-- The third stage runs and every Hallway port is ACTIVE. -/
def tload : State := { tboot with mgmt := { tboot.mgmt with stage := 3 }, csr := ⟨((List.range 800).filter (fun i => (hallPeer (i / 8) (i % 8)).isSome)).map (fun i => (i / 8 * 2 ^ 32 + 0x10000 + 0x40 * (i % 8), 0xFF03))⟩ }
theorem test_floorplan_load : (tload.flp = none ∧ tload.fld 94 0x20000 3 0 = 0 ∧ tload.mgmt.candidates 6 0x50 = [] ∧ tload.mgmt.fences = []) ∧ tload.hallTrained = true ∧
    after (.floorplanLoad true true) tload (fun t => t.flp = none ∧ t.fld 94 0x20000 3 0 = 3 ∧ t.fld 94 0x20000 31 24 = 1 ∧ t.fld 94 0x20000 23 16 = 1) := by decide +kernel
theorem test_die_answer_timeout : (tload.mgmt.answers95 = true ∧ (tload.root false).alive = true) ∧ after (.mgmtDieAnswerTimeout true) tload (fun t => t.mgmt.answers95 = false ∧ t.mgmt.answers94 = true) := by decide +kernel
def tlow (n : Nat) : State := ton.setFld 94 0x20100 3 0 n
/-- At SL2 with every fabric port disabled. -/
def tsl2 : State := overList (tlow 2) (List.range 64) (fun s n => s.setFld (fabReg n).1 (fabReg n).2 31 28 5)
def tsl0 : State := { tload with pins := { tload.pins with ready := false } }.setFld 94 0x20000 3 0 2
theorem test_service_levels : (tsl2.level = 2 ∧ tsl2.levelUp 3 = true ∧ (tlow 2).levelUp 3 = false ∧ tsl0.levelUp 0 = true) ∧ after (.serviceLevelEntry 3) tsl2 (fun t => t.level = 3 ∧ t.rd64 94 0x20120 = t.now) ∧
    after (.serviceLevelEntry 4) (tlow 2) (fun t => t.level = 2) ∧
    after (.serviceLevelEntry 0) tsl0 (fun t => t.pins.ready = true ∧ t.level = 0) := by decide +kernel
def tond : State := overList (ton.setOnline 3 false) (List.finRange 16) (fun s c => s.setChanState (.attic 3 c) 2)
theorem test_die_online : (tond.dieOnline 3 = false ∧ tond.fencedU.contains (UnitKind.die, 3) = false ∧ (tond.setChanState (.attic 3 0) 2).stackTrained 39 = true) ∧
    after (.dieOnline 3) tond (fun t => t.dieOnline 3 = true) := by decide +kernel
def tchk : State := (ton.setChecked 0 true).setCore 5 { ton.core 5 with testing := true }
theorem test_core_self_test : tchk.checked (coreDie 5) = true ∧ after (.coreSelfTestDone 5 true) tchk (fun t => (t.core 5).tested = true ∧ (t.core 5).testing = false) ∧
    after (.coreSelfTestDone 5 false) tchk (fun t => (t.core 5).fenced = true) := by decide +kernel
def tannex : State := ton.setChanState (.annex 7) 2
theorem test_rate_change : tannex.chanState (.annex 7) = 2 ∧ after (.rateChange (.annex 7) true) tannex (fun t => t.fld (chanReg (.annex 7)).1 (chanReg (.annex 7)).2 0 0 = 1 ∧ t.chanState (.annex 7) = 3) ∧ ton.linkSt (.jxl 0) = 2 ∧
    after (.rateChange (.jxl 0) false) ton (fun t => t.linkSt (.jxl 0) = 2 ∧ t.fld 94 0x20100 31 31 = 1) ∧
    after (.rateChange (.annex 7) false) tannex (fun t => t.fld 94 0x20100 31 31 = 1) := by decide +kernel
theorem test_bring_up_deadline_hyps : (tlow 3).flp.isSome = true ∧ (tlow 3).pins.ready = true ∧ (tlow 3).level < 4 := by decide +kernel

/-! ### Management -/

def mr (off : Nat) (pl : List Byte) : MgtReq := { transport := .bus0, tag := 5, offset := off, payload := pl }
/-- The codes and statuses of the management responses sent. -/
def answers (t : State) : List (Nat × Nat) := t.sent.filterMap (fun m => match m with | .mgmt _ code _ st _ _ => some (code, st) | _ => none)
theorem test_mgt_ready : MgtReady tb (mr 0 []) := by unfold MgtReady; decide +kernel
theorem test_mgt_reads : after (.mgtStatus (mr 0 [])) tb (fun t => answers t = [(1, 0)]) ∧ after (.mgtTelemetry (mr 0 [])) tb (fun t => answers t = [(2, 0)]) ∧
    after (.mgtFaultRead (mr 0 (List.replicate 8 0))) tb (fun t => answers t = [(3, 0)]) ∧ after (.mgtFlashRead (mr (areaBase 3) [4, 0, 0, 0])) tb (fun t => answers t = [(0x11, 0)]) := by decide +kernel
theorem test_mgt_fault_free : after (.mgtFaultFree (mr 0 [0])) tb (fun t => answers t = [(4, 0)]) := by decide +kernel
theorem test_mgt_flp_load : after (.mgtFlpLoad (mr 0 [1, 2])) { tb.setFld 94 0x20000 3 0 3 with flp := none } (fun t => t.mgmt.upload = [1, 2]) ∧ after (.mgtFlpLoad (mr 0 [1, 2])) tb (fun t => answers t = [(0x10, 8)]) := by decide +kernel
def tflash : State := { tb with mgmt := { tb.mgmt with flash := ⟨[(7, ⟨[(0, 1)]⟩)]⟩ } }
theorem test_mgt_flash : (areaAt (areaBase 7) 1 = some (7, 0) ∧ areaAt (areaBase 10) 1 = some (10, 0) ∧ areaAt (areaBase 7 + 4) 2 = some (7, 4) ∧ tflash.areaInForce 7 = false ∧ tflash.mgmt.held 7 = false) ∧
    after (.mgtFlashErase (mr (areaBase 7) [])) tflash (fun t => t.mgmt.flash.get ⟨[]⟩ 7 = ⟨[]⟩ ∧ answers t = [(0x12, 1)]) ∧ after (.mgtFlashErase (mr (areaBase 10) [])) tflash (fun t => answers t = [(0x12, 3)]) ∧
    after (.mgtFlashWrite (mr (areaBase 7 + 4) [8, 9])) tflash (fun t => t.mgmt.flashRun 7 4 2 = [8, 9] ∧ t.mgmt.flashRun 7 0 1 = [1] ∧ answers t = [(0x13, 0)]) := by decide +kernel
theorem test_mgt_reset : after (.mgtReset (mr 0 [0])) { tm with time := 9 } (fun t => t.time = 9 ∧ t.flp = none ∧ t.pool = tm.pool ∧ answers t = [(0x20, 0)]) := by decide +kernel
theorem test_mgt_pkg_limit : tb.sumMin = 1000 ∧ after (.mgtPkgLimit (mr 0 [0xE8, 3, 0, 0])) tb (fun t => t.fld 94 0xD0100 19 0 = 1000 ∧ answers t = [(0x21, 0)]) ∧
    after (.mgtRtStage (mr 0xC084 [1, 2, 3, 4])) tb (fun t => t.fld 84 (0xB0000 + 0xC084) 31 0 = 0x04030201 ∧ answers t = [(0x22, 0)]) := by decide +kernel
theorem test_mgt_erase_lists : tb.mgmt.held 10 = false ∧ tb.mgmt.held 11 = false ∧ after (.mgtFenceErase (mr 0 [])) { tb with mgmt := { tb.mgmt with fences := [{ kind := 1, index := 3, source := 0x29 }] } } (fun t => t.mgmt.fences = []) ∧
    after (.mgtRepairErase (mr 0 [])) tb (fun t => answers t = [(0x24, 1)]) := by decide +kernel
theorem test_sec_advance : after (.secAdvance (mr 0 [2, 0, 0, 0, 64])) tb (fun t => t.mgmt.fuses94.arbDbg = 64 ∧ t.mgmt.fuses95.arbDbg = 64) ∧
    after (.secAdvance (mr 0 [2, 0, 0, 0, 0])) { tb with mgmt := { tb.mgmt with fuses94 := { tb.mgmt.fuses94 with arbDbg := 3 } } } (fun t => t.mgmt.fuses94.arbDbg = 3) := by decide +kernel
theorem test_sec_debug : after (.secDebugChallenge (mr 0 [])) tb (fun t => t.mgmt.nonce.isSome = true) ∧ tb.tokenOk [] = false ∧
    after (.secDebugUnlock (mr 0 [])) { tb with mgmt := { tb.mgmt with nonce := none } } (fun t => answers t = [(0x32, 9)] ∧ t.mgmt.scope = none) ∧
    after (.secDebugLock (mr 0 [])) { tb with mgmt := { tb.mgmt with scope := some 1 } } (fun t => t.mgmt.scope = none) ∧
    after .debugUnlockExpiry { tb with mgmt := { tb.mgmt with scope := some 1, notAfter := 8 }, time := 9 } (fun t => t.mgmt.scope = none) := by decide +kernel
/-- A debug token of version 1 for SERIAL 0 under a nonce of zeros, and the state that accepts it where its signatures verify. -/
def dtok : List Byte := leBytes 4 0x54445A4B ++ [1, 3, 0, 0] ++ leBytes 8 0 ++ List.replicate 32 0 ++ leBytes 8 9 ++ leBytes 4 0
def ttok : State :=
  let f := { tb.mgmt.fuses94 with serial := 0, arbDbg := 0, dbgRsa := Config.sha384 [], dbgSlh := Config.sha384 [] }
  { tb with flp := some { tf with debugUnlock := true }, mgmt := { tb.mgmt with fuses94 := f, nonce := some (List.replicate 32 0, 0) } }
theorem test_debug_token (rsa : Config.rsaVerifies [] [] dtok = true) (slh : Config.slhVerifies [] [] dtok = true) :
    MgtReady ttok (mr 0 dtok) ∧ ttok.tokenOk (mr 0 dtok).payload = true := by
  have parts : (dtok.drop (60 + 0)).take 384 = [] ∧ (dtok.drop (60 + 0x180)).take 48 = [] ∧ (dtok.drop (60 + 0x1B0)).take 384 = [] ∧
      (dtok.drop (60 + 0x330)).take 16224 = [] ∧ dtok.take 60 = dtok := by decide +kernel
  have sig : sigAt dtok 60 (Config.sha384 []) (Config.sha384 []) = true := by
    simp only [sigAt, parts.1, parts.2.1, parts.2.2.1, parts.2.2.2.1, parts.2.2.2.2, rsa, slh, beq_self_eq_true, Bool.and_self]
  refine ⟨by unfold MgtReady; decide +kernel, ?_⟩
  unfold State.tokenOk
  rw [Bool.and_eq_true]
  exact ⟨by decide +kernel, sig⟩
/-- A delta that runs for command 7. -/
def tdel : State := { tb with delta := some { part := 0, queue := 0, cid := 7, image := [], resumes := [], resets := [] } }
theorem test_delta_fails : (tdel.mgmt.ops = [] ∧ tdel.delta.isSome = true) ∧ after (.longOperationDone 7 1) tdel (fun t => t.delta = none ∧ t.fld 94 0x20000 3 0 = 2 ∧ t.flp = some tf) := by decide +kernel
theorem test_long_operation : after (.longOperationDone 5 4) { tb with mgmt := { tb.mgmt with ops := [{ tag := 5, status := 1, holds := 12 }] } } (fun t => t.mgmt.ops.map (·.status) = [4]) := by decide +kernel
theorem test_mctp : (mgtParse .bus0 (leBytes 2 1 ++ List.replicate 14 0)).1 = 1 ∧ after (.mctpMessage false 0x7F (leBytes 2 1 ++ List.replicate 14 0)) tb (fun t => answers t = [(1, 0)]) ∧
    after (.pldmSensorRead true 3) { tb with mgmt := { tb.mgmt with telemetry := List.replicate 28 0 ++ [7] } } (fun t => t.sent = [.pldm true 7]) := by decide +kernel
def tspdm (n : Nat) : State := tb.setSpdm .bus0 (n, [])
/-- The SPDM messages sent on bus 0. -/
def spdms (t : State) : List (List Byte) := t.sent.filterMap (fun m => match m with | .spdm .bus0 b => some b | _ => none)
theorem test_attestation_hyps : tb.spdmOn .bus0 = true ∧ (tb.spdmAt .bus0).1 = 0 ∧ ((tspdm 1).spdmAt .bus0).1 = 1 ∧ ((tspdm 2).spdmAt .bus0).1 = 2 ∧ 3 ≤ ((tspdm 3).spdmAt .bus0).1 ∧
    (tspdm 3).spdmOn .bus0 = true := by decide +kernel
theorem test_spdm_start : after (.getVersion .bus0) tb (fun t => (t.spdmAt .bus0).1 = 1 ∧ (spdms t).map (fun b => b.take 2) = [[0x10, 0x04]]) ∧
    after (.getCapabilities .bus0) tb (fun t => spdms t = [[0x12, 0x7F, 4, 0]]) ∧ after (.getCapabilities .bus0) (tspdm 1) (fun t => (t.spdmAt .bus0).1 = 2 ∧ (spdms t).map List.length = [20]) ∧
    after (.negotiateAlgorithms .bus0 true true) (tspdm 2) (fun t => (t.spdmAt .bus0).1 = 3) ∧
    after (.negotiateAlgorithms .bus0 true false) (tspdm 2) (fun t => spdms t = [[0x12, 0x7F, 7, 0]] ∧ (t.spdmAt .bus0).1 = 2) := by decide +kernel
def tdeny : State := { tb with flp := some { tf with mgmtWrite0 := true } }
def bus1 (r : MgtReq) : MgtReq := { r with transport := .bus1 }
theorem test_mgmt_write : after (.mgtPkgLimit (bus1 (mr 0 [0xE8, 3, 0, 0]))) tdeny (fun t => answers t = [(0x21, 3)] ∧ t.fld 94 0xD0100 19 0 = 0) ∧ after (.mgtPkgLimit (mr 0 [0xE8, 3, 0, 0])) tdeny (fun t => answers t = [(0x21, 0)]) ∧
    after (.mgtStatus (bus1 (mr 0 []))) tdeny (fun t => answers t = [(1, 0)]) ∧
    after (.mgtFlashErase (bus1 (mr (areaBase 0) []))) { tb with phase := .recovery, flp := none } (fun t => answers t = [(0x12, 1)]) := by decide +kernel

/-! ### The fabric -/

/-- Node 1 with fabric port 0 ACTIVE and routes to nodes 0 and 2 over it; place 3 of the Pool holds 9. -/
def tfab : State := { tb.setLinkSt (.fabric 0) 2 with
  pool := (⟨[]⟩ : Memory).set 0 3 9
  tables := ⟨[(0, { groups := [1], entries := [0x80000000, 0, 0x80000000] })]⟩ }
def tfl (n : Nat) : State := (tfab.setLinkSt (.fabric 0) n).setFld (fabReg 0).1 (fabReg 0).2 23 20 8
def tflit (ft : Nat) (q : BitVec 12) : Flit := { seq := q, ack := 0, ftype := ft, crdClass := 0, crdSlots := 0, slots := List.replicate 240 0 }
theorem test_fabric_train : (tf.fabric.map (fun f => f.portEnable.getLsbD 0) = some true ∧ (tb.linkSt (.fabric 0)) = 0 ∧ (tb.link (.fabric 0)).failed = 0) ∧
    after (.fabricPortTrain 0 0) tb (fun t => t.linkSt (.fabric 0) = 1 ∧ t.fld (fabReg 0).1 (fabReg 0).2 23 20 = 8 ∧ t.fld (fabReg 0).1 (fabReg 0).2 19 19 = 1 ∧ t.sent.length = 1) := by decide +kernel
theorem test_version_token : ((tfl 1).linkSt (.fabric 0) = 1 ∧ (tfl 1).fld (fabReg 0).1 (fabReg 0).2 23 20 ≠ 0) ∧
    after (.versionToken 0 9 1 7) (tfl 1) (fun t => t.linkSt (.fabric 0) = 2 ∧ t.fld (fabReg 0).1 (fabReg 0).2 27 24 = 2 ∧ t.fld (fabReg 0).1 (fabReg 0).2 13 0 = 7) ∧
    after (.versionToken 0 9 3 7) (tfl 1) (fun t => t.linkSt (.fabric 0) ≠ 2) := by decide +kernel
theorem test_fabric_flit : after (.fabricFlitReceive 0 (tflit 0 ((tfab.link (.fabric 0)).rxSeq + 1)) (flitCrc (.fabric 0) (tflit 0 ((tfab.link (.fabric 0)).rxSeq + 1))) 0) tfab (fun t => (t.link (.fabric 0)).unacked = 1 ∧ (t.link (.fabric 0)).rxSeq ≠ (tfab.link (.fabric 0)).rxSeq) ∧
    after (.fabricFlitReceive 0 (tflit 0 0) (flitCrc (.fabric 0) (tflit 0 0) + 1) 0) tfab (fun t => (t.link (.fabric 0)).discarding = true ∧ t.sent.length = 1) := by decide +kernel
theorem test_fabric_retrain : ((tfl 3).link (.fabric 0)).replay = [] ∧ ((tfl 3).link (.fabric 0)).sendHeld = [] ∧ after (.fabricRetrainDone 0 true) (tfl 3) (fun t => t.linkSt (.fabric 0) = 2) := by decide +kernel
theorem test_node_up : after (.nodeUp 0 5 2) { tfab with nodesDown := [5, 6] } (fun t => t.nodesDown = [6] ∧ t.fld (fabReg 0).1 (fabReg 0).2 13 0 = 5) := by decide +kernel
def trem (n kind : Nat) : State := { tfab with remotes := ⟨[(4, some { node := n, kind := kind, agent := .hart 0, addr := 0, size := 8, index := 0, reply := none })]⟩ }
theorem test_node_down : (tfab.cols = ⟨[]⟩ ∧ tfab.remotes = ⟨[]⟩) ∧ after (.nodeDown 0 5) tfab (fun t => t.nodesDown = [5]) ∧
    after (.nodeDown 0 5) (trem 5 0) (fun t => (t.remote 4).map (·.reply) = some (some none)) ∧ after (.nodeDown 0 5) (trem 6 0) (fun t => (t.remote 4).map (·.reply) = some none) := by decide +kernel
theorem test_notices : after (.routeEpoch 0 5 true) tfab (fun t => t.epoch = tfab.epoch ∧ t.sent = []) ∧ after (.fabricFaultNotice 0 5 [1]) tfab (fun t => t.sent = []) := by decide +kernel
/-- The staged table has one group, port 0, and one entry, for node 0 over it. -/
def tstage : State := ((tfab.wr 84 0xB0000 1).wr 84 (0xB0000 + 4 * 32) 1).wr 84 (0xB0000 + 4 * 34) 0x80000000
theorem test_route_commit : after .routeCommit { tfab with flp := some { tf with fabric := none } } (fun t => t.fld 84 0x90810 29 29 = 1 ∧ t.epoch = false) ∧
    after .routeCommit tfab (fun t => t.fld 84 0x90810 29 29 = 1 ∧ t.epoch = false) ∧
    after .routeCommit tstage (fun t => t.epoch = true ∧ (t.routeTable true).map (·.entries) = some [0x80000000] ∧ (t.routeTable false).map (·.entries.length) = some 3) := by decide +kernel
def fm (op : Byte) (dst : Nat) (addr : Nat) (aux : BitVec 22) : FabMsg :=
  { opcode := op, epoch := false, ttl := 9, dst := dst, src := 2, status := 0, poison := false, cls := false, tag := 4, addr := addr, aux := aux, mask := 3, data := 5 :: 6 :: List.replicate 126 0 }
/-- The opcodes, statuses and first two data bytes of the fabric messages sent. -/
def fabs (t : State) : List (Nat × Nat × List Byte) := t.sent.filterMap (fun m => match m with | .fabric _ x => some (x.opcode.toNat, x.status, x.data.take 2) | _ => none)
theorem test_forward_hyps : tfab.fabState 0 = 2 ∧ tfab.isSelf 0 = false ∧ (tfab.routeTable false).isSome = true ∧ tfab.choosePort { fm 1 0 0 0 with ttl := 8 } (tfab.fabPart 0) = some (0, false) := by decide +kernel
theorem test_forward : after (.rrd 0 (fm 1 0 0 0)) tfab (fun t => t.sent = [.fabric 0 { fm 1 0 0 0 with ttl := 8 }]) ∧ after (.rwr 0 { fm 2 0 0 0 with ttl := 1 }) tfab (fun t => t.sent = [] ∧ t.pool = tfab.pool) := by decide +kernel
theorem test_remote_hyps : FabHere tfab 0 (fm 1 1 0 0) ∧ LineHere tfab 0 true ∧ (tfab.lineNow 0).1 = tfab.memLine 0 ∧ (tfab.lineRead 0 (dieStack (fabReg 0).1)).2 = false ∧ tfab.compNamed 0 = false ∧ tfab.lineFenced 0 = false ∧
    (match tfab.remoteCheck 0 0 2 true false with | .ok ph => ph == 0 | .error _ => false) = true ∧ (match tfab.remoteCheck 0 0x28000000000 2 false false with | .ok _ => false | .error e => e == 2) = true ∧
    (tfab.choosePort (tfab.replyTo (fm 1 1 0 0) 4 0 [] false) 0).isSome = true := by
  unfold FabHere LineHere HasWay; and_intros <;> decide +kernel
theorem test_rrd : after (.rrd 0 (fm 1 1 0 0x43)) tfab (fun t => fabs t = [(4, 0, [9, 0])]) ∧ after (.rrd 0 (fm 1 1 0x28000000000 0x43)) tfab (fun t => fabs t = [(6, 2, [])]) := by decide +kernel
theorem test_rwr : after (.rwr 0 (fm 2 1 0 0)) tfab (fun t => fabs t = [(5, 0, [])] ∧ t.pool.get 0 0 = 5 ∧ t.pool.get 0 1 = 6 ∧ t.pool.get 0 2 = 0 ∧ t.pool.get 0 3 = 9) := by decide +kernel
theorem test_ratom : auxAtom 1 = some (.add, 0, 0) ∧ (tfab.poolAtom 0 .add 0 0 5 0).map (·.2) = some (some 0x9000000) ∧
    after (.ratom 0 (fm 3 1 0 1)) tfab (fun t => fabs t = [(4, 0, [0, 0])]) := by decide +kernel
theorem test_remote_answers : after (.rrsp 0 (fm 4 1 0 0)) (trem 2 0) (fun t => (t.remote 4).map (·.reply.isSome) = some true) ∧ after (.rnack 0 (fm 6 1 0 0)) (trem 2 0) (fun t => (t.remote 4).map (·.reply) = some (some none)) ∧
    after (.rack 0 (fm 5 1 0 0)) (trem 2 1) (fun t => t.remote 4 = none) := by decide +kernel
theorem test_remote_timeout : after (.remoteAccessTimeout 4) (trem 2 0) (fun t => (t.remote 4).map (·.reply) = some (some none)) ∧
    after (.remoteAccessTimeout 4) (trem 2 1) (fun t => t.remote 4 = none ∧ t.sent = [.contained (hartDie 0 * 512) 0x118]) := by decide +kernel
theorem test_hops : (tfab.isSelf 0 = false ∧ tfab.fabState 0 = 2) ∧ after (.rack 0 { fm 5 0 0 0 with ttl := 1 }) tfab (fun t => t.rd64 (fabReg 0).1 0x90808 = 1 ∧ t.sent = []) ∧
    after (.dclaim 0 (fm 0x19 0 0 0)) tfab (fun t => t.sent = [.fabric 0 { fm 0x19 0 0 0 with ttl := 8 }]) := by decide +kernel
/-- A flit that holds the header of a CReady for node 0. -/
def thop (ttl : Nat) : Flit := { tflit 0 ((tfab.link (.fabric 0)).rxSeq + 1) with slots := padTo 240 (fabSlots { fm 0x11 0 0 0 with ttl := ttl, mask := 0, data := [] }) }
theorem test_hops_collective : (((tfab.link (.fabric 0)).taken (.fabric 0) (thop 9)).2.map (fun b => ((fabOfSlots b).opcode, (fabOfSlots b).dst, (fabOfSlots b).ttl)) = [(0x11, 0, 9)] ∧
      tfab.choosePort (fabOfSlots (fabSlots { fm 0x11 0 0 0 with ttl := 8, mask := 0, data := [] })) (tfab.fabPart 0) = some (0, false)) ∧
    after (.fabricFlitReceive 0 (thop 1) (flitCrc (.fabric 0) (thop 1)) 0) tfab (fun t => t.rd64 (fabReg 0).1 0x90808 = 1 ∧ t.sent = []) ∧
    after (.fabricFlitReceive 0 (thop 9) (flitCrc (.fabric 0) (thop 9)) 0) tfab (fun t => t.sent.map (fun m => match m with | .fabric _ x => x.ttl | _ => 0) = [8]) := by decide +kernel

/-! ### Collectives -/

/-- An all-gather of one FP32 element between this node, rank 0, and node 2. -/
def cdesc : List Byte := [2, 0, 0, 0] ++ leBytes 2 0 ++ leBytes 2 0 ++ leBytes 2 2 ++ leBytes 2 0 ++ leBytes 4 7 ++ leBytes 8 0x400 ++ leBytes 8 0x500 ++ leBytes 8 0x600 ++ leBytes 8 1 ++ leBytes 8 0x700 ++ leBytes 8 0 ++
  List.replicate 60 0 ++ leBytes 4 0x80000000
/-- Collective queue 0 is armed, with a ring of 16 slots at 0x1000 whose first holds `cdesc`. -/
def tcq : State := let s := { tfab with pool := ((⟨[]⟩ : Memory).setRun 0 0x400 [1, 0, 2, 0]).setRun 0 0x1000 cdesc }
  ((s.wr64 (colDie 0) (colOff 0 0) 0x1000).setFld (colDie 0) (colOff 0 8) 20 16 4).setFld (colDie 0) (colOff 0 8) 31 31 1
def c0 : Collective := {
  fields := { opcode := 0, red := 0, ifmt := 0, afmt := 0, nodes := 0, collId := 0, count := 0, group := [] }
  flags := 0, rank := 0, msiVec := 0, src := 0, dst := 0, progress := 0, done := 0, seed := 0, route := 0, timeout := 0, ready := [], version1 := false, state := 0, held := false
  holds := [], error := 0, errNode := 0, bytesSent := 0, stepsDone := 0, steps := 0, nans := 0, poisoned := 0, firstNan := 0, acked := [], tStart := 0, tEnd := 0, chunk := 0, claims := []
  counts := [], rows := 0 }
def cc : Collective := match tcq.colParse 0 cdesc with | .ok c => c | .error _ => c0
/-- The queue runs a collective. -/
def trun (c : Collective) : State := (tcq.setCol 0 (some c)).setFld (colDie 0) (colOff 0 8) 29 29 1
theorem test_col_arm : after (.colQueueArm 0 true) tfab (fun t => t.fld (colDie 0) (colOff 0 8) 31 31 = 1) ∧ after (.colQueueArm 0 false) tcq (fun t => t.fld (colDie 0) (colOff 0 8) 31 31 = 0) := by decide +kernel
theorem test_col_start_hyps : (tcq.col 0 = none ∧ tcq.fld (colDie 0) (colOff 0 8) 31 31 = 1 ∧ (tcq.rangeFree 0x1000 128 false).2 = true ∧ (tcq.readLocal 0x1000 128).map (fun r => (r.2.1 == cdesc, r.2.2)) = some (true, false) ∧
    leAt cdesc 0x7C 4 = 0x80000000 ∧ tcq.earlyReady = []) ∧ cc.peers = [1] ∧ cc.fields.group = [1, 2] ∧ cc.steps = 1 ∧ (tcq.colPort 0 cc 1 0x11 0).isSome = true := by decide +kernel
theorem test_col_doorbell : after (.colQueueDoorbell 0) tcq (fun t => (t.col 0).isSome ∧ t.fld (colDie 0) (colOff 0 8) 29 29 = 1 ∧ t.rd (colDie 0) (colOff 0 0xC) = 1 ∧ t.sent.length = 1) ∧
    after (.colQueuePoll 0) tcq (fun t => (t.col 0).isSome ∧ t.rd (colDie 0) (colOff 0 0xC) = 1) := by decide +kernel
theorem test_cready : after (.cready 0 1 cc.fields 2) tcq (fun t => t.earlyReady.length = 1 ∧ t.col 0 = none) ∧
    after (.cready 0 1 { cc.fields with count := 2 } 2) (trun cc) (fun t => t.col 0 = none ∧ t.fld (colDie 0) (colOff 0 8) 29 29 = 0) := by decide +kernel
/-- The first rank of three in a ring hears from one of its two peers. -/
def c3 : Collective := { cc with fields := { cc.fields with nodes := 3, group := [1, 2, 0] } }
theorem test_cready_ring : (1 ∈ c3.peers ∧ 1 ∉ c3.ready ∧ 2 ∈ c3.peers ∧ 2 ∉ c3.ready) ∧ after (.cready 0 1 c3.fields 2) (trun c3) (fun t => (t.col 0).map (·.ready) = some [1] ∧ t.sent = []) := by decide +kernel
theorem test_cack : after (.cack 0 1 3) (trun cc) (fun t => (t.col 0).map (·.acked) = some [(1, 3)]) := by decide +kernel
theorem test_col_ends : after (.colQueueAbort 0) (trun cc) (fun t => t.col 0 = none ∧ t.fld (colDie 0) (colOff 0 8) 31 31 = 0) ∧ after (.collectiveTimeout 0) (trun { cc with timeout := 5 }) (fun t => t.col 0 = none) ∧
    after (.collectiveTimeout 0) (trun cc) (fun t => (t.col 0).isSome) ∧ after (.collectiveAbort 0 6 0x11A 2) (trun cc) (fun t => t.col 0 = none) ∧
    after (.collectiveEnd 0) (trun { cc with state := 2, stepsDone := 1 }) (fun t => t.col 0 = none ∧ t.fld (colDie 0) (colOff 0 8) 29 29 = 0 ∧ t.peek 0x700 1 = [4]) := by decide +kernel
theorem test_thermal : (2 ∈ cc.fields.group ∧ 2 ≠ cc.self ∧ 2 ∉ cc.holds ∧ cc.version1 = false) ∧ after (.thermalHold 0 2) (trun cc) (fun t => (t.col 0).map (fun c => (c.holds, c.held, c.state)) = some ([2], true, 3)) ∧
    after (.thermalRelease 0 2) (trun { cc with holds := [2], state := 3, ready := [1] }) (fun t => (t.col 0).map (fun c => (c.holds, c.state)) = some ([], 2)) ∧
    after (.thermalRelease 0 2) (trun { cc with holds := [2], state := 3 }) (fun t => (t.col 0).map (·.state) = some 1) := by decide +kernel
def cgo : Collective := { cc with state := 2, ready := [1] }
theorem test_cdata_hyps : (cgo.fields.opcode = 2 ∧ cgo.fields.nodes = 2 ∧ cgo.steps = 1 ∧ cgo.stepsDone = 0 ∧ cgo.rows = 0 ∧ cgo.isz = 4 ∧ cgo.fields.count = 1) ∧ ((trun cgo).rangeFree (cgo.srcAt 1 0) 4 false).2 = true ∧
    ((trun cgo).rangeFree 0x604 4 true).2 = true ∧ (trun cgo).place 0x604 = some 0x604 ∧ (trun cgo).compNamed 12 = false ∧ (trun cgo).lineFenced 12 = false ∧ ((trun cgo).colPort 0 cgo 1 0x12 0).isSome = true := by decide +kernel
theorem test_cdata : after (.cdata 0 1 0 [1, 2, 3, 4] []) (trun cgo) (fun t => (t.pool.getRun 0 0x603 6) = [0, 1, 2, 3, 4, 0] ∧ (t.col 0).map (·.stepsDone) = some 1 ∧ t.sent.length = 1) := by decide +kernel
theorem test_progress : ((trun cgo).place cgo.progress = some 0x700 ∧ (trun cgo).lineHeld (0x700 / 128) = false ∧ cgo.progress % 64 = 0) ∧ after (.collectiveProgressWrite 0) (trun cgo) (fun t => (t.pool.getRun 0 0x700 4) = [2, 0, 0, 0] ∧ t.sent = []) := by decide +kernel
theorem test_drow_hyps : (tfab.rangeOk 0 true 4096 0x700 128 = true ∧ tfab.place 0x700 = some 0x700 ∧ tfab.inService 0x700 = true ∧ tfab.setReady 0x700 = true ∧ (tfab.rangeFree 0x700 128 true).2 = true) ∧
    tfab.compNamed 14 = false ∧ tfab.lineFenced 14 = false ∧ (tfab.choosePort (tfab.replyTo (fm 0x18 1 0x700 0) 5 0 [] false) (tfab.fabPart 0)).isSome = true := by decide +kernel
theorem test_drow : after (.drow 0 (fm 0x18 1 0x700 0)) tfab (fun t => (t.pool.getRun 0 0x700 3) = [5, 6, 0] ∧ fabs t = [(5, 0, [])]) := by decide +kernel
theorem test_dclaim : after (.dclaim 0 (fm 0x19 1 0 1)) tfab (fun t => fabs t = [(4, 0, [0, 0])]) := by decide +kernel

/-! ### Faults -/

def fi (src : Byte) (k : UnitKind) (i : Nat) : FaultIn := { die := 3, source := src, unit := 1, kind := k, index := i, addr := 0x40, access := 1, detail := [], waited := false }
def full : State := tb.setLeaf 3 { tb.leaf 3 with queue := List.replicate 64 ({ leaf := 3, leafSeq := 0, fault := fi 0x28 .none 0, cls := 0, react := 1, fenced := false, suppressed := false, merged := false, count := 1, time := 0, parts := 0 } : Notice) }
theorem test_detect_hyps : (tb.root94.alive = true ∧ tb.unitFenced (fi 0x28 .none 0) = false ∧ bitAt (tb.sev 0x28) 12 = false ∧ tb.sev 0x28 % 4 = 0) ∧ bitAt (tb.sev 0x43) 12 = false ∧ tb.sev 0x43 % 4 = 1 ∧
    (full.leaf 3).queue.length = 64 := by decide +kernel
theorem test_detect : after (.faultDetect ⟨(fi 0x28 .none 0), []⟩) tb (fun t => (t.leaf 3).queue.map (fun n => (n.fault.source, n.cls, n.react)) = [(0x28, 0, 1)] ∧ ((t.leaf 3).captures.get none 0).map (·.agent) = some 1537 ∧ (t.leaf 4).queue = []) ∧
    after (.faultDetect ⟨(fi 0x43 .none 0), []⟩) tb (fun t => (t.leaf 3).queue.map (·.cls) = [1] ∧ ((t.leaf 3).captures.get none 1).isSome) ∧
    after (.faultDetect ⟨(fi 0x28 .none 0), []⟩) full (fun t => (t.leaf 3).queue.length = 64 ∧ (t.leaf 3).merged.get 0 0x28 = 1) := by decide +kernel
def tn : State := match exec (.faultDetect ⟨(fi 0x28 .none 0), []⟩) tb with | .next t => t | .fault _ => tb | .refused _ => tb
theorem test_notice_hyps : (tn.leaf 3).queue.map (fun n => n.react.getLsbD 0) = [true] ∧ (tn.leaf 3).held = [] ∧ tn.root94.alive = true ∧ tn.root95.alive = true ∧ tn.root94.log = [] ∧ tn.root95.log = [] := by decide +kernel
theorem test_notice : after (.faultNotice 3) tn (fun t => t.root94.log.map (fun r => (r.seq, r.safe, r.notice.leafSeq)) = [(tn.root94.next, false, 1)] ∧ t.root95.log.length = 1 ∧ t.root94.next = tn.root94.next + 1 ∧ (t.leaf 3).queue = [] ∧ (t.leaf 3).seq = 1) := by decide +kernel
def tlog : State := match exec (.faultNotice 3) tn with | .next t => t | .fault _ => tb | .refused _ => tb
/-- Two faults of one cycle: the one of the lower source is taken first. -/
theorem test_same_cycle : (fi 0x28 .none 0).source ≠ 0x10 ∧ after (.faultDetect ⟨(fi 0x43 .none 0), [fi 0x28 .none 0]⟩) tb (fun t => (t.leaf 3).queue.map (fun n => (n.fault.source, n.fault.waited)) = [(0x28, false), (0x43, true)]) := by
  decide +kernel
theorem test_merged : (tb.setLeaf 3 { tb.leaf 3 with merged := ⟨[(0x10, 5), (0x14, 2)]⟩ } |>.leaf 3).queue.length < 64 ∧
    after (.mergedNoticeSend 3) (tb.setLeaf 3 { tb.leaf 3 with merged := ⟨[(0x10, 5), (0x14, 2)]⟩ }) (fun t => (t.leaf 3).queue.map (fun n => (n.fault.source, n.merged, n.count)) = [(0x10, true, 5)] ∧ (t.leaf 3).merged.cells = [(0x14, 2)]) := by decide +kernel
def tsplit : State := { tlog with root95 := { tlog.root95 with logged := [] } }
theorem test_digest : (tlog.root94.logged = tlog.root95.logged ∧ tsplit.root94.logged ≠ tsplit.root95.logged) ∧ after (.rootDigestCompare true) tlog (fun t => t.sent = tlog.sent) ∧
    after (.rootDigestCompare true) tsplit (fun t => t.sent = tsplit.sent ++ [.backStair 1 94 0xFF [1]] ∧ ((t.leaf 94).captures.get none 2).isSome) ∧
    after (.rootDigestCompare false) tsplit (fun t => t.leaves = tsplit.leaves) := by decide +kernel
theorem test_delivery_timeout : (tn.leaf 3).queue ≠ [] ∧ after (.noticeDeliveryTimeout 3) tn (fun t => t.sent = tn.sent ++ [.backStair 1 3 0xFF [1]] ∧ ((t.leaf 3).captures.get none 2).isSome) := by decide +kernel
theorem test_fc_registers : after (.fcDropsClear true) { tlog with root95 := { tlog.root95 with drops := ⟨[(0x10, 4)]⟩ } } (fun t => t.root95.drops = ⟨[]⟩ ∧ t.root94 = tlog.root94) ∧
    after (.fcLogFree false tn.root94.next) tlog (fun t => t.root94.log = [] ∧ t.root95.log.length = 1) ∧ after (.fcLogFree false (tn.root94.next + 7)) tlog (fun t => t.root94.log.length = 1) ∧
    after (.captureSetClear 3 false 0) tn (fun t => (t.leaf 3).captures.get none 0 = none) ∧ after (.captureSetClear 95 true 2) { tn with root95 := { tn.root95 with captures := tn.leaf 3 |>.captures } } (fun t => t.root95.captures = (tn.leaf 3).captures) := by decide +kernel
theorem test_fc_msi : after (.fcPartCpuMsiWrite false 2 0x80 7 false) { tb with root94 := { tb.root94 with cpuMsi := ⟨[(2, { addr := 0, value := 0, mask := true, pending := true })]⟩ } } (fun t =>
      t.root94.cpuMsi.get MsiEntry.reset 2 = { addr := 0x80, value := 7, mask := false, pending := false } ∧ t.sent = [.msi 0x80 7]) ∧
    after (.fcPartCpuMsiWrite false 2 0x80 7 true) { tb with root94 := { tb.root94 with cpuMsi := ⟨[(2, { addr := 0, value := 0, mask := true, pending := true })]⟩ } } (fun t => (t.root94.cpuMsi.get MsiEntry.reset 2).pending = true ∧ t.sent = []) := by decide +kernel
theorem test_fence_hart : (tb.unitFenced (fi 0x34 .hart 9) = false ∧ fenceKind 0x34 = .hart ∧ bitAt (tb.sev 0x34) 11 = true) ∧
    after (.faultDetect ⟨(fi 0x34 .hart 9), []⟩) (tb.setHart 9 { Hart.reset with resv := some 4 }) (fun t => (t.hart 9).fenced = true ∧ (t.hart 9).resv = none ∧ (t.hart 10).fenced = false ∧ t.fencedU.contains (.hart, 9)) := by decide +kernel
theorem test_fence_core : (tb.unitFenced (fi 0x2B .core 61) = false ∧ fenceKind 0x2B = .core ∧ bitAt (tb.sev 0x2B) 11 = true ∧ (tb.core 61).kernel = none ∧ (tb.core 61).testing = false ∧ tb.launches = ⟨[]⟩) ∧
    after (.faultDetect ⟨(fi 0x2B .core 61), []⟩) tb (fun t => (t.core 61).fenced = true ∧ (t.core 60).fenced = false ∧ t.fencedU.contains (.core, 61)) := by decide +kernel
theorem test_root_failover : (tb.mgmt.active95 = false ∧ tb.root95.alive = true) ∧ after .rootFailover tb (fun t => t.mgmt.active95 = true ∧ t.root94.alive = false ∧ t.root95.peerLost = true) := by decide +kernel
theorem test_heartbeat_loss : (tb.fencedU.contains (UnitKind.die, 3) = false ∧ tb.fencedU.contains (UnitKind.die, 94) = false ∧ bitAt (tb.sev 0x50) 11 = true) ∧
    after (.dieHeartbeatLoss 3) tb (fun t => t.fencedU.contains (UnitKind.die, 3)) := by decide +kernel
theorem test_safe_state : (tb.mgmt.dumps.get DumpArea.reset 1).erased = true ∧ after (.safeStateCommand 94) tlog (fun t => t.phase = .safe ∧ t.pins.ready = false ∧ t.pins.fatalN = false ∧ t.fld 94 0x20100 30 30 = 1 ∧ t.chanState (.attic 0 0) = 5 ∧ t.chanState (.attic 1 0) = 0) := by decide +kernel
theorem test_safe_dump : after (.safeStateCommand 94) tlog (fun t => (t.mgmt.dumps.get DumpArea.reset 1).committed = true ∧ (t.mgmt.dumps.get DumpArea.reset 1).records.length = 1 ∧ (t.mgmt.dumps.get DumpArea.reset 1).sequence = 1) := by decide +kernel
def dumped (n m : Nat) : State := { tb with mgmt := { tb.mgmt with dumps := ⟨[(0, { DumpArea.reset with erased := false, committed := true, sequence := n }), (1, { DumpArea.reset with erased := false, committed := m != 0, sequence := m })]⟩ } }
theorem test_dump_erase : after .dumpAreaErase (dumped 3 4) (fun t => (t.mgmt.dumps.get DumpArea.reset 0).committed = false ∧ (t.mgmt.dumps.get DumpArea.reset 1).committed = true) ∧
    after .dumpAreaErase (dumped 5 4) (fun t => (t.mgmt.dumps.get DumpArea.reset 1).committed = false ∧ (t.mgmt.dumps.get DumpArea.reset 0).committed = true) ∧
    after .dumpAreaErase (dumped 5 0) (fun t => (t.mgmt.dumps.get DumpArea.reset 0).committed = true) := by decide +kernel

/-! ### Power and temperature -/

/-- The power the package may draw is 50,000; die 5 holds a budget of 500. -/
def tpw : State := (tb.setFld 94 0xD0104 19 0 50000).setSteward 5 { tb.steward 5 with budget := 500, need := 100, wants := ⟨[(41, 300)]⟩ }
/-- The kinds and bodies of the Back Stair messages sent. -/
def stairs (t : State) : List (Nat × Nat × List Nat) := t.sent.filterMap (fun m => match m with | .backStair k _ d l => some (k, d, l) | _ => none)
theorem test_budget_hyps : (tpw.flp.isSome = true ∧ tpw.sumMin = 1000 ∧ tpw.fld 94 0xD0100 19 0 = 0 ∧ tpw.activeDie = 94) ∧ partners 5 = [41] ∧ (tpw.budgetCfg 5).min = 10 := by decide +kernel
theorem test_budget_recompute : after (.budgetRecompute 4800) tpw (fun t => t.fld 94 0xD0104 19 0 = 86400 ∧ (t.steward 94).budget = (tpw.steward 94).budget + 36400 ∧ t.sent = []) ∧
    after (.budgetRecompute 1000) tpw (fun t => t.fld 94 0xD0104 19 0 = 18000 ∧ t.cutGen = tpw.cutGen + 1 ∧ (stairs t).length = 100 ∧ (stairs t).head?.map (·.2.2) = some [tpw.cutGen + 1, 65536 * 17000 / 49000]) ∧
    after (.budgetRecompute 4800) { tpw with flp := none } (fun t => t.fld 94 0xD0104 19 0 = 86400 ∧ t.sent = []) := by decide +kernel
theorem test_pkg_limit : after (.pkgLimitWrite false 999) tpw (fun t => t.fld 94 0xD0104 31 31 = 1 ∧ t.fld 94 0xD0100 19 0 = 0) ∧ after (.pkgLimitWrite false 1000) tpw (fun t => t.fld 94 0xD0104 31 31 = 0 ∧ t.fld 94 0xD0100 19 0 = 1000) := by decide +kernel
def tep : State := { tpw with time := 5000000 }
theorem test_epoch_start : (tep.rd64 5 0xD0018 = 0) ∧ after (.powerEpochStart 5 400) tep (fun t => (t.steward 5).need = 420 ∧ t.rd64 5 0xD0018 = 5 ∧ stairs t = [(2, 41, [500, 0])]) ∧
    after (.powerEpochStart 5 600) tep (fun t => (t.steward 5).need = 630 ∧ stairs t = [(2, 41, [500, 130])]) := by decide +kernel
def tlost : State := (tep.wr64 5 0xD0018 4).setSteward 5 { tpw.steward 5 with heard := false, silent := 1 }
theorem test_isolation : (tlost.pwrBit 5 31 = false ∧ tlost.rd64 5 0xD0018 ≠ 0 ∧ (tlost.steward 5).budget = 500) ∧
    after (.powerEpochStart 5 400) tlost (fun t => t.pwrBit 5 31 = true ∧ (t.steward 5).budget = 450 ∧ t.rd 5 0xD000C = 50) := by decide +kernel
theorem test_epoch_telemetry : after (.powerEpochStart 94 400) tep (fun t => t.mgmt.telemetry.take 16 = leBytes 8 5000000 ++ leBytes 8 5) := by decide +kernel
theorem test_token_give : after (.tokenGiveTimer 5) tpw (fun t => stairs t = [(3, 41, [300, 0])] ∧ (t.steward 5).budget = 200) ∧ after (.tokenGiveTimer 6) tpw (fun t => t.sent = []) := by decide +kernel
theorem test_state_message : 41 ∈ partners 5 ∧ after (.state 5 41 70 30) tpw (fun t => (t.steward 5).heard = true ∧ (t.steward 5).wants.get 0 41 = 30 ∧ (t.steward 5).seen.get 0 41 = 70) := by decide +kernel
theorem test_give : (tpw.steward 5).factors.all (fun x => decide (x.1 ≤ 0)) = true ∧ after (.give 5 41 25 0 false) tpw (fun t => (t.steward 5).budget = 525) ∧
    after (.give 5 41 25 0 false) (tpw.setPwrBit 5 31 true) (fun t => (t.steward 5).budget = 500 ∧ t.rd 5 0xD000C = 25) := by decide +kernel
theorem test_cut : after (.cut 5 3 32768) tpw (fun t => t.fld 5 0xD0004 15 0 = 3 ∧ (t.steward 5).budget = 255) := by decide +kernel
theorem test_power_measure : after (.powerMeasure 5 501 77 false) tpw (fun t => t.fld 5 0xD0008 31 16 = 77 ∧ (t.steward 5).limited = true ∧ (t.steward 5).ceiling = 1) ∧
    after (.powerMeasure 5 500 77 false) (tpw.setSteward 5 { tpw.steward 5 with ceiling := 2 }) (fun t => (t.steward 5).ceiling = 1) := by decide +kernel
def tin (low high : Nat) : State := { tpw with lowUs := low, overUs := high }
theorem test_input_sample : after (.inputSample 4800 100) (tin 50 0) (fun t => t.lowUs = 0 ∧ t.calmUs = tpw.calmUs + 10 ∧ t.rd 94 0xD0108 = 4800 * 65536 + 100 ∧ t.phase = .running) ∧
    after (.inputSample 4699 100) (tin 80 0) (fun t => t.lowUs = 90 ∧ t.phase = .running) ∧ after (.inputSample 4699 100) (tin 90 0) (fun t => t.phase = .powerDown ∧ t.pins.ready = false) ∧
    after (.inputSample 4800 19001) (tin 0 0) (fun t => t.overUs = 10 ∧ t.pwrBit 0 27 = false) ∧
    after (.inputSample 4800 19001) (tin 0 10) (fun t => t.pwrBit 0 27 = true ∧ t.pwrBit 35 27 = true ∧ (stairs t).length = 36 ∧ t.rd 94 0xD010C = 1) := by decide +kernel
def tfast : State := { tpw.setPwrBit 0 27 true with calmUs := 100 }
theorem test_throttle_lift : (tfast.pwrBit 0 27 = true ∧ 100 ≤ tfast.calmUs) ∧ after .fastThrottleLift tfast (fun t => t.pwrBit 0 27 = false) ∧ after .fastThrottleLift { tfast with calmUs := 90 } (fun t => t.pwrBit 0 27 = true) := by decide +kernel
theorem test_regulator : bitAt (tb.sev 0x4A) 11 = true ∧ after (.regulatorOutOfRange 3) tb (fun t => t.fencedU.contains (UnitKind.die, 3)) := by decide +kernel
theorem test_die_temp : after (.dieTempPoll 5 [80, 101, 90]) tpw (fun t => t.fld 5 0xD0010 15 8 = 101 ∧ t.pwrBit 5 29 = true ∧ t.pins.thermN = false ∧ (t.steward 5).thermal = 1) ∧
    after (.dieTempPoll 5 [96]) (tpw.setPwrBit 5 29 true) (fun t => t.pwrBit 5 29 = false) ∧ after (.dieTempPoll 5 [97]) (tpw.setPwrBit 5 29 true) (fun t => t.pwrBit 5 29 = true) := by decide +kernel
theorem test_throttle_release : after (.throttleReleaseStep 5) (tpw.setSteward 5 { tpw.steward 5 with thermal := 3 }) (fun t => (t.steward 5).thermal = 2) ∧
    after (.throttleReleaseStep 5) ((tpw.setSteward 5 { tpw.steward 5 with thermal := 3 }).setFld 5 0xD0010 15 8 97) (fun t => (t.steward 5).thermal = 3) := by decide +kernel
theorem test_attic_temp : ((dieChans 36).head?.isSome ∧ tb.stackHot 36 = false ∧ tb.fld 36 0x30800 2 0 ≠ 4) ∧
    after (.atticTempPoll 0 [50, 90]) tb (fun t => t.fld 36 0x30800 15 8 = 90 ∧ t.fld 36 0x30800 2 0 = 1 ∧ t.fld 36 0x30000 25 24 = 1) ∧ after (.atticTempPoll 0 [105]) tb (fun t => t.pins.thermN = false) := by decide +kernel
theorem test_annex_temp : after (.annexTempPoll 2 [40, 96, 7]) tb (fun t => t.fld 74 0x30800 2 0 = 2 ∧ t.pins.thermN = true) := by decide +kernel
/-- The stack has been below the band's lower limit since device time 5. -/
def tband (now : Nat) : State := let s := overList tb (List.finRange 16) (fun s c => s.setFld (chanReg (.attic 0 c)).1 (chanReg (.attic 0 c)).2 25 24 1)
  { s.setChan (.attic 0 0) { s.chan (.attic 0 0) with below := ⟨[(1, 5)]⟩ } with time := now }
theorem test_attic_band : ((tband 1000004).fld 36 0x30000 25 24 = 1 ∧ ((tband 1000004).chan (.attic 0 0)).below.get 0 1 = 5) ∧ after (.atticTempPoll 0 [83]) (tband 1000004) (fun t => t.fld 36 0x30000 25 24 = 0) ∧
    after (.atticTempPoll 0 [83]) (tband 1000003) (fun t => t.fld 36 0x30000 25 24 = 1) ∧ after (.atticTempPoll 0 [84]) (tband 1000004) (fun t => t.fld 36 0x30000 25 24 = 1) := by decide +kernel
theorem test_clock_gate : (tb.core 7).kernel = none ∧ after (.coreClockGate 7) tb (fun t => (t.core 7).clock = 1 ∧ (t.core 8).clock = 0) ∧
    after (.coreClockGate 7) (tb.setCore 7 { tb.core 7 with kernel := some 3 }) (fun t => (t.core 7).clock = 0) := by decide +kernel
theorem test_droop : after (.supplyDroop (.core 7) 5) tb (fun t => t.rd64 (coreDie 7) (coreOff 7 0xE08) = 5) ∧ after (.supplyDroop (.cluster 17) 5) tb (fun t => t.rd64 33 0xD0208 = 5) := by decide +kernel

/-! ### The whole machine -/

theorem test_step_front : after .vinRise toff (fun t => t.phase = .running) ∧ (match step { toff with pending := [.vinRise, .pwrOkRise] } with | .next t => decide (t.pending = [.pwrOkRise] ∧ t.phase = .running) | .fault _ | .refused _ => false) = true := by decide +kernel
theorem test_idle : (match step tb with | .next t => decide (t.time = tb.time + 1 ∧ t.pending = []) | .fault _ | .refused _ => false) = true ∧
    (match step { toff with pending := [] } with | .next t => decide (t.time = 9 ∧ t.phase = .off) | .fault _ | .refused _ => false) = true := by decide +kernel
theorem test_reset : State.reset.pending = [] ∧ State.reset.time = 0 ∧ State.reset.phase = .running ∧ State.reset.pins.ready = false ∧ State.reset.flp = none ∧ State.reset.level = 0 ∧ State.reset.sev 0x1A = 0x0701 := by decide +kernel
/-- Each phase other than running, and a command that ends it. -/
theorem test_phases_end : after .pwrOkRise toff (fun t => t.phase = .running) ∧ after .powerDownCommitDone { ton with phase := .powerDown } (fun t => t.phase ≠ .powerDown) ∧
    after (.resetNFall true) { ton with phase := .safe } (fun t => t.phase = .held) ∧ after (.resetNFall true) { ton with phase := .recovery } (fun t => t.phase = .held) ∧
    after (.csrWrite 0 0 4 0) { ton with phase := .safe } (fun t => t.phase = .safe) := by decide +kernel

/-! ### Well-formed commands: one ill-formed term for each check -/

def wm : CohMsg := { line := 0, agent := 36, txn := 0, gseq := 0, data := [], mask := 0, poison := false, grant := .I, final := false, superseded := false, noData := false, starve := 0, sender := 0 }
def wl : LinkMsg := { opcode := 0x20, fn := 0, tag := 0, status := 0, addr := 0, aux := 0, len := 0, mask := 0, data := [], poison := false }
theorem test_wf_accepts : Instr.wellFormed (.csrWrite 51200 0x3F000000000 4 0) = true ∧ Instr.wellFormed (.rds wm) = true ∧ Instr.wellFormed (.snpInv wm 127) = true ∧ Instr.wellFormed (.ncRd 0 wl) = true ∧
    Instr.wellFormed (.rrd 0 (fm 1 1 0 0)) = true ∧ Instr.wellFormed (.fabricFlitReceive 0 (tflit 0 0) 5 0) = true ∧ Instr.wellFormed (.faultDetect ⟨(fi 0x10 .none 0), []⟩) = true ∧ Instr.wellFormed .vinRise = true := by decide
theorem test_wf_csr : Instr.wellFormed (.csrWrite 65536 0 4 0) = false ∧ Instr.wellFormed (.csrWrite 5 (2 ^ 52) 4 0) = false ∧ Instr.wellFormed (.csrWrite 5 0 2 0) = false ∧
    Instr.wellFormed (.csrAccessError 51200 0 4) = false ∧ Instr.wellFormed (.csrAccessError 5 (2 ^ 52) 4) = false := by decide
theorem test_wf_channels : Instr.wellFormed (.checkWindow ⟨0, 0⟩ [(66, 1)]) = false ∧ Instr.wellFormed (.channelRead (.annex 0) 0 51200 .clean 0) = false ∧
    Instr.wellFormed (.channelWrite (.annex 0) 0 51200 0 (List.replicate 128 0) false ⟨.clean, 0⟩) = false ∧ Instr.wellFormed (.channelWrite (.annex 0) 0 5 0 [] false ⟨.clean, 0⟩) = false ∧
    Instr.wellFormed (.holdRetryResend (.annex 0) ⟨{ agent := 51200, write := false, line := 0, mask := 0, data := [] }, ⟨.clean, 0⟩⟩) = false ∧
    Instr.wellFormed (.holdRetryResend (.annex 0) ⟨{ agent := 5, write := false, line := 0, mask := 0, data := List.replicate 129 0 }, ⟨.clean, 0⟩⟩) = false := by decide
theorem test_wf_coherence : Instr.wellFormed (.rds { wm with agent := 65536 }) = false ∧ Instr.wellFormed (.rds { wm with sender := 51200 }) = false ∧ Instr.wellFormed (.wb { wm with data := [1] }) = false ∧
    Instr.wellFormed (.atom wm .add 3 0 0 0) = false ∧ Instr.wellFormed (.atom wm .add 2 120 0 0) = false ∧ Instr.wellFormed (.atom { wm with data := [1] } .add 1 0 0 0) = false ∧
    Instr.wellFormed (.snpInv wm 101) = false ∧ Instr.wellFormed (.snpInv { wm with data := [1] } 5) = false ∧ Instr.wellFormed (.snoopTimeout 0 128) = false ∧
    Instr.wellFormed (.baseDieCacheRead 0 { wm with data := [1] } false) = false := by decide
theorem test_wf_link : Instr.wellFormed (.flitReceive 0 { tflit 16 0 with ack := 0 } 5 0 0) = false ∧ Instr.wellFormed (.flitReceive 0 { tflit 0 0 with crdClass := 8 } 5 0 0) = false ∧
    Instr.wellFormed (.flitReceive 0 { tflit 0 0 with crdSlots := 4096 } 5 0 0) = false ∧ Instr.wellFormed (.flitReceive 0 { tflit 0 0 with slots := [] } 5 0 0) = false ∧
    Instr.wellFormed (.ncRd 0 { wl with status := 16 }) = false ∧ Instr.wellFormed (.ncRd 0 { wl with addr := 2 ^ 52 }) = false ∧ Instr.wellFormed (.ncWr 0 { wl with len := 1 }) = false ∧
    Instr.wellFormed (.msi 0 4096) = false ∧ Instr.wellFormed (.nop 0 4096) = false := by decide
theorem test_wf_fabric : Instr.wellFormed (.rrd 0 { fm 1 1 0 0 with ttl := 64 }) = false ∧ Instr.wellFormed (.rrd 0 (fm 1 16384 0 0)) = false ∧ Instr.wellFormed (.rrd 0 { fm 1 1 0 0 with src := 16384 }) = false ∧
    Instr.wellFormed (.rrd 0 { fm 1 1 0 0 with status := 16 }) = false ∧ Instr.wellFormed (.rrd 0 (fm 1 1 (2 ^ 42) 0)) = false ∧ Instr.wellFormed (.rrd 0 { fm 1 1 0 0 with data := [1] }) = false ∧
    Instr.wellFormed (.versionToken 0 256 0 0) = false ∧ Instr.wellFormed (.versionToken 0 0 256 0) = false ∧ Instr.wellFormed (.nodeDown 0 16384) = false ∧ Instr.wellFormed (.nodeUp 0 0 256) = false ∧
    Instr.wellFormed (.remoteAccessTimeout 65536) = false := by decide
theorem test_wf_collectives : Instr.wellFormed (.cready 0 12288 c0.fields 2) = false ∧ Instr.wellFormed (.cready 0 0 { c0.fields with nodes := 1 } 2) = false ∧ Instr.wellFormed (.cready 0 0 { c0.fields with nodes := 1, group := [16384] } 2) = false ∧
    Instr.wellFormed (.cready 0 0 c0.fields 256) = false ∧ Instr.wellFormed (.cack 0 12288 0) = false ∧ Instr.wellFormed (.cack 0 0 (2 ^ 22)) = false ∧
    Instr.wellFormed (.collectiveAbort 0 256 0 0) = false ∧ Instr.wellFormed (.collectiveAbort 0 5 65536 0) = false ∧ Instr.wellFormed (.collectiveAbort 0 5 0 65536) = false := by decide
theorem test_wf_management : Instr.wellFormed (.faultDetect ⟨(fi 0x10 .none 0), [fi 0x10 .none 65536]⟩) = false ∧ Instr.wellFormed (.faultDetect ⟨{ fi 0x10 .none 0 with unit := 512 }, []⟩) = false ∧ Instr.wellFormed (.faultDetect ⟨(fi 0x10 .none 65536), []⟩) = false ∧ Instr.wellFormed (.faultDetect ⟨{ fi 0x10 .none 0 with access := 8 }, []⟩) = false ∧
    Instr.wellFormed (.faultDetect ⟨{ fi 0x10 .none 0 with detail := List.replicate 29 0 }, []⟩) = false ∧ Instr.wellFormed (.mgtStatus (mr (2 ^ 64) [])) = false ∧ Instr.wellFormed (.pldmSensorRead true 65536) = false ∧
    Instr.wellFormed (.getCertificate .bus0 8 0 0) = false ∧ Instr.wellFormed (.getCertificate .bus0 0 65536 0) = false ∧ Instr.wellFormed (.getCertificate .bus0 0 0 65536) = false ∧
    Instr.wellFormed (.challenge .bus0 8 (List.replicate 32 0)) = false ∧ Instr.wellFormed (.challenge .bus0 0 []) = false ∧ Instr.wellFormed (.getMeasurements .bus0 []) = false ∧
    Instr.wellFormed (.longOperationDone 0 256) = false := by decide

/-! ### What no word spells -/

theorem test_no_word_spells_a_command : decodeTableWord 32 0xFFFFFFFF = none ∧ (tb.withFetchWord 32 5).pending = [] := by decide +kernel

end Sys2Proof.Tests
end

section
/-! # CSR accesses, the front of the queue, and that every command answers

Where an address of the CSR window leads (R7, R374, R426), what a write of a word does there (R6, R9, R375), and the statements
on CSR_WRITE and CSR_ACCESS_ERROR; then the step that runs the front of the queue, and the case split over all commands. -/

namespace Sys2Proof.Machine

/-! ## Where an address leads, and who may write there -/

theorem csrPlace_die {a d o : Nat} (ha : a = 0x30000000000 + d * 2 ^ 32 + o) (hd : d < 100) (ho : o < 2 ^ 32) : csrPlace a = .die d o := by
  have hq : (a - 0x30000000000) / 2 ^ 32 = d := by omega
  have hr : (a - 0x30000000000) % 2 ^ 32 = o := by omega
  rw [csrPlace, if_pos (by omega), hq, hr]

theorem csrPlace_fn {a p o : Nat} (ha : a = 0x3F000000000 + p * 0x1000000 + o) (hp : p < 8) (ho : o < 0x1000000) : csrPlace a = .fn p o := by
  have hq : (a - 0x3F000000000) / 0x1000000 = p := by omega
  have hr : (a - 0x3F000000000) % 0x1000000 = o := by omega
  rw [csrPlace, if_neg (by omega), if_pos (by omega), hq, hr]

theorem csrMay_die {agent a d o : Nat} (hag : csrAgentOk agent = true) (ha : csrPlace a = .die d o) : csrMay agent a = true := by
  have hlt : ¬ 51200 ≤ agent := by simp [csrAgentOk] at hag; omega
  rw [csrMay, if_neg hlt, hag, ha]; rfl

theorem csrMay_fn {agent a p o : Nat} (hag : 51200 ≤ agent) (ha : csrPlace a = .fn p o) : csrMay agent a = true := by
  rw [csrMay, if_pos hag, compCsrOk, ha]

theorem csrAligned_of_mod {a n : Nat} (hn : n = 4 ∨ n = 8) (ha : a % n = 0) : csrAligned a n = true := by
  simp [csrAligned, hn, ha]

/-! ## The access as its words -/

theorem State.send_contained (s : State) (agent code : Nat) : s.send (.contained agent code) = s.out (.contained agent code) := s.send_quiet rfl

theorem State.send_csrData (s : State) (agent : Nat) (v : DWord) : s.send (.csrData agent v) = s.out (.csrData agent v) := s.send_quiet rfl

section
variable {s : State} {agent a : Nat} {value : DWord} (hrun : s.phase = .running)
include hrun

theorem gate_running (f : State → State) : gate s f = .next (f s) := if_pos hrun

/-- A CSR_WRITE of a running package, with its three outcomes. -/
theorem exec_csrWrite (size : Nat) :
    exec (.csrWrite agent a size value) s = .next (
      if csrAligned a size then
        if csrMay agent a then
          if size = 8 then (s.csrStore a (value.setWidth 32)).csrStore (a + 4) ((value >>> 32).setWidth 32)
          else s.csrStore a (value.setWidth 32)
        else s
      else s.send (.contained agent 0x100)) := by
  dsimp only [exec]
  exact gate_running hrun _

theorem exec_csrWrite_word (hmay : csrMay agent a = true) (hal : csrAligned a 4 = true) :
    exec (.csrWrite agent a 4 value) s = .next (s.csrStore a (value.setWidth 32)) := by
  simp [exec_csrWrite hrun, hmay, hal]

theorem exec_csrWrite_dword (hmay : csrMay agent a = true) (hal : csrAligned a 8 = true) :
    exec (.csrWrite agent a 8 value) s =
      .next ((s.csrStore a (value.setWidth 32)).csrStore (a + 4) ((value >>> 32).setWidth 32)) := by
  simp [exec_csrWrite hrun, hmay, hal]

/-- R375: an agent that may not write the address changes nothing. -/
theorem exec_csrWrite_barred {size : Nat} (hmay : csrMay agent a = false) (hal : csrAligned a size = true) :
    exec (.csrWrite agent a size value) s = .next s := by
  simp [exec_csrWrite hrun, hmay, hal]

/-- R9: a misaligned or wrongly sized write is only reported. -/
theorem exec_csrWrite_misaligned {size : Nat} (hal : csrAligned a size = false) :
    exec (.csrWrite agent a size value) s = .next (s.out (.contained agent 0x100)) := by
  simp [exec_csrWrite hrun, hal, State.send_contained]

/-- R9: such a read returns zero and is reported. -/
theorem exec_csrAccessError_misaligned {size : Nat} (hal : csrAligned a size = false) :
    exec (.csrAccessError agent a size) s = .next ((s.out (.csrData agent 0)).out (.contained agent 0x100)) := by
  dsimp only [exec]
  simp [execCsrAccessError, gate_running hrun, hal, State.send_contained, State.send_csrData]

/-! The commands that a write of a register does, of a running package. -/

theorem exec_captureSetClear_leaf (d : DieId) (k : Fin 3) :
    exec (.captureSetClear d false k) s =
      .next (s.setLeaf d.val { s.leaf d.val with captures := (s.leaf d.val).captures.set none k.val none }) := by
  dsimp only [exec]
  exact gate_running hrun _

theorem exec_fcLogFree (r95 : Bool) (n : Word) : exec (.fcLogFree r95 n) s = .next (s.setRoot r95 ((s.root r95).free n)) := by
  dsimp only [exec]
  exact gate_running hrun _

theorem exec_fnEnable (p : PartId) (enable : Bool) : exec (.fnEnable p enable) s = .next (s.fnEnable p.val enable) := by
  dsimp only [exec]
  exact gate_running hrun _

theorem exec_routeCommit : exec .routeCommit s = .next s.routeCommit := by
  dsimp only [exec]
  exact gate_running hrun _

theorem exec_colQueueDoorbell (q : ColQueue) : exec (.colQueueDoorbell q) s = .next (s.colPoll q) := by
  dsimp only [exec]
  exact gate_running hrun _

end

/-! ## A word of a die's block -/

/-- A register whose write does no more than `csrWriteWord`: no page of an interrupt file (R401), no control or doorbell of a
collective queue (R462), no mirror of a function's doorbells (R426), no COMMIT of the route tables (R454). -/
def PlainReg (d o : Nat) : Prop :=
  (32 ≤ d ∧ d < 36 → o < 0x100000) ∧ (84 ≤ d ∧ d < 92 ∧ 0xA0000 ≤ o ∧ o < 0xA0100 → o % 0x20 ≠ 8 ∧ o % 0x20 ≠ 16) ∧
    (d = 92 ∨ d = 93 → o < 0x1000000) ∧ (d = 84 → o ≠ 0x90810)

section
variable {s : State} {a d o : Nat}

theorem fileAt_none (ha : csrPlace a = .die d o) (h : 32 ≤ d ∧ d < 36 → o < 0x100000) : fileAt a = none := by
  simp only [fileAt, ha]
  rw [if_neg (by omega), if_neg (by omega)]

theorem colQueueAt_none (ha : csrPlace a = .die d o) (h : ¬ (84 ≤ d ∧ d < 92 ∧ 0xA0000 ≤ o ∧ o < 0xA0100)) : colQueueAt a = none := by
  simp only [colQueueAt, ha]
  rw [dif_neg h]

theorem colQueueAt_some (ha : csrPlace a = .die d o) (h : 84 ≤ d ∧ d < 92 ∧ 0xA0000 ≤ o ∧ o < 0xA0100) :
    colQueueAt a = some (⟨(d - 84) * 8 + (o - 0xA0000) / 0x20, by omega⟩, o % 0x20) := by
  simp only [colQueueAt, ha]
  rw [dif_pos h]

theorem State.csrStore_die (ha : csrPlace a = .die d o) (v : Word) : s.csrStore a v = s.regWrite a v := by
  simp only [State.csrStore, ha]

theorem State.csrWriteAt_die (ha : csrPlace a = .die d o) (v : Word) : s.csrWriteAt a v = s.csrWriteWord d o v := by
  simp only [State.csrWriteAt, ha]

/-- Outside the interrupt files, the collective queues and the mirrors a write is `csrWriteWord`, then the commit where it asks for one. -/
theorem State.csrStore_block (ha : csrPlace a = .die d o) (hfile : 32 ≤ d ∧ d < 36 → o < 0x100000)
    (hcol : 84 ≤ d ∧ d < 92 ∧ 0xA0000 ≤ o ∧ o < 0xA0100 → o % 0x20 ≠ 8 ∧ o % 0x20 ≠ 16) (hbell : d = 92 ∨ d = 93 → o < 0x1000000) (v : Word) :
    s.csrStore a v = if d = 84 ∧ o = 0x90810 ∧ v.getLsbD 31 then (s.csrWriteWord d o v).routeCommit else s.csrWriteWord d o v := by
  have hb : ¬ ((d = 92 ∨ d = 93) ∧ 0x1000000 ≤ o ∧ o < 0x1800000) := by omega
  rw [State.csrStore_die ha, State.regWrite, fileAt_none ha hfile]
  by_cases hc : 84 ≤ d ∧ d < 92 ∧ 0xA0000 ≤ o ∧ o < 0xA0100
  · rw [colQueueAt_some ha hc]
    simp [ha, hb, hcol hc, State.csrWriteAt_die ha]
  · rw [colQueueAt_none ha hc]
    simp [ha, hb, State.csrWriteAt_die ha]

theorem State.csrStore_plain (ha : csrPlace a = .die d o) (h : PlainReg d o) (v : Word) : s.csrStore a v = s.csrWriteWord d o v := by
  obtain ⟨hfile, hcol, hbell, hcommit⟩ := h
  rw [State.csrStore_block ha hfile hcol hbell, if_neg fun hc => hcommit hc.1 hc.2.1]

/-- R462: a write of the doorbell of a collective queue polls its ring. -/
theorem State.csrStore_colDoorbell (q : ColQueue) (ha : csrPlace a = .die (colDie q.val) (colOff q.val 0x10)) (v : Word) :
    s.csrStore a v = s.colPoll q := by
  have hq := q.isLt
  have hc : 84 ≤ colDie q.val ∧ colDie q.val < 92 ∧ 0xA0000 ≤ colOff q.val 0x10 ∧ colOff q.val 0x10 < 0xA0100 := by
    unfold colDie colOff; omega
  have hat : colQueueAt a = some (q, 16) := by
    have hix : (colDie q.val - 84) * 8 + (colOff q.val 0x10 - 0xA0000) / 0x20 = q.val := by unfold colDie colOff; omega
    have hreg : colOff q.val 0x10 % 0x20 = 16 := by unfold colOff; omega
    simp only [colQueueAt_some ha hc, hix, hreg]
  simp only [State.csrStore_die ha, State.regWrite, fileAt_none ha (by omega), hat]

theorem exec_csrWrite_plain {agent : Nat} {value : DWord} (hrun : s.phase = .running) (hag : csrAgentOk agent = true)
    (ha : a = 0x30000000000 + d * 2 ^ 32 + o) (hd : d < 100) (ho : o < 2 ^ 32) (hal : o % 4 = 0) (h : PlainReg d o) :
    exec (.csrWrite agent a 4 value) s = .next (s.csrWriteWord d o (value.setWidth 32)) := by
  have hp := csrPlace_die ha hd ho
  rw [exec_csrWrite_word hrun (csrMay_die hag hp) (csrAligned_of_mod (.inl rfl) (by omega)), State.csrStore_plain hp h]

end

/-! ## The registers of a die's block, one equation for each -/

section
variable (s : State) (v : Word)

@[simp] theorem State.csrWriteWord_dieId (d : Nat) : s.csrWriteWord d 0 v = s := by simp [State.csrWriteWord]

/-- R485: the first word of a capture set at a leaf. -/
theorem State.csrWriteWord_capture (d : Nat) {k : Nat} (hk : k < 3) :
    s.csrWriteWord d (0xC0100 + 0x20 * k) v =
      if v.getLsbD 31 then s.setLeaf d { s.leaf d with captures := (s.leaf d).captures.set none k none } else s := by
  have hm : (0xC0100 + 0x20 * k) % 0x20 = 0 := by omega
  have hq : (0xC0100 + 0x20 * k - 0xC0100) / 0x20 = k := by omega
  rw [State.csrWriteWord, if_pos (by omega), hm, hq]
  simp [clearSet]

/-- R371: a dirty limit of 8 to 1,000 is taken. -/
theorem State.csrWriteWord_dirtyLimit {d : Nat} (hd : 32 ≤ d ∧ d < 36) :
    s.csrWriteWord d 0x60000 v =
      if 8 ≤ bits v.toNat 9 0 ∧ bits v.toNat 9 0 ≤ 1000 then s.setFld d 0x60000 9 0 (bits v.toNat 9 0) else s := by
  rw [State.csrWriteWord, if_neg (by omega), if_pos ⟨hd.1, hd.2, rfl⟩]

theorem State.csrWriteWord_root {d o : Nat} (hd : d = 94 ∨ d = 95) (ho : 0xE0000 ≤ o) (ho' : o < 0xF0000) :
    s.csrWriteWord d o v = s.rootWrite (d == 95) o v := by
  rw [State.csrWriteWord, if_neg (by omega), if_neg (by omega), if_pos ⟨hd, ho, ho'⟩]

/-- R454: a word of the staged route table. -/
theorem State.csrWriteWord_stage {i : Nat} (hi : i < 0x3022) :
    s.csrWriteWord 84 (0xB0000 + 4 * i) v = s.stageWord (4 * i) v := by
  rw [State.csrWriteWord, if_neg (by omega), if_neg (by omega), if_neg (by omega), if_neg (by omega), if_pos (by omega), Nat.add_sub_cancel_left]

/-- R454: a 0 to ERR of the commit's register leaves it. -/
theorem State.csrWriteWord_commit (hv : v.getLsbD 29 = false) : s.csrWriteWord 84 0x90810 v = s := by
  simp only [State.csrWriteWord, hv]
  simp

/-- R462: the ring's base of a collective queue that is not armed. -/
theorem State.csrWriteWord_ringBase {d q x : Nat} (hd : 84 ≤ d ∧ d < 92) (hq : q < 8) (hx : x < 8)
    (harmed : s.fld d (0xA0000 + 0x20 * q + 8) 31 31 = 0) :
    s.csrWriteWord d (0xA0000 + 0x20 * q + x) v = s.wr d (0xA0000 + 0x20 * q + x) v := by
  have hctrl : (0xA0000 + 0x20 * q + x) / 0x20 * 0x20 + 8 = 0xA0000 + 0x20 * q + 8 := by omega
  rw [State.csrWriteWord, if_neg (by omega), if_neg (by omega), if_neg (by omega), if_neg (by omega), if_neg (by omega), if_neg (by omega),
    if_pos (by omega)]
  simp only [hctrl, harmed]
  rw [if_neg (by omega), if_pos (by omega)]

/-- R131: a word of a core's sub-block. -/
theorem State.csrWriteWord_core (c : CoreId) {x : Nat} (hx : x < 0x10000) :
    s.csrWriteWord (coreDie c.val) (coreOff c.val x) v = s.subBlockWrite (coreDie c.val) (coreOff c.val x) v := by
  have hc := c.isLt
  have hd : coreDie c.val < 32 := by unfold coreDie; omega
  have ho : 0x1000000 ≤ coreOff c.val x ∧ coreOff c.val x < 0x1140000 := by unfold coreOff; omega
  rw [State.csrWriteWord, if_neg (by omega), if_neg (by omega), if_neg (by omega), if_neg (by omega), if_neg (by omega), if_neg (by omega),
    if_neg (by omega), if_pos ⟨hd, ho⟩]

theorem coreOff_mod (c : Nat) {x : Nat} (hx : x < 0x10000) : coreOff c x % 0x10000 = x := by unfold coreOff; omega

/-- A 1 to DIS of WATCH_STATUS clears DIS and VALID of the first disagreement (Table 9-15). -/
theorem State.subBlockWrite_watchStatus (d c : Nat) :
    s.subBlockWrite d (coreOff c 0x804) v =
      if v.getLsbD 3 then (s.setFld d (coreOff c 0x804) 3 3 0).setFld d (coreOff c 0x820) 31 31 0 else s := by
  have hbase : coreOff c 0x804 - 0x804 + 0x820 = coreOff c 0x820 := by unfold coreOff; omega
  simp [State.subBlockWrite, coreOff_mod, hbase]

/-- A 1 to VALID of PAN_ECC_FIRST clears the register (Table 10-19). -/
theorem State.subBlockWrite_eccFirst (d c : Nat) :
    s.subBlockWrite d (coreOff c 0x888) v = if v.getLsbD 31 then s.wr d (coreOff c 0x888) 0 else s := by
  simp [State.subBlockWrite, coreOff_mod]

theorem State.rootWrite_logFree (r95 : Bool) : s.rootWrite r95 0xE0010 v = s.setRoot r95 ((s.root r95).free v) := by simp [State.rootWrite]

/-! ## The registers of a function region -/

theorem State.fnWrite_control (p : Nat) :
    s.fnWrite p 0 v = if v.getLsbD 1 then (s.fnEnable p (v.getLsbD 0)).fnReset p else s.fnEnable p (v.getLsbD 0) := by
  simp [State.fnWrite]

theorem State.fnWrite_sqBase_low (p : Nat) :
    s.fnWrite p 0x10 v = s.setFn p { s.fn p with sqBase := (s.fn p).sqBase.extractLsb' 32 32 ++ v } := by
  simp [State.fnWrite, State.fnWriteWord]

theorem State.fnWrite_sqBase_high (p : Nat) :
    s.fnWrite p 0x14 v = s.setFn p { s.fn p with sqBase := v ++ (s.fn p).sqBase.extractLsb' 0 32 } := by
  simp [State.fnWrite, State.fnWriteWord]

theorem State.fnWrite_cqBase_low (p : Nat) :
    s.fnWrite p 0x18 v = s.setFn p { s.fn p with cqBase := (s.fn p).cqBase.extractLsb' 32 32 ++ v } := by
  simp [State.fnWrite, State.fnWriteWord]

theorem State.fnWrite_cqBase_high (p : Nat) :
    s.fnWrite p 0x1C v = s.setFn p { s.fn p with cqBase := v ++ (s.fn p).cqBase.extractLsb' 0 32 } := by
  simp [State.fnWrite, State.fnWriteWord]

end

/-- The low word written below the high word of `w`, then the high word written above it, is the whole value. -/
theorem dword_of_halves (w value : DWord) :
    (value >>> 32).setWidth 32 ++ (w.extractLsb' 32 32 ++ value.setWidth 32 : DWord).extractLsb' 0 32 = value := by
  ext i hi
  simp only [BitVec.getElem_append, BitVec.getElem_setWidth, BitVec.getLsbD_ushiftRight, BitVec.getElem_extractLsb', BitVec.getLsbD_append]
  split
  · rename_i hlow
    simp [hlow, BitVec.getLsbD_eq_getElem hi]
  · rw [show 32 + (i - 32) = i by omega, BitVec.getLsbD_eq_getElem hi]

section
variable {s : State} {comp a p o : Nat} {value : DWord}

theorem exec_csrWrite_fn (hrun : s.phase = .running) (hc : 51200 ≤ comp) (ha : a = 0x3F000000000 + p * 0x1000000 + o) (hp : p < 8)
    (ho : o < 0x1000000) (hal : o % 4 = 0) : exec (.csrWrite comp a 4 value) s = .next (s.fnWrite p o (value.setWidth 32)) := by
  have hat := csrPlace_fn ha hp ho
  rw [exec_csrWrite_word hrun (csrMay_fn hc hat) (csrAligned_of_mod (.inl rfl) (by omega))]
  simp only [State.csrStore, hat]

theorem exec_csrWrite_fn_dword (hrun : s.phase = .running) (hc : 51200 ≤ comp) (ha : a = 0x3F000000000 + p * 0x1000000 + o) (hp : p < 8)
    (ho : o + 4 < 0x1000000) (hal : o % 8 = 0) :
    exec (.csrWrite comp a 8 value) s =
      .next ((s.fnWrite p o (value.setWidth 32)).fnWrite p (o + 4) ((value >>> 32).setWidth 32)) := by
  have hlow := csrPlace_fn ha hp (by omega)
  have hhigh : csrPlace (a + 4) = .fn p (o + 4) := csrPlace_fn (by omega) hp ho
  rw [exec_csrWrite_dword hrun (csrMay_fn hc hlow) (csrAligned_of_mod (.inr rfl) (by omega))]
  simp only [State.csrStore, hlow, hhigh]

end

/-! ## The statements on CSR accesses -/

/-- Settles O1, by R9's own branch of the two commands. -/
theorem misalignedCsrAccess : Obligations.MisalignedCsrAccess := fun _ _ _ _ _ hrun hal =>
  ⟨exec_csrAccessError_misaligned hrun hal, exec_csrWrite_misaligned hrun hal⟩

theorem getLsbD_low (value : DWord) {i : Nat} (hi : i < 32) : (value.setWidth 32 : Word).getLsbD i = value.getLsbD i := by
  simp [hi]

/-- The field of the L2 dirty limit, of the value's low word. -/
theorem dirtyLimit_of_value (value : DWord) : bits (value.setWidth 32 : Word).toNat 9 0 = value.toNat % 1024 := by
  simp [bits]

section
variable {s : State} {agent a : Nat} {value : DWord} (hrun : s.phase = .running)
include hrun

/-- Both words of the base of an unarmed collective queue's ring are written (R462). -/
theorem exec_csrWrite_ringBase (hag : csrAgentOk agent = true) {d q : Nat} (hd : 84 ≤ d ∧ d < 92) (hq : q < 8)
    (ha : a = 0x30000000000 + d * 2 ^ 32 + (0xA0000 + 0x20 * q)) (harmed : s.fld d (0xA0000 + 0x20 * q + 8) 31 31 = 0) :
    exec (.csrWrite agent a 8 value) s = .next (s.wr64 d (0xA0000 + 0x20 * q) value) := by
  have hlow : csrPlace a = .die d (0xA0000 + 0x20 * q + 0) := csrPlace_die ha (by omega) (by omega)
  have hhigh : csrPlace (a + 4) = .die d (0xA0000 + 0x20 * q + 4) := csrPlace_die (by omega) (by omega) (by omega)
  have hplain {x : Nat} (hx : x < 8) : PlainReg d (0xA0000 + 0x20 * q + x) := by unfold PlainReg; omega
  have hkey : csrKey d (0xA0000 + 0x20 * q + 8) ≠ csrKey d (0xA0000 + 0x20 * q + 0) := csrKey_ne (by omega) (by omega) (by omega)
  have harmed' : (s.wr d (0xA0000 + 0x20 * q + 0) (value.setWidth 32)).fld d (0xA0000 + 0x20 * q + 8) 31 31 = 0 := by
    rw [State.fld, State.rd_wr_ne _ _ _ _ _ _ hkey]; exact harmed
  rw [exec_csrWrite_dword hrun (csrMay_die hag hlow) (csrAligned_of_mod (.inr rfl) (by omega)),
    State.csrStore_plain hlow (hplain (by decide)), State.csrStore_plain hhigh (hplain (by decide)),
    State.csrWriteWord_ringBase _ _ hd hq (by decide) harmed, State.csrWriteWord_ringBase _ _ hd hq (by decide) harmed', Nat.add_zero, State.wr64]

/-- The L2 dirty limit of a CPU die takes 8 to 1,000 (R371). -/
theorem exec_csrWrite_dirtyLimit (hag : csrAgentOk agent = true) {d : Nat} (hd : 32 ≤ d ∧ d < 36) (ha : a = 0x30000000000 + d * 2 ^ 32 + 0x60000) :
    exec (.csrWrite agent a 4 value) s = .next (
      if 8 ≤ value.toNat % 1024 ∧ value.toNat % 1024 ≤ 1000 then s.setFld d 0x60000 9 0 (value.toNat % 1024) else s) := by
  rw [exec_csrWrite_plain hrun hag ha (by omega) (by decide) (by decide) (by unfold PlainReg; omega), State.csrWriteWord_dirtyLimit _ _ hd,
    dirtyLimit_of_value]

/-- DIE_ID is read-only (R42). -/
theorem exec_csrWrite_dieId (hag : csrAgentOk agent = true) (d : DieId) (ha : a = 0x30000000000 + d.val * 2 ^ 32 + 0) :
    exec (.csrWrite agent a 4 value) s = .next s := by
  rw [exec_csrWrite_plain hrun hag ha d.isLt (by decide) (by decide) (by unfold PlainReg; omega), State.csrWriteWord_dieId]

/-- A register of a core's sub-block (R131). -/
theorem exec_csrWrite_core (hag : csrAgentOk agent = true) (c : CoreId) {x : Nat} (hx : x < 0x10000) (hal : x % 4 = 0)
    (ha : a = 0x30000000000 + coreDie c.val * 2 ^ 32 + coreOff c.val x) :
    exec (.csrWrite agent a 4 value) s = .next (s.subBlockWrite (coreDie c.val) (coreOff c.val x) (value.setWidth 32)) := by
  have hc := c.isLt
  have hd : coreDie c.val < 32 := by unfold coreDie; omega
  have ho : coreOff c.val x < 2 ^ 32 ∧ coreOff c.val x % 4 = 0 := by unfold coreOff; omega
  rw [exec_csrWrite_plain hrun hag ha (by omega) ho.1 ho.2 (by unfold PlainReg; omega), State.csrWriteWord_core _ _ _ hx]

/-- DIS of a core's WATCH_STATUS is cleared by a 1. -/
theorem exec_csrWrite_watchStatus (hag : csrAgentOk agent = true) (c : CoreId)
    (ha : a = 0x30000000000 + coreDie c.val * 2 ^ 32 + coreOff c.val 0x804) :
    exec (.csrWrite agent a 4 value) s = .next (
      if value.getLsbD 3 then
        (s.setFld (coreDie c.val) (coreOff c.val 0x804) 3 3 0).setFld (coreDie c.val) (coreOff c.val 0x820) 31 31 0
      else s) := by
  rw [exec_csrWrite_core hrun hag c (by decide) (by decide) ha, State.subBlockWrite_watchStatus, getLsbD_low _ (by decide)]

/-- VALID of a core's first-error register is cleared by a 1. -/
theorem exec_csrWrite_eccFirst (hag : csrAgentOk agent = true) (c : CoreId)
    (ha : a = 0x30000000000 + coreDie c.val * 2 ^ 32 + coreOff c.val 0x888) :
    exec (.csrWrite agent a 4 value) s = .next (if value.getLsbD 31 then s.wr (coreDie c.val) (coreOff c.val 0x888) 0 else s) := by
  rw [exec_csrWrite_core hrun hag c (by decide) (by decide) ha, State.subBlockWrite_eccFirst, getLsbD_low _ (by decide)]

/-- A 1 to VALID of a leaf's capture set is CAPTURE_SET_CLEAR (R485). -/
theorem exec_csrWrite_capture (hag : csrAgentOk agent = true) (d : DieId) (k : Fin 3) (hv : value.getLsbD 31 = true)
    (ha : a = 0x30000000000 + d.val * 2 ^ 32 + (0xC0100 + 0x20 * k.val)) :
    exec (.csrWrite agent a 4 value) s = exec (.captureSetClear d false k) s := by
  have hk := k.isLt
  rw [exec_csrWrite_plain hrun hag ha d.isLt (by omega) (by omega) (by unfold PlainReg; omega), State.csrWriteWord_capture _ _ _ hk,
    getLsbD_low _ (by decide), if_pos hv, exec_captureSetClear_leaf hrun]

/-- A write of FC_LOG_FREE of a management die is the command of that name (R484). -/
theorem exec_csrWrite_logFree (hag : csrAgentOk agent = true) (r95 : Bool)
    (ha : a = 0x30000000000 + (if r95 then 95 else 94) * 2 ^ 32 + 0xE0010) :
    exec (.csrWrite agent a 4 value) s = exec (.fcLogFree r95 (value.setWidth 32)) s := by
  have hd : (if r95 then 95 else 94) = 94 ∨ (if r95 then 95 else 94) = 95 := by cases r95 <;> decide
  have hroot : ((if r95 then 95 else 94) == 95) = r95 := by cases r95 <;> rfl
  rw [exec_csrWrite_plain hrun hag ha (by omega) (by decide) (by decide) (by unfold PlainReg; omega),
    State.csrWriteWord_root _ _ hd (by decide) (by decide), hroot, State.rootWrite_logFree, exec_fcLogFree hrun]

/-- A 1 to COMMIT of the route tables is ROUTE_COMMIT, where ERR is not cleared with it (R454). -/
theorem exec_csrWrite_commit (hag : csrAgentOk agent = true) (herr : value.getLsbD 29 = false) (hv : value.getLsbD 31 = true)
    (ha : a = 0x30000000000 + 84 * 2 ^ 32 + 0x90810) : exec (.csrWrite agent a 4 value) s = exec .routeCommit s := by
  have hp : csrPlace a = .die 84 0x90810 := csrPlace_die ha (by decide) (by decide)
  rw [exec_csrWrite_word hrun (csrMay_die hag hp) (csrAligned_of_mod (.inl rfl) (by omega)),
    State.csrStore_block hp (by omega) (by omega) (by omega), getLsbD_low _ (by decide), if_pos ⟨rfl, rfl, hv⟩,
    State.csrWriteWord_commit _ _ (by rw [getLsbD_low _ (by decide), herr]), exec_routeCommit hrun]

/-- A write of a collective queue's doorbell is COL_QUEUE_DOORBELL (R462). -/
theorem exec_csrWrite_colDoorbell (hag : csrAgentOk agent = true) (q : ColQueue)
    (ha : a = 0x30000000000 + colDie q.val * 2 ^ 32 + colOff q.val 0x10) :
    exec (.csrWrite agent a 4 value) s = exec (.colQueueDoorbell q) s := by
  have hq := q.isLt
  have hd : colDie q.val < 100 := by unfold colDie; omega
  have ho : colOff q.val 0x10 < 2 ^ 32 ∧ colOff q.val 0x10 % 4 = 0 := by unfold colOff; omega
  have hp := csrPlace_die ha hd ho.1
  rw [exec_csrWrite_word hrun (csrMay_die hag hp) (csrAligned_of_mod (.inl rfl) (by omega)), State.csrStore_colDoorbell q hp,
    exec_colQueueDoorbell hrun]

/-- A word of the staged route table of die 84 (R454). -/
theorem exec_csrWrite_stage (hag : csrAgentOk agent = true) {i : Nat} (hi : i < 0x3022)
    (ha : a = 0x30000000000 + 84 * 2 ^ 32 + (0xB0000 + 4 * i)) :
    exec (.csrWrite agent a 4 value) s = .next (s.stageWord (4 * i) (value.setWidth 32)) := by
  rw [exec_csrWrite_plain hrun hag ha (by decide) (by omega) (by omega) (by unfold PlainReg; omega), State.csrWriteWord_stage _ _ hi]

/-- The companion's write of a function's control: ENABLE, then RESET (log 43). -/
theorem exec_csrWrite_fnControl (hc : 51200 ≤ agent) (p : PartId) (ha : a = 0x3F000000000 + p.val * 0x1000000 + 0) :
    exec (.csrWrite agent a 4 value) s = .next (
      if value.getLsbD 1 then (s.fnEnable p.val (value.getLsbD 0)).fnReset p.val else s.fnEnable p.val (value.getLsbD 0)) := by
  rw [exec_csrWrite_fn hrun hc ha p.isLt (by decide) (by decide), State.fnWrite_control, getLsbD_low _ (by decide), getLsbD_low _ (by decide)]

/-- The companion's write of a function's admin submission queue base. -/
theorem exec_csrWrite_sqBase (hc : 51200 ≤ agent) (p : PartId) (ha : a = 0x3F000000000 + p.val * 0x1000000 + 0x10) (v : DWord) :
    ∃ k : Fn, exec (.csrWrite agent a 8 v) s = .next ((s.setFn p.val k).setFn p.val { s.fn p.val with sqBase := v }) := by
  rw [exec_csrWrite_fn_dword hrun hc ha p.isLt (by decide) (by decide), State.fnWrite_sqBase_low, State.fnWrite_sqBase_high,
    State.fn_setFn, dword_of_halves]
  exact ⟨_, rfl⟩

/-- The companion's write of a function's admin completion queue base. -/
theorem exec_csrWrite_cqBase (hc : 51200 ≤ agent) (p : PartId) (ha : a = 0x3F000000000 + p.val * 0x1000000 + 0x18) (v : DWord) :
    ∃ k : Fn, exec (.csrWrite agent a 8 v) s = .next ((s.setFn p.val k).setFn p.val { s.fn p.val with cqBase := v }) := by
  rw [exec_csrWrite_fn_dword hrun hc ha p.isLt (by decide) (by decide), State.fnWrite_cqBase_low, State.fnWrite_cqBase_high,
    State.fn_setFn, dword_of_halves]
  exact ⟨_, rfl⟩

end

/-- Writes of registers change no other state. -/
theorem State.wr_frame (s : State) (d o : Nat) (v : Word) : { s.wr d o v with csr := s.csr } = s := by simp only [State.wr]

theorem State.setFld_setFld_frame (s : State) (d o hi lo v d' o' hi' lo' v' : Nat) :
    { (s.setFld d o hi lo v).setFld d' o' hi' lo' v' with csr := s.csr } = s := by
  simp only [State.setFld, State.wr]

theorem State.wr64_frame (s : State) (d o : Nat) (v : DWord) : { s.wr64 d o v with csr := s.csr } = s := by
  simp only [State.wr64, State.wr]

theorem State.setFld_frame (s : State) (d o hi lo v : Nat) : { s.setFld d o hi lo v with csr := s.csr } = s := s.wr_frame _ _ _

/-- Settles O3, by what the word's register does: the ring's base, the dirty limit, DIE_ID. -/
theorem csrWriteCompletes : Obligations.CsrWriteCompletes := by
  intro s agent d value hrun hag
  dsimp only
  refine ⟨fun q hd hd' harmed => ?_, fun hd hd' => ⟨fun hmin hmax => ?_, fun hout => ?_⟩, exec_csrWrite_dieId hrun hag d rfl⟩
  · have hq := q.isLt
    refine ⟨_, exec_csrWrite_ringBase hrun hag ⟨hd, hd'⟩ hq rfl harmed, State.rd64_wr64 _ _ _ _ (by omega), s.wr64_frame _ _ _, fun e p hlow hhigh => ?_⟩
    rw [State.wr64, State.rd_wr_ne _ _ _ _ _ _ hhigh, State.rd_wr_ne _ _ _ _ _ _ hlow]
  · refine ⟨s.setFld d.val 0x60000 9 0 (value.toNat % 1024), ?_, ?_, s.setFld_frame _ _ _ _ _, fun e p hne => State.rd_wr_ne _ _ _ _ _ _ hne⟩
    · rw [exec_csrWrite_dirtyLimit hrun hag ⟨hd, hd'⟩ rfl, if_pos ⟨hmin, hmax⟩]
    · rw [State.fld_setFld _ _ _ _ _ _ (by decide) (by decide)]
      exact Nat.mod_mod _ _
  · rw [exec_csrWrite_dirtyLimit hrun hag ⟨hd, hd'⟩ rfl, if_neg (by omega)]

/-- A function written twice is the last written; the other functions and all other state stay. -/
theorem State.setFn_setFn_frame (s : State) (p : Nat) (k k' : Fn) :
    let t := (s.setFn p k).setFn p k'
    t.fn p = k' ∧ { t with fns := s.fns } = s ∧ ∀ p', p' ≠ p → t.fn p' = s.fn p' :=
  ⟨State.fn_setFn _ _ _, by simp only [State.setFn], fun p' hp' => by rw [State.fn_setFn_ne _ _ _ _ hp', State.fn_setFn_ne _ _ _ _ hp']⟩

/-- What clearing DIS of WATCH_STATUS leaves. -/
theorem State.watchCleared_frame (s : State) (d c : Nat) :
    let t := (s.setFld d (coreOff c 0x804) 3 3 0).setFld d (coreOff c 0x820) 31 31 0
    t.fld d (coreOff c 0x804) 3 3 = 0 ∧ t.fld d (coreOff c 0x820) 31 31 = 0 ∧ { t with csr := s.csr } = s := by
  have hkey : csrKey d (coreOff c 0x804) ≠ csrKey d (coreOff c 0x820) :=
    csrKey_ne (by unfold coreOff; omega) (by unfold coreOff; omega) (by unfold coreOff; omega)
  refine ⟨?_, ?_, s.setFld_setFld_frame _ _ _ _ _ _ _ _ _ _⟩
  · rw [State.fld_setFld_ne _ _ _ _ _ _ _ _ _ _ hkey, State.fld_setFld _ _ _ _ _ _ (by decide) (by decide), Nat.zero_mod]
  · rw [State.fld_setFld _ _ _ _ _ _ (by decide) (by decide), Nat.zero_mod]

/-- What a write of a word of the staged route table leaves (R454). -/
theorem State.stageWord_frame (s : State) (o : Nat) (v : Word) :
    (s.stageWord o v).rd 84 (0xB0000 + o) = v ∧ { s.stageWord o v with csr := s.csr, tables := s.tables } = s ∧
      (s.stageWord o v).tables = s.tables.del (b2n (!s.epoch)) ∧
      ∀ d p, csrKey d p ≠ csrKey 84 (0xB0000 + o) → (s.stageWord o v).rd d p = s.rd d p :=
  ⟨State.rd_wr _ _ _ _, by simp only [State.stageWord, State.wr], rfl, fun _ _ hne => State.rd_wr_ne _ _ _ _ _ _ hne⟩

/-- Settles O2, clause by clause: what the access does word by word, then what each register's write does. -/
theorem csrWriteSetsRegisters : Obligations.CsrWriteSetsRegisters := by
  intro s agent comp p value hrun hag hcomp
  dsimp only
  refine ⟨fun who addr hmay => ⟨exec_csrWrite_word hrun hmay, exec_csrWrite_dword hrun hmay⟩,
    fun other addr size hmay hal => exec_csrWrite_barred hrun hmay hal,
    fun c => ⟨fun hv => ?watch, fun hv => ?ecc, fun hv => ?watchKept, fun hv => ?eccKept⟩,
    fun d k hv => exec_csrWrite_capture hrun hag d k hv (by omega),
    fun r95 => exec_csrWrite_logFree hrun hag r95 rfl,
    fun hv => ?enable, fun hv => ?reset,
    fun herr hv => exec_csrWrite_commit hrun hag herr hv rfl,
    fun q => exec_csrWrite_colDoorbell hrun hag q rfl,
    ?sqBase, ?cqBase, fun i hi => ?stage, fun d => exec_csrWrite_dieId hrun hag d (by omega)⟩
  case watch =>
    refine ⟨_, ?_, s.watchCleared_frame (coreDie c.val) c.val⟩
    rw [exec_csrWrite_watchStatus hrun hag c rfl, if_pos hv]
  case ecc =>
    refine ⟨s.wr (coreDie c.val) (coreOff c.val 0x888) 0, ?_, State.rd_wr _ _ _ _, s.wr_frame _ _ _⟩
    rw [exec_csrWrite_eccFirst hrun hag c rfl, if_pos hv]
  case watchKept => rw [exec_csrWrite_watchStatus hrun hag c rfl, hv]; rfl
  case eccKept => rw [exec_csrWrite_eccFirst hrun hag c rfl, hv]; rfl
  case enable => rw [exec_csrWrite_fnControl hrun hcomp p (Nat.add_zero _).symm, hv, exec_fnEnable hrun]; rfl
  case reset => rw [exec_csrWrite_fnControl hrun hcomp p (Nat.add_zero _).symm, if_pos hv]
  case sqBase =>
    obtain ⟨k, hexec⟩ := exec_csrWrite_sqBase hrun hcomp p rfl value
    exact ⟨_, hexec, s.setFn_setFn_frame p.val k _⟩
  case cqBase =>
    obtain ⟨k, hexec⟩ := exec_csrWrite_cqBase hrun hcomp p rfl value
    exact ⟨_, hexec, s.setFn_setFn_frame p.val k _⟩
  case stage => exact ⟨_, exec_csrWrite_stage hrun hag hi (by omega), s.stageWord_frame _ _⟩

/-! ## The front of the queue -/

/-- A step takes the command at the front and runs it on the state with the queue's rest (log 1). -/
theorem step_of_pending {s : State} {c : Instr} {rest : List Instr} (h : s.pending = c :: rest) :
    step s = exec c { s with pending := rest } := by
  simp only [step, h]

/-- Settles O50, as the state that the step leaves to `exec` is the one before the command was put in front. -/
theorem stepRunsFront : Obligations.StepRunsFront := fun _ _ => ⟨step_of_pending rfl, fun _ h => step_of_pending h⟩

/-! ## Every command answers

A command runs under one of the gates below, or answers at once; what it changes is the gate's argument and does not matter here. -/

/-- The outcome is a next state, neither a fault nor a refusal. -/
def Answers (o : Outcome) : Prop := ∃ t : State, o = .next t

theorem answers_next (t : State) : Answers (.next t) := ⟨t, rfl⟩

theorem answers_ite {p : Prop} [Decidable p] {a b : Outcome} (ha : Answers a) (hb : Answers b) : Answers (if p then a else b) := by
  split
  · exact ha
  · exact hb

section
variable (s : State)

theorem gate_answers (f : State → State) : Answers (gate s f) := answers_ite (answers_next _) (answers_next _)

theorem cohGate_answers (k : ReqKind) (m : CohMsg) (f : State → State) : Answers (cohGate k m s f) :=
  answers_ite (answers_next _) (answers_ite (answers_next _) (answers_next _))

theorem fabGate_answers (p : FabPort) (m : FabMsg) (f : State → State) : Answers (fabGate p m s f) := gate_answers s _

theorem ccRun_answers (c : CoreId) (n : Nat) (f : State → State) (ecc : List EccHit) : Answers (ccRun c n s f ecc) := gate_answers s _

theorem arrStart_answers (c : CoreId) (func : Nat) (f : State → TileIns → State × Running) : Answers (arrStart c func s f) := gate_answers s _

theorem vecStart_answers (c : CoreId) (func : Nat) (f : State → TileIns → State × Running) : Answers (vecStart c func s f) := gate_answers s _

theorem groupRun_answers (c : CoreId) (g : GroupId) (w : DWord) (mine : Nat → Bool) (f : State → Group → Path → BitVec 32 → State) :
    Answers (groupRun c g w mine s f) := gate_answers s _

theorem strCmd_answers (c : CoreId) (func : Nat) (ecc : List EccHit) (plan : State → List Byte → TileIns → State × Except (Nat × Nat) (Nat × Nat))
    (go : State → Fin 16 → State) : Answers (strCmd c func ecc s plan go) := gate_answers s _

theorem runCmd_answers (p : PartId) (q op : Nat) (f : State → Slot → State) : Answers (runCmd p q op s f) := gate_answers s _

theorem hartRun_answers (h : HartId) (w : Word) (ext : List Byte) (only : Rv → Bool) : Answers (hartRun h w ext s only) := gate_answers s _

theorem execAtom_answers (m : CohMsg) (op : AtomOp) (width off : Nat) (operand compare : BitVec 128) :
    Answers (execAtom m op width off operand compare s) := by
  unfold execAtom
  exact cohGate_answers s _ _ _

theorem execControlCoreInstruction_answers (c : CoreId) (word : Word) (ecc : List EccHit) (ext : List Byte) :
    Answers (execControlCoreInstruction c word ecc ext s) := by
  unfold execControlCoreInstruction
  exact ccRun_answers s _ _ _ _

theorem execQuiesce_answers (p : PartId) (q : Nat) : Answers (execQuiesce p q s) := by
  refine answers_ite ?_ (runCmd_answers s p q 0x21 _)
  split
  · exact answers_next _
  · exact answers_next _

theorem execNcCmp_answers (p : JxlPort) (m : LinkMsg) : Answers (execNcCmp p m s) := by
  refine answers_ite (answers_next _) ?_
  split
  · exact answers_next _
  · exact answers_ite (answers_next _) (answers_next _)

theorem execInputSample_answers (centivolts centiamps : Nat) : Answers (execInputSample centivolts centiamps s) :=
  answers_ite (answers_next _) (answers_ite (answers_next _) (answers_ite (answers_next _) (answers_next _)))

theorem execLongOperationDone_answers (tag : BitVec 16) (status : Nat) : Answers (execLongOperationDone tag status s) := by
  unfold execLongOperationDone
  split
  · split
    · exact gate_answers s _
    · exact answers_next _
  · refine answers_ite (answers_next _) (answers_ite (answers_next _) (answers_ite (answers_next _) ?_))
    split
    · exact answers_next _
    · exact answers_next _

end

theorem exec_answers (c : Instr) (s : State) : Answers (exec c s) := by
  cases c with dsimp only [exec]
  | faultDetect | driftTrackingWindow | biasDone | routeEpoch | fabricFaultNotice | pwrOkRise | vinRise | pwrOkFall | powerDownCommitDone
  | refclkLoss | resetNFall | resetNRise | jxlResetNFall | jxlResetNRise | mgtStatus | mgtTelemetry | mgtFaultRead | mgtFaultFree | mgtFlpLoad
  | mgtFlashRead | mgtFlashErase | mgtFlashWrite | mgtReset | mgtPkgLimit | mgtRtStage | mgtFenceErase | mgtRepairErase | secAdvance
  | secDebugChallenge | secDebugUnlock | secDebugLock | getVersion | getCapabilities | negotiateAlgorithms | getCertificate | challenge
  | getMeasurements | pldmSensorRead | mctpMessage => exact answers_next _
  | rds | rdx | upg | rdna | wrf | wrp | evc | wb | clean => exact cohGate_answers s _ _ _
  | atom => exact execAtom_answers s _ _ _ _ _ _
  | rrd | rwr | ratom | rrsp | rack | rnack | drow | dclaim => exact fabGate_answers s _ _ _
  | tWait | tWaitall | tTkdone | tTkclr | tGrant | tGrget | tInval | tEnd | cvtH2d | cvtD2h | tileIssue =>
    exact ccRun_answers s _ _ _ _
  | controlCoreInstruction => exact execControlCoreInstruction_answers s _ _ _ _
  | tMma | tSload | tSwap | tEwise | tStest => exact arrStart_answers s _ _ _
  | tVchain | tRed | tLd | tSt | cvtT | tCupd => exact vecStart_answers s _ _ _
  | groupIntOp | groupFpOp | setp | pop | cvt | ld | st | amo | gFence | gBra | gYield | gCset | gCwait | gExit | gBar | gTkwait | gTkpost
  | gVote | gShfl | gCompact | gExpand | gMma | gTld | gTst => exact groupRun_answers s _ _ _ _ _
  | sCopy | sRoute | sCombine => exact strCmd_answers s _ _ _ _ _
  | queueCreate | queueDelete | queueReset | cqCreate | cqDelete | asBind | xlInval | xlResolve | biasSet | statusRead | writeInline | nop
  | hartStart | resume | kernelLaunch | resetCore | resetDie | resetPartition | flpDelta | mgtCmd => exact runCmd_answers s _ _ _ _
  | hartInstruction | lr | sc | cboClean | cboFlush | cboInval | cboZero | wfi => exact hartRun_answers s _ _ _ _
  | biasFlip => exact answers_ite (answers_next _) (gate_answers s _)
  | resetWarm => exact answers_ite (answers_next _) (runCmd_answers s _ _ _ _)
  | ncRd | ncWr => exact answers_ite (answers_next _) (answers_next _)
  | inputSample => exact execInputSample_answers s _ _
  | quiesce => exact execQuiesce_answers s _ _
  | ncCmp => exact execNcCmp_answers s _ _
  | longOperationDone => exact execLongOperationDone_answers s _ _
  | _ => exact gate_answers s _

/-- Settles O52, by the case split over the commands. -/
theorem everyCommandAnswers : Obligations.EveryCommandAnswers := exec_answers

end Sys2Proof.Machine
end

section
/-! # The Hallway: packets, ports and widths

What a destination accepts (R27), what a port does with its replay buffer and its inbound mask (R28, R32 to R36), and the rounds of
a width negotiation (R37 to R39). -/

namespace Sys2Proof.Machine

/-- A port is what the ports' map holds. -/
theorem State.port_congr {s t : State} (h : t.hall = s.hall) (q : HalPort) : t.port q = s.port q := by rw [State.port, State.port, h]

/-! ## What the registers alone decide -/

section
variable {s t : State} (h : t.csr = s.csr)
include h

theorem State.rd_congr (d o : Nat) : t.rd d o = s.rd d o := by rw [State.rd, State.rd, h]

theorem State.fld_congr (d o hi lo : Nat) : t.fld d o hi lo = s.fld d o hi lo := by rw [State.fld, State.fld, State.rd_congr h]

theorem State.halState_congr (p : HalPort) : t.halState p = s.halState p := State.fld_congr h _ _ _ _

theorem State.inbound_congr (p : HalPort) : t.inbound p = s.inbound p := by
  simp only [State.inbound, State.rd64, State.rd_congr h]

theorem State.proposal_congr (p : HalPort) : t.proposal p = s.proposal p := by
  rw [State.proposal, State.proposal, State.inbound_congr h]

end

section
variable (s : State) (p : HalPort)

theorem halReg_lt : (halReg p).2 < 0x10200 := by
  have := p.p.isLt
  simp only [halReg]; omega

/-- A write leaves the words at other offsets. -/
theorem State.rd_wr_beside {d o d' o' : Nat} (ho : o < 2 ^ 32) (ho' : o' < 2 ^ 32) (hne : o' ≠ o) (v : Word) :
    (s.wr d o v).rd d' o' = s.rd d' o' := s.rd_wr_ne _ _ _ _ _ (csrKey_ne ho ho' hne)

/-- The low 64 and the high 2 bits of an inbound mask, put together again (R41). -/
theorem mask_of_words (m : BitVec 66) :
    (m.setWidth 64).setWidth 66 ||| ((((m >>> 64).setWidth 32 : Word).setWidth 66) <<< 64) = m := by
  ext i hi
  by_cases hlow : i < 64
  · simp [hlow, BitVec.getLsbD_eq_getElem hi]
  · have hsum : 64 + (i - 64) = i := by omega
    have hshort : i - 64 < 32 := by omega
    simp [hlow, hsum, hshort, BitVec.getLsbD_eq_getElem hi]

@[simp] theorem State.inbound_setInbound (m : BitVec 66) : (s.setInbound p m).inbound p = m := by
  have hhi : (s.setInbound p m).rd (halReg p).1 ((halReg p).2 + 0x10) = (m >>> 64).setWidth 32 := State.rd_wr _ _ _ _
  have hlo : (s.setInbound p m).rd64 (halReg p).1 ((halReg p).2 + 8) = m.setWidth 64 := by
    have hlt := halReg_lt p
    rw [State.rd64, State.setInbound]
    simp (disch := omega) only [State.rd_wr_beside]
    exact State.rd64_wr64 _ _ _ _ (by omega)
  rw [State.inbound, hhi, hlo, mask_of_words]

@[simp] theorem State.fld_setInbound (m : BitVec 66) (hi lo : Nat) :
    (s.setInbound p m).fld (halReg p).1 (halReg p).2 hi lo = s.fld (halReg p).1 (halReg p).2 hi lo := by
  have hlt := halReg_lt p
  simp (disch := omega) only [State.fld, State.setInbound, State.wr64, State.rd_wr_beside]

@[simp] theorem State.setInbound_pool (m : BitVec 66) : (s.setInbound p m).pool = s.pool := rfl
@[simp] theorem State.setInbound_cores (m : BitVec 66) : (s.setInbound p m).cores = s.cores := rfl

/-- A field of HAL_PORT_STATUS is no part of the port's mask. -/
@[simp] theorem State.inbound_setFld (hi lo v : Nat) : (s.setFld (halReg p).1 (halReg p).2 hi lo v).inbound p = s.inbound p := by
  have hlt := halReg_lt p
  simp (disch := omega) only [State.inbound, State.rd64, State.setFld, State.rd_wr_beside]

@[simp] theorem State.inbound_setHalState (v : Nat) : (s.setHalState p v).inbound p = s.inbound p := s.inbound_setFld p _ _ _

/-- The fields above STATE. -/
theorem State.fld_setHalState (v : Nat) {hi lo : Nat} (hle : lo ≤ hi) (hlo : 3 < lo) :
    (s.setHalState p v).fld (halReg p).1 (halReg p).2 hi lo = s.fld (halReg p).1 (halReg p).2 hi lo :=
  s.fld_setFld_other _ _ _ _ _ _ _ (by decide) (by decide) hle (.inl hlo)

/-- STATE stands below every other field. -/
theorem State.halState_setFld (v : Nat) {hi lo : Nat} (hle : lo ≤ hi) (hhi : hi < 32) (hlo : 3 < lo) :
    (s.setFld (halReg p).1 (halReg p).2 hi lo v).halState p = s.halState p :=
  s.fld_setFld_other _ _ _ _ _ _ _ hle hhi (by decide) (.inr hlo)

@[simp] theorem State.setFld_port (d o hi lo v : Nat) (q : HalPort) : (s.setFld d o hi lo v).port q = s.port q := State.port_congr rfl q
@[simp] theorem State.setHalState_pool (v : Nat) : (s.setHalState p v).pool = s.pool := rfl
@[simp] theorem State.setHalState_cores (v : Nat) : (s.setHalState p v).cores = s.cores := rfl
@[simp] theorem State.setHalState_sent (v : Nat) : (s.setHalState p v).sent = s.sent := rfl
@[simp] theorem State.setHalState_port (v : Nat) (q : HalPort) : (s.setHalState p v).port q = s.port q := State.port_congr rfl q

end

theorem State.cfgFenced_congr {s t : State} (h : t.flp = s.flp) (p : HalPort) : t.cfgFenced p = s.cfgFenced p := by
  rw [State.cfgFenced, State.cfgFenced, h]

/-! ## The destination takes a packet once (R27) -/

theorem seqBelow_self (n : Nat) : seqBelow n n = 0 := by simp [seqBelow]

/-- A sequence that was noted as accepted is not taken again. -/
theorem Accepted.takes_take (a : Accepted) (seq : Nat) : (a.take seq).takes seq = false := by
  unfold Accepted.take
  split
  · simp [Accepted.takes, seqBelow_self]
  · next h hh =>
    split
    · simp [Accepted.takes, seqBelow_self]
    · next hbelow => simpa [Accepted.takes, hh] using hbelow

section
variable (s : State) (p : HalPort) (pkt : Packet)

/-- What the destination of a packet has accepted of its source. -/
def State.accepted (s : State) (pkt : Packet) : Accepted := s.hallAcc.get Accepted.reset (pkt.src.val * 128 + pkt.dst.val)

theorem State.acceptPacket_new (h : (s.accepted pkt).takes pkt.seq.toNat = true) :
    s.acceptPacket pkt = { s with
      hallAcc := s.hallAcc.set Accepted.reset (pkt.src.val * 128 + pkt.dst.val) ((s.accepted pkt).take pkt.seq.toNat),
      hallIn := s.hallIn ++ [pkt] } := if_pos h

theorem State.acceptPacket_old (h : (s.accepted pkt).takes pkt.seq.toNat = false) : s.acceptPacket pkt = s :=
  if_neg (by simpa [State.accepted] using h)

theorem State.acceptPacket_frame : ∃ a i, s.acceptPacket pkt = { s with hallAcc := a, hallIn := i } := by
  cases h : (s.accepted pkt).takes pkt.seq.toNat with
  | true => exact ⟨_, _, s.acceptPacket_new pkt h⟩
  | false => exact ⟨s.hallAcc, s.hallIn, s.acceptPacket_old pkt h⟩

@[simp] theorem State.acceptPacket_csr : (s.acceptPacket pkt).csr = s.csr := by obtain ⟨a, i, h⟩ := s.acceptPacket_frame pkt; rw [h]
@[simp] theorem State.acceptPacket_pool : (s.acceptPacket pkt).pool = s.pool := by obtain ⟨a, i, h⟩ := s.acceptPacket_frame pkt; rw [h]
@[simp] theorem State.acceptPacket_cores : (s.acceptPacket pkt).cores = s.cores := by obtain ⟨a, i, h⟩ := s.acceptPacket_frame pkt; rw [h]
@[simp] theorem State.acceptPacket_sent : (s.acceptPacket pkt).sent = s.sent := by obtain ⟨a, i, h⟩ := s.acceptPacket_frame pkt; rw [h]

/-- Whether or not it was taken, a packet is not taken again. -/
theorem State.acceptPacket_takes : ((s.acceptPacket pkt).accepted pkt).takes pkt.seq.toNat = false := by
  cases h : (s.accepted pkt).takes pkt.seq.toNat with
  | true => rw [s.acceptPacket_new pkt h, State.accepted, Map.get_set_self]; exact Accepted.takes_take _ _
  | false => rw [s.acceptPacket_old pkt h, h]

/-- What is accepted for another source or destination stays. -/
theorem State.acceptPacket_other {k : Nat} (hk : k ≠ pkt.src.val * 128 + pkt.dst.val) :
    (s.acceptPacket pkt).hallAcc.get Accepted.reset k = s.hallAcc.get Accepted.reset k := by
  cases h : (s.accepted pkt).takes pkt.seq.toNat with
  | true => rw [s.acceptPacket_new pkt h]; exact Map.get_set_ne _ _ _ _ _ _ hk
  | false => rw [s.acceptPacket_old pkt h]

/-- An acknowledgement reaches the replay buffer of the port that sent the packet (R28). -/
theorem State.ackSender_frame : ∃ h, s.ackSender p pkt = { s with hall := h } := by
  unfold State.ackSender
  split
  · exact ⟨_, rfl⟩
  · exact ⟨s.hall, rfl⟩

@[simp] theorem State.ackSender_csr : (s.ackSender p pkt).csr = s.csr := by obtain ⟨h, e⟩ := s.ackSender_frame p pkt; rw [e]
@[simp] theorem State.ackSender_pool : (s.ackSender p pkt).pool = s.pool := by obtain ⟨h, e⟩ := s.ackSender_frame p pkt; rw [e]
@[simp] theorem State.ackSender_cores : (s.ackSender p pkt).cores = s.cores := by obtain ⟨h, e⟩ := s.ackSender_frame p pkt; rw [e]
@[simp] theorem State.ackSender_sent : (s.ackSender p pkt).sent = s.sent := by obtain ⟨h, e⟩ := s.ackSender_frame p pkt; rw [e]
@[simp] theorem State.ackSender_hallAcc : (s.ackSender p pkt).hallAcc = s.hallAcc := by obtain ⟨h, e⟩ := s.ackSender_frame p pkt; rw [e]

end

/-! ## Packets that leave a port in HOLD (R31, R36) -/

/-- What packets that are sent on, accepted or returned leave: the registers, the configuration, memory, the cores, and of every port all but
its replay buffer. -/
structure PacketsMoved (s t : State) : Prop where
  csr : t.csr = s.csr
  flp : t.flp = s.flp
  pool : t.pool = s.pool
  cores : t.cores = s.cores
  ports : ∀ p, { t.port p with replay := [] } = { s.port p with replay := [] }

theorem PacketsMoved.refl (s : State) : PacketsMoved s s := ⟨rfl, rfl, rfl, rfl, fun _ => rfl⟩

theorem PacketsMoved.trans {s t u : State} (h : PacketsMoved s t) (h' : PacketsMoved t u) : PacketsMoved s u :=
  ⟨h'.csr.trans h.csr, h'.flp.trans h.flp, h'.pool.trans h.pool, h'.cores.trans h.cores, fun p => (h'.ports p).trans (h.ports p)⟩

theorem PacketsMoved.of_hall {s t : State} (hcsr : t.csr = s.csr) (hflp : t.flp = s.flp) (hpool : t.pool = s.pool) (hcores : t.cores = s.cores)
    (hhall : t.hall = s.hall) : PacketsMoved s t :=
  ⟨hcsr, hflp, hpool, hcores, fun p => by rw [State.port_congr hhall]⟩

theorem PacketsMoved.fenced {s t : State} (h : PacketsMoved s t) (p : HalPort) : (t.port p).fenced = (s.port p).fenced :=
  (congrArg HallPort.fenced (h.ports p) :)

section
variable (s : State) (p : HalPort)

theorem State.port_setPort_ne {q : HalPort} (h : q ≠ p) (k : HallPort) : (s.setPort p k).port q = s.port q := by
  refine Map.get_set_ne _ _ _ _ _ _ fun hkey => h ?_
  have := p.p.isLt
  have := q.p.isLt
  obtain ⟨⟨d, _⟩, ⟨i, _⟩⟩ := p
  obtain ⟨⟨e, _⟩, ⟨j, _⟩⟩ := q
  simp only at hkey
  simp only [HalPort.mk.injEq, Fin.mk.injEq]
  omega

theorem State.setReplay_moved (l : List Packet) : PacketsMoved s (s.setPort p { s.port p with replay := l }) where
  csr := rfl
  flp := rfl
  pool := rfl
  cores := rfl
  ports q := by
    by_cases hq : q = p
    · rw [hq, State.port_setPort]
    · rw [State.port_setPort_ne _ _ hq]

theorem State.send_moved (m : Msg) : PacketsMoved s (s.send m) := .of_hall (by simp) (by simp) (by simp) (by simp) (by simp)

theorem State.noteFault_moved (f : FaultIn) : PacketsMoved s (s.noteFault f) := .of_hall (by simp) (by simp) (by simp) (by simp) (by simp)

theorem State.sendPacket_moved (pkt : Packet) : PacketsMoved s (s.sendPacket p pkt) :=
  (s.setReplay_moved p _).trans (State.send_moved _ _)

theorem State.acceptPacket_moved (pkt : Packet) : PacketsMoved s (s.acceptPacket pkt) := by
  obtain ⟨a, i, h⟩ := s.acceptPacket_frame pkt
  rw [h]
  exact .of_hall rfl rfl rfl rfl rfl

theorem State.returnPacket_moved (pkt : Packet) : PacketsMoved s (s.returnPacket pkt) := s.send_moved _

theorem State.routeLost_moved (die unit : Nat) (pkt : Packet) : PacketsMoved s (s.routeLost die unit pkt) :=
  (s.send_moved _).trans (State.noteFault_moved _ _)

theorem PacketsMoved.ite {c : Prop} [Decidable c] {t u : State} (ht : PacketsMoved s t) (hu : PacketsMoved s u) :
    PacketsMoved s (if c then t else u) := by
  split
  · exact ht
  · exact hu

/-- A packet on its way is returned, sent by a port, accepted, or lost (R31, R36). -/
theorem State.forward_moved (die q : Nat) (pkt : Packet) (unit : Nat) : PacketsMoved s (s.forward die q pkt unit) := by
  have hreturn := s.returnPacket_moved pkt
  have hsend := fun p => s.sendPacket_moved p pkt
  have hlost := s.routeLost_moved die unit pkt
  unfold State.forward
  refine .ite _ (.ite _ hreturn (.ite _ (hsend _) (.ite _ (hsend _) hlost))) (.ite _ hreturn ?_)
  split
  · exact .ite _ (s.acceptPacket_moved pkt) (hsend _)
  · exact hlost

theorem overList_moved {α : Type} {f : State → α → State} (hf : ∀ s a, PacketsMoved s (f s a)) (l : List α) (s : State) :
    PacketsMoved s (overList s l f) := by
  induction l generalizing s with
  | nil => exact .refl s
  | cons a l ih => exact (hf s a).trans (ih (f s a))

/-! ## Entering HOLD and starting a round -/

/-- A port as it enters HOLD, before its packets go another way (R36). -/
def State.held (s : State) (p : HalPort) : State :=
  (s.setHalState p 2).setPort p { s.port p with replay := [], round := 0, confirmed := none, peerProposal := none, backingOff := false }

/-- Entering HOLD moves the port's unacknowledged packets, and does nothing else (R36). -/
theorem State.enterHold_moved : PacketsMoved (s.held p) (s.enterHold p) :=
  overList_moved (fun s pkt => .ite s (s.returnPacket_moved pkt) (s.forward_moved _ _ pkt _)) _ _

theorem State.enterHold_halState : (s.enterHold p).halState p = 2 :=
  (State.halState_congr (s.enterHold_moved p).csr p).trans (s.halState_setHalState p 2 (by decide))

theorem State.enterHold_fld {hi lo : Nat} (hle : lo ≤ hi) (hlo : 3 < lo) :
    (s.enterHold p).fld (halReg p).1 (halReg p).2 hi lo = s.fld (halReg p).1 (halReg p).2 hi lo :=
  (State.fld_congr (s.enterHold_moved p).csr _ _ _ _).trans (s.fld_setHalState p 2 hle hlo)

theorem State.enterHold_fenced : ((s.enterHold p).port p).fenced = (s.port p).fenced :=
  ((s.enterHold_moved p).fenced p).trans (by simp [State.held])

theorem State.enterHold_cfgFenced (q : HalPort) : (s.enterHold p).cfgFenced q = s.cfgFenced q :=
  State.cfgFenced_congr (s.enterHold_moved p).flp q

theorem State.enterHold_pool : (s.enterHold p).pool = s.pool := (s.enterHold_moved p).pool
theorem State.enterHold_cores : (s.enterHold p).cores = s.cores := (s.enterHold_moved p).cores

variable (attempt : Nat)

@[simp] theorem State.startRound_csr : (s.startRound p attempt).csr = s.csr := by simp [State.startRound]
@[simp] theorem State.startRound_pool : (s.startRound p attempt).pool = s.pool := by simp [State.startRound]
@[simp] theorem State.startRound_cores : (s.startRound p attempt).cores = s.cores := by simp [State.startRound]

/-- A sent message changes no port. -/
@[simp] theorem State.send_port (m : Msg) (q : HalPort) : (s.send m).port q = s.port q :=
  State.port_congr (s.send_hall m) q

@[simp] theorem State.startRound_port :
    (s.startRound p attempt).port p =
      { s.port p with round := 1, attempt := attempt, confirmed := none, peerProposal := none, backingOff := false } := by
  simp [State.startRound]

end

/-! ## The port's commands, of a running package -/

/-- The packets of a port's replay buffer, sent again in their order (R28). -/
def State.resent (s : State) (p : HalPort) (l : List Packet) : State := { s with sent := s.sent ++ l.map (fun pkt => Msg.hallway p pkt) }

/-- Packets sent again are only noted as sent. -/
theorem overList_hallway (p : HalPort) (l : List Packet) (s : State) :
    overList s l (fun s pkt => s.send (.hallway p pkt)) = s.resent p l := by
  induction l generalizing s with
  | nil => simp [overList, State.resent]
  | cons pkt l ih =>
    calc overList s (pkt :: l) (fun s pkt => s.send (.hallway p pkt))
        = overList (s.out (.hallway p pkt)) l (fun s pkt => s.send (.hallway p pkt)) := by
          rw [← State.send_quiet s (m := .hallway p pkt) rfl]; rfl
      _ = _ := by rw [ih]; simp [State.resent, State.out]

section
variable {s : State} {p : HalPort} (hrun : s.phase = .running)
include hrun

/-- R27: an ACTIVE port of a packet's destination acknowledges it, then lets the destination take it. -/
theorem exec_hallwayPacketReceive_delivered {pkt : Packet} (hact : s.halState p = 3) (hd : deliveredAt p.die.val pkt.dst.val = true) :
    exec (.hallwayPacketReceive p pkt true) s = .next (((s.out (.hallwayAck p pkt.seq)).ackSender p pkt).acceptPacket pkt) := by
  dsimp only [exec]
  simp [execHallwayPacketReceive, gate_running hrun, hact, State.takePacket, hd, State.send_quiet (m := .hallwayAck p pkt.seq) s rfl]

/-- R28: a packet with a wrong CRC is asked for again. -/
theorem exec_hallwayPacketReceive_damaged {pkt : Packet} (hact : s.halState p = 3) :
    exec (.hallwayPacketReceive p pkt false) s = .next (s.out (.hallwayReplay p)) := by
  dsimp only [exec]
  simp [execHallwayPacketReceive, gate_running hrun, hact, State.send_quiet (m := .hallwayReplay p) s rfl]

/-- R28: the replay buffer of an ACTIVE port goes out again, and the replay is reported. -/
theorem exec_hallwayReplayRequest (hact : s.halState p = 3) (hne : (s.port p).replay ≠ []) :
    exec (.hallwayReplayRequest p) s =
      .next ((s.resent p (s.port p).replay).noteFault (mkFault p.die 0x08 (halUnit p) .port p.p.val 0 0)) := by
  dsimp only [exec]
  simp [execHallwayReplayRequest, gate_running hrun, hact, hne, overList_hallway]

/-- R34: a check window in which no bundle reaches 17 errors over ten windows is only noted. -/
theorem exec_checkWindow_clean {errors : List (Nat × Nat)} (hact : s.halState p = 3)
    (hfew : ∀ x ∈ windowsAfter (s.port p).windows errors, x.2.sum ≤ 16) :
    exec (.checkWindow p errors) s =
      .next (s.setPort p { s.port p with windows := windowsAfter (s.port p).windows errors }) := by
  have hnone (f : BitVec 66) :
      (windowsAfter (s.port p).windows errors).filter (fun x => 16 < x.2.sum && !f.getLsbD x.1) = [] :=
    List.filter_eq_nil_iff.mpr fun x hx => by simp [Nat.not_lt.mpr (hfew x hx)]
  dsimp only [exec]
  simp [execCheckWindow, gate_running hrun, hact, hnone, overList]

/-- R36: a port that loses its forwarded clock in service or in training enters HOLD. -/
theorem exec_forwardedClockLoss (h : s.halState p = 3 ∨ s.halState p = 1) : exec (.forwardedClockLoss p) s = .next (s.enterHold p) := by
  dsimp only [exec]
  simp [execForwardedClockLoss, gate_running hrun, h]

/-- R38: a round that runs out is a failed attempt. -/
theorem exec_negotiationRoundTimeout (h : (s.port p).round ≠ 0) : exec (.negotiationRoundTimeout p) s = .next (s.attemptFails p) := by
  dsimp only [exec]
  simp [execNegotiationRoundTimeout, gate_running hrun, h]

/-- R38: after the wait the next attempt starts. -/
theorem exec_negotiationBackoffExpiry (h : (s.port p).backingOff = true) :
    exec (.negotiationBackoffExpiry p) s = .next (s.startRound p (s.fld (halReg p).1 (halReg p).2 27 24 + 1)) := by
  dsimp only [exec]
  simp [execNegotiationBackoffExpiry, gate_running hrun, h]

end

/-! ### Training (R32, R33) -/

/-- A port in service enters HOLD before it trains (R36). -/
def State.leaveService (s : State) (p : HalPort) : State := if s.halState p = 3 then s.enterHold p else s

/-- The inbound mask that a training gives: the bundles that passed, less every fenced one (R32). -/
def State.trainedMask (s : State) (p : HalPort) (passed : BitVec 66) : BitVec 66 := passed &&& ~~~ (s.port p).fenced &&& ~~~ s.cfgFenced p

/-- A port's registers as a training sets them: the mask, the peer's die, STATE. -/
def State.trainRegs (s : State) (p : HalPort) (passed : BitVec 66) : State :=
  let t := (s.setInbound p (s.trainedMask p passed)).setFld (halReg p).1 (halReg p).2 15 8 ((hallPeer p.die.val p.p.val).getD 0xFF)
  t.setHalState p (if t.halState p = 2 then 2 else 1)

section
variable (s : State) (p : HalPort) (passed : BitVec 66)

theorem State.leaveService_halState : (s.leaveService p).halState p = if s.halState p = 3 then 2 else s.halState p := by
  unfold State.leaveService
  split
  · exact s.enterHold_halState p
  · rfl

theorem State.leaveService_fld {hi lo : Nat} (hle : lo ≤ hi) (hlo : 3 < lo) :
    (s.leaveService p).fld (halReg p).1 (halReg p).2 hi lo = s.fld (halReg p).1 (halReg p).2 hi lo := by
  unfold State.leaveService
  split
  · exact s.enterHold_fld p hle hlo
  · rfl

theorem State.leaveService_trainedMask : (s.leaveService p).trainedMask p passed = s.trainedMask p passed := by
  unfold State.leaveService State.trainedMask
  split
  · rw [s.enterHold_fenced, s.enterHold_cfgFenced]
  · rfl

theorem State.leaveService_pool : (s.leaveService p).pool = s.pool := by
  unfold State.leaveService
  split
  · exact s.enterHold_pool p
  · rfl

theorem State.leaveService_cores : (s.leaveService p).cores = s.cores := by
  unfold State.leaveService
  split
  · exact s.enterHold_cores p
  · rfl

theorem State.trainRegs_halState : (s.trainRegs p passed).halState p = if s.halState p = 2 then 2 else 1 := by
  have hstate (v : Nat) (m : BitVec 66) : ((s.setInbound p m).setFld (halReg p).1 (halReg p).2 15 8 v).halState p = s.halState p :=
    (State.halState_setFld _ p v (by decide) (by decide) (by decide)).trans (s.fld_setInbound p m 3 0)
  rw [State.trainRegs, State.halState_setHalState _ _ _ (by split <;> decide), hstate]

theorem State.trainRegs_inbound : (s.trainRegs p passed).inbound p = s.trainedMask p passed := by simp [State.trainRegs]

theorem State.trainRegs_attempts :
    (s.trainRegs p passed).fld (halReg p).1 (halReg p).2 27 24 = s.fld (halReg p).1 (halReg p).2 27 24 := by
  rw [State.trainRegs, State.fld_setHalState _ _ _ (by decide) (by decide),
    State.fld_setFld_other _ _ _ _ _ _ _ _ (by decide) (by decide) (by decide) (.inl (by decide)), State.fld_setInbound]

theorem State.trainRegs_pool : (s.trainRegs p passed).pool = s.pool := by
  rw [State.trainRegs, State.setHalState_pool, State.setFld_pool, State.setInbound_pool]

theorem State.trainRegs_cores : (s.trainRegs p passed).cores = s.cores := by
  rw [State.trainRegs, State.setHalState_cores, State.setFld_cores, State.setInbound_cores]

/-- R32, R33: what HALLWAY_PORT_TRAIN of a port that is neither fenced nor absent does. -/
theorem exec_hallwayPortTrain {s : State} (hrun : s.phase = .running) (hfenced : s.halState p ≠ 4) (habsent : s.halState p ≠ 5) :
    exec (.hallwayPortTrain p passed) s =
      .next (((s.leaveService p).trainRegs p passed).startRound p (s.fld (halReg p).1 (halReg p).2 27 24 + 1)) := by
  have hattempts := ((s.leaveService p).trainRegs_attempts p passed).trans (s.leaveService_fld p (by decide) (by decide))
  rw [State.trainRegs, State.fld_setHalState _ _ _ (by decide) (by decide)] at hattempts
  dsimp only [exec]
  rw [execHallwayPortTrain, gate_running hrun, if_neg (by simp [hfenced, habsent]), ← hattempts]
  rfl

end

/-! ## The rounds of a negotiation (R37 to R39) -/

section
variable {s : State} {p : HalPort}

/-- A token of the attempt under way, at a port that trains or holds and waits after no failed attempt, is for the round it is in. -/
theorem State.takeToken_current {token : BitVec 128} (hst : s.halState p = 1 ∨ s.halState p = 2) (hwait : (s.port p).backingOff = false)
    (hround : (s.port p).round ≠ 0) (hatt : bits token.toNat 119 112 = (s.port p).attempt) :
    s.takeToken p token =
      if bits token.toNat 127 120 = 0x5A then
        (if (s.port p).round = 1 then s.takeMask p (bits token.toNat 111 104) (token.extractLsb' 16 66) else s)
      else if bits token.toNat 127 120 = 0x5B then (s.setPort p { s.port p with confirmed := some (bits token.toNat 111 104) }).confirmRound p
      else s := by
  have hnot : s.halState p ≠ 3 := by omega
  simp [State.takeToken, hnot, hwait, hround, hatt]

theorem exec_widthToken (hrun : s.phase = .running) {token : BitVec 128}
    (hcrc : bits token.toNat 15 0 = crc16 112 (token.toNat / 2 ^ 16)) (hlow : 1 ≤ bits token.toNat 119 112)
    (hhigh : bits token.toNat 119 112 ≤ 3) (hst : s.halState p = 1 ∨ s.halState p = 2) :
    exec (.widthToken p token) s = .next (s.takeToken p token) := by
  dsimp only [exec]
  exact (gate_running hrun _).trans (congrArg _ (if_pos ⟨hcrc, hlow, hhigh, by omega⟩))

/-- Without a confirm token there is nothing to compare. -/
theorem State.confirmRound_unconfirmed (h : (s.port p).confirmed = none) : s.confirmRound p = s := by
  simp [State.confirmRound, h]

/-- R38: a mask token whose agreed width is at least 16 starts round 2, before any confirm token has come. -/
theorem State.takeMask_agreed {width : Nat} {mask : BitVec 66} (hconf : (s.port p).confirmed = none) (hwide : 16 ≤ min (s.proposal p) width) :
    s.takeMask p width mask =
      (s.setPort p { s.port p with round := 2, peerMask := mask, peerProposal := some width }).send
        (.widthToken p (widthTokenOf 0x5B (s.port p).attempt (min (s.proposal p) width) p.die.val (p.p.val / 4) (s.inbound p))) := by
  rw [State.takeMask, if_neg (by omega), State.confirmRound_unconfirmed (by simp [hconf])]
  rfl

/-- A port after its confirm tokens agreed on a width (R38). -/
def State.activated (s : State) (p : HalPort) (width : Nat) : State :=
  (((s.setPort p { s.port p with round := 0, attempt := 0, confirmed := none, peerProposal := none, backingOff := false }).setFld
    (halReg p).1 (halReg p).2 27 24 0).setFld (halReg p).1 (halReg p).2 23 16 width).setHalState p 3

/-- R38: a confirm token in round 2 with the agreed width makes the port ACTIVE. -/
theorem State.confirmRound_agreed {w c : Nat} (hpeer : (s.port p).peerProposal = some w) (hconf : (s.port p).confirmed = some c)
    (hround : (s.port p).round = 2) (hc : c = min (s.proposal p) w) : s.confirmRound p = s.activated p c := by
  simp only [State.confirmRound, hpeer, hconf, hround, if_pos hc, if_true]
  rfl

section
variable (s : State) (p : HalPort) (width : Nat)

theorem State.activated_halState : (s.activated p width).halState p = 3 := State.halState_setHalState _ _ _ (by decide)

theorem State.activated_width : (s.activated p width).fld (halReg p).1 (halReg p).2 23 16 = width % 256 := by
  rw [State.activated, State.fld_setHalState _ _ _ (by decide) (by decide)]
  exact State.fld_setFld _ _ _ _ _ _ (by decide) (by decide)

theorem State.activated_attempts : (s.activated p width).fld (halReg p).1 (halReg p).2 27 24 = 0 := by
  rw [State.activated, State.fld_setHalState _ _ _ (by decide) (by decide),
    State.fld_setFld_other _ _ _ _ _ _ _ _ (by decide) (by decide) (by decide) (.inl (by decide))]
  exact State.fld_setFld _ _ _ _ _ _ (by decide) (by decide)

theorem State.activated_round : ((s.activated p width).port p).round = 0 := by simp [State.activated]

theorem State.activated_sent : (s.activated p width).sent = s.sent := by
  rw [State.activated, State.setHalState_sent, State.setFld_sent, State.setFld_sent, State.setPort_sent]

end

/-- A port after an attempt that failed before the third: the attempt counts, and the port waits (R38). -/
def State.backedOff (s : State) (p : HalPort) : State :=
  (s.setFld (halReg p).1 (halReg p).2 27 24 (s.fld (halReg p).1 (halReg p).2 27 24 + 1)).setPort p
    { s.port p with round := 0, confirmed := none, peerProposal := none, backingOff := true }

theorem State.attemptFails_early (h : s.fld (halReg p).1 (halReg p).2 27 24 < 2) : s.attemptFails p = s.backedOff p := by
  have hwait : s.fld (halReg p).1 (halReg p).2 27 24 + 1 < 3 := by omega
  simp [State.attemptFails, State.backedOff, hwait, Nat.not_le.mpr hwait]

theorem State.backedOff_attempts (h : s.fld (halReg p).1 (halReg p).2 27 24 < 2) :
    (s.backedOff p).fld (halReg p).1 (halReg p).2 27 24 = s.fld (halReg p).1 (halReg p).2 27 24 + 1 := by
  rw [State.backedOff, State.fld_congr (State.setPort_csr _ _ _), State.fld_setFld _ _ _ _ _ _ (by decide) (by decide)]
  exact Nat.mod_eq_of_lt (Nat.lt_trans (Nat.succ_lt_succ h) (by decide))

theorem State.backedOff_port :
    (s.backedOff p).port p = { s.port p with round := 0, confirmed := none, peerProposal := none, backingOff := true } :=
  State.port_setPort _ _ _

theorem State.backedOff_sent : (s.backedOff p).sent = s.sent := by rw [State.backedOff, State.setPort_sent, State.setFld_sent]

end

/-! ## The statements on the Hallway -/

/-- Settles O4: the acknowledgement changes nothing of what was accepted, and a sequence once noted is not taken again. -/
theorem hallwayAcceptsOnce : Obligations.HallwayAcceptsOnce := by
  intro s p pkt hrun hact hd
  rw [exec_hallwayPacketReceive_delivered hrun hact hd]
  have hacc : ((s.out (.hallwayAck p pkt.seq)).ackSender p pkt).hallAcc = s.hallAcc := State.ackSender_hallAcc _ _ _
  refine ⟨_, rfl, by simp, State.acceptPacket_takes _ _, fun hold => ?_, fun k hk => ?_, by simp, by simp, by simp⟩
  · rw [State.acceptPacket_old _ _ (by rw [State.accepted, hacc]; exact hold), hacc]
  · rw [State.acceptPacket_other _ _ hk, hacc]

/-- Settles O5, command by command. -/
theorem hallwayPortCommands : Obligations.HallwayPortCommands := by
  intro s p hrun
  refine ⟨fun _ hact => exec_hallwayPacketReceive_damaged hrun hact, fun hact hne => ?_, fun passed hfenced habsent => ?_,
    fun _ hact hfew => exec_checkWindow_clean hrun hact hfew, fun h => ?_⟩
  · exact ⟨_, exec_hallwayReplayRequest hrun hact hne, State.noteFault_sent (s.resent p _) _, State.noteFault_hall _ _, State.noteFault_csr _ _,
      State.noteFault_pool _ _, State.noteFault_cores _ _⟩
  · refine ⟨_, exec_hallwayPortTrain p passed hrun hfenced habsent, ?_, ?_, congrArg HallPort.round (State.startRound_port _ _ _),
      congrArg HallPort.attempt (State.startRound_port _ _ _), ?_, ?_⟩
    · rw [State.halState_congr (State.startRound_csr _ _ _), State.trainRegs_halState, State.leaveService_halState]
      by_cases hact : s.halState p = 3
      · simp [hact]
      · simp [hact]
    · rw [State.inbound_congr (State.startRound_csr _ _ _), State.trainRegs_inbound, State.leaveService_trainedMask]
      rfl
    · rw [State.startRound_pool, State.trainRegs_pool, State.leaveService_pool]
    · rw [State.startRound_cores, State.trainRegs_cores, State.leaveService_cores]
  · exact ⟨_, exec_forwardedClockLoss hrun h, s.enterHold_halState p, s.enterHold_pool p, s.enterHold_cores p⟩

/-- Settles O6, round by round. -/
theorem widthNegotiation : Obligations.WidthNegotiation := by
  intro s p hrun
  refine ⟨fun token hcrc hlow hhigh hst hwait hatt => ?_, fun hround hfew => ?_, fun hwait => ?_⟩
  · rw [exec_widthToken hrun hcrc hlow hhigh hst]
    refine ⟨fun htype hround hconf hwide => ?_, fun htype hround w hpeer hw => ?_⟩
    · rw [State.takeToken_current hst hwait (by omega) hatt, if_pos htype, if_pos hround, State.takeMask_agreed hconf hwide]
      exact ⟨_, rfl, by simp, by simp, by simp, State.halState_congr ((State.send_csr _ _).trans (State.setPort_csr _ _ _)) p⟩
    · rw [State.takeToken_current hst hwait (by omega) hatt, if_neg (by omega), if_pos htype,
        State.confirmRound_agreed (w := w) (c := bits token.toNat 111 104) (by simp [hpeer]) (by simp) (by simp [hround])
          (by rw [State.proposal_congr (State.setPort_csr s p _), hw])]
      exact ⟨_, rfl, State.activated_halState _ _ _, State.activated_width _ _ _, State.activated_attempts _ _ _,
        State.activated_round _ _ _, State.activated_sent _ _ _⟩
  · rw [exec_negotiationRoundTimeout hrun hround, State.attemptFails_early hfew]
    exact ⟨_, rfl, State.backedOff_attempts hfew, congrArg HallPort.round State.backedOff_port, congrArg HallPort.backingOff State.backedOff_port,
      State.backedOff_sent⟩
  · exact ⟨_, exec_negotiationBackoffExpiry hrun hwait, by simp, by simp, by simp, State.startRound_csr _ _ _⟩

end Sys2Proof.Machine
end

section
/-! # Management commands

What the running device answers on a management bus (R535, R536), the package warm reset (R99, R100), and the statement on the commands. -/

namespace Sys2Proof.Machine

/-! ## Lists of updates, and flash -/

/-- What every update of a list leaves, the whole list leaves. -/
theorem overList_keeps {α β : Type} (P : State → β) {f : State → α → State} (h : ∀ s a, P (f s a) = P s) (s : State) (l : List α) :
    P (overList s l f) = P s := by
  unfold overList
  induction l generalizing s with
  | nil => rfl
  | cons a l ih => rw [List.foldl_cons, ih, h]

/-- Updates of registers alone, over a list. -/
theorem overList_csr {α : Type} {f : State → α → State} (h : ∀ s a, ∃ c, f s a = { s with csr := c }) (s : State) (l : List α) :
    ∃ c, overList s l f = { s with csr := c } := by
  unfold overList
  induction l generalizing s with
  | nil => exact ⟨s.csr, rfl⟩
  | cons a l ih =>
    obtain ⟨c, hc⟩ := h s a
    obtain ⟨c', hc'⟩ := ih (f s a)
    exact ⟨c', by rw [List.foldl_cons, hc', hc]⟩

/-- A run of values is read back whole. -/
theorem Map.getRun_setRun {α : Type} [DecidableEq α] (d : α) (m : Map α) (k : Nat) (vs : List α) : (m.setRun d k vs).getRun d k vs.length = vs := by
  refine List.ext_getElem (by simp [Map.getRun]) fun i h _ => ?_
  have hi : i < vs.length := by simpa [Map.getRun] using h
  simp [Map.getRun, Map.get_setRun_in d vs m k i hi, List.getD, hi]

theorem leBytes_length (n v : Nat) : (leBytes n v).length = n := by
  induction n generalizing v with
  | zero => rfl
  | succ n ih => simp [leBytes, ih]

/-- The three capture sets take 96 bytes (Table 17-9). -/
theorem captureBytes_length (w : Nat → Nat → Nat) :
    ((List.range 3).flatMap (fun k => (List.range 8).flatMap (fun i => leBytes 4 (w k i)))).length = 96 := by
  simp [List.length_flatMap, leBytes_length]

/-! ## The package warm reset -/

theorem State.selfRefresh_frame (s : State) : ∃ c, s.selfRefresh = { s with csr := c } :=
  overList_csr (fun s c => by
    split
    · exact ⟨s.csr, rfl⟩
    · exact ⟨_, rfl⟩) s allChans

theorem State.writeDump_frame (s : State) (cause : Nat) : ∃ d, s.writeDump cause = { s with mgmt := { s.mgmt with dumps := d } } := by
  unfold State.writeDump
  dsimp only
  split
  · exact ⟨_, rfl⟩
  · split
    · exact ⟨_, rfl⟩
    · exact ⟨s.mgmt.dumps, rfl⟩

theorem State.sendNodeDown_frame (s : State) (p : FabPort) (n : Nat) :
    ∃ x k, s.sendNodeDown p n = { s with sent := s.sent ++ [x], links := k } := by
  obtain ⟨k, hk⟩ := s.send_frame (.linkFlit (.fabric p)
    { seq := 0, ack := 0, ftype := 5, crdClass := 0, crdSlots := 0, slots := padTo 240 ([0, 0] ++ leBytes 2 n) })
  exact ⟨_, k, hk⟩

/-- Node-down messages are sent on links; nothing else changes. -/
theorem State.nodeDownAll_frame (s : State) : ∃ m k, s.nodeDownAll = { s with sent := s.sent ++ m, links := k } := by
  unfold State.nodeDownAll overList
  induction List.finRange 64 generalizing s with
  | nil => exact ⟨[], s.links, by simp⟩
  | cons p ps ih =>
    rw [List.foldl_cons]
    split
    · obtain ⟨x, k, hk⟩ := s.sendNodeDown_frame p (s.nodeId.getD 0x3FFF)
      obtain ⟨m, k', h⟩ := ih (s.sendNodeDown p (s.nodeId.getD 0x3FFF))
      exact ⟨x :: m, k', by rw [h, hk]; simp⟩
    · exact ih s

/-- What a warm reset puts in order before all is reset (R100). -/
theorem State.warmPrepared_frame (s : State) : ∃ c d m k,
    (s.selfRefresh.writeDump 1).nodeDownAll = { s with csr := c, mgmt := { s.mgmt with dumps := d }, sent := s.sent ++ m, links := k } := by
  obtain ⟨c, hc⟩ := s.selfRefresh_frame
  obtain ⟨d, hd⟩ := s.selfRefresh.writeDump_frame 1
  obtain ⟨m, k, hm⟩ := (s.selfRefresh.writeDump 1).nodeDownAll_frame
  exact ⟨c, d, m, k, by rw [hm, hd, hc]⟩

theorem chanReg_off (c : Chan) : 0x30000 ≤ (chanReg c).2 ∧ (chanReg c).2 < 0x30800 := by
  cases c with
  | attic k c => unfold chanReg; dsimp only; omega
  | annex c => unfold chanReg; dsimp only; omega

theorem State.fld_withPhase (s : State) (x : Phase) (d o hi lo : Nat) : ({ s with phase := x } : State).fld d o hi lo = s.fld d o hi lo := rfl

/-- The cause of the reset is recorded (R99). -/
theorem State.warmReset_cause (s : State) (cause : Nat) : (s.warmReset cause).fld 94 0x20100 7 4 = cause % 16 := by
  unfold State.warmReset
  dsimp only
  rw [State.fld_withPhase]
  refine (overList_keeps (fun t => t.fld 94 0x20100 7 4) (fun t c => ?_) _ allChans).trans (State.fld_setFld _ _ _ _ _ _ (by decide) (by decide))
  have hoff := chanReg_off c
  split
  · exact State.fld_setFld_ne _ _ _ _ _ _ _ _ _ _ (csrKey_ne (by omega) (by decide) (by omega))
  · rfl

/-- What a warm reset makes of the package, but for the registers and the operations it absorbs: bring-up starts anew, with flash and
fuses, device time and the Pool kept (R99, R100). -/
theorem State.warmReset_eq (s : State) (cause : Nat) : ∃ c o d m,
    s.warmReset cause = { s.blank with
      csr := c, mgmt := { s.mgmt.restart with ops := o, dumps := d }, sent := s.sent ++ m, time := s.time, pool := s.pool, poolBad := s.poolBad,
      phase := s.blank.startPhase } := by
  obtain ⟨c, d, m, k, h⟩ := s.warmPrepared_frame
  unfold State.warmReset
  rw [h]
  dsimp only
  obtain ⟨c', hc⟩ := overList_csr (f := fun b x => if State.chanState _ x = 5 then b.setChanState x 5 else b) (fun b x => by
    split
    · exact ⟨_, rfl⟩
    · exact ⟨b.csr, rfl⟩) _ allChans
  rw [hc]
  exact ⟨_, _, _, _, rfl⟩

/-! ## What the running device answers on a bus -/

theorem leNat_lt (bs : List Byte) : leNat bs < 256 ^ bs.length := by
  induction bs with
  | nil => decide
  | cons b bs ih =>
    have hb : b.toNat < 256 := b.isLt
    simp only [leNat, List.length_cons, Nat.pow_succ]
    omega

theorem leAt_lt_word (bs : List Byte) (o : Nat) : leAt bs o 4 < 2 ^ 32 :=
  Nat.lt_of_lt_of_le (leNat_lt _) (Nat.pow_le_pow_right (by decide) (List.length_take_le 4 _) : 256 ^ _ ≤ 256 ^ 4)

section
variable {s t : State} {r : MgtReq} {code st : Nat} {op : MgtFn} {pl : List Byte}

theorem State.mgtRun_ready (h : MgtReady s r) : s.mgtRun code op r = some (op s r) := by
  obtain ⟨hrun, hready, hbus, hlen⟩ := h
  simp [State.mgtRun, hrun, hready, hbus, Nat.not_lt.mpr hlen]

/-- A ready device performs a request of bus 0 and answers it (R535, R536). -/
theorem mgtAnswer_ready (h : MgtReady s r) (hop : op s r = (t, st, pl)) :
    mgtAnswer code op r s = t.out (.mgmt .bus0 code r.tag st (r.offset / 2 ^ 16) pl) := by
  obtain ⟨_, _, hbus, _⟩ := id h
  simp only [mgtAnswer, State.mgtRun_ready h, hop, hbus]
  exact t.send_quiet rfl

/-- A statement about the answer to a request follows from what its command does. -/
theorem MgtReady.answered {i : Instr} {P : State → Prop} (h : MgtReady s r) (hi : exec i s = .next (mgtAnswer code op r s))
    (hop : op s r = (t, st, pl)) (hsent : t.sent = s.sent) (hP : P (t.out (.mgmt .bus0 code r.tag st (r.offset / 2 ^ 16) pl))) :
    ∃ u : State, exec i s = .next u ∧ MgtAnswers s u r code st pl ∧ P u :=
  ⟨_, hi.trans (congrArg _ (mgtAnswer_ready h hop)), by rw [MgtAnswers, ← hsent]; rfl, hP⟩

end

theorem State.out_keeps (s : State) (m : Msg) : { s.out m with sent := s.sent } = s := rfl

section
variable {s : State} {r : MgtReq}

/-! ## The commands, each in the case its statement speaks of -/

/-- R535: on a bus the capture sets and the records asked for are read from OFFSET on, 4 KiB at most. -/
theorem State.mgtFaultRead_bus (h : r.transport = .bus0) : ∃ caps recs : List Byte,
    s.mgtFaultRead r = (s, 0, ((caps ++ recs).drop r.offset).take 4096) ∧ caps.length = 96 ∧
      caps = (List.range 3).flatMap (fun k => (List.range 8).flatMap (fun i => leBytes 4 (captureWord ((s.root s.activeRoot).captures.get none k) k i).toNat)) ∧
      recs = ((s.root s.activeRoot).log.filter (fun x => decide (leAt r.payload 0 4 ≤ x.seq.toNat) && decide (x.seq.toNat ≤ leAt r.payload 4 4))).flatMap LogRec.bytes :=
  ⟨_, _, by simp only [State.mgtFaultRead, h]; rfl, captureBytes_length _, rfl, rfl⟩

/-- R81: the first chunk of a full image. -/
theorem State.mgtFlpLoad_first (hflp : s.flp = none) (hfail : s.fld 94 0x20000 3 0 = 3) (ho : r.offset = 0) (hlen : r.payload.length < 12) :
    s.mgtFlpLoad r = (s.modMgmt (fun m => { m with upload := r.payload }), 0, []) := by
  have hmax : ¬ 0x100000 < r.payload.length := by omega
  have hshort : ¬ 12 ≤ r.payload.length := by omega
  simp [State.mgtFlpLoad, hflp, hfail, ho, hmax, hshort]

theorem State.mgtFlpLoad_refused (hflp : s.flp.isSome) (hheld : s.mgmt.held 13 = false) (hdelta : s.delta = none) : s.mgtFlpLoad r = (s, 8, []) := by
  simp [State.mgtFlpLoad, hflp, hheld, hdelta]

theorem State.mgtFlashRead_area {a o : Nat} (ha : areaAt r.offset (leAt r.payload 0 4) = some (a, o)) (hn : leAt r.payload 0 4 ≤ 4096) :
    s.mgtFlashRead r = (s, 0, s.mgmt.areaRun a o (leAt r.payload 0 4)) := by
  simp [State.mgtFlashRead, ha, Nat.not_lt.mpr hn]

theorem State.mgtFlashErase_refused {a : Nat} (ha : areaAt r.offset 1 = some (a, 0)) (hlist : 10 ≤ a) : s.mgtFlashErase r = (s, 3, []) := by
  simp [State.mgtFlashErase, ha, hlist]

theorem State.mgtFlashErase_image {a : Nat} (ha : areaAt r.offset 1 = some (a, 0)) (himage : a < 8) (hforce : s.areaInForce a = false)
    (hheld : s.mgmt.held a = false) :
    s.mgtFlashErase r = ((s.modMgmt (fun m => { m with flash := m.flash.set ⟨[]⟩ a ⟨[]⟩ })).startOp r.tag a, 1, []) := by
  have hdump : ¬ (a = 8 ∨ a = 9) := by omega
  simp [State.mgtFlashErase, ha, show ¬ 10 ≤ a by omega, hforce, hheld, Mgmt.erase, hdump]

theorem State.mgtFlashWrite_image {a o : Nat} (ha : areaAt r.offset r.payload.length = some (a, o)) (himage : a < 8) (hforce : s.areaInForce a = false)
    (hheld : s.mgmt.held a = false) (herased : ∀ b ∈ s.mgmt.flashRun a o r.payload.length, b = 0xFF) (hlen : r.payload.length ≤ 4096) :
    s.mgtFlashWrite r = (s.modMgmt (fun m => { m with flash := m.flash.set ⟨[]⟩ a ((m.flash.get ⟨[]⟩ a).setRun 0xFF o r.payload) }), 0, []) := by
  have hall : (s.mgmt.flashRun a o r.payload.length).all (· == 0xFF) = true := List.all_eq_true.mpr fun b hb => by simp [herased b hb]
  simp only [State.mgtFlashWrite, ha, hforce, hheld, hall]
  rw [if_neg (by omega)]
  simp [show ¬ 0x10000 < r.payload.length by omega]

theorem State.mgtReset_warm (h : leAt r.payload 0 1 = 0) (hrun : s.phase = .running) : s.mgtReset r = (s.warmReset 2, 0, []) := by
  simp [State.mgtReset, h, hrun]

/-- R503: a limit that is none, or not below the sum of MIN. -/
theorem State.mgtPkgLimit_set (hmin : leAt r.payload 0 4 = 0 ∨ s.sumMin ≤ leAt r.payload 0 4) (hmax : leAt r.payload 0 4 < 2 ^ 20) :
    s.mgtPkgLimit r = ((s.setFld 94 0xD0104 31 31 0).setFld 94 0xD0100 19 0 (leAt r.payload 0 4), 0, []) := by
  have hv : (BitVec.ofNat 32 (leAt r.payload 0 4)).toNat % 2 ^ 20 = leAt r.payload 0 4 := by
    rw [BitVec.toNat_ofNat, Nat.mod_eq_of_lt (leAt_lt_word _ _), Nat.mod_eq_of_lt hmax]
  rw [State.mgtPkgLimit, State.setPkgLimit]
  simp only [hv]
  rw [if_neg (by omega)]

theorem State.mgtRtStage_word (hal : r.offset % 4 = 0) (hend : r.offset + 4 ≤ 0xC088) (hlen : r.payload.length = 4) :
    s.mgtRtStage r = (s.stageWord r.offset (BitVec.ofNat 32 (leAt r.payload 0 4)), 0, []) := by
  have hsmall : r.offset % 2 ^ 32 = r.offset := Nat.mod_eq_of_lt (by omega)
  have hcommit : bitAt r.offset 63 = false := by rw [bitAt, Nat.div_eq_of_lt (show r.offset < 2 ^ 63 by omega)]; rfl
  simp only [State.mgtRtStage, hsmall, hlen, hcommit]
  rw [if_neg (by omega)]
  rfl

theorem State.mgtFenceErase_free (hheld : s.mgmt.held 10 = false) : ∃ a b : Root,
    s.mgtFenceErase r = ({ s with root94 := a, root95 := b, mgmt := { s.mgmt with fences := [] } }.startOp r.tag 10, 1, []) :=
  ⟨_, _, by simp only [State.mgtFenceErase, hheld]; rfl⟩

theorem State.mgtRepairErase_free (hheld : s.mgmt.held 11 = false) :
    s.mgtRepairErase r = ((s.modMgmt (fun m => { m with repairs := [] })).startOp r.tag 11, 1, []) := by
  simp [State.mgtRepairErase, hheld]

/-- R533: ARB_DBG of both dies' fuses. -/
theorem State.secAdvance_debug (hsel : leAt r.payload 0 1 = 2) (hmax : leAt r.payload 4 4 ≤ 64) :
    s.secAdvance r = (s.modMgmt (fun m => { m with
      fuses94 := { m.fuses94 with arbDbg := max m.fuses94.arbDbg (leAt r.payload 4 4) },
      fuses95 := { m.fuses95 with arbDbg := max m.fuses95.arbDbg (leAt r.payload 4 4) } }), 0, []) := by
  simp [State.secAdvance, hsel, Nat.not_lt.mpr hmax]

theorem State.secDebugUnlock_refused (h : s.tokenOk r.payload = false) : s.secDebugUnlock r = (s.modMgmt (fun m => { m with nonce := none }), 9, []) := by
  simp [State.secDebugUnlock, h]

theorem State.secDebugUnlock_opens (h : s.tokenOk r.payload = true) :
    s.secDebugUnlock r = ((s.modMgmt (fun m => { m with nonce := none })).modMgmt (fun m => { m with
      scope := some (Nat.lor (m.scope.getD 0) (leAt r.payload 5 1 % 16)), notAfter := BitVec.ofNat 64 (leAt r.payload 48 8),
      digestLog := m.digestLog ++ [Config.sha384 r.payload] }), 0, []) := by
  simp [State.secDebugUnlock, h]

/-- R544: no core stays halted when the unlock ends. -/
theorem State.debugLock_cores (s : State) : ∀ c ∈ s.debugLock.cores.cells, c.2.phase ≠ 3 := by
  intro c hc
  obtain ⟨x, _, rfl⟩ := List.mem_map.mp hc
  dsimp only
  split
  · exact (by decide : 1 ≠ 3)
  · assumption

end

@[simp] theorem State.modMgmt_mgmt (s : State) (f : Mgmt → Mgmt) : (s.modMgmt f).mgmt = f s.mgmt := rfl

theorem State.startOp_flash (s : State) (tag : BitVec 16) (x : Nat) : (s.startOp tag x).mgmt.flash = s.mgmt.flash := rfl

/-- A started operation holds what it was started on (R537). -/
theorem State.startOp_held (s : State) (tag : BitVec 16) (x : Nat) : (s.startOp tag x).mgmt.held x = true := by
  simp [State.startOp, State.modMgmt, Mgmt.held]

theorem State.stageWord_sent (s : State) (o : Nat) (v : Word) : (s.stageWord o v).sent = s.sent := rfl

/-! ## The end of a long operation -/

/-- The end of a command changes its queue alone. -/
theorem State.finishCmd_frame (s : State) (p q : Nat) (cid : BitVec 16) (code detail : Nat) (body : List Byte) :
    ∃ m, s.finishCmd p q cid code detail body = { s with sqs := m } := by
  unfold State.finishCmd
  split
  · exact ⟨s.sqs, rfl⟩
  · exact ⟨_, rfl⟩

/-- R86: a delta that is not verified changes nothing but its command's queue. -/
theorem State.applyDelta_failed (s : State) (p q : Nat) (cid : BitVec 16) (img : List Byte) (n : Nat) :
    ∃ m, s.applyDelta p q cid img n false = { s with sqs := m } := by
  unfold State.applyDelta
  split
  · exact s.finishCmd_frame _ _ _ _ _ _
  · dsimp only
    split
    · exact s.finishCmd_frame _ _ _ _ _ _
    · exact s.finishCmd_frame _ _ _ _ _ _

theorem State.endDelta_failed (s : State) (d : DeltaRun) (hresets : d.resets = []) (hresumes : d.resumes = []) :
    ∃ m, s.endDelta d false = { ({ s with delta := none } : State).setFld 94 0x20000 3 0 2 with sqs := m } := by
  obtain ⟨m, h⟩ := (({ s with delta := none } : State).setFld 94 0x20000 3 0 2).applyDelta_failed d.part d.queue d.cid d.image d.image.length
  exact ⟨m, by simp only [State.endDelta, hresets, hresumes]; exact h⟩

/-- R537: the status of an operation that runs is recorded. -/
theorem exec_longOperationDone_recorded {s : State} (hrun : s.phase = .running) {o : MgtOp} {st : Nat} (hops : s.mgmt.ops = [o]) (hst : o.status = 1)
    (hholds : o.holds < 13) :
    exec (.longOperationDone o.tag st) s = .next (s.modMgmt (fun m => { m with ops := [{ o with status := st }] })) := by
  dsimp only [exec]
  have hne : o.holds ≠ 13 := by omega
  simp [execLongOperationDone, hops, hst, show o.holds < 200 by omega, hrun, hne, State.modMgmt]

theorem exec_longOperationDone_delta {s : State} (hrun : s.phase = .running) {d : DeltaRun} (hops : s.mgmt.ops = []) (hdelta : s.delta = some d) :
    exec (.longOperationDone d.cid 1) s = .next (s.endDelta d false) := by
  dsimp only [exec]
  simp [execLongOperationDone, hops, hdelta, gate_running hrun]

/-! ## The statement on the management commands -/

section
variable (s : State) (b : Bool) (k : Root)

theorem State.root_setRoot : (s.setRoot b k).root b = k := by cases b <;> rfl
theorem State.root_setRoot_other : (s.setRoot b k).root (!b) = s.root (!b) := by cases b <;> rfl
theorem State.setRoot_sent : (s.setRoot b k).sent = s.sent := by cases b <;> rfl
theorem State.setRoot_mgmt : (s.setRoot b k).mgmt = s.mgmt := by cases b <;> rfl

end

section
variable {s : State} {r : MgtReq} (h : MgtReady s r)
include h

theorem answers_mgtFaultRead : ∃ (t : State) (all : List Byte), exec (.mgtFaultRead r) s = .next t ∧
    MgtAnswers s t r 0x03 0 ((all.drop r.offset).take 4096) ∧ { t with sent := s.sent } = s ∧
      all.take 96 = (List.range 3).flatMap (fun k => (List.range 8).flatMap (fun i => leBytes 4 (captureWord ((s.root s.activeRoot).captures.get none k) k i).toNat)) ∧
      all.drop 96 = ((s.root s.activeRoot).log.filter (fun x => decide (leAt r.payload 0 4 ≤ x.seq.toNat) && decide (x.seq.toNat ≤ leAt r.payload 4 4))).flatMap LogRec.bytes := by
  obtain ⟨_, _, hbus, _⟩ := id h
  obtain ⟨caps, recs, hop, hlen, hcaps, hrecs⟩ := s.mgtFaultRead_bus hbus
  obtain ⟨t, hexec, hans, hframe⟩ := h.answered (i := .mgtFaultRead r) (code := 0x03) (P := fun t => { t with sent := s.sent } = s) rfl hop rfl (s.out_keeps _)
  exact ⟨t, caps ++ recs, hexec, hans, hframe, by rw [← hlen, List.take_left, hcaps], by rw [← hlen, List.drop_left, hrecs]⟩

/-- R484: the active root's log is freed, the other root's stays. -/
theorem answers_mgtFaultFree : ∃ t : State, exec (.mgtFaultFree r) s = .next t ∧ MgtAnswers s t r 0x04 0 [] ∧
    (t.root s.activeRoot).log = ((s.root s.activeRoot).free (BitVec.ofNat 32 (leAt r.payload 0 4))).log ∧
      t.root (!s.activeRoot) = s.root (!s.activeRoot) ∧ t.mgmt = s.mgmt := by
  refine h.answered rfl (rfl : s.mgtFaultFree r = (s.setRoot _ _, 0, [])) (State.setRoot_sent _ _ _) ⟨?_, ?_, State.setRoot_mgmt _ _ _⟩
  · exact congrArg Root.log (State.root_setRoot _ _ _)
  · exact State.root_setRoot_other _ _ _

theorem answers_mgtFlashErase {a : Nat} (ha : areaAt r.offset 1 = some (a, 0)) :
    (10 ≤ a → ∃ t : State, exec (.mgtFlashErase r) s = .next t ∧ MgtAnswers s t r 0x12 3 [] ∧ { t with sent := s.sent } = s) ∧
      (a < 8 → s.areaInForce a = false → s.mgmt.held a = false → ∃ t : State, exec (.mgtFlashErase r) s = .next t ∧ MgtAnswers s t r 0x12 1 [] ∧
        t.mgmt.flash.get ⟨[]⟩ a = ⟨[]⟩ ∧ (∀ b : Nat, b ≠ a → t.mgmt.flash.get ⟨[]⟩ b = s.mgmt.flash.get ⟨[]⟩ b) ∧ { t with mgmt := s.mgmt, sent := s.sent } = s) :=
  ⟨fun hlist => h.answered rfl (State.mgtFlashErase_refused ha hlist) rfl (s.out_keeps _),
    fun himage hforce hheld => h.answered rfl (State.mgtFlashErase_image ha himage hforce hheld) rfl ⟨by simp [State.startOp_flash],
      fun b hb => by rw [State.out_mgmt, State.startOp_flash]; exact Map.get_set_ne _ _ _ _ _ _ hb,
      by simp only [State.out, State.startOp, State.modMgmt]⟩⟩

theorem answers_mgtFlashWrite {a o : Nat} (ha : areaAt r.offset r.payload.length = some (a, o)) (himage : a < 8) (hforce : s.areaInForce a = false)
    (hheld : s.mgmt.held a = false) (herased : ∀ b ∈ s.mgmt.flashRun a o r.payload.length, b = 0xFF) :
    ∃ t : State, exec (.mgtFlashWrite r) s = .next t ∧ MgtAnswers s t r 0x13 0 [] ∧
      t.mgmt.flashRun a o r.payload.length = r.payload ∧ (∀ b : Nat, b ≠ a → t.mgmt.flash.get ⟨[]⟩ b = s.mgmt.flash.get ⟨[]⟩ b) := by
  obtain ⟨_, _, _, hlen⟩ := id h
  refine h.answered rfl (State.mgtFlashWrite_image ha himage hforce hheld herased hlen) rfl ⟨?_, fun b hb => Map.get_set_ne ⟨[]⟩ ⟨[]⟩ s.mgmt.flash a b _ hb⟩
  show (Map.get ⟨[]⟩ (s.mgmt.flash.set ⟨[]⟩ a ((s.mgmt.flash.get ⟨[]⟩ a).setRun 0xFF o r.payload)) a).getRun 0xFF o r.payload.length = r.payload
  rw [Map.get_set_self, Map.getRun_setRun]

/-- R99, R536: the answer follows what the reset itself sends. -/
theorem answers_mgtReset (hsel : leAt r.payload 0 1 = 0) :
    ∃ (t : State) (l : List Msg), exec (.mgtReset r) s = .next t ∧ t.sent = s.sent ++ l ++ [.mgmt .bus0 0x20 r.tag 0 (r.offset / 2 ^ 16) []] ∧ t.flp = none ∧
      t.time = s.time ∧ t.pool = s.pool ∧ t.fld 94 0x20100 7 4 = 2 := by
  obtain ⟨c, o, d, m, hreset⟩ := s.warmReset_eq 2
  refine ⟨_, m, congrArg Host.Outcome.next (mgtAnswer_ready h (State.mgtReset_warm hsel h.1)), ?_, ?_, ?_, ?_, (State.fld_congr (State.out_csr _ _) _ _ _ _).trans (s.warmReset_cause 2)⟩
  · rw [hreset]; rfl
  · rw [hreset]; rfl
  · rw [hreset]; rfl
  · rw [hreset]; rfl

theorem answers_mgtPkgLimit (hmin : leAt r.payload 0 4 = 0 ∨ s.sumMin ≤ leAt r.payload 0 4) (hmax : leAt r.payload 0 4 < 2 ^ 20) :
    ∃ t : State, exec (.mgtPkgLimit r) s = .next t ∧ MgtAnswers s t r 0x21 0 [] ∧
      t.fld 94 0xD0100 19 0 = leAt r.payload 0 4 ∧ t.fld 94 0xD0104 31 31 = 0 := by
  refine h.answered rfl (State.mgtPkgLimit_set hmin hmax) ((State.setFld_sent _ _ _ _ _ _).trans (State.setFld_sent _ _ _ _ _ _)) ⟨?_, ?_⟩
  · rw [State.fld_congr (State.out_csr _ _), State.fld_setFld _ _ _ _ _ _ (by decide) (by decide)]
    exact Nat.mod_eq_of_lt hmax
  · rw [State.fld_congr (State.out_csr _ _), State.fld_setFld_ne _ _ _ _ _ _ _ _ _ _ (csrKey_ne (by decide) (by decide) (by decide)),
      State.fld_setFld _ _ _ _ _ _ (by decide) (by decide), Nat.zero_mod]

theorem answers_mgtRtStage (hal : r.offset % 4 = 0) (hend : r.offset + 4 ≤ 0xC088) (hlen : r.payload.length = 4) :
    ∃ t : State, exec (.mgtRtStage r) s = .next t ∧ MgtAnswers s t r 0x22 0 [] ∧
      t.fld 84 (0xB0000 + r.offset) 31 0 = leAt r.payload 0 4 ∧ t.tables = s.tables.del (b2n (!s.epoch)) ∧
        { t with sent := s.sent, csr := s.csr, tables := s.tables } = s := by
  obtain ⟨hword, _, htables, _⟩ := s.stageWord_frame r.offset (BitVec.ofNat 32 (leAt r.payload 0 4))
  refine h.answered rfl (State.mgtRtStage_word hal hend hlen) (State.stageWord_sent _ _ _) ⟨?_, htables, by simp only [State.out, State.stageWord, State.wr]⟩
  have hw : leAt r.payload 0 4 < 2 ^ 32 := leAt_lt_word _ _
  rw [State.fld, State.rd_congr (State.out_csr _ _), hword, BitVec.toNat_ofNat, Nat.mod_eq_of_lt hw, bits]
  rw [Nat.pow_zero, Nat.div_one, Nat.mod_eq_of_lt hw]

theorem answers_mgtFenceErase (hheld : s.mgmt.held 10 = false) :
    ∃ t : State, exec (.mgtFenceErase r) s = .next t ∧ MgtAnswers s t r 0x23 1 [] ∧ t.mgmt = { s.mgmt with fences := [], ops := t.mgmt.ops } ∧
      t.mgmt.held 10 = true := by
  obtain ⟨a, b, hop⟩ := State.mgtFenceErase_free (r := r) hheld
  exact h.answered rfl hop rfl ⟨rfl, by rw [State.out_mgmt, State.startOp_held]⟩

theorem answers_secDebugChallenge : ∃ (t : State) (n : List Byte), exec (.secDebugChallenge r) s = .next t ∧ MgtAnswers s t r 0x31 0 n ∧ n.length = 32 ∧
    t.mgmt = { s.mgmt with nonce := some (n, s.time) } := by
  obtain ⟨t, hexec, hans, hmgmt⟩ := h.answered (i := .secDebugChallenge r) (code := 0x31) (P := fun t => t.mgmt = { s.mgmt with nonce := some ((s.secDebugChallenge r).2.2, s.time) }) rfl
    (rfl : s.secDebugChallenge r = _) rfl rfl
  exact ⟨t, _, hexec, hans, by simp, hmgmt⟩

end

/-- R534: a message over MCTP carries the command that its code names. -/
theorem exec_mctpMessage_status {s : State} {r : MgtReq} {b : List Byte} (hb : mgtParse .bus0 b = (0x01, r)) : exec (.mctpMessage false 0x7F b) s = exec (.mgtStatus r) s := by
  dsimp only [exec]
  simp only [execMctpMessage, execMgtStatus]
  show Host.Outcome.next (mgtAnswer (mgtParse .bus0 b).1 (mgtOp (mgtParse .bus0 b).1) (mgtParse .bus0 b).2 s) = _
  rw [hb]
  rfl

section
variable {s : State} (hrun : s.phase = .running)
include hrun

theorem exec_debugUnlockExpiry_closes {n : Nat} (hscope : s.mgmt.scope = some n) (hover : s.mgmt.notAfter.toNat < s.time) :
    exec .debugUnlockExpiry s = .next s.debugLock := by
  dsimp only [exec]
  exact (gate_running hrun _).trans (congrArg _ (if_pos ⟨by rw [hscope]; rfl, hover⟩))

/-- R539: one of the first four fields of the telemetry record. -/
theorem exec_pldmSensorRead_field {n : Nat} (bus : Bool) (hready : s.pins.ready = true) (hn : n < 4) :
    exec (.pldmSensorRead bus n) s = .next (s.out (.pldm bus (leAt s.mgmt.telemetry (0x10 + 4 * n) 4))) := by
  dsimp only [exec]
  simp only [execPldmSensorRead, State.readSensor, sensorValue, if_pos hn, if_pos (And.intro hrun hready)]
  exact congrArg _ (s.send_quiet rfl)

theorem longOperationDone_delta {d : DeltaRun} (hops : s.mgmt.ops = []) (hdelta : s.delta = some d) (hresets : d.resets = []) (hresumes : d.resumes = []) :
    ∃ t : State, exec (.longOperationDone d.cid 1) s = .next t ∧
      t.delta = none ∧ t.flp = s.flp ∧ t.fld 94 0x20000 3 0 = 2 ∧ t.cores = s.cores ∧ t.mgmt = s.mgmt := by
  obtain ⟨m, hend⟩ := s.endDelta_failed d hresets hresumes
  rw [exec_longOperationDone_delta hrun hops hdelta, hend]
  exact ⟨_, rfl, rfl, rfl, State.fld_setFld ({ s with delta := none } : State) 94 0x20000 3 0 2 (by decide) (by decide), rfl, rfl⟩

end

/-- Settles O40, command by command. -/
theorem managementCommands : Obligations.ManagementCommands := by
  refine ⟨fun s r h => ⟨h.answered rfl rfl rfl (s.out_keeps _), h.answered rfl rfl rfl (s.out_keeps _), answers_mgtFaultRead h, answers_mgtFaultFree h,
    fun hflp hfail ho hlen => h.answered rfl (State.mgtFlpLoad_first hflp hfail ho hlen) rfl rfl,
    fun hflp hheld hdelta => h.answered rfl (State.mgtFlpLoad_refused hflp hheld hdelta) rfl (s.out_keeps _),
    fun a o ha hn => h.answered rfl (State.mgtFlashRead_area ha hn) rfl (s.out_keeps _),
    fun a ha => answers_mgtFlashErase h ha,
    fun a o ha himage hforce hheld herased => answers_mgtFlashWrite h ha himage hforce hheld herased,
    fun hsel => answers_mgtReset h hsel,
    fun hmin hmax => answers_mgtPkgLimit h hmin hmax,
    fun o ho hal hend hlen => ho ▸ answers_mgtRtStage h (ho ▸ hal) (ho ▸ hend) hlen,
    fun hheld => answers_mgtFenceErase h hheld,
    fun hheld => h.answered rfl (State.mgtRepairErase_free hheld) rfl ⟨rfl, by rw [State.out_mgmt, State.startOp_held]⟩,
    fun hsel hmax => h.answered rfl (State.secAdvance_debug hsel hmax) rfl ⟨rfl, rfl⟩,
    answers_secDebugChallenge h,
    fun hbad => h.answered rfl (State.secDebugUnlock_refused hbad) rfl rfl,
    fun hok => h.answered rfl (State.secDebugUnlock_opens hok) rfl ⟨rfl, by simp only [State.out, State.modMgmt]⟩,
    h.answered rfl rfl rfl ⟨rfl, s.debugLock_cores⟩,
    fun b hb => exec_mctpMessage_status hb⟩, fun s hrun => ⟨?_, ?_, ?_, ?_⟩⟩
  · exact fun n hscope hover => ⟨_, exec_debugUnlockExpiry_closes hrun hscope hover, rfl⟩
  · exact fun o st hops hst hholds => ⟨_, exec_longOperationDone_recorded hrun hops hst hholds, rfl, rfl⟩
  · exact fun d hops hdelta hresets hresumes => longOperationDone_delta hrun hops hdelta hresets hresumes
  · exact fun bus n hready hn => ⟨_, exec_pldmSensorRead_field hrun bus hready hn, rfl, s.out_keeps _⟩

end Sys2Proof.Machine
end

section
/-! # What bring-up and the resets decide by

The configuration, the waiting resets, and the registers of chapter 02 and 03 on the management die. Commands of queues, memory, coherence,
links and fences leave them as they are: one lemma for each function of the model. -/

namespace Sys2Proof.Machine

/-! ## The view -/

/-- The configuration in force, the resets under way, LEVEL, and the registers from 0x20000 on of the management die. -/
structure Control where
  flp       : Option Floorplan
  locked    : Bool
  dieReset  : Map Nat
  resetCmds : List (Nat × Nat × Nat × BitVec 16)
  mgmt      : Option Mgmt
  level     : Nat
  regs      : Nat → Word

/-- Whether a register is in the view: the status registers of bring-up and the partitions' states; MGT_SL_STATUS, ONLINE and CHECKED, which a fence
writes, in the strict view only. -/
def inControl (strict : Bool) (o : Nat) : Bool :=
  decide (0x20000 ≤ o) && decide (o < 0x20200) && (strict || !(o == 0x20100 || (decide (0x20130 ≤ o) && decide (o < 0x20148))))

/-- The view of a state; the strict one holds the management plane too. -/
def State.control (strict : Bool) (s : State) : Control :=
  { flp := s.flp, locked := s.locked, dieReset := s.dieReset, resetCmds := s.resetCmds, mgmt := if strict then some s.mgmt else none,
    level := s.level, regs := fun o => if inControl strict o then s.rd 94 o else 0 }

variable {strict : Bool}

section
variable {s t : State} (h : t.control strict = s.control strict)
include h

theorem State.flp_of_control : t.flp = s.flp := congrArg Control.flp h
theorem State.locked_of_control : t.locked = s.locked := congrArg Control.locked h
theorem State.dieReset_of_control : t.dieReset = s.dieReset := congrArg Control.dieReset h
theorem State.resetCmds_of_control : t.resetCmds = s.resetCmds := congrArg Control.resetCmds h
theorem State.level_of_control : t.level = s.level := congrArg Control.level h

theorem State.rd_of_control {o : Nat} (ho : inControl strict o = true) : t.rd 94 o = s.rd 94 o := by
  have hr := congrFun (congrArg Control.regs h) o
  simpa only [State.control, ho, if_true] using hr

theorem State.rd64_of_control {o : Nat} (ho : inControl strict o = true) (ho' : inControl strict (o + 4) = true) : t.rd64 94 o = s.rd64 94 o := by
  rw [State.rd64, State.rd64, State.rd_of_control h ho, State.rd_of_control h ho']

theorem State.partState_of_control {p : Nat} (hp : p < 8) : t.partState p = s.partState p := by
  have ho : inControl strict (0x20180 + 4 * p) = true := by simp [inControl]; omega
  rw [State.partState, State.partState, State.fld, State.fld, State.rd_of_control h ho]

end

theorem State.mgmt_of_control {s t : State} (h : t.control true = s.control true) : t.mgmt = s.mgmt := Option.some.inj (congrArg Control.mgmt h)

theorem State.control_congr {s t : State} (hcsr : t.csr = s.csr) (hflp : t.flp = s.flp) (hlocked : t.locked = s.locked) (hdie : t.dieReset = s.dieReset)
    (hcmds : t.resetCmds = s.resetCmds) (hmgmt : t.mgmt = s.mgmt) : t.control strict = s.control strict := by
  simp only [State.control, State.level, State.fld_congr hcsr, State.rd_congr hcsr, hflp, hlocked, hdie, hcmds, hmgmt]

/-- The other fields of a state are not in the view. -/
@[simp] theorem State.control_update (s : State)
    (pending : List Instr) (fresh : Nat) (time : Nat) (phase : Phase) (pins : Pins) (hall : Map HallPort) (hallAcc : Map Accepted) (hallIn :
    List Packet) (hallSeq : Map Nat) (hallOut : List HallOut) (cores : Map Core) (launches : Map Launch) (nextLaunch : Nat) (pool : Memory)
    (poolBad : List Nat) (channels : Map Channel) (lines : Map HomeLine) (msau : Map (List (Nat × List Byte))) (refused : List (ReqKind ×
    CohMsg)) (l2s : Map L2) (l1s : Map CpuL1) (bases : Map BaseCache) (hostDir : Map (List Nat)) (hostTxns : List HostTxn) (hostTxn : BitVec
    10) (slots : Map (Option AsDesc)) (xlDie : Map (List XlEntry)) (xlWalk : Map (List XlEntry)) (xlSeq : Map Word) (harts : Map Hart)
    (links : Map LinkState) (fns : Map Fn) (sqs : Map (Option Sq)) (cqs : Map (Option Cq)) (heldBells : List (Nat × Nat × Nat × List Byte))
    (shared : List Nat) (flips : Map (Option Flip)) (nextFlip : Nat) (hostReads : List (BitVec 16 × Nat)) (steer : Int) (remotes : Map
    (Option Remote)) (hostWrites : List HostWrite) (msiDue : List (Nat × Nat)) (ncWait : List (JxlPort × LinkMsg)) (steerSum : Int) (nextTag
    : Nat) (tables : Map RouteTable) (nodesDown : List Nat) (nodesUp : List (Nat × Nat × Nat)) (cols : Map (Option Collective)) (earlyReady
    : List (Nat × Nat × ColFields × Nat)) (leaves : Map Leaf) (root94 : Root) (root95 : Root) (fencedU : List (UnitKind × Nat)) (stewards :
    Map Steward) (cutGen : Nat) (overUs : Nat) (lowUs : Nat) (calmUs : Nat) (partWork : Map (Option PartWork)) (delta : Option DeltaRun)
    (rateFailed : List RateUnit) (served : List (UnitKind × Nat)) (sent : List Msg) :
    State.control strict { s with
      pending := pending, fresh := fresh, time := time, phase := phase, pins := pins, hall := hall, hallAcc := hallAcc, hallIn := hallIn,
      hallSeq := hallSeq, hallOut := hallOut, cores := cores, launches := launches, nextLaunch := nextLaunch, pool := pool, poolBad :=
      poolBad, channels := channels, lines := lines, msau := msau, refused := refused, l2s := l2s, l1s := l1s, bases := bases, hostDir :=
      hostDir, hostTxns := hostTxns, hostTxn := hostTxn, slots := slots, xlDie := xlDie, xlWalk := xlWalk, xlSeq := xlSeq, harts := harts,
      links := links, fns := fns, sqs := sqs, cqs := cqs, heldBells := heldBells, shared := shared, flips := flips, nextFlip := nextFlip,
      hostReads := hostReads, steer := steer, remotes := remotes, hostWrites := hostWrites, msiDue := msiDue, ncWait := ncWait, steerSum :=
      steerSum, nextTag := nextTag, tables := tables, nodesDown := nodesDown, nodesUp := nodesUp, cols := cols, earlyReady := earlyReady,
      leaves := leaves, root94 := root94, root95 := root95, fencedU := fencedU, stewards := stewards, cutGen := cutGen, overUs := overUs,
      lowUs := lowUs, calmUs := calmUs, partWork := partWork, delta := delta, rateFailed := rateFailed, served := served, sent := sent } = s.control strict :=
  State.control_congr rfl rfl rfl rfl rfl rfl

@[simp] theorem State.control_ite {c : Prop} [Decidable c] (s t : State) :
    State.control strict (if c then s else t) = if c then s.control strict else t.control strict := apply_ite _ _ _ _

@[simp] theorem State.control_dite {c : Prop} [Decidable c] (f : c → State) (g : ¬ c → State) :
    State.control strict (if h : c then f h else g h) = if h : c then (f h).control strict else (g h).control strict := apply_dite _ _ _ _

/-! ## Registers beside the view -/

/-- A register outside the view, on any die. -/
def Aside (o : Nat) : Prop := (o < 0x20000 ∨ 0x20200 ≤ o) ∧ o < 2 ^ 32

@[simp] theorem aside_of {o : Nat} (h : o < 0x20000 ∨ 0x20200 ≤ o) (h' : o < 2 ^ 32) : Aside o := ⟨h, h'⟩

theorem aside_chanReg (c : Chan) {x : Nat} (h : x < 0x1000) : Aside ((chanReg c).2 + x) := by
  have := chanReg_off c
  exact ⟨by omega, by omega⟩

theorem State.control_wr_of {o : Nat} (h : inControl strict o = false) (ho : o < 2 ^ 32) (hl : o ≠ 0x20100) (s : State) (d : Nat) (v : Word) :
    (s.wr d o v).control strict = s.control strict := by
  have hlevel : (s.wr d o v).level = s.level := by
    rw [State.level, State.level, State.fld, State.fld, State.rd_wr_ne _ _ _ _ _ _ (csrKey_ne ho (by decide) hl.symm)]
  have hregs : ∀ a, (if inControl strict a then (s.wr d o v).rd 94 a else 0) = if inControl strict a then s.rd 94 a else 0 := fun a => by
    split
    · rename_i ha
      have hlt : a < 2 ^ 32 := by simp [inControl] at ha; omega
      rw [State.rd_wr_ne _ _ _ _ _ _ (csrKey_ne ho hlt fun e => by rw [e, h] at ha; exact Bool.false_ne_true ha)]
    · rfl
  simp only [State.control, hlevel, hregs, State.wr_flp, State.wr_locked, State.wr_dieReset, State.wr_resetCmds, State.wr_mgmt]

section
variable (s : State) (d : Nat)

@[simp] theorem State.control_wr {o : Nat} (h : Aside o) (v : Word) : (s.wr d o v).control strict = s.control strict := by
  obtain ⟨h, ho⟩ := h
  exact State.control_wr_of (by simp [inControl]; omega) ho (by omega) s d v

@[simp] theorem State.control_wr64 {o : Nat} (h : Aside o) (h' : Aside (o + 4)) (v : DWord) : (s.wr64 d o v).control strict = s.control strict := by
  simp [State.wr64, h, h']

@[simp] theorem State.control_setFld {o : Nat} (h : Aside o) (hi lo v : Nat) : (s.setFld d o hi lo v).control strict = s.control strict := by
  simp [State.setFld, h]

@[simp] theorem State.control_inc {o : Nat} (h : Aside o) (n : Nat) : (s.inc d o n).control strict = s.control strict := by
  simp [State.inc, h]

@[simp] theorem State.control_inc64 {o : Nat} (h : Aside o) (h' : Aside (o + 4)) (n : Nat) : (s.inc64 d o n).control strict = s.control strict := by
  simp [State.inc64, h, h']

@[simp] theorem State.control_incFld {o : Nat} (h : Aside o) (hi lo : Nat) : (s.incFld d o hi lo).control strict = s.control strict := by
  simp [State.incFld, h]

@[simp] theorem State.control_satFld {o : Nat} (h : Aside o) (hi lo n : Nat) : (s.satFld d o hi lo n).control strict = s.control strict := by
  simp [State.satFld, h]

end

@[simp] theorem control_overList {α : Type} {f : State → α → State} (h : ∀ s a, (f s a).control strict = s.control strict) (s : State) (l : List α) :
    (overList s l f).control strict = s.control strict := overList_keeps (State.control strict) h s l

section
variable (s : State)

/-! ## Maps, messages and the Hallway's injection -/

@[simp] theorem State.control_setCore (c : Nat) (k : Core) : (s.setCore c k).control strict = s.control strict := by simp [State.setCore]
@[simp] theorem State.control_modCore (c : Nat) (f : Core → Core) : (s.modCore c f).control strict = s.control strict := by simp [State.modCore]
@[simp] theorem State.control_setPort (p : HalPort) (k : HallPort) : (s.setPort p k).control strict = s.control strict := by simp [State.setPort]
@[simp] theorem State.control_setChan (c : Chan) (k : Channel) : (s.setChan c k).control strict = s.control strict := by simp [State.setChan]
@[simp] theorem State.control_setLine (l : Nat) (k : HomeLine) : (s.setLine l k).control strict = s.control strict := by simp [State.setLine]
@[simp] theorem State.control_setL2 (n : Nat) (k : L2) : (s.setL2 n k).control strict = s.control strict := by simp [State.setL2]
@[simp] theorem State.control_setBase (n : Nat) (k : BaseCache) : (s.setBase n k).control strict = s.control strict := by simp [State.setBase]
@[simp] theorem State.control_setHart (h : Nat) (k : Hart) : (s.setHart h k).control strict = s.control strict := by simp [State.setHart]
@[simp] theorem State.control_setFn (p : Nat) (k : Fn) : (s.setFn p k).control strict = s.control strict := by simp [State.setFn]
@[simp] theorem State.control_setSq (p q : Nat) (k : Option Sq) : (s.setSq p q k).control strict = s.control strict := by simp [State.setSq]
@[simp] theorem State.control_setCq (p q : Nat) (k : Option Cq) : (s.setCq p q k).control strict = s.control strict := by simp [State.setCq]
@[simp] theorem State.control_setCol (j : Nat) (k : Option Collective) : (s.setCol j k).control strict = s.control strict := by simp [State.setCol]
@[simp] theorem State.control_setLeaf (d : Nat) (k : Leaf) : (s.setLeaf d k).control strict = s.control strict := by simp [State.setLeaf]
@[simp] theorem State.control_setRoot (b : Bool) (k : Root) : (s.setRoot b k).control strict = s.control strict := by simp [State.setRoot]
@[simp] theorem State.control_setSteward (d : Nat) (k : Steward) : (s.setSteward d k).control strict = s.control strict := by simp [State.setSteward]
@[simp] theorem State.control_setLink (l : LinkId) (k : LinkState) : (s.setLink l k).control strict = s.control strict := by simp [State.setLink]
@[simp] theorem State.control_bump : (s.bump).control strict = s.control strict := by simp [State.bump]
@[simp] theorem State.control_out (m : Msg) : (s.out m).control strict = s.control strict := by simp [State.out]

@[simp] theorem State.control_inject (src dst : Nat) (vc : HalVc) (m : Msg) : (s.inject src dst vc m).control strict = s.control strict := by
  simp [State.inject]

@[simp] theorem State.control_sendTagged (w : Option WriteTag) (m : Msg) : (s.sendTagged w m).control strict = s.control strict := by
  obtain ⟨l, h⟩ := s.sendTagged_frame w m
  rw [h]
  simp

@[simp] theorem State.control_send (m : Msg) : (s.send m).control strict = s.control strict := s.control_sendTagged none m

@[simp] theorem State.control_sendNodeDown (p : FabPort) (n : Nat) : (s.sendNodeDown p n).control strict = s.control strict := s.control_send _

@[simp] theorem State.control_stair (kind src dst : Nat) (body : List Nat) : (s.stair kind src dst body).control strict = s.control strict := by
  obtain ⟨q, h, e⟩ := s.stair_frame kind src dst body
  rw [e]
  simp

@[simp] theorem State.control_sendNotice (p : FabPort) (kind node dst : Nat) (body : List Byte) :
    (s.sendNotice p kind node dst body).control strict = s.control strict := s.control_send _

/-! ## Links and channels -/

@[simp] theorem aside_chanReg_zero (c : Chan) : Aside (chanReg c).2 := aside_chanReg c (x := 0) (by decide)
@[simp] theorem aside_fabReg (p : Nat) {x : Nat} (h : x < 0x1000) : Aside ((fabReg p).2 + x) := by
  unfold fabReg
  exact ⟨by dsimp only; omega, by dsimp only; omega⟩
@[simp] theorem aside_fabReg_zero (p : Nat) : Aside (fabReg p).2 := aside_fabReg p (x := 0) (by decide)
@[simp] theorem aside_linkReg (l : LinkId) {x : Nat} (h : x < 0x1000) : Aside ((linkReg l).2 + x) := by
  cases l with
  | jxl p => exact ⟨by unfold linkReg; dsimp only; omega, by unfold linkReg; dsimp only; omega⟩
  | fabric p => exact aside_fabReg p.val h
@[simp] theorem aside_linkReg_zero (l : LinkId) : Aside (linkReg l).2 := aside_linkReg l (x := 0) (by decide)
@[simp] theorem aside_coreOff (c : Nat) {x : Nat} (h : x < 0x10000) : Aside (coreOff c x) := by
  unfold coreOff
  exact ⟨by omega, by omega⟩
@[simp] theorem aside_coreOff_high (c : Nat) {x : Nat} (h : x < 0xFFF0) : Aside (coreOff c x + 4) := by
  unfold coreOff
  exact ⟨by omega, by omega⟩
@[simp] theorem aside_halReg (p : HalPort) {x : Nat} (h : x < 0x1000) : Aside ((halReg p).2 + x) := by
  have := p.p.isLt
  unfold halReg
  exact ⟨by dsimp only; omega, by dsimp only; omega⟩
@[simp] theorem aside_halReg_zero (p : HalPort) : Aside (halReg p).2 := aside_halReg p (x := 0) (by decide)
@[simp] theorem aside_colOff (q : Nat) {x : Nat} (h : x < 0x20) : Aside (colOff q x) := by
  unfold colOff
  exact ⟨by omega, by omega⟩

@[simp] theorem State.control_setChanState (c : Chan) (v : Nat) : (s.setChanState c v).control strict = s.control strict := by
  simp [State.setChanState]
@[simp] theorem State.control_setLinkSt (l : LinkId) (v : Nat) : (s.setLinkSt l v).control strict = s.control strict := by simp [State.setLinkSt]
@[simp] theorem State.control_setHalState (p : HalPort) (v : Nat) : (s.setHalState p v).control strict = s.control strict := by simp [State.setHalState]

@[simp] theorem State.control_startRetrain (l : LinkId) : (s.startRetrain l).control strict = s.control strict := by
  unfold State.startRetrain
  cases l <;> simp

@[simp] theorem State.control_setLanes (l : LinkId) (x : Nat × Bool) : (s.setLanes l x).control strict = s.control strict := by
  unfold State.setLanes
  cases l <;> simp

@[simp] theorem State.control_untrainPort (p : FabPort) : (s.untrainPort p).control strict = s.control strict := by simp [State.untrainPort]

/-! ## Memory -/

@[simp] theorem State.control_activate (c : Chan) (l : Nat) : (s.activate c l).control strict = s.control strict := by
  obtain ⟨k, h⟩ := s.activate_frame c l
  rw [h]
  simp

@[simp] theorem State.control_countLine (l : Nat) : (s.countLine l).control strict = s.control strict := by
  unfold State.countLine
  split
  · simp [aside_chanReg, Nat.add_assoc]
  · rfl

@[simp] theorem State.control_holdHome (l : Nat) (w : Bool) (m : BitVec 128) (d : List Byte) (p : Bool) :
    (s.holdHome l w m d p).control strict = s.control strict := by
  obtain ⟨k, h⟩ := s.holdHome_frame l w m d p
  rw [h]
  simp

@[simp] theorem State.control_setBad (l : Nat) (v : Bool) : (s.setBad l v).control strict = s.control strict := by simp [State.setBad]

@[simp] theorem State.control_memStore (l : Nat) (m : BitVec 128) (d : List Byte) (p : Bool) :
    (s.memStore l m d p).control strict = s.control strict := by simp [State.memStore]

@[simp] theorem State.control_memWrite (l : Nat) (m : BitVec 128) (d : List Byte) (p : Bool) :
    (s.memWrite l m d p).control strict = s.control strict := by
  unfold State.memWrite
  split
  · split
    · simp [aside_chanReg]
    · rfl
  · simp

@[simp] theorem State.control_sendLinkCoh (p : JxlPort) (code fn : Nat) (w : Option WriteTag) (m : CohMsg) :
    (s.sendLinkCoh p code fn w m).control strict = s.control strict := s.control_sendTagged _ _

@[simp] theorem State.control_countRead (l stack self : Nat) : (s.countRead l stack self).control strict = s.control strict := by
  simp [State.countRead]

@[simp] theorem State.control_dropL1 (n l : Nat) : (s.dropL1 n l).control strict = s.control strict := by simp [State.dropL1]

@[simp] theorem State.control_dropCopies (l : Nat) : (s.dropCopies l).control strict = s.control strict := by simp [State.dropCopies]

@[simp] theorem State.control_msauRelease (l : Nat) : (s.msauRelease l).control strict = s.control strict := by
  unfold State.msauRelease
  split
  · rfl
  · simp

@[simp] theorem State.control_readLine (l stack : Nat) : (s.readLine l stack).1.control strict = s.control strict := by simp [State.readLine]

@[simp] theorem State.control_writeLine (l : Nat) (m : BitVec 128) (d : List Byte) (p : Bool) :
    (s.writeLine l m d p).control strict = s.control strict := by
  cases hport : s.compPort with
  | none => simp [State.writeLine, hport]
  | some p => simp [State.writeLine, hport]

@[simp] theorem State.control_readPhys (ph n stack : Nat) : (s.readPhys ph n stack).1.control strict = s.control strict := s.control_readLine _ _

@[simp] theorem State.control_writePhys (ph : Nat) (b : List Byte) (p : Bool) : (s.writePhys ph b p).control strict = s.control strict :=
  s.control_writeLine _ _ _ _

/-- What every step of a fold keeps of what it has, the fold keeps. -/
theorem foldl_keeps {α β : Type} (P : β → Prop) {f : β → α → β} (h : ∀ b a, P b → P (f b a)) {b : β} (hb : P b) (l : List α) : P (l.foldl f b) := by
  induction l generalizing b with
  | nil => exact hb
  | cons a l ih => exact ih (h b a hb)

theorem State.control_readLocal {s t : State} {a n : Nat} {x : List Byte × Bool} (h : s.readLocal a n = some (t, x)) :
    t.control strict = s.control strict := by
  refine foldl_keeps (fun acc => ∀ t x, acc = some (t, x) → t.control strict = s.control strict) (fun acc pc hacc t x hstep => ?_)
    (fun t x heq => by cases heq; rfl) (linePieces a n (n + 1)) t x h
  split at hstep
  · cases hstep
  · split at hstep
    · cases hstep
    · cases hstep
      exact (State.control_readPhys _ _ pc.2 _).trans (hacc _ _ rfl)

@[simp] theorem State.control_writeLocal (a : Nat) (b : List Byte) : (s.writeLocal a b).control strict = s.control strict := by
  refine control_overList (f := _) (fun s pc => ?_) s _
  split <;> simp

/-! ## Coherence -/

@[simp] theorem State.control_cohOut (src code dest : Nat) (m : CohMsg) : (s.cohOut src code dest m).control strict = s.control strict := by
  simp [State.cohOut]

@[simp] theorem State.control_sendHost (p code : Nat) (m : CohMsg) : (s.sendHost p code m).control strict = s.control strict := by
  simp [State.sendHost]

@[simp] theorem State.control_sendCoh (code target : Nat) (m : CohMsg) : (s.sendCoh code target m).control strict = s.control strict := by
  unfold State.sendCoh
  split
  · simp
  · split
    · split
      · simp
      · rfl
    · simp

@[simp] theorem State.control_answer (k : ReqKind) (code : Nat) (m : CohMsg) : (s.answer k code m).control strict = s.control strict := by
  simp [State.answer]

@[simp] theorem State.control_refuseComp (m : CohMsg) (status : Nat) : (s.refuseComp m status).control strict = s.control strict := s.control_send _

@[simp] theorem State.control_wbAck (m : CohMsg) : (s.wbAck m).control strict = s.control strict := s.control_sendCoh _ _ _

@[simp] theorem State.control_noticeNow (k : ReqKind) (m : CohMsg) : (s.noticeNow k m).control strict = s.control strict := by
  unfold State.noticeNow
  cases k <;> simp

@[simp] theorem State.control_memData (k : ReqKind) (m : CohMsg) (g : Moesi) (f : Bool) : (s.memData k m g f).control strict = s.control strict := by
  simp [State.memData]

@[simp] theorem State.control_homeData (k : ReqKind) (m : CohMsg) (g : Moesi) (f : Bool) : (s.homeData k m g f).control strict = s.control strict := by
  simp [State.homeData]

@[simp] theorem State.control_msauTake (l : Nat) (d : List Byte) : (s.msauTake l d).control strict = s.control strict := by
  unfold State.msauTake
  dsimp only
  split
  · simp
  · split
    · simp
    · simp

@[simp] theorem State.control_openTxn (k : ReqKind) (m : CohMsg) : (s.openTxn k m).control strict = s.control strict := by
  unfold State.openTxn
  dsimp only
  split
  case h_1 =>
    split
    · simp
    · simp
    · split <;> simp
  case h_3 => simp
  case h_5 => simp
  case h_9 => simp
  case h_10 => simp
  case h_11 => rfl
  all_goals (split <;> simp)

@[simp] theorem State.control_doAtom (k : ReqKind) (m : CohMsg) : (s.doAtom k m).control strict = s.control strict := by
  unfold State.doAtom
  split
  · simp
  · rfl

@[simp] theorem State.control_completeTxn (t : Txn) : (s.completeTxn t).control strict = s.control strict := by
  unfold State.completeTxn
  split <;> simp

@[simp] theorem control_foldl {α : Type} {f : State → α → State} (h : ∀ s a, (f s a).control strict = s.control strict) (l : List α) :
    (l.foldl f s).control strict = s.control strict := control_overList h s l

theorem control_of_ite {c : Prop} [Decidable c] {s t u : State} (ht : t.control strict = s.control strict) (hu : u.control strict = s.control strict) :
    (if c then t else u).control strict = s.control strict := by
  split
  · exact ht
  · exact hu

/-- The home's chain of services, by its fuel. -/
theorem control_services (fuel : Nat) : ∀ s : State, (∀ l, (advance fuel s l).control strict = s.control strict) ∧
    (∀ l, (serveWaiter fuel s l).control strict = s.control strict) ∧ ∀ k m, (homeServe fuel s k m).control strict = s.control strict := by
  induction fuel with
  | zero => exact fun s => ⟨fun l => by simp [advance], fun l => by simp [serveWaiter], fun k m => by simp [homeServe]⟩
  | succ fuel ih =>
    have hadvance := fun s l => (ih s).1 l
    have hwaiter := fun s l => (ih s).2.1 l
    have hserve := fun s k m => (ih s).2.2 k m
    refine fun s => ⟨fun l => ?_, fun l => ?_, fun k m => ?_⟩
    · unfold advance
      split
      · rfl
      · split
        · rfl
        · split
          · simp
          · simp [hwaiter]
    · unfold serveWaiter
      dsimp only
      split
      · rfl
      · split
        · rfl
        · simp [hwaiter, hserve]
    · unfold homeServe
      refine control_of_ite (by simp) (control_of_ite (by simp) (control_of_ite ?_ (by simp [hadvance])))
      dsimp only
      split
      · simp
      · simp [hadvance]

@[simp] theorem control_advance (fuel : Nat) (l : Nat) : (advance fuel s l).control strict = s.control strict := (control_services fuel s).1 l

@[simp] theorem State.control_memServed (l : Nat) : (s.memServed l).control strict = s.control strict := by
  unfold State.memServed
  split
  · rfl
  · split
    · rfl
    · dsimp only
      split <;> simp

/-! ## The companion's copies, and accesses in one step -/

@[simp] theorem State.control_recallComp (l : Nat) : (s.recallComp l).control strict = s.control strict := s.control_openTxn _ _

theorem State.control_makeWay {s t : State} {l : Nat} (h : s.makeWay l = some t) : t.control strict = s.control strict := by
  unfold State.makeWay at h
  split at h
  · cases h; rfl
  · split at h
    · cases h
    · cases h; simp

@[simp] theorem State.control_lineFree (l : Nat) (w : Bool) : (s.lineFree l w).1.control strict = s.control strict := by
  unfold State.lineFree
  split
  · rfl
  · split
    · simp
    · split
      · rename_i hway
        exact State.control_makeWay hway
      · split
        · rfl
        · simp

@[simp] theorem State.control_rangeFree (a n : Nat) (w : Bool) : (s.rangeFree a n w).1.control strict = s.control strict := by
  refine foldl_keeps (fun acc : State × Bool => acc.1.control strict = s.control strict) (fun acc pc hacc => ?_) rfl _
  split
  · exact (State.control_lineFree _ _ _).trans hacc
  · exact hacc

@[simp] theorem State.control_dropResv (n l : Nat) : (s.dropResv n l).control strict = s.control strict := by simp [State.dropResv]

@[simp] theorem State.control_l2Evict (n l : Nat) : (s.l2Evict n l).control strict = s.control strict := by
  unfold State.l2Evict
  dsimp only
  split
  · rfl
  · simp

/-! ## Completions -/

@[simp] theorem State.control_hostWrite (p : Nat) (q : Option Nat) (a : Nat) (d : List Byte) : (s.hostWrite p q a d).control strict = s.control strict := by
  simp [State.hostWrite]

@[simp] theorem State.control_cmdWrite (p : Nat) (q : Option Nat) (a : DWord) (d : List Byte) : (s.cmdWrite p q a d).control strict = s.control strict := by
  unfold State.cmdWrite
  split
  · simp
  · split <;> simp

@[simp] theorem State.control_signal (p v : Nat) : (s.signal p v).control strict = s.control strict := by simp [State.signal]

@[simp] theorem State.control_signalAfter (p v : Nat) : (s.signalAfter p v).control strict = s.control strict := by simp [State.signalAfter]

@[simp] theorem State.control_writeEntry (p q : Nat) (c : Cq) (e : List Byte) : (s.writeEntry p q c e).control strict = s.control strict := by
  unfold State.writeEntry
  dsimp only
  split <;> simp

@[simp] theorem State.control_cqPush (p q : Nat) (e : List Byte) : (s.cqPush p q e).control strict = s.control strict := by
  unfold State.cqPush
  split <;> simp

@[simp] theorem State.control_postEvent (p type : Nat) (b : List Byte) : (s.postEvent p type b).control strict = s.control strict := s.control_cqPush _ _ _

@[simp] theorem State.control_slEvent (event die : Nat) : (s.slEvent event die).control strict = s.control strict := by simp [State.slEvent]

@[simp] theorem State.control_queueError (p q code head want got : Nat) : (s.queueError p q code head want got).control strict = s.control strict := by
  unfold State.queueError
  dsimp only
  split <;> simp

@[simp] theorem State.control_finishCmd (p q : Nat) (cid : BitVec 16) (code detail : Nat) (b : List Byte) :
    (s.finishCmd p q cid code detail b).control strict = s.control strict := by
  obtain ⟨m, h⟩ := s.finishCmd_frame p q cid code detail b
  rw [h]
  simp

@[simp] theorem State.control_finishLaunch (n : Nat) (l : Launch) (errors : List (Nat × Nat × List Nat)) :
    (s.finishLaunch n l errors).control strict = s.control strict := by
  unfold State.finishLaunch
  dsimp only
  split <;> simp

@[simp] theorem State.control_reportNums (n c code : Nat) (info : List Nat) : (s.reportNums n c code info).control strict = s.control strict := by
  unfold State.reportNums
  split <;> simp

@[simp] theorem State.control_report (n c code : Nat) (info : ErrInfo) : (s.report n c code info).control strict = s.control strict :=
  s.control_reportNums _ _ _ _

@[simp] theorem State.control_dropSample (c : Nat) : (s.dropSample c).control strict = s.control strict := by simp [State.dropSample]

@[simp] theorem State.control_settleEnd (c : Nat) : (s.settleEnd c).control strict = s.control strict := by
  unfold State.settleEnd
  dsimp only
  split <;> simp

@[simp] theorem State.control_abandonCore (c code : Nat) (info : ErrInfo) : (s.abandonCore c code info).control strict = s.control strict := by
  unfold State.abandonCore
  dsimp only
  split <;> simp

@[simp] theorem State.control_failWaiting (c code : Nat) : (s.failWaiting c code).control strict = s.control strict := by simp [State.failWaiting]

/-! ## Queues -/

theorem State.control_poolFetch {s t : State} {a n : Nat} (h : s.poolFetch a n = .waits t ∨ ∃ b, s.poolFetch a n = .bytes t b) :
    t.control strict = s.control strict := by
  unfold State.poolFetch at h
  split at h
  · simp at h
  · dsimp only at h
    split at h
    · obtain h | ⟨b, h⟩ := h <;> cases h
      exact State.control_rangeFree _ _ _ _
    · split at h
      · simp at h
      · split at h
        · simp at h
        · obtain h | ⟨b, h⟩ := h <;> cases h
          rename_i hread
          exact (State.control_readLocal hread).trans (State.control_rangeFree _ _ _ _)

theorem State.control_readSlot {s t : State} {p : Nat} {k : Sq} {i : Nat} {ext : List Byte}
    (h : s.readSlot p k i ext = .waits t ∨ ∃ b, s.readSlot p k i ext = .bytes t b) : t.control strict = s.control strict := by
  unfold State.readSlot at h
  dsimp only at h
  split at h
  · split at h
    · obtain h | ⟨b, h⟩ := h <;> cases h
      rfl
    · obtain h | ⟨b, h⟩ := h <;> cases h
      rfl
  · exact State.control_poolFetch h

@[simp] theorem State.control_fetchSlots (p q : Nat) (ext : List Byte) (i fuel : Nat) : (s.fetchSlots p q ext i fuel).control strict = s.control strict := by
  induction fuel generalizing s i with
  | zero => rfl
  | succ fuel ih =>
    unfold State.fetchSlots
    split
    · rfl
    · split
      · rfl
      · split
        · rename_i hread
          exact State.control_readSlot (.inl hread)
        · simp
        · rename_i hread
          have hslot := State.control_readSlot (strict := strict) (.inr ⟨_, hread⟩)
          simp [ih, hslot]

@[simp] theorem State.control_holdBell (p q tail : Nat) (ext : List Byte) : (s.holdBell p q tail ext).control strict = s.control strict := by
  simp [State.holdBell]

@[simp] theorem State.control_noQueue (p q : Nat) : (s.noQueue p q).control strict = s.control strict := s.control_cqPush _ _ _

@[simp] theorem State.control_sqBell (p q tail : Nat) (ext : List Byte) : (s.sqBell p q tail ext).control strict = s.control strict := by
  unfold State.sqBell
  split
  · rfl
  · split <;> simp

@[simp] theorem State.control_drainCq (p q fuel : Nat) : (s.drainCq p q fuel).control strict = s.control strict := by
  induction fuel generalizing s with
  | zero => rfl
  | succ fuel ih =>
    unfold State.drainCq
    split
    · rfl
    · split <;> simp [ih]

@[simp] theorem State.control_cqBell (p q head : Nat) : (s.cqBell p q head).control strict = s.control strict := by
  unfold State.cqBell
  split
  · rfl
  · split <;> simp

@[simp] theorem State.control_releaseBells (which : Nat → Bool) : (s.releaseBells which).control strict = s.control strict := by
  simp [State.releaseBells]

end

/-! ## Faults and the Hallway -/

section
variable (s : State)

@[simp] theorem State.control_leafRecord (f : FaultIn) (v : Verdict) : (s.leafRecord f v).control strict = s.control strict := by
  simp [State.leafRecord]

@[simp] theorem State.control_noteFault (f : FaultIn) : (s.noteFault f).control strict = s.control strict := by simp [State.noteFault]

@[simp] theorem State.control_sendPacket (p : HalPort) (pkt : Packet) : (s.sendPacket p pkt).control strict = s.control strict := by
  simp [State.sendPacket]

@[simp] theorem State.control_routeLost (die unit : Nat) (pkt : Packet) : (s.routeLost die unit pkt).control strict = s.control strict := by
  simp [State.routeLost]

@[simp] theorem State.control_acceptPacket (pkt : Packet) : (s.acceptPacket pkt).control strict = s.control strict := by simp [State.acceptPacket]

@[simp] theorem State.control_returnPacket (pkt : Packet) : (s.returnPacket pkt).control strict = s.control strict := s.control_send _

@[simp] theorem State.control_forward (die q : Nat) (pkt : Packet) (unit : Nat) : (s.forward die q pkt unit).control strict = s.control strict := by
  unfold State.forward
  split
  · simp
  · dsimp only
    split
    · simp
    · split <;> simp

@[simp] theorem State.control_setInbound (p : HalPort) (m : BitVec 66) : (s.setInbound p m).control strict = s.control strict := by
  simp [State.setInbound, Nat.add_assoc]

@[simp] theorem State.control_enterHold (p : HalPort) : (s.enterHold p).control strict = s.control strict := by simp [State.enterHold]

@[simp] theorem State.control_startRound (p : HalPort) (attempt : Nat) : (s.startRound p attempt).control strict = s.control strict := by
  simp [State.startRound]

@[simp] theorem State.control_fenceBundle (p : HalPort) (b : Nat) : (s.fenceBundle p b).control strict = s.control strict := by simp [State.fenceBundle]

@[simp] theorem State.control_fenceHalPort (p : HalPort) : (s.fenceHalPort p).control strict = s.control strict := by simp [State.fenceHalPort]

/-! ## Fences of channels, harts and links -/

@[simp] theorem State.control_sendMem (agent line : Nat) (d : List Byte) (p r : Bool) : (s.sendMem agent line d p r).control strict = s.control strict := by
  simp [State.sendMem]

@[simp] theorem State.control_answerFenced (c : Chan) (r : ChanReq) : (s.answerFenced c r).control strict = s.control strict := by
  simp [State.answerFenced, aside_chanReg]

@[simp] theorem State.control_poisonAtHome (a l : Nat) (g : BitVec 12) : (s.poisonAtHome a l g).control strict = s.control strict := by
  simp [State.poisonAtHome]

@[simp] theorem State.control_fenceFabPort (n : Nat) : (s.fenceFabPort n).control strict = s.control strict := by simp [State.fenceFabPort]

end

/-! ## What a fence writes of the view: DEGRADED, ONLINE, CHECKED, and the management plane -/

section
variable (s : State)

theorem State.control_withMgmt (m : Mgmt) : State.control false { s with mgmt := m } = s.control false := rfl

/-- The bits of MGT_SL_STATUS above LEVEL. -/
@[simp] theorem State.control_setSlStatus {lo : Nat} (h : 3 < lo) (hi v : Nat) (hl : lo ≤ hi) (hh : hi < 32) :
    (s.setFld 94 0x20100 hi lo v).control false = s.control false := by
  have hlevel : (s.setFld 94 0x20100 hi lo v).level = s.level := State.fld_setFld_other _ _ _ _ _ _ _ _ hl hh (by decide) (.inr h)
  have hregs : ∀ a, (if inControl false a then (s.setFld 94 0x20100 hi lo v).rd 94 a else 0) = if inControl false a then s.rd 94 a else 0 := fun a => by
    split
    · rename_i ha
      simp [inControl] at ha
      rw [State.setFld, State.rd_wr_ne _ _ _ _ _ _ (csrKey_ne (by decide) (by omega) (by omega))]
    · rfl
  simp only [State.control, hlevel, hregs, State.setFld_flp, State.setFld_locked, State.setFld_dieReset, State.setFld_resetCmds]
  rfl

@[simp] theorem State.control_setChecked (d : Nat) (v : Bool) : (s.setChecked d v).control false = s.control false := by
  rw [State.setChecked, State.wr64, State.control_wr_of rfl (by decide) (by decide), State.control_wr_of rfl (by decide) (by decide)]

@[simp] theorem State.control_setOnline (d : Nat) (v : Bool) : (s.setOnline d v).control false = s.control false := by
  unfold State.setOnline
  dsimp only
  split
  · rw [State.wr64, State.control_wr_of rfl (by decide) (by decide), State.control_wr_of rfl (by decide) (by decide)]
  · rw [State.wr64, State.control_wr_of rfl (by decide) (by decide), State.control_wr_of rfl (by decide) (by decide)]

@[simp] theorem State.control_noteFenced (u : UnitKey) : (s.noteFenced u).control false = s.control false := by simp [State.noteFenced]

@[simp] theorem State.control_fenceChannel (c : Chan) (thermal : Bool) : (s.fenceChannel c thermal).control false = s.control false := by
  simp [State.fenceChannel]

@[simp] theorem State.control_nextTest (d : Nat) : (s.nextTest d).control false = s.control false := by
  unfold State.nextTest
  split
  · rfl
  · split <;> simp

@[simp] theorem State.control_fenceCore (c : Nat) : (s.fenceCore c).control false = s.control false := by simp [State.fenceCore]

@[simp] theorem State.control_fenceHart (h : Nat) : (s.fenceHart h).control false = s.control false := by simp [State.fenceHart]

@[simp] theorem State.control_fenceAgent (a : Nat) : (s.fenceAgent a).control false = s.control false := by simp [State.fenceAgent]

@[simp] theorem State.control_laneFailed (l : LinkId) (lane : Nat) : (s.laneFailed l lane).control false = s.control false := by
  unfold State.laneFailed
  cases l <;> simp

@[simp] theorem State.control_fenceLane (d i : Nat) : (s.fenceLane d i).control false = s.control false := by simp [State.fenceLane]

@[simp] theorem State.control_fenceDie (d : Nat) : (s.fenceDie d).control false = s.control false := by
  unfold State.fenceDie
  dsimp only
  split
  case h_8 => simp [State.control_withMgmt]
  all_goals simp

@[simp] theorem State.control_fenceUnit (f : FaultIn) : (s.fenceUnit f).control false = s.control false := by
  unfold State.fenceUnit
  dsimp only
  split
  case h_4 => split <;> simp
  all_goals simp

@[simp] theorem State.control_leafDetect (f : FaultIn) : (s.leafDetect f).control false = s.control false := by simp [State.leafDetect]

end

/-! ## The end of a core's part of a kernel -/

section
variable (s : State)

@[simp] theorem State.control_noteNan (c unit quarter slot : Nat) (tag : Byte) (pc : DWord) (r : List Nat) :
    (s.noteNan c unit quarter slot tag pc r).control strict = s.control strict := by
  simp [State.noteNan]

@[simp] theorem State.control_landed (c unit : Nat) (r : Running) : (s.landed c unit r).control strict = s.control strict := by
  unfold State.landed
  dsimp only
  split <;> simp

end

section
variable (s : State)

@[simp] theorem State.control_panGranule (c reader g : Nat) : (s.panGranule c reader g).1.control false = s.control false := by
  unfold State.panGranule
  dsimp only
  split
  · simp
  · split
    · rfl
    · split <;> simp

@[simp] theorem State.control_panRead (c reader : Nat) (gs : List Nat) : (s.panRead c reader gs).1.control false = s.control false :=
  foldl_keeps (fun a : State × List Nat => a.1.control false = s.control false) (fun _ _ h => (State.control_panGranule _ _ _ _).trans h) rfl gs

@[simp] theorem State.control_selfTest (c : Nat) (m1 m2 : Bool) : (s.selfTest c m1 m2).control false = s.control false := by
  simp [State.selfTest]

@[simp] theorem State.control_runDue (c : Nat) : (s.runDue c).control false = s.control false := by
  unfold State.runDue
  dsimp only
  split
  · simp
  · rfl

@[simp] theorem State.control_land (c unit : Nat) (r : Running) : (s.land c unit r).1.control false = s.control false := by
  unfold State.land
  dsimp only
  split <;> simp

@[simp] theorem State.control_endPart (c code : Nat) (info : ErrInfo) : (s.endPart c code info).control false = s.control false := by
  simp [State.endPart]

end

/-! ## Collectives, and partition resets -/

section
variable (s : State)

@[simp] theorem State.control_colRecord (q : Nat) : (s.colRecord q).control strict = s.control strict := by
  unfold State.colRecord
  split <;> simp

@[simp] theorem State.control_colFinish (q st error errNode : Nat) : (s.colFinish q st error errNode).control strict = s.control strict := by
  unfold State.colFinish
  split
  · rfl
  · simp
    intro _
    split
    · rename_i hread
      simp [State.control_readLocal hread]
    · simp

@[simp] theorem State.control_colNotice (c : Collective) (kind : Nat) (b : List Byte) : (s.colNotice c kind b).control strict = s.control strict := by
  refine control_overList (fun s r => ?_) s _
  split <;> simp

@[simp] theorem State.control_colFail (q : ColQueue) (st error errNode : Nat) : (s.colFail q st error errNode).control strict = s.control strict := by
  unfold State.colFail
  split <;> simp

@[simp] theorem State.control_abortCols (p code : Nat) : (s.abortCols p code).control strict = s.control strict := by
  refine control_overList (fun s q => ?_) s _
  split <;> simp

@[simp] theorem State.control_haltHarts (p : Nat) : (s.haltHarts p).control strict = s.control strict := by simp [State.haltHarts]

@[simp] theorem State.control_abortCmds (p code : Nat) : (s.abortCmds p code).control false = s.control false := by
  unfold State.abortCmds
  refine (control_overList (fun s q => ?_) _ _).trans (by simp)
  split <;> simp

/-- What the steps of a partition reset leave of the view, once the partition is in reset. -/
theorem State.control_startPartReset {p : Nat} (hst : s.partState p ≠ 5) (hp : (s.partEntry p).isSome) :
    (s.startPartReset p).control false = (s.setPartState p 5).control false := by
  have hgo : ¬ (s.partState p = 5 ∨ (s.partEntry p).isNone) := by simp [hst, Option.isSome_iff_ne_none.mp hp]
  rw [State.startPartReset, if_neg hgo]
  simp

/-! ## Die resets -/

@[simp] theorem State.control_programCore (c : Nat) : (s.programCore c).control strict = s.control strict := by
  unfold State.programCore
  split <;> simp

theorem Map.get_drop {α : Type} (d : α) (m : Map α) (f : Nat → Bool) (k : Nat) (h : f k = false) : (m.drop f).get d k = m.get d k := by
  have hfind : (m.cells.filter (fun c => !f c.1)).find? (fun c => c.1 == k) = m.cells.find? (fun c => c.1 == k) := by
    rw [List.find?_filter]
    congr 1
    funext c
    by_cases hc : c.1 = k
    · simp [hc, h]
    · simp [hc]
  simp only [Map.get, Map.drop, hfind]

/-- The registers of a core lie in its die's block, above those of the view. -/
theorem State.control_dropRegs (f : Nat → Bool) (h : ∀ o, o < 0x20200 → f (csrKey 94 o) = false) :
    State.control strict { s with csr := s.csr.drop f } = s.control strict := by
  have hrd : ∀ o, o < 0x20200 → State.rd { s with csr := s.csr.drop f } 94 o = s.rd 94 o := fun o ho => Map.get_drop _ _ _ _ (h o ho)
  have hlevel : State.level { s with csr := s.csr.drop f } = s.level := by
    rw [State.level, State.level, State.fld, State.fld, hrd _ (by decide)]
  have hregs : ∀ o, (if inControl strict o then State.rd { s with csr := s.csr.drop f } 94 o else 0) = if inControl strict o then s.rd 94 o else 0 := fun o => by
    split
    · rename_i ho
      exact hrd o (by simp [inControl] at ho; omega)
    · rfl
  simp only [State.control, hlevel, hregs]

@[simp] theorem State.control_resetCore (c : Nat) : (s.resetCore c).control strict = s.control strict := by
  unfold State.resetCore
  dsimp only
  rw [State.control_programCore, State.control_setCore, State.control_dropRegs]
  · simp
  · intro o ho
    have hne : ¬ (coreDie c * 2 ^ 32 + coreOff c 0 ≤ csrKey 94 o ∧ csrKey 94 o < coreDie c * 2 ^ 32 + coreOff c 0 + 0x10000) := by
      unfold csrKey coreOff; omega
    simp only [Bool.and_eq_false_imp, Bool.and_eq_true, decide_eq_true_eq]
    exact fun h => absurd h hne

@[simp] theorem State.control_clearHome (d : Nat) : (s.clearHome d).control strict = s.control strict := by simp [State.clearHome]

@[simp] theorem State.control_holdChan (c : Chan) : (s.holdChan c).control strict = s.control strict := by simp [State.holdChan]

@[simp] theorem State.control_hostNote (p l : Nat) (as : List Nat) : (s.hostNote p l as).control strict = s.control strict := by simp [State.hostNote]

@[simp] theorem State.control_flushLine (l : Nat) : (s.flushLine l).control strict = s.control strict := by simp [State.flushLine]

theorem State.control_startDie (d : Nat) : (s.startDie d).control strict = State.control strict { s with dieReset := s.dieReset.set 0 d 2 } := by
  unfold State.startDie
  dsimp only
  split <;> simp

theorem State.control_emptyHome (d : Nat) : (s.emptyHome d).control strict = State.control strict { s with dieReset := s.dieReset.set 0 d 3 } := by
  simp [State.emptyHome]

end

end Sys2Proof.Machine
end

section
/-! # Bring-up

The load of the Floorplan, the loss of a management die, the service levels and what comes online in them (R78 to R97), and the statement on
the steps of bring-up. -/

namespace Sys2Proof.Machine

/-! ## Boot stages -/

section
variable {s : State} (hrun : s.phase = .running)
include hrun

/-- R532: no copy of a stage is a candidate. -/
theorem exec_bootStageVerify_none {st : Fin 3} (a b : Bool) (hst : s.mgmt.stage = st.val) (hnone : s.mgmt.candidates (2 * st.val) 0x40 = []) :
    exec (.bootStageVerify st a b []) s = .next { s with phase := .recovery } := by
  dsimp only [exec]
  refine (gate_running hrun _).trans (congrArg _ ?_)
  dsimp only
  rw [if_neg (not_not.mpr hst), hnone]
  rfl

/-- R531: the one candidate passes. -/
theorem exec_bootStageVerify_first {st : Fin 3} (b : Bool) (hst : s.mgmt.stage = st.val) (hone : s.mgmt.candidates (2 * st.val) 0x40 = [2 * st.val])
    (hpass : s.mgmt.stageResult st.val (2 * st.val) true = 0) :
    exec (.bootStageVerify st true b []) s = .next (s.modMgmt (fun m => { m with
      stage := st.val + 1, copies := m.copies.set 0 st.val 1,
      digests := m.digests.set 0 st.val (Config.sha384 (s.mgmt.flashRun (2 * st.val) 0 (s.mgmt.trailer (2 * st.val)).len)) })) := by
  dsimp only [exec]
  refine (gate_running hrun _).trans (congrArg _ ?_)
  dsimp only
  rw [if_neg (not_not.mpr hst), hone]
  have hother : ([2 * st.val].contains (2 * st.val + 1)) = false := by simp
  simp only [List.find?_cons, if_true, hpass, beq_self_eq_true, hother, Nat.sub_self, Nat.zero_mul, Nat.zero_add, Bool.not_false]
  split
  · rfl
  · rfl

end

/-! ## The load of the Floorplan -/

/-- R79: no management die is on the persistent fence list. -/
theorem State.fencedOut_none {s : State} (h : ∀ e ∈ s.mgmt.fences, e.kind = 5 → e.index ≠ 94 ∧ e.index ≠ 95) : s.fencedOut = s := by
  have hany : ∀ d, d = 94 ∨ d = 95 → s.mgmt.fences.any (fun e => e.kind == 5 && e.index == d) = false := fun d hd => by
    simp only [List.any_eq_false, Bool.and_eq_true, beq_iff_eq, not_and]
    intro e he hk hi
    obtain ⟨h94, h95⟩ := h e he hk
    omega
  have h94 := hany 94 (.inl rfl)
  have h95 := hany 95 (.inr rfl)
  simp only [State.fencedOut, overList, List.foldl_cons, List.foldl_nil]
  simp [h94, h95]

/-- What programming a configuration does to one die, as `State.program` runs it over the dies. -/
def programDie (f : Floorplan) (s : State) (d : Nat) : State :=
  let s := s.wr d 0x40 (effFeatures s.feats d)
  let s := match f.revSet[dieType d - 1]? with
    | some r => if r.2 < s.dieRev d then s.wr d 4 0x80000000 else s
    | none => s
  s.setSteward d { s.steward d with budget := startBudget f (s.fld 94 0xD0104 19 0) d }

section
variable {strict : Bool} (s : State)

theorem control_programDie (f : Floorplan) (s : State) (d : Nat) : (programDie f s d).control strict = s.control strict := by
  unfold programDie
  dsimp only
  split <;> simp

/-- Programming the dies puts the configuration in force, locks it and holds its partitions; what else it writes is not in the view (R83). -/
theorem State.program_control (f : Floorplan) : ∃ t : State, t.flp = some f ∧ t.locked = true ∧
    (s.program f).control strict = (overList t f.parts (fun s e => s.setPartState e.id 1)).control strict := by
  have hdies := control_overList (strict := strict) (control_programDie f) { s with flp := some f, locked := true } (List.range 100)
  refine ⟨overList { s with flp := some f, locked := true } (List.range 100) (programDie f), State.flp_of_control hdies, State.locked_of_control hdies, ?_⟩
  unfold State.program
  refine (control_overList (fun s x => by simp) _ _).trans ?_
  split
  · refine (control_overList (fun s n => by simp) _ _).trans ((State.control_update ..).trans ?_)
    exact (control_overList (fun s p => by simp) _ _).trans (control_overList (fun s c => by simp) _ _)
  · refine (control_overList (fun s n => by simp) _ _).trans ?_
    exact (control_overList (fun s p => by simp) _ _).trans (control_overList (fun s c => by simp) _ _)

theorem State.partState_hold {p : Nat} (t : State) (q : Nat) : (t.setPartState q 1).partState p = if p = q then 1 else t.partState p := by
  unfold State.setPartState State.partState
  split
  · rename_i h
    rw [h, State.fld_setFld _ _ _ _ _ _ (by decide) (by decide)]
    rfl
  · rename_i h
    exact State.fld_setFld_ne _ _ _ _ _ _ _ _ _ _ (by simp [csrKey]; omega)

theorem State.partState_held {l : List PartEntry} {e : PartEntry} (he : e ∈ l) (t : State) :
    (overList t l (fun s e => s.setPartState e.id 1)).partState e.id = 1 := by
  have hkeep : ∀ (l : List PartEntry) (t : State), t.partState e.id = 1 → (overList t l (fun s e => s.setPartState e.id 1)).partState e.id = 1 :=
    fun l t ht => foldl_keeps (fun t : State => t.partState e.id = 1) (fun t x h => by rw [State.partState_hold]; split <;> trivial) ht l
  induction l generalizing t with
  | nil => cases he
  | cons x l ih =>
    obtain rfl | hl := List.mem_cons.mp he
    · exact hkeep l _ (by rw [State.partState_hold, if_pos rfl])
    · exact ih hl _

@[simp] theorem State.control_applyFences : (s.applyFences).control false = s.control false := by
  refine control_overList (fun s e => ?_) s _
  split <;> simp

end

/-! ## A management die lost -/

section
variable (s : State)

theorem State.fenceDie_answers95 : (s.fenceDie 95).mgmt.answers95 = false := by
  have hports : ∀ t : State, (overList t (List.range 8) (fun s p =>
      if s.halState (halPort 95 p) = 5 then s else s.fenceHalPort (halPort 95 p))).mgmt = t.mgmt := fun t =>
    State.mgmt_of_control (control_overList (fun s p => by simp) _ _)
  have htype : dieType 95 = 8 := by decide
  unfold State.fenceDie
  dsimp only
  simp only [htype]
  rw [if_neg (by simp), hports]
  exact Bool.and_false _

/-- A fault that names die 95 leaves it out of the load, whether or not it fences the die. -/
theorem State.leafDetect_die95 {f : FaultIn} (hkind : f.kind = .die) (hindex : f.index = 95) (h : s.mgmt.answers95 = false) :
    (s.leafDetect f).mgmt.answers95 = false := by
  have hrec : ∀ v, (s.leafRecord f v).mgmt.answers95 = false := fun v => (congrArg Mgmt.answers95 (State.mgmt_of_control (s.control_leafRecord f v))).trans h
  have hfence : ∀ t : State, (t.fenceUnit f).mgmt.answers95 = false := fun t => by
    unfold State.fenceUnit
    simp only [hkind, hindex]
    exact t.fenceDie_answers95
  have hstair : ∀ t : State, t.mgmt.answers95 = false → ∀ d b, (t.stair 1 d 0xFF b).mgmt.answers95 = false := fun t ht d b =>
    (congrArg Mgmt.answers95 (State.mgmt_of_control (t.control_stair 1 d 0xFF b))).trans ht
  unfold State.leafDetect
  dsimp only
  split
  · split
    · split
      · exact hstair _ (hfence _) _ _
      · exact hstair _ (hrec _) _ _
    · split
      · exact hfence _
      · exact hrec _
  · exact h

theorem exec_mgmtDieAnswerTimeout {s : State} (hrun : s.phase = .running) (hflp : s.flp = none) (hans : s.mgmt.answers95 = true)
    (halive : (s.root false).alive = true) : exec (.mgmtDieAnswerTimeout true) s =
      .next ((s.modMgmt (fun m => { m with answers95 := false })).leafDetect (mkFault 94 0x02 0 .die 95 0 0)) := by
  dsimp only [exec]
  refine (gate_running hrun _).trans (congrArg _ ?_)
  exact if_neg (by simp [hflp, hans, halive])

end

/-! ## The service levels -/

section
variable {strict : Bool} (s : State)

/-- Entering a level writes LEVEL and its time; the online dies, events and doorbells are not in the loose view. -/
theorem State.control_enterLevel (n : Nat) :
    (s.enterLevel n).control false = ((s.setFld 94 0x20100 3 0 n).wr64 94 (0x20108 + 8 * n) s.now).control false := by
  unfold State.enterLevel
  dsimp only
  rw [State.control_ite]
  simp

end

section
variable (s : State)

/-! ## Registers that entering a level, or coming online, leaves -/

theorem State.rd_wr64_beside {d o d' o' : Nat} (ho : o < 2 ^ 31) (ho' : o' < 2 ^ 31) (hne : o' ≠ o) (hne' : o' ≠ o + 4) (v : DWord) :
    (s.wr64 d o v).rd d' o' = s.rd d' o' := by
  unfold State.wr64
  rw [State.rd_wr_beside _ (by omega) (by omega) hne', State.rd_wr_beside _ (by omega) (by omega) hne]

theorem State.rd_setOnline {o : Nat} (ho : o < 0x20130 ∨ 0x20140 ≤ o ∧ o < 2 ^ 31) (d : Nat) (v : Bool) : (s.setOnline d v).rd 94 o = s.rd 94 o := by
  unfold State.setOnline
  dsimp only
  split
  · exact State.rd_wr64_beside _ (by decide) (by omega) (by omega) (by omega) _
  · exact State.rd_wr64_beside _ (by decide) (by omega) (by omega) (by omega) _

theorem State.level_enterLevel {n : Nat} (hn : n < 5) : (s.enterLevel n).level = n := by
  rw [State.level_of_control (s.control_enterLevel n), State.level, State.fld,
    State.rd_wr64_beside _ (by omega) (by decide) (by omega) (by omega)]
  exact (State.fld_setFld _ _ _ _ _ _ (by decide) (by decide)).trans (Nat.mod_eq_of_lt (by simp; omega))

theorem State.levelTime_enterLevel {n : Nat} (hn : n < 5) : (s.enterLevel n).rd64 94 (0x20108 + 8 * n) = s.now := by
  have hin : ∀ o, 0x20108 ≤ o → o < 0x20130 → inControl false o = true := fun o h h' => by simp [inControl]; omega
  rw [State.rd64_of_control (s.control_enterLevel n) (hin _ (by omega) (by omega)) (hin _ (by omega) (by omega)), State.rd64_wr64 _ _ _ _ (by omega)]

/-- DEGRADED stays as it is when a level is entered. -/
theorem State.degraded_enterLevel {n : Nat} (hn : n < 5) : (s.enterLevel n).fld 94 0x20100 31 31 = s.fld 94 0x20100 31 31 := by
  have hin : inControl true 0x20100 = true := by decide
  have hregs : ∀ t : State, (overList t (levelDies n) (fun s d => if s.fencedU.contains (UnitKind.die, d) then s else s.setOnline d true)).rd 94 0x20100
      = t.rd 94 0x20100 := fun t =>
    foldl_keeps (fun u : State => u.rd 94 0x20100 = t.rd 94 0x20100)
      (fun u d h => by
        split
        · exact h
        · exact (State.rd_setOnline u (by decide) d true).trans h) rfl _
  have hlast : ∀ t : State, (if n = 3 then t.releaseBells (fun _ => true) else t).rd 94 0x20100 = t.rd 94 0x20100 := fun t =>
    State.rd_of_control (strict := true) (by simp) hin
  have hevent : ∀ t : State, (if n = 0 then { t with pins := { t.pins with ready := true } } else t.slEvent 0 0).rd 94 0x20100 = t.rd 94 0x20100 := fun t =>
    State.rd_of_control (strict := true) (by simp) hin
  unfold State.enterLevel
  dsimp only
  rw [State.fld, hlast, hevent, hregs, State.rd_wr64_beside _ (by omega) (by decide) (by omega) (by omega)]
  exact State.fld_setFld_other _ _ _ _ _ _ _ _ (by decide) (by decide) (by decide) (.inl (by decide))

theorem State.ready_enterLevel : (s.enterLevel 0).pins.ready = true := rfl

theorem State.rd64_setChecked (d : Nat) (v : Bool) : (s.setChecked d v).rd64 94 0x20130 = s.rd64 94 0x20130 := by
  unfold State.setChecked State.rd64
  rw [State.rd_wr64_beside _ (by decide) (by decide) (by decide) (by decide), State.rd_wr64_beside _ (by decide) (by decide) (by decide) (by decide)]

theorem State.online_slEvent (e d : Nat) : (s.slEvent e d).rd64 94 0x20130 = s.rd64 94 0x20130 :=
  State.rd64_of_control (s.control_slEvent (strict := true) e d) (by decide) (by decide)

theorem State.online_enterChecked (d : Nat) : (s.enterChecked d).rd64 94 0x20130 = s.rd64 94 0x20130 := by
  unfold State.enterChecked
  refine (State.rd64_setChecked _ _ _).trans (State.rd64_of_control (strict := true) (control_overList (fun s i => ?_) s _) (by decide) (by decide))
  simp

theorem State.online_nextTest (d : Nat) : (s.nextTest d).rd64 94 0x20130 = s.rd64 94 0x20130 := by
  unfold State.nextTest
  split
  · rfl
  · split
    · rfl
    · exact (State.online_slEvent _ _ _).trans (State.rd64_setChecked _ _ _)

theorem State.dieOnline_setOnline {d : Nat} (hd : d < 64) : bitAt ((s.setOnline d true).rd64 94 0x20130).toNat d = true := by
  unfold State.setOnline
  rw [if_pos hd, State.rd64_wr64 _ _ _ _ (by decide), Nat.mod_eq_of_lt hd]
  have hbit := bits_putField (s.rd64 94 0x20130) d d 1 (Nat.le_refl d) hd
  simp only [bits, Nat.sub_self] at hbit
  simp only [bitAt, b2n, if_true, beq_iff_eq]
  exact hbit

end

/-! ## The marks of the cores' self-tests -/

theorem Map.get_mapped {α : Type} (d : α) (m : Map α) (f : α → α) (k : Nat) :
    (Map.mk (m.cells.map (fun c => (c.1, f c.2)))).get d k = if (m.cells.any (fun c => c.1 == k)) then f (m.get d k) else d := by
  unfold Map.get
  dsimp only
  rw [List.find?_map]
  change (match Option.map (fun c : Nat × α => (c.1, f c.2)) (m.cells.find? (fun c => c.1 == k)) with | some c => c.2 | none => d) = _
  cases h : m.cells.find? (fun c => c.1 == k) with
  | none =>
    have hnone : ¬ (m.cells.any (fun c => c.1 == k)) = true := by
      rw [List.any_eq_true]
      rintro ⟨x, hx, hk⟩
      exact absurd hk (List.find?_eq_none.mp h x hx)
    exact (if_neg hnone).symm
  | some c => exact (if_pos (List.any_eq_true.mpr ⟨c, List.mem_of_find?_eq_some h, List.find?_some (p := fun c : Nat × α => c.1 == k) h⟩)).symm

theorem Map.get_unlisted {α : Type} (d : α) (m : Map α) {k : Nat} (h : (m.cells.any (fun c => c.1 == k)) = false) : m.get d k = d := by
  unfold Map.get
  rw [List.find?_eq_none.mpr (fun x hx => by simpa using List.any_eq_false.mp h x hx)]

/-- What a core's self-test and its fence leave on it. -/
def marks (cores : Map Core) (c : Nat) : Bool × Bool × Bool :=
  ((cores.get Core.reset c).tested, (cores.get Core.reset c).testing, (cores.get Core.reset c).fenced)

section
variable (s : State)

@[simp] theorem State.sendTagged_cores (w : Option WriteTag) (m : Msg) : (s.sendTagged w m).cores = s.cores := by
  unfold State.sendTagged
  dsimp only
  split
  · rfl
  · split
    · rfl
    · split <;> rfl

@[simp] theorem State.sendLinkCoh_cores (p : JxlPort) (code fn : Nat) (w : Option WriteTag) (m : CohMsg) :
    (s.sendLinkCoh p code fn w m).cores = s.cores := s.sendTagged_cores _ _

@[simp] theorem State.countLine_cores (l : Nat) : (s.countLine l).cores = s.cores := by
  unfold State.countLine State.activate
  split
  · split
    · rfl
    · dsimp only
      split <;> rfl
  · rfl

@[simp] theorem State.memStore_cores (l : Nat) (m : BitVec 128) (d : List Byte) (p : Bool) : (s.memStore l m d p).cores = s.cores := by
  simp [State.memStore, State.setBad, apply_ite State.cores]

@[simp] theorem State.memWrite_cores (l : Nat) (m : BitVec 128) (d : List Byte) (p : Bool) : (s.memWrite l m d p).cores = s.cores := by
  unfold State.memWrite
  split
  · split <;> rfl
  · split
    · unfold State.holdHome
      split <;> rfl
    · exact s.memStore_cores l m d p

@[simp] theorem State.hostWrite_cores (p : Nat) (q : Option Nat) (a : Nat) (d : List Byte) : (s.hostWrite p q a d).cores = s.cores := by
  unfold State.hostWrite
  split
  · split
    · exact s.sendTagged_cores _ _
    · rfl
  · split <;> rfl

@[simp] theorem State.signal_cores (p v : Nat) : (s.signal p v).cores = s.cores := by
  simp [State.signal, apply_ite State.cores, apply_dite State.cores]

@[simp] theorem State.signalAfter_cores (p v : Nat) : (s.signalAfter p v).cores = s.cores := by
  simp [State.signalAfter, apply_ite State.cores]

/-- Where a line's copies go, a core keeps all but its reservation. -/
@[simp] theorem State.marks_dropCopies (l : Nat) : marks (s.dropCopies l).cores = marks s.cores := by
  funext c
  unfold marks State.dropCopies
  dsimp only
  rw [Map.get_mapped Core.reset s.cores (fun k => if k.resv = some l then { k with resv := none } else k)]
  split
  · split <;> rfl
  · rename_i h
    rw [Map.get_unlisted _ _ (Bool.eq_false_iff.mpr h)]

@[simp] theorem State.marks_writeLine (l : Nat) (m : BitVec 128) (d : List Byte) (p : Bool) : marks (s.writeLine l m d p).cores = marks s.cores := by
  unfold State.writeLine
  dsimp only
  cases s.compPort with
  | none => split <;> simp [apply_ite State.cores]
  | some p => split <;> simp [apply_ite State.cores, apply_dite State.cores]

@[simp] theorem State.marks_writeLocal (a : Nat) (b : List Byte) : marks (s.writeLocal a b).cores = marks s.cores := by
  unfold State.writeLocal
  refine foldl_keeps (fun t : State => marks t.cores = marks s.cores) (fun t pc ht => ?_) rfl _
  split
  · exact ht
  · exact (State.marks_writeLine ..).trans ht

@[simp] theorem State.marks_cmdWrite (p : Nat) (q : Option Nat) (a : DWord) (d : List Byte) : marks (s.cmdWrite p q a d).cores = marks s.cores := by
  unfold State.cmdWrite
  split
  · rw [State.hostWrite_cores]
  · split <;> simp

@[simp] theorem State.marks_cqPush (p q : Nat) (e : List Byte) : marks (s.cqPush p q e).cores = marks s.cores := by
  unfold State.cqPush State.writeEntry
  split
  · split
    · rfl
    · dsimp only
      split
      · simp
      · split <;> simp
  · split <;> rfl

theorem State.marks_slEvent (e d : Nat) : marks (s.slEvent e d).cores = marks s.cores := by
  unfold State.slEvent
  refine foldl_keeps (fun t : State => marks t.cores = marks s.cores) (fun t p ht => ?_) rfl _
  split
  · exact (State.marks_cqPush ..).trans ht
  · exact ht

/-- The next core's self-test leaves a core that has been tested. -/
theorem State.marks_nextTest {c : Nat} (h : (s.core c).tested = true) (d : Nat) : marks (s.nextTest d).cores c = marks s.cores c := by
  unfold State.nextTest
  split
  · rfl
  · split
    · rename_i e he
      have hne : c ≠ e := fun heq => by
        have := List.find?_some he
        rw [← heq, h] at this
        cases this
      have hcore := s.core_setCore_ne e c { s.core e with testing := true } hne
      exact congrArg (fun k : Core => (k.tested, k.testing, k.fenced)) hcore
    · rw [State.marks_slEvent]
      rfl

end

/-! ## Changes of rate and width, and the deadline -/

section
variable (s : State)

/-- A channel in service enters HOLD: what its register holds beside STATE and the retrain count stays. -/
theorem State.holdChan_state {c : Chan} (h : s.chanState c = 2) : (s.holdChan c).chanState c = 3 := by
  unfold State.holdChan
  rw [if_pos h, State.satFld, State.chanState, State.fld_setFld_other _ _ _ _ _ _ _ _ (by decide) (by decide) (by decide) (.inl (by decide))]
  exact State.chanState_setChanState _ _ _ (by decide)

theorem State.holdChan_rate {c : Chan} : (s.holdChan c).fld (chanReg c).1 (chanReg c).2 0 0 = s.fld (chanReg c).1 (chanReg c).2 0 0 := by
  unfold State.holdChan
  dsimp only
  split
  · rw [State.satFld, State.fld_setFld_other _ _ _ _ _ _ _ _ (by decide) (by decide) (by decide) (.inr (by decide)), State.setChanState,
      State.fld_setFld_other _ _ _ _ _ _ _ _ (by decide) (by decide) (by decide) (.inr (by decide))]
    exact State.fld_congr (State.setChan_csr ..) ..
  · rfl

theorem State.setFld_csr_only (d o hi lo v : Nat) : ∃ r, s.setFld d o hi lo v = { s with csr := r } := ⟨_, rfl⟩

theorem State.holdChan_frame (c : Chan) : ∃ r m, s.holdChan c = { s with csr := r, channels := m } := by
  unfold State.holdChan
  split
  · obtain ⟨r, hr⟩ := State.setFld_csr_only (s.setChan c { s.chan c with refreshes := (s.chan c).refreshes + 2 }) (chanReg c).1 (chanReg c).2 31 28 3
    obtain ⟨r', hr'⟩ := State.setFld_csr_only { s.setChan c { s.chan c with refreshes := (s.chan c).refreshes + 2 } with csr := r }
      (chanReg c).1 (chanReg c).2 23 16 _
    dsimp only
    rw [State.setChanState, hr, State.satFld, hr']
    exact ⟨_, _, rfl⟩
  · exact ⟨s.csr, s.channels, rfl⟩

theorem State.holdChan_degraded (c : Chan) : (s.holdChan c).fld 94 0x20100 31 31 = s.fld 94 0x20100 31 31 := by
  have hoff := chanReg_off c
  have hkey : csrKey 94 0x20100 ≠ csrKey (chanReg c).1 (chanReg c).2 := csrKey_ne (by omega) (by decide) (by omega)
  unfold State.holdChan
  dsimp only
  split
  · rw [State.satFld, State.fld_setFld_ne _ _ _ _ _ _ _ _ _ _ hkey, State.setChanState, State.fld_setFld_ne _ _ _ _ _ _ _ _ _ _ hkey]
    exact State.fld_congr (State.setChan_csr ..) ..
  · rfl

/-- A unit that fails its change of rate or width (R95). -/
def State.rateFails (s : State) (u : RateUnit) : State := { s.setFld 94 0x20100 31 31 1 with rateFailed := s.rateFailed ++ [u] }

theorem State.rateFails_csr (u : RateUnit) : (s.rateFails u).csr = (s.setFld 94 0x20100 31 31 1).csr := by
  unfold State.rateFails
  generalize s.setFld 94 0x20100 31 31 1 = t
  rfl

theorem State.rateFails_frame (u : RateUnit) : ∃ r, s.rateFails u = { s with csr := r, rateFailed := s.rateFailed ++ [u] } := by
  obtain ⟨r, hr⟩ := s.setFld_csr_only 94 0x20100 31 31 1
  unfold State.rateFails
  rw [hr]
  exact ⟨r, rfl⟩

theorem State.rateFails_degraded (u : RateUnit) : (s.rateFails u).fld 94 0x20100 31 31 = 1 :=
  (State.fld_congr (s.rateFails_csr u) ..).trans (s.fld_setFld 94 0x20100 31 31 1 (by decide) (by decide))

theorem State.rateFails_beside (u : RateUnit) {d o hi lo : Nat} (ho : o < 2 ^ 32) (hne : o ≠ 0x20100) : (s.rateFails u).fld d o hi lo = s.fld d o hi lo :=
  (State.fld_congr (s.rateFails_csr u) ..).trans (s.fld_setFld_ne _ _ _ _ _ _ _ _ _ (csrKey_ne (by decide) ho hne))

end

section
variable {s : State} (hrun : s.phase = .running) (hlevel : 3 ≤ s.level) (hidle : s.rateMoving = false)
include hrun hlevel hidle

theorem exec_rateChange_annex (x : Fin 384) (ok : Bool) (h : s.chanState (.annex x) = 2) : exec (.rateChange (.annex x) ok) s =
    .next (let u := (if ok then s.setFld (chanReg (.annex x)).1 (chanReg (.annex x)).2 0 0 1 else s.rateFails (.annex x)).holdChan (.annex x)
      u.setChan (.annex x) { u.chan (.annex x) with rateMove := true }) := by
  dsimp only [exec]
  refine (gate_running hrun _).trans (congrArg _ ?_)
  dsimp only
  rw [if_neg (by simp [hidle]; omega), if_neg (not_not.mpr h)]
  rfl

theorem exec_rateChange_jxl (j : JxlPort) (ok : Bool) (h : s.linkSt (.jxl j) = 2) : exec (.rateChange (.jxl j) ok) s =
    .next (if ok then (s.setLanes (.jxl j) (linkLanes (.jxl j) (s.linkPort j.val).lanes16 (s.link (.jxl j)).failed)).setFld (92 + j.val) 0x80000 15 15
      (b2n (s.linkPort j.val).rate224) else s.rateFails (.jxl j)) := by
  dsimp only [exec]
  refine (gate_running hrun _).trans (congrArg _ ?_)
  dsimp only
  rw [if_neg (by simp [hidle]; omega), if_neg (not_not.mpr h)]
  rfl

end

theorem linkLanes_lt (l : LinkId) (full : Bool) (failed : BitVec 16) : (linkLanes l full failed).1 < 2 ^ 8 := by
  unfold linkLanes
  cases l <;> dsimp only <;> split_ifs <;> decide

/-- What the deadline takes out of service: the channels, ports and compute dies that have not come up (R89). -/
def State.missedFenced (s : State) : State :=
  let s := overList s allChans (fun s c =>
    if (s.chanState c == 0 || s.chanState c == 1 || s.chanState c == 5) ∧ !s.served.contains (.channel, chanIx c) then s.failChan c else s)
  let s := overList s (List.finRange 64) (fun s p =>
    if (s.fabState p.val = 0 ∨ s.fabState p.val = 1) ∧ !s.served.contains (.port, 1000 + p.val) then s.fabPortFence p 0x42 else s)
  let s := overList s (List.finRange 2) (fun s p =>
    if (s.linkPort p.val).enable ∧ s.linkSt (.jxl p) < 2 ∧ !s.served.contains (.port, 2000 + p.val) then (s.setLinkSt (.jxl p) 0).noteFenced (.port, 2000 + p.val) else s)
  overList s (List.range 32) (fun s d => if s.dieOnline d ∨ s.fencedU.contains (UnitKind.die, d) then s else s.fenceDie d)

theorem State.level_missedFenced (s : State) : s.missedFenced.level = s.level := by
  refine State.level_of_control (strict := false) ?_
  unfold State.missedFenced
  dsimp only
  refine (control_overList (fun s d => by simp) _ _).trans ((control_overList (fun s p => by simp) _ _).trans
    ((control_overList (fun s p => ?_) _ _).trans (control_overList (fun s c => ?_) _ _)))
  · simp [State.fabPortFence]
  · simp [State.failChan]

/-- Entering levels in order, the last of them SL4, with DEGRADED set. -/
theorem State.levels_entered (s : State) (hdeg : s.fld 94 0x20100 31 31 = 1) {l : List Nat} (hl : ∀ n ∈ l, n < 5) :
    (overList s (l ++ [4]) (fun s n => s.enterLevel n)).level = 4 ∧ (overList s (l ++ [4]) (fun s n => s.enterLevel n)).fld 94 0x20100 31 31 = 1 := by
  have hkeep : (overList s l (fun s n => s.enterLevel n)).fld 94 0x20100 31 31 = 1 := by
    induction l generalizing s with
    | nil => exact hdeg
    | cons n l ih =>
      have hn := hl n List.mem_cons_self
      exact ih _ ((s.degraded_enterLevel hn).trans hdeg) (fun m hm => hl m (List.mem_cons_of_mem _ hm))
  unfold overList at hkeep ⊢
  rw [List.foldl_append, List.foldl_cons, List.foldl_nil]
  exact ⟨State.level_enterLevel _ (by decide), (State.degraded_enterLevel _ (by decide)).trans hkeep⟩

theorem levels_above {n : Nat} (hn : n < 4) : (List.range 5).filter (fun m => decide (n < m)) = (List.range 4).filter (fun m => decide (n < m)) ++ [4] := by
  rw [List.range_succ, List.filter_append, List.filter_cons_of_pos (by simpa using hn)]
  rfl

/-- The deadline of bring-up enters SL4 from every level below, with DEGRADED set (R89). -/
theorem exec_bringUpDeadline {s : State} (hrun : s.phase = .running) (hflp : s.flp.isSome) (hready : s.pins.ready = true) (hlevel : s.level < 4) :
    ∃ t : State, exec .bringUpDeadline s = .next t ∧ t.level = 4 ∧ t.fld 94 0x20100 31 31 = 1 := by
  have hcond : ¬ (s.flp.isNone = true ∨ (!s.pins.ready) = true ∨ 4 ≤ s.level) := by
    simp [hready, Option.isSome_iff_ne_none.mp hflp]; omega
  have hstep : exec .bringUpDeadline s = .next (let t := s.missedFenced.setFld 94 0x20100 31 31 1
      overList t ((List.range 5).filter (fun n => decide (t.level < n))) (fun s n => s.enterLevel n)) := by
    dsimp only [exec]
    refine (gate_running hrun _).trans (congrArg _ ?_)
    dsimp only
    rw [if_neg hcond]
    rfl
  have hkept : (s.missedFenced.setFld 94 0x20100 31 31 1).level = s.level :=
    (State.fld_setFld_other _ _ _ _ _ _ _ _ (by decide) (by decide) (by decide) (.inr (by decide))).trans s.level_missedFenced
  refine ⟨_, hstep, ?_⟩
  dsimp only
  rw [hkept, levels_above hlevel]
  exact State.levels_entered _ (State.fld_setFld _ _ _ _ _ _ (by decide) (by decide)) (fun n hn => by
    have := List.mem_range.mp (List.mem_of_mem_filter hn); omega)

/-! ## A load that succeeds -/

section
variable (s : State)

theorem State.rd_setDigest (img : List Byte) {o : Nat} (ho : o < 0x20040 ∨ 0x20070 ≤ o ∧ o < 2 ^ 31) : (s.setDigest img).rd 94 o = s.rd 94 o := by
  unfold State.setDigest overList
  have hkeep : ∀ (l : List Nat) (t : State) (f : Nat → Word), (∀ i ∈ l, i < 12) → (l.foldl (fun s i => s.wr 94 (0x20040 + 4 * i) (f i)) t).rd 94 o = t.rd 94 o := by
    intro l t f hl
    induction l generalizing t with
    | nil => rfl
    | cons i l ih =>
      have hi := hl i List.mem_cons_self
      exact (ih _ (fun j hj => hl j (List.mem_cons_of_mem _ hj))).trans (State.rd_wr_beside _ (by omega) (by omega) (by omega) _)
  exact hkeep _ _ _ (fun i hi => List.mem_range.mp hi)

theorem State.setDigest_frame (img : List Byte) : (s.setDigest img).flp = s.flp ∧ (s.setDigest img).locked = s.locked := by
  unfold State.setDigest
  dsimp only
  exact foldl_keeps (fun t : State => t.flp = s.flp ∧ t.locked = s.locked) (fun t i ht => by simpa only [State.wr_flp, State.wr_locked] using ht) ⟨rfl, rfl⟩ _

/-- The result registers of a load that succeeds, in the order the model writes them. -/
def State.loadRegs (s : State) (l : Loaded) (img : List Byte) (source seq : Nat) : State :=
  let s := s.setFld 94 0x20100 31 31 0
  let s := ((s.setFld 94 0x20000 15 15 (b2n l.trunc)).setFld 94 0x20000 11 8 source).setFld 94 0x20000 3 0 2
  (s.wr64 94 0x20008 (BitVec.ofNat 64 seq)).setDigest img

theorem State.loaded_kept (l : Loaded) (img : List Byte) (source seq : Nat) : let u := ((s.program l.flp).applyFences).loadRegs l img source seq
    (s.loaded l img source seq).csr = u.csr ∧ (s.loaded l img source seq).flp = u.flp ∧ (s.loaded l img source seq).locked = u.locked := by
  have hroots : ∀ (u : State) (k k' : Root), ((u.setRoot false k).setRoot true k').csr = u.csr ∧ ((u.setRoot false k).setRoot true k').flp = u.flp ∧
      ((u.setRoot false k).setRoot true k').locked = u.locked := fun u k k' => ⟨rfl, rfl, rfl⟩
  exact hroots _ _ _

theorem State.loadRegs_flp (l : Loaded) (img : List Byte) (source seq : Nat) :
    (s.loadRegs l img source seq).flp = s.flp ∧ (s.loadRegs l img source seq).locked = s.locked := by
  unfold State.loadRegs
  dsimp only
  constructor
  · rw [(State.setDigest_frame _ img).1, State.wr64_flp, State.setFld_flp, State.setFld_flp, State.setFld_flp, State.setFld_flp]
  · rw [(State.setDigest_frame _ img).2, State.wr64_locked, State.setFld_locked, State.setFld_locked, State.setFld_locked, State.setFld_locked]

theorem State.loadRegs_status (l : Loaded) (img : List Byte) {source : Nat} (hs : source < 16) (seq : Nat) :
    (s.loadRegs l img source seq).fld 94 0x20000 3 0 = 2 ∧ (s.loadRegs l img source seq).fld 94 0x20000 11 8 = source := by
  have hrd : ∀ t : State, ((t.wr64 94 0x20008 (BitVec.ofNat 64 seq)).setDigest img).rd 94 0x20000 = t.rd 94 0x20000 := fun t =>
    (State.rd_setDigest _ img (.inl (by decide))).trans (State.rd_wr64_beside _ (by decide) (by decide) (by decide) (by decide) _)
  unfold State.loadRegs
  dsimp only
  constructor
  · rw [State.fld, hrd]
    exact State.fld_setFld _ _ _ _ _ _ (by decide) (by decide)
  · rw [State.fld, hrd]
    refine (State.fld_setFld_other _ _ _ _ _ _ _ _ (by decide) (by decide) (by decide) (.inl (by decide))).trans ?_
    exact (State.fld_setFld _ _ _ _ _ _ (by decide) (by decide)).trans (Nat.mod_eq_of_lt hs)

theorem State.loadRegs_partState (l : Loaded) (img : List Byte) (source seq : Nat) {p : Nat} (hp : p < 8) :
    (s.loadRegs l img source seq).partState p = s.partState p := by
  have hsetFld : ∀ (t : State) (o hi lo v : Nat), o < 0x20180 → (t.setFld 94 o hi lo v).rd 94 (0x20180 + 4 * p) = t.rd 94 (0x20180 + 4 * p) := fun t o hi lo v ho =>
    State.rd_wr_beside _ (by omega) (by omega) (by omega) _
  unfold State.loadRegs State.partState State.fld
  dsimp only
  rw [State.rd_setDigest _ img (.inr (by omega)), State.rd_wr64_beside _ (by decide) (by omega) (by omega) (by omega), hsetFld _ _ _ _ _ (by decide),
    hsetFld _ _ _ _ _ (by decide), hsetFld _ _ _ _ _ (by decide), hsetFld _ _ _ _ _ (by decide)]

/-- A load that succeeds puts its configuration in force, every partition held (R82, R83). -/
theorem State.loaded_spec (l : Loaded) (img : List Byte) {source : Nat} (hs : source < 16) (seq : Nat) : let t := s.loaded l img source seq
    t.flp = some l.flp ∧ t.locked = true ∧ t.fld 94 0x20000 3 0 = 2 ∧ t.fld 94 0x20000 11 8 = source ∧ ∀ e ∈ l.flp.parts, e.id < 8 → t.partState e.id = 1 := by
  obtain ⟨hcsr, hflp, hlocked⟩ := s.loaded_kept l img source seq
  obtain ⟨u, huflp, hulocked, hprog⟩ := s.program_control (strict := false) l.flp
  have hu := (State.control_applyFences (s.program l.flp)).trans hprog
  have hheld : ∀ parts : List PartEntry, (overList u parts (fun s e => s.setPartState e.id 1)).flp = u.flp ∧
      (overList u parts (fun s e => s.setPartState e.id 1)).locked = u.locked := fun parts =>
    foldl_keeps (fun t : State => t.flp = u.flp ∧ t.locked = u.locked)
      (fun t e ht => by simpa only [State.setPartState, State.setFld_flp, State.setFld_locked] using ht) ⟨rfl, rfl⟩ parts
  obtain ⟨hregs, hregs'⟩ := State.loadRegs_flp ((s.program l.flp).applyFences) l img source seq
  obtain ⟨hstate, hsource⟩ := State.loadRegs_status ((s.program l.flp).applyFences) l img hs seq
  refine ⟨?_, ?_, ?_, ?_, fun e he hid => ?_⟩
  · rw [hflp, hregs, State.flp_of_control hu, (hheld _).1, huflp]
  · rw [hlocked, hregs', State.locked_of_control hu, (hheld _).2, hulocked]
  · rw [State.fld_congr hcsr, hstate]
  · rw [State.fld_congr hcsr, hsource]
  · have hpart : (s.loaded l img source seq).partState e.id = (((s.program l.flp).applyFences).loadRegs l img source seq).partState e.id := State.fld_congr hcsr ..
    rw [hpart, State.loadRegs_partState _ _ _ _ _ hid, State.partState_of_control hu hid]
    exact State.partState_held he u

theorem State.trySlot_congr {t : State} (h : t.mgmt = s.mgmt) (a : Nat) (agrees : Bool) : t.trySlot a agrees = s.trySlot a agrees := by
  have hctx : t.loadCtx = s.loadCtx := by
    have hrev : t.dieRev = s.dieRev := by funext d; rw [State.dieRev, State.dieRev, h]
    have hfeat : t.dieFeat = s.dieFeat := by funext d; rw [State.dieFeat, State.dieFeat, h]
    unfold State.loadCtx State.feats
    rw [h, hrev, hfeat]
  unfold State.trySlot
  rw [hctx, h]

end

/-! ## The events of bring-up -/

section
variable {s : State} (hrun : s.phase = .running)
include hrun

theorem exec_floorplanLoad (hflp : s.flp = none) (hstage : 3 ≤ s.mgmt.stage) (hstate : s.fld 94 0x20000 3 0 = 0) (htrained : s.hallTrained = true)
    (hfences : ∀ e ∈ s.mgmt.fences, e.kind = 5 → e.index ≠ 94 ∧ e.index ≠ 95) : exec (.floorplanLoad true true) s =
      .next ((if (s.mgmt.candidates 6 0x50).contains 7 then (if (s.mgmt.candidates 6 0x50).contains 6 then s else s.setFld 94 0x20000 31 24 1)
        else (if (s.mgmt.candidates 6 0x50).contains 6 then s else s.setFld 94 0x20000 31 24 1).setFld 94 0x20000 23 16 1).trySlots true true
          (s.mgmt.candidates 6 0x50)) := by
  dsimp only [exec]
  refine (gate_running hrun _).trans (congrArg _ ?_)
  dsimp only
  rw [if_neg (by simp [hflp, hstate, htrained]; omega), State.fencedOut_none hfences]

theorem exec_serviceLevelEntry_zero (hready : s.pins.ready = false) (hload : 2 ≤ s.fld 94 0x20000 3 0) (hup : s.levelUp 0 = true) :
    exec (.serviceLevelEntry 0) s = .next (s.enterLevel 0) := by
  dsimp only [exec]
  refine (gate_running hrun _).trans (congrArg _ ?_)
  exact (if_pos rfl).trans (if_pos ⟨by simp [hready], hload, hup⟩)

theorem exec_serviceLevelEntry {n : Fin 5} (hn : n.val ≠ 0) (hready : s.pins.ready = true) (hflp : s.flp.isSome) (hlevel : s.level + 1 = n.val)
    (hup : s.levelUp n.val = true) : exec (.serviceLevelEntry n) s = .next (s.enterLevel n.val) := by
  dsimp only [exec]
  refine (gate_running hrun _).trans (congrArg _ ?_)
  exact (if_neg hn).trans (if_pos ⟨hready, hflp, hlevel, hup⟩)

theorem exec_dieOnline {k : StackId} (hk : k.val < 32) (hlevel : 3 ≤ s.level) (hoff : s.dieOnline k.val = false)
    (hfenced : s.fencedU.contains (UnitKind.die, k.val) = false) (htrained : s.stackTrained (36 + k.val) = true) :
    exec (.dieOnline k) s = .next ((((s.setOnline k.val true).enterChecked k.val).slEvent 1 k.val).nextTest k.val) := by
  dsimp only [exec]
  refine (gate_running hrun _).trans (congrArg _ ?_)
  exact if_neg (by simp only [hoff, hfenced, htrained, Bool.false_eq_true, Bool.not_true, or_false]; omega)

theorem exec_coreSelfTestDone {c : CoreId} (hchecked : s.checked (coreDie c.val) = true) (htesting : (s.core c.val).testing = true) :
    exec (.coreSelfTestDone c true) s = .next ((s.setCore c.val { s.core c.val with testing := false, tested := true }).nextTest (coreDie c.val)) := by
  dsimp only [exec]
  refine (gate_running hrun _).trans (congrArg _ ?_)
  exact if_neg (by simp [hchecked, htesting])

end

section
variable (s : State)

theorem State.setFld_frame_of {s t : State} (d o hi lo v : Nat) (h : { t with csr := s.csr } = s) : { t.setFld d o hi lo v with csr := s.csr } = s := h

/-- A load without a candidate: both slots fail for want of one (R78, Table 2-14). -/
theorem State.noCandidate_spec : let t := ((s.setFld 94 0x20000 31 24 1).setFld 94 0x20000 23 16 1).setFld 94 0x20000 3 0 3
    t.flp = s.flp ∧ t.fld 94 0x20000 3 0 = 3 ∧ t.fld 94 0x20000 31 24 = 1 ∧ t.fld 94 0x20000 23 16 = 1 ∧ { t with csr := s.csr } = s := by
  dsimp only
  refine ⟨by rw [State.setFld_flp, State.setFld_flp, State.setFld_flp], State.fld_setFld _ _ _ _ _ _ (by decide) (by decide), ?_, ?_, ?_⟩
  · rw [State.fld_setFld_other _ _ _ _ _ _ _ _ (by decide) (by decide) (by decide) (.inl (by decide)),
      State.fld_setFld_other _ _ _ _ _ _ _ _ (by decide) (by decide) (by decide) (.inl (by decide))]
    exact State.fld_setFld _ _ _ _ _ _ (by decide) (by decide)
  · rw [State.fld_setFld_other _ _ _ _ _ _ _ _ (by decide) (by decide) (by decide) (.inl (by decide))]
    exact State.fld_setFld _ _ _ _ _ _ (by decide) (by decide)
  · exact State.setFld_frame_of _ _ _ _ _ (s.setFld_setFld_frame _ _ _ _ _ _ _ _ _ _)

theorem State.trySlots_first {l : Loaded} {img : List Byte} (h : s.trySlot 6 true = .ok (l, img)) :
    s.trySlots true true [6] = (s.setFld 94 0x20000 31 24 0).loaded l img 1 (s.mgmt.trailer 6).seq := by
  unfold State.trySlots
  dsimp only
  rw [if_pos rfl, h]
  rfl

/-- What a compute die that comes online leaves: its bit of ONLINE set (R92, R96). -/
theorem State.dieOnline_online {d : Nat} (hd : d < 32) : ((((s.setOnline d true).enterChecked d).slEvent 1 d).nextTest d).dieOnline d = true := by
  unfold State.dieOnline
  rw [if_pos (by omega), State.online_nextTest, State.online_slEvent, State.online_enterChecked]
  exact s.dieOnline_setOnline (by omega)

/-- A core that has passed its self-test is marked so, its fence as it was (R97). -/
theorem State.tested_spec (c d : Nat) : let t := (s.setCore c { s.core c with testing := false, tested := true }).nextTest d
    (t.core c).tested = true ∧ (t.core c).testing = false ∧ (t.core c).fenced = (s.core c).fenced := by
  have hcore := s.core_setCore c { s.core c with testing := false, tested := true }
  have hmarks := State.marks_nextTest (s.setCore c { s.core c with testing := false, tested := true }) (c := c) (by rw [hcore]) d
  have hset : marks (s.setCore c { s.core c with testing := false, tested := true }).cores c = (true, false, (s.core c).fenced) :=
    congrArg (fun k : Core => (k.tested, k.testing, k.fenced)) hcore
  obtain ⟨h1, h2⟩ := Prod.mk.inj (hmarks.trans hset)
  obtain ⟨h2, h3⟩ := Prod.mk.inj h2
  exact ⟨h1, h2, h3⟩

/-- An Annex channel that moves to its rate, or fails to, is in HOLD (R95, R339). -/
def State.annexMoved (u : State) (c : Chan) : State := (u.holdChan c).setChan c { (u.holdChan c).chan c with rateMove := true }

theorem State.annexMoved_spec (c : Chan) : (s.chanState c = 2 → (s.annexMoved c).chanState c = 3) ∧
    (s.annexMoved c).fld (chanReg c).1 (chanReg c).2 0 0 = s.fld (chanReg c).1 (chanReg c).2 0 0 ∧
    (s.annexMoved c).fld 94 0x20100 31 31 = s.fld 94 0x20100 31 31 ∧ ∃ r m, s.annexMoved c = { s with csr := r, channels := m } := by
  have hcsr : (s.annexMoved c).csr = (s.holdChan c).csr := rfl
  obtain ⟨r, m, hframe⟩ := s.holdChan_frame c
  refine ⟨fun h => (State.fld_congr hcsr ..).trans (s.holdChan_state h), (State.fld_congr hcsr ..).trans s.holdChan_rate,
    (State.fld_congr hcsr ..).trans (s.holdChan_degraded c), ?_⟩
  unfold State.annexMoved
  rw [hframe]
  exact ⟨_, _, rfl⟩

theorem State.annexRated_spec (x : Fin 384) (h : s.chanState (.annex x) = 2) :
    let t := (s.setFld (chanReg (.annex x)).1 (chanReg (.annex x)).2 0 0 1).annexMoved (.annex x)
    t.fld (chanReg (.annex x)).1 (chanReg (.annex x)).2 0 0 = 1 ∧ t.chanState (.annex x) = 3 ∧ { t with csr := s.csr, channels := s.channels } = s := by
  obtain ⟨h3, hrate, -, r, m, hframe⟩ := State.annexMoved_spec (s.setFld (chanReg (.annex x)).1 (chanReg (.annex x)).2 0 0 1) (.annex x)
  obtain ⟨r0, hu⟩ := s.setFld_csr_only (chanReg (.annex x)).1 (chanReg (.annex x)).2 0 0 1
  refine ⟨hrate.trans (State.fld_setFld _ _ _ _ _ _ (by decide) (by decide)),
    h3 ((State.fld_setFld_other _ _ _ _ _ _ _ _ (by decide) (by decide) (by decide) (.inl (by decide))).trans h), ?_⟩
  rw [hframe, hu]

theorem State.annexFailed_spec (x : Fin 384) (h : s.chanState (.annex x) = 2) : let t := (s.rateFails (.annex x)).annexMoved (.annex x)
    t.fld 94 0x20100 31 31 = 1 ∧ t.chanState (.annex x) = 3 ∧
    { t with csr := s.csr, channels := s.channels } = { s with rateFailed := s.rateFailed ++ [.annex x] } := by
  have hoff := chanReg_off (.annex x)
  obtain ⟨h3, -, hdeg, r, m, hframe⟩ := State.annexMoved_spec (s.rateFails (.annex x)) (.annex x)
  obtain ⟨r0, hu⟩ := s.rateFails_frame (.annex x)
  refine ⟨hdeg.trans (s.rateFails_degraded _), h3 ((s.rateFails_beside _ (by omega) (by omega)).trans h), ?_⟩
  rw [hframe, hu]

theorem State.jxlRated_spec (j : JxlPort) (x : Nat × Bool) (hx : x.1 < 2 ^ 8) (v : Nat) : let t := (s.setLanes (.jxl j) x).setFld (92 + j.val) 0x80000 15 15 v
    t.fld (92 + j.val) 0x80000 23 16 = x.1 ∧ t.link (.jxl j) = { s.link (.jxl j) with high := x.2 } ∧ { t with csr := s.csr, links := s.links } = s := by
  have hlanes : s.setLanes (.jxl j) x = (s.setLink (.jxl j) { s.link (.jxl j) with high := x.2 }).setFld (92 + j.val) 0x80000 23 16 x.1 := rfl
  rw [hlanes]
  refine ⟨?_, ?_⟩
  · refine (State.fld_setFld_other _ _ _ _ _ _ _ _ (by decide) (by decide) (by decide) (.inl (by decide))).trans ?_
    exact (State.fld_setFld _ _ _ _ _ _ (by decide) (by decide)).trans (Nat.mod_eq_of_lt hx)
  · obtain ⟨r, hr⟩ := (s.setLink (.jxl j) { s.link (.jxl j) with high := x.2 }).setFld_csr_only (92 + j.val) 0x80000 23 16 x.1
    obtain ⟨r', hr'⟩ := State.setFld_csr_only { s.setLink (.jxl j) { s.link (.jxl j) with high := x.2 } with csr := r } (92 + j.val) 0x80000 15 15 v
    rw [hr, hr']
    exact ⟨State.link_setLink s (.jxl j) _, rfl⟩

end

/-- Slot A's image, the one candidate, loads (R78, R82). -/
theorem exec_floorplanLoad_first {s : State} (hrun : s.phase = .running) (hflp : s.flp = none) (hstage : 3 ≤ s.mgmt.stage)
    (hstate : s.fld 94 0x20000 3 0 = 0) (htrained : s.hallTrained = true) (hfences : ∀ e ∈ s.mgmt.fences, e.kind = 5 → e.index ≠ 94 ∧ e.index ≠ 95)
    {l : Loaded} {img : List Byte} (hone : s.mgmt.candidates 6 0x50 = [6]) (hok : s.trySlot 6 true = .ok (l, img)) : exec (.floorplanLoad true true) s =
      .next (((s.setFld 94 0x20000 23 16 1).setFld 94 0x20000 31 24 0).loaded l img 1 (s.mgmt.trailer 6).seq) := by
  have h6 : ([6] : List Nat).contains 6 = true := rfl
  have h7 : ¬ ([6] : List Nat).contains 7 = true := by decide
  have hmgmt : (s.setFld 94 0x20000 23 16 1).mgmt = s.mgmt := s.setFld_mgmt 94 0x20000 23 16 1
  rw [exec_floorplanLoad hrun hflp hstage hstate htrained hfences, hone, if_neg h7, if_pos h6,
    State.trySlots_first _ ((State.trySlot_congr s hmgmt 6 true).trans hok), hmgmt]

/-- Settles O39. The registers of bring-up are read through the view of `State.control`, which the fences and completions of the events keep; a level's
entry, a load's result and a core's marks each have a lemma that says what they leave. -/
theorem bringUpSteps : Obligations.BringUpSteps := by
  intro s hrun
  refine ⟨fun st a b hst hnone => ?_, fun st b hst hone hpass => ?_, fun hflp hstage hstate htrained hfences => ⟨fun hnone => ?_, fun l img hone hok => ?_⟩,
    fun hflp hans halive => ?_, fun hready hload hup => ?_, fun n hn hready hflp hlevel hup => ?_, fun k hk hlevel hoff hfenced htrained => ?_,
    fun c hchecked htesting => ?_, fun x hlevel hidle hst => ⟨?_, ?_⟩, fun j hlevel hidle hst => ⟨?_, ?_⟩, exec_bringUpDeadline hrun⟩
  case refine_1 => exact ⟨_, exec_bootStageVerify_none hrun a b hst hnone, rfl, by rw [← hrun]⟩
  case refine_2 => exact ⟨_, exec_bootStageVerify_first hrun b hst hone hpass, rfl, hrun, rfl, Map.get_set_self _ _ _ _⟩
  case refine_3 =>
    obtain ⟨hkept, h3, ha, hb, hframe⟩ := s.noCandidate_spec
    refine ⟨_, (exec_floorplanLoad hrun hflp hstage hstate htrained hfences).trans ?_, hkept.trans hflp, h3, ha, hb, hframe⟩
    rw [hnone]
    rfl
  case refine_4 =>
    exact ⟨_, exec_floorplanLoad_first hrun hflp hstage hstate htrained hfences hone hok, State.loaded_spec _ l img (source := 1) (by decide) _⟩
  case refine_5 => exact ⟨_, exec_mgmtDieAnswerTimeout hrun hflp hans halive, State.leafDetect_die95 _ rfl rfl rfl⟩
  case refine_6 =>
    exact ⟨_, exec_serviceLevelEntry_zero hrun hready hload hup, s.ready_enterLevel, s.level_enterLevel (by decide), s.levelTime_enterLevel (n := 0) (by decide)⟩
  case refine_7 => exact ⟨_, exec_serviceLevelEntry hrun hn hready hflp hlevel hup, s.level_enterLevel n.isLt, s.levelTime_enterLevel n.isLt⟩
  case refine_8 => exact ⟨_, exec_dieOnline hrun hk hlevel hoff hfenced htrained, s.dieOnline_online hk⟩
  case refine_9 => exact ⟨_, exec_coreSelfTestDone hrun hchecked htesting, s.tested_spec _ _⟩
  case refine_10 => exact ⟨_, exec_rateChange_annex hrun hlevel hidle x true hst, s.annexRated_spec x hst⟩
  case refine_11 => exact ⟨_, exec_rateChange_annex hrun hlevel hidle x false hst, s.annexFailed_spec x hst⟩
  case refine_12 => exact ⟨_, exec_rateChange_jxl hrun hlevel hidle j true hst, s.jxlRated_spec j _ (linkLanes_lt _ _ _) _⟩
  case refine_13 =>
    obtain ⟨r, hframe⟩ := s.rateFails_frame (.jxl j)
    refine ⟨_, exec_rateChange_jxl hrun hlevel hidle j false hst, s.rateFails_degraded _, (s.rateFails_beside (d := 92 + j.val) (o := 0x80000) _ (by decide) (by decide)).trans hst, ?_⟩
    rw [if_neg Bool.false_ne_true, hframe]

end Sys2Proof.Machine
end

section
/-! # Commands on units

What the commands of the queues do to kernels, harts, partitions, cores, dies, configurations and the management plane, and the statement on them. -/

namespace Sys2Proof.Machine

/-! ## A command that starts, and its end -/

section
variable {s s1 : State} {p : PartId} {q op : Nat} {c : Slot} {k : Sq}

/-- A command that heads its queue, of its queue type, runs its effect on the state with it started (R433, R434). -/
theorem runCmd_ready (h : CmdReady s p q op s1 c k) (f : State → Slot → State) : runCmd p q op s f = .next (f s1 c) := by
  obtain ⟨hrun, hruns, htake, -, hadmin, hmgmt⟩ := h
  unfold runCmd
  refine (gate_running hrun _).trans (congrArg _ ?_)
  rw [if_pos hruns, htake]
  dsimp only
  split
  · rename_i hty
    exact if_pos (hadmin hty)
  · rename_i hty
    exact if_pos (hmgmt hty)
  · rfl

theorem CmdReady.started (h : CmdReady s p q op s1 c k) : s1.sq p.val q = some k := by
  obtain ⟨-, -, -, hstarted, -, -⟩ := h
  exact hstarted

theorem CmdReady.running (h : CmdReady s p q op s1 c k) : s.phase = .running := h.1

/-- The end of a command leaves its result on its queue (R435). -/
theorem State.finishCmd_ends {t : State} (h : t.sq p.val q = some k) (code detail : Nat) : CmdEnds (t.finishCmd p.val q c.cid code detail) p q k c code := by
  unfold State.finishCmd
  rw [h]
  exact ⟨_, rfl, rfl, State.sq_setSq ..⟩

theorem State.endCmd_ends {t : State} (h : t.sq p.val q = some k) (code detail : Nat) : CmdEnds (t.endCmd p q c code detail) p q k c code :=
  State.finishCmd_ends h code detail

theorem State.endCmd_frame (t : State) (code detail : Nat) : ∃ m, t.endCmd p q c code detail = { t with sqs := m } := t.finishCmd_frame _ _ _ _ _ _

end

/-! ## Kernels and harts -/

section
variable {s s1 : State} {p : PartId} {q : Nat} {c : Slot} {k : Sq}

/-- One core that nothing blocks: the launch waits for it (R132, R133). -/
theorem exec_kernelLaunch_waits {d : AsDesc} {s2 : State} {lb e : List Byte} (h : CmdReady s p q 0x40 s1 c k) (hslot : s1.asSlot p.val c.target = some d)
    (htarget : c.target < 256) (harg1 : c.arg1 = 0) (hinline : c.flags.getLsbD 1 = true) (harg0 : c.arg0 = 0) (hcount : leAt (padTo 64 c.extra) 0x30 2 = 1)
    (hstop : s1.virtStop p.val c.target d (BitVec.ofNat 64 (leAt (padTo 64 c.extra) 0x20 8)) 2 = none)
    (hread : s1.readVirt p.val c.target d (BitVec.ofNat 64 (leAt (padTo 64 c.extra) 0x20 8)) 2 e = some (s2, lb)) (hcore : leAt lb 0 2 < 640)
    (hdesc : descOk (padTo 64 c.extra) = true) (hblock : s2.launchBlock p.val (leAt lb 0 2) = none) :
    exec (.kernelLaunch p q e) s = .next { s2 with
      launches := s2.launches.set Launch.none s2.nextLaunch { launchOf p.val q c (padTo 64 c.extra) with cores := [leAt lb 0 2] },
      nextLaunch := s2.nextLaunch + 1 } := by
  have hlist : listBytes c e = e := by simp [listBytes, hinline]
  have hblocks : s2.launchBlocks p.val [leAt lb 0 2] = [] := by simp [State.launchBlocks, hblock]
  have hnamed : [leAt lb 0 2].filter (fun c => decide (c < 640)) = [leAt lb 0 2] := by simp [hcore]
  have hlaunch : s1.launchDesc p.val c e = .bytes s1 (padTo 64 c.extra) := by rw [State.launchDesc, if_pos hinline, if_pos harg0]
  dsimp only [exec]
  refine (runCmd_ready h _).trans (congrArg _ ?_)
  dsimp only
  rw [hslot]
  dsimp only
  rw [if_neg (Nat.not_le.mpr htarget), if_neg (fun hne => hne.1 harg1), hlaunch]
  dsimp only
  rw [hcount, if_pos (by decide), hstop]
  dsimp only
  rw [if_pos (by decide), hlist, hread]
  dsimp only
  simp only [List.range_one, List.map_cons, List.map_nil, Nat.mul_zero]
  rw [hnamed, if_neg (by simp), if_neg (by simp [hdesc]), hblocks]

/-- The hart that HART_START starts in a partition that is not quiesced: in machine mode in C0, its ID and the argument in a0 and a1 (R403). -/
def startedHart (k : Hart) (h : Nat) (entry arg : DWord) : Hart :=
  { Hart.reset with
    pc := entry, priv := 3, state := 1, dropped := k.dropped, files := k.files,
    x := Map.set 0 (Map.set 0 ⟨[]⟩ 10 (BitVec.ofNat 64 h)) 11 arg }

theorem startedHart_spec (k : Hart) (h : Nat) (entry arg : DWord) : let n := startedHart k h entry arg
    n.state = 1 ∧ n.priv = 3 ∧ n.pc = entry ∧ n.reg 10 = BitVec.ofNat 64 h ∧ n.reg 11 = arg ∧ n.csrs = Hart.reset.csrs := by
  refine ⟨rfl, rfl, rfl, ?_, Map.get_set_self _ _ _ _, rfl⟩
  exact (Map.get_set_ne _ _ _ _ _ _ (by decide)).trans (Map.get_set_self _ _ _ _)

theorem exec_hartStart_starts (h : CmdReady s p q 0x20 s1 c k) (htarget : c.target < 256) (hpart : s1.hartPart c.target = some p.val) (hlevel : 2 ≤ s1.level)
    (hquiet : s1.partState p.val ≠ 4) (hheld : (s1.hart c.target).state = 0) (hfenced : (s1.hart c.target).fenced = false) :
    exec (.hartStart p q) s = .next (((s1.setHart c.target (startedHart (s1.hart c.target) c.target c.arg0 c.arg1)).partRuns p.val).endCmd p q c 0 c.target) := by
  dsimp only [exec]
  refine (runCmd_ready h _).trans (congrArg _ ?_)
  dsimp only
  rw [if_neg (by simp [hpart]; omega), if_neg (by omega), if_neg (by simp [hheld, hfenced]), if_neg hquiet]
  rfl

theorem State.partRuns_frame (t : State) (p : Nat) : ∃ r, t.partRuns p = { t with csr := r } := by
  unfold State.partRuns
  split
  · exact ⟨_, rfl⟩
  · exact ⟨t.csr, rfl⟩

/-- What HART_START leaves: the hart in machine mode at its entry, the other harts as they were (R403). -/
theorem State.hartStart_spec (t : State) (h : t.sq p.val q = some k) (m : Nat) (n : Hart) : let u := ((t.setHart m n).partRuns p.val).endCmd p q c 0 m
    CmdEnds u p q k c 0 ∧ u.hart m = n ∧ (∀ i, i ≠ m → u.hart i = t.hart i) ∧ u.pool = t.pool := by
  obtain ⟨r, hr⟩ := (t.setHart m n).partRuns_frame p.val
  have hq : ((t.setHart m n).partRuns p.val).sq p.val q = some k := by rw [hr]; exact h
  obtain ⟨b, hb⟩ := ((t.setHart m n).partRuns p.val).endCmd_frame (p := p) (q := q) (c := c) 0 m
  refine ⟨State.endCmd_ends hq 0 m, ?_, fun i hi => ?_, ?_⟩
  · rw [hb, hr]
    exact State.hart_setHart _ m n
  · rw [hb, hr]
    exact State.hart_setHart_ne _ m i n hi
  · rw [hb, hr]
    rfl

end

/-! ## Quiescing -/

section
variable {s s1 : State} {p : PartId} {q : Nat} {c : Slot} {k : Sq}

theorem exec_quiesce_begins (h : CmdReady s p q 0x21 s1 c k) (hreset : s.partState p.val ≠ 5) (hruns : s1.partState p.val = 2) (hmin : 1 ≤ c.arg2.toNat)
    (hmax : c.arg2.toNat ≤ 10000) : exec (.quiesce p q) s =
      .next { s1.setPartState p.val 3 with partWork := s1.partWork.set none p.val (some { cmd := some (p.val, q, c.cid) }) } := by
  dsimp only [exec]
  refine (if_neg (fun hne => hreset hne.2)).trans ((runCmd_ready h _).trans (congrArg _ ?_))
  exact (if_neg (by omega)).trans ((if_neg (by omega)).trans (if_neg (by omega)))

theorem exec_resume (h : CmdReady s p q 0x22 s1 c k) (hdelta : s1.delta = none) : exec (.resume p q) s = .next (s1.resumePart p.val q c.cid) := by
  have hin : s1.inDelta p.val = false := by rw [State.inDelta, hdelta]
  dsimp only [exec]
  exact (runCmd_ready h _).trans (congrArg _ (if_neg (by simp [hin])))

/-- A halted hart of the list runs, the others stay (R103). -/
theorem hart_haltedRun (t : State) (l : List Nat) (h : Nat) :
    (overList t l (fun s h => if (s.hart h).state = 5 then s.setHart h { s.hart h with state := 1 } else s)).hart h =
      if h ∈ l ∧ (t.hart h).state = 5 then { t.hart h with state := 1 } else t.hart h := by
  unfold overList
  induction l generalizing t with
  | nil => simp
  | cons i l ih =>
    rw [List.foldl_cons, ih]
    by_cases hi : h = i
    · subst hi
      by_cases h5 : (t.hart h).state = 5
      · simp [h5]
      · simp [h5]
    · have hstep : (if (t.hart i).state = 5 then t.setHart i { t.hart i with state := 1 } else t).hart h = t.hart h := by
        split
        · exact State.hart_setHart_ne _ _ _ _ hi
        · rfl
      rw [hstep]
      simp [hi]

/-- Running the halted harts changes harts only. -/
theorem haltedRun_frame (t : State) (l : List Nat) :
    ∃ m, overList t l (fun s h => if (s.hart h).state = 5 then s.setHart h { s.hart h with state := 1 } else s) = { t with harts := m } := by
  refine foldl_keeps (fun u : State => ∃ m, u = { t with harts := m }) (fun u h hu => ?_) ⟨t.harts, rfl⟩ l
  obtain ⟨m, rfl⟩ := hu
  split
  · exact ⟨_, rfl⟩
  · exact ⟨m, rfl⟩

theorem State.releaseBells_none {t : State} (h : t.heldBells = []) (which : Nat → Bool) : t.releaseBells which = t := by
  simp only [State.releaseBells, h, List.filter_nil, overList, List.foldl_nil]
  cases t
  cases h
  rfl

/-- A quiesced partition and its halted harts run again, as `State.resumePart` begins. -/
def State.resumed (t : State) (p : Nat) : State :=
  overList (t.setPartState p 2) ((t.setPartState p 2).partHarts p) (fun s h => if (s.hart h).state = 5 then s.setHart h { s.hart h with state := 1 } else s)

theorem State.resumed_spec (t : State) (p : Nat) : (t.resumed p).partState p = 2 ∧
    (∀ h : Nat, (t.resumed p).hart h = if h ∈ t.partHarts p ∧ (t.hart h).state = 5 then { t.hart h with state := 1 } else t.hart h) ∧
    ∃ r m, t.resumed p = { t with csr := r, harts := m } := by
  obtain ⟨r, hr⟩ : ∃ r, t.setPartState p 2 = { t with csr := r } := t.setFld_csr_only 94 (0x20180 + 4 * p) 3 0 2
  have hharts : ∀ h, (t.setPartState p 2).hart h = t.hart h := fun h => by rw [hr]; rfl
  have hlist : (t.setPartState p 2).partHarts p = t.partHarts p := by rw [hr]; rfl
  obtain ⟨m, hm⟩ := haltedRun_frame (t.setPartState p 2) ((t.setPartState p 2).partHarts p)
  refine ⟨?_, fun h => ?_, r, m, ?_⟩
  · rw [State.resumed, hm]
    exact State.partState_setPartState t p 2 (by decide)
  · rw [State.resumed, hart_haltedRun, hharts, hlist]
  · rw [State.resumed, hm, hr]

/-- RESUME of a quiesced partition without held doorbells (R103). -/
theorem State.resumePart_spec {t : State} (hq : t.sq p.val q = some k) (hstate : t.partState p.val = 4) (hbells : t.heldBells = []) :
    let u := t.resumePart p.val q c.cid
    CmdEnds u p q k c 0 ∧ u.partState p.val = 2 ∧
      (∀ h : Nat, u.hart h = if h ∈ t.partHarts p.val ∧ (t.hart h).state = 5 then { t.hart h with state := 1 } else t.hart h) ∧ u.pool = t.pool := by
  obtain ⟨hpart, hhart, r, m, hframe⟩ := t.resumed_spec p.val
  obtain ⟨b, hb⟩ := (t.resumed p.val).finishCmd_frame p.val q c.cid 0 0 []
  have hresume : t.resumePart p.val q c.cid = (t.resumed p.val).finishCmd p.val q c.cid 0 0 := by
    unfold State.resumePart
    rw [if_pos hstate]
    exact State.releaseBells_none (by rw [← State.resumed, hb, hframe]; exact hbells) _
  dsimp only
  rw [hresume]
  refine ⟨State.finishCmd_ends (by rw [hframe]; exact hq) 0 0, ?_, fun h => ?_, ?_⟩
  · rw [hb]
    exact hpart
  · rw [hb]
    exact hhart h
  · rw [hb, hframe]

end

/-! ## Resets of partitions, cores and dies -/

section
variable {s s1 : State} {p : PartId} {q : Nat} {c : Slot} {k : Sq}

theorem exec_resetPartition (h : CmdReady s p q 0x23 s1 c k) (hdelta : s1.delta = none) : exec (.resetPartition p q) s =
    .next (({ s1 with resetCmds := s1.resetCmds ++ [(p.val, p.val, q, c.cid)] } : State).startPartReset p.val) := by
  have hin : ({ s1 with resetCmds := s1.resetCmds ++ [(p.val, p.val, q, c.cid)] } : State).inDelta p.val = false := by rw [State.inDelta, hdelta]
  dsimp only [exec]
  refine (runCmd_ready h _).trans (congrArg _ ?_)
  dsimp only [State.askPartReset]
  rw [hin]
  rfl

/-- A partition reset that begins: the partition reads 5, and what waits for it stays (R101). -/
theorem State.startPartReset_spec {t : State} (hstate : t.partState p.val ≠ 5) (hpart : (t.partEntry p.val).isSome) :
    (t.startPartReset p.val).partState p.val = 5 ∧ (t.startPartReset p.val).resetCmds = t.resetCmds := by
  have hview := State.control_startPartReset t hstate hpart
  refine ⟨?_, (State.resetCmds_of_control hview).trans (State.setFld_resetCmds ..)⟩
  rw [State.partState_of_control hview p.isLt]
  exact State.partState_setPartState t p.val 5 (by decide)

theorem exec_resetCore (h : CmdReady s p q 0x24 s1 c k) (htarget : c.target < 640) (hpart : s1.corePart c.target = some p.val)
    (hfenced : (s1.core c.target).fenced = false) : exec (.resetCore p q) s =
      .next { s1.resetCore c.target with resetCmds := s1.resetCmds ++ [(1000 + c.target, p.val, q, c.cid)] } := by
  dsimp only [exec]
  refine (runCmd_ready h _).trans (congrArg _ ?_)
  dsimp only
  rw [if_neg (by simp [hpart]; omega), if_neg (by rw [hfenced]; exact Bool.false_ne_true)]

theorem State.wr_csr_only (t : State) (d o : Nat) (v : Word) : ∃ r, t.wr d o v = { t with csr := r } := ⟨_, rfl⟩

theorem State.programCore_spec (t : State) (n : Nat) : (∃ r m, t.programCore n = { t with csr := r, cores := m }) ∧
    (∃ b, (t.programCore n).core n = { t.core n with nanEnable := b }) ∧ ∀ i, i ≠ n → (t.programCore n).core i = t.core i := by
  unfold State.programCore
  split
  · rename_i f g _ _
    obtain ⟨r, hr⟩ := t.setFld_csr_only (coreDie n) (coreOff n 0x400) 0 0 (b2n (f.quartered.contains g))
    obtain ⟨r', hr'⟩ := ({ t with csr := r } : State).wr_csr_only (coreDie n) (coreOff n 0x800) (BitVec.ofNat 32
      (((f.watch[g]?).getD { sampleLog2 := 10, selfTest := 2, boundScale := 1, nanTrap := true }).boundScale * 2 ^ 12 +
        ((f.watch[g]?).getD { sampleLog2 := 10, selfTest := 2, boundScale := 1, nanTrap := true }).selfTest * 2 ^ 8 +
        ((f.watch[g]?).getD { sampleLog2 := 10, selfTest := 2, boundScale := 1, nanTrap := true }).sampleLog2))
    dsimp only
    rw [hr, hr']
    exact ⟨⟨_, _, rfl⟩, ⟨_, State.core_setCore ..⟩, fun i hi => State.core_setCore_ne _ _ _ _ hi⟩
  · exact ⟨⟨t.csr, t.cores, rfl⟩, ⟨(t.core n).nanEnable, rfl⟩, fun i _ => rfl⟩

/-- The reset of an idle core without a sample: its registers, memory and queues are those of a core out of reset; the other cores stay (R558). -/
theorem State.resetCore_spec {t : State} {n : Nat} (hidle : (t.core n).kernel = none) (hsample : (t.core n).watch.sample = none) : let u := t.resetCore n
    ((u.core n).resetting = true ∧ (u.core n).pantry = ⟨[]⟩ ∧ (u.core n).tiles = ⟨[]⟩ ∧ (u.core n).accq = [] ∧ (u.core n).exq = [] ∧ (u.core n).l1d = ⟨[]⟩) ∧
    (∀ i, i ≠ n → u.core i = t.core i) ∧ u.sqs = t.sqs ∧ u.pool = t.pool := by
  have hdrop : t.dropSample n = t := by simp [State.dropSample, hsample]
  unfold State.resetCore
  dsimp only
  rw [if_neg (by simp [hidle]), hdrop]
  generalize Map.drop t.csr _ = r0
  obtain ⟨⟨r, m, hframe⟩, ⟨b, hcore⟩, hother⟩ := State.programCore_spec (({ t with csr := r0 } : State).setCore n { Core.reset with
    fenced := (t.core n).fenced, watch := (t.core n).watch, stPattern := (t.core n).stPattern, clock := (t.core n).clock,
    testing := (t.core n).testing, tested := (t.core n).tested, resetting := true }) n
  rw [State.core_setCore] at hcore
  refine ⟨?_, fun i hi => (hother i hi).trans (State.core_setCore_ne _ _ _ _ hi), ?_, ?_⟩
  · rw [hcore]
    exact ⟨rfl, rfl, rfl, rfl, rfl, rfl⟩
  · rw [hframe]
    rfl
  · rw [hframe]
    rfl

/-- A home none of whose lines has an entry has nothing to evict (R370). -/
theorem State.emptyHome_free {t : State} {d : Nat} (h : t.homeFree d = true) : (t.emptyHome d).homeFree d = true := by
  have hnone : (t.homeLines d).filter (fun l => (t.line l).entry.isSome) = [] := by
    rw [List.filter_eq_nil_iff]
    intro l hl hsome
    obtain ⟨hentry, -⟩ := (Bool.and_eq_true _ _).mp (List.all_eq_true.mp h l hl)
    rw [Option.isNone_iff_eq_none.mp hentry] at hsome
    cases hsome
  obtain ⟨r, hr⟩ := ({ t with dieReset := t.dieReset.set 0 d 3 } : State).setFld_csr_only d 0x40000 31 30 1
  unfold State.emptyHome
  dsimp only
  rw [hr]
  exact (congrArg (fun l => (overList _ l _).homeFree d) hnone).trans h

/-- The reset of a ready die begins: at once, or with a home that evicts its entries first (R102, R370). -/
theorem State.beginDie_spec (t : State) (d : Nat) : (t.beginDie d).resetCmds = t.resetCmds ∧
    ((t.beginDie d).dieReset.get 0 d = 2 ∨ (3 ≤ dieType d ∧ dieType d ≤ 5) ∧ t.homeFree d = false ∧ (t.beginDie d).dieReset.get 0 d = 3) := by
  have hstart : ∀ u : State, (u.startDie d).resetCmds = u.resetCmds ∧ (u.startDie d).dieReset.get 0 d = 2 := fun u =>
    ⟨by have h := State.resetCmds_of_control (u.control_startDie (strict := false) d); exact h,
      (congrArg (fun m => Map.get 0 m d) (State.dieReset_of_control (u.control_startDie (strict := false) d))).trans (Map.get_set_self _ _ _ _)⟩
  have hempty := State.control_emptyHome (strict := false) t d
  have hcmds : (t.emptyHome d).resetCmds = t.resetCmds := by have h := State.resetCmds_of_control hempty; exact h
  unfold State.beginDie
  split
  · rename_i htype
    dsimp only
    split
    · exact ⟨(hstart _).1.trans hcmds, .inl (hstart _).2⟩
    · rename_i hfree
      refine ⟨hcmds, .inr ⟨htype, Bool.eq_false_iff.mpr (fun h => hfree (State.emptyHome_free h)), ?_⟩⟩
      exact (congrArg (fun m => Map.get 0 m d) (State.dieReset_of_control hempty)).trans (Map.get_set_self _ _ _ _)
  · exact ⟨(hstart t).1, .inl (hstart t).2⟩

theorem exec_resetDie_begins (h : CmdReady s p q 0x31 s1 c k) (htarget : c.target < 100) (h8 : dieType c.target ≠ 8) (h9 : dieType c.target ≠ 9)
    (hfenced : s1.fencedU.contains (.die, c.target) = false) (hidle : s1.dieReset.get 0 c.target = 0) (hready : s1.dieReady c.target = true) :
    exec (.resetDie p q) s = .next (({ s1 with resetCmds := s1.resetCmds ++ [(100 + c.target, p.val, q, c.cid)] } : State).beginDie c.target) := by
  have hask : s1.askDie c.target (100 + c.target, p.val, q, c.cid) =
      ({ s1 with resetCmds := s1.resetCmds ++ [(100 + c.target, p.val, q, c.cid)] } : State).beginDie c.target := by
    rw [State.askDie, if_neg (by omega), if_neg (by rw [hfenced]; exact Bool.false_ne_true)]
    exact (if_neg (not_not.mpr hidle)).trans (if_pos hready)
  dsimp only [exec]
  exact (runCmd_ready h _).trans (congrArg _ ((if_neg (by omega)).trans hask))

theorem exec_resetDie_refused (h : CmdReady s p q 0x31 s1 c k) (htarget : c.target < 100) (htype : dieType c.target = 8 ∨ dieType c.target = 9) :
    exec (.resetDie p q) s = .next (s1.finishCmd p.val q c.cid 0x11C c.target) := by
  have hask : s1.askDie c.target (100 + c.target, p.val, q, c.cid) = s1.finishCmd p.val q c.cid 0x11C c.target := by
    rw [State.askDie, if_pos htype, State.endReset]
    dsimp only
    rw [if_pos p.isLt, if_neg (by omega), Nat.add_sub_cancel_left]
  dsimp only [exec]
  exact (runCmd_ready h _).trans (congrArg _ ((if_neg (by omega)).trans hask))

end

/-! ## Warm reset, deltas and management commands -/

section
variable {s s1 : State} {p : PartId} {q : Nat} {c : Slot} {k : Sq}

theorem exec_resetWarm_running (h : CmdReady s p q 0x30 s1 c k) : exec (.resetWarm p q) s = .next (s1.warmReset 2) := by
  dsimp only [exec]
  exact (if_neg (by rw [h.running]; exact nofun)).trans (runCmd_ready h _)

/-- Bring-up starts again where power and RESET_N are as they should be (R94, R107). -/
theorem State.startPhase_blank {t : State} (hpwr : t.pins.pwrOk = true) (hvin : t.pins.vinOk = true) (hreset : t.pins.resetN = true)
    (hfuses : t.mgmt.mismatch = false) : t.blank.startPhase = .running := by
  have hkept : t.mgmt.restart.mismatch = false := hfuses
  simp [State.startPhase, hkept, State.blank, hpwr, hvin, hreset]

/-- The bytes a command names in companion memory, which can be reached (R432). -/
theorem State.hostCmd {t : State} {a : DWord} (hhost : a.getLsbD 63 = true) (hrange : bits a.toNat 62 52 = 0) :
    bitAt a.toNat 63 = true ∧ (∀ p n w, t.cmdAddrOk p a n w = true) ∧ (∀ n, t.cmdError a n = none) ∧
    ∀ p n ext, t.hostReachable p = true → t.cmdFetch p a n ext = .bytes t (ext.take n) := by
  have hbit : bitAt a.toNat 63 = true := by
    rw [BitVec.getLsbD, Nat.testBit_eq_decide_div_mod_eq] at hhost
    simpa [bitAt] using hhost
  refine ⟨hbit, fun p n w => ?_, fun n => ?_, fun p n ext hreach => ?_⟩
  · rw [State.cmdAddrOk, if_pos hbit, hrange]
    rfl
  · rw [State.cmdError, if_pos hbit]
  · rw [State.cmdFetch, if_pos hbit, if_pos hreach]

/-- The delta's image is read; with a configuration in force and no other delta it begins, or is checked and applied (R84 to R86). -/
theorem exec_flpDelta {e : List Byte} (begins : Bool) (h : CmdReady s p q 0x32 s1 c k) (hmin : 0x50 ≤ c.arg2.toNat) (hmax : c.arg2.toNat ≤ 0x100000)
    (hhost : c.arg0.getLsbD 63 = true) (hrange : bits c.arg0.toNat 62 52 = 0) (hreach : s1.hostReachable p.val = true) (hflp : s1.flp.isSome)
    (hdelta : s1.delta = none) : exec (.flpDelta p q ⟨e, begins⟩) s = .next (
      if begins then { s1.setFld 94 0x20000 3 0 4 with
        delta := some { part := p.val, queue := q, cid := c.cid, image := e.take c.arg2.toNat, resumes := [], resets := [] } }
      else s1.applyDelta p.val q c.cid (e.take c.arg2.toNat) c.arg2.toNat true) := by
  obtain ⟨-, hok, -, hfetch⟩ := State.hostCmd (t := s1) hhost hrange
  dsimp only [exec]
  refine (runCmd_ready h _).trans (congrArg _ ?_)
  dsimp only
  rw [if_neg (by omega), hok, if_neg (by simp), hfetch _ _ _ hreach]
  exact if_neg (by simp [hdelta, Option.isSome_iff_ne_none.mp hflp])

/-- What a step of a delta leaves of its configuration and of the queues. -/
theorem deltaStep_keeps {α : Type} {f : State → α → State} (h : ∀ u a, (f u a).flp = u.flp ∧ (f u a).sqs = u.sqs) (t : State) (l : List α) :
    (overList t l f).flp = t.flp ∧ (overList t l f).sqs = t.sqs :=
  foldl_keeps (fun u : State => u.flp = t.flp ∧ u.sqs = t.sqs) (fun u a hu => ⟨(h u a).1.trans hu.1, (h u a).2.trans hu.2⟩) ⟨rfl, rfl⟩ l

theorem State.deltaSections_frame (t : State) (f g : Floorplan) : (t.deltaSections f g).flp = some g ∧ (t.deltaSections f g).sqs = t.sqs := by
  have hbudgets : ∀ u : State, (overList u (List.range 100) (fun s d =>
      s.setSteward d { s.steward d with budget := startBudget g (s.fld 94 0xD0104 19 0) d })).flp = u.flp ∧ (overList u (List.range 100)
      (fun s d => s.setSteward d { s.steward d with budget := startBudget g (s.fld 94 0xD0104 19 0) d })).sqs = u.sqs := fun u =>
    deltaStep_keeps (fun s d => ⟨State.setSteward_flp .., State.setSteward_sqs ..⟩) _ _
  have hcores : ∀ (u : State) (hit : Nat → Bool), (overList u (List.range 640) (fun s c => match s.corePart c with
        | some p => if hit p && !(s.core c).fenced then s.programCore c else s
        | none => s)).flp = u.flp ∧ (overList u (List.range 640) (fun s c => match s.corePart c with
        | some p => if hit p && !(s.core c).fenced then s.programCore c else s
        | none => s)).sqs = u.sqs := fun u hit => by
    refine deltaStep_keeps (fun v n => ?_) _ _
    obtain ⟨⟨r, m, hframe⟩, -⟩ := v.programCore_spec n
    split
    · split
      · rw [hframe]
        exact ⟨rfl, rfl⟩
      · exact ⟨rfl, rfl⟩
    · exact ⟨rfl, rfl⟩
  unfold State.deltaSections
  dsimp only
  split
  · exact hcores _ _
  · exact ⟨(hcores _ _).1.trans (hbudgets _).1, (hcores _ _).2.trans (hbudgets _).2⟩

theorem State.setDigest_sqs (t : State) (img : List Byte) : (t.setDigest img).sqs = t.sqs := by
  unfold State.setDigest
  dsimp only
  exact foldl_keeps (fun u : State => u.sqs = t.sqs) (fun u i hu => by simpa only [State.wr_sqs] using hu) rfl _

theorem State.finishCmd_flp (t : State) (p q : Nat) (cid : BitVec 16) (code detail : Nat) : (t.finishCmd p q cid code detail).flp = t.flp := by
  obtain ⟨m, hm⟩ := t.finishCmd_frame p q cid code detail []
  rw [hm]

/-- A delta that passes its checks puts its configuration in force (R84, R85). -/
theorem State.applyDelta_applied {t : State} {f : Floorplan} {img : List Byte} {n : Nat} {l : Loaded} (hq : t.sq p.val q = some k) (hflp : t.flp = some f)
    (hok : checkImage { t.loadCtx with base := some (f, t.flpDigest), quiesced := (List.range 8).filter (fun r => t.partState r == 4) } img n = .ok l) :
    (t.applyDelta p.val q c.cid img n true).flp = some l.flp ∧ CmdEnds (t.applyDelta p.val q c.cid img n true) p q k c 0 := by
  obtain ⟨hnew, hsqs⟩ := t.deltaSections_frame f l.flp
  obtain ⟨hdflp, -⟩ := State.setDigest_frame ((t.deltaSections f l.flp).satFld 94 0x20000 7 4) img
  have happly : t.applyDelta p.val q c.cid img n true = (((t.deltaSections f l.flp).satFld 94 0x20000 7 4).setDigest img).finishCmd p.val q c.cid 0 0 := by
    unfold State.applyDelta
    rw [hflp]
    dsimp only
    rw [hok]
    exact if_neg (by decide)
  have hq' : (((t.deltaSections f l.flp).satFld 94 0x20000 7 4).setDigest img).sq p.val q = some k := by
    rw [State.sq, State.setDigest_sqs, State.satFld, State.setFld_sqs, hsqs]
    exact hq
  rw [happly]
  refine ⟨?_, State.finishCmd_ends hq' 0 0⟩
  rw [State.finishCmd_flp, hdflp, State.satFld, State.setFld_flp, hnew]

/-- A delta that fails a check changes its command's queue alone (R85). -/
theorem State.applyDelta_refused {t : State} {f : Floorplan} {img : List Byte} {n : Nat} {x : FlpErr} (hq : t.sq p.val q = some k) (hflp : t.flp = some f)
    (herr : checkImage { t.loadCtx with base := some (f, t.flpDigest), quiesced := (List.range 8).filter (fun r => t.partState r == 4) } img n = .error x) :
    CmdEnds (t.applyDelta p.val q c.cid img n true) p q k c 1 ∧ ∃ m, t.applyDelta p.val q c.cid img n true = { t with sqs := m } := by
  have happly : t.applyDelta p.val q c.cid img n true = t.finishCmd p.val q c.cid 1 x.code := by
    unfold State.applyDelta
    rw [hflp]
    dsimp only
    rw [herr]
    exact congrArg (t.finishCmd p.val q c.cid 1) (if_neg (fun hx => by cases hx.1))
  rw [happly]
  exact ⟨State.finishCmd_ends hq 1 _, t.finishCmd_frame _ _ _ _ _ _⟩

/-- The answer to MGT_STATUS on a queue, as it is written (R434, R535). -/
def State.statusAnswer (t : State) (r : MgtReq) : List Byte :=
  leBytes 2 0x01 ++ leBytes 2 r.tag.toNat ++ leBytes 4 (t.mgtStatus r).2.2.length ++ leBytes 2 0 ++ leBytes 6 (r.offset / 2 ^ 16) ++ (t.mgtStatus r).2.2

theorem exec_mgtCmd_status {e : List Byte} {r : MgtReq} (h : CmdReady s p q 0x33 s1 c k) (hmin : 16 ≤ c.arg2.toNat) (hhost : c.arg0.getLsbD 63 = true)
    (hrange : bits c.arg0.toNat 62 52 = 0) (hhost1 : c.arg1.getLsbD 63 = true) (hrange1 : bits c.arg1.toNat 62 52 = 0)
    (hreach : s1.hostReachable p.val = true) (hrun : s1.phase = .running) (hready : s1.pins.ready = true) (hlevel : 1 ≤ s1.level)
    (hparse : mgtParse .queue (e.take c.arg2.toNat) = (0x01, r)) : exec (.mgtCmd p q e) s =
      .next ((s1.hostWrite p.val (some q) (bits c.arg1.toNat 51 0) (s1.statusAnswer r)).endCmd p q c 0) := by
  obtain ⟨-, hok, -, hfetch⟩ := State.hostCmd (t := s1) hhost hrange
  obtain ⟨hbit, hok1, herr1, -⟩ := State.hostCmd (t := s1) hhost1 hrange1
  have hqueue : r.transport = .queue := by
    have hr : (mgtParse .queue (e.take c.arg2.toNat)).2 = r := congrArg Prod.snd hparse
    rw [← hr]
    rfl
  have hmgt : s1.mgtRun 0x01 (mgtOp 0x01) r = some (s1, 0, (s1.mgtStatus r).2.2) := by
    simp [State.mgtRun, hrun, hready, hqueue, Nat.not_lt.mpr hlevel, mgtOp, classR]
    rfl
  dsimp only [exec]
  refine (runCmd_ready h _).trans (congrArg _ ?_)
  dsimp only
  rw [if_neg (by omega), hok, if_neg (by simp), hfetch _ _ _ hreach]
  dsimp only
  rw [hparse]
  dsimp only
  rw [hmgt]
  dsimp only
  rw [hok1, herr1, if_neg (by simp), if_neg (by simp), State.cmdWrite, if_pos hbit, hbit, hreach]
  rfl

end

/-! ## A launch by its number, and what is sent -/

/-- A launch that lists a core is found by its number. -/
theorem State.launch_set (t : State) (n : Nat) {l : Launch} (h : l.cores ≠ []) : ({ t with launches := t.launches.set Launch.none n l } : State).launch n = some l := by
  have hne : l ≠ Launch.none := fun heq => h (heq ▸ rfl)
  unfold State.launch
  rw [Map.set_other hne, find_insCell_self]
  rfl

section
variable {s s1 : State} {p : PartId} {q : Nat} {c : Slot} {k : Sq}

/-- The response to a management command is the one message it sends. -/
theorem State.hostWrite_spec {t : State} (h : t.partPort p.val < 2) (hreach : t.hostReachable p.val = true) (hq : t.sq p.val q = some k) (a : Nat)
    (d : List Byte) : let u := (t.hostWrite p.val (some q) a d).endCmd p q c 0
    CmdEnds u p q k c 0 ∧ u.pool = t.pool ∧ u.sent = t.sent ++ [.hostWrite ⟨t.partPort p.val, h⟩ p.val a d] := by
  obtain ⟨l, hl⟩ := t.sendTagged_frame (some { part := p.val, queue := some q, posted := true }) (.hostWrite ⟨t.partPort p.val, h⟩ p.val a d)
  have hwrite : t.hostWrite p.val (some q) a d = { t with sent := t.sent ++ [.hostWrite ⟨t.partPort p.val, h⟩ p.val a d], links := l } := by
    rw [State.hostWrite, if_pos hreach, dif_pos h, hl]
    rfl
  obtain ⟨m, hm⟩ := (t.hostWrite p.val (some q) a d).endCmd_frame (p := p) (q := q) (c := c) 0 0
  refine ⟨State.endCmd_ends (by rw [hwrite]; exact hq) 0 0, ?_, ?_⟩
  · rw [hm, hwrite]
  · rw [hm, hwrite]

/-- A delta that begins: STATE reads 4, and its command still runs (R86). -/
theorem State.deltaBegun_spec {t : State} {f : Floorplan} (hq : t.sq p.val q = some k) (hflp : t.flp = some f) (d : DeltaRun) :
    let u := { t.setFld 94 0x20000 3 0 4 with delta := some d }
    u.flp = some f ∧ u.delta = some d ∧ u.fld 94 0x20000 3 0 = 4 ∧ u.sq p.val q = some k ∧ u.cores = t.cores := by
  have hfld := t.fld_setFld 94 0x20000 3 0 4 (by decide) (by decide)
  obtain ⟨r, hr⟩ := t.setFld_csr_only 94 0x20000 3 0 4
  rw [hr] at hfld ⊢
  exact ⟨hflp, rfl, hfld, hq, rfl⟩

end

/-- Settles O36. Each command's effect is first an equation of the step (`exec_…`), then what its parts leave of the state (`…_spec`, `…_frame`); the
resets are read through the view of `State.control`. -/
theorem unitCommandEffects : Obligations.UnitCommandEffects := by
  intro s s1 p q c k
  refine ⟨?_, ?_, ?_, ?_, ?_, ?_, ?_, ?_, ?_, ?_, ?_⟩
  · intro d s2 lb e core
    dsimp only
    intro h hslot htarget harg1 hinline harg0 hcount hstop hread hcore hlt hdesc hblock
    subst hcore
    refine ⟨_, exec_kernelLaunch_waits h hslot htarget harg1 hinline harg0 hcount hstop hread hlt hdesc hblock, rfl, rfl, ?_, rfl⟩
    exact s2.launch_set s2.nextLaunch (List.cons_ne_nil _ _)
  · intro h htarget hpart hlevel hquiet hheld hfenced
    obtain ⟨hends, hhart, hothers, hpool⟩ := State.hartStart_spec (c := c) s1 h.started c.target (startedHart (s1.hart c.target) c.target c.arg0 c.arg1)
    obtain ⟨hst, hpriv, hpc, ha0, ha1, hcsrs⟩ := startedHart_spec (s1.hart c.target) c.target c.arg0 c.arg1
    exact ⟨_, exec_hartStart_starts h htarget hpart hlevel hquiet hheld hfenced, hends, by rw [hhart, hst], by rw [hhart, hpriv], by rw [hhart, hpc],
      by rw [hhart, ha0], by rw [hhart, ha1], by rw [hhart, hcsrs], hothers, hpool⟩
  · intro h hreset hruns hmin hmax
    exact ⟨_, exec_quiesce_begins h hreset hruns hmin hmax, State.partState_setPartState s1 p.val 3 (by decide), h.started, rfl, rfl⟩
  · intro h hstate hbells hdelta
    exact ⟨_, exec_resume h hdelta, State.resumePart_spec h.started hstate hbells⟩
  · intro h hstate hpart hdelta
    obtain ⟨h5, hcmds⟩ := State.startPartReset_spec (p := p) (t := { s1 with resetCmds := s1.resetCmds ++ [(p.val, p.val, q, c.cid)] }) hstate hpart
    exact ⟨_, exec_resetPartition h hdelta, h5, hcmds ▸ List.mem_append_right _ List.mem_cons_self⟩
  · intro h htarget hpart hfenced hidle hsample
    obtain ⟨⟨h1, h2, h3, h4, h5, h6⟩, hothers, hsqs, hpool⟩ := State.resetCore_spec hidle hsample
    exact ⟨_, exec_resetCore h htarget hpart hfenced, h1, h2, h3, h4, h5, h6, List.mem_append_right _ List.mem_cons_self, hothers,
      (congrArg (fun m => Map.get none m (p.val * 4096 + q)) hsqs).trans h.started, hpool⟩
  · intro h htarget h8 h9 hfenced hidle hready
    obtain ⟨hcmds, hreset⟩ := State.beginDie_spec { s1 with resetCmds := s1.resetCmds ++ [(100 + c.target, p.val, q, c.cid)] } c.target
    refine ⟨_, exec_resetDie_begins h htarget h8 h9 hfenced hidle hready, fun htype => ?_, fun hfree => ?_,
      hcmds ▸ List.mem_append_right _ List.mem_cons_self⟩
    · exact hreset.imp_right (fun x => x.2.2)
    · obtain h2 | ⟨htype, hheld, -⟩ := hreset
      · exact h2
      · obtain hfree | htype' := hfree
        · exact absurd (hfree.symm.trans hheld) (by decide)
        · exact absurd htype htype'
  · intro h htarget htype
    obtain ⟨m, hm⟩ := s1.finishCmd_frame p.val q c.cid 0x11C c.target []
    exact ⟨_, exec_resetDie_refused h htarget htype, State.finishCmd_ends h.started _ _, by rw [hm]⟩
  · intro h hpwr hvin hreset hfuses
    obtain ⟨r, o, d, m, hframe⟩ := s1.warmReset_eq 2
    refine ⟨_, exec_resetWarm_running h, ?_, ?_, ?_, ?_, ?_, ?_, ?_, s1.warmReset_cause 2, ?_, ?_⟩ <;> rw [hframe]
    · exact State.startPhase_blank hpwr hvin hreset hfuses
    all_goals rfl
  · intro f e
    dsimp only
    intro h hmin hmax hhost hrange hreach hflp hdelta
    have hexec := fun b => exec_flpDelta (e := e) b h hmin hmax hhost hrange hreach (by rw [hflp]; rfl) hdelta
    have happly : exec (.flpDelta p q ⟨e, false⟩) s = .next (s1.applyDelta p.val q c.cid (e.take c.arg2.toNat) c.arg2.toNat true) :=
      (hexec false).trans (congrArg Host.Outcome.next (if_neg Bool.false_ne_true))
    have hbegin := (hexec true).trans (congrArg Host.Outcome.next (if_pos rfl))
    refine ⟨fun l hok => ⟨_, happly, State.applyDelta_applied h.started hflp hok⟩, fun x herr => ?_, ?_⟩
    · obtain ⟨hends, m, hm⟩ := State.applyDelta_refused (p := p) (q := q) (c := c) h.started hflp herr
      refine ⟨_, happly, ?_, hends, ?_, ?_⟩
      · rw [hm]
        exact hflp
      · rw [hm]
      · rw [hm]
    · exact ⟨_, hbegin, State.deltaBegun_spec h.started hflp _⟩
  · intro e r hport h hmin hhost hrange hhost1 hrange1 hreach hrun hready hlevel hparse
    exact ⟨_, exec_mgtCmd_status h hmin hhost hrange hhost1 hrange1 hreach hrun hready hlevel hparse, State.hostWrite_spec hport hreach h.started _ _⟩

end Sys2Proof.Machine
end
section
/-! # Bring-up and reset: an idle step, and the machine right after a cold reset -/

namespace Sys2Proof.Machine

/-! ## An idle step -/

theorem step_of_idle {s : State} (h : s.pending = []) : step s = .next s.tick := by simp only [step, h]

theorem State.tick_off {s : State} (h : s.phase = .off) : s.tick = s := if_pos h

section
variable {s : State} (h : s.phase ≠ .off)
include h

/-- The steering has added up to a nanosecond more (R439; log 21). -/
theorem State.tick_ahead (ha : 1000000 ≤ s.steerSum + s.steer) :
    s.tick = { s with time := s.time + 2, steerSum := s.steerSum + s.steer - 1000000 } := by
  simp only [State.tick, if_neg h, if_pos ha]

/-- The steering has added up to a nanosecond less (R439; log 21). -/
theorem State.tick_behind (ha : s.steerSum + s.steer ≤ -1000000) : s.tick = { s with steerSum := s.steerSum + s.steer + 1000000 } := by
  simp only [State.tick, if_neg h, if_neg (show ¬ 1000000 ≤ s.steerSum + s.steer by omega), if_pos ha]

theorem State.tick_even (hlow : -1000000 < s.steerSum + s.steer) (hhigh : s.steerSum + s.steer < 1000000) :
    s.tick = { s with time := s.time + 1, steerSum := s.steerSum + s.steer } := by
  simp only [State.tick, if_neg h, if_neg (Int.not_le.mpr hlow), if_neg (Int.not_le.mpr hhigh)]

end

theorem State.tick_frame (s : State) : { s.tick with time := s.time, steerSum := s.steerSum } = s := by
  unfold State.tick
  split
  · rfl
  · dsimp only
    split
    · rfl
    · split
      · rfl
      · rfl

/-- Settles O51, by the three cases of the steering's remainder. -/
theorem emptyQueueIdles : Obligations.EmptyQueueIdles := by
  intro s hidle
  rw [step_of_idle hidle]
  refine ⟨fun hoff => by rw [State.tick_off hoff], fun hon => ⟨s.tick, rfl, s.tick_frame, fun hlow hhigh => ?_, fun ha => ?_, fun ha => ?_⟩⟩
  · rw [State.tick_even hon hlow hhigh]
    exact ⟨rfl, rfl⟩
  · rw [State.tick_ahead hon ha]
    exact ⟨rfl, rfl⟩
  · rw [State.tick_behind hon ha]
    exact ⟨rfl, rfl⟩

/-! ## The machine right after a cold reset -/

theorem csrReset_attic (k : StackId) (c : Fin 16) : csrReset (36 + k.val) (0x30000 + 0x40 * c.val) = 1 := by
  have hk := k.isLt
  have hc := c.isLt
  rw [csrReset, if_neg (by omega), if_neg (by omega), if_pos (by omega)]

theorem csrReset_annex (c : Fin 384) : csrReset (72 + c.val / 32) (0x30000 + 0x40 * (c.val % 32)) = 0 := by
  have hc := c.isLt
  rw [csrReset, if_neg (by omega), if_neg (by omega), if_neg (by omega), if_neg (by omega), if_neg (by omega)]

/-- A memory channel's register begins with STATE 0, on every stack. -/
theorem State.reset_chanState (c : Chan) : State.reset.chanState c = 0 := by
  cases c with
  | attic k c => exact congrArg (fun w : Word => bits w.toNat 31 28) (csrReset_attic k c)
  | annex c => exact congrArg (fun w : Word => bits w.toNat 31 28) (csrReset_annex c)

/-- Settles O53: every map of the state after reset is empty, so each register reads its reset value. -/
theorem resetState : Obligations.ResetState := by
  unfold Obligations.ResetState
  dsimp only
  refine ⟨rfl, rfl, rfl, rfl, rfl, rfl, rfl, rfl, rfl, rfl, rfl, rfl, rfl, rfl, rfl, rfl, rfl, fun _ _ => rfl, rfl, ?_, rfl, rfl, rfl, rfl, State.reset_chanState,
    fun _ => ⟨rfl, rfl, rfl⟩, fun _ => ⟨rfl, rfl⟩, fun _ => ⟨rfl, rfl⟩, fun _ => rfl, ?_, ?_, ?_⟩
  · decide
  · decide
  · decide
  · decide

end Sys2Proof.Machine
end
section
/-! # What stands outside a command's effect: the queue, device time, the phase, and which Jexesk Link ports carry traffic

One fact for each helper of the model that changes a state, file by file in the model's order: what a command calls leaves `State.outside`.
Only the helpers that reset the package or enter a phase do not. -/

namespace Sys2Proof.Machine

/-- Whether a Jexesk Link port carries traffic. -/
def State.carries (s : State) (p : JxlPort) : Bool := s.linkSt (.jxl p) == 2 || s.linkSt (.jxl p) == 3

/-- What stands outside a command's effect but for resets and entries of a phase: the queue of commands, device time and the phase; with `ports`,
also which Jexesk Link ports carry traffic, which a port's own training changes, and the pin JXL_RESET_N. -/
def State.outside (ports : Bool) (s : State) : List Instr × Nat × Phase × (JxlPort → Bool) × Bool :=
  (s.pending, s.time, s.phase, fun p => ports && s.carries p, ports && s.pins.jxlResetN)

variable {ports : Bool}

section
variable {s t : State} (h : t.outside ports = s.outside ports)
include h

theorem State.pending_of_outside : t.pending = s.pending := congrArg Prod.fst h
theorem State.time_of_outside : t.time = s.time := congrArg (fun v => v.2.1) h
theorem State.phase_of_outside : t.phase = s.phase := congrArg (fun v => v.2.2.1) h

end

theorem State.carries_of_outside {s t : State} (h : t.outside true = s.outside true) : t.carries = s.carries := congrArg (fun v => v.2.2.2.1) h

theorem State.jxlResetN_of_outside {s t : State} (h : t.outside true = s.outside true) : t.pins.jxlResetN = s.pins.jxlResetN :=
  congrArg (fun v => v.2.2.2.2) h

theorem State.carries_congr {s t : State} (h : t.csr = s.csr) (p : JxlPort) : t.carries p = s.carries p := by
  simp only [State.carries, State.linkSt, State.fld_congr h]

theorem State.outside_of_carries {s t : State} (hpending : t.pending = s.pending) (htime : t.time = s.time) (hphase : t.phase = s.phase)
    (hcarries : t.carries = s.carries) (hpins : t.pins = s.pins) : t.outside ports = s.outside ports := by
  simp only [State.outside, hpending, htime, hphase, hcarries, hpins]

theorem State.outside_congr {s t : State} (hcsr : t.csr = s.csr) (hpending : t.pending = s.pending) (htime : t.time = s.time)
    (hphase : t.phase = s.phase) (hpins : t.pins = s.pins) : t.outside ports = s.outside ports :=
  State.outside_of_carries hpending htime hphase (funext (State.carries_congr hcsr)) hpins

theorem State.outside_of_fields {s t : State} (hpending : t.pending = s.pending) (htime : t.time = s.time) (hphase : t.phase = s.phase) :
    t.outside false = s.outside false := by
  simp only [State.outside, hpending, htime, hphase, Bool.false_and]

@[simp] theorem State.outside_ite {c : Prop} [Decidable c] (s t : State) :
    State.outside ports (if c then s else t) = if c then s.outside ports else t.outside ports := apply_ite _ _ _ _

@[simp] theorem State.outside_dite {c : Prop} [Decidable c] (f : c → State) (g : ¬ c → State) :
    State.outside ports (if h : c then f h else g h) = if h : c then (f h).outside ports else (g h).outside ports := apply_dite _ _ _ _

@[simp] theorem outside_overList {α : Type} {f : State → α → State} (h : ∀ s a, (f s a).outside ports = s.outside ports) (s : State) (l : List α) :
    (overList s l f).outside ports = s.outside ports := overList_keeps (State.outside ports) h s l

@[simp] theorem outside_foldl {α : Type} {f : State → α → State} (h : ∀ s a, (f s a).outside ports = s.outside ports) (s : State) (l : List α) :
    (l.foldl f s).outside ports = s.outside ports := outside_overList h s l

/-- The other fields of a state are not in the view. -/
@[simp] theorem State.outside_update (s : State)
    (fresh : Nat) (locked : Bool) (flp : Option Floorplan) (hall : Map HallPort) (hallAcc : Map Accepted) (hallIn :
    List Packet) (hallSeq : Map Nat) (hallOut : List HallOut) (cores : Map Core) (launches : Map Launch) (nextLaunch : Nat) (pool : Memory) (poolBad
    : List Nat) (channels : Map Channel) (lines : Map HomeLine) (msau : Map (List (Nat × List Byte))) (refused : List (ReqKind × CohMsg)) (l2s : Map
    L2) (l1s : Map CpuL1) (bases : Map BaseCache) (hostDir : Map (List Nat)) (hostTxns : List HostTxn) (hostTxn : BitVec 10) (slots : Map (Option
    AsDesc)) (xlDie : Map (List XlEntry)) (xlWalk : Map (List XlEntry)) (xlSeq : Map Word) (harts : Map Hart) (links : Map LinkState) (fns : Map Fn)
    (sqs : Map (Option Sq)) (cqs : Map (Option Cq)) (heldBells : List (Nat × Nat × Nat × List Byte)) (shared : List Nat) (flips : Map (Option Flip))
    (nextFlip : Nat) (hostReads : List (BitVec 16 × Nat)) (steer : Int) (remotes : Map (Option Remote)) (hostWrites : List HostWrite) (msiDue : List
    (Nat × Nat)) (ncWait : List (JxlPort × LinkMsg)) (steerSum : Int) (nextTag : Nat) (tables : Map RouteTable) (nodesDown : List Nat) (nodesUp :
    List (Nat × Nat × Nat)) (cols : Map (Option Collective)) (earlyReady : List (Nat × Nat × ColFields × Nat)) (leaves : Map Leaf) (root94 : Root)
    (root95 : Root) (fencedU : List (UnitKind × Nat)) (mgmt : Mgmt) (stewards : Map Steward) (cutGen : Nat) (overUs : Nat) (lowUs : Nat) (calmUs :
    Nat) (partWork : Map (Option PartWork)) (delta : Option DeltaRun) (dieReset : Map Nat) (resetCmds : List (Nat × Nat × Nat × BitVec 16))
    (rateFailed : List RateUnit) (served : List (UnitKind × Nat)) (sent : List Msg) :
    State.outside ports { s with
      fresh := fresh, locked := locked, flp := flp, hall := hall, hallAcc := hallAcc, hallIn := hallIn, hallSeq :=
      hallSeq, hallOut := hallOut, cores := cores, launches := launches, nextLaunch := nextLaunch, pool := pool, poolBad := poolBad, channels :=
      channels, lines := lines, msau := msau, refused := refused, l2s := l2s, l1s := l1s, bases := bases, hostDir := hostDir, hostTxns :=
      hostTxns, hostTxn := hostTxn, slots := slots, xlDie := xlDie, xlWalk := xlWalk, xlSeq := xlSeq, harts := harts, links := links, fns :=
      fns, sqs := sqs, cqs := cqs, heldBells := heldBells, shared := shared, flips := flips, nextFlip := nextFlip, hostReads := hostReads, steer
      := steer, remotes := remotes, hostWrites := hostWrites, msiDue := msiDue, ncWait := ncWait, steerSum := steerSum, nextTag := nextTag,
      tables := tables, nodesDown := nodesDown, nodesUp := nodesUp, cols := cols, earlyReady := earlyReady, leaves := leaves, root94 := root94,
      root95 := root95, fencedU := fencedU, mgmt := mgmt, stewards := stewards, cutGen := cutGen, overUs := overUs, lowUs := lowUs, calmUs :=
      calmUs, partWork := partWork, delta := delta, dieReset := dieReset, resetCmds := resetCmds, rateFailed := rateFailed, served := served,
      sent := sent } = s.outside ports :=
  State.outside_congr rfl rfl rfl rfl rfl

/-- Neither are the registers and the pins, where the ports are left out. -/
@[simp] theorem State.outside_update_csr (s : State)
    (fresh : Nat) (pins : Pins) (csr : Map Word) (locked : Bool) (flp : Option Floorplan) (hall : Map HallPort) (hallAcc : Map Accepted) (hallIn :
    List Packet) (hallSeq : Map Nat) (hallOut : List HallOut) (cores : Map Core) (launches : Map Launch) (nextLaunch : Nat) (pool : Memory) (poolBad
    : List Nat) (channels : Map Channel) (lines : Map HomeLine) (msau : Map (List (Nat × List Byte))) (refused : List (ReqKind × CohMsg)) (l2s : Map
    L2) (l1s : Map CpuL1) (bases : Map BaseCache) (hostDir : Map (List Nat)) (hostTxns : List HostTxn) (hostTxn : BitVec 10) (slots : Map (Option
    AsDesc)) (xlDie : Map (List XlEntry)) (xlWalk : Map (List XlEntry)) (xlSeq : Map Word) (harts : Map Hart) (links : Map LinkState) (fns : Map Fn)
    (sqs : Map (Option Sq)) (cqs : Map (Option Cq)) (heldBells : List (Nat × Nat × Nat × List Byte)) (shared : List Nat) (flips : Map (Option Flip))
    (nextFlip : Nat) (hostReads : List (BitVec 16 × Nat)) (steer : Int) (remotes : Map (Option Remote)) (hostWrites : List HostWrite) (msiDue : List
    (Nat × Nat)) (ncWait : List (JxlPort × LinkMsg)) (steerSum : Int) (nextTag : Nat) (tables : Map RouteTable) (nodesDown : List Nat) (nodesUp :
    List (Nat × Nat × Nat)) (cols : Map (Option Collective)) (earlyReady : List (Nat × Nat × ColFields × Nat)) (leaves : Map Leaf) (root94 : Root)
    (root95 : Root) (fencedU : List (UnitKind × Nat)) (mgmt : Mgmt) (stewards : Map Steward) (cutGen : Nat) (overUs : Nat) (lowUs : Nat) (calmUs :
    Nat) (partWork : Map (Option PartWork)) (delta : Option DeltaRun) (dieReset : Map Nat) (resetCmds : List (Nat × Nat × Nat × BitVec 16))
    (rateFailed : List RateUnit) (served : List (UnitKind × Nat)) (sent : List Msg) :
    State.outside false { s with
      fresh := fresh, pins := pins, csr := csr, locked := locked, flp := flp, hall := hall, hallAcc := hallAcc, hallIn := hallIn, hallSeq :=
      hallSeq, hallOut := hallOut, cores := cores, launches := launches, nextLaunch := nextLaunch, pool := pool, poolBad := poolBad, channels :=
      channels, lines := lines, msau := msau, refused := refused, l2s := l2s, l1s := l1s, bases := bases, hostDir := hostDir, hostTxns :=
      hostTxns, hostTxn := hostTxn, slots := slots, xlDie := xlDie, xlWalk := xlWalk, xlSeq := xlSeq, harts := harts, links := links, fns :=
      fns, sqs := sqs, cqs := cqs, heldBells := heldBells, shared := shared, flips := flips, nextFlip := nextFlip, hostReads := hostReads, steer
      := steer, remotes := remotes, hostWrites := hostWrites, msiDue := msiDue, ncWait := ncWait, steerSum := steerSum, nextTag := nextTag,
      tables := tables, nodesDown := nodesDown, nodesUp := nodesUp, cols := cols, earlyReady := earlyReady, leaves := leaves, root94 := root94,
      root95 := root95, fencedU := fencedU, mgmt := mgmt, stewards := stewards, cutGen := cutGen, overUs := overUs, lowUs := lowUs, calmUs :=
      calmUs, partWork := partWork, delta := delta, dieReset := dieReset, resetCmds := resetCmds, rateFailed := rateFailed, served := served,
      sent := sent } = s.outside false :=
  State.outside_of_fields rfl rfl rfl

@[simp] theorem State.fst_ite {α : Type} {c : Prop} [Decidable c] (x y : State × α) : (if c then x else y).1 = if c then x.1 else y.1 :=
  apply_ite _ _ _ _

theorem State.outside_fst {α : Type} {r : State × α} {t : State} {a : α} (h : r = (t, a)) : t.outside ports = r.1.outside ports := by
  rw [h]

/-- A command that runs under the gate, and whose effect stays inside. -/
theorem outside_gate {s t : State} {f : State → State} (hf : (f s).outside ports = s.outside ports) (h : gate s f = .next t) :
    t.outside ports = s.outside ports := by
  unfold gate at h
  split at h
  · cases h; exact hf
  · cases h; rfl

/-! ## Registers beside the ports' -/

/-- A register beside a Jexesk Link port's status, on any die. -/
def Apart (o : Nat) : Prop := o ≠ 0x80000 ∧ o < 2 ^ 32

@[simp] theorem apart_of {o : Nat} (h : o ≠ 0x80000) (h' : o < 2 ^ 32) : Apart o := ⟨h, h'⟩

@[simp] theorem apart_chanReg (c : Chan) {x : Nat} (h : x < 0x1000) : Apart ((chanReg c).2 + x) := by
  have := chanReg_off c
  exact ⟨by omega, by omega⟩
@[simp] theorem apart_chanReg_zero (c : Chan) : Apart (chanReg c).2 := apart_chanReg c (x := 0) (by decide)
@[simp] theorem apart_fabReg (p : Nat) {x : Nat} (h : x < 0x1000) : Apart ((fabReg p).2 + x) := by
  unfold fabReg
  exact ⟨by dsimp only; omega, by dsimp only; omega⟩
@[simp] theorem apart_fabReg_zero (p : Nat) : Apart (fabReg p).2 := apart_fabReg p (x := 0) (by decide)
@[simp] theorem apart_coreOff (c : Nat) {x : Nat} (h : x < 0x10000) : Apart (coreOff c x) := by
  unfold coreOff
  exact ⟨by omega, by omega⟩
@[simp] theorem apart_coreOff_high (c : Nat) {x : Nat} (h : x < 0xFFF0) : Apart (coreOff c x + 4) := by
  unfold coreOff
  exact ⟨by omega, by omega⟩
@[simp] theorem apart_halReg (p : HalPort) {x : Nat} (h : x < 0x1000) : Apart ((halReg p).2 + x) := by
  have := p.p.isLt
  unfold halReg
  exact ⟨by dsimp only; omega, by dsimp only; omega⟩
@[simp] theorem apart_halReg_zero (p : HalPort) : Apart (halReg p).2 := apart_halReg p (x := 0) (by decide)

section
variable (s : State) (d : Nat)

@[simp] theorem State.outside_wr {o : Nat} (h : Apart o) (v : Word) : (s.wr d o v).outside ports = s.outside ports := by
  obtain ⟨hne, ho⟩ := h
  have hcarries : (s.wr d o v).carries = s.carries := funext fun p => by
    have hkey : csrKey (92 + p.val) 0x80000 ≠ csrKey d o := csrKey_ne ho (by decide) hne.symm
    simp only [State.carries, State.linkSt, linkReg, State.fld, State.rd_wr_ne _ _ _ _ _ _ hkey]
  exact State.outside_of_carries rfl rfl rfl hcarries rfl

@[simp] theorem State.outside_wr64 {o : Nat} (h : Apart o) (h' : Apart (o + 4)) (v : DWord) : (s.wr64 d o v).outside ports = s.outside ports := by
  simp [State.wr64, h, h']

@[simp] theorem State.outside_setFld {o : Nat} (h : Apart o) (hi lo v : Nat) : (s.setFld d o hi lo v).outside ports = s.outside ports := by
  simp [State.setFld, h]

@[simp] theorem State.outside_inc {o : Nat} (h : Apart o) (n : Nat) : (s.inc d o n).outside ports = s.outside ports := by
  simp [State.inc, h]

@[simp] theorem State.outside_inc64 {o : Nat} (h : Apart o) (h' : Apart (o + 4)) (n : Nat) : (s.inc64 d o n).outside ports = s.outside ports := by
  simp [State.inc64, h, h']

@[simp] theorem State.outside_incFld {o : Nat} (h : Apart o) (hi lo : Nat) : (s.incFld d o hi lo).outside ports = s.outside ports := by
  simp [State.incFld, h]

@[simp] theorem State.outside_satFld {o : Nat} (h : Apart o) (hi lo n : Nat) : (s.satFld d o hi lo n).outside ports = s.outside ports := by
  simp [State.satFld, h]

/-! Where the ports are left out, every register is beside the view. -/

@[simp] theorem State.outside_wr_any (o : Nat) (v : Word) : (s.wr d o v).outside false = s.outside false := State.outside_of_fields rfl rfl rfl
@[simp] theorem State.outside_wr64_any (o : Nat) (v : DWord) : (s.wr64 d o v).outside false = s.outside false := by simp [State.wr64]
@[simp] theorem State.outside_setFld_any (o hi lo v : Nat) : (s.setFld d o hi lo v).outside false = s.outside false := by simp [State.setFld]
@[simp] theorem State.outside_inc_any (o n : Nat) : (s.inc d o n).outside false = s.outside false := by simp [State.inc]
@[simp] theorem State.outside_inc64_any (o n : Nat) : (s.inc64 d o n).outside false = s.outside false := by simp [State.inc64]
@[simp] theorem State.outside_incFld_any (o hi lo : Nat) : (s.incFld d o hi lo).outside false = s.outside false := by simp [State.incFld]
@[simp] theorem State.outside_satFld_any (o hi lo n : Nat) : (s.satFld d o hi lo n).outside false = s.outside false := by simp [State.satFld]

theorem csrKey_jxl (p : JxlPort) : csrKey (92 + p.val) 0x80000 = (92 + p.val) * 2 ^ 32 + 0x80000 := by
  have := p.isLt
  rw [csrKey, if_neg (by omega)]

/-- The status words of two ports stand at two keys. -/
theorem State.linkSt_setFld_jxl_ne {p q : JxlPort} (h : q ≠ p) (hi lo v : Nat) :
    (s.setFld (92 + p.val) 0x80000 hi lo v).linkSt (.jxl q) = s.linkSt (.jxl q) := by
  have hval : q.val ≠ p.val := fun e => h (Fin.ext e)
  exact s.fld_setFld_ne _ _ _ _ _ (92 + q.val) 0x80000 31 28 (by rw [csrKey_jxl, csrKey_jxl]; omega)

theorem State.linkSt_inc_jxl {d o : Nat} (h : Apart o) (n : Nat) (p : JxlPort) : (s.inc d o n).linkSt (.jxl p) = s.linkSt (.jxl p) := by
  obtain ⟨hne, ho⟩ := h
  have hkey : csrKey (92 + p.val) 0x80000 ≠ csrKey d o := csrKey_ne ho (by decide) hne.symm
  simp only [State.linkSt, linkReg, State.fld, State.inc, State.rd_wr_ne _ _ _ _ _ _ hkey]

/-- A port that leaves TRAINED for RETRAIN carries traffic as before. -/
theorem State.outside_setTraffic (p : JxlPort) (h : s.linkSt (.jxl p) = 2) : (s.setLinkSt (.jxl p) 3).outside ports = s.outside ports := by
  have hcarries : (s.setLinkSt (.jxl p) 3).carries = s.carries := funext fun q => by
    by_cases hq : q = p
    · rw [hq, State.carries, State.carries, s.linkSt_setLinkSt _ 3 (by decide), h]
      rfl
    · have hne : (s.setLinkSt (.jxl p) 3).linkSt (.jxl q) = s.linkSt (.jxl q) := s.linkSt_setFld_jxl_ne hq _ _ _
      rw [State.carries, State.carries, hne]
  exact State.outside_of_carries (s.setFld_pending _ _ _ _ _) (s.setFld_time _ _ _ _ _) (s.setFld_phase _ _ _ _ _) hcarries
    (s.setFld_pins _ _ _ _ _)

/-- A port's lanes are no part of its state. -/
@[simp] theorem State.outside_setFld_lanes (p : JxlPort) (v : Nat) :
    (s.setFld (linkReg (.jxl p)).1 (linkReg (.jxl p)).2 23 16 v).outside ports = s.outside ports := by
  have hcarries : (s.setFld (92 + p.val) 0x80000 23 16 v).carries = s.carries := funext fun q => by
    have hst : (s.setFld (92 + p.val) 0x80000 23 16 v).linkSt (.jxl q) = s.linkSt (.jxl q) := by
      by_cases hq : q = p
      · rw [hq]
        exact s.fld_setFld_other _ _ _ _ _ _ _ (by decide) (by decide) (by decide) (.inl (by decide))
      · exact s.linkSt_setFld_jxl_ne hq _ _ _
    rw [State.carries, State.carries, hst]
  exact State.outside_of_carries (s.setFld_pending _ _ _ _ _) (s.setFld_time _ _ _ _ _) (s.setFld_phase _ _ _ _ _) hcarries
    (s.setFld_pins _ _ _ _ _)

end

section
variable (s : State)

/-! ## Ops -/

@[simp] theorem State.outside_bump : (s.bump).outside ports = s.outside ports := by simp [State.bump]
@[simp] theorem State.outside_setPartState (p v : Nat) : (s.setPartState p v).outside false = s.outside false := by simp [State.setPartState]
@[simp] theorem State.outside_setOnline (d : Nat) (v : Bool) : (s.setOnline d v).outside false = s.outside false := by simp [State.setOnline]
@[simp] theorem State.outside_setChecked (d : Nat) (v : Bool) : (s.setChecked d v).outside ports = s.outside ports := by simp [State.setChecked]
@[simp] theorem State.outside_setCore (c : Nat) (k : Core) : (s.setCore c k).outside ports = s.outside ports := by simp [State.setCore]
@[simp] theorem State.outside_modCore (c : Nat) (f : Core → Core) : (s.modCore c f).outside ports = s.outside ports := by simp [State.modCore]
@[simp] theorem State.outside_setPort (p : HalPort) (k : HallPort) : (s.setPort p k).outside ports = s.outside ports := by simp [State.setPort]
@[simp] theorem State.outside_setChan (c : Chan) (k : Channel) : (s.setChan c k).outside ports = s.outside ports := by simp [State.setChan]
@[simp] theorem State.outside_setChanState (c : Chan) (v : Nat) : (s.setChanState c v).outside ports = s.outside ports := by simp [State.setChanState]
@[simp] theorem State.outside_setLine (l : Nat) (k : HomeLine) : (s.setLine l k).outside ports = s.outside ports := by simp [State.setLine]
@[simp] theorem State.outside_setL2 (n : Nat) (k : L2) : (s.setL2 n k).outside ports = s.outside ports := by simp [State.setL2]
@[simp] theorem State.outside_setBase (k : Nat) (b : BaseCache) : (s.setBase k b).outside ports = s.outside ports := by simp [State.setBase]
@[simp] theorem State.outside_setHart (h : Nat) (k : Hart) : (s.setHart h k).outside ports = s.outside ports := by simp [State.setHart]
@[simp] theorem State.outside_setFn (p : Nat) (k : Fn) : (s.setFn p k).outside ports = s.outside ports := by simp [State.setFn]
@[simp] theorem State.outside_setSq (p q : Nat) (k : Option Sq) : (s.setSq p q k).outside ports = s.outside ports := by simp [State.setSq]
@[simp] theorem State.outside_setCq (p q : Nat) (k : Option Cq) : (s.setCq p q k).outside ports = s.outside ports := by simp [State.setCq]
@[simp] theorem State.outside_setCol (j : Nat) (k : Option Collective) : (s.setCol j k).outside false = s.outside false := by simp [State.setCol]
@[simp] theorem State.outside_setLeaf (d : Nat) (k : Leaf) : (s.setLeaf d k).outside ports = s.outside ports := by simp [State.setLeaf]
@[simp] theorem State.outside_setRoot (r95 : Bool) (k : Root) : (s.setRoot r95 k).outside ports = s.outside ports := by simp [State.setRoot]
@[simp] theorem State.outside_setSteward (d : Nat) (k : Steward) : (s.setSteward d k).outside false = s.outside false := by simp [State.setSteward]
@[simp] theorem State.outside_setLink (l : LinkId) (k : LinkState) : (s.setLink l k).outside ports = s.outside ports := by simp [State.setLink]
@[simp] theorem State.outside_modMgmt (f : Mgmt → Mgmt) : (s.modMgmt f).outside false = s.outside false := by simp [State.modMgmt]
@[simp] theorem State.outside_setLinkSt (l : LinkId) (v : Nat) : (s.setLinkSt l v).outside false = s.outside false := by simp [State.setLinkSt]

@[simp] theorem State.outside_inject (src dst : Nat) (vc : HalVc) (m : Msg) :
    (s.inject src dst vc m).outside ports = s.outside ports := by simp [State.inject]

@[simp] theorem State.outside_out (m : Msg) : (s.out m).outside ports = s.outside ports := by simp [State.out]

@[simp] theorem State.outside_sendTagged (w : Option WriteTag) (m : Msg) : (s.sendTagged w m).outside ports = s.outside ports := by
  unfold State.sendTagged
  split <;> simp

@[simp] theorem State.outside_stageWord (o : Nat) (v : Word) : (s.stageWord o v).outside false = s.outside false := by simp [State.stageWord]

@[simp] theorem State.outside_startRetrain (l : LinkId) : (s.startRetrain l).outside ports = s.outside ports := by
  unfold State.startRetrain
  split
  · rename_i htrained
    cases l with
    | fabric p => simp [State.setLinkSt, linkReg]
    | jxl p =>
      refine (State.outside_setTraffic _ _ ?_).trans ?_
      · rw [State.linkSt_inc_jxl _ (by simp [linkReg])]
        exact htrained
      · simp [linkReg]
  · rfl

@[simp] theorem State.outside_setLanes (l : LinkId) (x : Nat × Bool) : (s.setLanes l x).outside ports = s.outside ports := by
  unfold State.setLanes
  cases l with
  | jxl p => simp
  | fabric p => simp [linkReg]

@[simp] theorem State.outside_untrainPort (p : FabPort) : (s.untrainPort p).outside false = s.outside false := by simp [State.untrainPort]
@[simp] theorem State.outside_noteServed (k : UnitKind) (n : Nat) : (s.noteServed k n).outside false = s.outside false := by simp [State.noteServed]
@[simp] theorem State.outside_send (m : Msg) : (s.send m).outside ports = s.outside ports := by simp [State.send]

@[simp] theorem State.outside_stair (kind src dst : Nat) (body : List Nat) :
    (s.stair kind src dst body).outside ports = s.outside ports := by simp [State.stair]

@[simp] theorem State.outside_sendNotice (p : FabPort) (kind node dst : Nat) (body : List Byte) :
    (s.sendNotice p kind node dst body).outside false = s.outside false := by simp [State.sendNotice]

@[simp] theorem State.outside_sendPeer (p : FabPort) (kind node : Nat) (body : List Byte) :
    (s.sendPeer p kind node body).outside false = s.outside false := by simp [State.sendPeer]

@[simp] theorem State.outside_sendNodeDown (p : FabPort) (node : Nat) :
    (s.sendNodeDown p node).outside false = s.outside false := by simp [State.sendNodeDown]

@[simp] theorem State.outside_markSent (r95 : Bool) (k : Nat) : (s.markSent r95 k).outside false = s.outside false := by simp [State.markSent]

@[simp] theorem State.outside_cpuMsiSet (r95 : Bool) (p : Nat) (addr : DWord) (value : Word) (mask : Bool) :
    (s.cpuMsiSet r95 p addr value mask).outside false = s.outside false := by simp [State.cpuMsiSet]

/-! ## Pool -/

@[simp] theorem State.outside_activate (c : Chan) (line : Nat) : (s.activate c line).outside ports = s.outside ports := by simp [State.activate]

@[simp] theorem State.outside_countLine (l : Nat) : (s.countLine l).outside ports = s.outside ports := by
  unfold State.countLine
  split
  · simp [Nat.add_assoc]
  · rfl

@[simp] theorem State.outside_holdHome (l : Nat) (write : Bool) (mask : BitVec 128) (data : List Byte) (poison : Bool) :
    (s.holdHome l write mask data poison).outside ports = s.outside ports := by
  unfold State.holdHome
  split <;> simp

@[simp] theorem State.outside_setBad (l : Nat) (v : Bool) : (s.setBad l v).outside ports = s.outside ports := by simp [State.setBad]

@[simp] theorem State.outside_memStore (l : Nat) (mask : BitVec 128) (data : List Byte) (poison : Bool) :
    (s.memStore l mask data poison).outside ports = s.outside ports := by simp [State.memStore]

@[simp] theorem State.outside_memWrite (l : Nat) (mask : BitVec 128) (data : List Byte) (poison : Bool) :
    (s.memWrite l mask data poison).outside ports = s.outside ports := by
  unfold State.memWrite
  repeat' split
  all_goals simp

@[simp] theorem State.outside_sendLinkCoh (p : JxlPort) (code fn : Nat) (w : Option WriteTag) (m : CohMsg) :
    (s.sendLinkCoh p code fn w m).outside ports = s.outside ports := by simp [State.sendLinkCoh]

@[simp] theorem State.outside_countRead (l stack self : Nat) : (s.countRead l stack self).outside false = s.outside false := by simp [State.countRead]
@[simp] theorem State.outside_dropL1 (n l : Nat) : (s.dropL1 n l).outside ports = s.outside ports := by simp [State.dropL1]
@[simp] theorem State.outside_dropCopies (l : Nat) : (s.dropCopies l).outside ports = s.outside ports := by simp [State.dropCopies]

@[simp] theorem State.outside_msauRelease (l : Nat) : (s.msauRelease l).outside ports = s.outside ports := by
  unfold State.msauRelease
  split <;> simp

@[simp] theorem State.outside_readLine (l stack : Nat) : (s.readLine l stack).1.outside false = s.outside false := by simp [State.readLine]

@[simp] theorem State.outside_writeLine (l : Nat) (mask : BitVec 128) (data : List Byte) (poison : Bool) :
    (s.writeLine l mask data poison).outside ports = s.outside ports := by
  unfold State.writeLine
  repeat' split
  all_goals simp

@[simp] theorem State.outside_readPhys (ph n stack : Nat) : (s.readPhys ph n stack).1.outside false = s.outside false := by simp [State.readPhys]

@[simp] theorem State.outside_writePhys (ph : Nat) (bytes : List Byte) (poison : Bool) :
    (s.writePhys ph bytes poison).outside ports = s.outside ports := by simp [State.writePhys]

theorem State.outside_readLocal {s t : State} {a n : Nat} {x : List Byte × Bool} (h : s.readLocal a n = some (t, x)) :
    t.outside false = s.outside false := by
  refine foldl_keeps (fun acc => ∀ t x, acc = some (t, x) → t.outside false = s.outside false) (fun acc pc hacc t x hstep => ?_)
    (fun t x heq => by cases heq; rfl) (linePieces a n (n + 1)) t x h
  split at hstep
  · cases hstep
  · split at hstep
    · cases hstep
    · cases hstep
      exact (State.outside_readPhys _ _ pc.2 _).trans (hacc _ _ rfl)

@[simp] theorem State.outside_writeLocal (a : Nat) (bytes : List Byte) : (s.writeLocal a bytes).outside ports = s.outside ports := by
  refine outside_foldl (fun s pc => ?_) s _
  split <;> simp

/-! ## CoreBase -/

@[simp] theorem State.outside_noteNan (c unit quarter slot : Nat) (tag : Byte) (pc : DWord) (r : List Nat) :
    (s.noteNan c unit quarter slot tag pc r).outside ports = s.outside ports := by simp [State.noteNan]

@[simp] theorem State.outside_landed (c unit : Nat) (r : Running) : (s.landed c unit r).outside ports = s.outside ports := by
  unfold State.landed
  dsimp only
  split <;> simp

/-! ## Completions -/

@[simp] theorem State.outside_hostWrite (p : Nat) (queue : Option Nat) (addr : Nat) (data : List Byte) :
    (s.hostWrite p queue addr data).outside ports = s.outside ports := by simp [State.hostWrite]

@[simp] theorem State.outside_cmdWrite (p : Nat) (queue : Option Nat) (addr : DWord) (data : List Byte) :
    (s.cmdWrite p queue addr data).outside ports = s.outside ports := by
  unfold State.cmdWrite
  repeat' split
  all_goals simp

@[simp] theorem State.outside_signal (p v : Nat) : (s.signal p v).outside ports = s.outside ports := by simp [State.signal]
@[simp] theorem State.outside_signalAfter (p v : Nat) : (s.signalAfter p v).outside ports = s.outside ports := by simp [State.signalAfter]
@[simp] theorem State.outside_releaseMsis : (s.releaseMsis).outside false = s.outside false := by simp [State.releaseMsis]

@[simp] theorem State.outside_writeEntry (p q : Nat) (c : Cq) (e : List Byte) : (s.writeEntry p q c e).outside ports = s.outside ports := by
  unfold State.writeEntry
  dsimp only
  split <;> simp

@[simp] theorem State.outside_cqPush (p q : Nat) (e : List Byte) : (s.cqPush p q e).outside ports = s.outside ports := by
  unfold State.cqPush
  split <;> simp

@[simp] theorem State.outside_postEvent (p type : Nat) (body : List Byte) :
    (s.postEvent p type body).outside ports = s.outside ports := by simp [State.postEvent]

@[simp] theorem State.outside_slEvent (event die : Nat) : (s.slEvent event die).outside ports = s.outside ports := by simp [State.slEvent]

@[simp] theorem State.outside_queueError (p q code head want got : Nat) : (s.queueError p q code head want got).outside false = s.outside false := by
  unfold State.queueError
  split <;> simp

@[simp] theorem State.outside_finishCmd (p q : Nat) (cid : BitVec 16) (code detail : Nat) (body : List Byte) :
    (s.finishCmd p q cid code detail body).outside ports = s.outside ports := by
  unfold State.finishCmd
  split <;> simp

@[simp] theorem State.outside_finishLaunch (n : Nat) (l : Launch) (errors : List (Nat × Nat × List Nat)) :
    (s.finishLaunch n l errors).outside ports = s.outside ports := by
  unfold State.finishLaunch
  dsimp only
  split <;> simp

@[simp] theorem State.outside_reportNums (n c code : Nat) (info : List Nat) : (s.reportNums n c code info).outside ports = s.outside ports := by
  unfold State.reportNums
  split <;> simp

@[simp] theorem State.outside_report (n c code : Nat) (info : ErrInfo) :
    (s.report n c code info).outside ports = s.outside ports := by simp [State.report]

@[simp] theorem State.outside_dropSample (c : Nat) : (s.dropSample c).outside ports = s.outside ports := by simp [State.dropSample]

@[simp] theorem State.outside_settleEnd (c : Nat) : (s.settleEnd c).outside ports = s.outside ports := by
  unfold State.settleEnd
  dsimp only
  split <;> simp

@[simp] theorem State.outside_abandonCore (c code : Nat) (info : ErrInfo) : (s.abandonCore c code info).outside ports = s.outside ports := by
  unfold State.abandonCore
  dsimp only
  split <;> simp

@[simp] theorem State.outside_failWaiting (c code : Nat) : (s.failWaiting c code).outside ports = s.outside ports := by simp [State.failWaiting]

/-! ## FaultBase -/

@[simp] theorem State.outside_leafRecord (f : FaultIn) (v : Verdict) :
    (s.leafRecord f v).outside ports = s.outside ports := by simp [State.leafRecord]

@[simp] theorem State.outside_noteFault (f : FaultIn) : (s.noteFault f).outside ports = s.outside ports := by simp [State.noteFault]
@[simp] theorem State.outside_writeDump (cause : Nat) : (s.writeDump cause).outside false = s.outside false := by simp [State.writeDump]
@[simp] theorem State.outside_selfRefresh : (s.selfRefresh).outside false = s.outside false := by simp [State.selfRefresh]
@[simp] theorem State.outside_nodeDownAll : (s.nodeDownAll).outside false = s.outside false := by simp [State.nodeDownAll]

/-! ## CohOps -/

@[simp] theorem State.outside_cohOut (src code dest : Nat) (m : CohMsg) :
    (s.cohOut src code dest m).outside ports = s.outside ports := by simp [State.cohOut]

@[simp] theorem State.outside_sendHost (p code : Nat) (m : CohMsg) : (s.sendHost p code m).outside ports = s.outside ports := by simp [State.sendHost]

@[simp] theorem State.outside_sendCoh (code target : Nat) (m : CohMsg) : (s.sendCoh code target m).outside ports = s.outside ports := by
  unfold State.sendCoh
  repeat' split
  all_goals simp

@[simp] theorem State.outside_answer (k : ReqKind) (code : Nat) (m : CohMsg) :
    (s.answer k code m).outside ports = s.outside ports := by simp [State.answer]

@[simp] theorem State.outside_refuseComp (m : CohMsg) (status : Nat) :
    (s.refuseComp m status).outside ports = s.outside ports := by simp [State.refuseComp]

@[simp] theorem State.outside_wbAck (m : CohMsg) : (s.wbAck m).outside ports = s.outside ports := by simp [State.wbAck]

@[simp] theorem State.outside_noticeNow (k : ReqKind) (m : CohMsg) : (s.noticeNow k m).outside ports = s.outside ports := by
  unfold State.noticeNow
  split <;> simp

@[simp] theorem State.outside_homeNotice (k : ReqKind) (m : CohMsg) : (s.homeNotice k m).outside false = s.outside false := by
  unfold State.homeNotice
  dsimp only
  split <;> simp

@[simp] theorem State.outside_memData (k : ReqKind) (m : CohMsg) (grant : Moesi) (final : Bool) :
    (s.memData k m grant final).outside ports = s.outside ports := by simp [State.memData]

@[simp] theorem State.outside_homeData (k : ReqKind) (m : CohMsg) (grant : Moesi) (final : Bool) :
    (s.homeData k m grant final).outside ports = s.outside ports := by simp [State.homeData]

@[simp] theorem State.outside_homeRetry (k : ReqKind) (m : CohMsg) : (s.homeRetry k m).outside false = s.outside false := by simp [State.homeRetry]

@[simp] theorem State.outside_msauTake (l : Nat) (d : List Byte) : (s.msauTake l d).outside ports = s.outside ports := by
  unfold State.msauTake
  dsimp only
  repeat' split
  all_goals simp

@[simp] theorem State.outside_openTxn (k : ReqKind) (m : CohMsg) : (s.openTxn k m).outside ports = s.outside ports := by
  unfold State.openTxn
  dsimp only
  repeat' split
  all_goals simp

@[simp] theorem State.outside_doAtom (k : ReqKind) (m : CohMsg) : (s.doAtom k m).outside ports = s.outside ports := by
  unfold State.doAtom
  split <;> simp

@[simp] theorem State.outside_completeTxn (t : Txn) : (s.completeTxn t).outside ports = s.outside ports := by
  unfold State.completeTxn
  split <;> simp

/-- The home's chain of services, by its fuel. -/
theorem outside_services (fuel : Nat) : ∀ s : State, (∀ l, (advance fuel s l).outside ports = s.outside ports) ∧
    (∀ l, (serveWaiter fuel s l).outside ports = s.outside ports) ∧ ∀ k m, (homeServe fuel s k m).outside ports = s.outside ports := by
  induction fuel with
  | zero => exact fun s => ⟨fun l => by simp [advance], fun l => by simp [serveWaiter], fun k m => by simp [homeServe]⟩
  | succ fuel ih =>
    have hadvance := fun s l => (ih s).1 l
    have hwaiter := fun s l => (ih s).2.1 l
    have hserve := fun s k m => (ih s).2.2 k m
    refine fun s => ⟨fun l => ?_, fun l => ?_, fun k m => ?_⟩
    · unfold advance
      split
      · rfl
      · simp [hwaiter]
    · unfold serveWaiter
      dsimp only
      split
      · rfl
      · split
        · rfl
        · simp [hwaiter, hserve]
    · unfold homeServe
      dsimp only
      repeat' split
      all_goals simp [hadvance]
@[simp] theorem outside_advance (fuel : Nat) (l : Nat) : (advance fuel s l).outside ports = s.outside ports := (outside_services fuel s).1 l
@[simp] theorem outside_serveWaiter (fuel : Nat) (l : Nat) : (serveWaiter fuel s l).outside ports = s.outside ports := (outside_services fuel s).2.1 l
@[simp] theorem outside_homeServe (fuel : Nat) (k : ReqKind) (m : CohMsg) :
    (homeServe fuel s k m).outside ports = s.outside ports := (outside_services fuel s).2.2 k m



@[simp] theorem State.outside_homeRequest (k : ReqKind) (m : CohMsg) :
    (s.homeRequest k m).outside false = s.outside false := by simp [State.homeRequest]

@[simp] theorem State.outside_noteLate (a since : Nat) : (s.noteLate a since).outside ports = s.outside ports := by
  unfold State.noteLate
  repeat' split
  all_goals simp

@[simp] theorem State.outside_snoopAnswered (l a : Nat) (superseded : Bool) (f : Txn → Txn) :
    (s.snoopAnswered l a superseded f).outside ports = s.outside ports := by
  unfold State.snoopAnswered
  dsimp only
  split <;> simp

@[simp] theorem State.outside_noDataFrom (l a : Nat) : (s.noDataFrom l a).outside ports = s.outside ports := by
  unfold State.noDataFrom
  split <;> simp

@[simp] theorem State.outside_memServed (l : Nat) : (s.memServed l).outside ports = s.outside ports := by
  unfold State.memServed
  repeat' split
  all_goals simp

@[simp] theorem State.outside_recallComp (l : Nat) : (s.recallComp l).outside false = s.outside false := by simp [State.recallComp]

theorem State.outside_makeWay {s : State} {l : Nat} {t : State} (h : s.makeWay l = some t) : t.outside false = s.outside false := by
  unfold State.makeWay at h
  split at h
  · cases h; rfl
  · split at h
    · cases h
    · cases h; simp

@[simp] theorem State.outside_lineFree (l : Nat) (write : Bool) : (s.lineFree l write).1.outside false = s.outside false := by
  unfold State.lineFree
  split
  · rfl
  · split
    · simp
    · split
      · rename_i hway
        exact State.outside_makeWay hway
      · split
        · rfl
        · simp

@[simp] theorem State.outside_rangeFree (a n : Nat) (write : Bool) : (s.rangeFree a n write).1.outside false = s.outside false := by
  refine foldl_keeps (fun acc : State × Bool => acc.1.outside false = s.outside false) (fun acc pc hacc => ?_) rfl _
  split
  · exact (State.outside_lineFree _ _ _).trans hacc
  · exact hacc

@[simp] theorem State.outside_dropResv (n l : Nat) : (s.dropResv n l).outside ports = s.outside ports := by simp [State.dropResv]

@[simp] theorem State.outside_l2Evict (n l : Nat) : (s.l2Evict n l).outside false = s.outside false := by
  unfold State.l2Evict
  dsimp only
  split <;> simp

@[simp] theorem State.outside_l2Put (n l : Nat) (x : L2Line) : (s.l2Put n l x).outside false = s.outside false := by simp [State.l2Put]

@[simp] theorem State.outside_ownerToShared (l : Nat) : (s.ownerToShared l).outside false = s.outside false := by
  unfold State.ownerToShared
  split <;> simp

theorem State.outside_l2Read {s : State} {n l : Nat} {r : State × L2Line} (h : s.l2Read n l = some r) : r.1.outside false = s.outside false := by
  unfold State.l2Read at h
  split at h
  · cases h; rfl
  · split at h
    · cases h
    · obtain ⟨t, hway, rfl⟩ := Option.map_eq_some_iff.mp h
      simp [State.outside_makeWay hway]

theorem State.outside_l2Own {s : State} {n l : Nat} {r : State × L2Line} (h : s.l2Own n l = some r) : r.1.outside false = s.outside false := by
  unfold State.l2Own at h
  split at h
  · split at h
    · cases h; rfl
    · split at h
      · cases h
      · cases h
        refine (State.outside_l2Put _ _ _ _).trans ((State.outside_setLine _ _ _).trans ((outside_overList (fun s i => ?_) _ _).trans ?_))
        · split <;> simp
        · simp
  · split at h
    · cases h
    · obtain ⟨t, hway, rfl⟩ := Option.map_eq_some_iff.mp h
      simp [State.outside_makeWay hway]

@[simp] theorem State.outside_l2Write (n l off : Nat) (bytes : List Byte) : (s.l2Write n l off bytes).outside false = s.outside false := by
  unfold State.l2Write
  split <;> simp

@[simp] theorem State.outside_basePut (k l : Nat) (d : List Byte) : (s.basePut k l d).outside false = s.outside false := by simp [State.basePut]

theorem State.outside_baseRead {s : State} {k l : Nat} {noAlloc : Bool} {r : State × List Byte × Bool} (h : s.baseRead k l noAlloc = some r) :
    r.1.outside false = s.outside false := by
  unfold State.baseRead at h
  split at h
  · split at h
    · cases h
    · cases h; simp
  · split at h
    · cases h; simp
    · split at h
      · cases h
      · dsimp only at h
        split at h
        · cases h; simp
        · obtain ⟨t, hway, rfl⟩ := Option.map_eq_some_iff.mp h
          simp [State.outside_makeWay hway]

theorem State.outside_baseWrite {s : State} {k l : Nat} {mask : BitVec 128} {data : List Byte} {poison : Bool} {t : State}
    (h : s.baseWrite k l mask data poison = some t) : t.outside false = s.outside false := by
  unfold State.baseWrite at h
  split at h
  · cases h
  · dsimp only at h
    repeat' split at h
    all_goals
      obtain rfl := Option.some.inj h
      simp

theorem State.outside_poolAtom {s : State} {l : Nat} {op : AtomOp} {width off : Nat} {operand compare : BitVec 128} {r : State × Option Nat}
    (h : s.poolAtom l op width off operand compare = some r) : r.1.outside false = s.outside false := by
  unfold State.poolAtom at h
  split at h
  · cases h
  · dsimp only at h
    generalize hcount : (if (s.buffered l).isSome || (s.ownerOf l).isSome || (s.inBuffer l).isSome then s else s.countLine l) = u at h
    have hu : u.outside false = s.outside false := by
      rw [← hcount]
      simp
    split at h
    · cases h; rfl
    · split at h
      · cases h; simp [hu]
      · split at h
        · cases h; simp [hu]
        · obtain ⟨t, hway, rfl⟩ := Option.map_eq_some_iff.mp h
          simp [State.outside_makeWay hway, hu]

/-! ## HallOps -/

@[simp] theorem State.outside_setHalState (p : HalPort) (v : Nat) : (s.setHalState p v).outside ports = s.outside ports := by simp [State.setHalState]

@[simp] theorem State.outside_sendPacket (p : HalPort) (pkt : Packet) :
    (s.sendPacket p pkt).outside ports = s.outside ports := by simp [State.sendPacket]

@[simp] theorem State.outside_routeLost (die unit : Nat) (pkt : Packet) :
    (s.routeLost die unit pkt).outside ports = s.outside ports := by simp [State.routeLost]

@[simp] theorem State.outside_acceptPacket (pkt : Packet) : (s.acceptPacket pkt).outside ports = s.outside ports := by simp [State.acceptPacket]
@[simp] theorem State.outside_returnPacket (pkt : Packet) : (s.returnPacket pkt).outside ports = s.outside ports := by simp [State.returnPacket]

@[simp] theorem State.outside_forward (die q : Nat) (pkt : Packet) (unit : Nat) : (s.forward die q pkt unit).outside ports = s.outside ports := by
  unfold State.forward
  dsimp only
  repeat' split
  all_goals simp

@[simp] theorem State.outside_setInbound (p : HalPort) (m : BitVec 66) : (s.setInbound p m).outside ports = s.outside ports := by
  simp [State.setInbound, Nat.add_assoc]

@[simp] theorem State.outside_enterHold (p : HalPort) : (s.enterHold p).outside ports = s.outside ports := by simp [State.enterHold]

@[simp] theorem State.outside_startRound (p : HalPort) (attempt : Nat) :
    (s.startRound p attempt).outside ports = s.outside ports := by simp [State.startRound]

@[simp] theorem State.outside_fenceBundle (p : HalPort) (b : Nat) : (s.fenceBundle p b).outside ports = s.outside ports := by simp [State.fenceBundle]
@[simp] theorem State.outside_fenceHalPort (p : HalPort) : (s.fenceHalPort p).outside ports = s.outside ports := by simp [State.fenceHalPort]

/-! ## Faults -/

@[simp] theorem State.outside_noteFenced (u : UnitKey) : (s.noteFenced u).outside ports = s.outside ports := by simp [State.noteFenced]

@[simp] theorem State.outside_sendMem (agent line : Nat) (data : List Byte) (poison retry : Bool) :
    (s.sendMem agent line data poison retry).outside ports = s.outside ports := by simp [State.sendMem]

@[simp] theorem State.outside_answerFenced (c : Chan) (r : ChanReq) :
    (s.answerFenced c r).outside ports = s.outside ports := by simp [State.answerFenced]

@[simp] theorem State.outside_fenceChannel (c : Chan) (thermal : Bool) :
    (s.fenceChannel c thermal).outside ports = s.outside ports := by simp [State.fenceChannel]

@[simp] theorem State.outside_nextTest (d : Nat) : (s.nextTest d).outside ports = s.outside ports := by
  unfold State.nextTest
  repeat' split
  all_goals simp

@[simp] theorem State.outside_fenceCore (c : Nat) : (s.fenceCore c).outside ports = s.outside ports := by simp [State.fenceCore]
@[simp] theorem State.outside_fenceHart (h : Nat) : (s.fenceHart h).outside ports = s.outside ports := by simp [State.fenceHart]

@[simp] theorem State.outside_poisonAtHome (a l : Nat) (gseq : BitVec 12) : (s.poisonAtHome a l gseq).outside ports = s.outside ports := by
  unfold State.poisonAtHome
  split
  · simp [overList]
  · simp

@[simp] theorem State.outside_fenceAgent (a : Nat) : (s.fenceAgent a).outside ports = s.outside ports := by simp [State.fenceAgent]
@[simp] theorem State.outside_fenceFabPort (n : Nat) : (s.fenceFabPort n).outside ports = s.outside ports := by simp [State.fenceFabPort]

@[simp] theorem State.outside_laneFailed (l : LinkId) (lane : Nat) : (s.laneFailed l lane).outside ports = s.outside ports := by
  unfold State.laneFailed
  split <;> simp

@[simp] theorem State.outside_fenceLane (die idx : Nat) : (s.fenceLane die idx).outside ports = s.outside ports := by simp [State.fenceLane]

@[simp] theorem State.outside_fenceDie (d : Nat) : (s.fenceDie d).outside ports = s.outside ports := by
  unfold State.fenceDie
  split <;> simp

@[simp] theorem State.outside_fenceUnit (f : FaultIn) : (s.fenceUnit f).outside ports = s.outside ports := by
  unfold State.fenceUnit
  dsimp only
  repeat' split
  all_goals simp

@[simp] theorem State.outside_leafDetect (f : FaultIn) : (s.leafDetect f).outside ports = s.outside ports := by simp [State.leafDetect]
@[simp] theorem State.outside_persist (f : FaultIn) : (s.persist f).outside false = s.outside false := by simp [State.persist]
@[simp] theorem State.outside_interrupts (n : Notice) : (s.interrupts n).outside false = s.outside false := by simp [State.interrupts]

@[simp] theorem State.outside_cacheParity (f : FaultIn) : (s.cacheParity f).outside false = s.outside false := by
  unfold State.cacheParity
  dsimp only
  repeat' split
  all_goals simp

@[simp] theorem State.outside_leafTakes (l : List FaultIn) : (s.leafTakes l).outside false = s.outside false := by
  unfold State.leafTakes
  split <;> simp

@[simp] theorem State.outside_unitCorrects (f : FaultIn) : (s.unitCorrects f).outside false = s.outside false := by simp [State.unitCorrects]

@[simp] theorem State.outside_deliverNotice (d : DieId) : (s.deliverNotice d).outside false = s.outside false := by
  unfold State.deliverNotice
  dsimp only
  split <;> simp

@[simp] theorem State.outside_collectorFault (d : DieId) (intact : Bool) :
    (s.collectorFault d intact).outside false = s.outside false := by simp [State.collectorFault]

@[simp] theorem State.outside_flaw (c : Nat) (ecc : List EccHit) : (s.flaw c ecc).outside false = s.outside false := by simp [State.flaw]

@[simp] theorem State.outside_panGranule (c reader g : Nat) : (s.panGranule c reader g).1.outside ports = s.outside ports := by
  unfold State.panGranule
  repeat' split
  all_goals simp

@[simp] theorem State.outside_panRead (c reader : Nat) (gs : List Nat) : (s.panRead c reader gs).1.outside ports = s.outside ports :=
  foldl_keeps (fun acc : State × List Nat => acc.1.outside ports = s.outside ports) (fun _ _ hacc => (State.outside_panGranule _ _ _ _).trans hacc) rfl _

@[simp] theorem State.outside_panStore (c reader off : Nat) (b : List Byte) :
    (s.panStore c reader off b).outside false = s.outside false := by simp [State.panStore]

@[simp] theorem State.outside_selfTest (c : Nat) (m1 m2 : Bool) : (s.selfTest c m1 m2).outside ports = s.outside ports := by simp [State.selfTest]

@[simp] theorem State.outside_runDue (c : Nat) : (s.runDue c).outside ports = s.outside ports := by
  unfold State.runDue
  dsimp only
  split <;> simp

@[simp] theorem State.outside_land (c unit : Nat) (r : Running) : (s.land c unit r).1.outside ports = s.outside ports := by
  unfold State.land
  dsimp only
  split <;> simp

@[simp] theorem State.outside_endPart (c code : Nat) (info : ErrInfo) :
    (s.endPart c code info).outside ports = s.outside ports := by simp [State.endPart]

/-! ## Registers -/

@[simp] theorem State.outside_setPkgLimit (v : Word) : (s.setPkgLimit v).outside false = s.outside false := by simp [State.setPkgLimit]

@[simp] theorem State.outside_cpuMsiWord (r95 : Bool) (p i : Nat) (v : Word) :
    (s.cpuMsiWord r95 p i v).outside false = s.outside false := by simp [State.cpuMsiWord]

@[simp] theorem State.outside_subBlockWrite (d off : Nat) (v : Word) : (s.subBlockWrite d off v).outside false = s.outside false := by
  unfold State.subBlockWrite
  split <;> simp

@[simp] theorem State.outside_rootWrite (r95 : Bool) (off : Nat) (v : Word) :
    (s.rootWrite r95 off v).outside false = s.outside false := by simp [State.rootWrite]

@[simp] theorem State.outside_csrWriteWord (d off : Nat) (v : Word) :
    (s.csrWriteWord d off v).outside false = s.outside false := by simp [State.csrWriteWord]

@[simp] theorem State.outside_fnWriteWord (p off : Nat) (v : Word) :
    (s.fnWriteWord p off v).outside false = s.outside false := by simp [State.fnWriteWord]

@[simp] theorem State.outside_csrWriteAt (a : Nat) (v : Word) : (s.csrWriteAt a v).outside false = s.outside false := by
  unfold State.csrWriteAt
  split <;> simp

/-! ## Channels -/

@[simp] theorem State.outside_holdChan (c : Chan) : (s.holdChan c).outside false = s.outside false := by simp [State.holdChan]
@[simp] theorem State.outside_noteRetries (c : Chan) (n : Nat) : (s.noteRetries c n).outside false = s.outside false := by simp [State.noteRetries]

@[simp] theorem State.outside_linkRetries (c : Chan) (line access n : Nat) :
    (s.linkRetries c line access n).outside false = s.outside false := by simp [State.linkRetries]

@[simp] theorem State.outside_enterRepair (c : Chan) (line : Nat) :
    (s.enterRepair c line).outside false = s.outside false := by simp [State.enterRepair]

@[simp] theorem State.outside_noteOnDie (c : Chan) : (s.noteOnDie c).outside false = s.outside false := by simp [State.noteOnDie]

@[simp] theorem State.outside_correctLine (c : Chan) (line access : Nat) :
    (s.correctLine c line access).outside false = s.outside false := by simp [State.correctLine]

@[simp] theorem State.outside_poisonLine (c : Chan) (line access : Nat) :
    (s.poisonLine c line access).outside false = s.outside false := by simp [State.poisonLine]

@[simp] theorem State.outside_lineVerdict (c : Chan) (line access : Nat) (ecc : LineEcc) :
    (s.lineVerdict c line access ecc).outside false = s.outside false := by
  unfold State.lineVerdict
  repeat' split
  all_goals simp

@[simp] theorem State.outside_chanVerdict (c : Chan) (line access : Nat) (ecc : LineEcc) (retries : Nat) :
    (s.chanVerdict c line access ecc retries).outside false = s.outside false := by simp [State.chanVerdict]

@[simp] theorem State.outside_chanRead (c : Chan) (line access : Nat) (ecc : LineEcc) (retries : Nat) :
    (s.chanRead c line access ecc retries).outside false = s.outside false := by simp [State.chanRead]

@[simp] theorem State.outside_chanWrite (c : Chan) (line : Nat) (mask : BitVec 128) (data : List Byte) (poison : Bool) (ecc : LineEcc)
    (retries : Nat) :
    (s.chanWrite c line mask data poison ecc retries).outside false = s.outside false := by simp [State.chanWrite]

@[simp] theorem State.outside_serveReq (c : Chan) (r : ChanReq) (ecc : LineEcc) (retries : Nat) :
    (s.serveReq c r ecc retries).outside false = s.outside false := by simp [State.serveReq]

@[simp] theorem State.outside_holdReq (c : Chan) (r : ChanReq) : (s.holdReq c r).outside false = s.outside false := by simp [State.holdReq]

theorem State.outside_chanReq (c : Chan) (r : ChanReq) {serve : State → State} (h : (serve s).outside false = s.outside false) :
    (s.chanReq c r serve).outside false = s.outside false := by
  unfold State.chanReq
  split
  · rfl
  · split
    · exact h
    all_goals simp

@[simp] theorem State.outside_resendHome (c : Chan) (l : Nat) (link : Transfer) : (s.resendHome c l link).outside false = s.outside false := by
  unfold State.resendHome
  dsimp only
  split
  · rfl
  · split
    · rfl
    · split
      · simp
      · exact (State.outside_chanReq _ _ _ (State.outside_serveReq _ _ _ _ _)).trans (State.outside_setChan _ _ _)

@[simp] theorem State.outside_failChan (c : Chan) : (s.failChan c).outside false = s.outside false := by simp [State.failChan]

/-! ## Coherence -/

@[simp] theorem State.outside_hostNote (p l : Nat) (as : List Nat) : (s.hostNote p l as).outside false = s.outside false := by simp [State.hostNote]
@[simp] theorem State.outside_hostWay (p l : Nat) : (s.hostWay p l).outside false = s.outside false := by simp [State.hostWay]

@[simp] theorem State.outside_hostAsk (t : HostTxn) (snoops : List (Nat × Nat)) (final : Bool) :
    (s.hostAsk t snoops final).outside false = s.outside false := by simp [State.hostAsk]

@[simp] theorem State.outside_hostRequest (k : ReqKind) (m : CohMsg) : (s.hostRequest k m).outside false = s.outside false := by
  unfold State.hostRequest
  dsimp only
  repeat' split
  all_goals simp

@[simp] theorem State.outside_hostSnoop (code : Nat) (m : CohMsg) : (s.hostSnoop code m).outside false = s.outside false := by
  unfold State.hostSnoop
  dsimp only
  split <;> simp

@[simp] theorem State.outside_hostAnswered (code : Nat) (m : CohMsg) : (s.hostAnswered code m).outside false = s.outside false := by
  unfold State.hostAnswered
  dsimp only
  repeat' split
  all_goals simp

@[simp] theorem State.outside_hostAck (m : CohMsg) : (s.hostAck m).outside false = s.outside false := by
  unfold State.hostAck
  split <;> simp

@[simp] theorem State.outside_noteWant (k : ReqKind) (m : CohMsg) : (s.noteWant k m).outside false = s.outside false := by simp [State.noteWant]
@[simp] theorem State.outside_request (k : ReqKind) (m : CohMsg) : (s.request k m).outside false = s.outside false := by simp [State.request]

@[simp] theorem State.outside_compRequest (k : ReqKind) (m : CohMsg) : (s.compRequest k m).outside false = s.outside false := by
  unfold State.compRequest
  split <;> simp

@[simp] theorem State.outside_ownRequest (k : ReqKind) (m : CohMsg) : (s.ownRequest k m).outside false = s.outside false := by simp [State.ownRequest]
@[simp] theorem State.outside_notice (k : ReqKind) (m : CohMsg) : (s.notice k m).outside false = s.outside false := by simp [State.notice]

@[simp] theorem State.outside_snoopAnswer (code a : Nat) (m : CohMsg) :
    (s.snoopAnswer code a m).outside false = s.outside false := by simp [State.snoopAnswer]

@[simp] theorem State.outside_snoopData (code a : Nat) (m : CohMsg) :
    (s.snoopData code a m).outside false = s.outside false := by simp [State.snoopData]

@[simp] theorem State.outside_baseSnoop (code k : Nat) (m : CohMsg) : (s.baseSnoop code k m).outside false = s.outside false := by
  unfold State.baseSnoop
  dsimp only
  repeat' split
  all_goals simp

@[simp] theorem State.outside_l2Snoop (code n : Nat) (m : CohMsg) : (s.l2Snoop code n m).outside false = s.outside false := by
  unfold State.l2Snoop
  dsimp only
  repeat' split
  all_goals simp

@[simp] theorem State.outside_snoopAgent (code : Nat) (m : CohMsg) (a : Nat) :
    (s.snoopAgent code m a).outside false = s.outside false := by simp [State.snoopAgent]

@[simp] theorem State.outside_ackHome (m : CohMsg) : (s.ackHome m).outside false = s.outside false := by simp [State.ackHome]

@[simp] theorem State.outside_l2Complete (n : Nat) (w : Want) : (s.l2Complete n w).outside false = s.outside false := by
  unfold State.l2Complete
  dsimp only
  repeat' split
  all_goals simp

theorem State.outside_l2Want {s : State} {n : Nat} {m : CohMsg} {f : Want → Want} {t : State} (h : s.l2Want n m f = some t) :
    t.outside false = s.outside false := by
  unfold State.l2Want at h
  dsimp only at h
  split at h
  · cases h
  · cases h; simp

@[simp] theorem State.outside_hostPut (w : HostWrite) (m : CohMsg) : (s.hostPut w m).outside false = s.outside false := by simp [State.hostPut]

@[simp] theorem State.outside_hostPutDone (m : CohMsg) : (s.hostPutDone m).outside false = s.outside false := by
  unfold State.hostPutDone
  dsimp only
  repeat' split
  all_goals simp

@[simp] theorem State.outside_l2Clean (n l : Nat) : (s.l2Clean n l).outside false = s.outside false := by
  unfold State.l2Clean
  split <;> simp

/-! ## Links -/

@[simp] theorem State.outside_ctlFlit (l : LinkId) (ftype : Nat) : (s.ctlFlit l ftype).outside false = s.outside false := by simp [State.ctlFlit]

@[simp] theorem State.outside_ackIn (l : LinkId) (k : LinkState) (ack : BitVec 12) :
    (s.ackIn l k ack).outside false = s.outside false := by simp [State.ackIn]

@[simp] theorem State.outside_replayAll (l : LinkId) : (s.replayAll l).outside false = s.outside false := by simp [State.replayAll]

@[simp] theorem State.outside_replayRequest (l : LinkId) (ack : BitVec 12) :
    (s.replayRequest l ack).outside false = s.outside false := by simp [State.replayRequest]

@[simp] theorem State.outside_noteMessage (l : LinkId) (b : List Byte) : (s.noteMessage l b).outside false = s.outside false := by
  unfold State.noteMessage
  split <;> simp

@[simp] theorem State.outside_ackNow (l : LinkId) : (s.ackNow l).outside false = s.outside false := by simp [State.ackNow]
@[simp] theorem State.outside_takePayload (l : LinkId) (f : Flit) : (s.takePayload l f).outside false = s.outside false := by simp [State.takePayload]
@[simp] theorem State.outside_flitIn (l : LinkId) (f : Flit) (ok : Bool) : (s.flitIn l f ok).outside false = s.outside false := by simp [State.flitIn]
@[simp] theorem State.outside_resumeLink (l : LinkId) : (s.resumeLink l).outside false = s.outside false := by simp [State.resumeLink]

@[simp] theorem State.outside_flipHome (toShared : Bool) (ls : List Nat) : (s.flipHome toShared ls).outside false = s.outside false := by
  induction ls generalizing s with
  | nil => rfl
  | cons l ls ih => simp [State.flipHome, ih]

@[simp] theorem State.outside_pumpPage (page : Nat) (toShared : Bool) : (s.pumpPage page toShared).outside false = s.outside false := by
  simp [State.pumpPage]

@[simp] theorem State.outside_beginPage (page : Nat) (toShared : Bool) :
    (s.beginPage page toShared).outside false = s.outside false := by simp [State.beginPage]

@[simp] theorem State.outside_endPage (page : Nat) (toShared : Bool) :
    (s.endPage page toShared).outside false = s.outside false := by simp [State.endPage]

@[simp] theorem State.outside_pumpFlip (n : Nat) : (s.pumpFlip n).outside false = s.outside false := by
  unfold State.pumpFlip
  split <;> simp

@[simp] theorem State.outside_pumpFlips : (s.pumpFlips).outside false = s.outside false := by simp [State.pumpFlips]

@[simp] theorem State.outside_startFlip (pages : List Nat) (toShared : Bool) (from_ : Option (JxlPort × LinkMsg)) (cmd : Option
    (Nat × Nat × BitVec 16)) :
    (s.startFlip pages toShared from_ cmd).outside false = s.outside false := by simp [State.startFlip]

@[simp] theorem State.outside_linkAnswer (p : JxlPort) (m : LinkMsg) (opcode : Byte) (status : Nat) (aux : BitVec 27) (data : List Byte) :
    (s.linkAnswer p m opcode status aux data).outside false = s.outside false := by simp [State.linkAnswer]

@[simp] theorem State.outside_countLost (p : Nat) (q : Option Nat) : (s.countLost p q).outside ports = s.outside ports := by simp [State.countLost]

@[simp] theorem State.outside_dropHostLines (p : Nat) : (s.dropHostLines p).outside ports = s.outside ports := by
  unfold State.dropHostLines
  rw [State.outside_update, outside_overList (fun s c => by simp), State.outside_update, outside_overList]
  intro s n
  split <;> simp

@[simp] theorem State.outside_forgetCompanion (l : Nat) : (s.forgetCompanion l).outside ports = s.outside ports := by
  unfold State.forgetCompanion
  dsimp only
  split <;> simp

@[simp] theorem State.outside_endHostReads (p : Nat) : (s.endHostReads p).outside ports = s.outside ports := by simp [State.endHostReads]

@[simp] theorem State.outside_endHostWrites (port : Nat) : (s.endHostWrites port).outside ports = s.outside ports := by
  refine (outside_overList (fun s w => ?_) _ _).trans (State.outside_update s ..)
  split <;> simp

@[simp] theorem State.outside_companionLost (p : JxlPort) (cause : Nat) :
    (s.companionLost p cause).outside false = s.outside false := by simp [State.companionLost]

/-! ## Translation -/

@[simp] theorem State.outside_xlInsert (c i : Nat) (e : XlEntry) (die : Bool) :
    (s.xlInsert c i e die).outside false = s.outside false := by simp [State.xlInsert]

@[simp] theorem State.outside_xlate (c : Nat) (ag : XlAgent) (va : DWord) (a : XlAccess) : (s.xlate c ag va a).1.outside false = s.outside false := by
  unfold State.xlate
  dsimp only
  repeat' split
  all_goals simp

@[simp] theorem State.outside_setAD (h : WalkHit) (write : Bool) : (s.setAD h write).1.outside false = s.outside false := by
  unfold State.setAD
  dsimp only
  repeat' split
  all_goals simp

@[simp] theorem State.outside_walk (c : Nat) (ag : XlAgent) (va : DWord) (a : XlAccess) (raced : Bool) :
    (s.walk c ag va a raced).1.outside false = s.outside false := by
  unfold State.walk
  dsimp only
  split
  · rfl
  · split
    · simp
    · simp
    · split
      · simp
      · split
        · simp
        · split
          · simp
          · simp

@[simp] theorem State.outside_postRecord (c : Nat) (ag : XlAgent) (va : DWord) (a : XlAccess) (kind level : Nat) :
    (s.postRecord c ag va a kind level).1.outside false = s.outside false := by
  unfold State.postRecord
  dsimp only
  repeat' split
  all_goals simp

@[simp] theorem State.outside_xlDiscard (cores : List Nat) (part slot lo hi : Nat) :
    (s.xlDiscard cores part slot lo hi).outside false = s.outside false := by
  simp [State.xlDiscard]

/-! ## Fabric -/

@[simp] theorem State.outside_fabRouteLost (die dst : Nat) : (s.fabRouteLost die dst).outside false = s.outside false := by simp [State.fabRouteLost]

theorem State.outside_fabSend {s : State} {m : FabMsg} {part : Nat} {t : State} (h : s.fabSend m part = some t) :
    t.outside false = s.outside false := by
  obtain ⟨r, -, rfl⟩ := Option.map_eq_some_iff.mp h
  simp

@[simp] theorem State.outside_fabReply (m : FabMsg) (part : Nat) : (s.fabReply m part).outside false = s.outside false := by
  unfold State.fabReply
  cases h : s.fabSend m part with
  | none => simp
  | some t => exact State.outside_fabSend h

@[simp] theorem State.outside_fabForward (p : FabPort) (m : FabMsg) : (s.fabForward p m).outside false = s.outside false := by
  unfold State.fabForward
  dsimp only
  repeat' split
  all_goals simp

@[simp] theorem State.outside_fabPass (p : FabPort) (b : List Byte) : (s.fabPass p b).outside false = s.outside false := by
  unfold State.fabPass
  dsimp only
  repeat' split
  all_goals simp

@[simp] theorem State.outside_fabPortFence (p : FabPort) (source : Byte) :
    (s.fabPortFence p source).outside false = s.outside false := by simp [State.fabPortFence]

@[simp] theorem State.outside_sendToken (p : FabPort) : (s.sendToken p).outside false = s.outside false := by simp [State.sendToken]
@[simp] theorem State.outside_sendNodeUp (p : FabPort) : (s.sendNodeUp p).outside false = s.outside false := by simp [State.sendNodeUp]

@[simp] theorem State.outside_versionToken (p : FabPort) (maxVer minVer : Nat) (node : BitVec 14) :
    (s.versionToken p maxVer minVer node).outside false = s.outside false := by simp [State.versionToken]

theorem State.outside_passOn (p : FabPort) {f : State → FabPort → State} (h : ∀ s q, (f s q).outside false = s.outside false) :
    (s.passOn p f).outside false = s.outside false := by
  simp [State.passOn, h]

@[simp] theorem State.outside_routeCommit : (s.routeCommit).outside false = s.outside false := by
  unfold State.routeCommit
  split <;> simp

@[simp] theorem State.outside_serveAtom (p : FabPort) (m : FabMsg) : (s.serveAtom p m).outside false = s.outside false := by
  unfold State.serveAtom
  dsimp only
  split
  · simp
  · split
    · simp
    · split
      · simp
      · split
        · simp
        · split
          · simp
          · rename_i hatom
            simp [(State.outside_poolAtom hatom)]
          · rename_i hatom
            simp [(State.outside_poolAtom hatom)]

@[simp] theorem State.outside_failRemote (tag : Nat) : (s.failRemote tag).outside false = s.outside false := by
  unfold State.failRemote
  repeat' split
  all_goals simp

@[simp] theorem State.outside_askRemote (r : Remote) (part : Nat) (opcode : Byte) (aux : BitVec 22) (data : List Byte) (mask : BitVec 128) (poison : Bool) :
    (s.askRemote r part opcode aux data mask poison).outside false = s.outside false := by
  unfold State.askRemote
  dsimp only
  split
  · simp
  · split
    · rename_i hsend
      simp [State.outside_fabSend hsend]
    · simp

@[simp] theorem State.outside_writeRemote (ag : RemAgent) (part node a : Nat) (bytes : List Byte) (poison : Bool) (chunk : Nat) :
    (s.writeRemote ag part node a bytes poison chunk).outside false = s.outside false := by simp [State.writeRemote]

/-! ## Access -/

@[simp] theorem State.outside_l1Fill (c l : Nat) (d : List Byte) : (s.l1Fill c l d).outside false = s.outside false := by simp [State.l1Fill]

/-- The state that asking another place leaves, whatever comes back. -/
def Got.state : Got → State
  | .waits s | .refused s | .got s _ _ => s

theorem State.outside_waits {r : Got} {t : State} (h : r = .waits t) : t.outside false = r.state.outside false := by rw [h]; rfl
theorem State.outside_refused {r : Got} {t : State} (h : r = .refused t) : t.outside false = r.state.outside false := by rw [h]; rfl
theorem State.outside_got {r : Got} {t : State} {d : List Byte} {p : Bool} (h : r = .got t d p) : t.outside false = r.state.outside false := by
  rw [h]; rfl

@[simp] theorem State.outside_readRemote (ag : RemAgent) (part node a n ix : Nat) :
    (s.readRemote ag part node a n ix).state.outside false = s.outside false := by
  unfold State.readRemote
  split
  · split <;> simp [Got.state]
  · simp [Got.state]
@[simp] theorem State.outside_atomRemote (ag : RemAgent) (part node a ix op width : Nat) (operand compare : BitVec 128) :
    (s.atomRemote ag part node a ix op width operand compare).state.outside false = s.outside false := by
  unfold State.atomRemote
  split
  · split <;> simp [Got.state]
  · simp [Got.state]

/-- A remote value is taken where it has come, else asked for. -/
theorem State.outside_remoteAsked (full : Bool) (found : Option (Nat × Remote)) (g : Got) :
    g.state.outside false = s.outside false → (match found with
      | some (tag, r) =>
        (match r.reply with
        | none => (s, .error .later)
        | some none => ({ s with remotes := s.remotes.del tag }, .error (.error 0x118))
        | some (some _) => (s, .ok ()))
      | none =>
        if full then (s, .error .later)
        else match g with
          | .waits s => (s, .error .later)
          | .refused s => (s, .error (.error 0x118))
          | .got s _ _ => (s, .error .later) : State × Except AccStop Unit).1.outside false = s.outside false := by
  intro hg
  split
  · split <;> simp
  · split
    · rfl
    · cases g with | _ => exact hg
@[simp] theorem State.outside_remoteReady (ag : RemAgent) (part node a n ix : Nat) (op : RemOp) :
    (s.remoteReady ag part node a n ix op).1.outside false = s.outside false := by
  unfold State.remoteReady
  cases op with
  | write => rfl
  | read => exact s.outside_remoteAsked _ _ _ (s.outside_readRemote ag part node a n ix)
  | atom o w x y => exact s.outside_remoteAsked _ _ _ (s.outside_atomRemote ag part node a ix o w x y)

@[simp] theorem State.outside_probe (c : Nat) (ag : XlAgent) (va : DWord) (n : Nat) (a : XlAccess) (op : RemOp) (ix : Nat) :
    (s.probe c ag va n a op ix).1.outside false = s.outside false := by
  unfold State.probe
  dsimp only
  split
  · simp
  · simp
  · split
    · simp
    · split
      · simp
      · split
        · rename_i hready
          simp [State.outside_fst hready]
        · rename_i hready
          simp [State.outside_fst hready]
      · split
        · simp
        · split
          · simp
          · simp

@[simp] theorem State.outside_nextHostTxn : (s.nextHostTxn).outside false = s.outside false := by simp [State.nextHostTxn]

@[simp] theorem State.outside_hostRead (c sub a pbmt n : Nat) (na : Bool) (ext : List Byte) :
    (s.hostRead c sub a pbmt n na ext).1.outside false = s.outside false := by
  unfold State.hostRead
  dsimp only
  repeat' split
  all_goals simp

@[simp] theorem State.outside_hostStore (c sub : Nat) (ag : XlAgent) (a : Nat) (b : List Byte) (poison : Bool) (chunk : Nat) :
    (s.hostStore c sub ag a b poison chunk).outside false = s.outside false := by simp [State.hostStore]

theorem State.outside_baseReadLine (k l die : Nat) (na : Bool) : ((s.baseRead k l na).getD (s.readLine l die)).1.outside false = s.outside false := by
  cases h : s.baseRead k l na with
  | none => simp
  | some r => exact State.outside_baseRead h
@[simp] theorem State.outside_readSpot (c sub : Nat) (ag : XlAgent) (sp : Spot) (n ix : Nat) (l1 na : Bool) (ext : List Byte) :
    (s.readSpot c sub ag sp n ix l1 na ext).1.outside false = s.outside false := by
  unfold State.readSpot
  split
  · simp
  · split
    · rename_i hgot
      simp [State.outside_got hgot]
    · rename_i hgot
      simp [State.outside_waits hgot]
    · rename_i hgot
      simp [State.outside_refused hgot]
  · dsimp only
    split
    · rfl
    · generalize hr : (if _ = 2 then _ else _ : State × List Byte × Bool) = r
      have : r.1.outside false = s.outside false := by
        rw [← hr]
        split <;> simp [State.outside_baseReadLine]
      split <;> simp [this]

theorem State.outside_baseWriteLine (k l : Nat) (mask : BitVec 128) (d : List Byte) (poison : Bool) :
    ((s.baseWrite k l mask d poison).getD (s.writeLine l mask d poison)).outside false = s.outside false := by
  cases h : s.baseWrite k l mask d poison with
  | none => simp
  | some t => exact State.outside_baseWrite h
@[simp] theorem State.outside_writeSpot (c sub : Nat) (ag : XlAgent) (sp : Spot) (b : List Byte) (poison : Bool) (chunk : Nat) :
    (s.writeSpot c sub ag sp b poison chunk).outside false = s.outside false := by
  unfold State.writeSpot
  split
  · simp
  · simp
  · simp [State.outside_baseWriteLine]

@[simp] theorem State.outside_atomSpot (c sub : Nat) (ag : XlAgent) (sp : Spot) (op : AtomOp) (opn width : Nat) (operand compare : BitVec 128) (ix : Nat)
    (ext : List Byte) : (s.atomSpot c sub ag sp op opn width operand compare ix ext).1.outside false = s.outside false := by
  unfold State.atomSpot
  split
  · simp
  · split
    · rename_i hgot
      simp [State.outside_got hgot]
    · rename_i hgot
      simp [State.outside_waits hgot]
    · rename_i hgot
      simp [State.outside_refused hgot]
  · dsimp only
    split
    · rename_i hatom
      simp [State.outside_poolAtom hatom]
    · split <;> simp

@[simp] theorem State.outside_probeAll (c : Nat) (ag : XlAgent) (a : XlAccess) (xs : List (Nat × DWord × Nat × RemOp)) :
    (s.probeAll c ag a xs).1.outside false = s.outside false := by
  refine foldl_keeps (fun acc : State × Except AccStop (List (Nat × DWord × Nat × Spot)) => acc.1.outside false = s.outside false) (fun acc x hacc => ?_) rfl xs
  obtain ⟨t, r⟩ := acc
  dsimp only at hacc ⊢
  split
  · simp [hacc]
  · exact hacc
  · split
    · rename_i hprobe
      simp [State.outside_fst hprobe, hacc]
    · rename_i hprobe
      simp [State.outside_fst hprobe, hacc]

@[simp] theorem State.outside_readSpots (c sub : Nat) (ag : XlAgent) (l1 na : Bool) (ext : List Byte) (ps : List (Nat × DWord × Nat × Spot)) :
    (s.readSpots c sub ag l1 na ext ps).1.outside false = s.outside false :=
  foldl_keeps (fun acc : State × List Byte × Bool × List Byte => acc.1.outside false = s.outside false)
    (fun acc p hacc => (acc.1.outside_readSpot c sub ag p.2.2.2 p.2.2.1 p.1 l1 na acc.2.2.2).trans hacc) rfl ps

@[simp] theorem State.outside_writeSpots (c sub : Nat) (ag : XlAgent) (b : List Byte) (ps : List (Nat × DWord × Nat × Spot)) (poison : Bool) (chunk : Nat) :
    (s.writeSpots c sub ag b ps poison chunk).outside false = s.outside false :=
  foldl_keeps (fun acc : State × List Byte => acc.1.outside false = s.outside false) (fun _ _ hacc => (State.outside_writeSpot _ _ _ _ _ _ _ _).trans hacc) rfl ps

/-! ## Control -/

@[simp] theorem State.outside_ccError (c code : Nat) : (s.ccError c code).outside false = s.outside false := by simp [State.ccError]

@[simp] theorem State.outside_kernelTrap (c cause : Nat) (tval : DWord) :
    (s.kernelTrap c cause tval).outside false = s.outside false := by simp [State.kernelTrap]

@[simp] theorem State.outside_tileError (c : Nat) : (s.tileError c).outside false = s.outside false := by simp [State.tileError]

@[simp] theorem State.outside_ccStop (c : Nat) (ag : XlAgent) (e : AccStop) : (s.ccStop c ag e).outside false = s.outside false := by
  unfold State.ccStop
  split
  · simp
  · split
    · split
      · rename_i hpost
        simp [State.outside_fst hpost]
      · rename_i hpost
        simp [State.outside_fst hpost]
    · simp
  · simp
  · rfl

@[simp] theorem State.outside_iFill (c l : Nat) : (s.iFill c l).outside false = s.outside false := by simp [State.iFill]

@[simp] theorem State.outside_fetchSpots (c sub : Nat) (ag : XlAgent) (ps : List (Nat × DWord × Nat × Spot)) :
    (s.fetchSpots c sub ag ps).1.outside false = s.outside false := by
  refine foldl_keeps (fun acc : State × Bool => acc.1.outside false = s.outside false) (fun acc p hacc => ?_) rfl ps
  obtain ⟨t, bad⟩ := acc
  obtain ⟨ix, va, n, sp⟩ := p
  dsimp only at hacc
  cases sp with simp [hacc]

@[simp] theorem State.outside_fetchAt (c sub : Nat) (ag : XlAgent) (pc : DWord) (n : Nat) :
    (s.fetchAt c sub ag pc n).1.outside false = s.outside false := by
  unfold State.fetchAt
  dsimp only
  split
  · simp
  · split
    · rename_i hprobe
      simp [State.outside_fst hprobe]
    · rename_i hprobe
      simp [State.outside_fst hprobe]

@[simp] theorem State.outside_ccNext (c n : Nat) : (s.ccNext c n).outside false = s.outside false := by simp [State.ccNext]
@[simp] theorem State.outside_ccResult (c n rd : Nat) (v : DWord) : (s.ccResult c n rd v).outside false = s.outside false := by simp [State.ccResult]

@[simp] theorem State.outside_tileDone (c : Nat) (i : TileIns) (n : Nat) (err : Bool) :
    (s.tileDone c i n err).outside false = s.outside false := by simp [State.tileDone]

@[simp] theorem State.outside_ccWait (c tk : Nat) (w : CoreWait) (holds : Core → Bool) (after : Core → Core) :
    (s.ccWait c tk w holds after).outside false = s.outside false := by simp [State.ccWait]

@[simp] theorem State.outside_opWait (c tk rs1 : Nat) : (s.opWait c tk rs1).outside false = s.outside false := by simp [State.opWait]
@[simp] theorem State.outside_opWaitall (c tk : Nat) : (s.opWaitall c tk).outside false = s.outside false := by simp [State.opWaitall]
@[simp] theorem State.outside_opTkclr (c tk : Nat) : (s.opTkclr c tk).outside false = s.outside false := by simp [State.opTkclr]
@[simp] theorem State.outside_opTkdone (c rd tk : Nat) : (s.opTkdone c rd tk).outside false = s.outside false := by simp [State.opTkdone]
@[simp] theorem State.outside_opGrant (c gr rs1 : Nat) : (s.opGrant c gr rs1).outside false = s.outside false := by simp [State.opGrant]
@[simp] theorem State.outside_opGrget (c rd gr : Nat) : (s.opGrget c rd gr).outside false = s.outside false := by simp [State.opGrget]
@[simp] theorem State.outside_opInval (c : Nat) : (s.opInval c).outside false = s.outside false := by simp [State.opInval]
@[simp] theorem State.outside_opEnd (c : Nat) : (s.opEnd c).outside false = s.outside false := by simp [State.opEnd]

@[simp] theorem State.outside_opCvt (c rd rs1 w : Nat) (back : Bool) :
    (s.opCvt c rd rs1 w back).outside false = s.outside false := by simp [State.opCvt]

@[simp] theorem State.outside_tileWord (c : Nat) (custom1 : Bool) (f7 sel rs1 f3 rd : Nat) :
    (s.tileWord c custom1 f7 sel rs1 f3 rd).outside false = s.outside false := by
  unfold State.tileWord
  repeat' split
  all_goals simp

/-- The state that an access of a control core leaves, done or ended. -/
def accState {α : Type} : Except State (State × α) → State
  | .ok r => r.1
  | .error t => t

@[simp] theorem accState_ok {α : Type} (r : State × α) : accState (.ok r) = r.1 := rfl
@[simp] theorem accState_error {α : Type} (t : State) : accState (.error t : Except State (State × α)) = t := rfl
@[simp] theorem accState_ite {α : Type} {c : Prop} [Decidable c] (x y : Except State (State × α)) :
    accState (if c then x else y) = if c then accState x else accState y := apply_ite _ _ _ _

theorem outside_of_ok {α : Type} {r : Except State (State × α)} {t : State} {a : α} (h : r = .ok (t, a)) :
    t.outside false = (accState r).outside false := by
  rw [h, accState_ok]

theorem outside_of_error {α : Type} {r : Except State (State × α)} {t : State} (h : r = .error t) : t.outside false = (accState r).outside false := by
  rw [h, accState_error]

@[simp] theorem State.outside_ccRead (c : Nat) (va : DWord) (n : Nat) (ext : List Byte) :
    (accState (s.ccRead c va n ext)).outside false = s.outside false := by
  unfold State.ccRead
  dsimp only
  split
  · simp
  · split
    · rename_i hprobe
      simp [State.outside_fst hprobe]
    · rename_i hprobe
      simp [State.outside_fst hprobe]

theorem State.outside_ccWrite (c : Nat) (va : DWord) (b : List Byte) :
    (∀ t, s.ccWrite c va b = .ok t → t.outside false = s.outside false) ∧ ∀ t, s.ccWrite c va b = .error t → t.outside false = s.outside false := by
  unfold State.ccWrite
  dsimp only
  split
  · split
    · simp
    · simp
  · split
    · rename_i hprobe
      simp [State.outside_fst hprobe]
    · rename_i hprobe
      simp [State.outside_fst hprobe]

@[simp] theorem State.outside_ccAtomic (c : Nat) (va : DWord) (n : Nat) (op : AtomOp) (opn : Nat) (v : DWord) (ext : List Byte) :
    (accState (s.ccAtomic c va n op opn v ext)).outside false = s.outside false := by
  unfold State.ccAtomic
  dsimp only
  split
  · simp
  · split
    · simp
    · split
      · rename_i hprobe
        simp [State.outside_fst hprobe]
      · rename_i hprobe
        split
        · rename_i hatom
          simp [State.outside_fst hatom, State.outside_fst hprobe]
        · rename_i hatom
          simp [State.outside_fst hatom, State.outside_fst hprobe]

@[simp] theorem State.outside_ccLr (c : Nat) (va : DWord) (n : Nat) (ext : List Byte) :
    (accState (s.ccLr c va n ext)).outside false = s.outside false := by
  unfold State.ccLr
  dsimp only
  split
  · simp
  · split
    · rename_i hread
      simp [outside_of_error hread]
    · rename_i hread
      simp [outside_of_ok hread]

@[simp] theorem State.outside_ccSc (c : Nat) (va : DWord) (b : List Byte) : (accState (s.ccSc c va b)).outside false = s.outside false := by
  unfold State.ccSc
  dsimp only
  split
  · simp
  · split
    · simp
    · split
      · rename_i hprobe
        simp [State.outside_fst hprobe]
      · rename_i hprobe
        simp [State.outside_fst hprobe]

@[simp] theorem State.outside_ccSystem (c f3 rd rs1 imm : Nat) : (s.ccSystem c f3 rd rs1 imm).outside false = s.outside false := by
  unfold State.ccSystem
  dsimp only
  repeat' split
  all_goals simp

@[simp] theorem State.outside_ccAmo (c f5 f3 rd rs1 rs2 : Nat) (ext : List Byte) :
    (s.ccAmo c f5 f3 rd rs1 rs2 ext).outside false = s.outside false := by
  unfold State.ccAmo
  dsimp only
  split
  · simp
  · split
    · split
      · simp
      · split
        · rename_i hlr
          simp [outside_of_error hlr]
        · rename_i hlr
          simp [outside_of_ok hlr]
    · split
      · split
        · rename_i hsc
          simp [outside_of_error hsc]
        · rename_i hsc
          simp [outside_of_ok hsc]
      · split
        · simp
        · split
          · rename_i hatomic
            simp [outside_of_error hatomic]
          · rename_i hatomic
            simp [outside_of_ok hatomic]

@[simp] theorem State.outside_ccJump (c rd n : Nat) (target : DWord) :
    (s.ccJump c rd n target).outside false = s.outside false := by simp [State.ccJump]

@[simp] theorem State.outside_ccExec (c n : Nat) (i : Rv) (ext : List Byte) : (s.ccExec c n i ext).outside false = s.outside false := by
  unfold State.ccExec
  cases i with
  | load =>
    dsimp only
    split
    · rename_i hread
      simp [outside_of_error hread]
    · rename_i hread
      simp [outside_of_ok hread]
  | store =>
    dsimp only
    split
    · rename_i hwrite
      exact (s.outside_ccWrite c _ _).2 _ hwrite
    · rename_i hwrite
      simp [(s.outside_ccWrite c _ _).1 _ hwrite]
  | opImm | op =>
    dsimp only
    split <;> simp
  | _ => simp

/-! ## Array -/

@[simp] theorem State.outside_bumpBy (n : Nat) : (s.bumpBy n).outside false = s.outside false := by simp [State.bumpBy]

@[simp] theorem State.outside_readStages (c : Nat) (i : TileIns) : (s.readStages c i).1.outside false = s.outside false := by
  unfold State.readStages
  dsimp only
  split <;> simp

@[simp] theorem State.outside_mmaUndefined (quart : Bool) (i : TileIns) :
    (s.mmaUndefined quart i).1.outside false = s.outside false := by simp [State.mmaUndefined]

@[simp] theorem State.outside_watchStart (c side : Nat) (bad : Bool) :
    (s.watchStart c side bad).1.outside false = s.outside false := by simp [State.watchStart]

@[simp] theorem State.outside_mma (c : Nat) (i : TileIns) (ecc : List EccHit) (upset second : List (Nat × Word)) :
    (s.mma c i ecc upset second).1.outside false = s.outside false := by
  unfold State.mma
  extract_lets s1 k die quart side sub acc fmt piece qd chained active s2 kd kl rowBytes at_ operandBad remember fail s3
  have hs2 : s2.outside false = s.outside false := by simp [s2, s1]
  have hs3 : s3.outside false = s.outside false := by simp [s3, hs2]
  have hremember : ∀ t, (remember t).outside false = t.outside false := fun t => by simp [remember]
  have hfail : ∀ t code undef, (fail t code undef).1.outside false = t.outside false := fun t code undef => by
    simp only [fail, hremember]
    split <;> simp
  clear_value s2 s3 remember fail
  split
  · rw [hfail, hs2]
  · clear_value operandBad at_ rowBytes kl active
    split
    · rw [hfail, hs2]
    · simp [hfail, hremember, hs2, hs3]
    · split
      · rw [hfail, hs2]
      · split
        rename_i t bad hpan
        have ht : t.outside false = s.outside false := (State.outside_fst hpan).trans (by simp [hs2])
        split
        · rw [hfail, ht]
        · extract_lets s4 s5 fresh outs s6 made nan r
          have hs6 : s6.outside false = s.outside false := by simp [s6, s5, s4, ht]
          clear_value s6
          split
          · simp only [State.outside_ite, hremember, State.outside_leafDetect, ite_self]
            exact (State.outside_bumpBy _ _).trans hs6
          · split
            rename_i hwatch
            have hu := (State.outside_fst hwatch).trans (State.outside_watchStart _ _ _ _)
            split <;> simp [hremember, hu, hs6]

@[simp] theorem State.outside_sload (c : Nat) (i : TileIns) (ecc : List EccHit) : (s.sload c i ecc).1.outside false = s.outside false := by
  unfold State.sload
  dsimp only
  repeat' split
  all_goals simp

@[simp] theorem State.outside_ewise (c : Nat) (i : TileIns) (upset : List (Nat × Word)) : (s.ewise c i upset).1.outside false = s.outside false := by
  unfold State.ewise
  dsimp only
  split <;> simp

@[simp] theorem State.outside_finishTile (c unit : Nat) (r : Running) :
    (s.finishTile c unit r).outside false = s.outside false := by simp [State.finishTile]

@[simp] theorem State.outside_watchFree (c : Nat) (compared : Bool) :
    (s.watchFree c compared).outside false = s.outside false := by simp [State.watchFree]

/-! ## Vector -/

@[simp] theorem State.outside_vecUndefined (k : Core) (i : TileIns) (td : Option Nat) (outs : List (Nat × Nat)) :
    (s.vecUndefined k i td outs).1.outside false = s.outside false := by simp [State.vecUndefined]

@[simp] theorem State.outside_vchain (c : Nat) (i : TileIns) (ecc : List EccHit) : (s.vchain c i ecc).1.outside false = s.outside false := by
  unfold State.vchain
  dsimp only
  simp

@[simp] theorem State.outside_tred (c : Nat) (i : TileIns) (ecc : List EccHit) : (s.tred c i ecc).1.outside false = s.outside false := by
  unfold State.tred
  dsimp only
  repeat' split
  all_goals simp

@[simp] theorem State.outside_tld (c : Nat) (i : TileIns) (ecc : List EccHit) : (s.tld c i ecc).1.outside false = s.outside false := by
  unfold State.tld
  dsimp only
  repeat' split
  all_goals simp

@[simp] theorem State.outside_tcvt (c : Nat) (i : TileIns) (ecc : List EccHit) : (s.tcvt c i ecc).1.outside false = s.outside false := by
  unfold State.tcvt
  dsimp only
  repeat' split
  all_goals simp

@[simp] theorem State.outside_tcupd (c : Nat) (i : TileIns) (ecc : List EccHit) : (s.tcupd c i ecc).1.outside false = s.outside false := by
  unfold State.tcupd
  dsimp only
  repeat' split
  all_goals simp

/-! ## Groups -/

@[simp] theorem State.outside_setGroup (c g : Nat) (x : Group) : (s.setGroup c g x).outside false = s.outside false := by simp [State.setGroup]
@[simp] theorem State.outside_countSwitch (c : Nat) (b : Bool) : (s.countSwitch c b).outside false = s.outside false := by simp [State.countSwitch]

@[simp] theorem State.outside_gIssued (c g : Nat) (w : DWord) (old new : Group) (switched : Bool) :
    (s.gIssued c g w old new switched).outside false = s.outside false := by simp [State.gIssued]

@[simp] theorem State.outside_gNext (c g : Nat) (w : DWord) (old new : Group) :
    (s.gNext c g w old new).outside false = s.outside false := by simp [State.gNext]

@[simp] theorem State.outside_gRecord (c g cause lane : Nat) (pc : DWord) :
    (s.gRecord c g cause lane pc).outside false = s.outside false := by simp [State.gRecord]

@[simp] theorem State.outside_gTrap (c g cause : Nat) (lanes : BitVec 32) (pc : DWord) :
    (s.gTrap c g cause lanes pc).outside false = s.outside false := by simp [State.gTrap]

@[simp] theorem State.outside_gFail (c g code cause : Nat) (lanes : BitVec 32) (pc : DWord) :
    (s.gFail c g code cause lanes pc).outside false = s.outside false := by simp [State.gFail]

@[simp] theorem State.outside_gHold (c g : Nat) (x : Group) (st : PathState) :
    (s.gHold c g x st).outside false = s.outside false := by simp [State.gHold]

@[simp] theorem State.outside_gLater (c g : Nat) (x : Group) : (s.gLater c g x).outside false = s.outside false := by simp [State.gLater]

@[simp] theorem State.outside_gStop (c g : Nat) (x : Group) (p : Path) (lanes : BitVec 32) (ag : XlAgent) (e : AccStop) :
    (s.gStop c g x p lanes ag e).outside false = s.outside false := by
  unfold State.gStop
  split
  · simp
  · split
    · split
      · rename_i hpost
        simp [State.outside_fst hpost]
      · rename_i hpost
        simp [State.outside_fst hpost]
    · simp
  · simp
  · simp

@[simp] theorem State.outside_gSettle (c g : Nat) : (s.gSettle c g).outside false = s.outside false := by simp [State.gSettle]

@[simp] theorem State.outside_gEffects (c g : Nat) (w pc : DWord) (lanes : BitVec 32) (flags : Nat) (made : Nat → Bool) (ops : Nat → List Nat) :
    (s.gEffects c g w pc lanes flags made ops).outside false = s.outside false := by
  unfold State.gEffects
  split <;> simp

theorem State.outside_gMemory (c g : Nat) (gid : GroupId) (w : DWord) (x : Group) (p : Path) (lanes : BitVec 32) (acc : XlAccess) (op : Nat → RemOp)
    {body : State → List (Nat × DWord × Nat × Spot) → State} (h : ∀ s ps, (body s ps).outside false = s.outside false) :
    (s.gMemory c g gid w x p lanes acc op body).outside false = s.outside false := by
  unfold State.gMemory
  dsimp only
  split
  · simp
  · split
    · rename_i hprobe
      simp [State.outside_fst hprobe]
    · rename_i hprobe
      simp [State.outside_fst hprobe, h]

@[simp] theorem State.outside_gLoads (c : Nat) (gid : GroupId) (n : Nat) (x : Group) (w : DWord) (l1 : Bool) (ext : List Byte)
    (ps : List (Nat × DWord × Nat × Spot)) (lanes : List Nat) : (s.gLoads c gid n x w l1 ext ps lanes).1.outside false = s.outside false := by
  refine foldl_keeps (fun acc : State × List (Nat × Nat) × Nat × List Byte => acc.1.outside false = s.outside false) (fun acc l hacc => ?_) rfl lanes
  obtain ⟨t, d, code, ext⟩ := acc
  dsimp only at hacc ⊢
  split
  · simp [hacc]
  · simp [hacc]

@[simp] theorem State.outside_gParked (c g : Nat) (w : DWord) (old new : Group) (p : Path) (lanes : BitVec 32) :
    (s.gParked c g w old new p lanes).outside false = s.outside false := by simp [State.gParked]

@[simp] theorem State.outside_gLeft (c g : Nat) (w : DWord) (old new : Group) (p : Path) (lanes : BitVec 32) :
    (s.gLeft c g w old new p lanes).outside false = s.outside false := by simp [State.gLeft]

@[simp] theorem State.outside_gTile (c : Nat) (w : DWord) (x : Group) (lanes : List Nat) (write : Bool) :
    (s.gTile c w x lanes write).outside false = s.outside false := by simp [State.gTile]

/-! ## Streams -/

@[simp] theorem State.outside_modSlot (c n : Nat) (f : StreamSlot → StreamSlot) :
    (s.modSlot c n f).outside false = s.outside false := by simp [State.modSlot]

@[simp] theorem State.outside_strAbort (c n : Nat) : (s.strAbort c n).outside false = s.outside false := by simp [State.strAbort]

@[simp] theorem State.outside_strEnd (c n code : Nat) : (s.strEnd c n code).outside false = s.outside false := by
  unfold State.strEnd
  dsimp only
  split <;> simp

@[simp] theorem State.outside_dropReads (c n : Nat) : (s.dropReads c n).outside false = s.outside false := by simp [State.dropReads]

@[simp] theorem State.outside_strHold (c n : Nat) (va : DWord) (a : XlAccess) :
    (s.strHold c n va a).outside false = s.outside false := by simp [State.strHold]

@[simp] theorem State.outside_strFault (c : Nat) (n : Fin 16) (kind level : Nat) (va : DWord) (a : XlAccess) :
    (s.strFault c n kind level va a).outside false = s.outside false := by simp [State.strFault]

@[simp] theorem State.outside_strStop (c : Nat) (n : Fin 16) (cursor : List Nat) (e : AccStop) :
    (s.strStop c n cursor e).outside false = s.outside false := by
  unfold State.strStop
  split <;> simp

@[simp] theorem State.outside_strAsk (c : Nat) (n : Fin 16) (pan : Bool) (a : XlAccess) (op : RemOp) (xs : List (Nat × Nat)) (ix : Nat) :
    (s.strAsk c n pan a op xs ix).1.outside false = s.outside false := by
  unfold State.strAsk
  split
  · rfl
  · split
    · rename_i hprobe
      simp [State.outside_fst hprobe]
    · rename_i hprobe
      simp [State.outside_fst hprobe]

@[simp] theorem State.outside_strAsks (c : Nat) (n : Fin 16) (a : XlAccess) (op : RemOp) (xs : List (Bool × Nat × Nat)) :
    (s.strAsks c n a op xs).1.outside false = s.outside false := by
  refine foldl_keeps (fun acc : State × Except AccStop (List (List LineReq)) => acc.1.outside false = s.outside false) (fun acc y hacc => ?_) rfl _
  obtain ⟨t, r⟩ := acc
  dsimp only at hacc ⊢
  split
  · rename_i heq
    cases heq
    split
    · rename_i hask
      simp [State.outside_fst hask, hacc]
    · rename_i hask
      simp [State.outside_fst hask, hacc]
  · rename_i heq
    cases heq
    split
    · rename_i hask
      simp [State.outside_fst hask, hacc]
    · rename_i hask
      simp [State.outside_fst hask, hacc]
  · rename_i heq
    cases heq
    exact hacc

@[simp] theorem State.outside_strFetch (c : Nat) (n : Fin 16) (na : Bool) (ext : List Byte) (xs : List LineReq) :
    (s.strFetch c n na ext xs).1.outside false = s.outside false := by
  refine foldl_keeps (fun acc : State × List (Byte × Bool) × List Byte => acc.1.outside false = s.outside false) (fun acc x hacc => ?_) rfl xs
  dsimp only
  cases x.spot with
  | none => simp [hacc]
  | some sp => simp [hacc]

@[simp] theorem State.outside_strPut (c : Nat) (n : Fin 16) (chunk : Nat) (x : LineReq) (b : List (Byte × Bool)) :
    (s.strPut c n chunk x b).outside false = s.outside false := by
  unfold State.strPut
  split <;> simp

@[simp] theorem State.outside_strRead (c : Nat) (n : Fin 16) (pan na : Bool) (a len : Nat) (ext : List Byte) :
    (s.strRead c n pan na a len ext).1.outside false = s.outside false := by
  unfold State.strRead
  split
  · rename_i hask
    simp [State.outside_fst hask]
  · rename_i hask
    simp [State.outside_fst hask]

@[simp] theorem State.outside_doByte (c n i : Nat) : (s.doByte c n i).outside false = s.outside false := by simp [State.doByte]
@[simp] theorem State.outside_doAt (c n : Nat) (cursor : List Nat) : (s.doAt c n cursor).outside false = s.outside false := by simp [State.doAt]

@[simp] theorem State.outside_strWrite (c : Nat) (n : Fin 16) (pan : Bool) (chunk i0 a : Nat) (b : List (Byte × Bool)) :
    (s.strWrite c n pan chunk i0 a b).1.outside false = s.outside false := by
  refine foldl_keeps (fun acc : State × Except (Nat × AccStop) Unit => acc.1.outside false = s.outside false) (fun acc pc hacc => ?_) rfl _
  obtain ⟨t, r⟩ := acc
  dsimp only at hacc ⊢
  split
  · rename_i heq
    cases heq
    exact hacc
  · rename_i heq
    cases heq
    split
    · rename_i hask
      simp [State.outside_fst hask, hacc]
    · rename_i hask
      simp [State.outside_fst hask, hacc]

@[simp] theorem State.outside_moveRun (c : Nat) (n : Fin 16) (panS panD na : Bool) (chunk : Nat) (src : Option Nat) (da len fuel i : Nat)
    (buf : List (Byte × Bool)) (ext : List Byte) : (s.moveRun c n panS panD na chunk src da len fuel i buf ext).1.outside false = s.outside false := by
  induction fuel generalizing s i buf ext with
  | zero => rfl
  | succ fuel ih =>
    unfold State.moveRun
    dsimp only
    split
    · rfl
    · split
      · rename_i hread
        simp [State.outside_fst hread]
      · rename_i hread
        split
        · rename_i hwrite
          simp [State.outside_fst hwrite, State.outside_fst hread]
        · rename_i hwrite
          simp [ih, State.outside_fst hwrite, State.outside_fst hread]

@[simp] theorem State.outside_sparseGroup (c : Nat) (n : Fin 16) (d : CopyDesc) (r : Nat) (ext : List Byte) :
    (s.sparseGroup c n d r ext).1.outside false = s.outside false := by
  unfold State.sparseGroup
  dsimp only
  split
  · rename_i hread
    simp [State.outside_fst hread]
  · rename_i hread
    split
    · rename_i hwrite
      simp [State.outside_fst hwrite, State.outside_fst hread]
    · rename_i hwrite
      split
      · simp [State.outside_fst hwrite, State.outside_fst hread]
      · refine (foldl_keeps (fun acc : State × List (Byte × Bool) => acc.1.outside false = s.outside false) (fun _ _ hacc => (State.outside_strPut _ _ _ _ _ _).trans hacc) ?_ _)
        split <;> simp [State.outside_fst hwrite, State.outside_fst hread]

@[simp] theorem State.outside_buildMap (c : Nat) (n : Fin 16) (d : CopyDesc) (fuel : Nat) (ext : List Byte) :
    (s.buildMap c n d fuel ext).1.outside false = s.outside false := by
  induction fuel generalizing s ext with
  | zero => rfl
  | succ fuel ih =>
    unfold State.buildMap
    dsimp only
    split
    · rfl
    · split
      · rename_i hread
        simp [State.outside_fst hread]
      · rename_i hread
        simp [ih, State.outside_fst hread]

@[simp] theorem State.outside_copyMark (c : Nat) (n : Fin 16) (d : CopyDesc) (r : Nat) :
    (s.copyMark c n d r).outside false = s.outside false := by simp [State.copyMark]

@[simp] theorem State.outside_copyRuns (c : Nat) (n : Fin 16) (d : CopyDesc) (fuel : Nat) (ext : List Byte) :
    (s.copyRuns c n d fuel ext).outside false = s.outside false := by
  induction fuel generalizing s ext with
  | zero => rfl
  | succ fuel ih =>
    unfold State.copyRuns
    dsimp only
    split
    · simp
    · split
      · rfl
      · split
        · split
          · rename_i hgroup
            simp [State.outside_fst hgroup]
          · rename_i hgroup
            simp [ih, State.outside_fst hgroup]
        · split
          · simp
          · split
            · rename_i hmoved
              rw [State.outside_strStop, State.outside_fst hmoved]
              split <;> simp
            · rename_i hmoved
              rw [ih, State.outside_copyMark, State.outside_fst hmoved]
              split <;> simp

@[simp] theorem State.outside_copyGo (c : Nat) (n : Fin 16) (ext : List Byte) : (s.copyGo c n ext).outside false = s.outside false := by
  unfold State.copyGo
  dsimp only
  split
  · rfl
  · split
    · split
      · rename_i hmap
        simp [State.outside_fst hmap]
      · rename_i hmap
        simp [State.outside_fst hmap]
    · simp

@[simp] theorem State.outside_forgetAsked (c : Nat) (n : Fin 16) : (s.forgetAsked c n).outside false = s.outside false := by simp [State.forgetAsked]

theorem State.outside_strStart {s : State} {c func : Nat} {plan : State → List Byte → TileIns → State × Except (Nat × Nat) (Nat × Nat)}
    (hplan : ∀ s b i, (plan s b i).1.outside false = s.outside false) {r : State × Fin 16} (h : s.strStart c func plan = some r) :
    r.1.outside false = s.outside false := by
  unfold State.strStart at h
  dsimp only at h
  split at h
  · split at h
    · cases h
    · split at h
      · cases h
      · split at h
        · cases h; simp
        · split at h
          · cases h; simp
          · split at h
            · rename_i heq
              cases h
              simp [State.outside_fst heq, hplan]
            · rename_i heq
              cases h
              simp [State.outside_fst heq, hplan]
  · cases h

@[simp] theorem State.outside_planRoute (c : Nat) (d : RouteDesc) (per : Nat) (ok : Bool) (slotBytes : Nat) (out : Bool) :
    (s.planRoute c d per ok slotBytes out).1.outside false = s.outside false := by
  unfold State.planRoute
  split <;> simp

@[simp] theorem State.outside_strAdd (c : Nat) (n : Fin 16) (pan : Bool) (a v ix : Nat) (ext : List Byte) :
    (s.strAdd c n pan a v ix ext).1.outside false = s.outside false := by
  unfold State.strAdd
  dsimp only
  split
  · split <;> simp
  · split
    · rename_i hprobe
      simp [State.outside_fst hprobe]
    · rename_i hprobe
      split
      · rename_i hatom
        simp [State.outside_fst hatom, State.outside_fst hprobe]
      · rename_i hatom
        simp [State.outside_fst hatom, State.outside_fst hprobe]

@[simp] theorem State.outside_routeClaims (c : Nat) (n : Fin 16) (d : RouteDesc) (ps : List Nat) (ext : List Byte) :
    (s.routeClaims c n d ps ext).1.outside false = s.outside false := by
  unfold State.routeClaims
  extract_lets k es one r
  have hone : ∀ s x e cnt, (one s x e cnt).1.outside false = s.outside false := fun s x e cnt => by
    dsimp only [one]
    split
    · rfl
    · split
      · rename_i hadd
        simp [State.outside_fst hadd]
      · rename_i hadd
        simp [State.outside_fst hadd]
  have hr : r.1.outside false = s.outside false := by
    refine foldl_keeps (fun acc : State × Except AccStop Unit => acc.1.outside false = s.outside false) (fun acc e hacc => ?_) rfl es
    obtain ⟨t, v⟩ := acc
    dsimp only at hacc ⊢
    split
    · rename_i heq
      cases heq
      exact hacc
    · rename_i heq
      cases heq
      exact (hone _ _ _ _).trans hacc
  clear_value one r
  split
  · simpa using hr
  · dsimp only at hr ⊢
    split
    · exact (hone _ _ _ _).trans hr
    · exact hr

@[simp] theorem State.outside_routePairs (c : Nat) (n : Fin 16) (d : RouteDesc) (fuel : Nat) (ext : List Byte) :
    (s.routePairs c n d fuel ext).outside false = s.outside false := by
  induction fuel generalizing s ext with
  | zero => rfl
  | succ fuel ih =>
    unfold State.routePairs
    extract_lets t p per
    split
    · simp
    · split
      · rfl
      · split
        rename_i t bad hbad
        have ht : t.outside false = s.outside false := (State.outside_fst hbad).trans (by simp)
        split
        · simp [ht]
        · split
          · rename_i hclaims
            simp [State.outside_fst hclaims, ht]
          · rename_i u v hclaims
            have hu : u.outside false = s.outside false := (State.outside_fst hclaims).trans ((State.outside_routeClaims _ _ _ _ _ _).trans ht)
            extract_lets k x moved
            have hmoved : moved.1.outside false = s.outside false := by
              dsimp only [moved]
              split <;> simp [hu]
            clear_value moved x
            split
            · simpa using hmoved
            · rename_i w ext'
              split
              · rename_i hwrite
                rw [State.outside_strStop, State.outside_fst hwrite]
                simpa using hmoved
              · rename_i hwrite
                rw [ih, State.outside_modSlot, State.outside_fst hwrite]
                simpa using hmoved

@[simp] theorem State.outside_combineRow (c : Nat) (n : Fin 16) (d : RouteDesc) (t : Nat) (used : List (Nat × Bool × Nat)) (e0 : Nat) (ext : List Byte) :
    (s.combineRow c n d t used e0 ext).1.outside false = s.outside false := by
  unfold State.combineRow
  dsimp only
  split
  · rfl
  · split
    · rename_i hask
      simp [State.outside_fst hask]
    · rename_i u rs hask
      have hu : u.outside false = s.outside false := by simp [State.outside_fst hask]
      generalize hr : List.foldl _ (u, ([] : List (List (Byte × Bool))), ext) rs = r
      have hfold : r.1.outside false = s.outside false := by
        rw [← hr]
        exact foldl_keeps (fun acc : State × List (List (Byte × Bool)) × List Byte => acc.1.outside false = s.outside false)
          (fun acc x hacc => (acc.1.outside_strFetch c n false acc.2.2 x).trans hacc) hu rs
      split
      · rename_i hwrite
        simp [State.outside_fst hwrite, hfold]
      · rename_i hwrite
        simp [State.outside_fst hwrite, hfold]

@[simp] theorem State.outside_combineTokens (c : Nat) (n : Fin 16) (d : RouteDesc) (fuel : Nat) (ext : List Byte) :
    (s.combineTokens c n d fuel ext).outside false = s.outside false := by
  induction fuel generalizing s ext with
  | zero => rfl
  | succ fuel ih =>
    unfold State.combineTokens
    dsimp only
    split
    · simp
    · split
      · rfl
      · split
        · rename_i hread
          simp [State.outside_fst hread]
        · rename_i hread
          split
          · simp [State.outside_fst hread]
          · split
            · rename_i hmoved
              rw [State.outside_strStop, State.outside_fst hmoved]
              split <;> simp [State.outside_fst hread]
            · rename_i hmoved
              rw [ih, State.outside_modSlot, State.outside_fst hmoved]
              split <;> simp [State.outside_fst hread]

@[simp] theorem State.outside_arrive (c : Nat) (n : Fin 16) (xs : List Expert) : (s.arrive c n xs).1.outside false = s.outside false := by
  refine foldl_keeps (fun acc : State × Except AccStop Unit => acc.1.outside false = s.outside false) (fun acc x hacc => ?_) rfl xs
  obtain ⟨t, v⟩ := acc
  dsimp only at hacc ⊢
  split
  · rename_i heq
    cases heq
    exact hacc
  · rename_i heq
    cases heq
    split
    · rename_i hadd
      simp [State.outside_fst hadd, hacc]
    · rename_i hadd
      simp [State.outside_fst hadd, hacc]

@[simp] theorem State.outside_strClose (c : Nat) (n : Fin 16) (i : TileIns) : (s.strClose c n i).1.outside false = s.outside false := by
  unfold State.strClose
  dsimp only
  split
  · split <;> simp
  · split
    · rename_i harrive
      rw [State.outside_fst harrive]
      split <;> simp
    · rename_i harrive
      rw [State.outside_panStore, State.outside_fst harrive]
      split <;> simp

/-! ## Collectives -/

@[simp] theorem State.outside_colRecord (q : Nat) : (s.colRecord q).outside false = s.outside false := by
  unfold State.colRecord
  split <;> simp

@[simp] theorem State.outside_modCol (q : Nat) (f : Collective → Collective) : (s.modCol q f).outside false = s.outside false := by
  unfold State.modCol
  split <;> simp

@[simp] theorem State.outside_colState (q st : Nat) : (s.colState q st).outside false = s.outside false := by
  unfold State.colState
  split <;> simp

@[simp] theorem State.outside_colFinish (q st error errNode : Nat) : (s.colFinish q st error errNode).outside false = s.outside false := by
  unfold State.colFinish
  split
  · rfl
  · rename_i c _
    dsimp only
    rw [State.outside_setFld_any, State.outside_setCol, State.outside_update, State.outside_ite, State.outside_signal, ite_self]
    split
    · split
      · rename_i hread
        simp [State.outside_readLocal hread]
      · simp
    · simp

@[simp] theorem State.outside_colNotice (c : Collective) (kind : Nat) (body : List Byte) :
    (s.colNotice c kind body).outside false = s.outside false := by
  refine outside_overList (fun s r => ?_) s _
  split <;> simp

@[simp] theorem State.outside_colFail (q : ColQueue) (st error errNode : Nat) : (s.colFail q st error errNode).outside false = s.outside false := by
  unfold State.colFail
  split <;> simp

@[simp] theorem State.outside_colSend (q : ColQueue) (rank kind chunk : Nat) (data : List Byte) (poison : List Nat) :
    (s.colSend q rank kind chunk data poison).outside false = s.outside false := by
  unfold State.colSend
  repeat' split
  all_goals simp

@[simp] theorem State.outside_colRead (a size n : Nat) : (s.colRead a size n).1.outside false = s.outside false := by
  unfold State.colRead
  dsimp only
  split
  · rename_i hread
    exact State.outside_readLocal hread
  · rfl

@[simp] theorem State.outside_colWrite (q a size : Nat) (es bad : List Nat) : (s.colWrite q a size es bad).outside false = s.outside false := by
  refine outside_overList (fun s pc => ?_) s _
  split <;> simp

@[simp] theorem State.outside_colNans (q e0 : Nat) (rs : List FRes) : (s.colNans q e0 rs).outside false = s.outside false := by
  unfold State.colNans
  split <;> simp

@[simp] theorem State.outside_colMap (q e0 : Nat) (xs : List Nat) (f : Nat → Nat → Nat → FRes) :
    (s.colMap q e0 xs f).1.outside false = s.outside false := by simp [State.colMap]

@[simp] theorem State.outside_colOwn (q : ColQueue) (rank step j : Nat) : (s.colOwn q rank step j).outside false = s.outside false := by
  unfold State.colOwn
  split <;> simp

@[simp] theorem State.outside_colCopy (q : Nat) : (s.colCopy q).outside false = s.outside false := by
  unfold State.colCopy
  split <;> simp

@[simp] theorem State.outside_colRing (q : ColQueue) (c : Collective) (step i : Nat) (ws bad : List Nat) :
    (s.colRing q c step i ws bad).outside false = s.outside false := by simp [State.colRing]

@[simp] theorem State.outside_colBlock (q : ColQueue) (c : Collective) (rank i : Nat) (ws bad : List Nat) :
    (s.colBlock q c rank i ws bad).outside false = s.outside false := by
  unfold State.colBlock
  dsimp only
  split <;> simp

/-- The state that an operation of a dispatch leaves, however it ends. -/
def ColStep.state : ColStep → State
  | .done s _ | .wait s | .fail s _ _ => s

@[simp] theorem ColStep.state_done (s : State) (v : Nat) : (ColStep.done s v).state = s := rfl
@[simp] theorem ColStep.state_wait (s : State) : (ColStep.wait s).state = s := rfl
@[simp] theorem ColStep.state_fail (s : State) (code node : Nat) : (ColStep.fail s code node).state = s := rfl
@[simp] theorem ColStep.state_ite {c : Prop} [Decidable c] (x y : ColStep) : (if c then x else y).state = if c then x.state else y.state :=
  apply_ite _ _ _ _

theorem State.outside_done {r : ColStep} {t : State} {v : Nat} (h : r = .done t v) : t.outside false = r.state.outside false := by rw [h]; rfl
theorem State.outside_wait {r : ColStep} {t : State} (h : r = .wait t) : t.outside false = r.state.outside false := by rw [h]; rfl
theorem State.outside_fail {r : ColStep} {t : State} {code node : Nat} (h : r = .fail t code node) : t.outside false = r.state.outside false := by
  rw [h]; rfl

@[simp] theorem State.outside_colAdd (q : Nat) (c : Collective) (a v ix : Nat) : (s.colAdd q c a v ix).state.outside false = s.outside false := by
  unfold State.colAdd
  split
  · rfl
  · split
    · split
      · rfl
      · rename_i hatom
        exact State.outside_poolAtom hatom
      · rename_i hatom
        exact State.outside_poolAtom hatom
    · rfl
  · split
    · split
      · rfl
      · simp
      · simp
    · simp

@[simp] theorem State.outside_colRow (q : Nat) (c : Collective) (a : Nat) (row : List Byte) (bad : Bool) :
    (s.colRow q c a row bad).state.outside false = s.outside false := by
  unfold State.colRow
  split
  · rfl
  · split
    · rfl
    · split
      · simp
      · refine outside_overList (fun s p => ?_) _ _
        split <;> simp
  · dsimp only
    split <;> simp

@[simp] theorem State.outside_colBatch (q : Nat) (c : Collective) (d : RouteDesc) (ps es : List Nat) :
    (s.colBatch q c d ps es).outside false = s.outside false := by
  refine outside_overList (fun s e => ?_) s _
  split
  · rename_i hadd
    simp [State.outside_done hadd]
  · rename_i hadd
    simp [State.outside_wait hadd]
  · rename_i hadd
    simp [State.outside_fail hadd]

@[simp] theorem State.outside_colClaims (q : Nat) (c : Collective) (d : RouteDesc) (ps : List Nat) :
    (s.colClaims q c d ps).state.outside false = s.outside false := by
  unfold State.colClaims
  extract_lets v one es s1 r
  have hone : ∀ acc x e cnt, (one acc x e cnt).state.outside false = acc.state.outside false := fun acc x e cnt => by
    cases acc with
    | done t w =>
      dsimp only [one]
      split
      · rfl
      · split
        · rename_i hadd
          simp [State.outside_done hadd]
        · simp
    | wait t => rfl
    | fail t code node => rfl
  have hr : r.state.outside false = s.outside false :=
    foldl_keeps (fun acc : ColStep => acc.state.outside false = s.outside false) (fun _ _ hacc => (hone _ _ _ _).trans hacc) (by simp [s1]) es
  clear_value one r
  simp [hone, hr]

@[simp] theorem State.outside_colPairs (q : Nat) (c : Collective) (d : RouteDesc) (ps : List Nat) (fuel : Nat) :
    (s.colPairs q c d ps fuel).state.outside false = s.outside false := by
  induction fuel generalizing s with
  | zero => rfl
  | succ fuel ih =>
    unfold State.colPairs
    split
    · rfl
    · split
      · rfl
      · extract_lets x t src r
        have hr : r.state.outside false = s.outside false := by
          dsimp only [r]
          split
          · rfl
          · split
            · simp
            · split
              · rename_i hread
                simp [State.outside_readLocal hread]
              · rfl
        clear_value r
        cases r with
        | done t v => simpa [ih] using hr
        | wait t => exact hr
        | fail t code node => exact hr

@[simp] theorem State.outside_colDispatch (q : ColQueue) (fuel : Nat) : (s.colDispatch q fuel).outside false = s.outside false := by
  induction fuel generalizing s with
  | zero => rfl
  | succ fuel ih =>
    unfold State.colDispatch
    split
    · rfl
    · extract_lets d stop
      have hstop : ∀ r go, (∀ t, (go t).outside false = t.outside false) → (stop r go).outside false = r.state.outside false := fun r go hgo => by
        cases r with
        | done t v => exact hgo t
        | wait t => rfl
        | fail t code node => exact State.outside_colFail ..
      clear_value stop
      split
      · rw [hstop _ _ fun t => ?_, State.outside_colClaims]
        rw [hstop _ _ fun u => ?_, State.outside_colPairs]
        rw [ih, State.outside_modCol]
      · split
        · split
          · rfl
          · split
            · rw [hstop _ _ fun t => ?_, State.outside_colAdd]
              rw [ih, State.outside_modCol]
            · simp
        · rfl

@[simp] theorem State.outside_colBegin (q : ColQueue) : (s.colBegin q).outside false = s.outside false := by
  unfold State.colBegin
  split
  · rfl
  · dsimp only
    split <;> simp

@[simp] theorem State.outside_colReady (q : ColQueue) (rank : Nat) (f : ColFields) (version : Nat) :
    (s.colReady q rank f version).outside false = s.outside false := by
  unfold State.colReady
  split <;> simp

@[simp] theorem State.outside_colHold (q : ColQueue) (node : Nat) (hold : Bool) : (s.colHold q node hold).outside false = s.outside false := by
  unfold State.colHold
  split <;> simp

@[simp] theorem State.outside_colBad (q code : Nat) (b : List Byte) : (s.colBad q code b).outside false = s.outside false := by simp [State.colBad]

@[simp] theorem State.outside_colStart (q : ColQueue) (b : List Byte) : (s.colStart q b).outside false = s.outside false := by
  unfold State.colStart
  dsimp only
  split <;> simp

@[simp] theorem State.outside_colPoll (q : ColQueue) : (s.colPoll q).outside false = s.outside false := by
  unfold State.colPoll
  dsimp only
  split
  · simp
  · split
    · rfl
    · split
      · simp
      · split
        · rfl
        · rename_i hread
          simp [State.outside_readLocal hread]

@[simp] theorem State.outside_endLostRows : (s.endLostRows).outside false = s.outside false := by
  refine outside_overList (fun s q => ?_) s _
  split <;> simp

@[simp] theorem State.outside_nodeDown (p : FabPort) (node : Nat) : (s.nodeDown p node).outside false = s.outside false := by
  unfold State.nodeDown
  refine (outside_overList (fun s q => ?_) _ _).trans ?_
  · split <;> simp
  · simp [State.outside_passOn]

@[simp] theorem State.outside_colTrip (which : Chan → Bool) : (s.colTrip which).outside false = s.outside false := by
  refine outside_overList (fun s q => ?_) s _
  split <;> simp

@[simp] theorem State.outside_colThrottle (throttled : Chan → Bool) : (s.colThrottle throttled).outside false = s.outside false := by
  refine outside_overList (fun s q => ?_) s _
  split <;> simp

/-! ## HartCsr -/

@[simp] theorem State.outside_modHart (n : Nat) (f : Hart → Hart) : (s.modHart n f).outside false = s.outside false := by simp [State.modHart]

/-! ## Queues -/

theorem State.outside_poolFetch {s t : State} {a n : Nat} (h : s.poolFetch a n = .waits t ∨ ∃ b, s.poolFetch a n = .bytes t b) :
    t.outside false = s.outside false := by
  unfold State.poolFetch at h
  split at h
  · simp at h
  · dsimp only at h
    split at h
    · obtain h | ⟨b, h⟩ := h <;> cases h
      exact State.outside_rangeFree _ _ _ _
    · split at h
      · simp at h
      · split at h
        · simp at h
        · obtain h | ⟨b, h⟩ := h <;> cases h
          rename_i hread
          exact (State.outside_readLocal hread).trans (State.outside_rangeFree _ _ _ _)

theorem State.outside_cmdFetch {s t : State} {p : Nat} {addr : DWord} {n : Nat} {ext b : List Byte} (h : s.cmdFetch p addr n ext = .bytes t b) :
    t.outside false = s.outside false := by
  unfold State.cmdFetch at h
  split at h
  · split at h
    · cases h; rfl
    · cases h
  · exact State.outside_poolFetch (.inr ⟨b, h⟩)

theorem State.outside_readSlot {s t : State} {p : Nat} {k : Sq} {i : Nat} {ext : List Byte}
    (h : s.readSlot p k i ext = .waits t ∨ ∃ b, s.readSlot p k i ext = .bytes t b) : t.outside false = s.outside false := by
  unfold State.readSlot at h
  dsimp only at h
  split at h
  · split at h
    · obtain h | ⟨b, h⟩ := h <;> cases h
      rfl
    · obtain h | ⟨b, h⟩ := h <;> cases h
      rfl
  · exact State.outside_poolFetch h

@[simp] theorem State.outside_fetchSlots (p q : Nat) (ext : List Byte) (i fuel : Nat) :
    (s.fetchSlots p q ext i fuel).outside false = s.outside false := by
  induction fuel generalizing s i with
  | zero => rfl
  | succ fuel ih =>
    unfold State.fetchSlots
    split
    · rfl
    · split
      · rfl
      · split
        · rename_i hread
          exact State.outside_readSlot (.inl hread)
        · simp
        · rename_i hread
          simp [ih, State.outside_readSlot (.inr ⟨_, hread⟩)]

@[simp] theorem State.outside_holdBell (p q tail : Nat) (ext : List Byte) :
    (s.holdBell p q tail ext).outside false = s.outside false := by simp [State.holdBell]

@[simp] theorem State.outside_noQueue (p q : Nat) : (s.noQueue p q).outside false = s.outside false := by simp [State.noQueue]

@[simp] theorem State.outside_sqBell (p q tail : Nat) (ext : List Byte) : (s.sqBell p q tail ext).outside false = s.outside false := by
  unfold State.sqBell
  repeat' split
  all_goals simp

@[simp] theorem State.outside_drainCq (p q fuel : Nat) : (s.drainCq p q fuel).outside false = s.outside false := by
  induction fuel generalizing s with
  | zero => rfl
  | succ fuel ih =>
    unfold State.drainCq
    split
    · rfl
    · split
      · rfl
      · simp [ih]

@[simp] theorem State.outside_cqBell (p q head : Nat) : (s.cqBell p q head).outside false = s.outside false := by
  unfold State.cqBell
  repeat' split
  all_goals simp

@[simp] theorem State.outside_releaseBells (which : Nat → Bool) :
    (s.releaseBells which).outside false = s.outside false := by simp [State.releaseBells]

@[simp] theorem State.outside_bellAt (p off : Nat) (v : Word) : (s.bellAt p off v).outside false = s.outside false := by simp [State.bellAt]

@[simp] theorem State.outside_msiWrite (p v : Nat) (addr : DWord) (value : Word) (mask : Bool) :
    (s.msiWrite p v addr value mask).outside false = s.outside false := by simp [State.msiWrite]

@[simp] theorem State.outside_settleDelete (p q : Nat) : (s.settleDelete p q).outside false = s.outside false := by
  unfold State.settleDelete
  repeat' split
  all_goals simp

@[simp] theorem State.outside_deleteSq (p q : Nat) (cid : Option (BitVec 16)) : (s.deleteSq p q cid).outside false = s.outside false := by
  unfold State.deleteSq
  split <;> simp

@[simp] theorem State.outside_lostReport (p : Nat) : (s.lostReport p).outside false = s.outside false := by simp [State.lostReport]
@[simp] theorem State.outside_fnEnable (p : Nat) (enable : Bool) : (s.fnEnable p enable).outside false = s.outside false := by simp [State.fnEnable]

@[simp] theorem State.outside_countTurn (p q : Nat) : (s.countTurn p q).outside false = s.outside false := by
  unfold State.countTurn
  split <;> simp

theorem State.outside_takeCmd {s : State} {p q op : Nat} {r : State × Slot} (h : s.takeCmd p q op = some r) :
    r.1.outside false = s.outside false := by
  unfold State.takeCmd at h
  split at h
  · cases h
  · dsimp only at h
    split at h
    · split at h
      · cases h
      · split at h
        · cases h; simp
        · cases h
    · cases h

@[simp] theorem State.outside_endCmd (p : PartId) (q : Nat) (c : Slot) (code detail : Nat) :
    (s.endCmd p q c code detail).outside false = s.outside false := by simp [State.endCmd]

@[simp] theorem State.outside_partRuns (p : Nat) : (s.partRuns p).outside false = s.outside false := by simp [State.partRuns]

@[simp] theorem State.outside_resumePart (p q : Nat) (cid : BitVec 16) :
    (s.resumePart p q cid).outside false = s.outside false := by simp [State.resumePart]

/-! ## HartMem -/

/-- The state that an access of a hart leaves, whatever it answers. -/
def HRes.state {α : Type} : HRes α → State
  | .ok s _ | .wait s | .trap s _ => s

section
variable {α β : Type}

@[simp] theorem HRes.outside_ok (s : State) (a : α) : (HRes.ok s a).state.outside false = s.outside false := State.outside_of_fields rfl rfl rfl
@[simp] theorem HRes.outside_wait (s : State) : (HRes.wait s : HRes α).state.outside false = s.outside false := State.outside_of_fields rfl rfl rfl
@[simp] theorem HRes.outside_trap (s : State) (t : HTrap) : (HRes.trap s t : HRes α).state.outside false = s.outside false :=
  State.outside_of_fields rfl rfl rfl
@[simp] theorem HRes.state_ite {c : Prop} [Decidable c] (x y : HRes α) : (if c then x else y).state = if c then x.state else y.state :=
  apply_ite _ _ _ _

@[simp] theorem HRes.outside_bind {f : State → α → HRes β} (h : ∀ s a, (f s a).state.outside false = s.outside false) (r : HRes α) :
    (r.bind f).state.outside false = r.state.outside false := by
  cases r with
  | ok s a => exact h s a
  | wait s => rfl
  | trap s t => rfl

theorem State.outside_ok {r : HRes α} {t : State} {a : α} (h : r = .ok t a) : t.outside false = r.state.outside false := by rw [h]; rfl
theorem State.outside_waiting {r : HRes α} {t : State} (h : r = .wait t) : t.outside false = r.state.outside false := by rw [h]; rfl
theorem State.outside_trap {r : HRes α} {t : State} {e : HTrap} (h : r = .trap t e) : t.outside false = r.state.outside false := by rw [h]; rfl

end

theorem outside_hWalk {phys : State → Nat → HRes Nat} (hphys : ∀ s x, (phys s x).state.outside false = s.outside false) (h : Hart) (part : Option Nat)
    (pbmte : Bool) (top : Nat) (wide : Bool) (va : Nat) (pf af : HTrap) (fuel : Nat) (s : State) (level table : Nat) :
    (hWalk h part pbmte top wide va phys pf af fuel s level table).state.outside false = s.outside false := by
  induction fuel generalizing s level table with
  | zero => rfl
  | succ fuel ih =>
    unfold hWalk
    dsimp only
    refine (HRes.outside_bind (fun t pa => ?_) _).trans (hphys _ _)
    split
    · rfl
    · split
      · rfl
      · simp [ih]

@[simp] theorem State.outside_hAD (a : HAcc) (p : DWord) (pf : HTrap) : (s.hAD a p pf).state.outside false = s.outside false := by
  simp [State.hAD]

@[simp] theorem State.outside_hGuest (h : Hart) (part : Option Nat) (a : HAcc) (va : DWord) (gpa : Nat) :
    (s.hGuest h part a va gpa).state.outside false = s.outside false := by
  unfold State.hGuest
  dsimp only
  split
  · rfl
  · split
    · rfl
    · refine (HRes.outside_bind (fun t x => ?_) _).trans (outside_hWalk (fun _ _ => rfl) ..)
      split
      · rfl
      · simp

@[simp] theorem State.outside_hTranslate (h : Hart) (part : Option Nat) (a : HAcc) (va : DWord) :
    (s.hTranslate h part a va).state.outside false = s.outside false := by
  unfold State.hTranslate
  extract_lets v root va pf af st env mode last top phys
  have hlast : ∀ t x, (last t x).state.outside false = t.outside false := fun t x => by
    unfold last
    simp
  have hphys : ∀ t x, (phys t x).state.outside false = t.outside false := fun t x => by
    unfold phys
    simp
  clear_value last phys
  split
  · rfl
  · split
    · exact hlast _ _
    · split
      · rfl
      · refine (HRes.outside_bind (fun t x => ?_) _).trans (outside_hWalk hphys ..)
        obtain ⟨p, level⟩ := x
        dsimp only
        split
        · rfl
        · simp [hlast]

@[simp] theorem State.outside_hError {α : Type} (n : Nat) (va : DWord) (code : Nat) :
    (s.hError n va code : HRes α).state.outside false = s.outside false := by
  simp [State.hError]

@[simp] theorem State.outside_hPoison {α : Type} (n : Nat) (va : DWord) : (s.hPoison n va : HRes α).state.outside false = s.outside false := by
  simp [State.hPoison]

@[simp] theorem State.outside_hostLineReady (n l : Nat) (own : Bool) : (s.hostLineReady n l own).state.outside false = s.outside false := by
  simp [State.hostLineReady]

@[simp] theorem State.outside_hostNcReady (n part a size : Nat) : (s.hostNcReady n part a size).state.outside false = s.outside false := by
  unfold State.hostNcReady
  dsimp only
  split
  · simp
  · split <;> simp

@[simp] theorem State.outside_hProbe (n : Nat) (a : HAcc) (va : DWord) (size ix : Nat) (op : RemOp) :
    (s.hProbe n a va size ix op).state.outside false = s.outside false := by
  unfold State.hProbe
  dsimp only
  refine (HRes.outside_bind (fun t x => ?_) _).trans (s.outside_hTranslate _ _ _ _)
  split
  · rfl
  · split
    · simp
    · split
      · rfl
      · split
        · rfl
        · split
          · rename_i hready
            simp [State.outside_fst hready]
          · rename_i hready
            simp [State.outside_fst hready]
          · rename_i hready
            simp [State.outside_fst hready]
          · rename_i hready
            simp [State.outside_fst hready]
        · split
          · simp
          · split
            · simp
            · rfl

@[simp] theorem State.outside_hProbes (n : Nat) (a : HAcc) (va : DWord) (size ix : Nat) (op : RemOp) :
    (s.hProbes n a va size ix op).state.outside false = s.outside false := by
  unfold State.hProbes
  split
  · rfl
  · exact foldl_keeps (fun acc : HRes (List (Nat × DWord × Nat × HSpot)) => acc.state.outside false = s.outside false)
      (fun acc p hacc => (HRes.outside_bind (fun t l => by simp) acc).trans hacc) rfl _

@[simp] theorem State.outside_regWrite (a : Nat) (v : Word) : (s.regWrite a v).outside false = s.outside false := by
  unfold State.regWrite
  split
  · simp
  · split
    · dsimp only
      split
      · split
        · rename_i habort
          exact (outside_gate (by simp) habort).trans (by simp)
        · simp
      · split
        · rename_i harm
          exact (outside_gate (by simp) harm).trans (by simp)
        · simp
    · simp
    · split
      · dsimp only
        split
        · simp
        · simp
      · simp

@[simp] theorem State.outside_hRead (n : Nat) (va : DWord) (sp : HSpot) (size ix : Nat) :
    (s.hRead n va sp size ix).state.outside false = s.outside false := by
  unfold State.hRead
  dsimp only
  split
  · simp
  · split
    · split
      · rfl
      · rename_i hread
        have hl2 := State.outside_l2Read hread
        split <;> simpa using hl2
    · split <;> simp
  · split
    · split <;> simp
    · rfl
  · split
    · split <;> simp
    · rfl
  · split
    · rename_i hgot
      split <;> simp [State.outside_got hgot]
    · rename_i hgot
      simp [State.outside_waits hgot]
    · rename_i hgot
      simp [State.outside_refused hgot]

@[simp] theorem State.outside_endResv (n l : Nat) : (s.endResv n l).outside false = s.outside false := by simp [State.endResv]

@[simp] theorem State.outside_l2Store (n l off : Nat) (b : List Byte) : (s.l2Store n l off b).outside false = s.outside false := by
  unfold State.l2Store
  dsimp only
  split <;> simp

@[simp] theorem State.outside_hWrite (n : Nat) (sp : HSpot) (b : List Byte) : (s.hWrite n sp b).state.outside false = s.outside false := by
  unfold State.hWrite
  dsimp only
  split
  · simp
  · split
    · split
      · rfl
      · rename_i hown
        simpa using State.outside_l2Own hown
    · simp
  · simp
  · split <;> simp
  · simp

@[simp] theorem State.outside_l1Take (n : Nat) (fetch : Bool) (sp : HSpot) : (s.l1Take n fetch sp).outside false = s.outside false := by
  unfold State.l1Take
  split <;> simp

@[simp] theorem State.outside_hReads (n : Nat) (ps : List (Nat × DWord × Nat × HSpot)) (fetch : Bool) :
    (s.hReads n ps fetch).state.outside false = s.outside false :=
  foldl_keeps (fun acc : HRes (List Byte) => acc.state.outside false = s.outside false)
    (fun acc p hacc => (HRes.outside_bind (fun t d => by simp) acc).trans hacc) rfl ps

@[simp] theorem State.outside_hWrites (n : Nat) (ps : List (Nat × DWord × Nat × HSpot)) (b : List Byte) :
    (s.hWrites n ps b).state.outside false = s.outside false :=
  (HRes.outside_bind (fun _ _ => rfl) _).trans (foldl_keeps (fun acc : HRes (List Byte) => acc.state.outside false = s.outside false)
    (fun acc p hacc => (HRes.outside_bind (fun t d => by simp) acc).trans hacc) rfl ps)

@[simp] theorem State.outside_hLoad (n : Nat) (a : HAcc) (va : DWord) (size ix : Nat) :
    (s.hLoad n a va size ix).state.outside false = s.outside false := by
  simp [State.hLoad]

@[simp] theorem State.outside_hFetch (n : Nat) (va : DWord) (size : Nat) : (s.hFetch n va size).state.outside false = s.outside false := by
  simp [State.hFetch]

@[simp] theorem State.outside_hStore (n : Nat) (a : HAcc) (va : DWord) (b : List Byte) :
    (s.hStore n a va b).state.outside false = s.outside false := by
  simp [State.hStore]

@[simp] theorem State.outside_hAmo (n : Nat) (va : DWord) (size : Nat) (op : AtomOp) (opn v cmp : Nat) (ext : List Byte) :
    (s.hAmo n va size op opn v cmp ext).state.outside false = s.outside false := by
  unfold State.hAmo
  extract_lets h a c w x y inL2
  split
  · rfl
  · refine (HRes.outside_bind (fun t sp => ?_) _).trans (s.outside_hProbe _ _ _ _ _ _)
    have hinL2 : ∀ t l off, (inL2 t l off).state.outside false = t.outside false := fun t l off => by
      unfold inL2
      split
      · rfl
      · split <;> simp
    clear_value inL2
    split
    · simp
    · split
      · exact hinL2 _ _ _
      · split
        · split
          · rfl
          · rename_i hown
            exact (hinL2 _ _ _).trans (State.outside_l2Own hown)
        · split
          · rfl
          · rename_i hatom
            simp [State.outside_poolAtom hatom]
          · rename_i hatom
            exact State.outside_poolAtom hatom
    · split
      · exact hinL2 _ _ _
      · split
        · simp [hinL2]
        · simp
    · split
      · rename_i hgot
        split <;> simp [State.outside_got hgot]
      · rename_i hgot
        simp [State.outside_waits hgot]
      · rename_i hgot
        simp [State.outside_refused hgot]

@[simp] theorem State.outside_hLr (n : Nat) (va : DWord) (size : Nat) : (s.hLr n va size).state.outside false = s.outside false := by
  unfold State.hLr
  extract_lets h a b take
  split
  · rfl
  · refine (HRes.outside_bind (fun t sp => ?_) _).trans (s.outside_hProbe _ _ _ _ _ _)
    have htake : ∀ t l off, (take t l off).state.outside false = t.outside false := fun t l off => by
      unfold take
      split
      · rfl
      · split <;> simp
    clear_value take
    split
    · split
      · rfl
      · rename_i hown
        exact (htake _ _ _).trans (State.outside_l2Own hown)
    · simp [htake]
    · rfl

@[simp] theorem State.outside_hSc (n : Nat) (va : DWord) (b : List Byte) : (s.hSc n va b).state.outside false = s.outside false := by
  unfold State.hSc
  dsimp only
  split
  · rfl
  · split
    · simp
    · refine (HRes.outside_bind (fun t sp => ?_) _).trans (s.outside_hProbe _ _ _ _ _ _)
      split
      · split
        · simp
        · split
          · rfl
          · rename_i hown
            simpa using State.outside_l2Own hown
      · split
        · simp
        · simp
      · simp

@[simp] theorem State.outside_flushLine (l : Nat) : (s.flushLine l).outside false = s.outside false := by simp [State.flushLine]

@[simp] theorem State.outside_hZero (n : Nat) (line : DWord) : (s.hZero n line).state.outside false = s.outside false := by
  unfold State.hZero
  dsimp only
  refine (HRes.outside_bind (fun t x => ?_) _).trans (s.outside_hTranslate _ _ _ _)
  split
  · split <;> simp
  · refine (HRes.outside_bind (fun u sp => ?_) _).trans (t.outside_hProbe _ _ _ _ _ _)
    split <;> simp

@[simp] theorem HRes.outside_asStore {α : Type} (r : HRes α) : r.asStore.state.outside false = r.state.outside false := by
  cases r with | _ => rfl

@[simp] theorem State.outside_hCbo (n kind : Nat) (va : DWord) : (s.hCbo n kind va).state.outside false = s.outside false := by
  unfold State.hCbo
  extract_lets h line act
  have hact : ∀ t l, (act t l).state.outside false = t.outside false := fun t l => by
    unfold act
    split
    · rw [HRes.outside_ok]
      split <;> simp
    · simp
  clear_value act
  split
  · simp
  · refine (HRes.outside_bind (fun t x => ?_) _).trans ((HRes.outside_asStore _).trans (s.outside_hTranslate _ _ _ _))
    split
    · exact hact _ _
    · split
      · rfl
      · split
        · split
          · exact hact _ _
          · rfl
        · rfl
        · rfl

/-! ## Launch -/

theorem State.outside_virtTarget {s : State} {p slot : Nat} {d : AsDesc} {va : DWord} {r : State × XlTarget} (h : s.virtTarget p slot d va = some r) :
    r.1.outside false = s.outside false := by
  unfold State.virtTarget at h
  split at h
  · cases h
  · split at h
    · cases h
    · split at h
      · cases h
      · dsimp only at h
        split at h
        · cases h; simp
        · cases h

theorem State.outside_readVirtPiece {s t : State} {p slot : Nat} {d : AsDesc} {va : DWord} {n : Nat} {ext : List Byte} {x : List Byte × List Byte}
    (h : s.readVirtPiece p slot d va n ext = some (t, x)) : t.outside false = s.outside false := by
  unfold State.readVirtPiece at h
  split at h
  · cases h
  · rename_i htarget
    split at h
    · split at h
      · cases h
        exact State.outside_virtTarget htarget
      · cases h
    · split at h
      · rename_i hread
        cases h
        exact (State.outside_readLocal hread).trans (State.outside_virtTarget htarget)
      · cases h
    · cases h

theorem State.outside_readVirt {s : State} {p slot : Nat} {d : AsDesc} {va : DWord} {n : Nat} {ext : List Byte} {r : State × List Byte}
    (h : s.readVirt p slot d va n ext = some r) : r.1.outside false = s.outside false := by
  obtain ⟨⟨t, b, rest⟩, hfold, rfl⟩ := Option.map_eq_some_iff.mp h
  refine foldl_keeps (fun acc => ∀ t x, acc = some (t, x) → t.outside false = s.outside false) (fun acc pc hacc t x hstep => ?_)
    (fun t x heq => by cases heq; rfl) _ t (b, rest) hfold
  split at hstep
  · cases hstep
  · split at hstep
    · cases hstep
    · rename_i hpiece
      cases hstep
      exact (State.outside_readVirtPiece hpiece).trans (hacc _ _ rfl)

@[simp] theorem State.outside_badLaunch (l : Launch) : (s.badLaunch l).outside false = s.outside false := by simp [State.badLaunch]

@[simp] theorem State.outside_enterCore (l : Launch) (n c pos : Nat) : (s.enterCore l n c pos).outside false = s.outside false := by
  exact (outside_overList (fun s o => s.outside_wr_any _ _ _) _ _).trans (s.outside_setCore _ _)

/-! ## Resets -/

@[simp] theorem State.outside_programCore (c : Nat) : (s.programCore c).outside false = s.outside false := by
  unfold State.programCore
  split <;> simp

@[simp] theorem State.outside_resetCore (c : Nat) : (s.resetCore c).outside false = s.outside false := by simp [State.resetCore]
@[simp] theorem State.outside_emptyHome (d : Nat) : (s.emptyHome d).outside false = s.outside false := by simp [State.emptyHome]
@[simp] theorem State.outside_clearHome (d : Nat) : (s.clearHome d).outside false = s.outside false := by simp [State.clearHome]

@[simp] theorem State.outside_startDie (d : Nat) : (s.startDie d).outside false = s.outside false := by
  unfold State.startDie
  split <;> simp

@[simp] theorem State.outside_beginDie (d : Nat) : (s.beginDie d).outside false = s.outside false := by simp [State.beginDie]

@[simp] theorem State.outside_endReset (x : Nat × Nat × Nat × BitVec 16) (code : Nat) :
    (s.endReset x code).outside false = s.outside false := by simp [State.endReset]

@[simp] theorem State.outside_endResets (mine : Nat → Bool) (code : Nat) :
    (s.endResets mine code).outside false = s.outside false := by simp [State.endResets]

@[simp] theorem State.outside_enterChecked (d : Nat) : (s.enterChecked d).outside false = s.outside false := by simp [State.enterChecked]

@[simp] theorem State.outside_finishDie (d : Nat) : (s.finishDie d).outside false = s.outside false := by
  unfold State.finishDie
  split <;> simp

@[simp] theorem State.outside_askDie (d : Nat) (x : Nat × Nat × Nat × BitVec 16) :
    (s.askDie d x).outside false = s.outside false := by simp [State.askDie]

@[simp] theorem State.outside_abortCmds (p code : Nat) : (s.abortCmds p code).outside false = s.outside false := by
  unfold State.abortCmds
  refine (outside_overList (fun s q => ?_) _ _).trans ?_
  · split <;> simp
  · simp

@[simp] theorem State.outside_abortCols (p code : Nat) : (s.abortCols p code).outside false = s.outside false := by
  refine outside_overList (fun s q => ?_) s _
  split <;> simp

@[simp] theorem State.outside_haltHarts (p : Nat) : (s.haltHarts p).outside false = s.outside false := by simp [State.haltHarts]
@[simp] theorem State.outside_startPartReset (p : Nat) : (s.startPartReset p).outside false = s.outside false := by simp [State.startPartReset]
@[simp] theorem State.outside_askPartReset (p : Nat) : (s.askPartReset p).outside false = s.outside false := by simp [State.askPartReset]

@[simp] theorem State.outside_flushResults (p q : Nat) : (s.flushResults p q).outside false = s.outside false := by
  unfold State.flushResults
  split <;> simp

@[simp] theorem State.outside_resetQueues (p : Nat) : (s.resetQueues p).outside false = s.outside false := by simp [State.resetQueues]
@[simp] theorem State.outside_resetPorts (p : Nat) : (s.resetPorts p).outside false = s.outside false := by simp [State.resetPorts]
@[simp] theorem State.outside_finishPartReset (p : Nat) : (s.finishPartReset p).outside false = s.outside false := by simp [State.finishPartReset]

@[simp] theorem State.outside_enterQuiet (p : Nat) : (s.enterQuiet p).outside false = s.outside false := by
  unfold State.enterQuiet
  dsimp only
  split <;> simp

@[simp] theorem State.outside_fnReset (p : Nat) : (s.fnReset p).outside false = s.outside false := by simp [State.fnReset]

/-! ## Bringup -/

@[simp] theorem State.outside_loadAlone (die95 : Bool) : (s.loadAlone die95).outside false = s.outside false := by simp [State.loadAlone]
@[simp] theorem State.outside_fencedOut : (s.fencedOut).outside false = s.outside false := by simp [State.fencedOut]

@[simp] theorem State.outside_applyFences : (s.applyFences).outside false = s.outside false := by
  refine outside_overList (fun s e => ?_) s _
  split <;> simp

@[simp] theorem State.outside_program (f : Floorplan) : (s.program f).outside false = s.outside false := by
  unfold State.program
  extract_lets s1 s2 s3 s4 s5 s6
  have hrev : s2.outside false = s1.outside false := outside_overList (fun s d => by
    dsimp only
    split <;> simp) _ _
  have hs5 : s5.outside false = s.outside false := by simp [s5, s4, s3, hrev, s1]
  clear_value s5
  have hs6 : s6.outside false = s.outside false := by
    dsimp only [s6]
    split <;> simp [hs5]
  clear_value s6
  simp [hs6]

@[simp] theorem State.outside_setDigest (img : List Byte) : (s.setDigest img).outside false = s.outside false := by simp [State.setDigest]

@[simp] theorem State.outside_loaded (l : Loaded) (img : List Byte) (source seq : Nat) :
    (s.loaded l img source seq).outside false = s.outside false := by simp [State.loaded]

@[simp] theorem State.outside_loadFailed (e : FlpErr) (die : Option Nat) : (s.loadFailed e die).outside false = s.outside false := by
  unfold State.loadFailed
  split <;> simp

@[simp] theorem State.outside_trySlots (agreesA agreesB : Bool) (l : List Nat) : (s.trySlots agreesA agreesB l).outside false = s.outside false := by
  induction l generalizing s with
  | nil => simp [State.trySlots]
  | cons a rest ih =>
    unfold State.trySlots
    dsimp only
    split
    · simp
    · simp [ih]

@[simp] theorem State.outside_enterLevel (n : Nat) : (s.enterLevel n).outside false = s.outside false := by simp [State.enterLevel]

@[simp] theorem State.outside_deltaSections (f g : Floorplan) : (s.deltaSections f g).outside false = s.outside false := by
  unfold State.deltaSections
  refine (outside_overList (fun s c => ?_) _ _).trans ?_
  · split <;> simp
  · simp

@[simp] theorem State.outside_applyDelta (p q : Nat) (cid : BitVec 16) (img : List Byte) (n : Nat) (verified : Bool) :
    (s.applyDelta p q cid img n verified).outside false = s.outside false := by
  unfold State.applyDelta
  dsimp only
  repeat' split
  all_goals simp

@[simp] theorem State.outside_endDelta (d : DeltaRun) (verified : Bool) :
    (s.endDelta d verified).outside false = s.outside false := by simp [State.endDelta]

/-! ## Companion -/

@[simp] theorem State.outside_fnWrite (p off : Nat) (v : Word) : (s.fnWrite p off v).outside false = s.outside false := by
  unfold State.fnWrite
  repeat' split
  all_goals simp

@[simp] theorem State.outside_csrStore (a : Nat) (v : Word) : (s.csrStore a v).outside false = s.outside false := by
  unfold State.csrStore
  split <;> simp

theorem outside_wordWrites {f : State → Nat → Word → State} (h : ∀ s a v, (f s a v).outside false = s.outside false) (a : Nat) (b : List Byte) :
    (wordWrites s a b f).outside false = s.outside false := by
  simp [wordWrites, h]

@[simp] theorem State.outside_ncWrite (p : JxlPort) (m : LinkMsg) : (s.ncWrite p m).1.outside false = s.outside false := by
  unfold State.ncWrite
  dsimp only
  split
  · simp
  · simp [outside_wordWrites]
  · simp [outside_wordWrites]
  · split <;> simp

@[simp] theorem outside_ncDrain (p : JxlPort) (l : List LinkMsg) : (ncDrain p l s).1.outside false = s.outside false := by
  induction l generalizing s with
  | nil => rfl
  | cons m r ih =>
    unfold ncDrain
    dsimp only
    split
    · simp [ih]
    · simp

/-! ## Hallway -/

@[simp] theorem State.outside_ackSender (p : HalPort) (pkt : Packet) : (s.ackSender p pkt).outside false = s.outside false := by
  unfold State.ackSender
  split <;> simp

@[simp] theorem State.outside_takePacket (p : HalPort) (pkt : Packet) :
    (s.takePacket p pkt).outside false = s.outside false := by simp [State.takePacket]

@[simp] theorem State.outside_attemptFails (p : HalPort) : (s.attemptFails p).outside false = s.outside false := by simp [State.attemptFails]

@[simp] theorem State.outside_confirmRound (p : HalPort) : (s.confirmRound p).outside false = s.outside false := by
  unfold State.confirmRound
  dsimp only
  split <;> simp

@[simp] theorem State.outside_takeMask (p : HalPort) (width : Nat) (mask : BitVec 66) :
    (s.takeMask p width mask).outside false = s.outside false := by simp [State.takeMask]

@[simp] theorem State.outside_takeToken (p : HalPort) (t : BitVec 128) :
    (s.takeToken p t).outside false = s.outside false := by simp [State.takeToken]

/-! ## Hart -/

@[simp] theorem State.outside_hNext (m n : Nat) : (s.hNext m n).state.outside false = s.outside false := by simp [State.hNext]

@[simp] theorem State.outside_hResult (m n rd : Nat) (v : DWord) :
    (s.hResult m n rd v).state.outside false = s.outside false := by simp [State.hResult]

@[simp] theorem State.outside_hIllegal (w : Nat) : (s.hIllegal w).state.outside false = s.outside false := by simp [State.hIllegal]
@[simp] theorem State.outside_hVirtual (w : Nat) : (s.hVirtual w).state.outside false = s.outside false := by simp [State.hVirtual]
@[simp] theorem State.outside_hForbid (h : Hart) (w : Nat) : (s.hForbid h w).state.outside false = s.outside false := by simp [State.hForbid]
@[simp] theorem State.outside_hNan (elem : Nat) : (s.hNan elem).state.outside false = s.outside false := by simp [State.hNan]

@[simp] theorem State.outside_hFp (m n w : Nat) : (s.hFp m n w).state.outside false = s.outside false := by
  unfold State.hFp
  dsimp only
  split
  · simp
  · split <;> simp

@[simp] theorem State.outside_hFpLoad (m n w : Nat) : (s.hFpLoad m n w).state.outside false = s.outside false := by simp [State.hFpLoad]
@[simp] theorem State.outside_hFpStore (m n w : Nat) : (s.hFpStore m n w).state.outside false = s.outside false := by simp [State.hFpStore]

@[simp] theorem State.outside_hVset (m n w : Nat) : (s.hVset m n w).state.outside false = s.outside false := by
  unfold State.hVset
  dsimp only
  split
  · simp
  · simp

@[simp] theorem State.outside_vProbes (m : Nat) (a : HAcc) (ff : Bool) (es : List (DWord × Nat × Nat × Nat)) :
    (s.vProbes m a ff es).state.outside false = s.outside false := by
  refine foldl_keeps (fun acc : HRes (List ((DWord × Nat × Nat × Nat) × List (Nat × DWord × Nat × HSpot)) × Bool) => acc.state.outside false = s.outside false)
    (fun acc e hacc => (HRes.outside_bind (fun t x => ?_) acc).trans hacc) rfl _
  dsimp only
  split
  · rfl
  · split
    · rename_i hprobe
      simp [State.outside_ok hprobe]
    · rename_i hprobe
      simp [State.outside_waiting hprobe]
    · rename_i hprobe
      split
      · rfl
      · simp [State.outside_trap hprobe]

@[simp] theorem State.outside_hVecMem (m n w : Nat) (store : Bool) : (s.hVecMem m n w store).state.outside false = s.outside false := by
  unfold State.hVecMem
  dsimp only
  split
  · simp
  · split
    · simp
    · refine (HRes.outside_bind (fun t x => ?_) _).trans (s.outside_vProbes _ _ _ _)
      refine (HRes.outside_bind (fun u _ => by simp) _).trans ?_
      exact foldl_keeps (fun acc : HRes Unit => acc.state.outside false = t.outside false)
        (fun acc y hacc => (HRes.outside_bind (fun u _ => by simp) acc).trans hacc) rfl _

@[simp] theorem State.outside_hVecOp (m n w : Nat) : (s.hVecOp m n w).state.outside false = s.outside false := by
  unfold State.hVecOp
  dsimp only
  split
  · simp
  · split
    · simp
    · split
      · simp
      · split <;> simp

@[simp] theorem State.outside_hCsr (m n w f3 rd rs1 num : Nat) : (s.hCsr m n w f3 rd rs1 num).state.outside false = s.outside false := by
  unfold State.hCsr
  dsimp only
  split
  · simp
  · split
    · simp
    · split
      · simp
      · split <;> simp

@[simp] theorem State.outside_hVirtMem (m n w : Nat) : (s.hVirtMem m n w).state.outside false = s.outside false := by
  simp [State.hVirtMem]

@[simp] theorem State.outside_hSystem (m n w f3 rd rs1 imm : Nat) : (s.hSystem m n w f3 rd rs1 imm).state.outside false = s.outside false := by
  unfold State.hSystem
  dsimp only
  split
  · simp
  · split
    · simp
    · split
      · simp
      · split
        · simp
        · split
          · simp
          · split
            · simp
            · split <;> simp

@[simp] theorem State.outside_hAtomic (m n w f5 f3 rd rs1 rs2 : Nat) (ext : List Byte) :
    (s.hAtomic m n w f5 f3 rd rs1 rs2 ext).state.outside false = s.outside false := by
  unfold State.hAtomic
  dsimp only
  split
  · simp
  · split
    · simp
    · split
      · simp
      · split
        · simp
        · simp

@[simp] theorem State.outside_hExec (m n w : Nat) (i : Rv) (ext : List Byte) : (s.hExec m n w i ext).state.outside false = s.outside false := by
  unfold State.hExec
  cases i with
  | opImm | op =>
    dsimp only
    split <;> simp
  | other =>
    dsimp only
    split <;> simp
  | _ => simp

/-! ## Power -/

@[simp] theorem State.outside_modSteward (d : Nat) (f : Steward → Steward) :
    (s.modSteward d f).outside false = s.outside false := by simp [State.modSteward]

@[simp] theorem State.outside_setPwrBit (d i : Nat) (v : Bool) : (s.setPwrBit d i v).outside false = s.outside false := by simp [State.setPwrBit]
@[simp] theorem State.outside_contact (d : Nat) : (s.contact d).outside false = s.outside false := by simp [State.contact]
@[simp] theorem State.outside_remint (d : Nat) : (s.remint d).outside false = s.outside false := by simp [State.remint]
@[simp] theorem State.outside_restartPatterns (d : Nat) : (s.restartPatterns d).outside false = s.outside false := by simp [State.restartPatterns]
@[simp] theorem State.outside_thermPin : (s.thermPin).outside false = s.outside false := by simp [State.thermPin]
@[simp] theorem State.outside_capNear (base : Nat) : (s.capNear base).outside false = s.outside false := by simp [State.capNear]
@[simp] theorem State.outside_liftNear (base : Nat) : (s.liftNear base).outside false = s.outside false := by simp [State.liftNear]

@[simp] theorem State.outside_stackTemp (base temp hot crit : Nat) : (s.stackTemp base temp hot crit).outside false = s.outside false := by
  unfold State.stackTemp
  split <;> simp

/-! ## Management -/

@[simp] theorem State.outside_startOp (tag : BitVec 16) (holds : Nat) :
    (s.startOp tag holds).outside false = s.outside false := by simp [State.startOp]

@[simp] theorem State.outside_mgtStatus (r : MgtReq) : (s.mgtStatus r).1.outside false = s.outside false := rfl
@[simp] theorem State.outside_mgtTelemetry (r : MgtReq) : (s.mgtTelemetry r).1.outside false = s.outside false := rfl
@[simp] theorem State.outside_mgtFaultRead (r : MgtReq) : (s.mgtFaultRead r).1.outside false = s.outside false := rfl
@[simp] theorem State.outside_mgtFaultFree (r : MgtReq) : (s.mgtFaultFree r).1.outside false = s.outside false := by simp [State.mgtFaultFree]
@[simp] theorem State.outside_mgtFlpLoad (r : MgtReq) : (s.mgtFlpLoad r).1.outside false = s.outside false := by simp [State.mgtFlpLoad]

@[simp] theorem State.outside_mgtFlashRead (r : MgtReq) : (s.mgtFlashRead r).1.outside false = s.outside false := by
  unfold State.mgtFlashRead
  dsimp only
  split <;> simp

@[simp] theorem State.outside_mgtFlashErase (r : MgtReq) : (s.mgtFlashErase r).1.outside false = s.outside false := by
  unfold State.mgtFlashErase
  split <;> simp

@[simp] theorem State.outside_mgtFlashWrite (r : MgtReq) : (s.mgtFlashWrite r).1.outside false = s.outside false := by
  unfold State.mgtFlashWrite
  dsimp only
  split <;> simp

/-- MGT_RESET of a die; a package reset is none of these. -/
theorem State.outside_mgtReset (r : MgtReq) (h : leAt r.payload 0 1 ≠ 0) : (s.mgtReset r).1.outside false = s.outside false := by
  unfold State.mgtReset
  split
  · rename_i hzero
    exact absurd hzero h
  · dsimp only
    split <;> simp
  · rfl

@[simp] theorem State.outside_mgtPkgLimit (r : MgtReq) : (s.mgtPkgLimit r).1.outside false = s.outside false := by simp [State.mgtPkgLimit]
@[simp] theorem State.outside_mgtRtStage (r : MgtReq) : (s.mgtRtStage r).1.outside false = s.outside false := by simp [State.mgtRtStage]
@[simp] theorem State.outside_mgtFenceErase (r : MgtReq) : (s.mgtFenceErase r).1.outside false = s.outside false := by simp [State.mgtFenceErase]
@[simp] theorem State.outside_mgtRepairErase (r : MgtReq) : (s.mgtRepairErase r).1.outside false = s.outside false := by simp [State.mgtRepairErase]

@[simp] theorem State.outside_secAdvance (r : MgtReq) : (s.secAdvance r).1.outside false = s.outside false := by
  unfold State.secAdvance
  dsimp only
  split
  · simp
  · split <;> simp
  · simp
  · rfl

@[simp] theorem State.outside_secDebugChallenge (r : MgtReq) : (s.secDebugChallenge r).1.outside false = s.outside false := by
  simp [State.secDebugChallenge]

@[simp] theorem State.outside_secDebugUnlock (r : MgtReq) : (s.secDebugUnlock r).1.outside false = s.outside false := by simp [State.secDebugUnlock]
@[simp] theorem State.outside_debugLock : (s.debugLock).outside false = s.outside false := by simp [State.debugLock]
@[simp] theorem State.outside_secDebugLock (r : MgtReq) : (s.secDebugLock r).1.outside false = s.outside false := by simp [State.secDebugLock]



@[simp] theorem State.outside_setSpdm (t : Transport) (v : Nat × List Byte) :
    (s.setSpdm t v).outside false = s.outside false := by simp [State.setSpdm]

@[simp] theorem State.outside_spdm {answer : State → List Byte → State × Option (List Byte)}
    (h : ∀ s log, (answer s log).1.outside false = s.outside false) (t : Transport) (least next : Nat) (req : List Byte) :
    (s.spdm t least next req answer).outside false = s.outside false := by
  unfold State.spdm
  dsimp only
  split
  · rfl
  · split
    · simp
    · split
      · rename_i hanswer
        simp [State.outside_fst hanswer, h]
      · rename_i hanswer
        simp [State.outside_fst hanswer, h]

@[simp] theorem State.outside_spdmNonce : (s.spdmNonce).1.outside false = s.outside false := by simp [State.spdmNonce]
@[simp] theorem State.outside_getVersion (t : Transport) : (s.getVersion t).outside false = s.outside false := by simp [State.getVersion]

@[simp] theorem State.outside_getCapabilities (t : Transport) :
    (s.getCapabilities t).outside false = s.outside false := by simp [State.getCapabilities]

@[simp] theorem State.outside_negotiate (t : Transport) (rsa slh : Bool) :
    (s.negotiate t rsa slh).outside false = s.outside false := by simp [State.negotiate]

@[simp] theorem State.outside_getCertificate (t : Transport) (slot offset length : Nat) :
    (s.getCertificate t slot offset length).outside false = s.outside false := by simp [State.getCertificate]

@[simp] theorem State.outside_challenge (t : Transport) (slot : Nat) (nonce : List Byte) :
    (s.challenge t slot nonce).outside false = s.outside false := by simp [State.challenge]

@[simp] theorem State.outside_getMeasurements (t : Transport) (nonce : List Byte) :
    (s.getMeasurements t nonce).outside false = s.outside false := by simp [State.getMeasurements]

@[simp] theorem State.outside_readSensor (bus : Bool) (n : Nat) : (s.readSensor bus n).outside false = s.outside false := by
  unfold State.readSensor
  repeat' split
  all_goals simp

@[simp] theorem State.outside_spdmMessage (t : Transport) (b : List Byte) : (s.spdmMessage t b).outside false = s.outside false := by
  unfold State.spdmMessage
  split <;> simp

/-! ## Walk -/

@[simp] theorem State.outside_modPaths (c g : Nat) (which : Path → Bool) (f : Path → Path) :
    (s.modPaths c g which f).outside false = s.outside false := by simp [State.modPaths]

@[simp] theorem State.outside_walkDone (c : Nat) (ag : XlAgent) (va : DWord) (a : XlAccess) :
    (s.walkDone c ag va a).outside false = s.outside false := by
  unfold State.walkDone
  split <;> simp

@[simp] theorem State.outside_walkHeld (c : Nat) (ag : XlAgent) (va : DWord) (a : XlAccess) (seq : Word) :
    (s.walkHeld c ag va a seq).outside false = s.outside false := by
  unfold State.walkHeld
  split <;> simp

@[simp] theorem State.outside_walkFails (c : Nat) (ag : XlAgent) (va : DWord) (a : XlAccess) (kind : Nat) :
    (s.walkFails c ag va a kind).outside false = s.outside false := by
  unfold State.walkFails
  dsimp only
  repeat' split
  all_goals simp

@[simp] theorem State.outside_dropRecord (c : Nat) (seq : Word) : (s.dropRecord c seq).outside false = s.outside false := by simp [State.dropRecord]

@[simp] theorem State.outside_retryRecord (c : Nat) (r : FaultRec) :
    (s.retryRecord c r).outside false = s.outside false := by simp [State.retryRecord]

@[simp] theorem State.outside_failRecord (c : Nat) (r : FaultRec) : (s.failRecord c r).outside false = s.outside false := by
  unfold State.failRecord
  dsimp only
  repeat' split
  all_goals simp

end

end Sys2Proof.Machine
end
section
/-! # Every command but the resets keeps its phase, the queue and device time -/

namespace Sys2Proof.Machine

/-- A command's outcome leaves the queue, device time and the phase. -/
def Inside (o : Outcome) (s : State) : Prop := ∀ t, o = .next t → t.outside false = s.outside false

section
variable (s : State)

/-- A request that is answered is refused, or run. -/
theorem State.mgtRun_cases {code : Nat} {op : MgtFn} {r : MgtReq} {t : State} {x : Nat × List Byte} (h : s.mgtRun code op r = some (t, x)) :
    t = s ∨ (t, x) = op s r := by
  unfold State.mgtRun at h
  dsimp only at h
  split at h
  · split at h
    · obtain h := Option.some.inj h
      split at h
      · exact .inl (congrArg Prod.fst h).symm
      · exact .inr h.symm
    · cases h
  · split at h
    · split at h
      · exact .inl (congrArg Prod.fst (Option.some.inj h)).symm
      · exact .inr (Option.some.inj h).symm
    · exact .inl (congrArg Prod.fst (Option.some.inj h)).symm
  · split at h
    · cases h
    · split at h
      · cases h
      · split at h
        · exact .inl (congrArg Prod.fst (Option.some.inj h)).symm
        · split at h
          · exact .inl (congrArg Prod.fst (Option.some.inj h)).symm
          · exact .inr (Option.some.inj h).symm
  · cases h

theorem inside_next {t : State} (h : t.outside false = s.outside false) : Inside (.next t) s := fun u hu => by
  cases hu
  exact h

@[simp] theorem inside_next_iff (t : State) : Inside (.next t) s ↔ t.outside false = s.outside false :=
  ⟨fun h => h t rfl, inside_next s⟩

/-- The management plane's answer to a request keeps the view where the command does. -/
theorem outside_mgtAnswer (code : Nat) {op : MgtFn} (r : MgtReq) (h : (op s r).1.outside false = s.outside false) :
    (mgtAnswer code op r s).outside false = s.outside false := by
  unfold mgtAnswer
  split
  · rename_i hrun
    rw [State.outside_send]
    obtain hx | hx := s.mgtRun_cases hrun
    · rw [hx]
    · rw [State.outside_fst hx.symm, h]
  · rfl

theorem inside_ite {p : Prop} [Decidable p] {a b : Outcome} (ha : Inside a s) (hb : Inside b s) : Inside (if p then a else b) s := by
  split
  · exact ha
  · exact hb

theorem gate_inside {f : State → State} (h : (f s).outside false = s.outside false) : Inside (gate s f) s :=
  fun _ ht => outside_gate h ht

theorem cohGate_inside (k : ReqKind) (m : CohMsg) {f : State → State} (h : (f s).outside false = s.outside false) : Inside (cohGate k m s f) s := by
  refine inside_ite s (inside_next s ?_) (inside_ite s (inside_next s (by simp)) (inside_next s rfl))
  split
  · simp
  · exact h

theorem fabGate_inside (p : FabPort) (m : FabMsg) {f : State → State} (h : (f s).outside false = s.outside false) : Inside (fabGate p m s f) s :=
  gate_inside s (by simp [h])

theorem ccRun_inside (c : CoreId) (n : Nat) {f : State → State} (ecc : List EccHit) (h : ∀ t, (f t).outside false = t.outside false) :
    Inside (ccRun c n s f ecc) s := by
  refine gate_inside s ?_
  dsimp only
  split
  · split
    · simp
    · split
      · rename_i hfetch
        simp [State.outside_fst hfetch]
      · rename_i hfetch
        split
        · simp [h, State.outside_fst hfetch]
        · simp [State.outside_fst hfetch]
  · rfl

theorem arrStart_inside (c : CoreId) (func : Nat) {f : State → TileIns → State × Running} (h : ∀ t i, (f t i).1.outside false = t.outside false) :
    Inside (arrStart c func s f) s := by
  refine gate_inside s ?_
  dsimp only
  split
  · simp
  · split
    · split
      · simp
      · simp [h]
    · simp

theorem vecStart_inside (c : CoreId) (func : Nat) {f : State → TileIns → State × Running} (h : ∀ t i, (f t i).1.outside false = t.outside false) :
    Inside (vecStart c func s f) s := by
  refine gate_inside s ?_
  dsimp only
  split
  · rfl
  · split
    · split
      · rfl
      · simp [h]
    · rfl

theorem groupRun_inside (c : CoreId) (g : GroupId) (w : DWord) (mine : Nat → Bool) {f : State → Group → Path → BitVec 32 → State}
    (h : ∀ t x p l, (f t x p l).outside false = t.outside false) : Inside (groupRun c g w mine s f) s := by
  refine gate_inside s ?_
  extract_lets s1 k x
  have hs1 : s1.outside false = s.outside false := by simp [s1]
  clear_value s1
  split
  · exact hs1
  · split
    · exact hs1
    · split
      · simp [hs1]
      · split
        · rename_i hfetch
          simp [State.outside_fst hfetch, hs1]
        · rename_i hfetch
          simp [h, State.outside_fst hfetch, hs1]

theorem strCmd_inside (c : CoreId) (func : Nat) (ecc : List EccHit) {plan : State → List Byte → TileIns → State × Except (Nat × Nat) (Nat × Nat)}
    {go : State → Fin 16 → State} (hplan : ∀ t b i, (plan t b i).1.outside false = t.outside false)
    (hgo : ∀ t n, (go t n).outside false = t.outside false) : Inside (strCmd c func ecc s plan go) s := by
  refine gate_inside s ?_
  dsimp only
  split
  · rename_i hstart
    have hs := State.outside_strStart hplan hstart
    split
    · simpa [hgo] using hs
    · simpa using hs
  · simp [hgo]

/-- A queue's command is run from a state that keeps the view: some wait by leaving a state of their own. -/
theorem runCmd_cases {p : PartId} {q op : Nat} {f : State → Slot → State} {t : State} (h : runCmd p q op s f = .next t) :
    t.outside false = s.outside false ∨ ∃ u c, u.outside false = s.outside false ∧ t = f u c := by
  unfold runCmd gate at h
  split at h
  · replace h := Host.Outcome.next.inj h
    dsimp only at h
    split at h
    · split at h
      · left
        split at h <;> simp [← h]
      · rename_i htake
        have ht := State.outside_takeCmd htake
        split at h
        · split at h
          · exact .inr ⟨_, _, ht, h.symm⟩
          · exact .inl (by simpa [← h] using ht)
        · split at h
          · exact .inr ⟨_, _, ht, h.symm⟩
          · exact .inl (by simpa [← h] using ht)
        · exact .inr ⟨_, _, ht, h.symm⟩
    · exact .inl (congrArg _ h.symm)
  · cases h
    exact .inl rfl

theorem runCmd_inside (p : PartId) (q op : Nat) {f : State → Slot → State}
    (h : ∀ t c, t.outside false = s.outside false → (f t c).outside false = s.outside false) : Inside (runCmd p q op s f) s := fun t ht => by
  obtain hout | ⟨u, c, hu, rfl⟩ := runCmd_cases s ht
  · exact hout
  · exact h u c hu

theorem hartRun_inside (h : HartId) (w : Word) (ext : List Byte) (only : Rv → Bool) : Inside (hartRun h w ext s only) s := by
  refine gate_inside s ?_
  extract_lets m k x i n
  split
  · rfl
  · split
    · simp
    · split
      · rename_i hrun
        rw [State.outside_modHart, State.outside_ok hrun]
        simp
      · rename_i hrun
        rw [State.outside_waiting hrun]
        simp
      · rename_i hrun
        rw [State.outside_modHart, State.outside_trap hrun]
        simp

/-! ## Faults -/

@[simp] theorem inside_execFaultDetect (faults : CycleFaults) : Inside (execFaultDetect faults s) s := inside_next s (by simp)
@[simp] theorem inside_execFaultNotice (d : DieId) : Inside (execFaultNotice d s) s := gate_inside s (by simp)

@[simp] theorem inside_execMergedNoticeSend (d : DieId) : Inside (execMergedNoticeSend d s) s := gate_inside s (by
  dsimp only
  repeat' split
  all_goals simp)

@[simp] theorem inside_execRootDigestCompare (intact : Bool) : Inside (execRootDigestCompare intact s) s := gate_inside s (by simp)
@[simp] theorem inside_execRootFailover : Inside (execRootFailover s) s := gate_inside s (by simp)
@[simp] theorem inside_execNoticeDeliveryTimeout (d : DieId) : Inside (execNoticeDeliveryTimeout d s) s := gate_inside s (by simp)
@[simp] theorem inside_execDieHeartbeatLoss (d : DieId) : Inside (execDieHeartbeatLoss d s) s := gate_inside s (by simp)
@[simp] theorem inside_execFcLogFree (r95 : Bool) (n : Word) : Inside (execFcLogFree r95 n s) s := gate_inside s (by simp)
@[simp] theorem inside_execFcDropsClear (r95 : Bool) : Inside (execFcDropsClear r95 s) s := gate_inside s (by simp)

@[simp] theorem inside_execCaptureSetClear (d : DieId) (root : Bool) (k : Fin 3) :
    Inside (execCaptureSetClear d root k s) s := gate_inside s (by simp)

@[simp] theorem inside_execFcPartCpuMsiWrite (r95 : Bool) (p : PartId) (addr : DWord) (value : Word) (mask : Bool) :
    Inside (execFcPartCpuMsiWrite r95 p addr value mask s) s := gate_inside s (by simp)

@[simp] theorem inside_execDumpAreaErase : Inside (execDumpAreaErase s) s := gate_inside s (by simp)

/-! ## Registers -/

@[simp] theorem inside_execCsrAccessError (agent addr size : Nat) : Inside (execCsrAccessError agent addr size s) s := gate_inside s (by simp)

/-! ## Channels -/

@[simp] theorem inside_execChannelRead (c : Chan) (line agent : Nat) (ecc : LineEcc) (retries : Nat) :
    Inside (execChannelRead c line agent ecc retries s) s :=
  gate_inside s (s.outside_chanReq c _ (by simp))

@[simp] theorem inside_execChannelWrite (c : Chan) (line agent : Nat) (mask : BitVec 128) (data : List Byte) (poison : Bool) (link : Transfer) :
    Inside (execChannelWrite c line agent mask data poison link s) s :=
  gate_inside s (s.outside_chanReq c _ (by simp))

@[simp] theorem inside_execHoldRetryResend (c : Chan) (r : Resend) : Inside (execHoldRetryResend c r s) s := by
  refine gate_inside s ?_
  split
  · simp
  · exact s.outside_chanReq c _ (by simp)

@[simp] theorem inside_execRefreshDue (c : Chan) : Inside (execRefreshDue c s) s := gate_inside s (by simp)
@[simp] theorem inside_execChannelScrubTick (c : Chan) (link : Transfer) : Inside (execChannelScrubTick c link s) s := gate_inside s (by simp)
@[simp] theorem inside_execDriftTrackingWindow (_c : Chan) : Inside (execDriftTrackingWindow _c s) s := inside_next s (by simp)

@[simp] theorem inside_execChannelTrain (c : Chan) (training : Training) (clockFailed orgWrong : Bool) :
    Inside (execChannelTrain c training clockFailed orgWrong s) s := gate_inside s (by
  dsimp only
  repeat' split
  all_goals simp)

@[simp] theorem inside_execChannelRetrainDone (c : Chan) (training : Training) (clockFailed : Bool) :
    Inside (execChannelRetrainDone c training clockFailed s) s := gate_inside s (by simp)

/-! ## Coherence -/

@[simp] theorem inside_execRds (m : CohMsg) : Inside (execRds m s) s := cohGate_inside s _ _ (by simp)
@[simp] theorem inside_execRdx (m : CohMsg) : Inside (execRdx m s) s := cohGate_inside s _ _ (by simp)
@[simp] theorem inside_execUpg (m : CohMsg) : Inside (execUpg m s) s := cohGate_inside s _ _ (by simp)
@[simp] theorem inside_execRdna (m : CohMsg) : Inside (execRdna m s) s := cohGate_inside s _ _ (by simp)
@[simp] theorem inside_execWrf (m : CohMsg) : Inside (execWrf m s) s := cohGate_inside s _ _ (by simp)
@[simp] theorem inside_execWrp (m : CohMsg) : Inside (execWrp m s) s := cohGate_inside s _ _ (by simp)

@[simp] theorem inside_execAtom (m : CohMsg) (op : AtomOp) (width off : Nat) (operand compare : BitVec 128) :
    Inside (execAtom m op width off operand compare s) s := by
  unfold execAtom
  exact cohGate_inside s _ _ (by simp)

@[simp] theorem inside_execEvc (m : CohMsg) : Inside (execEvc m s) s := cohGate_inside s _ _ (by simp)
@[simp] theorem inside_execWb (m : CohMsg) : Inside (execWb m s) s := cohGate_inside s _ _ (by simp)
@[simp] theorem inside_execClean (m : CohMsg) : Inside (execClean m s) s := cohGate_inside s _ _ (by simp)
@[simp] theorem inside_execSnpFwdS (m : CohMsg) (a : Nat) : Inside (execSnpFwdS m a s) s := gate_inside s (by simp)
@[simp] theorem inside_execSnpFwdX (m : CohMsg) (a : Nat) : Inside (execSnpFwdX m a s) s := gate_inside s (by simp)
@[simp] theorem inside_execSnpFwdNa (m : CohMsg) (a : Nat) : Inside (execSnpFwdNa m a s) s := gate_inside s (by simp)
@[simp] theorem inside_execSnpRecall (m : CohMsg) (a : Nat) : Inside (execSnpRecall m a s) s := gate_inside s (by simp)
@[simp] theorem inside_execSnpInv (m : CohMsg) (a : Nat) : Inside (execSnpInv m a s) s := gate_inside s (by simp)

@[simp] theorem inside_execData (m : CohMsg) : Inside (execData m s) s := by
  refine gate_inside s ?_
  extract_lets via b s1 s2
  have hvia : ∀ t, via = some t → t.outside false = s.outside false := fun t ht => by
    unfold via at ht
    split at ht
    · exact State.outside_l2Want ht
    · cases ht
  have hs1 : s1.outside false = s.outside false := State.outside_setBase ..
  have hs2 : s2.outside false = s.outside false := by
    unfold s2
    split
    · simp [hs1]
    · exact hs1
  clear_value via s2
  split
  · exact hvia _ rfl
  · split
    · simp [hs2]
    · simp

@[simp] theorem inside_execCmp (m : CohMsg) : Inside (execCmp m s) s := by
  refine gate_inside s ?_
  extract_lets via k b old s1 c
  have hvia : ∀ t, via = some t → t.outside false = s.outside false := fun t ht => by
    unfold via at ht
    split at ht
    · exact State.outside_l2Want ht
    · cases ht
  have hs1 : s1.outside false = s.outside false := State.outside_setBase ..
  clear_value via old s1 c
  split
  · exact hvia _ rfl
  · split
    · dsimp only
      split
      · simp [hs1]
      · simp [hs1]
    · simp

@[simp] theorem inside_execCmpAck (m : CohMsg) : Inside (execCmpAck m s) s := gate_inside s (by
  dsimp only
  repeat' split
  all_goals simp)

@[simp] theorem inside_execFwdAck (m : CohMsg) : Inside (execFwdAck m s) s := gate_inside s (by simp)
@[simp] theorem inside_execInvAck (m : CohMsg) : Inside (execInvAck m s) s := gate_inside s (by simp)
@[simp] theorem inside_execRecallData (m : CohMsg) : Inside (execRecallData m s) s := gate_inside s (by simp)
@[simp] theorem inside_execWbAck (m : CohMsg) : Inside (execWbAck m s) s := gate_inside s (by simp)

theorem State.outside_l2WantNow (n : Nat) (m : CohMsg) (f : Want → Want) : ((s.l2Want n m f).getD s).outside false = s.outside false := by
  cases h : s.l2Want n m f with
  | none => rfl
  | some t => exact State.outside_l2Want h

@[simp] theorem inside_execRetry (m : CohMsg) : Inside (execRetry m s) s :=
  gate_inside s (by simp [State.outside_l2WantNow])

@[simp] theorem inside_execRetryResend (m : CohMsg) : Inside (execRetryResend m s) s := by
  refine gate_inside s ?_
  dsimp only
  split
  · rfl
  · simp [State.outside_l2WantNow]

@[simp] theorem inside_execWaiterReservationExpiry (l : Nat) : Inside (execWaiterReservationExpiry l s) s := gate_inside s (by simp)

@[simp] theorem inside_execBaseDieCacheRead (k : StackId) (m : CohMsg) (noAlloc : Bool) :
    Inside (execBaseDieCacheRead k m noAlloc s) s := gate_inside s (by
  dsimp only
  repeat' split
  all_goals simp)

@[simp] theorem inside_execDirtyAgeTick (n : ClusterId) : Inside (execDirtyAgeTick n s) s := gate_inside s (by simp)
@[simp] theorem inside_execMsauIdleRelease (l : Nat) : Inside (execMsauIdleRelease l s) s := gate_inside s (by simp)
@[simp] theorem inside_execSnoopTimeout (l a : Nat) : Inside (execSnoopTimeout l a s) s := gate_inside s (by simp)

/-! ## Links -/

@[simp] theorem inside_execFlitReceive (p : JxlPort) (f : Flit) (crc : DWord) (fecC fecU : Nat) :
    Inside (execFlitReceive p f crc fecC fecU s) s := gate_inside s (by simp)

@[simp] theorem inside_execFlitAckDue (l : LinkId) : Inside (execFlitAckDue l s) s := gate_inside s (by simp)
@[simp] theorem inside_execReplayRequestFlit (l : LinkId) (ack : BitVec 12) : Inside (execReplayRequestFlit l ack s) s := gate_inside s (by simp)
@[simp] theorem inside_execRetrainRequestFlit (l : LinkId) : Inside (execRetrainRequestFlit l s) s := gate_inside s (by simp)
@[simp] theorem inside_execLinkRetrainDone (p : JxlPort) (ok : Bool) : Inside (execLinkRetrainDone p ok s) s := gate_inside s (by simp)
@[simp] theorem inside_execLinkTrain (p : JxlPort) (failedLanes : BitVec 16) : Inside (execLinkTrain p failedLanes s) s := gate_inside s (by simp)
@[simp] theorem inside_execTimeExchange (p : JxlPort) : Inside (execTimeExchange p s) s := gate_inside s (by simp)
@[simp] theorem inside_execTsRsp (p : JxlPort) (t1 t2 t3 : DWord) : Inside (execTsRsp p t1 t2 t3 s) s := gate_inside s (by simp)

@[simp] theorem inside_execBiasFlip (p : JxlPort) (m : LinkMsg) : Inside (execBiasFlip p m s) s :=
  inside_ite s (inside_next s (by simp)) (gate_inside s (by simp))

@[simp] theorem inside_execBiasFlipDone (n : Nat) : Inside (execBiasFlipDone n s) s := gate_inside s (by
  dsimp only
  repeat' split
  all_goals simp)

@[simp] theorem inside_execBiasDone (_p : JxlPort) (_m : LinkMsg) : Inside (execBiasDone _p _m s) s := inside_next s (by simp)
@[simp] theorem inside_execMsi (p : PartId) (vector : Nat) : Inside (execMsi p vector s) s := gate_inside s (by simp)
@[simp] theorem inside_execRetrainLostTimeout (p : JxlPort) : Inside (execRetrainLostTimeout p s) s := gate_inside s (by simp)
@[simp] theorem inside_execCompanionSnoopTimeout (p : JxlPort) : Inside (execCompanionSnoopTimeout p s) s := gate_inside s (by simp)

/-! ## Fabric -/

@[simp] theorem inside_execFabricPortTrain (p : FabPort) (failedLanes : BitVec 8) :
    Inside (execFabricPortTrain p failedLanes s) s := gate_inside s (by simp)

@[simp] theorem inside_execVersionToken (p : FabPort) (maxVer minVer : Nat) (node : BitVec 14) :
    Inside (execVersionToken p maxVer minVer node s) s := gate_inside s (by simp)

@[simp] theorem inside_execFabricRetrainDone (p : FabPort) (ok : Bool) : Inside (execFabricRetrainDone p ok s) s := gate_inside s (by simp)

@[simp] theorem inside_execNodeUp (p : FabPort) (node version : Nat) : Inside (execNodeUp p node version s) s :=
  gate_inside s (by simp [State.outside_passOn])

@[simp] theorem inside_execRouteEpoch (_p : FabPort) (_node : Nat) (_epoch : Bool) :
    Inside (execRouteEpoch _p _node _epoch s) s := inside_next s (by simp)

@[simp] theorem inside_execFabricFaultNotice (_p : FabPort) (_node : Nat) (_body : List Byte) :
    Inside (execFabricFaultNotice _p _node _body s) s := inside_next s (by simp)

@[simp] theorem inside_execRouteCommit : Inside (execRouteCommit s) s := gate_inside s (by simp)

@[simp] theorem inside_execRrd (p : FabPort) (m : FabMsg) : Inside (execRrd p m s) s := fabGate_inside s _ _ (by
  dsimp only
  split <;> simp)

@[simp] theorem inside_execRwr (p : FabPort) (m : FabMsg) : Inside (execRwr p m s) s := fabGate_inside s _ _ (by
  dsimp only
  split <;> simp)

@[simp] theorem inside_execRatom (p : FabPort) (m : FabMsg) : Inside (execRatom p m s) s := fabGate_inside s _ _ (by simp)

@[simp] theorem inside_execRrsp (p : FabPort) (m : FabMsg) : Inside (execRrsp p m s) s := fabGate_inside s _ _ (by
  split <;> simp)

@[simp] theorem inside_execRack (p : FabPort) (m : FabMsg) : Inside (execRack p m s) s := fabGate_inside s _ _ (by
  split <;> simp)

/-! ## Control -/

@[simp] theorem inside_execControlCoreInstruction (c : CoreId) (word : Word) (ecc : List EccHit) (ext : List Byte) :
    Inside (execControlCoreInstruction c word ecc ext s) s := ccRun_inside s _ _ _ (fun t => by simp)

@[simp] theorem inside_execTWait (c : CoreId) (tk rs1 : Fin 32) : Inside (execTWait c tk rs1 s) s := ccRun_inside s _ _ _ (fun t => by simp)
@[simp] theorem inside_execTWaitall (c : CoreId) (tk : Fin 32) : Inside (execTWaitall c tk s) s := ccRun_inside s _ _ _ (fun t => by simp)
@[simp] theorem inside_execTTkdone (c : CoreId) (rd tk : Fin 32) : Inside (execTTkdone c rd tk s) s := ccRun_inside s _ _ _ (fun t => by simp)
@[simp] theorem inside_execTTkclr (c : CoreId) (tk : Fin 32) : Inside (execTTkclr c tk s) s := ccRun_inside s _ _ _ (fun t => by simp)

@[simp] theorem inside_execTGrant (c : CoreId) (gr : Fin 4) (rs1 : Fin 32) :
    Inside (execTGrant c gr rs1 s) s := ccRun_inside s _ _ _ (fun t => by simp)

@[simp] theorem inside_execTGrget (c : CoreId) (rd : Fin 32) (gr : Fin 4) : Inside (execTGrget c rd gr s) s := ccRun_inside s _ _ _ (fun t => by simp)
@[simp] theorem inside_execTInval (c : CoreId) : Inside (execTInval c s) s := ccRun_inside s _ _ _ (fun t => by simp)
@[simp] theorem inside_execTEnd (c : CoreId) : Inside (execTEnd c s) s := ccRun_inside s _ _ _ (fun t => by simp)

@[simp] theorem inside_execCvtH2d (c : CoreId) (rd rs1 : Fin 32) (w : Fin 4) :
    Inside (execCvtH2d c rd rs1 w s) s := ccRun_inside s _ _ _ (fun t => by simp)

@[simp] theorem inside_execCvtD2h (c : CoreId) (rd rs1 : Fin 32) (w : Fin 4) :
    Inside (execCvtD2h c rd rs1 w s) s := ccRun_inside s _ _ _ (fun t => by simp)

@[simp] theorem inside_execTokenWaitRelease (c : CoreId) : Inside (execTokenWaitRelease c s) s := gate_inside s (by
  dsimp only
  split <;> simp)

@[simp] theorem inside_execTEndComplete (c : CoreId) : Inside (execTEndComplete c s) s := gate_inside s (by
  dsimp only
  split <;> simp)

@[simp] theorem inside_execTileIssue (c : CoreId) (word : DWord) : Inside (execTileIssue c word s) s := ccRun_inside s _ _ _ (fun t => by simp)

/-! ## Array -/

@[simp] theorem inside_execExecuteQueuePass (c : CoreId) : Inside (execExecuteQueuePass c s) s := gate_inside s (by
  dsimp only
  repeat' split
  all_goals simp)

@[simp] theorem inside_execNanTrap (c : CoreId) : Inside (execNanTrap c s) s := gate_inside s (by simp)

@[simp] theorem inside_execGrantStallTimeout (c : CoreId) (u : TileUnit) : Inside (execGrantStallTimeout c u s) s := gate_inside s (by
  dsimp only
  split <;> simp)

@[simp] theorem inside_execTMma (c : CoreId) (ecc : List EccHit) (upset second : List (Nat × Word)) :
    Inside (execTMma c ecc upset second s) s := arrStart_inside s _ _ (fun t i => by simp)

@[simp] theorem inside_execTSload (c : CoreId) (ecc : List EccHit) : Inside (execTSload c ecc s) s := arrStart_inside s _ _ (fun t i => by simp)
@[simp] theorem inside_execTSwap (c : CoreId) : Inside (execTSwap c s) s := arrStart_inside s _ _ (fun t i => by simp)

@[simp] theorem inside_execTEwise (c : CoreId) (upset : List (Nat × Word)) :
    Inside (execTEwise c upset s) s := arrStart_inside s _ _ (fun t i => by simp)

@[simp] theorem inside_execTStest (c : CoreId) (m1 m2 : Bool) : Inside (execTStest c m1 m2 s) s := arrStart_inside s _ _ (fun t i => by simp)
@[simp] theorem inside_execArraySelfTestDue (c : CoreId) (m1 m2 : Bool) : Inside (execArraySelfTestDue c m1 m2 s) s := gate_inside s (by simp)

@[simp] theorem inside_execArrayCompletion (c : CoreId) : Inside (execArrayCompletion c s) s := gate_inside s (by
  dsimp only
  split <;> simp)

@[simp] theorem inside_execWatchRecompute (c : CoreId) : Inside (execWatchRecompute c s) s := gate_inside s (by
  dsimp only
  split <;> simp)

@[simp] theorem inside_execWatchRecomputeDone (c : CoreId) : Inside (execWatchRecomputeDone c s) s := gate_inside s (by
  dsimp only
  repeat' split
  all_goals simp)

@[simp] theorem inside_execWatchReplay (c : CoreId) : Inside (execWatchReplay c s) s := gate_inside s (by
  dsimp only
  split <;> simp)

@[simp] theorem inside_execWatchReplayDone (c : CoreId) (replayed : List (Nat × Word)) :
    Inside (execWatchReplayDone c replayed s) s := gate_inside s (by
  dsimp only
  split <;> simp)

@[simp] theorem inside_execWatchDisClear (c : CoreId) : Inside (execWatchDisClear c s) s := gate_inside s (by simp)

/-! ## Vector -/

@[simp] theorem inside_execTVchain (c : CoreId) (ecc : List EccHit) : Inside (execTVchain c ecc s) s := vecStart_inside s _ _ (fun t i => by simp)
@[simp] theorem inside_execTRed (c : CoreId) (ecc : List EccHit) : Inside (execTRed c ecc s) s := vecStart_inside s _ _ (fun t i => by simp)
@[simp] theorem inside_execTLd (c : CoreId) (ecc : List EccHit) : Inside (execTLd c ecc s) s := vecStart_inside s _ _ (fun t i => by simp)
@[simp] theorem inside_execTSt (c : CoreId) : Inside (execTSt c s) s := vecStart_inside s _ _ (fun t i => by simp)
@[simp] theorem inside_execCvtT (c : CoreId) (ecc : List EccHit) : Inside (execCvtT c ecc s) s := vecStart_inside s _ _ (fun t i => by simp)
@[simp] theorem inside_execTCupd (c : CoreId) (ecc : List EccHit) : Inside (execTCupd c ecc s) s := vecStart_inside s _ _ (fun t i => by simp)

@[simp] theorem inside_execVectorCompletion (c : CoreId) : Inside (execVectorCompletion c s) s := gate_inside s (by
  dsimp only
  split <;> simp)

/-! ## Groups -/

@[simp] theorem inside_execGroupIntOp (c : CoreId) (g : GroupId) (w : DWord) :
    Inside (execGroupIntOp c g w s) s := groupRun_inside s _ _ _ _ (fun t x p l => by simp)

@[simp] theorem inside_execGroupFpOp (c : CoreId) (g : GroupId) (w : DWord) :
    Inside (execGroupFpOp c g w s) s := groupRun_inside s _ _ _ _ (fun t x p l => by simp)

@[simp] theorem inside_execSetp (c : CoreId) (g : GroupId) (w : DWord) :
    Inside (execSetp c g w s) s := groupRun_inside s _ _ _ _ (fun t x p l => by simp)

@[simp] theorem inside_execPop (c : CoreId) (g : GroupId) (w : DWord) :
    Inside (execPop c g w s) s := groupRun_inside s _ _ _ _ (fun t x p l => by simp)

@[simp] theorem inside_execCvt (c : CoreId) (g : GroupId) (w : DWord) :
    Inside (execCvt c g w s) s := groupRun_inside s _ _ _ _ (fun t x p l => by simp)

@[simp] theorem inside_execLd (c : CoreId) (g : GroupId) (w : DWord) (ecc : List EccHit) (ext : List Byte) : Inside (execLd c g w ecc ext s) s :=
  groupRun_inside s _ _ _ _ (fun t x p l => (State.outside_gMemory _ _ _ _ _ _ _ _ _ _ (fun u ps => by simp)).trans (by simp))

@[simp] theorem inside_execSt (c : CoreId) (g : GroupId) (w : DWord) : Inside (execSt c g w s) s := by
  refine groupRun_inside s _ _ _ _ (fun t x p l => State.outside_gMemory _ _ _ _ _ _ _ _ _ _ (fun u ps => ?_))
  refine (State.outside_gNext ..).trans (outside_overList (fun v l => ?_) _ _)
  split <;> simp

@[simp] theorem inside_execAmo (c : CoreId) (g : GroupId) (w : DWord) (ecc : List EccHit) (ext : List Byte) : Inside (execAmo c g w ecc ext s) s := by
  refine groupRun_inside s _ _ _ _ (fun t x p l => ?_)
  extract_lets n opn op width operand
  refine (State.outside_gMemory _ _ _ _ _ _ _ _ _ _ (fun u ps => ?_)).trans (by simp)
  generalize hr : List.foldl _ (u, ([] : List (Nat × Nat)), 0, ext) (lanesOf l) = r
  have hfold : r.1.outside false = u.outside false := by
    rw [← hr]
    refine foldl_keeps (fun acc : State × List (Nat × Nat) × Nat × List Byte => acc.1.outside false = u.outside false) (fun acc l hacc => ?_) rfl _
    obtain ⟨v, d, code, ext⟩ := acc
    dsimp only at hacc ⊢
    split
    · exact hacc
    · split
      · split <;> simp [hacc]
      · split
        · rename_i hatom
          simp [State.outside_fst hatom, hacc]
        · rename_i hatom
          simp [State.outside_fst hatom, hacc]
  simp [hfold]

@[simp] theorem inside_execGFence (c : CoreId) (g : GroupId) (w : DWord) :
    Inside (execGFence c g w s) s := groupRun_inside s _ _ _ _ (fun t x p l => by simp)

@[simp] theorem inside_execGBra (c : CoreId) (g : GroupId) (w : DWord) :
    Inside (execGBra c g w s) s := groupRun_inside s _ _ _ _ (fun t x p l => by simp)

@[simp] theorem inside_execGYield (c : CoreId) (g : GroupId) (w : DWord) :
    Inside (execGYield c g w s) s := groupRun_inside s _ _ _ _ (fun t x p l => by simp)

@[simp] theorem inside_execGCset (c : CoreId) (g : GroupId) (w : DWord) :
    Inside (execGCset c g w s) s := groupRun_inside s _ _ _ _ (fun t x p l => by simp)

@[simp] theorem inside_execGCwait (c : CoreId) (g : GroupId) (w : DWord) :
    Inside (execGCwait c g w s) s := groupRun_inside s _ _ _ _ (fun t x p l => by simp)

@[simp] theorem inside_execGExit (c : CoreId) (g : GroupId) (w : DWord) :
    Inside (execGExit c g w s) s := groupRun_inside s _ _ _ _ (fun t x p l => by simp)

@[simp] theorem inside_execGBar (c : CoreId) (g : GroupId) (w : DWord) :
    Inside (execGBar c g w s) s := groupRun_inside s _ _ _ _ (fun t x p l => by simp)

@[simp] theorem inside_execGBarRelease (c : CoreId) : Inside (execGBarRelease c s) s := gate_inside s (by simp)

@[simp] theorem inside_execGTkwait (c : CoreId) (g : GroupId) (w : DWord) :
    Inside (execGTkwait c g w s) s := groupRun_inside s _ _ _ _ (fun t x p l => by simp)

@[simp] theorem inside_execGTkwaitRelease (c : CoreId) (g : GroupId) : Inside (execGTkwaitRelease c g s) s := gate_inside s (by simp)

@[simp] theorem inside_execGTkpost (c : CoreId) (g : GroupId) (w : DWord) :
    Inside (execGTkpost c g w s) s := groupRun_inside s _ _ _ _ (fun t x p l => by simp)

@[simp] theorem inside_execGVote (c : CoreId) (g : GroupId) (w : DWord) :
    Inside (execGVote c g w s) s := groupRun_inside s _ _ _ _ (fun t x p l => by simp)

@[simp] theorem inside_execGShfl (c : CoreId) (g : GroupId) (w : DWord) :
    Inside (execGShfl c g w s) s := groupRun_inside s _ _ _ _ (fun t x p l => by simp)

@[simp] theorem inside_execGCompact (c : CoreId) (g : GroupId) (w : DWord) :
    Inside (execGCompact c g w s) s := groupRun_inside s _ _ _ _ (fun t x p l => by simp)

@[simp] theorem inside_execGExpand (c : CoreId) (g : GroupId) (w : DWord) :
    Inside (execGExpand c g w s) s := groupRun_inside s _ _ _ _ (fun t x p l => by simp)

@[simp] theorem inside_execGMma (c : CoreId) (g : GroupId) (w : DWord) :
    Inside (execGMma c g w s) s := groupRun_inside s _ _ _ _ (fun t x p l => by simp)

@[simp] theorem inside_execGTld (c : CoreId) (g : GroupId) (w : DWord) :
    Inside (execGTld c g w s) s := groupRun_inside s _ _ _ _ (fun t x p l => by simp)

@[simp] theorem inside_execGTst (c : CoreId) (g : GroupId) (w : DWord) :
    Inside (execGTst c g w s) s := groupRun_inside s _ _ _ _ (fun t x p l => by simp)

@[simp] theorem inside_execGroupStarvationPromotion (c : CoreId) (g : GroupId) :
    Inside (execGroupStarvationPromotion c g s) s := gate_inside s (by simp)

/-! ## Streams -/

@[simp] theorem inside_execPantryScrubInterval (c : CoreId) (busy : List (Fin 32)) (ecc : List EccHit) :
    Inside (execPantryScrubInterval c busy ecc s) s := gate_inside s (by simp)

@[simp] theorem inside_execPanEccFirstClear (c : CoreId) : Inside (execPanEccFirstClear c s) s := gate_inside s (by simp)

@[simp] theorem inside_execSCopy (c : CoreId) (ecc : List EccHit) (ext : List Byte) :
    Inside (execSCopy c ecc ext s) s := strCmd_inside s _ _ _ (fun t b i => by simp) (fun t n => by simp)

@[simp] theorem inside_execSRoute (c : CoreId) (ecc : List EccHit) (ext : List Byte) :
    Inside (execSRoute c ecc ext s) s := strCmd_inside s _ _ _ (fun t b i => by simp) (fun t n => by
  dsimp only
  split <;> simp)

@[simp] theorem inside_execSCombine (c : CoreId) (ecc : List EccHit) (ext : List Byte) :
    Inside (execSCombine c ecc ext s) s := strCmd_inside s _ _ _ (fun t b i => by simp) (fun t n => by
  dsimp only
  split <;> simp)

@[simp] theorem inside_execChunkComplete (c : CoreId) (n : Fin 16) : Inside (execChunkComplete c n s) s := by
  refine gate_inside s ?_
  dsimp only
  split
  · rfl
  · split
    · simp
    · split
      · rfl
      · split
        · simp
        · split
          · rfl
          · split
            · rename_i hclose
              simp [State.outside_fst hclose]
            · rename_i hclose
              simp [State.outside_fst hclose]

/-! ## Collectives -/

@[simp] theorem inside_execColQueueArm (q : ColQueue) (arm : Bool) : Inside (execColQueueArm q arm s) s := gate_inside s (by simp)
@[simp] theorem inside_execColQueueAbort (q : ColQueue) : Inside (execColQueueAbort q s) s := gate_inside s (by simp)
@[simp] theorem inside_execColQueueDoorbell (q : ColQueue) : Inside (execColQueueDoorbell q s) s := gate_inside s (by simp)
@[simp] theorem inside_execColQueuePoll (q : ColQueue) : Inside (execColQueuePoll q s) s := gate_inside s (by simp)

@[simp] theorem inside_execCready (q : ColQueue) (rank : Nat) (f : ColFields) (version : Nat) :
    Inside (execCready q rank f version s) s := gate_inside s (by
  split <;> simp)

@[simp] theorem inside_execCdata (q : ColQueue) (rank chunk : Nat) (data : List Byte) (poison : List Nat) :
    Inside (execCdata q rank chunk data poison s) s := gate_inside s (by
  split <;> simp)

@[simp] theorem inside_execCack (q : ColQueue) (rank chunk : Nat) : Inside (execCack q rank chunk s) s := gate_inside s (by simp)

@[simp] theorem inside_execDrow (p : FabPort) (m : FabMsg) : Inside (execDrow p m s) s := by
  refine fabGate_inside s _ _ ?_
  dsimp only
  have hrow : ∀ t : State, (overList t (linePieces (m.addr / 64 * 64) m.data.length (m.data.length + 1)) (fun s x =>
      match s.place x.1 with
      | some ph => s.writePhys ph ((m.data.drop (x.1 - m.addr / 64 * 64)).take x.2) m.poison
      | none => s)).outside false = t.outside false := fun t => outside_overList (fun u x => by split <;> simp) _ _
  split
  · simp
  · split
    · simp
    · split
      · simp
      · split
        · simp
        · exact (State.outside_fabReply ..).trans (hrow s)

@[simp] theorem inside_execDclaim (p : FabPort) (m : FabMsg) : Inside (execDclaim p m s) s := fabGate_inside s _ _ (by simp)
@[simp] theorem inside_execCollectiveProgressWrite (q : ColQueue) : Inside (execCollectiveProgressWrite q s) s := gate_inside s (by simp)

@[simp] theorem inside_execCollectiveEnd (q : ColQueue) : Inside (execCollectiveEnd q s) s := gate_inside s (by
  split <;> simp)

@[simp] theorem inside_execCollectiveTimeout (q : ColQueue) : Inside (execCollectiveTimeout q s) s := gate_inside s (by
  split <;> simp)

@[simp] theorem inside_execCollectiveAbort (q : ColQueue) (state error errNode : Nat) :
    Inside (execCollectiveAbort q state error errNode s) s := gate_inside s (by simp)

@[simp] theorem inside_execThermalHold (q : ColQueue) (node : Nat) : Inside (execThermalHold q node s) s := gate_inside s (by simp)
@[simp] theorem inside_execThermalRelease (q : ColQueue) (node : Nat) : Inside (execThermalRelease q node s) s := gate_inside s (by simp)

@[simp] theorem inside_execRnack (p : FabPort) (m : FabMsg) : Inside (execRnack p m s) s := by
  refine fabGate_inside s _ _ ?_
  dsimp only
  split
  · simp
  · refine outside_overList (fun t q => ?_) _ _
    split <;> simp

@[simp] theorem inside_execRemoteAccessTimeout (tag : Nat) : Inside (execRemoteAccessTimeout tag s) s := gate_inside s (by
  split <;> simp)

@[simp] theorem inside_execNodeDown (p : FabPort) (node : Nat) : Inside (execNodeDown p node s) s := gate_inside s (by simp)

@[simp] theorem inside_execFabricFlitReceive (p : FabPort) (f : Flit) (crc : DWord) (fecU : Nat) :
    Inside (execFabricFlitReceive p f crc fecU s) s := gate_inside s (by simp)

/-! ## Queues -/

@[simp] theorem inside_execSqDoorbell (p : PartId) (queue : Nat) (tail : Word) (ext : List Byte) :
    Inside (execSqDoorbell p queue tail ext s) s := gate_inside s (by simp)

@[simp] theorem inside_execCqDoorbell (p : PartId) (queue : Nat) (head : Word) : Inside (execCqDoorbell p queue head s) s := gate_inside s (by simp)

@[simp] theorem inside_execCqInterruptTimer (p : PartId) (queue : Nat) : Inside (execCqInterruptTimer p queue s) s := gate_inside s (by
  repeat' split
  all_goals simp)

@[simp] theorem inside_execJxlMsiWrite (p : PartId) (v : Nat) (addr : DWord) (value : Word) (mask : Bool) :
    Inside (execJxlMsiWrite p v addr value mask s) s := gate_inside s (by simp)

@[simp] theorem inside_execStampRepoll (p : PartId) (queue : Nat) (ext : List Byte) :
    Inside (execStampRepoll p queue ext s) s := gate_inside s (by simp)

@[simp] theorem inside_execFnEnable (p : PartId) (enable : Bool) : Inside (execFnEnable p enable s) s := gate_inside s (by simp)

@[simp] theorem inside_execCommandCompletion (p : PartId) (queue : Nat) (cid : BitVec 16) :
    Inside (execCommandCompletion p queue cid s) s := gate_inside s (by
  repeat' split
  all_goals simp)

@[simp] theorem inside_execQueueCreate (p : PartId) (q : Nat) : Inside (execQueueCreate p q s) s := runCmd_inside s _ _ _ (fun t c ht => by simp [ht])

@[simp] theorem inside_execQueueDelete (p : PartId) (q : Nat) : Inside (execQueueDelete p q s) s := runCmd_inside s _ _ _ (fun t c ht => by
  split <;> simp [ht])

@[simp] theorem inside_execQueueReset (p : PartId) (q : Nat) : Inside (execQueueReset p q s) s := runCmd_inside s _ _ _ (fun t c ht => by
  split <;> simp [ht])

@[simp] theorem inside_execCqCreate (p : PartId) (q : Nat) : Inside (execCqCreate p q s) s := runCmd_inside s _ _ _ (fun t c ht => by simp [ht])
@[simp] theorem inside_execCqDelete (p : PartId) (q : Nat) : Inside (execCqDelete p q s) s := runCmd_inside s _ _ _ (fun t c ht => by simp [ht])

@[simp] theorem inside_execAsBind (p : PartId) (q : Nat) : Inside (execAsBind p q s) s := by
  refine runCmd_inside s _ _ _ (fun t c ht => ?_)
  split
  · simp [ht]
  · split
    · simp [ht]
    · split
      · simp [ht]
      · split
        · simp [ht]
        · split
          · simp [ht]
          · simp
          · rename_i hfetch
            have hu := (State.outside_poolFetch (.inr ⟨_, hfetch⟩)).trans ht
            split <;> simp [hu]

@[simp] theorem inside_execXlInval (p : PartId) (q : Nat) : Inside (execXlInval p q s) s :=
  runCmd_inside s _ _ _ (fun t c ht => by simp [ht])

@[simp] theorem inside_execBiasSet (p : PartId) (q : Nat) : Inside (execBiasSet p q s) s := runCmd_inside s _ _ _ (fun t c ht => by simp [ht])

@[simp] theorem inside_execStatusRead (p : PartId) (q : Nat) : Inside (execStatusRead p q s) s := runCmd_inside s _ _ _ (fun t c ht => by
  repeat' split
  all_goals simp [ht])

@[simp] theorem inside_execWriteInline (p : PartId) (q : Nat) : Inside (execWriteInline p q s) s := runCmd_inside s _ _ _ (fun t c ht => by
  dsimp only
  repeat' split
  all_goals simp [ht])

@[simp] theorem inside_execNop (p : PartId) (q : Nat) : Inside (execNop p q s) s := runCmd_inside s _ _ _ (fun t c ht => by simp [ht])
@[simp] theorem inside_execHartStart (p : PartId) (q : Nat) : Inside (execHartStart p q s) s := runCmd_inside s _ _ _ (fun t c ht => by simp [ht])

@[simp] theorem inside_execQuiesce (p : PartId) (q : Nat) : Inside (execQuiesce p q s) s := by
  refine inside_ite s ?_ (runCmd_inside s _ _ _ (fun t c ht => by simp [ht]))
  split
  · rename_i htake
    exact inside_next s (by simpa using State.outside_takeCmd htake)
  · exact inside_next s rfl

@[simp] theorem inside_execResume (p : PartId) (q : Nat) : Inside (execResume p q s) s := runCmd_inside s _ _ _ (fun t c ht => by simp [ht])

/-! ## Launch -/

theorem State.outside_launchDesc {t : State} {p : Nat} {c : Slot} {ext b : List Byte} (h : s.launchDesc p c ext = .bytes t b) :
    t.outside false = s.outside false := by
  unfold State.launchDesc at h
  split at h
  · split at h
    · cases h; rfl
    · cases h
  · split at h
    · cases h
    · split at h
      · cases h
      · exact State.outside_cmdFetch h

@[simp] theorem inside_execKernelLaunch (p : PartId) (q : Nat) (ext : List Byte) : Inside (execKernelLaunch p q ext s) s := by
  refine runCmd_inside s _ _ _ (fun t c ht => ?_)
  split
  · simp [ht]
  · split
    · simp [ht]
    · split
      · simp [ht]
      · split
        · split <;> simp [ht]
        · simp
        · rename_i u b hdesc
          have hu : u.outside false = s.outside false := (State.outside_launchDesc _ hdesc).trans ht
          dsimp only
          split
          · simp
          · simp [hu]
          · split
            · simp [hu]
            · rename_i v lb hread
              have hv : v.outside false = s.outside false := by
                split at hread
                · exact (State.outside_readVirt hread).trans hu
                · cases hread
              split
              · simp [hv]
              · split
                · simp [hv]
                · split <;> simp [hv]

@[simp] theorem inside_execKernelStart (n : Nat) : Inside (execKernelStart n s) s := gate_inside s (by
  repeat' split
  all_goals simp)

@[simp] theorem inside_execKernelTimeout (n : Nat) : Inside (execKernelTimeout n s) s := gate_inside s (by
  split <;> simp)

/-! ## Resets -/

@[simp] theorem inside_execJxlResetNFall (low1us : Bool) : Inside (execJxlResetNFall low1us s) s := inside_next s (by simp)
@[simp] theorem inside_execJxlResetNRise : Inside (execJxlResetNRise s) s := inside_next s (by simp)
@[simp] theorem inside_execResetCore (p : PartId) (q : Nat) : Inside (execResetCore p q s) s := runCmd_inside s _ _ _ (fun t c ht => by simp [ht])
@[simp] theorem inside_execCoreResetDone (core : CoreId) : Inside (execCoreResetDone core s) s := gate_inside s (by simp)
@[simp] theorem inside_execResetDie (p : PartId) (q : Nat) : Inside (execResetDie p q s) s := runCmd_inside s _ _ _ (fun t c ht => by simp [ht])
@[simp] theorem inside_execResetPreconditionTimeout (die : DieId) : Inside (execResetPreconditionTimeout die s) s := gate_inside s (by simp)
@[simp] theorem inside_execDieResetDone (die : DieId) : Inside (execDieResetDone die s) s := gate_inside s (by simp)

@[simp] theorem inside_execResetPartition (p : PartId) (q : Nat) :
    Inside (execResetPartition p q s) s := runCmd_inside s _ _ _ (fun t c ht => by simp [ht])

@[simp] theorem inside_execFnReset (p : PartId) : Inside (execFnReset p s) s := gate_inside s (by simp)
@[simp] theorem inside_execPartitionResetDone (p : PartId) : Inside (execPartitionResetDone p s) s := gate_inside s (by simp)
@[simp] theorem inside_execQuiesceDone (p : PartId) : Inside (execQuiesceDone p s) s := gate_inside s (by simp)
@[simp] theorem inside_execQuiesceTimeout (p : PartId) : Inside (execQuiesceTimeout p s) s := gate_inside s (by simp)

/-! ## Bringup -/

@[simp] theorem inside_execMgmtDieAnswerTimeout (die95 : Bool) : Inside (execMgmtDieAnswerTimeout die95 s) s := gate_inside s (by simp)

@[simp] theorem inside_execFloorplanLoad (peerAgreesA peerAgreesB : Bool) :
    Inside (execFloorplanLoad peerAgreesA peerAgreesB s) s := gate_inside s (by simp)

@[simp] theorem inside_execServiceLevelEntry (level : Fin 5) : Inside (execServiceLevelEntry level s) s := gate_inside s (by simp)
@[simp] theorem inside_execDieOnline (stack : StackId) : Inside (execDieOnline stack s) s := gate_inside s (by simp)
@[simp] theorem inside_execCoreSelfTestDone (core : CoreId) (passed : Bool) : Inside (execCoreSelfTestDone core passed s) s := gate_inside s (by simp)

theorem outside_rateFailed (t : State) (u : List RateUnit) : ({ t with rateFailed := u } : State).outside false = t.outside false := rfl

@[simp] theorem inside_execRateChange (unit : RateUnit) (ok : Bool) : Inside (execRateChange unit ok s) s := by
  refine gate_inside s ?_
  extract_lets fail
  have hfail : ∀ t, (fail t).outside false = t.outside false := fun t =>
    (outside_rateFailed (t.setFld 94 0x20100 31 31 1) (t.rateFailed ++ [unit])).trans (State.outside_setFld_any ..)
  clear_value fail
  split
  · rfl
  · split
    · simp [hfail]
    · extract_lets l e
      split
      · rfl
      · split
        · exact (State.outside_setFld_any ..).trans (State.outside_setLanes ..)
        · exact hfail s
    · split
      · rfl
      · split
        · exact State.outside_setFld_any ..
        · exact hfail s

@[simp] theorem inside_execBringUpDeadline : Inside (execBringUpDeadline s) s := gate_inside s (by simp)

@[simp] theorem inside_execFlpDelta (p : PartId) (q : Nat) (input : DeltaIn) : Inside (execFlpDelta p q input s) s := by
  refine runCmd_inside s _ _ _ (fun t c ht => ?_)
  dsimp only
  split
  · simp [ht]
  · split
    · simp [ht]
    · split
      · simp [ht]
      · simp
      · rename_i hfetch
        have hu := (State.outside_cmdFetch hfetch).trans ht
        simp [hu]

/-! ## Companion -/

@[simp] theorem inside_execCsrWrite (agent addr size : Nat) (value : DWord) :
    Inside (execCsrWrite agent addr size value s) s := gate_inside s (by simp)

@[simp] theorem inside_execNcRd (p : JxlPort) (m : LinkMsg) : Inside (execNcRd p m s) s := by
  refine inside_ite s (inside_next s rfl) (inside_next s ?_)
  split
  · simp
  · simp
  · simp
  · simp

@[simp] theorem inside_execNcWr (p : JxlPort) (m : LinkMsg) : Inside (execNcWr p m s) s := by
  unfold execNcWr
  split <;> simp

@[simp] theorem inside_execNcCmp (p : JxlPort) (m : LinkMsg) : Inside (execNcCmp p m s) s := by
  refine inside_ite s (inside_next s rfl) ?_
  split
  · exact inside_next s rfl
  · exact inside_ite s (inside_next s (by simp)) (inside_next s (by simp))

/-! ## Hallway -/

@[simp] theorem inside_execHallwayPacketReceive (p : HalPort) (pkt : Packet) (crcOk : Bool) :
    Inside (execHallwayPacketReceive p pkt crcOk s) s := gate_inside s (by simp)

@[simp] theorem inside_execHallwayReplayRequest (p : HalPort) : Inside (execHallwayReplayRequest p s) s := gate_inside s (by simp)
@[simp] theorem inside_execHallwayPortTrain (p : HalPort) (passed : BitVec 66) : Inside (execHallwayPortTrain p passed s) s := gate_inside s (by simp)
@[simp] theorem inside_execCheckWindow (p : HalPort) (errors : List (Nat × Nat)) : Inside (execCheckWindow p errors s) s := gate_inside s (by simp)
@[simp] theorem inside_execForwardedClockLoss (p : HalPort) : Inside (execForwardedClockLoss p s) s := gate_inside s (by simp)
@[simp] theorem inside_execWidthToken (p : HalPort) (t : BitVec 128) : Inside (execWidthToken p t s) s := gate_inside s (by simp)
@[simp] theorem inside_execNegotiationRoundTimeout (p : HalPort) : Inside (execNegotiationRoundTimeout p s) s := gate_inside s (by simp)
@[simp] theorem inside_execNegotiationBackoffExpiry (p : HalPort) : Inside (execNegotiationBackoffExpiry p s) s := gate_inside s (by simp)

/-! ## Hart -/

@[simp] theorem inside_execHartInstruction (hart : HartId) (word : Word) (ext : List Byte) :
    Inside (execHartInstruction hart word ext s) s := hartRun_inside s _ _ _ _

@[simp] theorem inside_execLr (hart : HartId) (word : Word) : Inside (execLr hart word s) s := hartRun_inside s _ _ _ _
@[simp] theorem inside_execSc (hart : HartId) (word : Word) : Inside (execSc hart word s) s := hartRun_inside s _ _ _ _
@[simp] theorem inside_execCboClean (hart : HartId) (rs1 : Fin 32) : Inside (execCboClean hart rs1 s) s := hartRun_inside s _ _ _ _
@[simp] theorem inside_execCboFlush (hart : HartId) (rs1 : Fin 32) : Inside (execCboFlush hart rs1 s) s := hartRun_inside s _ _ _ _
@[simp] theorem inside_execCboInval (hart : HartId) (rs1 : Fin 32) : Inside (execCboInval hart rs1 s) s := hartRun_inside s _ _ _ _
@[simp] theorem inside_execCboZero (hart : HartId) (rs1 : Fin 32) : Inside (execCboZero hart rs1 s) s := hartRun_inside s _ _ _ _
@[simp] theorem inside_execWfi (hart : HartId) : Inside (execWfi hart s) s := hartRun_inside s _ _ _ _
@[simp] theorem inside_execLrSnoopDelayExpiry (hart : HartId) : Inside (execLrSnoopDelayExpiry hart s) s := gate_inside s (by simp)
@[simp] theorem inside_execC2EntryTimer (hart : HartId) : Inside (execC2EntryTimer hart s) s := gate_inside s (by simp)
@[simp] theorem inside_execC3EntryTimer (cluster : ClusterId) : Inside (execC3EntryTimer cluster s) s := gate_inside s (by simp)
@[simp] theorem inside_execHartWake (hart : HartId) : Inside (execHartWake hart s) s := gate_inside s (by simp)

@[simp] theorem inside_execInterruptFileWrite (hart : HartId) (file : Fin 9) (identity : Word) :
    Inside (execInterruptFileWrite hart file identity s) s := gate_inside s (by simp)

/-! ## Power -/

@[simp] theorem inside_execPowerEpochStart (die : DieId) (mean : Nat) : Inside (execPowerEpochStart die mean s) s := gate_inside s (by simp)
@[simp] theorem inside_execTokenGiveTimer (die : DieId) : Inside (execTokenGiveTimer die s) s := gate_inside s (by simp)
@[simp] theorem inside_execState (die partner : DieId) (budget want : Nat) : Inside (execState die partner budget want s) s := gate_inside s (by simp)

@[simp] theorem inside_execGive (die giver : DieId) (tokens generation : Nat) (returned : Bool) :
    Inside (execGive die giver tokens generation returned s) s := gate_inside s (by simp)

@[simp] theorem inside_execCut (die : DieId) (generation factor : Nat) : Inside (execCut die generation factor s) s := gate_inside s (by simp)

@[simp] theorem inside_execBudgetRecompute (meanCentivolts : Nat) : Inside (execBudgetRecompute meanCentivolts s) s := by
  refine gate_inside s ?_
  extract_lets input limit host p old s1 m f s2
  have hs1 : s1.outside false = s.outside false := by simp [s1]
  have hs2 : s2.outside false = s.outside false := by simp [s2, hs1]
  clear_value s1 s2
  simp [hs1, hs2]

@[simp] theorem inside_execPkgLimitWrite (_root95 : Bool) (limit : Word) : Inside (execPkgLimitWrite _root95 limit s) s := gate_inside s (by simp)
@[simp] theorem inside_execFastThrottleLift : Inside (execFastThrottleLift s) s := gate_inside s (by simp)
@[simp] theorem inside_execRegulatorOutOfRange (die : DieId) : Inside (execRegulatorOutOfRange die s) s := gate_inside s (by simp)

@[simp] theorem inside_execPowerMeasure (die : DieId) (tokens highest100us : Nat) (limited : Bool) :
    Inside (execPowerMeasure die tokens highest100us limited s) s := gate_inside s (by simp)

@[simp] theorem inside_execDieTempPoll (die : DieId) (readings : List Nat) : Inside (execDieTempPoll die readings s) s := gate_inside s (by simp)
@[simp] theorem inside_execThrottleReleaseStep (die : DieId) : Inside (execThrottleReleaseStep die s) s := gate_inside s (by simp)

@[simp] theorem inside_execAtticTempPoll (stack : StackId) (readings : List Nat) :
    Inside (execAtticTempPoll stack readings s) s := gate_inside s (by simp)

@[simp] theorem inside_execAnnexTempPoll (stack : Fin 12) (readings : List Nat) :
    Inside (execAnnexTempPoll stack readings s) s := gate_inside s (by simp)

@[simp] theorem inside_execCoreClockGate (core : CoreId) : Inside (execCoreClockGate core s) s := gate_inside s (by simp)

@[simp] theorem inside_execSupplyDroop (island : DroopIsland) (cycles : Nat) : Inside (execSupplyDroop island cycles s) s := gate_inside s (by
  split <;> simp)

/-! ## Management -/

@[simp] theorem inside_execMgtStatus (r : MgtReq) : Inside (execMgtStatus r s) s := inside_next s (outside_mgtAnswer s _ r (by simp))
@[simp] theorem inside_execMgtTelemetry (r : MgtReq) : Inside (execMgtTelemetry r s) s := inside_next s (outside_mgtAnswer s _ r (by simp))
@[simp] theorem inside_execMgtFaultRead (r : MgtReq) : Inside (execMgtFaultRead r s) s := inside_next s (outside_mgtAnswer s _ r (by simp))
@[simp] theorem inside_execMgtFaultFree (r : MgtReq) : Inside (execMgtFaultFree r s) s := inside_next s (outside_mgtAnswer s _ r (by simp))
@[simp] theorem inside_execMgtFlpLoad (r : MgtReq) : Inside (execMgtFlpLoad r s) s := inside_next s (outside_mgtAnswer s _ r (by simp))
@[simp] theorem inside_execMgtFlashRead (r : MgtReq) : Inside (execMgtFlashRead r s) s := inside_next s (outside_mgtAnswer s _ r (by simp))
@[simp] theorem inside_execMgtFlashErase (r : MgtReq) : Inside (execMgtFlashErase r s) s := inside_next s (outside_mgtAnswer s _ r (by simp))
@[simp] theorem inside_execMgtFlashWrite (r : MgtReq) : Inside (execMgtFlashWrite r s) s := inside_next s (outside_mgtAnswer s _ r (by simp))
@[simp] theorem inside_execMgtPkgLimit (r : MgtReq) : Inside (execMgtPkgLimit r s) s := inside_next s (outside_mgtAnswer s _ r (by simp))
@[simp] theorem inside_execMgtRtStage (r : MgtReq) : Inside (execMgtRtStage r s) s := inside_next s (outside_mgtAnswer s _ r (by simp))
@[simp] theorem inside_execMgtFenceErase (r : MgtReq) : Inside (execMgtFenceErase r s) s := inside_next s (outside_mgtAnswer s _ r (by simp))
@[simp] theorem inside_execMgtRepairErase (r : MgtReq) : Inside (execMgtRepairErase r s) s := inside_next s (outside_mgtAnswer s _ r (by simp))
@[simp] theorem inside_execSecAdvance (r : MgtReq) : Inside (execSecAdvance r s) s := inside_next s (outside_mgtAnswer s _ r (by simp))
@[simp] theorem inside_execSecDebugChallenge (r : MgtReq) : Inside (execSecDebugChallenge r s) s := inside_next s (outside_mgtAnswer s _ r (by simp))
@[simp] theorem inside_execSecDebugUnlock (r : MgtReq) : Inside (execSecDebugUnlock r s) s := inside_next s (outside_mgtAnswer s _ r (by simp))
@[simp] theorem inside_execSecDebugLock (r : MgtReq) : Inside (execSecDebugLock r s) s := inside_next s (outside_mgtAnswer s _ r (by simp))
@[simp] theorem inside_execDebugUnlockExpiry : Inside (execDebugUnlockExpiry s) s := gate_inside s (by simp)

@[simp] theorem inside_execLongOperationDone (tag : BitVec 16) (status : Nat) : Inside (execLongOperationDone tag status s) s := by
  unfold execLongOperationDone
  split
  · split
    · exact gate_inside s (by simp)
    · exact inside_next s rfl
  · refine inside_ite s (inside_next s rfl) (inside_ite s (inside_next s (by simp)) (inside_ite s (inside_next s (by simp)) ?_))
    split
    · exact inside_next s (by simp)
    · exact inside_next s (by simp)

@[simp] theorem inside_execGetVersion (t : Transport) : Inside (execGetVersion t s) s := inside_next s (by simp)
@[simp] theorem inside_execGetCapabilities (t : Transport) : Inside (execGetCapabilities t s) s := inside_next s (by simp)

@[simp] theorem inside_execNegotiateAlgorithms (t : Transport) (rsa slh : Bool) :
    Inside (execNegotiateAlgorithms t rsa slh s) s := inside_next s (by simp)

@[simp] theorem inside_execGetCertificate (t : Transport) (slot offset length : Nat) :
    Inside (execGetCertificate t slot offset length s) s := inside_next s (by simp)

@[simp] theorem inside_execChallenge (t : Transport) (slot : Nat) (nonce : List Byte) :
    Inside (execChallenge t slot nonce s) s := inside_next s (by simp)

@[simp] theorem inside_execGetMeasurements (t : Transport) (nonce : List Byte) : Inside (execGetMeasurements t nonce s) s := inside_next s (by simp)
@[simp] theorem inside_execPldmSensorRead (bus : Bool) (sensor : Nat) : Inside (execPldmSensorRead bus sensor s) s := inside_next s (by simp)

/-! ## Walk -/

@[simp] theorem inside_execPageWalk (c : CoreId) (ag : XlAgent) (va : DWord) (a : XlAccess) (raced : Bool) :
    Inside (execPageWalk c ag va a raced s) s := by
  refine gate_inside s ?_
  split
  · split
    · rename_i hwalk
      simp [State.outside_fst hwalk]
    · rename_i hwalk
      simp [State.outside_fst hwalk]
    · rename_i hwalk
      split
      · simp [State.outside_fst hwalk]
      · split
        · split
          · rename_i hpost
            simp [State.outside_fst hpost, State.outside_fst hwalk]
          · rename_i hpost
            simp [State.outside_fst hpost, State.outside_fst hwalk]
        · simp [State.outside_fst hwalk]
  · rfl

@[simp] theorem inside_execXlResolve (p : PartId) (q : Nat) : Inside (execXlResolve p q s) s := runCmd_inside s _ _ _ (fun t c ht => by
  repeat' split
  all_goals simp [ht])

end

end Sys2Proof.Machine
end
section
/-! # The queue of commands and device time, through the resets too -/

namespace Sys2Proof.Machine

/-! ## Every command but those that reset the package, or ask for it -/

/-- The commands that reset the package or enter another phase, and those that may ask for it. -/
def resets : Instr → Bool
  | .pwrOkRise | .vinRise | .pwrOkFall _ | .powerDownCommitDone | .refclkLoss _ | .resetNFall _ | .resetNRise | .bootStageVerify .. | .safeStateCommand _
  | .mgtReset _ | .mctpMessage .. | .resetWarm .. | .inputSample .. | .mgtCmd .. => true
  | _ => false

/-- Each arm's own lemma says it. -/
theorem exec_inside (c : Instr) (s : State) (h : resets c = false) : Inside (exec c s) s := by
  cases c with
  | pwrOkRise | vinRise | pwrOkFall | powerDownCommitDone | refclkLoss | resetNFall | resetNRise | bootStageVerify | safeStateCommand
  | mgtReset | mctpMessage | resetWarm | inputSample | mgtCmd => cases h
  | _ => simp [exec]

/-! ## The queue and device time through a reset -/

/-- The queue of commands and device time, which a change of phase leaves too. -/
def State.queueTime (s : State) : List Instr × Nat := (s.pending, s.time)

section
variable {s t : State}

theorem State.queueTime_of_outside (h : t.outside false = s.outside false) : t.queueTime = s.queueTime :=
  Prod.ext (State.pending_of_outside h) (State.time_of_outside h)

theorem queueTime_gate {f : State → State} (hf : (f s).queueTime = s.queueTime) (h : gate s f = .next t) : t.queueTime = s.queueTime := by
  unfold gate at h
  split at h
  · cases h
    exact hf
  · cases h
    rfl

theorem queueTime_runCmd {p : PartId} {q op : Nat} {f : State → Slot → State}
    (hf : ∀ u c, u.outside false = s.outside false → (f u c).queueTime = s.queueTime) (h : runCmd p q op s f = .next t) : t.queueTime = s.queueTime := by
  obtain hout | ⟨u, c, hu, rfl⟩ := runCmd_cases s h
  · exact State.queueTime_of_outside hout
  · exact hf u c hu

end

section
variable (s : State)

theorem State.queueTime_nodeDownAll : s.nodeDownAll.queueTime = s.queueTime := by
  obtain ⟨m, k, h⟩ := s.nodeDownAll_frame
  rw [h]
  rfl

theorem State.queueTime_powerDown : s.powerDown.queueTime = s.queueTime := by
  unfold State.powerDown
  split
  · rfl
  · exact s.queueTime_nodeDownAll

/-- What the safe state puts in order. -/
theorem State.queueTime_prepared (u : State) : (u.nodeDownAll.selfRefresh.writeDump 0).queueTime = u.queueTime := by
  obtain ⟨c, hc⟩ := u.nodeDownAll.selfRefresh_frame
  obtain ⟨d, hd⟩ := u.nodeDownAll.selfRefresh.writeDump_frame 0
  rw [hd, hc]
  exact u.queueTime_nodeDownAll

theorem State.queueTime_safeState (u : State) : ({ u with
    phase := .safe, pins := { u.pins with ready := false, fatalN := false }, remotes := ⟨[]⟩ } : State).queueTime = u.queueTime := rfl

theorem State.queueTime_enterSafe : s.enterSafe.queueTime = s.queueTime :=
  calc s.enterSafe.queueTime
    _ = ((s.setFld 94 0x20100 30 30 1).nodeDownAll.selfRefresh.writeDump 0).queueTime := State.queueTime_safeState _
    _ = (s.setFld 94 0x20100 30 30 1).queueTime := State.queueTime_prepared _
    _ = s.queueTime := State.queueTime_of_outside (State.outside_setFld_any ..)

theorem State.queueTime_warmReset (cause : Nat) : (s.warmReset cause).queueTime = s.queueTime := by
  obtain ⟨c, o, d, m, h⟩ := s.warmReset_eq cause
  rw [h]
  rfl

/-- The end of a power-down begins anew: device time starts at zero, and the queue stays. -/
theorem State.queueTime_powerGone : s.powerGone.queueTime = (s.pending, 0) := by
  obtain ⟨d, h⟩ := s.writeDump_frame 2
  unfold State.powerGone
  dsimp only
  rw [h]
  split
  · rfl
  · rfl

theorem State.queueTime_mgtReset (r : MgtReq) : (s.mgtReset r).1.queueTime = s.queueTime := by
  by_cases hsel : leAt r.payload 0 1 = 0
  · unfold State.mgtReset
    rw [hsel]
    exact s.queueTime_warmReset _
  · exact State.queueTime_of_outside (s.outside_mgtReset r hsel)

/-- Every command of the management plane leaves the queue and device time. -/
theorem State.queueTime_mgtOp (code : Nat) (r : MgtReq) : (mgtOp code s r).1.queueTime = s.queueTime := by
  unfold mgtOp
  split
  case h_9 => exact s.queueTime_mgtReset r
  all_goals exact State.queueTime_of_outside (by simp)

theorem State.queueTime_mgtAnswer (code : Nat) (r : MgtReq) : (mgtAnswer code (mgtOp code) r s).queueTime = s.queueTime := by
  unfold mgtAnswer
  split
  · rename_i hrun
    refine (State.queueTime_of_outside (State.outside_send ..)).trans ?_
    obtain hx | hx := s.mgtRun_cases hrun
    · rw [hx]
    · exact (congrArg (fun x => State.queueTime x.1) hx).trans (s.queueTime_mgtOp code r)
  · rfl

theorem State.queueTime_mctpMessage {t : State} {bus : Bool} {type : Byte} {payload : List Byte} (h : execMctpMessage bus type payload s = .next t) :
    t.queueTime = s.queueTime := by
  obtain rfl := Host.Outcome.next.inj h
  split
  · exact s.queueTime_mgtAnswer _ _
  · exact State.queueTime_of_outside (by simp)
  · exact State.queueTime_of_outside (by simp)
  · rfl

/-- The Pool, the cores, the harts, the configuration in force and the flash. -/
def State.stored (s : State) : Memory × Map Core × Map Hart × Option Floorplan × Map Memory := (s.pool, s.cores, s.harts, s.flp, s.mgmt.flash)

/-- A sample of the input is recorded; then a power-down begins, nothing more happens, or a running package throttles. -/
theorem execInputSample_cases {t : State} {v a : Nat} (h : execInputSample v a s = .next t) : s.phase = .off ∧ t = s ∨
    ∃ u : State, u.outside false = s.outside false ∧ u.stored = s.stored ∧
      (t = u.powerDown ∨ t = u ∨ s.phase = .running ∧ t.outside false = u.outside false) := by
  unfold execInputSample at h
  split at h
  · rename_i hoff
    exact .inl ⟨hoff, (Host.Outcome.next.inj h).symm⟩
  · extract_lets s1 pins u s2 s3 at h
    have hu : u.outside false = s.outside false := by simp [u, pins, s1]
    refine .inr ⟨u, hu, rfl, ?_⟩
    split at h
    · exact .inl (Host.Outcome.next.inj h).symm
    · split at h
      · rename_i hover
        obtain ⟨-, -, hrun⟩ := hover
        obtain rfl := Host.Outcome.next.inj h
        exact .inr (.inr ⟨hrun, by simp [s3, s2]⟩)
      · exact .inr (.inl (Host.Outcome.next.inj h).symm)

theorem State.queueTime_mgtCmd {t : State} {p : PartId} {q : Nat} {ext : List Byte} (h : execMgtCmd p q ext s = .next t) : t.queueTime = s.queueTime := by
  refine queueTime_runCmd (fun u c hu => ?_) h
  have hend : ∀ n v : Nat, (u.endCmd p q c n v).queueTime = s.queueTime := fun n v => State.queueTime_of_outside (by simp [hu])
  dsimp only
  split
  · exact hend _ _
  · split
    · exact hend _ _
    · split
      · exact hend _ _
      · exact State.queueTime_of_outside (by simp)
      · rename_i hfetch
        have hv := (State.outside_cmdFetch hfetch).trans hu
        split
        · exact State.queueTime_of_outside (by simp [hv])
        · rename_i w _ _ hrun
          split
          · exact State.queueTime_of_outside (by simp [hv])
          · split
            · exact State.queueTime_of_outside (by simp [hv])
            · refine (State.queueTime_of_outside (s := w) (by simp)).trans ?_
              obtain hx | hx := State.mgtRun_cases _ hrun
              · rw [hx]
                exact State.queueTime_of_outside hv
              · exact ((congrArg (fun x => State.queueTime x.1) hx).trans (State.queueTime_mgtOp _ _ _)).trans (State.queueTime_of_outside hv)

end

/-! ## Every command -/

/-- The commands that may begin a cold reset (R99). -/
def coldResets (c : Instr) : Prop := c = .pwrOkRise ∨ c = .vinRise ∨ c = .resetNRise ∨ c = .powerDownCommitDone

/-- A command leaves the queue, and device time but for a cold reset. -/
theorem exec_queueTime {c : Instr} {s t : State} (h : exec c s = .next t) :
    t.queueTime = s.queueTime ∨ t.queueTime = (s.pending, 0) ∧ coldResets c := by
  cases c with
  | pwrOkRise =>
    obtain rfl := Host.Outcome.next.inj h
    split
    · exact .inr ⟨rfl, .inl rfl⟩
    · exact .inl rfl
  | vinRise =>
    obtain rfl := Host.Outcome.next.inj h
    split
    · exact .inr ⟨rfl, .inr (.inl rfl)⟩
    · exact .inl rfl
  | pwrOkFall =>
    obtain rfl := Host.Outcome.next.inj h
    split
    · exact .inl (State.queueTime_powerDown _)
    · exact .inl rfl
  | powerDownCommitDone =>
    obtain rfl := Host.Outcome.next.inj h
    split
    · exact .inr ⟨s.queueTime_powerGone, .inr (.inr (.inr rfl))⟩
    · exact .inl rfl
  | refclkLoss =>
    obtain rfl := Host.Outcome.next.inj h
    split
    · exact .inl s.queueTime_powerDown
    · exact .inl rfl
  | resetNFall =>
    obtain rfl := Host.Outcome.next.inj h
    split
    · dsimp only
      split
      · exact .inl rfl
      · exact .inl (State.queueTime_warmReset _ _)
    · exact .inl rfl
  | resetNRise =>
    obtain rfl := Host.Outcome.next.inj h
    split
    · dsimp only
      split
      · exact .inr ⟨rfl, .inr (.inr (.inl rfl))⟩
      · exact .inl rfl
    · exact .inl rfl
  | bootStageVerify =>
    replace h : execBootStageVerify _ _ _ _ s = .next t := h
    refine .inl (queueTime_gate ?_ h)
    dsimp only
    split
    · rfl
    · split
      · rfl
      · exact State.queueTime_of_outside (by simp)
  | safeStateCommand => exact .inl (queueTime_gate s.queueTime_enterSafe h)
  | mgtReset r =>
    obtain rfl := Host.Outcome.next.inj h
    exact .inl (s.queueTime_mgtAnswer 0x20 r)
  | mctpMessage => exact .inl (s.queueTime_mctpMessage h)
  | resetWarm p q =>
    left
    change execResetWarm p q s = _ at h
    unfold execResetWarm at h
    split at h
    · obtain rfl := Host.Outcome.next.inj h
      split
      · exact s.queueTime_warmReset 3
      · rfl
    · exact queueTime_runCmd (fun u _ hu => (u.queueTime_warmReset 2).trans (State.queueTime_of_outside hu)) h
  | inputSample =>
    left
    obtain ⟨-, rfl⟩ | ⟨u, hu, -, rfl | rfl | ⟨-, ht⟩⟩ := execInputSample_cases s h
    · rfl
    · exact u.queueTime_powerDown.trans (State.queueTime_of_outside hu)
    · exact State.queueTime_of_outside hu
    · exact State.queueTime_of_outside (ht.trans hu)
  | mgtCmd => exact .inl (s.queueTime_mgtCmd h)
  | _ => exact .inl (State.queueTime_of_outside (exec_inside _ s rfl t h))

/-- Settles O56: a reset keeps the queue, and every other command changes nothing outside itself. -/
theorem commandsComeFromOutside : Obligations.CommandsComeFromOutside := by
  intro c s t h
  obtain hkept | ⟨hcold, -⟩ := exec_queueTime h
  · exact congrArg Prod.fst hkept
  · exact congrArg Prod.fst hcold

/-- Settles O58: only a cold reset starts device time anew. -/
theorem deviceTimeRuns : Obligations.DeviceTimeRuns := by
  intro c s t h
  obtain hkept | ⟨hcold, hc⟩ := exec_queueTime h
  · exact .inl (congrArg Prod.snd hkept)
  · exact .inr ⟨congrArg Prod.snd hcold, hc⟩

end Sys2Proof.Machine
end
section
/-! # The phases in which the package does not run: what ends them, and what is kept in them -/

namespace Sys2Proof.Machine

/-! ## What ends a phase -/

/-- A loss of power, or what may be one. -/
def powerLoss (c : Instr) : Prop := c = .pwrOkFall true ∨ c = .refclkLoss true ∨ ∃ v a : Nat, c = .inputSample v a

/-- The commands that may carry a management reset. -/
def mgtResets (c : Instr) : Prop := (∃ r : MgtReq, c = .mgtReset r) ∨ ∃ (b : Bool) (x : Byte) (l : List Byte), c = .mctpMessage b x l

/-- The commands that may end a phase other than running. -/
def ends : Phase → Instr → Prop
  | .off, c => c = .pwrOkRise ∨ c = .vinRise
  | .powerDown, c => c = .powerDownCommitDone
  | .held, c => c = .resetNRise ∨ powerLoss c
  | .recovery, c => c = .resetNFall true ∨ powerLoss c ∨ mgtResets c
  | .safe, c => c = .resetNFall true ∨ powerLoss c ∨ mgtResets c ∨ ∃ (p : PartId) (q : Nat), c = .resetWarm p q
  | .running, _ => True

section
variable {s t : State}

/-- A command's state by its outcome. -/
theorem eq_of_next {o : Outcome} {u : State} (ho : o = .next u) (h : o = .next t) : t = u := Host.Outcome.next.inj (h.symm.trans ho)

theorem exec_pwrOkRise_on (h : s.phase ≠ .off) : exec .pwrOkRise s = .next { s with pins := { s.pins with pwrOk := true } } :=
  congrArg Host.Outcome.next (if_neg h)

theorem exec_vinRise_on (h : s.phase ≠ .off) : exec .vinRise s = .next { s with pins := { s.pins with vinOk := true } } :=
  congrArg Host.Outcome.next (if_neg (fun hoff => h (And.left hoff)))

theorem exec_resetNRise_free (h : s.phase ≠ .held) : exec .resetNRise s = .next { s with pins := { s.pins with resetN := true } } :=
  congrArg Host.Outcome.next (if_neg h)

/-- RESET_N changes its pin alone where the package has no power, loses it, or is held already. -/
theorem exec_resetNFall_deaf (h : s.phase = .off ∨ s.phase = .powerDown ∨ s.phase = .held) :
    exec (.resetNFall true) s = .next { s with pins := { s.pins with resetN := false } } := by
  dsimp only [exec, execResetNFall]
  rw [if_pos rfl, if_pos h]

theorem State.powerDown_ends {c : Instr} (hloss : powerLoss c) (u : State) : u.powerDown.phase = u.phase ∨ ends u.phase c := by
  cases hphase : u.phase with
  | off => exact .inl ((congrArg State.phase (if_pos (.inl hphase))).trans hphase)
  | powerDown => exact .inl ((congrArg State.phase (if_pos (.inr hphase))).trans hphase)
  | held => exact .inr (.inr hloss)
  | recovery => exact .inr (.inr (.inl hloss))
  | safe => exact .inr (.inr (.inl hloss))
  | running => exact .inr trivial

/-- The management plane answers nothing without power, in reset, or while a power-down commits (R532). -/
theorem mgtAnswer_deaf (hdeaf : s.phase = .off ∨ s.phase = .held ∨ s.phase = .powerDown) (code : Nat) (op : MgtFn) (r : MgtReq) :
    mgtAnswer code op r s = s := by
  have hnone : s.mgtRun code op r = none := by
    unfold State.mgtRun
    obtain h | h | h := hdeaf <;> rw [h]
  unfold mgtAnswer
  rw [hnone]

theorem phase_deaf : s.phase = .running ∨ (s.phase = .recovery ∨ s.phase = .safe) ∨ s.phase = .off ∨ s.phase = .held ∨ s.phase = .powerDown := by
  cases s.phase <;> simp

theorem ends_mgtReset {c : Instr} (hmgt : mgtResets c) (hphase : s.phase = .recovery ∨ s.phase = .safe) : ends s.phase c := by
  obtain h | h := hphase <;> rw [h]
  · exact .inr (.inr hmgt)
  · exact .inr (.inr (.inl hmgt))

/-- A management reset, direct or in a message, ends no phase but ROM recovery and the safe state. -/
theorem execMctpMessage_ends {bus : Bool} {type : Byte} {payload : List Byte} (h : execMctpMessage bus type payload s = .next t) :
    t.phase = s.phase ∨ ends s.phase (.mctpMessage bus type payload) := by
  obtain hrun | hmgt | hdeaf := phase_deaf (s := s)
  · exact .inr (hrun ▸ trivial)
  · exact .inr (ends_mgtReset (.inr ⟨_, _, _, rfl⟩) hmgt)
  · left
    obtain rfl := Host.Outcome.next.inj h
    split
    · exact congrArg State.phase (mgtAnswer_deaf hdeaf _ _ _)
    · exact State.phase_of_outside (ports := false) (by simp)
    · exact State.phase_of_outside (ports := false) (by simp)
    · rfl

theorem execInputSample_ends {v a : Nat} (h : execInputSample v a s = .next t) : t.phase = s.phase ∨ ends s.phase (.inputSample v a) := by
  obtain ⟨-, rfl⟩ | ⟨u, hu, -, rfl | rfl | ⟨-, ht⟩⟩ := execInputSample_cases s h
  · exact .inl rfl
  · rw [← State.phase_of_outside hu]
    exact u.powerDown_ends (.inr (.inr ⟨v, a, rfl⟩))
  · exact .inl (State.phase_of_outside hu)
  · exact .inl (State.phase_of_outside (ht.trans hu))

/-- Only the commands that may end a phase change it. -/
theorem exec_ends {c : Instr} (h : exec c s = .next t) : t.phase = s.phase ∨ ends s.phase c := by
  by_cases hrun : s.phase = .running
  · exact .inr (hrun ▸ trivial)
  cases c with
  | pwrOkRise =>
    by_cases hoff : s.phase = .off
    · exact .inr (hoff ▸ .inl rfl)
    · exact .inl (by rw [eq_of_next (exec_pwrOkRise_on hoff) h])
  | vinRise =>
    by_cases hoff : s.phase = .off
    · exact .inr (hoff ▸ .inr rfl)
    · exact .inl (by rw [eq_of_next (exec_vinRise_on hoff) h])
  | pwrOkFall low =>
    obtain rfl := Host.Outcome.next.inj h
    cases low with
    | false => exact .inl rfl
    | true => exact State.powerDown_ends (.inl rfl) { s with pins := { s.pins with pwrOk := false } }
  | powerDownCommitDone =>
    obtain rfl := Host.Outcome.next.inj h
    by_cases hdown : s.phase = .powerDown
    · exact .inr (hdown ▸ rfl)
    · exact .inl (congrArg State.phase (if_neg hdown))
  | refclkLoss lost =>
    obtain rfl := Host.Outcome.next.inj h
    cases lost with
    | false => exact .inl (congrArg State.phase (if_neg (fun hx => Bool.false_ne_true hx.1)))
    | true =>
      split
      · exact s.powerDown_ends (.inr (.inl rfl))
      · exact .inl rfl
  | resetNFall low =>
    cases low with
    | false => exact .inl (congrArg State.phase (Host.Outcome.next.inj h).symm)
    | true =>
      obtain hno | hphase | hdeaf := phase_deaf (s := s)
      · exact absurd hno hrun
      · right
        obtain hx | hx := hphase <;> rw [hx] <;> exact .inl rfl
      · exact .inl (by rw [eq_of_next (exec_resetNFall_deaf (hdeaf.imp_right Or.symm)) h])
  | resetNRise =>
    by_cases hheld : s.phase = .held
    · exact .inr (hheld ▸ .inl rfl)
    · exact .inl (by rw [eq_of_next (exec_resetNRise_free hheld) h])
  | bootStageVerify => exact .inl (congrArg State.phase (eq_of_next (if_neg hrun) h))
  | safeStateCommand => exact .inl (congrArg State.phase (eq_of_next (if_neg hrun) h))
  | mgtReset r =>
    obtain hno | hmgt | hdeaf := phase_deaf (s := s)
    · exact absurd hno hrun
    · exact .inr (ends_mgtReset (.inl ⟨r, rfl⟩) hmgt)
    · obtain rfl := Host.Outcome.next.inj h
      exact .inl (congrArg State.phase (mgtAnswer_deaf hdeaf _ _ _))
  | mctpMessage => exact execMctpMessage_ends h
  | resetWarm p q =>
    by_cases hsafe : s.phase = .safe
    · exact .inr (hsafe ▸ .inr (.inr (.inr ⟨p, q, rfl⟩)))
    · exact .inl (congrArg State.phase (eq_of_next ((if_neg hsafe).trans (if_neg hrun)) h))
  | inputSample => exact execInputSample_ends h
  | mgtCmd => exact .inl (congrArg State.phase (eq_of_next (if_neg hrun) h))
  | _ => exact .inl (State.phase_of_outside (exec_inside _ s rfl t h))

end

end Sys2Proof.Machine
end
section
/-! # What the package keeps without power and in the safe state -/

namespace Sys2Proof.Machine

section
variable {s t : State}

theorem State.stored_send (s : State) (m : Msg) : (s.send m).stored = s.stored := by
  obtain ⟨l, h⟩ := s.send_frame m
  rw [h]
  rfl

/-- A step that leaves a state leaves it however often it is taken. -/
theorem overList_stays {α : Type} {f : State → α → State} (h : ∀ a, f s a = s) (l : List α) : overList s l f = s :=
  foldl_keeps (fun u => u = s) (fun u a hu => by rw [hu]; exact h a) rfl l

theorem startPhase_ne_safe (u : State) : u.startPhase ≠ .safe := by
  unfold State.startPhase
  repeat' split
  all_goals exact Phase.noConfusion

theorem State.warmReset_ne_safe (s : State) (cause : Nat) : (s.warmReset cause).phase ≠ .safe := by
  obtain ⟨c, o, d, m, h⟩ := s.warmReset_eq cause
  rw [h]
  exact startPhase_ne_safe _

/-! ## The companion's accesses -/

/-- In the safe state an access of the companion is refused, or reads a register (R494). -/
theorem State.ncDecode_safe (h : s.phase = .safe) (p : JxlPort) (m : LinkMsg) (write : Bool) : (∃ st, s.ncDecode p m write = .refused st) ∨
    write = false ∧ ((∃ a, s.ncDecode p m write = .csr a) ∨ ∃ off, s.ncDecode p m write = .fn off) := by
  have hsafe : (s.phase == Phase.safe) = true := beq_iff_eq.mpr h
  unfold State.ncDecode
  dsimp only
  rw [hsafe]
  split
  · exact .inl ⟨_, rfl⟩
  · split
    · exact .inl ⟨5, rfl⟩
    · split
      · split
        · exact .inl ⟨_, rfl⟩
        · rw [if_pos rfl]
          split
          · rename_i hread
            obtain ⟨hwrite, -⟩ := (Bool.and_eq_true _ _).mp hread
            exact .inr ⟨by simpa using hwrite, .inl ⟨_, rfl⟩⟩
          · exact .inl ⟨_, rfl⟩
      · split
        · split
          · exact .inl ⟨_, rfl⟩
          · split
            · exact .inl ⟨_, rfl⟩
            · rename_i hwrite
              exact .inr ⟨by simpa using hwrite, .inr ⟨_, rfl⟩⟩
        · exact .inl ⟨_, rfl⟩

theorem State.linkHears_safe {p : JxlPort} (hphase : s.phase = .off ∨ s.phase = .safe) (h : s.linkHears p = true) : s.phase = .safe := by
  obtain hoff | hsafe := hphase
  · simp [State.linkHears, hoff] at h
  · exact hsafe

theorem stored_execNcRd {p : JxlPort} {m : LinkMsg} (hphase : s.phase = .off ∨ s.phase = .safe) (h : execNcRd p m s = .next t) : t.stored = s.stored := by
  unfold execNcRd at h
  split at h
  · cases h
    rfl
  · rename_i hhears
    have hsafe := State.linkHears_safe hphase (by simpa using hhears)
    obtain rfl := Host.Outcome.next.inj h
    obtain ⟨st, hdec⟩ | ⟨-, ⟨a, hdec⟩ | ⟨off, hdec⟩⟩ := State.ncDecode_safe hsafe p m false <;> rw [hdec] <;> exact State.stored_send _ _

/-- In the safe state a write that waits is answered as refused. -/
theorem ncDrain_safe (p : JxlPort) (l : List LinkMsg) (hsafe : s.phase = .safe) : (ncDrain p l s).1.stored = s.stored := by
  induction l generalizing s with
  | nil => rfl
  | cons m r ih =>
    obtain ⟨st, hdec⟩ | ⟨hno, -⟩ := State.ncDecode_safe hsafe p m true
    · have hwrite : s.ncWrite p m = (s.linkAnswer p m 0x22 st 0 [], true) := by
        unfold State.ncWrite
        dsimp only
        rw [hdec]
      unfold ncDrain
      rw [hwrite]
      dsimp only
      rw [if_pos rfl]
      exact (ih ((State.phase_of_outside (State.outside_linkAnswer ..)).trans hsafe)).trans (State.stored_send _ _)
    · cases hno

theorem stored_execNcWr {p : JxlPort} {m : LinkMsg} (hphase : s.phase = .off ∨ s.phase = .safe) (h : execNcWr p m s = .next t) : t.stored = s.stored := by
  unfold execNcWr at h
  split at h
  · cases h
    rfl
  · rename_i hhears
    have hsafe := State.linkHears_safe hphase (by simpa using hhears)
    obtain rfl := Host.Outcome.next.inj h
    exact ncDrain_safe p _ hsafe

theorem stored_execBiasFlip {p : JxlPort} {m : LinkMsg} (hrun : s.phase ≠ .running) (h : execBiasFlip p m s = .next t) : t.stored = s.stored := by
  unfold execBiasFlip at h
  split at h
  · cases h
    exact State.stored_send _ _
  · rw [eq_of_next (if_neg hrun) h]

/-- A request to a home is refused in the safe state, and not heard elsewhere. -/
theorem stored_cohGate {k : ReqKind} {m : CohMsg} {f : State → State} (hrun : s.phase ≠ .running) (h : cohGate k m s f = .next t) :
    t.stored = s.stored := by
  unfold cohGate at h
  rw [if_neg hrun] at h
  split at h
  · cases h
    exact State.stored_send _ _
  · cases h
    rfl

/-! ## The management plane and the commands of other interfaces -/

/-- The commands that the safe state answers only read (R532). -/
theorem stored_mgtOp {code : Nat} (h : classR code) (r : MgtReq) : (mgtOp code s r).1.stored = s.stored := by
  simp only [classR, List.contains_iff_mem, List.mem_cons, List.not_mem_nil, or_false] at h
  obtain rfl | rfl | rfl | rfl | rfl := h
  · rfl
  · rfl
  · rfl
  · change (s.mgtFlashRead r).1.stored = s.stored
    unfold State.mgtFlashRead
    dsimp only
    split
    · split <;> rfl
    · rfl
  · rfl

/-- In the safe state a request is refused, or it runs: a read, or the package reset (R532). -/
theorem State.mgtRun_safe (hsafe : s.phase = .safe) (code : Nat) (op : MgtFn) (r : MgtReq) : (∃ x, s.mgtRun code op r = some (s, x)) ∨
    s.mgtRun code op r = some (op s r) ∧ (classR code = true ∨ code = 0x20 ∧ leAt r.payload 0 1 = 0) := by
  unfold State.mgtRun
  dsimp only
  rw [hsafe]
  dsimp only
  split
  · rename_i hmay
    split
    · exact .inl ⟨_, rfl⟩
    · exact .inr ⟨rfl, hmay⟩
  · exact .inl ⟨_, rfl⟩

theorem mgtAnswer_safe (hsafe : s.phase = .safe) (code : Nat) (r : MgtReq) :
    (mgtAnswer code (mgtOp code) r s).stored = s.stored ∨ (mgtAnswer code (mgtOp code) r s).phase ≠ .safe := by
  unfold mgtAnswer
  obtain ⟨x, hx⟩ | ⟨hx, hread | ⟨rfl, hsel⟩⟩ := State.mgtRun_safe hsafe code (mgtOp code) r <;> rw [hx]
  · exact .inl (State.stored_send _ _)
  · exact .inl ((State.stored_send _ _).trans (stored_mgtOp hread r))
  · right
    refine ne_of_eq_of_ne (State.phase_of_outside (State.outside_send (ports := false) ..)) ?_
    change (s.mgtReset r).1.phase ≠ .safe
    unfold State.mgtReset
    rw [hsel]
    exact s.warmReset_ne_safe _

theorem mgtAnswer_stored (hphase : s.phase = .off ∨ s.phase = .safe) (code : Nat) (r : MgtReq) :
    (mgtAnswer code (mgtOp code) r s).stored = s.stored ∨ (mgtAnswer code (mgtOp code) r s).phase ≠ s.phase := by
  obtain hoff | hsafe := hphase
  · rw [mgtAnswer_deaf (.inl hoff)]
    exact .inl rfl
  · rw [hsafe]
    exact mgtAnswer_safe hsafe code r

theorem State.spdm_off (hrun : s.phase ≠ .running) (tr : Transport) (least next : Nat) (req : List Byte)
    (answer : State → List Byte → State × Option (List Byte)) : s.spdm tr least next req answer = s :=
  if_pos (by simp [State.spdmOn, hrun])

theorem State.readSensor_off (hrun : s.phase ≠ .running) (bus : Bool) (n : Nat) : s.readSensor bus n = s := if_neg (fun h => hrun h.1)

theorem State.negotiate_off (hrun : s.phase ≠ .running) (tr : Transport) (rsa slh : Bool) : s.negotiate tr rsa slh = s :=
  (if_neg (by simp [State.spdmOn, hrun])).trans (s.spdm_off hrun _ _ _ _ _)

theorem State.spdmMessage_off (hrun : s.phase ≠ .running) (tr : Transport) (b : List Byte) : s.spdmMessage tr b = s := by
  unfold State.spdmMessage
  split
  · exact spdm_off hrun ..
  · exact spdm_off hrun ..
  · exact negotiate_off hrun ..
  · exact spdm_off hrun ..
  · exact spdm_off hrun ..
  · exact spdm_off hrun ..
  · exact if_neg (by simp [State.spdmOn, hrun])

theorem State.leafDetect_off (hrun : s.phase ≠ .running) (f : FaultIn) : s.leafDetect f = s := if_neg hrun

theorem State.leafTakes_off (hrun : s.phase ≠ .running) (l : List FaultIn) : s.leafTakes l = s := by
  unfold State.leafTakes
  split
  · rfl
  · rw [leafDetect_off hrun]
    refine overList_stays (fun f => ?_) _
    exact leafDetect_off hrun _

theorem State.unitCorrects_off (hrun : s.phase ≠ .running) (f : FaultIn) : s.unitCorrects f = s := by
  unfold State.unitCorrects
  split
  · rename_i hparity
    exact absurd hparity.2 hrun
  · rfl

/-- Only a running package detects faults. -/
theorem execFaultDetect_off (hrun : s.phase ≠ .running) (f : CycleFaults) : execFaultDetect f s = .next s := by
  unfold execFaultDetect
  dsimp only
  rw [overList_stays (State.unitCorrects_off hrun)]
  refine congrArg Host.Outcome.next (overList_stays (fun d => ?_) _)
  exact State.leafTakes_off hrun _

/-- A long operation goes on in a running package and in ROM recovery alone. -/
theorem execLongOperationDone_off (hrun : s.phase ≠ .running) (hrec : s.phase ≠ .recovery) (tag : BitVec 16) (status : Nat) :
    execLongOperationDone tag status s = .next s := by
  unfold execLongOperationDone
  split
  · split
    · exact if_neg hrun
    · rfl
  · exact if_pos ⟨hrun, hrec⟩

theorem mctpMessage_stored (hphase : s.phase = .off ∨ s.phase = .safe) (hrun : s.phase ≠ .running) {bus : Bool} {type : Byte} {payload : List Byte}
    (h : execMctpMessage bus type payload s = .next t) : t.stored = s.stored ∨ t.phase ≠ s.phase := by
  obtain rfl := Host.Outcome.next.inj h
  split
  · exact mgtAnswer_stored hphase _ _
  · rw [State.spdmMessage_off hrun]
    exact .inl rfl
  · rw [State.readSensor_off hrun, ite_self]
    exact .inl rfl
  · exact .inl rfl

/-! ## Power, pins and resets -/

theorem State.stored_powerDown (s : State) : s.powerDown.stored = s.stored := by
  obtain ⟨m, k, h⟩ := s.nodeDownAll_frame
  unfold State.powerDown
  split
  · rfl
  · rw [h]
    rfl

theorem stored_execInputSample (hrun : s.phase ≠ .running) {v a : Nat} (h : execInputSample v a s = .next t) : t.stored = s.stored := by
  obtain ⟨-, rfl⟩ | ⟨u, -, hu, rfl | rfl | ⟨hno, -⟩⟩ := execInputSample_cases s h
  · rfl
  · exact u.stored_powerDown.trans hu
  · exact hu
  · exact absurd hno hrun

/-- In the safe state RESET_N begins a warm reset. -/
theorem resetNFall_safe (hsafe : s.phase = .safe) (h : exec (.resetNFall true) s = .next t) : t.phase ≠ s.phase := by
  dsimp only [exec, execResetNFall] at h
  rw [if_pos rfl, hsafe, if_neg (by simp)] at h
  obtain rfl := Host.Outcome.next.inj h
  rw [hsafe]
  exact State.warmReset_ne_safe _ _

theorem exec_jxlResetNFall_off (hrun : s.phase ≠ .running) :
    exec (.jxlResetNFall true) s = .next { s with pins := { s.pins with jxlResetN := false } } := by
  dsimp only [exec, execJxlResetNFall]
  rw [if_pos rfl, if_neg hrun]

theorem exec_jxlResetNRise_off (hrun : s.phase ≠ .running) :
    exec .jxlResetNRise s = .next { s with pins := { s.pins with jxlResetN := true } } := by
  dsimp only [exec, execJxlResetNRise]
  rw [if_neg hrun]

theorem resetWarm_stored (hphase : s.phase = .off ∨ s.phase = .safe) {p : PartId} {q : Nat} (h : execResetWarm p q s = .next t) :
    t.stored = s.stored ∨ t.phase ≠ s.phase := by
  unfold execResetWarm at h
  split at h
  · rename_i hsafe
    obtain rfl := Host.Outcome.next.inj h
    rw [hsafe]
    split
    · exact .inr (s.warmReset_ne_safe 3)
    · exact .inl rfl
  · rename_i hsafe
    have hoff := hphase.resolve_right hsafe
    rw [eq_of_next (if_neg (by rw [hoff]; exact Phase.noConfusion)) h]
    exact .inl rfl

/-! ## Every command -/

/-- Without power only the two supplies' rise, and in the safe state only what ends it, changes what is stored. -/
theorem exec_stored {c : Instr} (hphase : s.phase = .off ∨ s.phase = .safe) (hpower : s.phase = .off → c ≠ .pwrOkRise ∧ c ≠ .vinRise)
    (h : exec c s = .next t) : t.stored = s.stored ∨ t.phase ≠ s.phase := by
  have hnot : ∀ {p : Phase}, p ≠ .off → p ≠ .safe → s.phase ≠ p := fun ho hs hp =>
    hphase.elim (fun hx => ho (hp.symm.trans hx)) (fun hx => hs (hp.symm.trans hx))
  have hrun : s.phase ≠ .running := hnot nofun nofun
  have hkept : ∀ {o : Outcome}, o = .next s → o = .next t → t.stored = s.stored ∨ t.phase ≠ s.phase := fun ho ht => .inl (eq_of_next ho ht ▸ rfl)
  cases c with
  | pwrOkRise =>
    by_cases hoff : s.phase = .off
    · exact absurd rfl (hpower hoff).1
    · rw [eq_of_next (exec_pwrOkRise_on hoff) h]
      exact .inl rfl
  | vinRise =>
    by_cases hoff : s.phase = .off
    · exact absurd rfl (hpower hoff).2
    · rw [eq_of_next (exec_vinRise_on hoff) h]
      exact .inl rfl
  | pwrOkFall low =>
    cases low with
    | false => exact hkept rfl h
    | true =>
      obtain rfl := Host.Outcome.next.inj h
      exact .inl (State.stored_powerDown _)
  | refclkLoss =>
    obtain rfl := Host.Outcome.next.inj h
    split
    · exact .inl s.stored_powerDown
    · exact .inl rfl
  | powerDownCommitDone =>
    exact hkept (congrArg Host.Outcome.next (if_neg (hnot (p := .powerDown) nofun nofun))) h
  | inputSample => exact .inl (stored_execInputSample hrun h)
  | resetNFall low =>
    cases low with
    | false => exact hkept rfl h
    | true =>
      obtain hoff | hsafe := hphase
      · rw [eq_of_next (exec_resetNFall_deaf (.inl hoff)) h]
        exact .inl rfl
      · exact .inr (resetNFall_safe hsafe h)
  | resetNRise =>
    rw [eq_of_next (exec_resetNRise_free (hnot nofun nofun)) h]
    exact .inl rfl
  | jxlResetNFall low =>
    cases low with
    | false => exact hkept rfl h
    | true =>
      rw [eq_of_next (exec_jxlResetNFall_off hrun) h]
      exact .inl rfl
  | jxlResetNRise =>
    rw [eq_of_next (exec_jxlResetNRise_off hrun) h]
    exact .inl rfl
  | resetWarm p q => exact resetWarm_stored hphase h
  | rds | rdx | upg | rdna | wrf | wrp | atom | evc | wb | clean =>
    dsimp only [exec, execRds, execRdx, execUpg, execRdna, execWrf, execWrp, execAtom, execEvc, execWb, execClean] at h
    exact .inl (stored_cohGate hrun h)
  | driftTrackingWindow | biasDone | routeEpoch | fabricFaultNotice => exact hkept rfl h
  | ncRd => exact .inl (stored_execNcRd hphase h)
  | ncWr => exact .inl (stored_execNcWr hphase h)
  | ncCmp => exact hkept (if_pos (by simp [hrun])) h
  | biasFlip => exact .inl (stored_execBiasFlip hrun h)
  | quiesce => exact hkept ((if_neg (fun hx => hrun hx.1)).trans (if_neg hrun)) h
  | faultDetect f => exact hkept (execFaultDetect_off hrun f) h
  | mctpMessage => exact mctpMessage_stored hphase hrun h
  | pldmSensorRead => exact hkept (congrArg _ (State.readSensor_off hrun _ _)) h
  | getVersion | getCapabilities | getCertificate | challenge | getMeasurements => exact hkept (congrArg _ (State.spdm_off hrun _ _ _ _ _)) h
  | negotiateAlgorithms => exact hkept (congrArg _ (State.negotiate_off hrun _ _ _)) h
  | longOperationDone tag status =>
    exact hkept (execLongOperationDone_off hrun (hnot nofun nofun) tag status) h
  | mgtStatus r => exact Host.Outcome.next.inj h ▸ mgtAnswer_stored hphase 0x01 r
  | mgtTelemetry r => exact Host.Outcome.next.inj h ▸ mgtAnswer_stored hphase 0x02 r
  | mgtFaultRead r => exact Host.Outcome.next.inj h ▸ mgtAnswer_stored hphase 0x03 r
  | mgtFaultFree r => exact Host.Outcome.next.inj h ▸ mgtAnswer_stored hphase 0x04 r
  | mgtFlpLoad r => exact Host.Outcome.next.inj h ▸ mgtAnswer_stored hphase 0x10 r
  | mgtFlashRead r => exact Host.Outcome.next.inj h ▸ mgtAnswer_stored hphase 0x11 r
  | mgtFlashErase r => exact Host.Outcome.next.inj h ▸ mgtAnswer_stored hphase 0x12 r
  | mgtFlashWrite r => exact Host.Outcome.next.inj h ▸ mgtAnswer_stored hphase 0x13 r
  | mgtReset r => exact Host.Outcome.next.inj h ▸ mgtAnswer_stored hphase 0x20 r
  | mgtPkgLimit r => exact Host.Outcome.next.inj h ▸ mgtAnswer_stored hphase 0x21 r
  | mgtRtStage r => exact Host.Outcome.next.inj h ▸ mgtAnswer_stored hphase 0x22 r
  | mgtFenceErase r => exact Host.Outcome.next.inj h ▸ mgtAnswer_stored hphase 0x23 r
  | mgtRepairErase r => exact Host.Outcome.next.inj h ▸ mgtAnswer_stored hphase 0x24 r
  | secAdvance r => exact Host.Outcome.next.inj h ▸ mgtAnswer_stored hphase 0x30 r
  | secDebugChallenge r => exact Host.Outcome.next.inj h ▸ mgtAnswer_stored hphase 0x31 r
  | secDebugUnlock r => exact Host.Outcome.next.inj h ▸ mgtAnswer_stored hphase 0x32 r
  | secDebugLock r => exact Host.Outcome.next.inj h ▸ mgtAnswer_stored hphase 0x33 r
  | _ => exact hkept (if_neg hrun) h

end

/-- Settles O57: which commands end a phase is `exec_ends`; what no power and the safe state keep is `exec_stored`. -/
theorem phasesEndOnlySo : Obligations.PhasesEndOnlySo := by
  intro c s t h
  have hends : ∀ {p : Phase}, s.phase = p → t.phase ≠ p → ends p c := fun hp hne => hp ▸ (exec_ends h).resolve_left (fun heq => hne (heq.trans hp))
  refine ⟨fun hoff hne => hends hoff hne, fun hoff hpwr hvin => ?_, fun hdown hne => hends hdown hne, fun hheld hne => hends hheld hne,
    fun hrec hne => hends hrec hne, fun hsafe hne => hends hsafe hne, fun hsafe hstays => ?_⟩
  · have hstays : t.phase = s.phase := (exec_ends h).resolve_right (fun hx => by
      rw [hoff] at hx
      exact hx.elim hpwr hvin)
    have hstored := (exec_stored (.inl hoff) (fun _ => ⟨hpwr, hvin⟩) h).resolve_right (not_not.mpr hstays)
    exact ⟨congrArg (fun v => v.1) hstored, congrArg (fun v => v.2.2.2.2) hstored⟩
  · have hstored := (exec_stored (.inr hsafe) (fun hoff => nomatch hoff.symm.trans hsafe) h).resolve_right (not_not.mpr (hstays.trans hsafe.symm))
    exact ⟨congrArg (fun v => v.1) hstored, congrArg (fun v => v.2.1) hstored, congrArg (fun v => v.2.2.1) hstored, congrArg (fun v => v.2.2.2.1) hstored⟩

end Sys2Proof.Machine
end
section
/-! # Power, the reference clock and the reset pins -/

namespace Sys2Proof.Machine

/-! ## Cold reset, power-down and warm reset -/

section
variable (s : State)

/-- A cold reset begins bring-up at device time zero, from empty memory and the flash as it was (R99). -/
theorem State.coldReset_spec : s.coldReset.time = 0 ∧ s.coldReset.pool = ⟨[]⟩ ∧ s.coldReset.mgmt.flash = s.mgmt.flash ∧ s.coldReset.flp = none ∧
    s.coldReset.pins = { s.pins with ready := false, thermN := true, fatalN := true } := ⟨rfl, rfl, rfl, rfl, rfl⟩

theorem State.coldReset_running (hpwr : s.pins.pwrOk = true) (hvin : s.pins.vinOk = true) (hreset : s.pins.resetN = true)
    (hfuses : s.mgmt.restart.levelFuses.mismatch = false) : s.coldReset.phase = .running := by
  simp [State.coldReset, State.startPhase, State.blank, hpwr, hvin, hreset, hfuses]

theorem exec_pwrOkRise_off {s : State} (hoff : s.phase = .off) :
    exec .pwrOkRise s = .next ({ s with pins := { s.pins with pwrOk := true } } : State).coldReset := congrArg Host.Outcome.next (if_pos hoff)

theorem exec_vinRise_off {s : State} (hoff : s.phase = .off) (hpwr : s.pins.pwrOk = true) :
    exec .vinRise s = .next ({ s with pins := { s.pins with vinOk := true } } : State).coldReset := congrArg Host.Outcome.next (if_pos ⟨hoff, hpwr⟩)

theorem startPhase_ne_powerDown : s.startPhase ≠ .powerDown := by
  unfold State.startPhase
  repeat' split
  all_goals exact Phase.noConfusion

/-- A power-down changes the pins and the phase, and sends node-down messages on links (R106). -/
theorem State.powerDown_frame {s : State} (hoff : s.phase ≠ .off) (hdown : s.phase ≠ .powerDown) : ∃ m k,
    s.powerDown = { s with sent := s.sent ++ m, links := k, phase := .powerDown, pins := { s.pins with ready := false } } := by
  obtain ⟨m, k, h⟩ := s.nodeDownAll_frame
  exact ⟨m, k, (if_neg (not_or.mpr ⟨hoff, hdown⟩)).trans (by rw [h])⟩

/-- When its commit is done the package is Off, or in a cold reset (R106). -/
theorem State.powerGone_spec : s.powerGone.mgmt.flash = s.mgmt.flash ∧ s.powerGone.flp = none ∧ s.powerGone.cores = ⟨[]⟩ ∧
    (s.pins.pwrOk = false → s.powerGone.phase = .off) ∧ (s.pins.pwrOk = true → s.powerGone.time = 0 ∧ s.powerGone.phase ≠ .powerDown) := by
  obtain ⟨d, h⟩ := s.writeDump_frame 2
  unfold State.powerGone
  dsimp only
  rw [h]
  cases hpwr : s.pins.pwrOk with
  | false =>
    rw [if_neg Bool.false_ne_true]
    exact ⟨rfl, rfl, rfl, fun _ => rfl, fun hx => absurd hx Bool.false_ne_true⟩
  | true =>
    rw [if_pos rfl]
    exact ⟨rfl, rfl, rfl, fun hx => absurd hx.symm Bool.false_ne_true, fun _ => ⟨rfl, startPhase_ne_powerDown _⟩⟩

theorem State.warmReset_spec (cause : Nat) : (s.warmReset cause).phase = s.blank.startPhase ∧ (s.warmReset cause).pins.resetN = s.pins.resetN ∧
    (s.warmReset cause).time = s.time ∧ (s.warmReset cause).pool = s.pool ∧ (s.warmReset cause).poolBad = s.poolBad ∧
    (s.warmReset cause).mgmt.flash = s.mgmt.flash ∧ (s.warmReset cause).flp = none := by
  obtain ⟨c, o, d, m, h⟩ := s.warmReset_eq cause
  rw [h]
  exact ⟨rfl, rfl, rfl, rfl, rfl, rfl, rfl⟩

theorem State.startPhase_held (hpwr : s.pins.pwrOk = true) (hvin : s.pins.vinOk = true) (hreset : s.pins.resetN = false) :
    s.blank.startPhase = .held := by
  simp [State.startPhase, State.blank, hpwr, hvin, hreset]

/-- RESET_N low holds a running package in a warm reset, with the pin as its cause (R99, R107). -/
theorem exec_resetNFall_running {s : State} (hrun : s.phase = .running) :
    exec (.resetNFall true) s = .next (({ s with pins := { s.pins with resetN := false } } : State).warmReset 1) := by
  dsimp only [exec, execResetNFall]
  rw [if_pos rfl, hrun]
  rfl

theorem State.fld_pins (x : Pins) (d o hi lo : Nat) : ({ s with pins := x } : State).fld d o hi lo = s.fld d o hi lo := State.fld_congr rfl ..

/-- Bring-up from a held reset; device time starts anew where the reset was a cold one (R99). -/
theorem exec_resetNRise_held {s : State} (hheld : s.phase = .held) : ∃ u : State, exec .resetNRise s = .next { u with phase := u.startPhase } ∧
    u = { s with pins := { s.pins with resetN := true }, time := if s.fld 94 0x20100 7 4 = 0 then 0 else s.time } := by
  refine ⟨_, ?_, rfl⟩
  dsimp only [exec, execResetNRise]
  rw [if_pos hheld, State.fld_pins]
  split
  · rfl
  · rfl

/-! ## The pins of the Jexesk Link -/

theorem State.linkSt_pins (x : Pins) (l : LinkId) : ({ s with pins := x } : State).linkSt l = s.linkSt l := by
  rw [State.linkSt, State.fld_pins]
  rfl

theorem State.level_pins (x : Pins) : ({ s with pins := x } : State).level = s.level := by
  rw [State.level, State.fld_pins]
  rfl

theorem overList_finRange_two (f : State → Fin 2 → State) : overList s (List.finRange 2) f = f (f s 0) 1 := rfl

theorem State.carries_iff (p : JxlPort) : s.carries p = true ↔ s.linkSt (.jxl p) = 2 ∨ s.linkSt (.jxl p) = 3 := by simp [State.carries]

theorem State.carries_setLinkSt_self (p : JxlPort) {v : Nat} (hv : v < 16) (h2 : v ≠ 2) (h3 : v ≠ 3) : (s.setLinkSt (.jxl p) v).carries p = false := by
  rw [State.carries, s.linkSt_setLinkSt _ v hv]
  simp [h2, h3]

theorem State.linkSt_setLinkSt_jxl_ne {p q : JxlPort} (h : q ≠ p) (v : Nat) : (s.setLinkSt (.jxl p) v).linkSt (.jxl q) = s.linkSt (.jxl q) :=
  s.linkSt_setFld_jxl_ne h ..

theorem State.carries_setLinkSt_ne {p q : JxlPort} (h : q ≠ p) (v : Nat) : (s.setLinkSt (.jxl p) v).carries q = s.carries q := by
  rw [State.carries, State.carries, s.linkSt_setLinkSt_jxl_ne h]

/-- What the loss of a companion leaves before its port is down: the other port's state, and the pin. -/
theorem State.companionLost_eq {p : JxlPort} (h : s.linkSt (.jxl p) = 2 ∨ s.linkSt (.jxl p) = 3) (cause : Nat) : ∃ u : State,
    s.companionLost p cause = (u.setLinkSt (.jxl p) 1).setFld (92 + p.val) 0x80000 23 16 0 ∧ u.pins.jxlResetN = s.pins.jxlResetN ∧
      ∀ q, q ≠ p → u.carries q = s.carries q := by
  unfold State.companionLost
  extract_lets l s1 lost k s2 s3 s4 s5 s6 s7 s8
  have h1 : s1.outside true = s.outside true := State.outside_leafDetect ..
  have h2 : s2.carries = (s1.setLinkSt l 4).carries := State.carries_of_outside (State.outside_setLink ..)
  have h8 : s8.outside true = s2.outside true := by simp [s8, s7, s6, s5, s4, s3]
  have hpins : s2.pins = s1.pins := (State.setLink_pins ..).trans (State.setFld_pins ..)
  rw [if_pos h]
  refine ⟨s8, rfl, ?_, fun q hq => ?_⟩
  · rw [State.jxlResetN_of_outside h8, hpins, State.jxlResetN_of_outside h1]
  · rw [State.carries_of_outside h8, h2, State.carries_setLinkSt_ne _ hq, State.carries_of_outside h1]

/-- A port without traffic has no companion to lose. -/
theorem State.companionLost_idle {p : JxlPort} (h : ¬ (s.linkSt (.jxl p) = 2 ∨ s.linkSt (.jxl p) = 3)) (cause : Nat) : s.companionLost p cause = s :=
  if_neg h

/-- A lost companion's port is taken out of traffic; the other port stays as it was. -/
theorem State.carries_companionLost (p : JxlPort) (cause : Nat) (q : JxlPort) :
    (s.companionLost p cause).carries q = (decide (q ≠ p) && s.carries q) := by
  by_cases h : s.linkSt (.jxl p) = 2 ∨ s.linkSt (.jxl p) = 3
  · obtain ⟨u, hu, -, hothers⟩ := s.companionLost_eq h cause
    have hend : ((u.setLinkSt (.jxl p) 1).setFld (92 + p.val) 0x80000 23 16 0).carries = (u.setLinkSt (.jxl p) 1).carries :=
      State.carries_of_outside (State.outside_setFld_lanes ..)
    rw [hu, hend]
    by_cases hq : q = p
    · rw [hq, State.carries_setLinkSt_self _ _ (by decide) (by decide) (by decide)]
      simp
    · rw [State.carries_setLinkSt_ne _ hq, hothers q hq]
      simp [hq]
  · rw [s.companionLost_idle h]
    by_cases hq : q = p
    · have hdown : s.carries p = false := by simpa [State.carries] using h
      simp [hq, hdown]
    · simp [hq]

theorem State.jxlResetN_companionLost (p : JxlPort) (cause : Nat) : (s.companionLost p cause).pins.jxlResetN = s.pins.jxlResetN := by
  by_cases h : s.linkSt (.jxl p) = 2 ∨ s.linkSt (.jxl p) = 3
  · obtain ⟨u, hu, hpin, -⟩ := s.companionLost_eq h cause
    rw [hu, State.setFld_pins, State.setLinkSt, State.setFld_pins, hpin]
  · rw [s.companionLost_idle h]

/-- Puts an enabled port that carries no traffic in training. -/
def State.trainLink (s : State) (p : JxlPort) : State :=
  if (s.linkPort p.val).enable ∧ 1 ≤ s.level ∧ s.linkSt (.jxl p) ≠ 2 ∧ s.linkSt (.jxl p) ≠ 3 then s.setLinkSt (.jxl p) 1 else s

theorem State.trainLink_frame (p : JxlPort) : ∃ c, s.trainLink p = { s with csr := c } := by
  unfold State.trainLink
  split
  · exact s.setFld_csr_only ..
  · exact ⟨s.csr, rfl⟩

theorem State.linkSt_trainLink_ne {p q : JxlPort} (h : q ≠ p) : (s.trainLink p).linkSt (.jxl q) = s.linkSt (.jxl q) := by
  unfold State.trainLink
  split
  · exact s.linkSt_setLinkSt_jxl_ne h 1
  · rfl

theorem State.level_trainLink (p : JxlPort) : (s.trainLink p).level = s.level := by
  unfold State.trainLink
  split
  · exact s.fld_setFld_ne (92 + p.val) 0x80000 31 28 1 94 0x20100 3 0 (csrKey_ne (by decide) (by decide) (by decide))
  · rfl

theorem State.linkSt_trainLink {p : JxlPort} (henable : (s.linkPort p.val).enable = true) (hlevel : 1 ≤ s.level)
    (h2 : s.linkSt (.jxl p) ≠ 2) (h3 : s.linkSt (.jxl p) ≠ 3) : (s.trainLink p).linkSt (.jxl p) = 1 := by
  unfold State.trainLink
  rw [if_pos ⟨henable, hlevel, h2, h3⟩]
  exact s.linkSt_setLinkSt _ 1 (by decide)

theorem State.linkPort_trainLink (p q : JxlPort) : (s.trainLink p).linkPort q.val = s.linkPort q.val := by
  obtain ⟨c, h⟩ := s.trainLink_frame p
  rw [h]
  rfl

/-- Both ports in turn: the one leaves the other's state, configuration and level. -/
theorem State.trainLinks_spec (hlevel : 1 ≤ s.level) : let t := (s.trainLink 0).trainLink 1
    t.pins = s.pins ∧ t.pool = s.pool ∧ ∀ p : JxlPort, (s.linkPort p.val).enable = true → s.linkSt (.jxl p) ≠ 2 → s.linkSt (.jxl p) ≠ 3 →
      t.linkSt (.jxl p) = 1 := by
  obtain ⟨c, hfirst⟩ := s.trainLink_frame 0
  obtain ⟨c', hsecond⟩ := (s.trainLink 0).trainLink_frame 1
  refine ⟨by rw [hsecond, hfirst], by rw [hsecond, hfirst], Fin.forall_fin_two.mpr ⟨fun henable h2 h3 => ?_, fun henable h2 h3 => ?_⟩⟩
  · rw [State.linkSt_trainLink_ne _ (by decide)]
    exact s.linkSt_trainLink henable hlevel h2 h3
  · have hst : (s.trainLink 0).linkSt (.jxl 1) = s.linkSt (.jxl 1) := s.linkSt_trainLink_ne (by decide)
    refine State.linkSt_trainLink _ ?_ ?_ (hst ▸ h2) (hst ▸ h3)
    · rw [State.linkPort_trainLink]
      exact henable
    · rw [State.level_trainLink]
      exact hlevel

theorem exec_jxlResetNRise_running {s : State} (hrun : s.phase = .running) :
    exec .jxlResetNRise s = .next ((({ s with pins := { s.pins with jxlResetN := true } } : State).trainLink 0).trainLink 1) := by
  dsimp only [exec, execJxlResetNRise]
  rw [if_pos hrun, overList_finRange_two]
  rfl

theorem exec_jxlResetNFall_running {s : State} (hrun : s.phase = .running) : exec (.jxlResetNFall true) s =
    .next ((({ s with pins := { s.pins with jxlResetN := false } } : State).companionLost 0 0).companionLost 1 0) := by
  dsimp only [exec, execJxlResetNFall]
  rw [if_pos rfl, if_pos hrun, overList_finRange_two]

end

/-- Settles O38: each pin's clause by its step's equation and what the reset or the power-down it begins leaves. -/
theorem pinsAndResets : Obligations.PinsAndResets := by
  intro s
  refine ⟨fun hoff hreset hfuses => ⟨fun hvin => ?_, fun hpwr => ?_⟩, fun hon => ⟨exec_pwrOkRise_on hon, exec_vinRise_on hon⟩, rfl,
    congrArg Host.Outcome.next (if_neg (fun hx => Bool.false_ne_true hx.1)), rfl, rfl, fun hrun => ?_, fun hrun hready => ?_, fun hdown => ?_,
    fun hrun hpwr hvin => ?_, fun hheld hpwr hvin hfuses => ?_, fun hrun => ?_, fun hrun hlevel => ?_⟩
  · obtain ⟨htime, hpool, hflash, hflp, hpins⟩ := ({ s with pins := { s.pins with pwrOk := true } } : State).coldReset_spec
    exact ⟨_, exec_pwrOkRise_off hoff, State.coldReset_running _ rfl hvin hreset hfuses, htime, hpool, hflash, hflp, congrArg Pins.pwrOk hpins⟩
  · obtain ⟨htime, hpool, hflash, hflp, hpins⟩ := ({ s with pins := { s.pins with vinOk := true } } : State).coldReset_spec
    exact ⟨_, exec_vinRise_off hoff hpwr, State.coldReset_running _ hpwr rfl hreset hfuses, htime, hpool, hflash, hflp, congrArg Pins.vinOk hpins⟩
  · obtain ⟨m, k, h⟩ := State.powerDown_frame (s := { s with pins := { s.pins with pwrOk := false } }) (hrun ▸ nofun) (hrun ▸ nofun)
    exact ⟨_, congrArg Host.Outcome.next ((if_pos rfl).trans h), rfl, rfl, rfl, rfl, rfl⟩
  · obtain ⟨m, k, h⟩ := State.powerDown_frame (s := s) (hrun ▸ nofun) (hrun ▸ nofun)
    exact ⟨_, congrArg Host.Outcome.next ((if_pos ⟨rfl, .inl hready⟩).trans h), rfl, rfl, rfl, rfl⟩
  · exact ⟨_, congrArg Host.Outcome.next (if_pos hdown), s.powerGone_spec⟩
  · obtain ⟨hphase, hpins, hkept⟩ := ({ s with pins := { s.pins with resetN := false } } : State).warmReset_spec 1
    obtain ⟨htime, hpool, hbad, hflash, hflp⟩ := hkept
    have hheld := State.startPhase_held { s with pins := { s.pins with resetN := false } } hpwr hvin rfl
    refine ⟨_, exec_resetNFall_running hrun, hphase.trans hheld, ?_, ?_, ?_, ?_, ?_, ?_, ?_⟩
    · rw [hpins]
    · rw [htime]
    · rw [hpool]
    · rw [hbad]
    · rw [hflash]
    · exact hflp
    · rw [State.warmReset_cause]
  · obtain ⟨u, hexec, rfl⟩ := exec_resetNRise_held hheld
    refine ⟨_, hexec, ?_, rfl, rfl, rfl, rfl⟩
    simp [State.startPhase, hpwr, hvin, hfuses]
  · refine ⟨_, exec_jxlResetNFall_running hrun, ?_, fun p => not_or.mp ?_⟩
    · rw [State.jxlResetN_companionLost, State.jxlResetN_companionLost]
    · rw [← State.carries_iff, State.carries_companionLost, State.carries_companionLost]
      fin_cases p <;> simp
  · obtain ⟨hpins, hpool, htrain⟩ := ({ s with pins := { s.pins with jxlResetN := true } } : State).trainLinks_spec (by rwa [State.level_pins])
    refine ⟨_, exec_jxlResetNRise_running hrun, congrArg Pins.jxlResetN hpins, hpool, fun p henable h2 h3 => htrain p henable ?_ ?_⟩
    · rw [State.linkSt_pins]
      exact h2
    · rw [State.linkSt_pins]
      exact h3

end Sys2Proof.Machine
end

section
/-! # The control core

What an instruction of a core's control core does once it is fetched, by the core it leaves (R111 to R129), and the statements on it. -/

namespace Sys2Proof.Machine

/-! ## A change of one core -/

/-- A state is another with core `c` turned into `k`. -/
def CoreTo (s t : State) (c : Nat) (k : Core) : Prop := t.core c = k ∧ OnlyCore s t c

section
variable {s t : State} {c : Nat} {k : Core}

theorem CoreTo.refl (s : State) (c : Nat) : CoreTo s s c (s.core c) := ⟨rfl, rfl, fun _ _ => rfl⟩

theorem CoreTo.core (h : CoreTo s t c k) : t.core c = k := h.1

theorem CoreTo.only (h : CoreTo s t c k) : OnlyCore s t c := h.2

theorem CoreTo.setCore (h : CoreTo s t c k) (k' : Core) : CoreTo s (t.setCore c k') c k' := by
  obtain ⟨-, hrest, hothers⟩ := h
  exact ⟨t.core_setCore c k', hrest, fun d hd => (t.core_setCore_ne c d k' hd).trans (hothers d hd)⟩

theorem CoreTo.modCore (h : CoreTo s t c k) (f : Core → Core) : CoreTo s (t.modCore c f) c (f k) := by
  rw [← h.core]
  exact h.setCore _

theorem CoreTo.ccNext (h : CoreTo s t c k) (n : Nat) : CoreTo s (t.ccNext c n) c { k with pc := k.pc + BitVec.ofNat 64 n } := h.modCore _

theorem CoreTo.ccResult (h : CoreTo s t c k) (n rd : Nat) (v : DWord) :
    CoreTo s (t.ccResult c n rd v) c { k.setReg rd v with pc := (k.setReg rd v).pc + BitVec.ofNat 64 n } := (h.modCore _).ccNext n

/-- An outcome that leaves core `c` as `k`, in the form of the statements. -/
theorem CoreTo.outcome {o : Outcome} (h : CoreTo s t c k) (ho : o = .next t) : ∃ t, o = .next t ∧ t.core c = k ∧ OnlyCore s t c := ⟨t, ho, h⟩

end

@[simp] theorem Core.setReg_pc (k : Core) (r : Nat) (v : DWord) : (k.setReg r v).pc = k.pc := by
  unfold Core.setReg
  split <;> rfl

theorem Core.reg_setReg (k : Core) (r : Nat) (v : DWord) : (k.setReg r v).reg r = if r = 0 then 0 else v := by
  unfold Core.reg Core.setReg
  split
  · rfl
  · exact Map.get_set_self _ _ _ _

/-! ## An instruction that is fetched -/

theorem State.flaw_nil (s : State) (c : Nat) : s.flaw c [] = s := rfl

/-- An instruction of a control core that may run it and whose fetch is checked does what its meaning says (R111, R112, R127). -/
theorem ccRun_fetched {s s' : State} {c : CoreId} {n : Nat} (h : CoreFetched s c.val n s') (f : State → State) : ccRun c n s f = .next (f s') := by
  obtain ⟨hrun, hphase, hruns, hfenced, hwaiting, hnoToken, hfetch, hstill⟩ := h
  refine (gate_running hrun _).trans (congrArg _ ?_)
  dsimp only
  rw [if_pos (by simp [hphase, hruns, hfenced, hwaiting]), hnoToken, State.flaw_nil, hfetch]
  exact if_pos hstill

/-! ## The 32-bit tile instructions (Table 4-4) -/

section
variable (s : State) (c : Nat)

theorem State.ccWait_holds {tk : Nat} (w : CoreWait) {holds : Core → Bool} (after : Core → Core) (herr : (s.core c).tkErr.getLsbD tk = false)
    (h : holds (s.core c) = true) : s.ccWait c tk w holds after = (s.setCore c (after (s.core c))).ccNext c 4 := by
  simp [State.ccWait, herr, h]

theorem State.ccWait_waits {tk : Nat} (w : CoreWait) {holds : Core → Bool} (after : Core → Core) (herr : (s.core c).tkErr.getLsbD tk = false)
    (h : holds (s.core c) = false) : s.ccWait c tk w holds after = s.setCore c { s.core c with waiting := some w } := by
  simp [State.ccWait, herr, h]

theorem State.opWait_reached {tk rs1 : Nat} (herr : (s.core c).tkErr.getLsbD tk = false)
    (h : ((s.core c).tkDone.get 0 tk - ((s.core c).reg rs1).setWidth 32).msb = false) : s.opWait c tk rs1 = (s.setCore c (s.core c)).ccNext c 4 :=
  s.ccWait_holds c _ (holds := fun k => k.reached tk (((s.core c).reg rs1).setWidth 32)) id herr (congrArg not h)

theorem State.opWait_short {tk rs1 : Nat} (herr : (s.core c).tkErr.getLsbD tk = false)
    (h : ((s.core c).tkDone.get 0 tk - ((s.core c).reg rs1).setWidth 32).msb = true) :
    s.opWait c tk rs1 = s.setCore c { s.core c with waiting := some (.wait tk (((s.core c).reg rs1).setWidth 32)) } :=
  s.ccWait_waits c _ (holds := fun k => k.reached tk (((s.core c).reg rs1).setWidth 32)) id herr (congrArg not h)

theorem Core.addGrant_fits {k : Core} {g n : Nat} (h : k.grants.get 0 g + n ≤ 255) :
    k.addGrant g n = ({ k with grants := k.grants.set 0 g (k.grants.get 0 g + n) }, false) := by
  simp [Core.addGrant, Nat.min_eq_left h, Nat.not_lt.mpr h]

theorem State.opGrant_fits {gr rs1 : Nat} (h : (s.core c).grants.get 0 gr + fieldOf ((s.core c).reg rs1) 7 0 ≤ 255) : s.opGrant c gr rs1 =
    (s.setCore c { s.core c with grants := (s.core c).grants.set 0 gr ((s.core c).grants.get 0 gr + fieldOf ((s.core c).reg rs1) 7 0) }).ccNext c 4 := by
  rw [State.opGrant, Core.addGrant_fits h]
  rfl

end

/-- A pointer through a window of the address space, either way (R382). -/
theorem cvtPointer_window {a : AsDesc} {w : Nat} {lo hi len : DWord} (h : a.windows[w]? = some (lo, hi, len)) (v : DWord) :
    cvtPointer (some a) w false v = (if v = 0 then 0 else if lo ≤ v ∧ v - lo < len then v - lo + hi else 0x8000000000000000) ∧
    cvtPointer (some a) w true v = (if v = 0 then 0 else if hi ≤ v ∧ v - hi < len then v - hi + lo else 0x8000000000000000) := by
  simp [cvtPointer, h]

/-- Settles O15: each instruction is its meaning after the fetch, and each meaning changes the core alone. -/
theorem tileControlInstructions : Obligations.TileControlInstructions := by
  intro s s' c hfetched
  have hrun := fun f => ccRun_fetched hfetched f
  have hstart := CoreTo.refl s' c.val
  have hresult := fun (rd : Nat) (v : DWord) => hstart.ccResult 4 rd v
  -- the pc and the register after an instruction that writes a result
  have hwrites : ∀ {o : Outcome} (rd : Nat) (v : DWord), o = .next (s'.ccResult c.val 4 rd v) → ∃ t : State, o = .next t ∧
      (t.core c.val).pc = (s'.core c.val).pc + 4 ∧ OnlyCore s' t c.val ∧ (t.core c.val).reg rd = if rd = 0 then 0 else v := by
    intro o rd v ho
    refine ⟨_, ho, ?_, (hresult rd v).only, ?_⟩
    · rw [(hresult rd v).core]
      exact congrArg (· + 4) (Core.setReg_pc _ rd v)
    · rw [(hresult rd v).core]
      exact Core.reg_setReg _ rd v
  refine ⟨fun tk rs1 herr => ⟨fun hreached => ?_, fun hshort => ?_⟩, fun tk herr hdone => ⟨?_, ?_⟩, fun rd tk => ?_, fun gr rs1 hfits => ?_, fun rd gr => ?_,
    ?_, ?_, fun rd rs1 w a lo hi len hspace hwindow hrd => ⟨?_, ?_⟩⟩
  · exact ((hstart.setCore _).ccNext 4).outcome ((hrun _).trans (congrArg _ (s'.opWait_reached c.val herr hreached)))
  · exact (hstart.setCore _).outcome ((hrun _).trans (congrArg _ (s'.opWait_short c.val herr hshort)))
  · exact ((hstart.setCore _).ccNext 4).outcome ((hrun _).trans (congrArg _ (s'.ccWait_holds c.val _ id herr hdone)))
  · have hclear := (hstart.setCore ((s'.core c.val).clearTk tk.val)).ccNext 4
    refine ⟨_, (hrun _).trans (congrArg _ (s'.ccWait_holds c.val _ (fun k => k.clearTk tk.val) herr hdone)), ?_, ?_, ?_, hclear.only⟩ <;> rw [hclear.core]
    · exact Map.get_set_self _ _ _ _
    · exact Map.get_set_self _ _ _ _
    · rfl
  · obtain ⟨t, ht, hpc, honly, hreg⟩ := hwrites rd.val _ (hrun (fun s => s.opTkdone c.val rd.val tk.val))
    exact ⟨t, ht, hreg, hpc, honly⟩
  · have hgrant := (hstart.setCore { s'.core c.val with
      grants := (s'.core c.val).grants.set 0 gr.val ((s'.core c.val).grants.get 0 gr.val + fieldOf ((s'.core c.val).reg rs1.val) 7 0) }).ccNext 4
    refine ⟨_, (hrun _).trans (congrArg _ (s'.opGrant_fits c.val hfits)), ?_, ?_, hgrant.only⟩ <;> rw [hgrant.core]
    · exact Map.get_set_self _ _ _ _
    · rfl
  · obtain ⟨t, ht, hpc, honly, hreg⟩ := hwrites rd.val _ (hrun (fun s => s.opGrget c.val rd.val gr.val))
    exact ⟨t, ht, hreg, hpc, honly⟩
  · exact ((hstart.modCore Core.inval).ccNext 4).outcome (hrun (fun s => s.opInval c.val))
  · exact (hstart.modCore _).outcome (hrun (fun s => s.opEnd c.val))
  · obtain ⟨t, ht, hpc, honly, hreg⟩ := hwrites rd.val _ (hrun (fun s => s.opCvt c.val rd.val rs1.val w.val false))
    rw [if_neg hrd, hspace, (cvtPointer_window hwindow _).1] at hreg
    exact ⟨t, ht, hpc, honly, hreg⟩
  · obtain ⟨t, ht, hpc, honly, hreg⟩ := hwrites rd.val _ (hrun (fun s => s.opCvt c.val rd.val rs1.val w.val true))
    rw [if_neg hrd, hspace, (cvtPointer_window hwindow _).2] at hreg
    exact ⟨t, ht, hpc, honly, hreg⟩

/-- Settles O17, by evaluating the decoder on each word. -/
theorem controlWordsDecode : Obligations.ControlWordsDecode := by
  unfold Obligations.ControlWordsDecode
  decide +kernel

end Sys2Proof.Machine
end

section
/-! # An end of a kernel that a fence has already ended

The clauses of ECALL and of GRANT_STALL_TIMEOUT say that the core ends its part of the kernel with their code. The end lands the array's
running instructions first; one that writes part of a Pantry granule with an uncorrectable error raises a fault of source 0x29, and where the
severity table fences the core for it, the fence ends the kernel (0x105) before the code is kept (R136, R475). -/

namespace Sys2Proof.Machine

/-- A configuration whose severity table has each source fence its unit. -/
def fencingPlan : Floorplan :=
  { name := [], featuresReq := 0, revSet := [], parts := [], quartered := [], sets := [], windows := [], routes := none, bundleFences := [],
    fabric := none, linkPorts := [], linkParts := [], budgets := [], clocks := [], severity := List.replicate 256 0x0F01, watch := [],
    debugUnlock := false, mgmtWrite0 := false, secVersion := 0 }

/-- An array instruction in flight. -/
def strayIns : TileIns := { word := 0, a := 0, b := 0, tag := 0, pc := 0, strict := false, frm := 0, stages := [] }

/-- The head of the access queue, which asks for a credit of a grant that has none. -/
def creditIns : TileIns := { strayIns with word := 0x08000000 }

/-- The array runs `strayIns`, which will write one byte of granule 8. -/
def partWriter : Running :=
  { ins := strayIns, error := 0, words := [], bytes := [(64, 1)], flags := 0, empty := false, nan := none, trap := false, slices := 0, tracker := none }

/-- A core that runs kernel 0, with an uncorrectable error in granule 8. -/
def flawedCore : Core :=
  { Core.reset with
    phase := 1, kernel := some 0, inflight := [strayIns], arr := [partWriter], accq := [creditIns],
    flaws := [{ granule := 8, uncorrectable := true }] }

def flawedState : State := { State.reset with flp := some fencingPlan, cores := ⟨[(0, flawedCore)]⟩ }

/-- The outcome leaves the core in the end of a kernel that it does not hold. -/
def endsWithout (c : Nat) : Outcome → Bool
  | .next t => (t.core c).phase == 2 && (t.core c).kernel.isNone
  | _ => false

theorem not_coreEnded_of_endsWithout {o : Outcome} {c : Nat} (ho : endsWithout c o = true) {s : State} {n code : Nat} :
    ¬ ∃ t, o = .next t ∧ CoreEnded s t c n code := by
  rintro ⟨t, rfl, -, hend, -⟩
  obtain ⟨hphase, hkernel⟩ : (t.core c).phase = 2 ∧ (t.core c).kernel = none := by simpa [endsWithout] using ho
  rcases hend with ⟨hidle, -⟩ | ⟨-, hholds, -⟩
  · exact absurd (hphase.symm.trans hidle) (by decide)
  · exact absurd (hkernel.symm.trans hholds) nofun

theorem flawedState_fetched : CoreFetched flawedState 0 4 flawedState :=
  ⟨rfl, rfl, rfl, rfl, rfl, rfl, rfl, rfl⟩

theorem flawedState_ecall : endsWithout 0 (exec (.controlCoreInstruction 0 0x73 [] []) flawedState) = true := by decide +kernel

theorem flawedState_grantStall : endsWithout 0 (exec (.grantStallTimeout 0 .stream) flawedState) = true := by decide +kernel

/-- Refutes O16: the ECALL of `flawedState` ends in a core without a kernel, as the fence of its last write has ended it. -/
theorem not_controlCoreInstructions : ¬ Obligations.ControlCoreInstructions := by
  intro h
  obtain ⟨-, -, -, -, -, -, -, -, hecall⟩ := h flawedState flawedState 0 0x73 4 flawedState_fetched
  exact not_coreEnded_of_endsWithout flawedState_ecall (hecall (by decide +kernel) 0 rfl rfl)

/-- Refutes O18: GRANT_STALL_TIMEOUT in `flawedState` ends in a core without a kernel, as the fence of its last write has ended it. -/
theorem not_issueAndEnd : ¬ Obligations.IssueAndEnd := by
  intro h
  obtain ⟨-, -, -, hstall⟩ := h.2 flawedState 0 rfl
  exact not_coreEnded_of_endsWithout flawedState_grantStall (hstall 0 creditIns [] rfl rfl rfl rfl rfl rfl)

end Sys2Proof.Machine
end

section
/-! # WRITE_INLINE over a clean exclusive copy

The clause of WRITE_INLINE has the bytes of the line from the L2 that may change it, and no copy poisoned. The write goes to memory all the same,
as a clean E copy need not be written back first; where memory lists the line as poisoned, a write of part of it is discarded (R337). -/

namespace Sys2Proof.Machine

/-- A configuration in which partition 0 has the Pool's first 8 GiB as a shared window that it may write. -/
def openPlan : Floorplan :=
  { name := [], featuresReq := 0, revSet := [], parts := [], quartered := [], sets := [],
    windows := [{ part := 0, read := true, write := true, shared := true, noAlloc := false, base := 0, size := 2 ^ 33 }], routes := none, bundleFences := [],
    fabric := none, linkPorts := [], linkParts := [], budgets := [], clocks := [], severity := [], watch := [],
    debugUnlock := false, mgmtWrite0 := false, secVersion := 0 }

/-- WRITE_INLINE of one byte, 1, to address 0. -/
def inlineCmd : Slot := { opcode := 0x41, flags := 2, cid := 0, target := 0, arg0 := 0, arg1 := 0, arg2 := 1, extra := [1], rsvd := false }

def inlineQueue : Sq :=
  { base := 0, entries := 16, cq := 0, weight := 1, head := 0, tail := 0, n := 0, stopped := 0, rereads := 0, fetched := [inlineCmd],
    running := [], results := [], deleting := none }

def inlineStarted : Sq := { inlineQueue with fetched := [], running := [inlineCmd] }

/-- Line 0, all zeros, in a cluster that has it exclusively and unchanged. -/
def exclusiveLine : L2Line := { st := .E, data := List.replicate 128 0, age := 0, poison := false, gseq := 0 }

/-- Memory lists line 0 as poisoned, and cluster 0 has a good copy of it in E. -/
def exclusiveState : State :=
  let s := { State.reset with
    flp := some openPlan, poolBad := [0], sqs := ⟨[(0, some inlineQueue)]⟩, l2s := ⟨[(0, { L2.reset with lines := ⟨[(0, exclusiveLine)]⟩ })]⟩ }
  ((s.setFld 94 0x20100 3 0 4).setOnline 0 true).setChanState (.attic 0 0) 2

/-- The state with the command started. -/
def exclusiveStarted : State := { exclusiveState with sqs := ⟨[(0, some inlineStarted)]⟩ }

theorem exclusiveState_ready : CmdReady exclusiveState 0 0 0x41 exclusiveStarted inlineCmd inlineStarted := by
  refine ⟨rfl, ?_, ?_, rfl, ?_, ?_⟩ <;> decide +kernel

/-- The outcome has the given byte at an address of the Pool. -/
def leavesByte (a : Nat) (b : Byte) : Outcome → Bool
  | .next t => t.pool.get 0 a == b
  | _ => false

theorem exclusiveState_discards : leavesByte 0 0 (exec (.writeInline 0 0) exclusiveState) = true := by decide +kernel

/-- Refutes O35: WRITE_INLINE of byte 1 in `exclusiveState` leaves the byte 0. -/
theorem not_queueCommandEffects : ¬ Obligations.QueueCommandEffects := by
  intro h
  obtain ⟨-, -, -, -, -, -, -, -, -, -, -, -, hinline⟩ := h exclusiveState exclusiveStarted 0 0 inlineCmd inlineStarted
  obtain ⟨t, ht, -, hstores, -⟩ := hinline 0 exclusiveState_ready (by decide) (by decide) (by decide) (by decide) (by decide) (by decide +kernel)
    (by decide +kernel) (by decide +kernel) (by decide) (by decide +kernel) (by decide +kernel) (by decide +kernel) (by decide +kernel)
  have hwritten : t.pool.get 0 0 = 1 := hstores 0 (by decide)
  have hkept := exclusiveState_discards
  rw [ht] at hkept
  exact absurd (hwritten.symm.trans (eq_of_beq hkept)) (by decide)

end Sys2Proof.Machine
end

section
/-! # Chunk tokens and page walks

What CHUNK_COMPLETE does to the core whose stream instruction has written a chunk (R126, R300, R301), and a page walk that finds a leaf whose
accessed and dirty bits stand already (R383 to R387). -/

namespace Sys2Proof.Machine

/-! ## Tokens and completion -/

theorem getLsbD_of_fieldOf {w : DWord} {i : Nat} (h : fieldOf w i i = 0) : w.getLsbD i = false := by
  have hmod : w.toNat / 2 ^ i % 2 = 0 := by simpa [fieldOf, bits] using h
  simp [BitVec.getLsbD, Nat.testBit_eq_decide_div_mod_eq, hmod]

/-- An instruction with a counter returns its tokens to it alone (R125, R126). -/
theorem Core.tokens_counted {i : TileIns} (h : fieldOf i.word 12 12 = 0) (k : Core) (n : Nat) : k.tokens i n =
    { k with tkDone := k.tkDone.set 0 (fieldOf i.word 11 7) (k.tkDone.get 0 (fieldOf i.word 11 7) + BitVec.ofNat 32 n) } := by
  exact if_neg (Bool.not_eq_true _ ▸ getLsbD_of_fieldOf h)

@[simp] theorem Core.tokens_waiting (k : Core) (i : TileIns) (n : Nat) : (k.tokens i n).waiting = k.waiting := by
  unfold Core.tokens
  split <;> rfl

theorem Core.errWakes_idle {k : Core} (h : k.waiting = none) : k.errWakes = false := by simp [Core.errWakes, h]

/-- The core once an instruction that releases no grant has completed without an error (R123, R125). -/
def Core.completed (k : Core) (i : TileIns) (n : Nat) : Core :=
  { k.tokens i n with inflight := (k.tokens i n).inflight.filter (fun x => x.tag != i.tag) }

/-- A completion without a grant, that the control core does not wait on, changes its core alone. -/
theorem State.tileDone_quiet (s : State) (c : Nat) {i : TileIns} (n : Nat) (hgrant : fieldOf i.word 28 27 ≠ 2) (hwait : (s.core c).waiting = none) :
    s.tileDone c i n false = s.setCore c ((s.core c).completed i n) := by
  have hquiet : ((s.core c).completed i n).errWakes = false := Core.errWakes_idle ((Core.tokens_waiting _ _ _).trans hwait)
  simp only [State.tileDone, hgrant, if_false, Bool.false_eq_true]
  exact if_neg (Bool.not_eq_true _ ▸ hquiet)

/-- The closing of a copy that builds no bitmap writes nothing (R300). -/
theorem State.strClose_copy (s : State) (c : Nat) (n : Fin 16) {i : TileIns} (hfunc : i.func = 0)
    (hmode : (copyDesc ((s.core c).slotAt n).desc i).mode ≠ 4) : s.strClose c n i = (s, .ok ()) := by
  simp [State.strClose, hfunc, hmode]

section
variable {s : State} {c : CoreId} {n : Fin 16} {i : TileIns}

/-- CHUNK_COMPLETE of a chunk that is written and not the last (R300). -/
theorem chunkComplete_token (hrun : s.phase = .running) (hins : ((s.core c.val).slotAt n).ins = some i) (herr : ((s.core c.val).slotAt n).error = 0)
    (hwritten : ((s.core c.val).slotAt n).returned < ((s.core c.val).slotAt n).written)
    (hbusy : s.strBusy c.val n ((s.core c.val).slotAt n).returned = false)
    (hmore : ((s.core c.val).slotAt n).returned + 1 < ((s.core c.val).slotAt n).chunks) : exec (.chunkComplete c n) s =
      .next ((s.modCore c.val (fun k => k.tokens i 1)).modSlot c.val n (fun t => { t with returned := t.returned + 1 })) := by
  change execChunkComplete c n s = _
  rw [execChunkComplete, gate_running hrun]
  simp [hins, herr, Nat.not_le.mpr hwritten, hbusy, hmore]

/-- CHUNK_COMPLETE of the last chunk, once it is written, of an instruction whose closing writes nothing (R300, R301). -/
theorem chunkComplete_last (hrun : s.phase = .running) (hins : ((s.core c.val).slotAt n).ins = some i) (herr : ((s.core c.val).slotAt n).error = 0)
    (hwritten : ((s.core c.val).slotAt n).returned < ((s.core c.val).slotAt n).written)
    (hbusy : s.strBusy c.val n ((s.core c.val).slotAt n).returned = false)
    (hlast : ((s.core c.val).slotAt n).chunks ≤ ((s.core c.val).slotAt n).returned + 1) (hwait : ((s.core c.val).slotAt n).waiting = none)
    (habort : ((s.core c.val).slotAt n).abort = false) (hclose : s.strClose c.val n i = (s, .ok ())) : exec (.chunkComplete c n) s =
      .next ((s.modSlot c.val n (fun t => { StreamSlot.reset with cursor := t.cursor, faultVa := t.faultVa })).tileDone c.val i 1 false) := by
  change execChunkComplete c n s = _
  rw [execChunkComplete, gate_running hrun]
  simp [hins, herr, Nat.not_le.mpr hwritten, hbusy, Nat.not_lt.mpr hlast, hwait, habort, hclose]

end

theorem CoreTo.modSlot {s t : State} {c : Nat} {k : Core} (h : CoreTo s t c k) (n : Nat) (f : StreamSlot → StreamSlot) :
    CoreTo s (t.modSlot c n f) c { k with slots := k.slots.set StreamSlot.reset n (f (k.slotAt n)) } := h.modCore _

/-! ## A page walk that finds a leaf -/

/-- Core `c` is `k`; of the other cores, the Pool and what is sent, nothing has changed. -/
def CoreBeside (s t : State) (c : Nat) (k : Core) : Prop :=
  t.core c = k ∧ (∀ d, d ≠ c → t.core d = s.core d) ∧ t.pool = s.pool ∧ t.sent = s.sent

section
variable {s t u : State} {c : Nat} {k : Core}

theorem CoreBeside.refl (s : State) (c : Nat) : CoreBeside s s c (s.core c) := ⟨rfl, fun _ _ => rfl, rfl, rfl⟩

theorem CoreBeside.setCore (h : CoreBeside s t c k) (k' : Core) : CoreBeside s (t.setCore c k') c k' := by
  obtain ⟨-, hothers, hpool, hsent⟩ := h
  exact ⟨t.core_setCore c k', fun d hd => (t.core_setCore_ne c d k' hd).trans (hothers d hd), hpool, hsent⟩

theorem CoreBeside.modCore (h : CoreBeside s t c k) (f : Core → Core) : CoreBeside s (t.modCore c f) c (f k) := by
  rw [← h.1]
  exact h.setCore _

/-- What changes neither a core nor the Pool nor what is sent. -/
theorem CoreBeside.trans_same (h : CoreBeside s t c k) (hsame : (u.cores, u.pool, u.sent) = (t.cores, t.pool, t.sent)) : CoreBeside s u c k := by
  obtain ⟨hcore, hothers, hpool, hsent⟩ := h
  obtain ⟨hcores, hpool', hsent'⟩ : u.cores = t.cores ∧ u.pool = t.pool ∧ u.sent = t.sent := by simpa using hsame
  have hread (d : Nat) : u.core d = t.core d := congrArg (fun m => m.get Core.reset d) hcores
  exact ⟨(hread c).trans hcore, fun d hd => (hread d).trans (hothers d hd), hpool'.trans hpool, hsent'.trans hsent⟩

end

/-- An entry put into a cache is in it, whatever it drops (R383). -/
theorem mem_capped (n free : Nat) (l : List XlEntry) (e : XlEntry) : e ∈ capped n free l e := by
  unfold capped
  split
  · next h => exact List.contains_iff_mem.mp h
  · split <;> simp

/-- Setting a bit that stands changes nothing. -/
theorem or_twoPow_of_getLsbD {w : Nat} {x : BitVec w} {i : Nat} (h : x.getLsbD i = true) : x ||| BitVec.twoPow w i = x := by
  refine BitVec.eq_of_getLsbD_eq fun j hj => ?_
  rw [BitVec.getLsbD_or, BitVec.getLsbD_twoPow]
  by_cases hij : i = j
  · simp [← hij, h]
  · simp [hij]

/-- Accessed and dirty bits that stand need no setting (R384). -/
theorem or_adBits {p : DWord} {write : Bool} (ha : pteA p = true) (hd : write = true → pteD p = true) :
    p ||| (if write then 0xC0 else 0x40) = p := by
  have hA : p ||| 0x40 = p := or_twoPow_of_getLsbD (i := 6) ha
  cases write with
  | false => exact hA
  | true =>
    have hD : p ||| 0x80 = p := or_twoPow_of_getLsbD (i := 7) (hd rfl)
    calc p ||| 0xC0 = p ||| 0x40 ||| 0x80 := (BitVec.or_assoc p 0x40 0x80).symm
      _ = p := by rw [hA, hD]

/-- The non-leaf entries that a walk has read, in the walk cache of the core's die (R384). -/
def State.cachePath (s : State) (c : Nat) (k : Core) (asid : Nat) (va : DWord) (path : List (Nat × DWord)) : State :=
  overList s path (fun s x =>
    { s.bump with xlWalk := s.xlWalk.set [] (coreDie c) (capped 256 (Config.freeNat s.fresh) (s.xlWalk.get [] (coreDie c))
      { part := k.part, slot := k.slot, asid := asid, vpn := vpnAt va x.1, level := x.1, run := 0, pte := x.2 }) })

/-- What covers an address, dropped from the core's data cache and from its die's cache (R384). -/
def State.dropCovering (s : State) (c : Nat) (k : Core) (asid : Nat) (va : DWord) : State :=
  let drop (l : List XlEntry) : List XlEntry := l.filter (fun x => !x.covers k.part k.slot asid va)
  let t := s.setCore c { s.core c with xlD := drop (s.core c).xlD }
  { t with xlDie := t.xlDie.set [] (coreDie c) (drop (t.xlDie.get [] (coreDie c))) }

section
variable {s : State} {c : Nat} {va : DWord} {a : XlAccess} {d : AsDesc} {h : WalkHit}

/-- A walk from the root that finds a permitting leaf with its bits standing changes the caches alone (R384). -/
theorem State.walk_found (hspace : (s.core c).space = some d) (hcached : s.xlWalk.get [] (coreDie c) = [])
    (hwalk : s.walkFrom va 4 (fieldOf d.root 43 0) [] = .ok h) (hpermits : ptePermits h.pte a = true)
    (ha : pteA h.pte = true) (hd : accWrites a = true → pteD h.pte = true) : s.walk c .coreData va a false =
    (((s.inc64 (coreDie c) 0x70018).cachePath c (s.core c) (rootAsid d.root) va h.path).dropCovering c (s.core c) (rootAsid d.root) va |>.xlInsert c 1
      { leafEntry (s.core c).part (s.core c).slot (rootAsid d.root) va h.level h.pte with apart := h.apart } true, none) := by
  have hbits := or_adBits ha hd
  have hstands : (!d.adu && (!pteA h.pte || (accWrites a && !pteD h.pte))) = false := by
    cases hw : accWrites a <;> simp [ha, hw] at hd ⊢
    simp [hd]
  have hnowait : s.adWaits h (accWrites a) = none := if_pos hbits
  have hset (t : State) : t.setAD h (accWrites a) = (t, h.pte) := if_pos hbits |>.trans (congrArg (t, ·) hbits)
  have hmiss {α : Type} (l : List α) : l.findSome? (fun _ => (none : Option XlEntry)) = none := by simp
  simp only [State.walk, hspace, hcached, List.find?_nil, hmiss, Bool.false_eq_true, if_false, hwalk, hpermits, Bool.not_true, hstands, hnowait, hset]
  rfl

/-- PAGE_WALK for the control core's data access that finds such a leaf ends the core's wait (R384). -/
theorem pageWalk_found {c : CoreId} (hrun : s.phase = .running) (hfenced : (s.core c.val).fenced = false)
    (hwait : (s.core c.val).waiting = some (.walk va a)) (haccess : a ≠ .execute) {u : State}
    (hwalk : s.walk c.val .coreData va a false = (u, none)) :
    exec (.pageWalk c .coreData va a false) s = .next (u.modCore c.val (fun k => { k with waiting := none })) := by
  change execPageWalk c .coreData va a false s = _
  rw [execPageWalk, gate_running hrun]
  simp [Core.wantsWalk, Core.walkWanted, hwait, haccess, hfenced, hwalk, State.walkDone]

theorem State.cachePath_same (s : State) (c : Nat) (k : Core) (asid : Nat) (va : DWord) (path : List (Nat × DWord)) :
    ((s.cachePath c k asid va path).cores, (s.cachePath c k asid va path).pool, (s.cachePath c k asid va path).sent) = (s.cores, s.pool, s.sent) := by
  refine overList_keeps (fun u : State => (u.cores, u.pool, u.sent)) ?_ s path
  exact fun _ _ => rfl

/-- An entry put into the core's data cache and its die's is in the core's. -/
theorem CoreBeside.xlInsert {t : State} {k : Core} (h : CoreBeside s t c k) (e : XlEntry) :
    ∃ l, e ∈ l ∧ CoreBeside s (t.xlInsert c 1 e true) c { k with xlD := l } := by
  rw [← h.1]
  exact ⟨_, mem_capped _ _ _ e, (h.setCore _).trans_same rfl⟩

theorem CoreBeside.dropCovering {t : State} {k : Core} (h : CoreBeside s t c k) (k' : Core) (asid : Nat) (va : DWord) :
    CoreBeside s (t.dropCovering c k' asid va) c { k with xlD := k.xlD.filter (fun x => !x.covers k'.part k'.slot asid va) } := by
  rw [← h.1]
  exact CoreBeside.trans_same (h.setCore { t.core c with xlD := (t.core c).xlD.filter (fun x => !x.covers k'.part k'.slot asid va) }) rfl

end

/-- Settles O28: CHUNK_COMPLETE changes its core's slot and counter, and a walk that finds its leaf puts it into the core's data cache. -/
theorem chunkTokensAndWalks : Obligations.ChunkTokensAndWalks := by
  refine ⟨fun s c n i hrun hins herr hwritten hbusy hcounter => ⟨fun hmore => ?_, fun hlast hwait habort hfunc hmode hcore hgrant => ?_⟩,
    fun s c va a d h hrun hfenced hwait haccess hspace hcached hwalk hpermits ha hd => ?_⟩
  · have hto := ((CoreTo.refl s c.val).modCore (fun k => k.tokens i 1)).modSlot n.val (fun t => { t with returned := t.returned + 1 })
    refine ⟨_, chunkComplete_token hrun hins herr hwritten hbusy hmore, hto.only, ?_, ?_, ?_⟩ <;> rw [hto.core, Core.tokens_counted hcounter]
    · exact Map.get_set_self _ _ _ _
    · exact Map.get_set_self _ _ _ _
  · have hslot := (CoreTo.refl s c.val).modSlot n.val (fun t => { StreamSlot.reset with cursor := t.cursor, faultVa := t.faultVa })
    have hto := hslot.setCore (((s.modSlot c.val n.val (fun t => { StreamSlot.reset with cursor := t.cursor, faultVa := t.faultVa })).core c.val).completed i 1)
    rw [hslot.core] at hto
    have hexec := chunkComplete_last hrun hins herr hwritten hbusy hlast hwait habort (s.strClose_copy c.val n hfunc hmode)
    rw [State.tileDone_quiet _ _ _ hgrant (by rw [hslot.core]; exact hcore), hslot.core] at hexec
    refine ⟨_, hexec, hto.only, ?_, ?_, ?_, ?_⟩ <;> rw [hto.core, Core.completed, Core.tokens_counted hcounter]
    · exact Map.get_set_self _ _ _ _
    · exact Map.get_set_self _ _ _ _
  · have hpath := ((CoreBeside.refl s c.val).trans_same (u := s.inc64 (coreDie c.val) 0x70018) rfl).trans_same
      (State.cachePath_same _ c.val (s.core c.val) (rootAsid d.root) va h.path)
    obtain ⟨l, hmem, hbeside⟩ := (hpath.dropCovering (s.core c.val) (rootAsid d.root) va).xlInsert
      { leafEntry (s.core c.val).part (s.core c.val).slot (rootAsid d.root) va h.level h.pte with apart := h.apart }
    obtain ⟨hcore, hothers, hpool, hsent⟩ := hbeside.modCore (fun k => { k with waiting := none })
    refine ⟨_, pageWalk_found hrun hfenced hwait haccess (State.walk_found hspace hcached hwalk hpermits ha hd), ?_, hpool, hsent, ?_, ?_, hothers⟩ <;>
      rw [hcore]
    exact hmem

end Sys2Proof.Machine
end

section
/-! # Memory instructions of a group in the Pantry

An instruction of a group that may issue (R209, R215, R216), and what loads, stores, atomics and fences do where every lane names the Pantry's
aperture and no granule is poisoned or flawed (R229 to R233). -/

namespace Sys2Proof.Machine

/-! ## An instruction that issues -/

@[simp] theorem State.inc64_core (s : State) (d o n c : Nat) : (s.inc64 d o n).core c = s.core c :=
  congrArg (fun m => m.get Core.reset c) (show (s.inc64 d o n).cores = s.cores from rfl)

@[simp] theorem State.inc64_pool (s : State) (d o n : Nat) : (s.inc64 d o n).pool = s.pool := rfl

@[simp] theorem State.countSwitch_core (s : State) (c : Nat) (b : Bool) (d : Nat) : (s.countSwitch c b).core d = s.core d := by
  unfold State.countSwitch
  split <;> simp

/-- A turn of a ring to its next ready path leaves the core's other fields. -/
theorem State.gSettle_core (s : State) (c g : Nat) : ∃ m, (s.gSettle c g).core c = { s.core c with groups := m } := by
  unfold State.gSettle
  dsimp only
  split
  · rw [State.setGroup, State.modCore, State.core_setCore, State.countSwitch_core]
    exact ⟨_, rfl⟩
  · exact ⟨_, rfl⟩

/-- An instruction that meets no trap is its body, on the group, the path and the lanes of its guard (R209, R215, R216, R225). -/
theorem groupRun_ready {s s' : State} {c : CoreId} {g : GroupId} {w : DWord} {x : Group} {p : Path} (h : GroupReady s c g w x p s')
    {mine : Nat → Bool} (hmine : mine (gOp w) = true) (hop : gOp w ≠ 0x60) (body : State → Group → Path → BitVec 32 → State) :
    groupRun c g w mine s body = .next (body s' x p (x.guard w p.mask)) := by
  obtain ⟨hrun, hx, hhead, hstart, hlive, hready, hrank, halign, hfetch, hstill, hlegal, hstrict, hwide, hregs⟩ := h
  obtain ⟨rest, hring⟩ := List.head?_eq_some_iff.mp hhead
  obtain ⟨m, hcore⟩ := s.gSettle_core c.val g.val
  have hstart' : ((s.gSettle c.val g.val).core c.val).mayStart = true := by rw [hcore]; exact hstart
  have hissues : (!((s.gSettle c.val g.val).core c.val).mayStart || x.live == 0 || p.state != .ready || !mine (gOp w) ||
      ((s.gSettle c.val g.val).core c.val).outranked g.val x) = false := by
    rw [hstart', beq_eq_false_iff_ne.mpr hlive, hready, hmine, hrank]
    rfl
  have hmode : (gStrict w && decide (4 < bits ((s.gSettle c.val g.val).core c.val).vecCtrl.toNat 3 1)) = false := by
    rw [hcore]
    cases hs : gStrict w
    · rfl
    · exact decide_eq_false (Nat.not_lt.mpr (hstrict hs))
  have hlanes : (gWide w && (p.mask != x.live || (gOp w == 0x74 && x.live != BitVec.allOnes 32))) = false := by
    cases hw : gWide w
    · rfl
    · obtain ⟨hmask, hall⟩ := hwide hw
      by_cases h74 : gOp w = 0x74 <;> simp [hmask, h74]
      exact hall h74
  have hheld : ((gSources w ++ gDests w).any (fun r => decide (((s.gSettle c.val g.val).core c.val).grpVregs ≤ r))) = false := by
    rw [hcore, List.any_eq_false]
    exact fun r hr => by simpa using hregs r hr
  refine (gate_running hrun _).trans (congrArg _ ?_)
  dsimp only
  rw [if_pos hstart, ← hx]
  simp only [hring, hissues, Bool.false_eq_true, if_false, halign, ne_eq, not_true, hfetch, hstill, hlegal, Bool.not_true, hmode, hlanes, hheld, hop]

theorem GroupReady.ring_head {s s' : State} {c : CoreId} {g : GroupId} {w : DWord} {x : Group} {p : Path} (h : GroupReady s c g w x p s') :
    x.ring.head? = some p := by
  obtain ⟨-, -, hhead, -⟩ := h
  exact hhead

/-- An instruction that goes on leaves its group advanced, and the core's other fields. -/
theorem State.gNext_core (s : State) (c g : Nat) (w : DWord) (old new : Group) :
    (s.gNext c g w old new).core c = { s.core c with groups := (s.core c).groups.set Group.reset g { new.advance with promoted := false } } := by
  rw [State.gNext, State.gIssued, State.setGroup, State.modCore, State.core_setCore]
  simp

theorem State.gNext_group (s : State) (c g : Nat) (w : DWord) (old new : Group) :
    ((s.gNext c g w old new).core c).group g = { new.advance with promoted := false } := by
  rw [State.gNext_core]
  exact Map.get_set_self _ _ _ _

@[simp] theorem State.gNext_pool (s : State) (c g : Nat) (w : DWord) (old new : Group) : (s.gNext c g w old new).pool = s.pool := by
  simp [State.gNext, State.gIssued, State.countSwitch, State.setGroup, State.modCore]

/-! ## A Pantry without poison or bit errors -/

/-- No granule of a core's Pantry is poisoned, and none has a bit error. -/
def Core.sound (k : Core) : Prop := k.poisoned = [] ∧ k.flaws = []

/-- Reads of a sound Pantry find no poison and change nothing (R284, R285). -/
theorem State.panRead_sound {s : State} {c : Nat} (h : (s.core c).sound) (reader : Nat) (gs : List Nat) : s.panRead c reader gs = (s, []) := by
  obtain ⟨hpoison, hflaws⟩ := h
  have hgranule (g : Nat) : s.panGranule c reader g = (s, false) := by simp [State.panGranule, hpoison, hflaws]
  unfold State.panRead
  induction gs with
  | nil => rfl
  | cons g gs ih => simpa [hgranule g] using ih

theorem State.panStore_sound {s : State} {c : Nat} (h : (s.core c).sound) (reader off : Nat) (b : List Byte) :
    s.panStore c reader off b = s.modCore c (fun k => k.panWrite off b) := by
  simp [State.panStore, State.panRead_sound h]

theorem Core.sound_panWrite {k : Core} (h : k.sound) (off : Nat) (b : List Byte) : (k.panWrite off b).sound := by
  obtain ⟨hpoison, hflaws⟩ := h
  simp [Core.sound, Core.panWrite, hpoison, hflaws]

/-! ## The accesses of the lanes -/

/-- Every executing lane names an aligned address of the Pantry's aperture. -/
def PantryLanes (k : Core) (x : Group) (w : DWord) (lanes : BitVec 32) : Prop :=
  ∀ l ∈ lanesOf lanes, (x.addr w l).toNat % gMemBytes w = 0 ∧ k.inAperture (x.addr w l) = true

theorem mem_lanesOf {m : BitVec 32} {l : Nat} (hl : l < 32) : l ∈ lanesOf m ↔ m.getLsbD l = true := by simp [lanesOf, hl]

section
variable {s : State} {c : Nat} {g : GroupId} {w : DWord} {x : Group} {lanes : BitVec 32}

/-- Where every lane names the Pantry, an access asks for no place outside it. -/
theorem State.gMemory_pantry (h : PantryLanes (s.core c) x w lanes) (n : Nat) (p : Path) (acc : XlAccess) (op : Nat → RemOp)
    (body : State → List (Nat × DWord × Nat × Spot) → State) : s.gMemory c n g w x p lanes acc op body = body s [] := by
  have haligned : ((lanesOf lanes).any (fun l => (x.addr w l).toNat % gMemBytes w != 0)) = false := by
    simpa using fun l hl => (h l hl).1
  have houter : (lanesOf lanes).filter (fun l => !(s.core c).inAperture (x.addr w l)) = [] := by
    simpa using fun l hl => (h l hl).2
  simp [State.gMemory, haligned, houter, State.probeAll]

/-- A fold that leaves all but a list as it is, and adds one entry to that for each element. -/
theorem foldl_collect {α β σ τ : Type} (s : σ) (r : τ) {f : σ × List β × τ → α → σ × List β × τ} {v : α → β}
    (h : ∀ d a, f (s, d, r) a = (s, d ++ [v a], r)) (ls : List α) (d : List β) : ls.foldl f (s, d, r) = (s, d ++ ls.map v, r) := by
  induction ls generalizing d with
  | nil => simp
  | cons a ls ih => rw [List.foldl_cons, h, ih, List.append_assoc, List.map_cons, List.singleton_append]

/-- The Pantry's value at the address of each lane, in the order of the lanes. -/
def pantryValues (k : Core) (x : Group) (w : DWord) (ls : List Nat) : List (Nat × Nat) :=
  ls.map (fun l => (l, k.panNat (k.apOff (x.addr w l)) (gMemBytes w)))

/-- The value of a lane in such a list. -/
def laneValue (d : List (Nat × Nat)) (l : Nat) : Nat := ((d.find? (fun q => q.1 == l)).map (·.2)).getD 0

theorem laneValue_pantryValues (k : Core) (x : Group) (w : DWord) {ls : List Nat} {l : Nat} (hl : l ∈ ls) :
    laneValue (pantryValues k x w ls) l = k.panNat (k.apOff (x.addr w l)) (gMemBytes w) := by
  unfold laneValue pantryValues
  induction ls with
  | nil => exact absurd hl List.not_mem_nil
  | cons i ls ih =>
    by_cases hi : i = l
    · simp [hi]
    · simpa [hi] using ih ((List.mem_cons.mp hl).resolve_left (Ne.symm hi))

/-- The loads of the lanes from a sound Pantry have no error and change nothing (R229). -/
theorem State.gLoads_pantry (h : (s.core c).sound) (l1 : Bool) (ext : List Byte) (ls : List Nat) :
    s.gLoads c g (gMemBytes w) x w l1 ext [] ls = (s, pantryValues (s.core c) x w ls, 0) := by
  unfold State.gLoads
  rw [foldl_collect s (0, ext) (v := fun l => (l, (s.core c).panNat ((s.core c).apOff (x.addr w l)) (gMemBytes w))) ?step]
  case step =>
    intro d l
    simp [spotOf, State.panRead_sound h]
  rfl

end

/-! ## The registers of the group -/

theorem Map.get_foldl_set {α : Type} [DecidableEq α] (d : α) (r : Nat) (f : Nat → α) (ls : List Nat) (m : Map α) (l : Nat) :
    (ls.foldl (fun m i => m.set d (r + i) (f i)) m).get d (r + l) = if l ∈ ls then f l else m.get d (r + l) := by
  induction ls generalizing m with
  | nil => simp
  | cons i ls ih =>
    rw [List.foldl_cons, ih, Map.get_set]
    by_cases hi : l = i <;> simp [hi]

section
variable (x : Group) (e : Nat) (na : Bool) (lanes : BitVec 32)

@[simp] theorem Group.ring_setV (r : Nat) (f : Nat → Word) : (x.setV e na lanes r f).ring = x.ring := by
  unfold Group.setV Group.cacheWrite
  split
  · rfl
  · dsimp only
    split <;> rfl

theorem Group.vreg_setV {r : Nat} (hr : r ≠ 255) (f : Nat → Word) {l : Nat} (hl : l < 32) :
    (x.setV e na lanes r f).vreg r l = if lanes.getLsbD l then f l else x.vreg r l := by
  have hv : (x.setV e na lanes r f).v = (lanesOf lanes).foldl (fun m l => m.set 0 (r * 32 + l) (f l)) x.v := by
    simp only [Group.setV, hr, if_false, Group.cacheWrite]
    split <;> rfl
  simp only [Group.vreg, hr, if_false, hv, Map.get_foldl_set, mem_lanesOf hl]

theorem Group.loadRegs_one {w : DWord} (hregs : gMemRegs w = 1) (hvd : gVD w ≠ 255) (f : Nat → Nat → Word) :
    x.loadRegs e w lanes f = x.setV e (gNA w) lanes (gVD w) (fun l => f l 0) := by
  simp [Group.loadRegs, hregs, hvd]

end

/-! ## The instructions -/

/-- The L1 data cache emptied, where an acquire asks for it (R230, R233). -/
def State.acquired (s : State) (c : Nat) (acq : Bool) : State := if acq then s.modCore c Core.invalD else s

theorem State.acquired_core (s : State) (c : Nat) (acq : Bool) : (s.acquired c acq).core c = { s.core c with l1d := if acq then ⟨[]⟩ else (s.core c).l1d } := by
  cases acq
  · rfl
  · exact s.core_setCore c _

@[simp] theorem State.acquired_pool (s : State) (c : Nat) (acq : Bool) : (s.acquired c acq).pool = s.pool := by
  cases acq <;> rfl

/-- A 32-bit atomic of a lane on the Pantry (R229, R231). -/
def State.pantryAmo (s : State) (c : Nat) (x : Group) (w : DWord) (l : Nat) : State :=
  let off := (s.core c).apOff (x.addr w l)
  s.modCore c (fun k => k.panWrite off (leBytes 4
    (atomResult (gAtom (gFN w % 16)) 32 ((s.core c).panNat off 4) (leNat (x.storeBytes w l)) 0 faddAtomic)))

section
variable {s s' : State} {c : CoreId} {g : GroupId} {w : DWord} {x : Group} {p : Path}

/-- LD from a sound Pantry (R229, R230). -/
theorem exec_ld_pantry (h : GroupReady s c g w x p s') (hop : gOp w = 0x50) (hsound : (s'.core c.val).sound)
    (hlanes : PantryLanes (s'.core c.val) x w (x.guard w p.mask)) : exec (.ld c g w [] []) s =
    .next ((s'.acquired c.val (bitAt (gFN w) 5 && bitAt (gFN w) 7)).gNext c.val g.val w x (x.loadRegs (s'.core c.val).rcEntries w (x.guard w p.mask)
      (fun l i => gLoadWord w (laneValue (pantryValues (s'.core c.val) x w (lanesOf (x.guard w p.mask))) l) i))) := by
  change execLd c g w [] [] s = _
  rw [execLd, groupRun_ready h (by simp [hop]) (by simp [hop])]
  rw [State.flaw_nil, State.gMemory_pantry hlanes]
  simp only [State.gLoads_pantry hsound]
  rfl

/-- ST to the Pantry (R229). -/
theorem exec_st_pantry (h : GroupReady s c g w x p s') (hop : gOp w = 0x51)
    (hlanes : PantryLanes (s'.core c.val) x w (x.guard w p.mask)) : exec (.st c g w) s =
    .next ((overList s' (lanesOf (x.guard w p.mask)) (fun s l =>
      s.panStore c.val 3 ((s.core c.val).apOff (x.addr w l)) (x.storeBytes w l))).gNext c.val g.val w x x) := by
  change execSt c g w s = _
  rw [execSt, groupRun_ready h (by simp [hop]) (by simp [hop])]
  rw [State.gMemory_pantry hlanes]
  rfl

/-- AMO of one lane in a sound Pantry (R229, R231). -/
theorem exec_amo_pantry (h : GroupReady s c g w x p s') (hop : gOp w = 0x52) (hsound : (s'.core c.val).sound)
    (hlanes : PantryLanes (s'.core c.val) x w (x.guard w p.mask)) {l : Nat} (hl : lanesOf (x.guard w p.mask) = [l]) (hbytes : gMemBytes w = 4) :
    exec (.amo c g w [] []) s = .next (((s'.pantryAmo c.val x w l).acquired c.val (bitAt (gFN w) 5 && bitAt (gFN w) 7)).gNext c.val g.val w x
      (x.loadRegs ((s'.pantryAmo c.val x w l).core c.val).rcEntries w (x.guard w p.mask)
        (fun i j => BitVec.ofNat 32 (laneValue (pantryValues (s'.core c.val) x w [l]) i / 2 ^ (32 * j))))) := by
  change execAmo c g w [] [] s = _
  rw [execAmo, groupRun_ready h (by simp [hop]) (by simp [hop])]
  rw [State.flaw_nil, State.gMemory_pantry hlanes, hl, pantryValues, List.map_singleton, hbytes]
  simp only [List.foldl_cons, List.foldl_nil, spotOf, List.find?_nil, Option.map_none, State.panRead_sound hsound]
  rfl

/-- G.FENCE of a group with nothing outstanding (R233). -/
theorem exec_gFence_idle (h : GroupReady s c g w x p s') (hop : gOp w = 0x53) (hidle : s'.groupBusy c.val g = false) : exec (.gFence c g w) s =
    .next ((s'.acquired c.val (bitAt (gFN w) 2 && gFN w % 4 != 0)).gNext c.val g.val w x x) := by
  change execGFence c g w s = _
  rw [execGFence, groupRun_ready h (by simp [hop]) (by simp [hop])]
  simp only [hidle, Bool.and_false, Bool.false_eq_true, if_false]
  rfl

theorem CoreTo.pool {s t : State} {c : Nat} {k : Core} (h : CoreTo s t c k) : t.pool = s.pool := by
  obtain ⟨-, hrest, -⟩ := h
  have hpool := congrArg State.pool hrest
  exact hpool

/-- Stores of the lanes in their order leave the core with the bytes of each written in turn. -/
theorem CoreTo.panStores {s t : State} {c : Nat} {k : Core} (h : CoreTo s t c k) (hsound : k.sound) (ls : List Nat) :
    CoreTo s (overList t ls (fun s l => s.panStore c 3 ((s.core c).apOff (x.addr w l)) (x.storeBytes w l))) c
      (ls.foldl (fun (k : Core) l => k.panWrite (k.apOff (x.addr w l)) (x.storeBytes w l)) k) := by
  unfold overList
  induction ls generalizing t k with
  | nil => exact h
  | cons l ls ih =>
    have hstep := h.modCore (fun j => j.panWrite (k.apOff (x.addr w l)) (x.storeBytes w l))
    rw [List.foldl_cons, List.foldl_cons, State.panStore_sound (h.core ▸ hsound), h.core]
    exact ih hstep (Core.sound_panWrite hsound _ _)

end

/-- Settles O24: each instruction by its equation, and what its writes leave in the group and the Pantry. -/
theorem groupMemory : Obligations.GroupMemory := by
  intro s s' c g w x p hready
  dsimp only
  refine ⟨fun hpoison hflaws hlanes => ⟨fun hop hfn hvd hud => ?_, fun hop => ?_, fun l hop hfn hvd hud hl => ?_⟩, fun hop hidle => ?_⟩
  · have hbytes : gMemBytes w = 4 := by simp [gMemBytes, hop, show gFN w % 8 = 2 by omega]
    have hone : gMemRegs w = 1 := by simp [gMemRegs, hop, show gFN w % 8 = 2 by omega]
    have hunsigned : bitAt (gFN w) 3 = false := by simp [bitAt, show gFN w / 8 % 2 = 0 by omega]
    refine ⟨_, exec_ld_pantry hready hop ⟨hpoison, hflaws⟩ hlanes, ?_, ?_, ?_, fun l hl => ?_⟩
    · rw [State.gNext_group, Group.loadRegs_one _ _ _ hone hvd, Group.advance, Group.modPath, List.head?_modifyHead, Group.ring_setV, hready.ring_head]
      rfl
    · rw [State.gNext_pool, State.acquired_pool]
    · rw [State.gNext_core, State.acquired_core]
    · rw [State.gNext_group, Group.loadRegs_one _ _ _ hone hvd]
      refine (Group.vreg_setV _ _ _ _ hvd _ hl).trans (ite_congr rfl (fun hexec => ?_) (fun _ => rfl))
      rw [laneValue_pantryValues _ _ _ ((mem_lanesOf hl).mpr hexec), hbytes, gLoadWord, hunsigned]
      simp
  · have hstored := (CoreTo.refl s' c.val).panStores (x := x) (w := w) ⟨hpoison, hflaws⟩ (lanesOf (x.guard w p.mask))
    refine ⟨_, exec_st_pantry hready hop hlanes, State.gNext_group .., ?_, ?_⟩
    · rw [State.gNext_pool, hstored.pool]
    · rw [State.gNext_core, hstored.core]
  · have hbytes : gMemBytes w = 4 := by simp [gMemBytes, hop, bitAt, show gFN w / 16 % 2 = 0 by omega]
    have hone : gMemRegs w = 1 := by simp [gMemRegs, hop, bitAt, show gFN w / 16 % 2 = 0 by omega]
    have hmem : l ∈ lanesOf (x.guard w p.mask) := hl ▸ List.mem_singleton_self l
    have hlt : l < 32 := List.mem_range.mp (List.mem_of_mem_filter hmem)
    refine ⟨_, exec_amo_pantry hready hop ⟨hpoison, hflaws⟩ hlanes hl hbytes, ?_, ?_, ?_⟩
    · rw [State.gNext_group, Group.loadRegs_one _ _ _ hone hvd]
      refine (Group.vreg_setV _ _ _ _ hvd _ hlt).trans ((if_pos ((mem_lanesOf hlt).mp hmem)).trans ?_)
      rw [laneValue_pantryValues _ _ _ (List.mem_singleton_self l), hbytes]
      simp
    · rw [State.gNext_pool, State.acquired_pool]
      rfl
    · rw [State.gNext_core, State.acquired_core, State.pantryAmo, State.modCore, State.core_setCore]
  · refine ⟨_, exec_gFence_idle hready hop hidle, State.gNext_group .., ?_, ?_⟩
    · rw [State.gNext_core, State.acquired_core]
    · rw [State.gNext_pool, State.acquired_pool]

end Sys2Proof.Machine
end

section
/-! # The start of a kernel, and its timeout

What a core holds at kernel entry (R135). A timeout ends the parts of its cores one after another: nothing that the end of one does, with the writes
it lands, the faults and fences they lead to and the reports it sends, starts a part or takes back the end of another (R136 to R138). -/

namespace Sys2Proof.Machine

/-! ## Reports change no core but its reservation -/

/-- A core but for its reservation. -/
def unreserved (cores : Map Core) (c : Nat) : Core := { cores.get Core.reset c with resv := none }

section
variable (s : State)

@[simp] theorem State.unreserved_dropCopies (l : Nat) : unreserved (s.dropCopies l).cores = unreserved s.cores := by
  funext c
  unfold unreserved State.dropCopies
  dsimp only
  rw [Map.get_mapped Core.reset s.cores (fun k => if k.resv = some l then { k with resv := none } else k)]
  split
  · split <;> rfl
  · next h => rw [Map.get_unlisted _ _ (Bool.eq_false_iff.mpr h)]

@[simp] theorem State.unreserved_writeLine (l : Nat) (m : BitVec 128) (d : List Byte) (p : Bool) :
    unreserved (s.writeLine l m d p).cores = unreserved s.cores := by
  unfold State.writeLine
  dsimp only
  cases s.compPort with
  | none => split <;> simp [apply_ite State.cores]
  | some p => split <;> simp [apply_ite State.cores, apply_dite State.cores]

@[simp] theorem State.unreserved_writeLocal (a : Nat) (b : List Byte) : unreserved (s.writeLocal a b).cores = unreserved s.cores := by
  unfold State.writeLocal
  refine foldl_keeps (fun t : State => unreserved t.cores = unreserved s.cores) (fun t pc ht => ?_) rfl _
  split
  · exact ht
  · exact (State.unreserved_writeLine ..).trans ht

@[simp] theorem State.unreserved_cmdWrite (p : Nat) (q : Option Nat) (a : DWord) (d : List Byte) :
    unreserved (s.cmdWrite p q a d).cores = unreserved s.cores := by
  unfold State.cmdWrite
  split
  · rw [State.hostWrite_cores]
  · split <;> simp

@[simp] theorem State.unreserved_cqPush (p q : Nat) (e : List Byte) : unreserved (s.cqPush p q e).cores = unreserved s.cores := by
  unfold State.cqPush State.writeEntry
  split
  · split
    · rfl
    · dsimp only
      split
      · simp
      · split <;> simp
  · split <;> rfl

@[simp] theorem State.unreserved_slEvent (e d : Nat) : unreserved (s.slEvent e d).cores = unreserved s.cores := by
  unfold State.slEvent
  refine foldl_keeps (fun t : State => unreserved t.cores = unreserved s.cores) (fun t p ht => ?_) rfl _
  split
  · exact (State.unreserved_cqPush ..).trans ht
  · exact ht

@[simp] theorem State.unreserved_finishLaunch (n : Nat) (l : Launch) (es : List (Nat × Nat × List Nat)) :
    unreserved (s.finishLaunch n l es).cores = unreserved s.cores := by
  have hfinish (t : State) (code detail : Nat) (body : List Byte) : (t.finishCmd l.part l.sq l.cid code detail body).cores = t.cores := by
    obtain ⟨m, hm⟩ := t.finishCmd_frame l.part l.sq l.cid code detail body
    rw [hm]
  unfold State.finishLaunch
  dsimp only
  split <;> rw [hfinish] <;> split <;> simp

@[simp] theorem State.unreserved_reportNums (n c code : Nat) (info : List Nat) : unreserved (s.reportNums n c code info).cores = unreserved s.cores := by
  unfold State.reportNums
  dsimp only
  split
  · rfl
  · split
    · rfl
    · split
      · exact State.unreserved_finishLaunch ..
      · rfl

@[simp] theorem State.unreserved_failWaiting (c code : Nat) : unreserved (s.failWaiting c code).cores = unreserved s.cores :=
  foldl_keeps (fun t : State => unreserved t.cores = unreserved s.cores) (fun t _ ht => (t.unreserved_finishLaunch ..).trans ht) rfl _

end

section
variable (s : State) (d o hi lo n : Nat)

theorem State.inc_cores : (s.inc d o n).cores = s.cores := rfl
theorem State.inc64_cores : (s.inc64 d o n).cores = s.cores := rfl
theorem State.incFld_cores : (s.incFld d o hi lo).cores = s.cores := rfl
theorem State.satFld_cores : (s.satFld d o hi lo n).cores = s.cores := rfl

end

/-! ## Parts that no step starts -/

/-- Every core has no kernel, or the kernel it had, with the end of its part if that has come. -/
structure PartsKept (s t : State) : Prop where
  kept : ∀ d, (t.core d).kernel = none ∨ (t.core d).kernel = (s.core d).kernel ∧ ((s.core d).ending.isSome → (t.core d).ending.isSome)

section
variable {s t u : State} {c : Nat}

theorem PartsKept.refl (s : State) : PartsKept s s := ⟨fun _ => .inr ⟨rfl, id⟩⟩

theorem PartsKept.trans (h : PartsKept s t) (h' : PartsKept t u) : PartsKept s u := by
  refine ⟨fun d => ?_⟩
  rcases h'.kept d with hnone | ⟨hkernel, hending⟩
  · exact .inl hnone
  · rcases h.kept d with hnone | ⟨hkernel', hending'⟩
    · exact .inl (hkernel.trans hnone)
    · exact .inr ⟨hkernel.trans hkernel', hending ∘ hending'⟩

theorem PartsKept.of_unreserved (h : unreserved t.cores = unreserved s.cores) : PartsKept s t := by
  refine ⟨fun d => ?_⟩
  have hkernel := congrArg Core.kernel (congrFun h d)
  have hending : (t.core d).ending = (s.core d).ending := by
    have he := congrArg Core.ending (congrFun h d)
    exact he
  exact .inr ⟨hkernel, by rw [hending]; exact id⟩

theorem PartsKept.of_cores (h : t.cores = s.cores) : PartsKept s t := .of_unreserved (congrArg unreserved h)

/-- A core is put in place that has no kernel, or the core's with its end. -/
theorem PartsKept.setCore (s : State) (c : Nat) {k : Core}
    (hk : k.kernel = none ∨ k.kernel = (s.core c).kernel ∧ ((s.core c).ending.isSome → k.ending.isSome)) : PartsKept s (s.setCore c k) := by
  refine ⟨fun d => ?_⟩
  by_cases hd : d = c
  · rw [hd, State.core_setCore]
    exact hk
  · rw [State.core_setCore_ne _ _ _ _ hd]
    exact .inr ⟨rfl, id⟩

/-- A change of a core that leaves its kernel and its end. -/
theorem PartsKept.modCore (s : State) (c : Nat) {f : Core → Core} (hkernel : (f (s.core c)).kernel = (s.core c).kernel)
    (hending : (f (s.core c)).ending = (s.core c).ending) : PartsKept s (s.modCore c f) :=
  .setCore s c (.inr ⟨hkernel, by rw [hending]; exact id⟩)

theorem PartsKept.foldl {α : Type} {f : State → α → State} (h : ∀ u a, PartsKept u (f u a)) (s : State) (l : List α) : PartsKept s (l.foldl f s) :=
  foldl_keeps (PartsKept s) (fun u a hu => hu.trans (h u a)) (.refl s) l

/-- The end of a part of kernel `n` outlasts what keeps the parts. -/
theorem PartsKept.ended (h : PartsKept s t) {n : Nat} (hs : (s.core c).kernel = some n → (s.core c).ending.isSome) :
    (t.core c).kernel = some n → (t.core c).ending.isSome := by
  intro hn
  rcases h.kept c with hnone | ⟨hkernel, hending⟩
  · exact absurd (hnone.symm.trans hn) nofun
  · exact hending (hs (hkernel.symm.trans hn))

end

/-! ## The end of a part -/

section
variable (s : State) (c : Nat)

theorem State.parts_dropSample : PartsKept s (s.dropSample c) := by
  unfold State.dropSample
  dsimp only
  split
  · have hsample : PartsKept s (s.setCore c { s.core c with watch := { (s.core c).watch with sample := none } }) := .setCore s c (.inr ⟨rfl, id⟩)
    exact hsample.trans (.of_cores rfl)
  · exact .refl s

theorem State.parts_settleEnd : PartsKept s (s.settleEnd c) := by
  unfold State.settleEnd
  dsimp only
  split
  · split
    · exact .refl s
    · exact ((PartsKept.setCore s c (.inl rfl)).trans (State.parts_dropSample _ c)).trans (.of_unreserved (State.unreserved_reportNums ..))
  · exact .refl s

theorem State.parts_abandonCore (code : Nat) (info : ErrInfo) : PartsKept s (s.abandonCore c code info) := by
  unfold State.abandonCore
  dsimp only
  split
  · exact .refl s
  · exact ((PartsKept.setCore s c (.inl rfl)).trans (State.parts_dropSample _ c)).trans (.of_unreserved (State.unreserved_reportNums ..))

theorem State.parts_nextTest (d : Nat) : PartsKept s (s.nextTest d) := by
  unfold State.nextTest
  split
  · exact .refl s
  · split
    · exact .modCore s _ rfl rfl
    · exact .of_unreserved ((State.unreserved_slEvent ..).trans rfl)

theorem State.parts_noteFenced (u : UnitKey) : PartsKept s (s.noteFenced u) := by
  have hlevel : (if s.flp.isSome ∧ s.level < 4 ∧ u.1 ≠ .bundle then s.setFld 94 0x20100 31 31 1 else s).cores = s.cores := by
    split
    · exact State.setFld_cores ..
    · rfl
  have hadd (t : State) : (if t.fencedU.contains u then t else { t with fencedU := t.fencedU ++ [u] }).cores = t.cores := by split <;> rfl
  exact .of_cores ((hadd _).trans hlevel)

theorem State.parts_fenceCore : PartsKept s (s.fenceCore c) := by
  have hfenced : PartsKept s (s.setCore c { s.core c with fenced := true, testing := false }) := .setCore s c (.inr ⟨rfl, id⟩)
  have hidle (t : State) : PartsKept t (((((t.setCore c (t.core c).idle).dropSample c).failWaiting c 0x105).noteFenced (.core, c))) :=
    (((PartsKept.setCore t c (.inl rfl)).trans (State.parts_dropSample _ c)).trans (.of_unreserved (State.unreserved_failWaiting ..))).trans
      (State.parts_noteFenced ..)
  have hstopped := (hfenced.trans (State.parts_abandonCore _ c 0x105 .none)).trans (hidle _)
  unfold State.fenceCore
  dsimp only
  split
  · exact hstopped.trans (State.parts_nextTest ..)
  · exact hstopped

theorem State.parts_stair (kind src dst : Nat) (body : List Nat) : PartsKept s (s.stair kind src dst body) := by
  obtain ⟨q, h, e⟩ := s.stair_frame kind src dst body
  exact .of_cores (by rw [e]; rfl)

/-- A fault of a core's subunit fences at most the core (R138, R475). -/
theorem State.parts_leafDetect (sub : Nat) (src : Byte) (addr access : Nat) : PartsKept s (s.leafDetect (coreFault c sub src addr access)) := by
  have hrecord (v : Verdict) (hv : v.safe = false) : PartsKept s (s.leafRecord (coreFault c sub src addr access) v) := by
    obtain ⟨k, h | ⟨hsafe, -⟩⟩ := s.leafRecord_frame (coreFault c sub src addr access) v
    · exact .of_cores (by rw [h, State.setLeaf_cores])
    · exact absurd (hv.symm.trans hsafe) nofun
  have hfence (t : State) (b : Bool) : PartsKept t (if b then t.fenceUnit (coreFault c sub src addr access) else t) := by
    cases b
    · exact .refl t
    · exact t.parts_fenceCore c
  have hsafe (t : State) (b : Bool) (d : Nat) (body : List Nat) : PartsKept t (if b then t.stair 1 d 0xFF body else t) := by
    cases b
    · exact .refl t
    · exact t.parts_stair ..
  unfold State.leafDetect
  split
  · exact ((hrecord { s.verdict (coreFault c sub src addr access) with safe := false } rfl).trans (hfence _ _)).trans (hsafe ..)
  · exact .refl s

theorem State.parts_panGranule (reader g : Nat) : PartsKept s (s.panGranule c reader g).1 := by
  unfold State.panGranule
  dsimp only
  split
  · exact .of_cores (State.satFld_cores ..)
  · split
    · exact .refl s
    · next e _ =>
      have hread : PartsKept s (s.modCore c (fun k => { k with flaws := k.flaws.filter (fun x => x.granule.val != g) })) := .modCore s c rfl rfl
      split
      · have hpoison (t : State) : PartsKept t (t.modCore c (fun k => { k with poisoned := g :: k.poisoned })) := .modCore t c rfl rfl
        have hfirst (t : State) (d o : Nat) (v : Word) : PartsKept t (if t.fld d o 31 31 = 1 then t else t.wr d o v) := by
          split
          · exact .refl t
          · exact .of_cores (State.wr_cores ..)
        refine PartsKept.trans ?_ (State.parts_leafDetect ..)
        refine PartsKept.trans ?_ (hfirst ..)
        refine PartsKept.trans ?_ (.of_cores (State.satFld_cores ..))
        exact hread.trans (hpoison _)
      · exact hread.trans (.of_cores ((State.noteFault_cores ..).trans (State.inc_cores ..)))

theorem State.parts_panRead (reader : Nat) (gs : List Nat) : PartsKept s (s.panRead c reader gs).1 :=
  foldl_keeps (fun a : State × List Nat => PartsKept s a.1) (fun _ _ h => h.trans (State.parts_panGranule ..)) (.refl s) gs

theorem State.parts_noteNan (unit quarter slot : Nat) (tag : Byte) (pc : DWord) (r : List Nat) : PartsKept s (s.noteNan c unit quarter slot tag pc r) := by
  refine .of_cores ?_
  unfold State.noteNan
  dsimp only
  split
  · exact State.satFld_cores ..
  · rw [State.wr64_cores, State.wr64_cores, State.wr64_cores, State.wr64_cores, State.wr_cores, State.wr_cores, State.wr_cores, State.satFld_cores]

theorem Core.track_part (k : Core) (tag : Byte) (t : Nat × List Nat) : (k.track tag t).kernel = k.kernel ∧ (k.track tag t).ending = k.ending := by
  unfold Core.track
  dsimp only
  split
  · exact ⟨rfl, rfl⟩
  · split <;> exact ⟨rfl, rfl⟩

theorem Core.applyVector_part (k : Core) (r : Running) : (k.applyVector r).kernel = k.kernel ∧ (k.applyVector r).ending = k.ending := by
  unfold Core.applyVector
  dsimp only
  split
  · exact Core.track_part _ _ _
  · exact ⟨rfl, rfl⟩

theorem State.parts_landed (unit : Nat) (r : Running) : PartsKept s (s.landed c unit r) := by
  have hvector : PartsKept s (s.modCore c (fun k => k.applyVector r)) :=
    .modCore s c (Core.applyVector_part _ r).1 (Core.applyVector_part _ r).2
  have hrunning (t : State) : PartsKept t (t.modCore c (fun k => k.applyRunning r)) := .modCore t c rfl rfl
  have happlied : PartsKept s ((if unit = 2 then (s.modCore c (fun k => k.applyVector r)).inc64 (coreDie c) (coreOff c 0x508) r.slices
      else s).modCore c (fun k => k.applyRunning r)) := by
    split
    · exact (hvector.trans (.of_cores (State.inc64_cores ..))).trans (hrunning _)
    · exact hrunning s
  unfold State.landed
  dsimp only
  split
  · exact happlied
  · exact happlied.trans (State.parts_noteNan ..)

theorem State.parts_land (unit : Nat) (r : Running) : PartsKept s (s.land c unit r).1 := by
  have hread := s.parts_panRead c 2 r.trackGranules
  have hland (t : State) (q : Running) (ht : PartsKept s t) : PartsKept s ((t.panRead c 2 q.partGranules).1.landed c unit q) :=
    (ht.trans (State.parts_panRead ..)).trans (State.parts_landed ..)
  unfold State.land
  dsimp only
  split
  · exact hland _ _ hread
  · exact hland _ _ (hread.trans (.of_cores rfl))

theorem State.parts_selfTest (m1 m2 : Bool) : PartsKept s (s.selfTest c m1 m2) := by
  unfold State.selfTest
  dsimp only
  split
  · exact .of_cores (State.incFld_cores ..)
  · have htwice (d o hi lo d' o' hi' lo' : Nat) : PartsKept s ((s.incFld d o hi lo).incFld d' o' hi' lo') :=
      .of_cores ((State.incFld_cores ..).trans (State.incFld_cores ..))
    split
    · exact (htwice ..).trans (.of_cores ((State.noteFault_cores ..).trans (State.satFld_cores ..)))
    · exact ((htwice ..).trans (.of_cores (State.satFld_cores ..))).trans (State.parts_leafDetect ..)

theorem State.parts_runDue : PartsKept s (s.runDue c) := by
  unfold State.runDue
  dsimp only
  split
  · split
    · exact .refl s
    · split
      · exact .setCore s c (.inr ⟨rfl, id⟩)
      · have hdue : PartsKept s (s.setCore c { s.core c with testDue := none, stPattern := !(s.core c).stPattern }) := .setCore s c (.inr ⟨rfl, id⟩)
        exact hdue.trans (State.parts_selfTest ..)
  · exact .refl s

end

theorem Core.aborted_kernel (k : Core) (i : TileIns) (owed : Nat) : (k.aborted i owed).kernel = k.kernel := by
  unfold Core.aborted Core.noteError Core.tokens
  dsimp only
  split <;> split <;> rfl

theorem Core.abortSlot_kernel (cursor : Nat → List Nat) (k : Core) (n : Nat) : (k.abortSlot cursor n).kernel = k.kernel := by
  unfold Core.abortSlot
  dsimp only
  split
  · rfl
  · split
    · exact Core.aborted_kernel ..
    · rfl

/-- The running instructions of a core land, in program order (R137). -/
def State.landAll (s : State) (c : Nat) (ran : List (Nat × Running)) : State := ran.foldl (fun s x => (s.land c x.1 x.2).1) s

/-- A core with those instructions and the ones of its slots aborted (R127, R137). -/
def State.abortAll (s : State) (c : Nat) (ran : List (Nat × Running)) : Core :=
  (List.range 16).foldl (Core.abortSlot (s.cursorNow c)) (ran.foldl (fun k x => k.aborted x.2.ins 1) (s.core c))

theorem State.parts_landAll (s : State) (c : Nat) (ran : List (Nat × Running)) : PartsKept s (s.landAll c ran) :=
  PartsKept.foldl (f := fun s (x : Nat × Running) => (s.land c x.1 x.2).1) (fun u x => u.parts_land c x.1 x.2) s ran

theorem State.abortAll_kernel (s : State) (c : Nat) (ran : List (Nat × Running)) : (s.abortAll c ran).kernel = (s.core c).kernel := by
  have haborted : (ran.foldl (fun k x => k.aborted x.2.ins 1) (s.core c)).kernel = (s.core c).kernel :=
    foldl_keeps (fun k : Core => k.kernel = (s.core c).kernel) (fun _ _ hk => (Core.aborted_kernel ..).trans hk) rfl ran
  exact foldl_keeps (fun k : Core => k.kernel = (s.core c).kernel) (fun _ _ hk => (Core.abortSlot_kernel ..).trans hk) haborted (List.range 16)

theorem Core.kernel_stopped (k : Core) (e : Nat × List Nat) : ({ k.stopped with ending := some e } : Core).kernel = k.kernel := rfl

theorem Core.ending_stopped (k : Core) (e : Nat × List Nat) : ({ k.stopped with ending := some e } : Core).ending.isSome := rfl

/-- The core in the state that its part ends in, its end kept (R137). -/
def State.endsWith (s : State) (c : Nat) (ran : List (Nat × Running)) (code : Nat) (info : ErrInfo) : State :=
  s.setCore c { (s.abortAll c ran).stopped with ending := some (code, info.nums) }

theorem State.endPart_runs {s : State} {c : Nat} (h : ((s.core c).kernel.isSome && (s.core c).ending.isNone) = true) (code : Nat) (info : ErrInfo) :
    s.endPart c code info =
      (((((s.landAll c (s.core c).runningInOrder).endsWith c (s.core c).runningInOrder code info).dropSample c).settleEnd c).runDue c) := if_pos h

theorem State.endPart_over {s : State} {c : Nat} (h : ¬ ((s.core c).kernel.isSome && (s.core c).ending.isNone) = true) (code : Nat) (info : ErrInfo) :
    s.endPart c code info = s.runDue c := if_neg h

theorem State.parts_endsWith (s : State) (c : Nat) (ran : List (Nat × Running)) (code : Nat) (info : ErrInfo) :
    PartsKept s (s.endsWith c ran code info) :=
  .setCore s c (.inr ⟨(Core.kernel_stopped _ _).trans (s.abortAll_kernel c ran), fun _ => Core.ending_stopped _ _⟩)

theorem State.parts_endTail (s : State) (c : Nat) : PartsKept s (((s.dropSample c).settleEnd c).runDue c) :=
  ((State.parts_dropSample ..).trans (State.parts_settleEnd ..)).trans (State.parts_runDue ..)

theorem State.parts_endPart (s : State) (c code : Nat) (info : ErrInfo) : PartsKept s (s.endPart c code info) := by
  by_cases hruns : ((s.core c).kernel.isSome && (s.core c).ending.isNone) = true
  · rw [State.endPart_runs hruns]
    exact ((State.parts_landAll ..).trans (State.parts_endsWith ..)).trans (State.parts_endTail ..)
  · rw [State.endPart_over hruns]
    exact State.parts_runDue ..

/-- After the end of its part, a core that still has a kernel has the part's end (R137). -/
theorem State.endPart_ended (s : State) (c code : Nat) (info : ErrInfo) {n : Nat} :
    ((s.endPart c code info).core c).kernel = some n → ((s.endPart c code info).core c).ending.isSome := by
  by_cases hruns : ((s.core c).kernel.isSome && (s.core c).ending.isNone) = true
  · rw [State.endPart_runs hruns]
    refine (State.parts_endTail _ c).ended fun _ => ?_
    rw [State.endsWith, State.core_setCore]
    exact Core.ending_stopped ..
  · rw [State.endPart_over hruns]
    exact (State.parts_runDue s c).ended fun hn => Option.isSome_iff_ne_none.mpr (by simpa [hn] using hruns)

/-! ## The timeout of a kernel (R137) -/

/-- The end of the part of each listed core that runs kernel `n`. -/
def State.timeOut (s : State) (n c : Nat) : State := if (s.core c).kernel = some n then s.endPart c 0x10B ErrInfo.none else s

theorem State.parts_timeOut (s : State) (n c : Nat) : PartsKept s (s.timeOut n c) := by
  unfold State.timeOut
  split
  · exact State.parts_endPart ..
  · exact .refl s

theorem State.timeOut_ended (s : State) (n c : Nat) : ((s.timeOut n c).core c).kernel = some n → ((s.timeOut n c).core c).ending.isSome := by
  unfold State.timeOut
  split
  · exact State.endPart_ended _ _ _ _
  · next hnot => exact fun hn => absurd hn hnot

theorem State.timeOuts_ended (s : State) (n : Nat) {c : Nat} {cs : List Nat} (hc : c ∈ cs) :
    ((overList s cs (fun s c => s.timeOut n c)).core c).kernel = some n → ((overList s cs (fun s c => s.timeOut n c)).core c).ending.isSome := by
  unfold overList
  induction cs generalizing s with
  | nil => exact absurd hc List.not_mem_nil
  | cons d cs ih =>
    rcases List.mem_cons.mp hc with rfl | hc
    · exact (PartsKept.foldl (fun u d => u.parts_timeOut n d) _ cs).ended (s.timeOut_ended n c)
    · exact ih _ hc

/-- KERNEL_TIMEOUT of a started launch with a limit (R132, R137). -/
theorem exec_kernelTimeout_started {s : State} {n : Nat} {l : Launch} (hrun : s.phase = .running) (hlaunch : s.launch n = some l)
    (hstarted : l.started = true) (hlimit : l.timeout ≠ 0) : exec (.kernelTimeout n) s = .next (overList s l.cores (fun s c => s.timeOut n c)) := by
  change execKernelTimeout n s = _
  rw [execKernelTimeout, gate_running hrun]
  simp only [hlaunch, hstarted, hlimit, ne_eq, not_false_eq_true, and_self, if_true]
  rfl

/-! ## The start of a kernel (R133 to R135) -/

/-- What a core holds at kernel entry (R135): the state running at the entry point, its registers, and nothing of what it did before. -/
structure Entered (s : State) (l : Launch) (n c pos : Nat) (k : Core) : Prop where
  phase : k.phase = 1
  pc : k.pc = l.entry
  kernel : k.kernel = some n
  sp : k.reg 2 = l.pantryVa + 0x600000
  args : k.reg 10 = l.args
  pos : k.reg 11 = BitVec.ofNat 64 pos
  count : k.reg 12 = BitVec.ofNat 64 l.cores.length
  ident : k.reg 13 = BitVec.ofNat 64 c
  done : k.tkDone = ⟨[]⟩
  expect : k.tkExpect = ⟨[]⟩
  inflight : k.inflight = []
  cleared : l.clear = true → k.pantry = ⟨[]⟩ ∧ k.tiles = ⟨[]⟩
  kept : l.clear = false → k.pantry = (s.core c).pantry

/-- The five registers that a kernel's entry sets (R135). -/
def entryRegs (sp args pos count ident : DWord) : Map DWord :=
  [(2, sp), (10, args), (11, pos), (12, count), (13, ident)].foldl (fun m y => m.set 0 y.1 y.2) ⟨[]⟩

theorem entryRegs_get (sp args pos count ident : DWord) :
    (entryRegs sp args pos count ident).get 0 2 = sp ∧ (entryRegs sp args pos count ident).get 0 10 = args ∧
      (entryRegs sp args pos count ident).get 0 11 = pos ∧ (entryRegs sp args pos count ident).get 0 12 = count ∧
      (entryRegs sp args pos count ident).get 0 13 = ident := by
  simp [entryRegs, Map.get_set]

theorem State.enterCore_spec (s : State) (l : Launch) (n c pos : Nat) :
    ∃ r k, s.enterCore l n c pos = { s.setCore c k with csr := r } ∧ Entered s l n c pos k := by
  have hcsr (t : State) : ∃ r, overList t ([0x640, 0x648, 0x64C] ++ (List.range 12).map (fun i => 0x700 + 4 * i))
      (fun s o => s.wr (coreDie c) (coreOff c o) 0) = { t with csr := r } := overList_csr (fun _ _ => ⟨_, rfl⟩) t _
  unfold State.enterCore
  dsimp only
  obtain ⟨r, hr⟩ := hcsr _
  obtain ⟨hsp, hargs, hpos, hcount, hident⟩ := entryRegs_get (l.pantryVa + 0x600000) l.args (BitVec.ofNat 64 pos) (BitVec.ofNat 64 l.cores.length)
    (BitVec.ofNat 64 c)
  refine ⟨r, _, hr, ?_⟩
  constructor
  case cleared =>
    intro h
    simp [h]
  case kept =>
    intro h
    simp [h]
  case sp => exact (if_neg (by decide)).trans hsp
  case args => exact (if_neg (by decide)).trans hargs
  case pos => exact (if_neg (by decide)).trans hpos
  case count => exact (if_neg (by decide)).trans hcount
  case ident => exact (if_neg (by decide)).trans hident
  all_goals rfl

theorem State.core_of_csr (s : State) (r : Map Word) (c : Nat) : ({ s with csr := r } : State).core c = s.core c := rfl

/-- The launch marked as started. -/
def State.launchStarted (s : State) (n : Nat) (l : Launch) : State := { s with launches := s.launches.set Launch.none n { l with started := true } }

/-- KERNEL_START of a launch of one core that nothing stops (R133 to R135). -/
theorem exec_kernelStart_one {s : State} {n c : Nat} {l : Launch} (hrun : s.phase = .running) (hlaunch : s.launch n = some l)
    (hwaits : l.started = false) (hpart : s.partState l.part ≠ 4) (hcores : l.cores = [c]) (hblock : s.launchBlock l.part c = none)
    (hidle : (s.core c).isIdle = true) (hahead : ∀ e ∈ s.launches.cells, e.1 < n → e.2.started = true ∨ c ∉ e.2.cores) :
    exec (.kernelStart n) s = .next (((s.launchStarted n l).enterCore l n c 0).partRuns l.part) := by
  have hblocks : s.launchBlocks l.part l.cores = [] := by simp [State.launchBlocks, hcores, hblock]
  have hnone : (s.launches.cells.any (fun x => decide (x.1 < n) && !x.2.started && x.2.cores.any (fun d => l.cores.contains d))) = false := by
    refine List.any_eq_false.mpr fun e he => ?_
    rw [hcores]
    by_cases hn : e.1 < n
    · rcases hahead e he hn with hstarted | hbeside
      · simp [hstarted]
      · simp [hbeside]
    · simp [hn]
  have hall : l.cores.all (fun d => (s.core d).isIdle) = true := by simp [hcores, hidle]
  have hone (t : State) : overList t l.cores.zipIdx (fun s x => s.enterCore l n x.1 x.2) = t.enterCore l n c 0 := by
    simp only [hcores, overList, List.zipIdx_cons, List.zipIdx_nil, List.foldl_cons, List.foldl_nil]
  change execKernelStart n s = _
  rw [execKernelStart, gate_running hrun]
  simp only [hlaunch, hwaits, hpart, hblocks, hnone, hall, hone, Bool.false_eq_true, or_self, if_false, Bool.not_false, Bool.and_self, if_true]
  rfl

/-- Settles O26: the start by its equation and what a core holds at entry, the timeout by what each part's end leaves of the others. -/
theorem kernelStartAndTimeout : Obligations.KernelStartAndTimeout := by
  intro s n l hrun hlaunch
  refine ⟨fun c hwaits hpart hcores hlisted hblock hidle hahead => ?_, fun hstarted hlimit => ?_⟩
  · obtain ⟨r, k, hcore, hentered⟩ := (s.launchStarted n l).enterCore_spec l n c 0
    obtain ⟨r', hruns⟩ := State.partRuns_frame ((s.launchStarted n l).enterCore l n c 0) l.part
    rw [hcore] at hruns
    have hexec := exec_kernelStart_one hrun hlaunch hwaits hpart hcores hblock hidle hahead
    rw [hcore, hruns] at hexec
    refine ⟨_, hexec, State.launch_set s n (by simp [hcores]), ?_⟩
    rw [State.core_of_csr, State.core_of_csr, State.core_setCore]
    exact ⟨hentered.phase, hentered.pc, hentered.kernel, hentered.sp, hentered.args, hentered.pos, hentered.count.trans (by simp [hcores]), hentered.ident,
      hentered.done, hentered.expect, hentered.inflight, hentered.cleared, hentered.kept, rfl⟩
  · refine ⟨_, exec_kernelTimeout_started hrun hlaunch hstarted hlimit, fun c hc hn => ?_⟩
    have hended := State.timeOuts_ended s n hc hn
    exact ⟨hended, by simpa [Core.runs] using fun _ => hended⟩

end Sys2Proof.Machine
end

section
/-! # The matrix array

How an instruction at the head of the array's queue starts (R120, R128), what each forms when it does (R140 to R174), the hardware's self-test (R172,
R276), and what the array's oldest instruction leaves when it completes (R148). -/

namespace Sys2Proof.Machine

/-! ## Fields, cores and memory -/

theorem fieldOf_of_getLsbD {w : DWord} {i : Nat} (h : w.getLsbD i = false) : fieldOf w i i = 0 := by
  simpa [fieldOf, bits, BitVec.getLsbD, Nat.testBit_eq_decide_div_mod_eq] using h

@[simp] theorem State.incFld_core (s : State) (d o hi lo c : Nat) : (s.incFld d o hi lo).core c = s.core c :=
  congrArg (fun m => m.get Core.reset c) (State.incFld_cores ..)

theorem OnlyCore.pool {s t : State} {c : Nat} (h : OnlyCore s t c) : t.pool = s.pool := by
  rw [← h.1]

/-! ## Starting at the head of the array's queue -/

/-- Taking an instruction's credit changes the core's grants alone (R128). -/
theorem Core.acquire_grants {k k' : Core} {i : TileIns} (h : k.acquire i = some k') : ∃ grants, k' = { k with grants := grants } := by
  unfold Core.acquire at h
  dsimp only at h
  split at h
  · split at h
    · cases h
    · exact ⟨_, (Option.some.inj h).symm⟩
  · exact ⟨k.grants, (Option.some.inj h).symm⟩

theorem State.runDue_none {s : State} {c : Nat} (h : (s.core c).testDue = none) : s.runDue c = s := by
  simp [State.runDue, h]

theorem Core.runs_of_mayStart {k : Core} (h : k.mayStart = true) : k.runs = true := by
  simp only [Core.mayStart, Bool.and_eq_true] at h
  obtain ⟨⟨⟨-, hruns⟩, -⟩, -⟩ := h
  exact hruns

/-- The state in which the head of the array's queue forms its values: its credit taken, and out of its queue. -/
def State.dequeued (s : State) (c : Nat) (grants : Map Nat) (rest : List TileIns) : State :=
  s.setCore c { s.core c with grants := grants, arrq := rest }

@[simp] theorem State.dequeued_core (s : State) (c : Nat) (grants : Map Nat) (rest : List TileIns) :
    (s.dequeued c grants rest).core c = { s.core c with grants := grants, arrq := rest } := State.core_setCore ..

@[simp] theorem State.dequeued_pool (s : State) (c : Nat) (grants : Map Nat) (rest : List TileIns) : (s.dequeued c grants rest).pool = s.pool := rfl

/-- The array has started instruction `i` as `r` (R120): it has left the queue, is the last of those that run, and memory is as it was. -/
def ArrayStarted (s t : State) (c : Nat) (i : TileIns) (rest : List TileIns) (r : Running) : Prop :=
  (t.core c).arrq = rest ∧ (t.core c).arr = (s.core c).arr ++ [r] ∧ r.ins = i ∧ t.pool = s.pool

/-- What forming an array instruction's values leaves: of its core, all but the stationary buffers and the watch, and memory. -/
def FormedFrom (u v : State) (c : Nat) : Prop :=
  (∃ subs watch, v.core c = { u.core c with subs := subs, watch := watch }) ∧ v.pool = u.pool

section
variable {s : State} {c : CoreId} {i : TileIns} {rest : List TileIns} {func : Nat}

/-- An instruction that heads the array's queue starts with what it forms; the buffers and the registers are as that leaves them (R120, R128). -/
theorem arrStart_head (h : ArrayHead s c.val func i rest) (f : State → TileIns → State × Running) : ∃ grants, ∀ v r,
    f (s.dequeued c.val grants rest) i = (v, r) → FormedFrom (s.dequeued c.val grants rest) v c.val → r.ins = i →
    ∃ t, arrStart c func s f = .next t ∧ ArrayStarted s t c.val i rest r ∧ (t.core c.val).subs = (v.core c.val).subs ∧ t.csr = v.csr := by
  obtain ⟨hrun, hqueue, hfunc, hstart, hready, hacquire, hdue⟩ := h
  obtain ⟨k, hk⟩ := Option.isSome_iff_exists.mp hacquire
  obtain ⟨grants, rfl⟩ := Core.acquire_grants hk
  refine ⟨grants, fun v r hf ⟨⟨subs, watch, hcore⟩, hpool⟩ hins => ⟨v.modCore c.val (fun k => { k with arr := k.arr ++ [r] }), ?_, ?_, ?_, rfl⟩⟩
  · have hruns : (v.core c.val).runs = true := by
      rw [hcore, State.dequeued_core]
      exact Core.runs_of_mayStart hstart
    rw [arrStart, gate_running hrun]
    rw [State.dequeued] at hf
    simp only [State.runDue_none hdue, hqueue, hfunc, hstart, hready, hk, hf, hruns, and_self, if_true]
  · simp [ArrayStarted, State.modCore, hcore, hins, hpool]
  · simp [State.modCore]

end

/-! ## What forming leaves of a core -/

section
variable {u v w : State} {c : Nat}

theorem FormedFrom.refl (u : State) (c : Nat) : FormedFrom u u c := ⟨⟨(u.core c).subs, (u.core c).watch, rfl⟩, rfl⟩

theorem FormedFrom.trans (h : FormedFrom u v c) (h' : FormedFrom v w c) : FormedFrom u w c := by
  obtain ⟨⟨subs, watch, hv⟩, hpool⟩ := h
  obtain ⟨⟨subs', watch', hw⟩, hpool'⟩ := h'
  exact ⟨⟨subs', watch', by rw [hw, hv]⟩, hpool'.trans hpool⟩

/-- What changes neither a core nor memory. -/
theorem FormedFrom.of_same (c : Nat) (hcores : v.cores = u.cores) (hpool : v.pool = u.pool) : FormedFrom u v c :=
  ⟨⟨(u.core c).subs, (u.core c).watch, congrArg (fun m => m.get Core.reset c) hcores⟩, hpool⟩

theorem FormedFrom.setSubs (u : State) (c : Nat) (subs : Map SubArray) : FormedFrom u (u.setCore c { u.core c with subs := subs }) c :=
  ⟨⟨subs, (u.core c).watch, by rw [State.core_setCore]⟩, rfl⟩

theorem FormedFrom.counted (u : State) (c d o n : Nat) : FormedFrom u (u.inc64 d o n) c :=
  .of_same c (State.inc64_cores ..) (State.inc64_pool ..)

theorem FormedFrom.countedField (u : State) (c d o hi lo : Nat) : FormedFrom u (u.incFld d o hi lo) c :=
  .of_same c (State.incFld_cores ..) (State.setFld_pool ..)

theorem FormedFrom.watchStart (u : State) (c side : Nat) (bad : Bool) : FormedFrom u (u.watchStart c side bad).1 c := by
  unfold State.watchStart
  dsimp only
  exact ⟨⟨(u.core c).subs, _, by rw [State.inc64_core, State.core_setCore]⟩, by rw [State.inc64_pool, State.setCore_pool]⟩

end

/-! ## t.mma -/

/-- The fields of a t.mma are legal, and the block of its moving operand, where the stationary one is not sparse, lies in the Pantry (R155, R156). -/
structure MmaLegal (i : TileIns) (quart : Bool) : Prop where
  fmt : i.ops 18 16 ≠ 7
  piece : i.ops 22 21 = 0 ∨ i.ops 18 16 = 0
  quarter : quart = true ∨ (i.ops 24 23 = 0 ∧ i.ops 20 19 = 0)
  block : blockOk (i.at_ (i.ops 15 0) 128) ((if quart then 64 else 128) * (mmaR (i.ops 18 16) * (if quart then 64 else 128) * fmtBits (i.ops 18 16) / 8)) = true

/-- A t.mma's array remembers the run that a following one may chain on (R149). -/
def State.chainOn (s : State) (c : Nat) (i : TileIns) : State :=
  s.modCore c (fun k => k.setSub (i.ops 24 23) { k.sub (i.ops 24 23) with chain := some (i.ops 31 28, i.ops 20 19) })

theorem FormedFrom.chainOn (u : State) (c : Nat) (i : TileIns) : FormedFrom u (u.chainOn c i) c := FormedFrom.setSubs u c _

section
variable {u : State} {c : Nat} {i : TileIns} {quart : Bool}

/-- The model's checks of a t.mma's fields and block pass. -/
theorem MmaLegal.operand (h : MmaLegal i quart) : ¬ (i.ops 18 16 = 7 ∨ (i.ops 22 21 ≠ 0 ∧ i.ops 18 16 ≠ 0) ∨
    (!quart ∧ (i.ops 24 23 ≠ 0 ∨ i.ops 20 19 ≠ 0)) ∨
    !blockOk (i.at_ (i.ops 15 0) 128) ((if quart then 64 else 128) * (mmaR (i.ops 18 16) * (if quart then 64 else 128) * fmtBits (i.ops 18 16) / 8))) := by
  obtain ⟨hfmt, hpiece, hquart, hblock⟩ := h
  rintro (h | ⟨hp, hf⟩ | ⟨hq, hs⟩ | hb)
  · exact hfmt h
  · exact hpiece.elim hp hf
  · rcases hquart with hquart | ⟨hsub, hquadrant⟩
    · simp [hquart] at hq
    · exact hs.elim (absurd hsub) (absurd hquadrant)
  · rw [hblock] at hb
    exact absurd hb (by decide)

/-- Zeros in every element of a t.mma's destination or quadrant (R153, R168). -/
def zeroWords (i : TileIns) (quart : Bool) : List (Nat × Word) :=
  let side := if quart then 64 else 128
  (List.range (side * side)).map (fun j => (mmaKey quart i (j / side) (j % side), 0))

theorem zeroWords_zero (i : TileIns) (quart : Bool) : ∀ x ∈ zeroWords i quart, x.2 = 0 := by
  simp [zeroWords]

theorem zeroWords_length (i : TileIns) (quart : Bool) : (zeroWords i quart).length = if quart then 4096 else 16384 := by
  cases quart <;> simp [zeroWords]

/-- A t.mma of an absent operand that does not accumulate forms zeros (R168). -/
theorem State.mma_absent (hlegal : MmaLegal i (u.quartered c)) (hacc : i.ops 27 27 = 0) {f : Nat}
    (hactive : ((u.core c).sub (i.ops 24 23)).active = .absent f) (hgroup : fmtGroup f = fmtGroup (i.ops 18 16)) :
    u.mma c i [] [] [] =
      (((u.inc64 (coreDie c) (coreOff c 0x408)).incFld (coreDie c) (coreOff c 0x418) 31 16).chainOn c i,
        { (u.core c).run i 0 with words := zeroWords i (u.quartered c) }) := by
  unfold State.mma
  extract_lets s k die quart side sub acc fmt piece qd chained active _ kd kl rowBytes at_ bad
  have hbuf : active = .absent f := hactive
  have hkl : kl = kd := by simp only [kl, hbuf]
  have hbad : ¬ bad := by
    simp only [bad, rowBytes, hkl]
    exact hlegal.operand
  have hnoacc : ¬ acc := by simp [acc, hacc]
  have hmeets : ¬ fmtGroup f ≠ fmtGroup fmt := not_not_intro hgroup
  rw [if_neg hbad]
  simp only [hbuf, if_neg hnoacc, if_neg hmeets]
  rfl

/-- A t.mma of an empty buffer ends in "array sequence" and writes nothing (R156). -/
theorem State.mma_empty (hlegal : MmaLegal i (u.quartered c))
    (hactive : ((u.core c).sub (i.ops 24 23)).active = .empty) :
    ∃ v, u.mma c i [] [] [] = (v.chainOn c i, { (u.core c).run i 0x10D with words := [] }) ∧ FormedFrom u v c := by
  unfold State.mma
  extract_lets s k die quart side sub acc fmt piece qd chained active counted kd kl rowBytes at_ bad remember fail
  have hbuf : active = .empty := hactive
  have hkl : kl = kd := by simp only [kl, hbuf]
  have hbad : ¬ bad := by
    simp only [bad, rowBytes, hkl]
    exact hlegal.operand
  rw [if_neg hbad]
  simp only [hbuf]
  refine ⟨_, rfl, FormedFrom.trans (v := counted) (.counted ..) ?_⟩
  split
  · exact FormedFrom.refl _ _
  · exact FormedFrom.watchStart ..

end

/-! ## t.sload, t.swap, t.ewise and t.stest -/

section
variable {u : State} {c : Nat} {i : TileIns}

/-- A t.sload of an absent operand reads nothing and marks the shadow buffer (R168). -/
theorem State.sload_absent (hfmt : i.ops 18 16 ≠ 7) (hsparse : i.ops 20 19 ≠ 3) (hpiece : i.ops 22 21 = 0 ∨ i.ops 18 16 = 0)
    (hquart : u.quartered c = true ∨ i.ops 24 23 = 0) (habs : i.ops 25 25 = 1) (hbit : i.b.getLsbD (i.ops 31 26) = false) :
    u.sload c i [] = (u.setCore c ((u.core c).setSub (i.ops 24 23) { (u.core c).sub (i.ops 24 23) with shadow := .absent (i.ops 18 16) }),
      (u.core c).run i 0) := by
  unfold State.sload
  extract_lets s k quart side sub fmt piece sparse setShadow absent kd stored n at_
  have habsent : absent := ⟨habs, by simp [hbit]⟩
  have hlegal : ¬ (fmt = 7 ∨ sparse = 3 ∨ (piece ≠ 0 ∧ fmt ≠ 0) ∨ (!quart ∧ sub ≠ 0) ∨ (!absent ∧ !blockOk at_ n)) := by
    rintro (h | h | ⟨hp, hf⟩ | ⟨hq, hs⟩ | ⟨ha, -⟩)
    · exact hfmt h
    · exact hsparse h
    · exact hpiece.elim hp hf
    · exact hquart.elim (fun h => by simp [quart, s, State.flaw, h] at hq) hs
    · simp [habsent] at ha
  rw [if_neg hlegal, if_pos habsent]
  rfl

/-- The words a t.ewise writes: the element of each position of its registers (R171). -/
def Core.ewiseWords (k : Core) (i : TileIns) : List (Nat × Word) :=
  (List.range 16384).map (fun j => (i.ops 31 28 * 16384 + j, ewiseElement (i.ops 15 14) (i.ops 13 13 == 1)
    (k.tiles.get 0 (i.ops 27 24 * 16384 + j)) (k.tiles.get 0 (i.ops 23 20 * 16384 + j)) (k.tiles.get 0 (i.ops 19 16 * 16384 + j))))

theorem State.ewise_legal (hop : i.ops 15 14 ≠ 3) (hzero : i.ops 12 0 = 0) :
    ∃ v r, u.ewise c i [] = (v, r) ∧ FormedFrom u v c ∧ r.ins = i ∧ r.error = 0 ∧ r.words = (u.core c).ewiseWords i := by
  unfold State.ewise
  extract_lets k td op cleared failed at_ outs made nan ewised
  have hlegal : ¬ (op = 3 ∨ i.ops 12 0 ≠ 0) := not_or.mpr ⟨hop, not_not_intro hzero⟩
  have hwords : outs.map (fun o => (td * 16384 + o.1, o.2.2.2.2)) = (u.core c).ewiseWords i :=
    List.map_map.trans (List.map_congr_left fun _ _ => rfl)
  rw [if_neg hlegal]
  refine ⟨ewised, _, rfl, (FormedFrom.setSubs u c _).trans (.counted ..), rfl, rfl, ?_⟩
  dsimp only
  exact hwords

/-- What a t.swap forms (R146); the shadow buffer is then empty (log 46). -/
def State.swap (s : State) (c : Nat) (i : TileIns) : State × Running :=
  let k := s.core c
  let x := k.sub (i.ops 24 23)
  if i.ops 31 25 ≠ 0 ∨ i.ops 22 0 ≠ 0 ∨ (!s.quartered c ∧ i.ops 24 23 ≠ 0) then (s, k.run i 0x10E)
  else if x.shadow = .empty then (s, k.run i 0x10D)
  else (s.setCore c (k.setSub (i.ops 24 23) { x with active := x.shadow, shadow := .empty }), k.run i 0)

theorem exec_tSwap_eq (c : CoreId) (s : State) : exec (.tSwap c) s = arrStart c 2 s (fun s i => s.swap c.val i) := rfl

theorem State.swap_legal (hhigh : i.ops 31 25 = 0) (hlow : i.ops 22 0 = 0) (hquart : u.quartered c = true ∨ i.ops 24 23 = 0)
    (hshadow : ((u.core c).sub (i.ops 24 23)).shadow ≠ .empty) : u.swap c i = (u.setCore c ((u.core c).setSub (i.ops 24 23)
      { (u.core c).sub (i.ops 24 23) with active := ((u.core c).sub (i.ops 24 23)).shadow, shadow := .empty }), (u.core c).run i 0) := by
  have hlegal : ¬ (i.ops 31 25 ≠ 0 ∨ i.ops 22 0 ≠ 0 ∨ (!u.quartered c ∧ i.ops 24 23 ≠ 0)) := by
    rintro (h | h | ⟨hq, hs⟩)
    · exact h hhigh
    · exact h hlow
    · exact hquart.elim (fun h => by simp [h] at hq) hs
  exact (if_neg hlegal).trans (if_neg hshadow)

/-- What a t.stest forms (R174). -/
def State.stest (s : State) (c : Nat) (i : TileIns) (m1 m2 : Bool) : State × Running :=
  if i.ops 31 1 ≠ 0 then (s, (s.core c).run i 0x10E) else (s.selfTest c m1 m2, (s.core c).run i 0)

theorem exec_tStest_eq (c : CoreId) (m1 m2 : Bool) (s : State) :
    exec (.tStest c m1 m2) s = arrStart c 4 s (fun s i => s.stest c.val i m1 m2) := rfl

/-- A self-test whose first signature matches advances the test counter alone (R172). -/
theorem State.selfTest_matching (u : State) (c : Nat) (m2 : Bool) : u.selfTest c true m2 = u.incFld (coreDie c) (coreOff c 0x404) 15 0 := rfl

/-- The count of the self-tests that a core has run (R172). -/
def State.selfTests (s : State) (c : Nat) : Nat := s.fld (coreDie c) (coreOff c 0x404) 15 0

theorem State.selfTests_of_csr {v : State} (h : v.csr = u.csr) (c : Nat) : v.selfTests c = u.selfTests c := by
  unfold State.selfTests State.fld State.rd
  rw [h]

theorem State.selfTests_matching (u : State) (c : Nat) (m2 : Bool) : (u.selfTest c true m2).selfTests c = (u.selfTests c + 1) % 65536 :=
  State.fld_setFld _ _ _ _ _ _ (by decide) (by decide)

end

/-! ## The array's instructions start -/

section
variable {s : State} {c : CoreId} {i : TileIns} {rest : List TileIns}

theorem exec_tMma_absent (h : ArrayHead s c.val 0 i rest) (hlegal : MmaLegal i (s.quartered c.val)) (hacc : i.ops 27 27 = 0) {f : Nat}
    (hactive : ((s.core c.val).sub (i.ops 24 23)).active = .absent f) (hgroup : fmtGroup f = fmtGroup (i.ops 18 16)) :
    ∃ t r, exec (.tMma c [] [] []) s = .next t ∧ ArrayStarted s t c.val i rest r ∧ r.error = 0 ∧ r.words = zeroWords i (s.quartered c.val) := by
  obtain ⟨grants, hstart⟩ := arrStart_head h (fun s i => s.mma c.val i [] [] [])
  have hmma := State.mma_absent (u := s.dequeued c.val grants rest) hlegal hacc (by rwa [State.dequeued_core]) hgroup
  obtain ⟨t, hexec, hstarted, -⟩ := hstart _ _ hmma
    ((FormedFrom.counted ..).trans ((FormedFrom.countedField ..).trans (.chainOn ..))) rfl
  exact ⟨t, _, hexec, hstarted, rfl, rfl⟩

theorem exec_tMma_empty (h : ArrayHead s c.val 0 i rest) (hlegal : MmaLegal i (s.quartered c.val))
    (hactive : ((s.core c.val).sub (i.ops 24 23)).active = .empty) :
    ∃ t r, exec (.tMma c [] [] []) s = .next t ∧ ArrayStarted s t c.val i rest r ∧ r.error = 0x10D ∧ r.words = [] := by
  obtain ⟨grants, hstart⟩ := arrStart_head h (fun s i => s.mma c.val i [] [] [])
  obtain ⟨v, hmma, hformed⟩ := State.mma_empty (u := s.dequeued c.val grants rest) hlegal (by rwa [State.dequeued_core])
  obtain ⟨t, hexec, hstarted, -⟩ := hstart _ _ hmma (hformed.trans (.chainOn ..)) rfl
  exact ⟨t, _, hexec, hstarted, rfl, rfl⟩

theorem exec_tSload_absent (h : ArrayHead s c.val 1 i rest) (hfmt : i.ops 18 16 ≠ 7) (hsparse : i.ops 20 19 ≠ 3)
    (hpiece : i.ops 22 21 = 0 ∨ i.ops 18 16 = 0) (hquart : s.quartered c.val = true ∨ i.ops 24 23 = 0) (habs : i.ops 25 25 = 1)
    (hbit : i.b.getLsbD (i.ops 31 26) = false) :
    ∃ t r, exec (.tSload c []) s = .next t ∧ ArrayStarted s t c.val i rest r ∧ r.error = 0 ∧
      (t.core c.val).sub (i.ops 24 23) = { (s.core c.val).sub (i.ops 24 23) with shadow := .absent (i.ops 18 16) } := by
  obtain ⟨grants, hstart⟩ := arrStart_head h (fun s i => s.sload c.val i [])
  have hsload := State.sload_absent (u := s.dequeued c.val grants rest) hfmt hsparse hpiece hquart habs hbit
  obtain ⟨t, hexec, hstarted, hsubs, -⟩ := hstart _ _ hsload (.setSubs ..) rfl
  refine ⟨t, _, hexec, hstarted, rfl, ?_⟩
  simp [Core.sub, hsubs, Core.setSub]

theorem exec_tSwap (h : ArrayHead s c.val 2 i rest) (hhigh : i.ops 31 25 = 0) (hlow : i.ops 22 0 = 0)
    (hquart : s.quartered c.val = true ∨ i.ops 24 23 = 0) (hshadow : ((s.core c.val).sub (i.ops 24 23)).shadow ≠ .empty) :
    ∃ t r, exec (.tSwap c) s = .next t ∧ ArrayStarted s t c.val i rest r ∧ r.error = 0 ∧ (t.core c.val).sub (i.ops 24 23) =
      { (s.core c.val).sub (i.ops 24 23) with active := ((s.core c.val).sub (i.ops 24 23)).shadow, shadow := .empty } := by
  obtain ⟨grants, hstart⟩ := arrStart_head h (fun s i => s.swap c.val i)
  have hswap := State.swap_legal (u := s.dequeued c.val grants rest) hhigh hlow hquart (by rwa [State.dequeued_core])
  obtain ⟨t, hexec, hstarted, hsubs, -⟩ := hstart _ _ hswap (.setSubs ..) rfl
  refine ⟨t, _, hexec, hstarted, rfl, ?_⟩
  simp [Core.sub, hsubs, Core.setSub]

theorem exec_tEwise (h : ArrayHead s c.val 3 i rest) (hop : i.ops 15 14 ≠ 3) (hzero : i.ops 12 0 = 0) :
    ∃ t r, exec (.tEwise c []) s = .next t ∧ ArrayStarted s t c.val i rest r ∧ r.error = 0 ∧ r.words = (s.core c.val).ewiseWords i := by
  obtain ⟨grants, hstart⟩ := arrStart_head h (fun s i => s.ewise c.val i [])
  obtain ⟨v, r, hewise, hformed, hins, herror, hwords⟩ := State.ewise_legal (u := s.dequeued c.val grants rest) (c := c.val) hop hzero
  obtain ⟨t, hexec, hstarted, -⟩ := hstart v r hewise hformed hins
  refine ⟨t, r, hexec, hstarted, herror, hwords.trans ?_⟩
  rw [State.dequeued_core]
  rfl

theorem exec_tStest (h : ArrayHead s c.val 4 i rest) (hzero : i.ops 31 1 = 0) :
    ∃ t r, exec (.tStest c true false) s = .next t ∧ ArrayStarted s t c.val i rest r ∧ r.error = 0 ∧
      t.selfTests c.val = (s.selfTests c.val + 1) % 65536 := by
  obtain ⟨grants, hstart⟩ := arrStart_head h (fun s i => s.stest c.val i true false)
  obtain ⟨t, hexec, hstarted, -, hcsr⟩ := hstart _ _ (if_neg (not_not_intro hzero)) (.countedField ..) rfl
  exact ⟨t, _, hexec, hstarted, rfl, (State.selfTests_of_csr hcsr _).trans (State.selfTests_matching ..)⟩

end

/-! ## The hardware's self-test (R172, R276) -/

/-- A replay of the watch holds back a self-test that is due. -/
theorem State.runDue_replay {s : State} {c : Nat} (h : (s.core c).samplePhase = some 3) : s.runDue c = s := by
  unfold State.runDue
  dsimp only
  split
  · exact if_pos h
  · rfl

/-- A self-test that is due runs with the other pattern (log 73). -/
theorem State.runDue_due {s : State} {c : Nat} {m : Bool × Bool} (hdue : (s.core c).testDue = some m) (hreplay : (s.core c).samplePhase ≠ some 3)
    (hfenced : (s.core c).fenced = false) (htesting : (s.core c).testing = false) (hresetting : (s.core c).resetting = false) :
    s.runDue c = (s.setCore c { s.core c with testDue := none, stPattern := !(s.core c).stPattern }).selfTest c m.1 m.2 := by
  simp [State.runDue, hdue, hreplay, hfenced, htesting, hresetting]

/-- A self-test has fallen due on a core. -/
def State.testFallsDue (s : State) (c : Nat) (m : Bool × Bool) : State := s.modCore c (fun k => { k with testDue := some m })

theorem State.testFallsDue_to (s : State) (c : Nat) (m : Bool × Bool) : CoreTo s (s.testFallsDue c m) c { s.core c with testDue := some m } :=
  (CoreTo.refl s c).modCore _

/-- A core in service with no self-test held back: one that falls due is the hardware's next (R172, R276). -/
structure SelfTestAwaited (s : State) (c : Nat) : Prop where
  running : s.phase = .running
  online : s.dieOnline (coreDie c) = true
  fenced : (s.core c).fenced = false
  testing : (s.core c).testing = false
  resetting : (s.core c).resetting = false
  due : (s.core c).testDue = none

section
variable {s : State} {c : CoreId}

theorem exec_arraySelfTestDue (h : SelfTestAwaited s c.val) (m1 m2 : Bool) :
    exec (.arraySelfTestDue c m1 m2) s = .next ((s.testFallsDue c.val (m1, m2)).runDue c.val) := by
  obtain ⟨hrun, honline, hfenced, htesting, hresetting, hdue⟩ := h
  change execArraySelfTestDue c m1 m2 s = _
  rw [execArraySelfTestDue, gate_running hrun]
  simp [honline, hfenced, htesting, hresetting, State.runDue_none hdue, State.testFallsDue]

theorem exec_arraySelfTestDue_replay (h : SelfTestAwaited s c.val) (m1 m2 : Bool) (hreplay : (s.core c.val).samplePhase = some 3) :
    ∃ t, exec (.arraySelfTestDue c m1 m2) s = .next t ∧ t.core c.val = { s.core c.val with testDue := some (m1, m2) } ∧ OnlyCore s t c.val := by
  have hdue := s.testFallsDue_to c.val (m1, m2)
  have hheld : (s.testFallsDue c.val (m1, m2)).runDue c.val = s.testFallsDue c.val (m1, m2) := State.runDue_replay (by rw [hdue.core]; exact hreplay)
  exact hdue.outcome ((exec_arraySelfTestDue h m1 m2).trans (congrArg _ hheld))

theorem exec_arraySelfTestDue_matching (h : SelfTestAwaited s c.val) (m2 : Bool) (hreplay : (s.core c.val).samplePhase ≠ some 3) :
    ∃ t, exec (.arraySelfTestDue c true m2) s = .next t ∧ t.core c.val = { s.core c.val with stPattern := !(s.core c.val).stPattern } ∧
      t.selfTests c.val = (s.selfTests c.val + 1) % 65536 ∧ t.pool = s.pool := by
  have hfell := s.testFallsDue_to c.val (true, m2)
  have hcore := hfell.core
  have hran := State.runDue_due (s := s.testFallsDue c.val (true, m2)) (m := (true, m2)) (by rw [hcore])
    (by rw [hcore]; exact hreplay) (by rw [hcore]; exact h.fenced) (by rw [hcore]; exact h.testing) (by rw [hcore]; exact h.resetting)
  have hcleared : ({ s.core c.val with testDue := none, stPattern := !(s.core c.val).stPattern } : Core) =
      { s.core c.val with stPattern := !(s.core c.val).stPattern } := by rw [← h.due]
  refine ⟨_, (exec_arraySelfTestDue h true m2).trans (congrArg _ hran), ?_, State.selfTests_matching .., ?_⟩
  · rw [State.selfTest_matching, hcore, State.incFld_core, State.core_setCore, hcleared]
  · rw [State.selfTest_matching, State.incFld, State.setFld_pool, State.setCore_pool]
    exact hfell.only.pool

end

/-! ## ARRAY_COMPLETION -/

section
variable {s : State} {c : CoreId}

/-- ARRAY_COMPLETION of the array's oldest instruction, once what it writes is free (R121, R148). -/
theorem exec_arrayCompletion {r : Running} {rest : List Running} (hrun : s.phase = .running) (harr : (s.core c.val).arr = r :: rest)
    (hfree : (s.core c.val).canWrite (s.quartered c.val) r.ins = true) :
    ∃ w, exec (.arrayCompletion c) s = .next ((s.setCore c.val { s.core c.val with arr := rest, watch := w }).finishTile c.val 1 r) := by
  change ∃ w, execArrayCompletion c s = _
  rw [execArrayCompletion, gate_running hrun]
  simp only [harr, hfree, if_true]
  exact ⟨_, rfl⟩

end

/-- An array instruction that writes no byte of the Pantry and has made no NaN leaves its tile words (R148). -/
theorem State.land_words (s : State) (c : Nat) {r : Running} (hbytes : r.bytes = []) (htracker : r.tracker = none) (hnan : r.nan = none) :
    s.land c 1 r = (s.modCore c (fun k => k.applyRunning r), r) := by
  have htrack : r.trackGranules = [] := by simp [Running.trackGranules, htracker]
  have hpart : r.partGranules = [] := by simp [Running.partGranules, hbytes]
  simp [State.land, htrack, hpart, State.panRead, State.landed, hnan]

theorem State.finishTile_words (s : State) (c : Nat) {r : Running} (hbytes : r.bytes = []) (htracker : r.tracker = none) (hnan : r.nan = none)
    (herror : r.error = 0) : s.finishTile c 1 r = (s.modCore c (fun k => k.applyRunning r)).tileDone c r.ins 1 false := by
  simp [State.finishTile, State.land_words s c hbytes htracker hnan, hnan, herror]

theorem exec_arrayCompletion_words {s : State} {c : CoreId} {r : Running} (hrun : s.phase = .running) (harr : (s.core c.val).arr = [r])
    (hfree : (s.core c.val).canWrite (s.quartered c.val) r.ins = true) (herror : r.error = 0) (hnan : r.nan = none) (hbytes : r.bytes = [])
    (htracker : r.tracker = none) (hwait : (s.core c.val).waiting = none) (hgrant : fieldOf r.ins.word 28 27 ≠ 2) :
    ∃ t w, exec (.arrayCompletion c) s = .next t ∧
      CoreTo s t c.val (({ s.core c.val with arr := [], watch := w } : Core).applyRunning r |>.completed r.ins 1) := by
  obtain ⟨w, hexec⟩ := exec_arrayCompletion hrun harr hfree
  have hwritten := ((CoreTo.refl s c.val).setCore { s.core c.val with arr := [], watch := w }).modCore (fun k => k.applyRunning r)
  rw [State.finishTile_words _ _ hbytes htracker hnan herror, State.tileDone_quiet _ _ 1 hgrant (by rw [hwritten.core]; exact hwait)] at hexec
  refine ⟨_, w, hexec, ?_⟩
  rw [hwritten.core]
  exact hwritten.setCore _

/-- Settles O19: each instruction's clause by the lemma on how it starts, the completion's by the core it leaves. -/
theorem arrayInstructions : Obligations.ArrayInstructions := by
  intro s c i rest
  refine ⟨fun h hacc hfmt hpiece hquart hblock => ?_, exec_tSload_absent, exec_tSwap, exec_tEwise, exec_tStest, ?_, ?_⟩
  · have hlegal : MmaLegal i (s.quartered c.val) := ⟨hfmt, hpiece, hquart, hblock⟩
    refine ⟨fun f hactive hgroup => ?_, exec_tMma_empty h hlegal⟩
    obtain ⟨t, r, hexec, hstarted, herror, hwords⟩ := exec_tMma_absent h hlegal hacc hactive hgroup
    exact ⟨t, r, hexec, hstarted, herror, by rw [hwords]; exact zeroWords_zero i _, by rw [hwords]; exact zeroWords_length ..⟩
  · intro hrun honline hfenced htesting hresetting hdue
    have hawaited : SelfTestAwaited s c.val := ⟨hrun, honline, hfenced, htesting, hresetting, hdue⟩
    exact ⟨exec_arraySelfTestDue_replay hawaited true false, exec_arraySelfTestDue_matching hawaited false⟩
  · intro r hrun harr hfree herror hnan hbytes htracker hwait hgrant htoken
    obtain ⟨t, w, hexec, hcore, honly⟩ := exec_arrayCompletion_words hrun harr hfree herror hnan hbytes htracker hwait hgrant
    rw [Core.completed, Core.tokens_counted (fieldOf_of_getLsbD htoken)] at hcore
    exact ⟨t, hexec, by rw [hcore]; rfl, by rw [hcore]; rfl, by rw [hcore]; rfl, by rw [hcore]; exact Map.get_set_self .., honly⟩

end Sys2Proof.Machine
end

section
/-! # The vector engine

How an instruction at the head of the vector engine's queue starts (R120, R128, R181), what each forms when it does (R184 to R197, R248, R261), and what
the running instruction leaves when it completes (R182, R193, R200). -/

namespace Sys2Proof.Machine

/-! ## Starting at the head of the vector engine's queue -/

/-- The state in which the head of the vector engine's queue forms its values: its credit taken, out of its queue, and counted. -/
def State.vecDequeued (s : State) (c : Nat) (grants : Map Nat) (rest : List TileIns) : State :=
  (s.setCore c { s.core c with grants := grants, vecq := rest }).inc64 (coreDie c) (coreOff c 0x500)

@[simp] theorem State.vecDequeued_core (s : State) (c : Nat) (grants : Map Nat) (rest : List TileIns) :
    (s.vecDequeued c grants rest).core c = { s.core c with grants := grants, vecq := rest } := by
  simp [State.vecDequeued]

@[simp] theorem State.vecDequeued_pool (s : State) (c : Nat) (grants : Map Nat) (rest : List TileIns) :
    (s.vecDequeued c grants rest).pool = s.pool := (State.inc64_pool ..).trans (State.setCore_pool ..)

/-- The vector engine runs instruction `i` as `r` (R181): it has left the queue, and memory is as it was. -/
def VectorStarted (s t : State) (c : Nat) (i : TileIns) (rest : List TileIns) (r : Running) : Prop :=
  (t.core c).vecq = rest ∧ (t.core c).vec = some r ∧ r.ins = i ∧ t.pool = s.pool

/-- What forming a vector instruction's values leaves: of its core, all but the count of stochastic instructions, and memory. -/
def StochTo (u v : State) (c n : Nat) : Prop := v.core c = { u.core c with stoch := n } ∧ v.pool = u.pool

section
variable {s : State} {c : CoreId} {i : TileIns} {rest : List TileIns} {func : Nat}

/-- An instruction that heads the vector engine's queue starts with what it forms (R120, R128, R181). -/
theorem vecStart_head (h : VectorHead s c.val func i rest) (f : State → TileIns → State × Running) : ∃ grants, ∀ v r n,
    f (s.vecDequeued c.val grants rest) i = (v, r) → StochTo (s.vecDequeued c.val grants rest) v c.val n → r.ins = i →
    ∃ t, vecStart c func s f = .next t ∧ VectorStarted s t c.val i rest r ∧ (t.core c.val).stoch = n := by
  obtain ⟨hrun, hqueue, hfunc, hstart, hready, hacquire⟩ := h
  obtain ⟨k, hk⟩ := Option.isSome_iff_exists.mp hacquire
  obtain ⟨grants, rfl⟩ := Core.acquire_grants hk
  refine ⟨grants, fun v r n hf ⟨hcore, hpool⟩ hins => ⟨v.modCore c.val (fun k => { k with vec := some r }), ?_, ?_, ?_⟩⟩
  · have hruns : (v.core c.val).runs = true := by
      rw [hcore, State.vecDequeued_core]
      exact Core.runs_of_mayStart hstart
    rw [vecStart, gate_running hrun]
    rw [State.vecDequeued] at hf
    simp only [hqueue, hfunc, hstart, hready, hk, hf, hruns, and_self, if_true]
  · simp [VectorStarted, State.modCore, hcore, hins, hpool]
  · simp [State.modCore, hcore]

end

theorem StochTo.refl (u : State) (c : Nat) : StochTo u u c (u.core c).stoch := ⟨rfl, rfl⟩

theorem StochTo.counted (u : State) (c : Nat) : StochTo u (u.modCore c (fun k => { k with stoch := k.stoch + 1 })) c ((u.core c).stoch + 1) :=
  ⟨State.core_setCore .., rfl⟩

theorem StochTo.bumpBy (u : State) (c m : Nat) : StochTo u (u.bumpBy m) c (u.core c).stoch := ⟨rfl, rfl⟩

theorem StochTo.sound {u v : State} {c n : Nat} (h : StochTo u v c n) (hsound : (u.core c).sound) : (v.core c).sound := by
  obtain ⟨hcore, -⟩ := h
  rw [hcore]
  exact hsound

/-- The core that the head of the queue reads is sound where its core was. -/
theorem State.vecDequeued_sound {s : State} {c : Nat} (h : (s.core c).sound) (grants : Map Nat) (rest : List TileIns) :
    ((s.vecDequeued c grants rest).core c).sound := by
  rw [State.vecDequeued_core]
  exact h

/-- MODE 1 is fast mode, whatever the core's control says (R198). -/
theorem TileIns.isStrict_fast (i : TileIns) : i.isStrict 1 = false := rfl

section
variable {u : State} {c : Nat} {i : TileIns}

/-! ## t.vchain -/

/-- A legal chain from tile register to tile register in fast mode, on FP32 or FP64, without a conversion or a reduction (R184 to R191). -/
structure ChainLegal (i : TileIns) : Prop where
  place : i.ops 23 22 = 0
  type : i.ops 21 20 < 2
  mode : i.ops 19 18 = 1
  zero : i.ops 17 17 = 0
  count : i.stages.length = i.ops 16 14 + 1
  desc : i.ops 13 0 * 512 + 8 * (i.ops 16 14 + 1) ≤ pantrySize
  plain : ∀ w ∈ i.stages, stKind w ≠ 6 ∧ stKind w ≠ 8
  formed : ∀ w ∈ i.stages.zipIdx, stageOk (i.ops 21 20) 0 (w.2 + 1 == i.ops 16 14 + 1) w.1 = true
  regions : ∀ w ∈ i.stages, ∀ r ∈ stageRegions (i.ops 21 20) w, regionOk r = true

theorem ChainLegal.no_convert (h : ChainLegal i) : i.stages.find? (fun w => stKind w == 6) = none :=
  List.find?_eq_none.mpr fun w hw => by
    obtain ⟨hconvert, -⟩ := h.plain w hw
    simpa using hconvert

theorem ChainLegal.no_reduce (h : ChainLegal i) : (stKind (i.stages.getLast?.getD 0) == 8) = false := by
  cases hlast : i.stages.getLast? with
  | none => rfl
  | some w =>
    obtain ⟨-, hreduce⟩ := h.plain w (List.mem_of_getLast? hlast)
    simpa using hreduce

theorem State.vchain_legal (hsound : (u.core c).sound) (h : ChainLegal i) (hread : i.spoiled = false) :
    ∃ m r, u.vchain c i [] = (u.bumpBy m, r) ∧ r.ins = i ∧ r.error = 0 := by
  unfold State.vchain
  extract_lets s k dk wt mode ws desc nst last conv outBits elems outLen out red results redSize regions track rec_ qraw qexp strict sto ctr s' bad
  have hconv : conv = none := h.no_convert
  have hred : red = false := h.no_reduce
  have htrack : track = false := by simp only [track, hconv]
  have hsto : s' = u := by simp only [s', sto, hconv]; rfl
  have hstrict : strict = false := by simp only [strict, mode, h.mode, TileIns.isStrict_fast]
  have hbad : ¬ bad := by
    have hplace : dk = 0 := h.place
    have htype : wt ≠ 3 := Nat.ne_of_lt (Nat.lt_succ_of_lt h.type)
    have hmode : mode = 1 := h.mode
    have hcount : ws.length = nst := h.count
    have hdesc : ¬ pantrySize < desc + 8 * nst := Nat.not_lt.mpr h.desc
    have hlen : outLen = 0 := by simp [outLen, hplace]
    have hformed : ws.zipIdx.all (fun w => stageOk wt 0 (w.2 + 1 == nst) w.1) = true := List.all_eq_true.mpr h.formed
    have hregions : regions.all regionOk = true := by simpa [regions, hred] using h.regions
    simp only [bad, hplace, htype, hmode, hcount, hdesc, hlen, hformed, hregions, hstrict, htrack, h.zero]
    simp
  rw [if_neg hbad]
  simp only [hsto, hstrict, hred, State.panRead_sound hsound, hread]
  exact ⟨_, _, rfl, rfl, rfl⟩

/-! ## t.red -/

/-- A legal, unmasked reduction in fast mode, whose results lie in the Pantry (R192 to R196). -/
structure RedLegal (i : TileIns) : Prop where
  op : i.ops 27 24 ≤ 9
  type : i.ops 22 21 < 2
  mode : i.ops 20 19 = 1
  zero : i.ops 17 0 = 0
  unmasked : i.ops 18 18 = 0
  region : regionOk (i.a.toNat, (if i.ops 23 23 == 1 then wtWidth (i.ops 22 21) else 128) * redBytes (i.ops 22 21) (i.ops 27 24),
    redBytes (i.ops 22 21) (i.ops 27 24)) = true

theorem State.tred_legal (h : RedLegal i) : ∃ r, u.tred c i [] = (u, r) ∧ r.ins = i ∧ r.error = 0 := by
  unfold State.tred
  extract_lets s k op cols wt mode msk w out n strict reads
  have hstrict : strict = false := by simp only [strict, mode, h.mode, TileIns.isStrict_fast]
  have hmsk : ¬ msk := by simp [msk, h.unmasked]
  have hlegal : ¬ (9 < op ∨ wt = 3 ∨ mode = 3 ∨ i.ops 17 0 ≠ 0 ∨ (strict ∧ wt = 2) ∨ !regionOk (out, n * redBytes wt op, redBytes wt op) ∨
      (msk ∧ !regionOk (i.b.toNat, w * 16, 4))) := by
    have hop : ¬ 9 < op := Nat.not_lt.mpr h.op
    have htype : wt ≠ 3 := Nat.ne_of_lt (Nat.lt_succ_of_lt h.type)
    have hregion : regionOk (out, n * redBytes wt op, redBytes wt op) = true := h.region
    simp [hop, htype, hregion, hstrict, hmsk, mode, h.mode, h.zero]
  have hround : ¬ (strict ∧ 4 < i.frm) := by simp [hstrict]
  rw [if_neg hlegal, if_neg hround, if_neg hmsk]
  exact ⟨_, rfl, rfl, rfl⟩

/-! ## t.ld and t.st -/

/-- The words that a t.ld of FP32 writes: those of its block, in its tile register (R197). -/
def Core.loadWords (k : Core) (i : TileIns) : List (Nat × Word) :=
  (List.range 16384).map (fun j => (i.ops 31 28 * 16384 + j, BitVec.ofNat 32 (elemAt 32 (k.pan (i.at_ (i.ops 15 0) 128) 65536) j)))

theorem Core.loadWords_of_pantry {k k' : Core} (h : k.pantry = k'.pantry) (i : TileIns) : k.loadWords i = k'.loadWords i := by
  unfold Core.loadWords Core.pan
  rw [h]

theorem State.tld_fp32 (hsound : (u.core c).sound) (hfmt : i.ops 27 25 = 0) (hpack : i.ops 24 24 = 0) (hzero : i.ops 23 16 = 0)
    (hblock : blockOk (i.at_ (i.ops 15 0) 128) 65536 = true) :
    u.tld c i [] = (u, { (u.core c).run i 0 with words := (u.core c).loadWords i, slices := 512 }) := by
  unfold State.tld
  extract_lets s k td fmt pack at_ n bs word
  have hunpacked : ¬ pack := by simp [pack, hpack]
  have hbytes : n = 65536 := by simp [n, hunpacked, fmt, hfmt, fmtBits]
  have hlegal : ¬ (fmt = 7 ∨ (pack ∧ fmt ≠ 2) ∨ i.ops 23 16 ≠ 0 ∨ !blockOk at_ n) := by
    simp [hunpacked, hbytes, at_, hblock, fmt, hfmt, hzero]
  have hclean : (s.core c).sound := hsound
  have hword (j : Nat) : word j = elemAt 32 (k.pan at_ 65536) j := by
    simp [word, bs, hunpacked, hbytes, fmt, hfmt, fmtBits, ldWiden]
  have hwords : (List.range 16384).map (fun j => (td * 16384 + j, BitVec.ofNat 32 (word j))) = k.loadWords i :=
    List.map_congr_left fun j _ => by rw [hword]
  rw [if_neg hlegal, State.panRead_sound hclean, hwords]
  rfl

/-- The bytes that a t.st writes: those of its tile register, in its block (R197). -/
def Core.storeBytes (k : Core) (i : TileIns) : List (Nat × Byte) :=
  placed (i.at_ (i.ops 15 0) 128) ((List.range 16384).flatMap (fun j => leBytes 4 (k.tiles.get 0 (i.ops 31 28 * 16384 + j)).toNat))

theorem Core.storeBytes_of_tiles {k k' : Core} (h : k.tiles = k'.tiles) (i : TileIns) : k.storeBytes i = k'.storeBytes i := by
  unfold Core.storeBytes
  rw [h]

/-- What a t.st forms (R197). -/
def State.tst (s : State) (c : Nat) (i : TileIns) : State × Running :=
  if i.ops 27 16 ≠ 0 ∨ !blockOk (i.at_ (i.ops 15 0) 128) 65536 then (s, (s.core c).run i 0x111)
  else (s, { (s.core c).run i 0 with bytes := (s.core c).storeBytes i, slices := 512 })

theorem exec_tSt_eq (c : CoreId) (s : State) : exec (.tSt c) s = vecStart c 4 s (fun s i => s.tst c.val i) := rfl

theorem State.tst_legal (hzero : i.ops 27 16 = 0) (hblock : blockOk (i.at_ (i.ops 15 0) 128) 65536 = true) :
    u.tst c i = (u, { (u.core c).run i 0 with bytes := (u.core c).storeBytes i, slices := 512 }) :=
  if_neg (by simp [hzero, hblock])

/-! ## cvt.t and t.cupd -/

/-- A legal conversion in fast mode between blocks of the Pantry that do not overlap (R248). -/
structure CvtLegal (i : TileIns) : Prop where
  source : i.ops 31 28 ≤ 8
  target : i.ops 27 24 ≤ 8
  rows : i.ops 15 0 ≠ 0
  zero : i.ops 19 16 = 0
  mode : i.ops 21 20 = 1
  sourceBlock : blockOk i.a.toNat (i.ops 15 0 * 128 * (tyOf (i.ops 31 28)).width / 8) = true
  targetBlock : blockOk i.b.toNat (i.ops 15 0 * 128 * (tyOf (i.ops 27 24)).width / 8) = true
  apart : rangesMeet i.a.toNat (i.ops 15 0 * 128 * (tyOf (i.ops 31 28)).width / 8) i.b.toNat (i.ops 15 0 * 128 * (tyOf (i.ops 27 24)).width / 8) = false

/-- A legal conversion draws one stochastic number or none. -/
theorem State.tcvt_legal (hsound : (u.core c).sound) (h : CvtLegal i) :
    ∃ v r n, u.tcvt c i [] = (v, r) ∧ StochTo u v c n ∧ r.ins = i ∧ r.error = 0 := by
  unfold State.tcvt
  extract_lets s k sf df sto sat mode rows src dst n sn dn a b ctr drawn strict
  have hstrict : strict = false := by simp only [strict, mode, h.mode, TileIns.isStrict_fast]
  have hlegal : ¬ (8 < sf ∨ 8 < df ∨ rows = 0 ∨ i.ops 19 16 ≠ 0 ∨ mode = 3 ∨ !blockOk a sn ∨ !blockOk b dn
      ∨ (rangesMeet a sn b dn ∧ !(a = b ∧ dst.width ≤ src.width))) := by
    have hsource : sf ≤ 8 := h.source
    have htarget : df ≤ 8 := h.target
    have hrows : rows ≠ 0 := h.rows
    have hread : blockOk a sn = true := h.sourceBlock
    have hwritten : blockOk b dn = true := h.targetBlock
    have hapart : rangesMeet a sn b dn = false := h.apart
    simp [hsource, htarget, hrows, hread, hwritten, hapart, mode, h.mode, h.zero]
  have hround : ¬ (strict ∧ 4 < i.frm) := by simp [hstrict]
  have hdrawn : ∃ n, StochTo u drawn c n := by
    simp only [drawn]
    split
    · exact ⟨_, .counted u c⟩
    · exact ⟨_, .refl u c⟩
  obtain ⟨m, hto⟩ := hdrawn
  rw [if_neg hlegal, if_neg hround, State.panRead_sound (hto.sound hsound)]
  exact ⟨_, _, m, rfl, hto, rfl, rfl⟩

/-- A legal compensated update draws one stochastic number (R261, R262). -/
theorem State.tcupd_legal (hsound : (u.core c).sound) (hzero : i.ops 26 16 = 0) (hweights : blockOk i.a.toNat 32768 = true)
    (hrest : blockOk (i.ops 15 0 * 128) 32768 = true) (hapart : rangesMeet i.a.toNat 32768 (i.ops 15 0 * 128) 32768 = false) :
    ∃ v r, u.tcupd c i [] = (v, r) ∧ StochTo u v c ((u.core c).stoch + 1) ∧ r.ins = i ∧ r.error = 0 := by
  unfold State.tcupd
  extract_lets s k tu wa ra ctr drawn
  have hdrawn : StochTo u drawn c ((u.core c).stoch + 1) := StochTo.counted u c
  have hlegal : ¬ (i.ops 26 16 ≠ 0 ∨ !blockOk wa 32768 ∨ !blockOk ra 32768 ∨ rangesMeet wa 32768 ra 32768) := by
    simp [hzero, wa, ra, hweights, hrest, hapart]
  rw [if_neg hlegal, State.panRead_sound (hdrawn.sound hsound)]
  exact ⟨_, _, rfl, hdrawn, rfl, rfl⟩

end

/-! ## The vector engine's instructions start -/

section
variable {s : State} {c : CoreId} {i : TileIns} {rest : List TileIns}

theorem exec_tVchain (h : VectorHead s c.val 0 i rest) (hsound : (s.core c.val).sound) (hlegal : ChainLegal i) (hread : i.spoiled = false) :
    ∃ t r, exec (.tVchain c []) s = .next t ∧ VectorStarted s t c.val i rest r ∧ r.error = 0 := by
  obtain ⟨grants, hstart⟩ := vecStart_head h (fun s i => s.vchain c.val i [])
  obtain ⟨m, r, hchain, hins, herror⟩ := State.vchain_legal (State.vecDequeued_sound hsound grants rest) hlegal hread
  obtain ⟨t, hexec, hstarted, -⟩ := hstart _ r _ hchain (.bumpBy ..) hins
  exact ⟨t, r, hexec, hstarted, herror⟩

theorem exec_tRed (h : VectorHead s c.val 1 i rest) (hlegal : RedLegal i) :
    ∃ t r, exec (.tRed c []) s = .next t ∧ VectorStarted s t c.val i rest r ∧ r.error = 0 := by
  obtain ⟨grants, hstart⟩ := vecStart_head h (fun s i => s.tred c.val i [])
  obtain ⟨r, hred, hins, herror⟩ := State.tred_legal (u := s.vecDequeued c.val grants rest) (c := c.val) hlegal
  obtain ⟨t, hexec, hstarted, -⟩ := hstart _ r _ hred (.refl ..) hins
  exact ⟨t, r, hexec, hstarted, herror⟩

theorem exec_tLd (h : VectorHead s c.val 3 i rest) (hsound : (s.core c.val).sound) (hfmt : i.ops 27 25 = 0) (hpack : i.ops 24 24 = 0)
    (hzero : i.ops 23 16 = 0) (hblock : blockOk (i.at_ (i.ops 15 0) 128) 65536 = true) :
    ∃ t r, exec (.tLd c []) s = .next t ∧ VectorStarted s t c.val i rest r ∧ r.error = 0 ∧ r.words = (s.core c.val).loadWords i := by
  obtain ⟨grants, hstart⟩ := vecStart_head h (fun s i => s.tld c.val i [])
  have hload := State.tld_fp32 (State.vecDequeued_sound hsound grants rest) hfmt hpack hzero hblock
  obtain ⟨t, hexec, hstarted, -⟩ := hstart _ _ _ hload (.refl ..) rfl
  refine ⟨t, _, hexec, hstarted, rfl, ?_⟩
  dsimp only
  exact Core.loadWords_of_pantry (by rw [State.vecDequeued_core]) i

theorem exec_tSt (h : VectorHead s c.val 4 i rest) (hzero : i.ops 27 16 = 0) (hblock : blockOk (i.at_ (i.ops 15 0) 128) 65536 = true) :
    ∃ t r, exec (.tSt c) s = .next t ∧ VectorStarted s t c.val i rest r ∧ r.error = 0 ∧ r.bytes = (s.core c.val).storeBytes i := by
  obtain ⟨grants, hstart⟩ := vecStart_head h (fun s i => s.tst c.val i)
  have hstore := State.tst_legal (u := s.vecDequeued c.val grants rest) (c := c.val) hzero hblock
  obtain ⟨t, hexec, hstarted, -⟩ := hstart _ _ _ hstore (.refl ..) rfl
  refine ⟨t, _, hexec, hstarted, rfl, ?_⟩
  dsimp only
  exact Core.storeBytes_of_tiles (by rw [State.vecDequeued_core]) i

theorem exec_cvtT (h : VectorHead s c.val 5 i rest) (hsound : (s.core c.val).sound) (hlegal : CvtLegal i) :
    ∃ t r, exec (.cvtT c []) s = .next t ∧ VectorStarted s t c.val i rest r ∧ r.error = 0 := by
  obtain ⟨grants, hstart⟩ := vecStart_head h (fun s i => s.tcvt c.val i [])
  obtain ⟨v, r, n, hcvt, hto, hins, herror⟩ := State.tcvt_legal (State.vecDequeued_sound hsound grants rest) hlegal
  obtain ⟨t, hexec, hstarted, -⟩ := hstart v r n hcvt hto hins
  exact ⟨t, r, hexec, hstarted, herror⟩

theorem exec_tCupd (h : VectorHead s c.val 2 i rest) (hsound : (s.core c.val).sound) (hzero : i.ops 26 16 = 0)
    (hweights : blockOk i.a.toNat 32768 = true) (hrest : blockOk (i.ops 15 0 * 128) 32768 = true)
    (hapart : rangesMeet i.a.toNat 32768 (i.ops 15 0 * 128) 32768 = false) :
    ∃ t r, exec (.tCupd c []) s = .next t ∧ VectorStarted s t c.val i rest r ∧ r.error = 0 ∧
      (t.core c.val).stoch = (s.core c.val).stoch + 1 := by
  obtain ⟨grants, hstart⟩ := vecStart_head h (fun s i => s.tcupd c.val i [])
  obtain ⟨v, r, hcupd, hto, hins, herror⟩ := State.tcupd_legal (State.vecDequeued_sound hsound grants rest) hzero hweights hrest hapart
  obtain ⟨t, hexec, hstarted, hstoch⟩ := hstart v r _ hcupd hto hins
  exact ⟨t, r, hexec, hstarted, herror, hstoch.trans (by rw [State.vecDequeued_core])⟩

end

/-! ## VECTOR_COMPLETION -/

/-- What the vector engine's running instruction leaves in its core's flags and its EMPTY record, where nothing is tracked (R193, R200). -/
theorem Core.applyVector_untracked (k : Core) {r : Running} (htracker : r.tracker = none) : k.applyVector r =
    { k with
      vecFlags := k.vecFlags ||| r.flags,
      vecStatus := if r.empty ∧ !k.vecStatus.getLsbD 9 then BitVec.ofNat 32 (0x200 + r.ins.tag.toNat) else k.vecStatus } := by
  simp only [Core.applyVector, htracker]

section
variable {s : State} {c : Nat} {r : Running}

/-- A completion without an error or a NaN on a core whose Pantry is sound meets no poison: what it has formed lands, and it reports (R182, R285). -/
theorem State.finishTile_sound (hsound : (s.core c).sound) (unit : Nat) (hnan : r.nan = none) (herror : r.error = 0) :
    s.finishTile c unit r = (s.landed c unit r).tileDone c r.ins 1 false := by
  simp [State.finishTile, State.land, State.panRead_sound hsound, hnan, herror]

/-- A vector instruction that has made no NaN leaves its flags and its results in its core (R182, R200). -/
theorem State.landed_vector_core (s : State) (c : Nat) (hnan : r.nan = none) :
    (s.landed c 2 r).core c = ((s.core c).applyVector r).applyRunning r := by
  simp [State.landed, hnan, State.modCore]

end

section
variable {s : State} {c : CoreId} {r : Running}

/-- VECTOR_COMPLETION of the running instruction, once what it writes is free (R121, R182): the engine is free, and chains on what it writes end. -/
theorem exec_vectorCompletion (hrun : s.phase = .running) (hvec : (s.core c.val).vec = some r)
    (hfree : (s.core c.val).canWrite (s.quartered c.val) r.ins = true) :
    ∃ subs, exec (.vectorCompletion c) s = .next ((s.setCore c.val { s.core c.val with vec := none, subs := subs }).finishTile c.val 2 r) := by
  change ∃ subs, execVectorCompletion c s = _
  rw [execVectorCompletion, gate_running hrun]
  simp only [hvec, hfree, if_true]
  exact ⟨_, rfl⟩

theorem exec_vectorCompletion_sound (hrun : s.phase = .running) (hsound : (s.core c.val).sound) (hvec : (s.core c.val).vec = some r)
    (hfree : (s.core c.val).canWrite (s.quartered c.val) r.ins = true) (herror : r.error = 0) (hnan : r.nan = none)
    (htracker : r.tracker = none) (hwait : (s.core c.val).waiting = none) (hgrant : fieldOf r.ins.word 28 27 ≠ 2) :
    ∃ t subs, exec (.vectorCompletion c) s = .next t ∧
      t.core c.val = ((({ s.core c.val with vec := none, subs := subs } : Core).applyVector r).applyRunning r).completed r.ins 1 := by
  obtain ⟨subs, hexec⟩ := exec_vectorCompletion hrun hvec hfree
  have hcore := State.landed_vector_core (s.setCore c.val { s.core c.val with vec := none, subs := subs }) c.val hnan
  rw [State.core_setCore] at hcore
  have hidle : (((s.setCore c.val { s.core c.val with vec := none, subs := subs }).landed c.val 2 r).core c.val).waiting = none := by
    rw [hcore, Core.applyVector_untracked _ htracker]
    exact hwait
  rw [State.finishTile_sound (by rw [State.core_setCore]; exact hsound) 2 hnan herror, State.tileDone_quiet _ _ 1 hgrant hidle] at hexec
  exact ⟨_, subs, hexec, (State.core_setCore ..).trans (by rw [hcore])⟩

end

/-- Settles O20: each instruction's clause by the lemma on how it starts, the completion's by the core it leaves. -/
theorem vectorInstructions : Obligations.VectorInstructions := by
  intro s c i rest
  dsimp only
  intro hpoison hflaws
  have hsound : (s.core c.val).sound := ⟨hpoison, hflaws⟩
  refine ⟨?_, ?_, fun h => exec_tLd h hsound, exec_tSt, ?_, fun h => exec_tCupd h hsound, ?_⟩
  · intro h hread hplace htype hmode hzero hcount hdesc hplain hformed hregions
    exact exec_tVchain h hsound ⟨hplace, htype, hmode, hzero, hcount, hdesc, hplain, hformed, hregions⟩ hread
  · intro h hop htype hmode hzero hunmasked hregion
    exact exec_tRed h ⟨hop, htype, hmode, hzero, hunmasked, hregion⟩
  · intro h hsource htarget hrows hzero hmode hread hwritten hapart
    exact exec_cvtT h hsound ⟨hsource, htarget, hrows, hzero, hmode, hread, hwritten, hapart⟩
  · intro r hrun hvec hfree herror hnan htracker hwait hgrant htoken
    obtain ⟨t, subs, hexec, hcore⟩ := exec_vectorCompletion_sound hrun hsound hvec hfree herror hnan htracker hwait hgrant
    rw [Core.applyVector_untracked _ htracker, Core.completed, Core.tokens_counted (fieldOf_of_getLsbD htoken)] at hcore
    refine ⟨t, hexec, ?_⟩
    rw [hcore]
    exact ⟨rfl, rfl, rfl, rfl, rfl, Map.get_set_self ..⟩

end Sys2Proof.Machine
end

section
/-! # What an instruction of a group leaves

The branch, whose condition is its guard (R219), the step of a group and its core at an instruction's end (R209, R213), and the registers and
predicates of the lanes after a write (R206, R216). -/

namespace Sys2Proof.Machine

/-! ## Issue and end -/

/-- A branch that meets no trap is its body, on all lanes of the path: its guard is its condition (R219). -/
theorem groupRun_branch {s s' : State} {c : CoreId} {g : GroupId} {w : DWord} {x : Group} {p : Path} (h : GroupReady s c g w x p s')
    {mine : Nat → Bool} (hmine : mine (gOp w) = true) (hop : gOp w = 0x60) (body : State → Group → Path → BitVec 32 → State) :
    groupRun c g w mine s body = .next (body s' x p p.mask) := by
  obtain ⟨hrun, hx, hhead, hstart, hlive, hready, hrank, halign, hfetch, hstill, hlegal, -, -, hregs⟩ := h
  obtain ⟨rest, hring⟩ := List.head?_eq_some_iff.mp hhead
  obtain ⟨m, hcore⟩ := s.gSettle_core c.val g.val
  have hstart' : ((s.gSettle c.val g.val).core c.val).mayStart = true := hcore ▸ hstart
  have hsome : x.live ≠ 0#32 := hlive
  have hstrict : gStrict w = false := by simp [gStrict, hop]
  have hwide : gWide w = false := by simp [gWide, hop]
  have hheld : ((gSources w ++ gDests w).any (fun r => decide (((s.gSettle c.val g.val).core c.val).grpVregs ≤ r))) = false := by
    rw [hcore, List.any_eq_false]
    exact fun r hr => by simpa using hregs r hr
  unfold groupRun
  rw [gate_running hrun]
  dsimp only
  rw [if_pos hstart, ← hx]
  simp [hring, hstart', hsome, hready, hop ▸ hmine, hrank, halign, hfetch, hstill, hlegal, hstrict, hwide, hop, hheld]

theorem State.countSwitch_csr_only (s : State) (c : Nat) (b : Bool) : ∃ r, s.countSwitch c b = { s with csr := r } := by
  unfold State.countSwitch
  split
  · exact s.inc64_frame ..
  · exact ⟨_, rfl⟩

section
variable (s : State) (c g : Nat) (w : DWord) (old new : Group)

theorem State.gIssued_core (switched : Bool) : (s.gIssued c g w old new switched).core c =
    { s.core c with groups := (s.core c).groups.set Group.reset g { new with promoted := false } } := by
  rw [State.gIssued, State.setGroup, State.modCore, State.core_setCore]
  simp

/-- An instruction that has issued changes its group, and beside it the counters alone (R209, Tables 6-11 and 7-7). -/
theorem State.gIssued_step (switched : Bool) : GroupStep s (s.gIssued c g w old new switched) c g new := by
  refine ⟨?_, ?_, fun h hne => ?_, fun d hd => ?_⟩
  · rw [State.gIssued_core]
    exact Map.get_set_self ..
  · unfold State.gIssued State.setGroup State.modCore State.setCore
    dsimp only
    obtain ⟨r, hr⟩ := State.countSwitch_csr_only _ c switched
    rw [hr]
    simp only [State.inc64, State.wr64, State.wr]
  · rw [State.gIssued_core]
    exact Map.get_set_ne _ _ _ _ _ _ hne
  · rw [State.gIssued, State.setGroup, State.modCore, State.core_setCore_ne _ _ _ _ hd]
    simp

theorem State.gNext_step : GroupStep s (s.gNext c g w old new) c g new.advance := s.gIssued_step ..

end

/-- The current path of a ring, advanced by one instruction. -/
theorem Group.advance_of_ring {x : Group} {p : Path} {rest : List Path} (h : x.ring = p :: rest) :
    x.advance = { x with ring := { p with pc := p.pc + 8 } :: rest } := by
  simp [Group.advance, Group.modPath, h]

section
variable {s s' : State} {c : CoreId} {g : GroupId} {w : DWord} {x : Group} {p : Path}

theorem GroupReady.ring_eq (h : GroupReady s c g w x p s') : x.ring = p :: x.ring.tail := (List.eq_cons_of_mem_head? h.ring_head)

/-- An instruction that writes registers alone leaves its path advanced. -/
theorem GroupReady.head_advance (h : GroupReady s c g w x p s') {y : Group} (hring : y.ring = x.ring) :
    y.advance.ring.head? = some { p with pc := p.pc + 8 } := by
  rw [Group.advance_of_ring (hring.trans h.ring_eq)]
  rfl

theorem GroupReady.tail_advance (h : GroupReady s c g w x p s') {y : Group} (hring : y.ring = x.ring) : y.advance.ring.tail = x.ring.tail := by
  rw [Group.advance_of_ring (hring.trans h.ring_eq)]
  rfl

end

/-! ## Vector registers -/

theorem Map.get_foldl_set_ne {α : Type} [DecidableEq α] (d : α) (r : Nat) (f : Nat → α) {ls : List Nat} {k : Nat} (hk : ∀ i ∈ ls, k ≠ r + i) (m : Map α) :
    (ls.foldl (fun m i => m.set d (r + i) (f i)) m).get d k = m.get d k := by
  induction ls generalizing m with
  | nil => rfl
  | cons i ls ih =>
    rw [List.foldl_cons, ih (fun j hj => hk j (List.mem_cons_of_mem _ hj)), Map.get_set_ne _ _ _ _ _ _ (hk i List.mem_cons_self)]

theorem lt_of_mem_lanesOf {m : BitVec 32} {l : Nat} (h : l ∈ lanesOf m) : l < 32 := List.mem_range.mp (List.mem_of_mem_filter h)

section
variable (x : Group) (e : Nat) (na : Bool) (lanes : BitVec 32) (r : Nat) (f : Nat → Word)

/-- A write of a vector register changes the registers and the register cache alone (R213). -/
theorem Group.setV_frame : ∃ v cache, x.setV e na lanes r f = { x with v := v, cache := cache } := by
  unfold Group.setV Group.cacheWrite
  split
  · exact ⟨_, _, rfl⟩
  · dsimp only
    split <;> exact ⟨_, _, rfl⟩

@[simp] theorem Group.u_setV : (x.setV e na lanes r f).u = x.u := by
  obtain ⟨v, cache, h⟩ := x.setV_frame e na lanes r f
  rw [h]

@[simp] theorem Group.p_setV : (x.setV e na lanes r f).p = x.p := by
  obtain ⟨v, cache, h⟩ := x.setV_frame e na lanes r f
  rw [h]

theorem Group.vreg_setV_ne {r' l : Nat} (hne : r' ≠ r) (hl : l < 32) : (x.setV e na lanes r f).vreg r' l = x.vreg r' l := by
  by_cases hr : r = 255
  · simp [Group.setV, hr]
  have hv : (x.setV e na lanes r f).v = (lanesOf lanes).foldl (fun m i => m.set 0 (r * 32 + i) (f i)) x.v := by
    simp only [Group.setV, hr, if_false, Group.cacheWrite]
    split <;> rfl
  have hkey : ∀ i ∈ lanesOf lanes, r' * 32 + l ≠ r * 32 + i := fun i hi => by
    have := lt_of_mem_lanesOf hi
    omega
  rw [Group.vreg, Group.vreg, hv, Map.get_foldl_set_ne 0 (r * 32) f hkey]

variable {w : DWord}

/-- Without UD a result goes to VD (R216). -/
theorem Group.result_vector (hud : gUD w = false) : x.result e w lanes f = x.setV e (gNA w) lanes (gVD w) f := by
  simp [Group.result, hud]

/-- With UD the result of the lowest executing lane goes to a uniform register (R216). -/
theorem Group.result_uniform (hud : gUD w = true) {l : Nat} (hl : (lanesOf lanes).head? = some l) :
    x.result e w lanes f = { x with u := x.u.set 0 (gVD w % 64) (f l) } := by
  obtain ⟨rest, hrest⟩ := List.head?_eq_some_iff.mp hl
  simp [Group.result, hud, hrest]

end

/-! ## Predicates -/

theorem getLsbD_foldl_or_bits (ls : List Nat) (m : BitVec 32) {l : Nat} (hl : l < 32) :
    (ls.foldl (fun m i => m ||| BitVec.ofNat 32 (2 ^ i)) m).getLsbD l = (m.getLsbD l || decide (l ∈ ls)) := by
  induction ls generalizing m with
  | nil => simp
  | cons i ls ih =>
    rw [List.foldl_cons, ih, BitVec.getLsbD_or, BitVec.getLsbD_ofNat, Nat.testBit_two_pow]
    simp [hl, Bool.or_assoc, eq_comm (a := i)]

/-- A mask of lanes holds the lanes it is made of. -/
theorem getLsbD_maskOf (ls : List Nat) {l : Nat} (hl : l < 32) : (maskOf ls).getLsbD l = decide (l ∈ ls) :=
  (getLsbD_foldl_or_bits ls 0 hl).trans (by simp)

section
variable (x : Group) {n : Nat} (lanes : BitVec 32) (val : BitVec 32)

@[simp] theorem Group.ring_setPred : (x.setPred n lanes val).ring = x.ring := by
  unfold Group.setPred
  split <;> rfl

/-- A write of a predicate changes the predicates alone. -/
theorem Group.setPred_frame : { x.setPred n lanes val with p := x.p } = x := by
  unfold Group.setPred
  split <;> rfl

theorem Group.pred_setPred (hn : n ≠ 0) : (x.setPred n lanes val).pred n = (x.pred n &&& ~~~ lanes) ||| (val &&& lanes) := by
  simp [Group.setPred, Group.pred, hn]

/-- A predicate that takes the lanes for which a condition holds reads the condition in the executing lanes, and is as before in the others. -/
theorem Group.getLsbD_setPred_filter (hn : n ≠ 0) (b : Nat → Bool) {l : Nat} (hl : l < 32) :
    ((x.setPred n lanes (maskOf ((lanesOf lanes).filter b))).pred n).getLsbD l = if lanes.getLsbD l then b l else (x.pred n).getLsbD l := by
  rw [Group.pred_setPred _ _ _ hn, BitVec.getLsbD_or, BitVec.getLsbD_and, BitVec.getLsbD_and, BitVec.getLsbD_not, getLsbD_maskOf _ hl]
  cases hexec : lanes.getLsbD l <;> simp [hl, mem_lanesOf, hexec]

end

/-! ## The outcomes of instructions that write one register or one predicate -/

section
variable {s s' u : State} {c : CoreId} {g : GroupId} {w : DWord} {x : Group} {p : Path} {o : Outcome} {lanes : BitVec 32}

/-- An instruction that writes its lanes' values to a vector register and goes on. -/
theorem GroupReady.writesVector (h : GroupReady s c g w x p s') {e r : Nat} {na : Bool} {f : Nat → Word} (hr : r ≠ 255)
    (ho : o = .next (u.gNext c.val g.val w x (x.setV e na lanes r f))) : ∃ t : State, o = .next t ∧
      ((t.core c.val).group g.val).ring.head? = some { p with pc := p.pc + 8 } ∧
      ∀ l, l < 32 → ((t.core c.val).group g.val).vreg r l = if lanes.getLsbD l then f l else x.vreg r l := by
  refine ⟨_, ho, ?_, fun l hl => ?_⟩
  · rw [State.gNext_group]
    exact h.head_advance (Group.ring_setV ..)
  · rw [State.gNext_group]
    exact Group.vreg_setV x e na lanes hr f hl

/-- An instruction that writes a condition of its lanes to a predicate and goes on. -/
theorem writesPredicate {n : Nat} {b : Nat → Bool} (hn : n ≠ 0)
    (ho : o = .next (u.gNext c.val g.val w x (x.setPred n lanes (maskOf ((lanesOf lanes).filter b))))) : ∃ t : State, o = .next t ∧
      { (t.core c.val).group g.val with p := x.p } = { x.advance with promoted := false } ∧
      ∀ l, l < 32 → (((t.core c.val).group g.val).pred n).getLsbD l = if lanes.getLsbD l then b l else (x.pred n).getLsbD l := by
  refine ⟨_, ho, ?_, fun l hl => ?_⟩
  · rw [State.gNext_group]
    exact congrArg (fun y : Group => { y.advance with promoted := false }) (x.setPred_frame lanes _)
  · rw [State.gNext_group]
    exact Group.getLsbD_setPred_filter x lanes hn b hl

end

end Sys2Proof.Machine
end

section
/-! # Integer, predicate and lane instructions of a group

Each instruction by its equation: the registers or the predicate that it writes, of the lanes its guard selects (R216, R217, R226, Table 7-4). -/

namespace Sys2Proof.Machine

/-! ## The instructions -/

section
variable {s s' : State} {c : CoreId} {g : GroupId} {w : DWord} {x : Group} {p : Path}

/-- A two-operand integer instruction (R217). -/
theorem exec_groupIntOp (h : GroupReady s c g w x p s') (hop : gOp w ≤ 0x0B) : exec (.groupIntOp c g w) s =
    .next (s'.gNext c.val g.val w x (x.result (s'.core c.val).rcEntries w (x.guard w p.mask) (fun l => gInt (gOp w) (x.va w 0 l) (x.vreg (gVB w) l)))) := by
  change execGroupIntOp c g w s = _
  rw [execGroupIntOp, groupRun_ready h (by simp; omega) (by omega)]
  simp only [show gOp w ≠ 0x0F by omega, show gOp w ≠ 0x0C by omega, show gOp w ≠ 0x0D by omega, show gOp w ≠ 0x0E by omega, if_false]

/-- SETP on signed integers (R217). -/
theorem exec_setp_signed (h : GroupReady s c g w x p s') (hop : gOp w = 0x42) : ∃ u : State, exec (.setp c g w) s =
    .next (u.gNext c.val g.val w x (x.setPred (gVD w % 8) (x.guard w p.mask) (maskOf ((lanesOf (x.guard w p.mask)).filter
      (fun l => cmpHolds (gFN w % 8) (some (compare (x.va w 0 l).toInt (x.vreg (gVB w) l).toInt))))))) := by
  change ∃ u : State, execSetp c g w s = _
  rw [execSetp, groupRun_ready h (by simp [hop]) (by simp [hop])]
  simp only [hop, show ¬ (0x42 = 0x41) by decide, if_false, BitVec.ofNat_toNat, BitVec.setWidth_eq]
  exact ⟨_, rfl⟩

/-- POP (R217). -/
theorem exec_pop (h : GroupReady s c g w x p s') (hop : gOp w = 0x44) : exec (.pop c g w) s =
    .next (s'.gNext c.val g.val w x (x.setPred (gVD w % 8) (x.guard w p.mask) (maskOf ((lanesOf (x.guard w p.mask)).filter
      (fun l => bitAt (gFN w) (2 * b2n ((x.pred (gVA w % 8)).getLsbD l) + b2n ((x.pred (gVB w % 8)).getLsbD l))))))) := by
  change execPop c g w s = _
  rw [execPop, groupRun_ready h (by simp [hop]) (by simp [hop])]

/-- G.VOTE ballot (R226). -/
theorem exec_gVote_ballot (h : GroupReady s c g w x p s') (hop : gOp w = 0x70) (hfn : gFN w = 2) : exec (.gVote c g w) s =
    .next (s'.gNext c.val g.val w x { x with u := x.u.set 0 (gVD w % 64) (x.pred (gVA w % 8) &&& x.live) }) := by
  change execGVote c g w s = _
  rw [execGVote, groupRun_ready h (by simp [hop]) (by simp [hop])]
  simp only [hfn, if_true]

/-- G.SHFL by lane number (R226). -/
theorem exec_gShfl_lane (h : GroupReady s c g w x p s') (hop : gOp w = 0x71) (hfn : gFN w = 0) (hud : gUD w = false) : exec (.gShfl c g w) s =
    .next (s'.gNext c.val g.val w x (x.setV (s'.core c.val).rcEntries (gNA w) (x.guard w p.mask) (gVD w)
      (fun l => x.va w 0 ((x.vreg (gVB w) l).toNat % 32)))) := by
  change execGShfl c g w s = _
  rw [execGShfl, groupRun_ready h (by simp [hop]) (by simp [hop])]
  simp only [hfn, shflLane, Group.result_vector _ _ _ _ hud]

/-- The live lanes that a predicate selects, ascending (R226). -/
def selectedLanes (x : Group) (w : DWord) : List Nat := lanesOf (x.pred (gVB w % 8) &&& x.live)

/-- What G.COMPACT gives a lane: the value of the selected lane of that rank (R226). -/
def packedLane (x : Group) (w : DWord) (l : Nat) : Word := match (selectedLanes x w)[l]? with | some j => x.va w 0 j | none => 0

/-- G.COMPACT (R226). -/
theorem exec_gCompact (h : GroupReady s c g w x p s') (hop : gOp w = 0x72) (hud : gUD w = false) : exec (.gCompact c g w) s =
    .next (s'.gNext c.val g.val w x { x.setV (s'.core c.val).rcEntries (gNA w) (BitVec.allOnes 32) (gVD w) (packedLane x w) with
      u := x.u.set 0 (gVC w % 64) (BitVec.ofNat 32 (selectedLanes x w).length) }) := by
  change execGCompact c g w s = _
  rw [execGCompact, groupRun_ready h (by simp [hop]) (by simp [hop])]
  simp only [Group.result_vector _ _ _ _ hud, Group.u_setV]
  rfl

/-- G.EXPAND (R226). -/
theorem exec_gExpand (h : GroupReady s c g w x p s') (hop : gOp w = 0x73) (hud : gUD w = false) : exec (.gExpand c g w) s =
    .next (s'.gNext c.val g.val w x (x.setV (s'.core c.val).rcEntries (gNA w) (x.guard w p.mask) (gVD w)
      (fun l => if (selectedLanes x w).contains l then x.va w 0 ((selectedLanes x w).idxOf l) else 0))) := by
  change execGExpand c g w s = _
  rw [execGExpand, groupRun_ready h (by simp [hop]) (by simp [hop])]
  simp only [Group.result_vector _ _ _ _ hud]
  rfl

end

/-! ## The statement -/

/-- Settles O22: each instruction by its equation, and what its write leaves in the group. -/
theorem groupIntegerAndLanes : Obligations.GroupIntegerAndLanes := by
  intro s s' c g w x p hready
  dsimp only
  refine ⟨fun hop hud hvd => ?_, fun hop hud l hl => ?_, fun hop hvd => ?_, fun hop hvd => ?_, fun hop hfn => ?_, fun hop hfn hud hvd => ?_,
    fun hop hud hvd => ?_, fun hop hud hvd => ?_⟩
  · have hexec := exec_groupIntOp hready hop
    rw [Group.result_vector _ _ _ _ hud] at hexec
    refine ⟨_, _, hexec, State.gNext_step .., ?_, ?_, fun l hl => ?_, fun r l hr hl => ?_, ?_, ?_⟩
    · exact hready.head_advance (Group.ring_setV ..)
    · exact hready.tail_advance (Group.ring_setV ..)
    · exact Group.vreg_setV x _ _ _ hvd _ hl
    · exact Group.vreg_setV_ne x _ _ _ _ _ hr hl
    · exact Group.u_setV ..
    · exact Group.p_setV ..
  · have hexec := exec_groupIntOp hready hop
    rw [Group.result_uniform _ _ _ _ hud hl] at hexec
    refine ⟨_, _, hexec, State.gNext_step .., ?_, ?_, fun r hr => ?_, rfl, rfl⟩
    · exact hready.head_advance rfl
    · exact Map.get_set_self ..
    · exact Map.get_set_ne _ _ _ _ _ _ hr
  · obtain ⟨u, hexec⟩ := exec_setp_signed hready hop
    exact writesPredicate hvd hexec
  · exact writesPredicate hvd (exec_pop hready hop)
  · refine ⟨_, exec_gVote_ballot hready hop hfn, ?_, ?_⟩ <;> rw [State.gNext_group]
    · exact Map.get_set_self ..
    · rfl
  · obtain ⟨t, hexec, -, hregs⟩ := hready.writesVector hvd (exec_gShfl_lane hready hop hfn hud)
    exact ⟨t, hexec, hregs⟩
  · refine ⟨_, exec_gCompact hready hop hud, ?_, fun l hl => ?_⟩ <;> rw [State.gNext_group]
    · exact Map.get_set_self ..
    · refine (Group.vreg_setV x _ _ _ hvd (packedLane x w) hl).trans (if_pos ?_)
      rw [BitVec.getLsbD_allOnes]
      exact decide_eq_true hl
  · obtain ⟨t, hexec, -, hregs⟩ := hready.writesVector hvd (exec_gExpand hready hop hud)
    refine ⟨t, hexec, fun l hl hexecutes => ?_⟩
    rw [hregs l hl, if_pos hexecutes]
    exact if_congr (List.contains_iff_mem.trans (mem_lanesOf hl)) rfl rfl

end Sys2Proof.Machine
end

section
/-! # Floating-point, conversion, matrix and tile-register instructions of a group

Each instruction by its equation. What an arithmetic instruction does beside its registers, to the flags and the record of a NaN (R211, R255), stays
a state of which only the core's group is read; the lanes of a matrix word are all lanes (R225). -/

namespace Sys2Proof.Machine

/-! ## The results of the lanes -/

/-- The result of a lane, among the results of the executing lanes. -/
def laneResult (ls : List Nat) (f : Nat → FRes) (l : Nat) : FRes :=
  (((ls.map (fun l => (l, f l))).find? (fun r => r.1 == l)).map (·.2)).getD (plain 0)

theorem laneResult_of_mem {ls : List Nat} (f : Nat → FRes) {l : Nat} (hl : l ∈ ls) : laneResult ls f l = f l := by
  unfold laneResult
  induction ls with
  | nil => exact absurd hl List.not_mem_nil
  | cons i ls ih =>
    by_cases hi : i = l
    · simp [hi]
    · simpa [hi] using ih ((List.mem_cons.mp hl).resolve_left (Ne.symm hi))

/-- A write of a vector register takes the values of the executing lanes alone. -/
theorem Group.setV_congr (x : Group) (e : Nat) (na : Bool) {lanes : BitVec 32} (r : Nat) {f f' : Nat → Word} (h : ∀ l ∈ lanesOf lanes, f l = f' l) :
    x.setV e na lanes r f = x.setV e na lanes r f' := by
  rw [Group.setV, Group.setV, List.foldl_ext _ _ _ (fun m l hl => by rw [h l hl])]

/-- The results of the executing lanes, written to VD. -/
theorem Group.result_lanes (x : Group) (e : Nat) {w : DWord} (lanes : BitVec 32) (f : Nat → FRes) (hud : gUD w = false) :
    x.result e w lanes (fun l => BitVec.ofNat 32 (laneResult (lanesOf lanes) f l).bits) =
      x.setV e (gNA w) lanes (gVD w) (fun l => BitVec.ofNat 32 (f l).bits) := by
  rw [Group.result_vector _ _ _ _ hud]
  exact x.setV_congr e _ _ (fun l hl => by rw [laneResult_of_mem f hl])

/-! ## Arithmetic and comparison -/

section
variable {s s' : State} {c : CoreId} {g : GroupId} {w : DWord} {x : Group} {p : Path}

/-- An FP32 instruction of OP 0x10 to 0x15 (R211, R217). -/
theorem exec_groupFpOp_fp32 (h : GroupReady s c g w x p s') (hlo : 0x10 ≤ gOp w) (hhi : gOp w ≤ 0x15) (hud : gUD w = false) :
    ∃ u : State, exec (.groupFpOp c g w) s = .next (u.gNext c.val g.val w x (x.setV (s'.core c.val).rcEntries (gNA w) (x.guard w p.mask) (gVD w)
      (fun l => BitVec.ofNat 32 (gFloat fp32 ((s'.core c.val).gMode w) (gOp w % 16) (gFN w % 16) (s'.fresh + l) (x.va w 0 l).toNat
        (x.vreg (gVB w) l).toNat (x.vreg (gVC w) l).toNat).bits))) := by
  have hknown : gKnown (gOp w) = true := by simp [gKnown, show gOp w ≤ 0x18 by omega]
  change ∃ u : State, execGroupFpOp c g w s = _
  rw [execGroupFpOp, groupRun_ready h (by simp [hknown]; omega) (by omega), ← Group.result_lanes x _ _ _ hud]
  simp only [show gOp w / 16 = 1 by omega, show ¬ (1 = 2) by decide, show ¬ (1 = 3) by decide, if_false]
  exact ⟨_, rfl⟩

/-- CVT between 32-bit types, not stochastic (R244 to R252). -/
theorem exec_cvt_word (h : GroupReady s c g w x p s') (hop : gOp w = 0x45) (hsrc : gFN w / 16 ≠ 8) (hdst : gFN w % 16 ≠ 8)
    (hsto : bitAt (gVC w) 0 = false) (hud : gUD w = false) :
    ∃ u : State, exec (.cvt c g w) s = .next (u.gNext c.val g.val w x (x.setV (s'.core c.val).rcEntries (gNA w) (x.guard w p.mask) (gVD w)
      (fun l => BitVec.ofNat 32 (cvtTy (tyOf (gFN w / 16)) (tyOf (gFN w % 16)) ((s'.core c.val).gMode w).strict ((s'.core c.val).gMode w).rm
        (bitAt (gVC w) 1) (x.va w 0 l).toNat).bits))) := by
  change ∃ u : State, execCvt c g w s = _
  rw [execCvt, groupRun_ready h (by simp [hop]) (by simp [hop]), ← Group.result_lanes x _ _ _ hud]
  simp only [hsrc, hdst, hsto, if_false, Bool.false_eq_true]
  exact ⟨_, rfl⟩

/-- SETP on FP32 (R217). -/
theorem exec_setp_fp32 (h : GroupReady s c g w x p s') (hop : gOp w = 0x40) : ∃ u : State, exec (.setp c g w) s =
    .next (u.gNext c.val g.val w x (x.setPred (gVD w % 8) (x.guard w p.mask) (maskOf ((lanesOf (x.guard w p.mask)).filter
      (fun l => cmpHolds (gFN w % 8) ((fp32.operand ((s'.core c.val).gMode w) (x.va w 0 l).toNat).cmp
        (fp32.operand ((s'.core c.val).gMode w) (x.vreg (gVB w) l).toNat))))))) := by
  change ∃ u : State, execSetp c g w s = _
  rw [execSetp, groupRun_ready h (by simp [hop]) (by simp [hop])]
  simp only [hop, show ¬ (0x40 = 0x41) by decide, if_false]
  exact ⟨_, rfl⟩

/-! ## G.MMA -/

/-- The BF16 number of a half of a register. -/
def halfNat (v : Word) (j : Nat) : Nat := if j % 2 = 0 then v.toNat % 65536 else v.toNat / 65536

/-- Element `j` of the lane's part of the BF16 product with the accumulator (R227). -/
def mmaBf16 (x : Group) (w : DWord) (l j : Nat) : FRes :=
  gmmaElement fp32 ((List.range 16).map (fun n => (halfNat (x.va w (n % 8 / 2) (l % 16 + 16 * (n / 8))) (n % 8),
    halfNat (x.vreg (gVB w + n % 8 / 2) (8 * (l / 16) + j + 16 * (n / 8))) (n % 8)))) (x.vreg (gVD w + j) l).toNat bf16

/-- The registers of a block, each with its values, written in their order. -/
def Group.setBlock (x : Group) (e : Nat) (na : Bool) (lanes : BitVec 32) (r : Nat) (f : Nat → Nat → Word) (js : List Nat) : Group :=
  js.foldl (fun y j => y.setV e na lanes (r + j) (f j)) x

section
variable (e : Nat) (na : Bool) (lanes : BitVec 32) (r : Nat) (f : Nat → Nat → Word)

@[simp] theorem Group.ring_setBlock (y : Group) (js : List Nat) : (y.setBlock e na lanes r f js).ring = y.ring :=
  foldl_keeps (fun z : Group => z.ring = y.ring) (fun _ _ hz => (Group.ring_setV ..).trans hz) rfl js

theorem Group.vreg_setBlock_ne (y : Group) {js : List Nat} {q l : Nat} (hq : ∀ j ∈ js, q ≠ r + j) (hl : l < 32) :
    (y.setBlock e na lanes r f js).vreg q l = y.vreg q l := by
  unfold Group.setBlock
  induction js generalizing y with
  | nil => rfl
  | cons i js ih =>
    rw [List.foldl_cons, ih _ (fun j hj => hq j (List.mem_cons_of_mem _ hj)), Group.vreg_setV_ne _ _ _ _ _ _ (hq i List.mem_cons_self) hl]

/-- A register of the block holds its values in the executing lanes. -/
theorem Group.vreg_setBlock (y : Group) {js : List Nat} (hjs : js.Nodup) {j l : Nat} (hj : j ∈ js) (hreg : r + j ≠ 255) (hl : l < 32)
    (hexec : lanes.getLsbD l = true) : (y.setBlock e na lanes r f js).vreg (r + j) l = f j l := by
  induction js generalizing y with
  | nil => exact absurd hj List.not_mem_nil
  | cons i js ih =>
    obtain ⟨hi, hjs⟩ := List.nodup_cons.mp hjs
    change ((y.setV e na lanes (r + i) (f i)).setBlock e na lanes r f js).vreg (r + j) l = f j l
    by_cases hij : j = i
    · subst hij
      rw [Group.vreg_setBlock_ne _ _ _ _ _ _ (fun k hk hkj => hi (by rwa [Nat.add_left_cancel hkj])) hl, Group.vreg_setV _ _ _ _ hreg _ hl, if_pos hexec]
    · exact ih _ hjs ((List.mem_cons.mp hj).resolve_left hij)

end

/-- The lanes of a matrix word are all lanes (R216, R225). -/
theorem GroupReady.matrix_lanes (h : GroupReady s c g w x p s') (hop : gOp w = 0x74) : x.guard w p.mask = BitVec.allOnes 32 := by
  obtain ⟨-, -, -, -, -, -, -, -, -, -, hlegal, -, hwide, -⟩ := h
  obtain ⟨hmask, hall⟩ := hwide (by simp [gWide, hop])
  have hunguarded : gPG w = 0 ∧ gPN w = false := by
    simp only [gLegal, hop, Bool.and_eq_true] at hlegal
    obtain ⟨⟨⟨⟨-, hguard⟩, -⟩, -⟩, -⟩ := hlegal
    simpa using hguard
  simp [Group.guard, hunguarded, Group.pred, hmask, hall hop]

/-- G.MMA on BF16 (R227). -/
theorem exec_gMma_bf16 (h : GroupReady s c g w x p s') (hop : gOp w = 0x74) (hfn : gFN w = 0) : ∃ (u : State) (f : Nat → Nat → Word),
    (∀ j l, j < 8 → l < 32 → f j l = BitVec.ofNat 32 (mmaBf16 x w l j).bits) ∧ exec (.gMma c g w) s =
    .next (u.gNext c.val g.val w x (x.setBlock (s'.core c.val).rcEntries (gNA w) (x.guard w p.mask) (gVD w) f (List.range 8))) := by
  change ∃ (u : State) (f : Nat → Nat → Word), _ ∧ execGMma c g w s = _
  rw [execGMma, groupRun_ready h (by simp [hop]) (by simp [hop])]
  simp only [hfn, show ¬ (0 = 2) by decide, show ¬ (0 = 1) by decide, if_false]
  refine ⟨_, _, fun j l hj hl => ?_, rfl⟩
  simp [hj, hl, mmaBf16, halfNat]

/-! ## Tile registers -/

/-- No element of the tile register that a word names is in use by a tile instruction (R235). -/
def TileFree (s : State) (c : Nat) (w : DWord) : Prop := ∀ m n, (s.core c).tileBusy (s.quartered c) (gFN w % 16) m n = false

/-- A lane's write of the element it names (R235). -/
def Core.tileWrite (k : Core) (x : Group) (w : DWord) (l : Nat) : Core :=
  { k with tiles := k.tiles.set 0 (tileKey (gFN w % 16) (x.element w l).1 (x.element w l).2) (x.vreg (gVC w) l) }

/-- The tile registers once the lanes have written their elements in their order (R235). -/
def tileWrites (x : Group) (w : DWord) (ls : List Nat) (tiles : Map Word) : Map Word :=
  ls.foldl (fun m l => m.set 0 (tileKey (gFN w % 16) (x.element w l).1 (x.element w l).2) (x.vreg (gVC w) l)) tiles

theorem State.gTile_read (hfree : TileFree s c.val w) (ls : List Nat) : s.gTile c.val w x ls false = s := by
  refine foldl_keeps (fun t => t = s) (fun t l ht => ?_) rfl ls
  subst ht
  simp [hfree _ _]

/-- Writes to elements that no tile instruction uses change the core's tile registers alone. -/
theorem State.gTile_write_core (hfree : TileFree s c.val w) (ls : List Nat) :
    (s.gTile c.val w x ls true).core c.val = { s.core c.val with tiles := tileWrites x w ls (s.core c.val).tiles } := by
  induction ls generalizing s with
  | nil => rfl
  | cons l ls ih =>
    have hcore : (s.modCore c.val (·.tileWrite x w l)).core c.val = (s.core c.val).tileWrite x w l := State.core_setCore ..
    have hfree' : TileFree (s.modCore c.val (·.tileWrite x w l)) c.val w := fun m n => by
      rw [hcore]
      exact hfree m n
    have hstep : s.gTile c.val w x (l :: ls) true = (s.modCore c.val (·.tileWrite x w l)).gTile c.val w x ls true := by
      simp only [State.gTile, overList, List.foldl_cons, hfree _ _, Bool.false_eq_true, if_false, if_true]
      rfl
    rw [hstep, ih hfree', hcore]
    rfl

/-- G.TLD of a tile register that no tile instruction uses (R235). -/
theorem exec_gTld_free (h : GroupReady s c g w x p s') (hop : gOp w = 0x80) (hud : gUD w = false) (hfree : TileFree s' c.val w) : exec (.gTld c g w) s =
    .next (s'.gNext c.val g.val w x (x.setV (s'.core c.val).rcEntries (gNA w) (x.guard w p.mask) (gVD w)
      (fun l => (s'.core c.val).tile (gFN w % 16) (x.element w l).1 (x.element w l).2))) := by
  change execGTld c g w s = _
  rw [execGTld, groupRun_ready h (by simp [hop]) (by simp [hop])]
  simp only [State.gTile_read hfree, Group.result_vector _ _ _ _ hud]

/-- G.TST (R235). -/
theorem exec_gTst (h : GroupReady s c g w x p s') (hop : gOp w = 0x81) : exec (.gTst c g w) s =
    .next ((s'.gTile c.val w x (lanesOf (x.guard w p.mask)) true).gNext c.val g.val w x x) := by
  change execGTst c g w s = _
  rw [execGTst, groupRun_ready h (by simp [hop]) (by simp [hop])]

end

/-! ## The statement -/

/-- Settles O23: each instruction by its equation, and what its write leaves in the group or in the core's tile registers. -/
theorem groupFloatAndTile : Obligations.GroupFloatAndTile := by
  intro s s' c g w x p hready
  dsimp only
  refine ⟨fun hlo hhi hud hvd => ?_, fun hop hsrc hdst hsto hud hvd => ?_, fun hop hvd => ?_, fun hop hfn hvd => ?_, fun hop hud hvd hfree => ?_,
    fun hop hfree => ?_⟩
  · obtain ⟨u, hexec⟩ := exec_groupFpOp_fp32 hready hlo hhi hud
    exact hready.writesVector hvd hexec
  · obtain ⟨u, hexec⟩ := exec_cvt_word hready hop hsrc hdst hsto hud
    exact hready.writesVector hvd hexec
  · obtain ⟨u, hexec⟩ := exec_setp_fp32 hready hop
    obtain ⟨t, hnext, hrest, hpred⟩ := writesPredicate hvd hexec
    refine ⟨t, hnext, ?_, fun l hl hexecutes => (hpred l hl).trans (if_pos hexecutes)⟩
    exact (congrArg (fun y : Group => y.ring.head?) hrest).trans (hready.head_advance rfl)
  · obtain ⟨u, f, hf, hexec⟩ := exec_gMma_bf16 hready hop hfn
    refine ⟨_, hexec, ?_, fun l j hl hj => ?_⟩ <;> rw [State.gNext_group]
    · exact hready.head_advance (Group.ring_setBlock ..)
    · rw [hready.matrix_lanes hop]
      refine (Group.vreg_setBlock _ _ _ _ f x List.nodup_range (List.mem_range.mpr hj) (by omega) hl ?_).trans (hf j l hj hl)
      rw [BitVec.getLsbD_allOnes]
      exact decide_eq_true hl
  · have hexec := exec_gTld_free hready hop hud hfree
    refine ⟨_, hexec, ?_, ?_, fun l hl => ?_⟩
    · rw [State.gNext_group]
      exact hready.head_advance (Group.ring_setV ..)
    · rw [State.gNext_core]
    · rw [State.gNext_group]
      exact Group.vreg_setV x _ _ _ hvd _ hl
  · refine ⟨_, exec_gTst hready hop, State.gNext_group .., ?_⟩
    rw [State.gNext_core, State.gTile_write_core hfree]
    rfl

end Sys2Proof.Machine
end

section
/-! # Branches, barriers, waits and exits of a group

Each instruction by the group it leaves (R218 to R222, R228, R235), and the events that release the paths of a group or promote it (R209). -/

namespace Sys2Proof.Machine

/-! ## Paths -/

/-- A ring of one path that cannot issue has no other to turn to (R220). -/
theorem Group.settle_alone {y : Group} {q : Path} (hring : y.ring = [q]) (hq : q.state ≠ .ready) : y.settle = (y, false) := by
  simp [Group.settle, Group.turn, hring, hq]

/-- A group whose one path waits at the next instruction (R220, R228). -/
def Group.waits (x : Group) (p : Path) (st : PathState) : Group := { x with ring := [{ p with pc := p.pc + 8, state := st }] }

/-- The group whose one path begins to wait does not turn. -/
theorem Group.settle_waits {x : Group} {p : Path} (hring : x.ring = [p]) {st : PathState} (hst : st ≠ .ready) :
    (x.advance.modPath (fun q => { q with state := st })).settle = (x.waits p st, false) := by
  have hwaits : x.advance.modPath (fun q => { q with state := st }) = x.waits p st := by
    rw [Group.advance_of_ring hring]
    rfl
  rw [hwaits]
  exact Group.settle_alone rfl hst

/-! ## Instructions -/

section
variable {s s' : State} {c : CoreId} {g : GroupId} {w : DWord} {x : Group} {p : Path}

/-- An instruction that issues leaves its group, and beside it the counters alone. -/
theorem issued_steps {o : Outcome} {y : Group} {b : Bool} (ho : o = .next (s'.gIssued c.val g.val w x y b)) :
    ∃ t, o = .next t ∧ GroupStep s' t c.val g.val y := ⟨_, ho, s'.gIssued_step ..⟩

theorem GroupStep.pool {t : State} {n m : Nat} {y : Group} (h : GroupStep s t n m y) : t.pool = s.pool := by
  obtain ⟨-, hrest, -⟩ := h
  rw [← hrest]

/-- The group after a branch (R219): its path goes on where no lane takes it, moves where all do, and else splits in two. -/
def Group.branched (x : Group) (w : DWord) (p : Path) : Group :=
  let t := x.guard w p.mask
  let target := p.pc + (gImm w).signExtend 64
  { x with ring :=
      if t = 0 then { p with pc := p.pc + 8 } :: x.ring.tail
      else if t = p.mask then { p with pc := target } :: x.ring.tail
      else { p with pc := p.pc + 8, mask := p.mask &&& ~~~ t } :: { pc := target, mask := t, state := .ready } :: x.ring.tail }

/-- G.BRA forward (R219, R220). -/
theorem exec_gBra_forward (h : GroupReady s c g w x p s') (hop : gOp w = 0x60) (hforward : (gImm w).toInt > 0) :
    exec (.gBra c g w) s = .next (s'.gIssued c.val g.val w x (x.branched w p) false) := by
  have hturn : ¬ (x.guard w p.mask ≠ 0 ∧ (gImm w).toInt ≤ 0) := by omega
  change execGBra c g w s = _
  rw [execGBra, groupRun_branch h (by simp [hop]) hop]
  simp only [hturn, if_false, Group.branched]
  obtain ⟨rest, hring⟩ := List.head?_eq_some_iff.mp h.ring_head
  by_cases hnone : x.guard w p.mask = 0
  · simp [hnone, hring, Group.advance, Group.modPath]
  by_cases hall : x.guard w p.mask = p.mask
  · rw [if_neg hnone, if_pos hall, if_neg hnone, if_pos hall, Group.modPath, hring]
    rfl
  · rw [if_neg hnone, if_neg hall, if_neg hnone, if_neg hall, Group.modPath, hring]
    rfl

/-- G.YIELD (R220). -/
theorem exec_gYield (h : GroupReady s c g w x p s') (hop : gOp w = 0x61) :
    exec (.gYield c g w) s = .next (s'.gIssued c.val g.val w x x.advance.turn.1 x.advance.turn.2) := by
  change execGYield c g w s = _
  rw [execGYield, groupRun_ready h (by simp [hop]) (by simp [hop])]

/-- G.CSET (R221). -/
theorem exec_gCset (h : GroupReady s c g w x p s') (hop : gOp w = 0x62) : exec (.gCset c g w) s =
    .next (s'.gNext c.val g.val w x { x with mask := x.mask.set 0 (gVD w % 4) p.mask, arrived := x.arrived.set 0 (gVD w % 4) 0 }) := by
  change execGCset c g w s = _
  rw [execGCset, groupRun_ready h (by simp [hop]) (by simp [hop])]

/-- G.CWAIT on an empty barrier (R221). -/
theorem exec_gCwait_empty (h : GroupReady s c g w x p s') (hop : gOp w = 0x63) (hempty : x.mask.get 0 (gVD w % 4) = 0) :
    exec (.gCwait c g w) s = .next (s'.gNext c.val g.val w x x) := by
  change execGCwait c g w s = _
  rw [execGCwait, groupRun_ready h (by simp [hop]) (by simp [hop])]
  simp only [hempty, if_true]

/-- G.EXIT of every live lane (R222). -/
theorem exec_gExit_all (h : GroupReady s c g w x p s') (hop : gOp w = 0x64) (hall : x.live &&& ~~~ x.guard w p.mask = 0) :
    exec (.gExit c g w) s = .next (s'.gIssued c.val g.val w x Group.reset false) := by
  change execGExit c g w s = _
  rw [execGExit, groupRun_ready h (by simp [hop]) (by simp [hop])]
  simp only [hall, if_true]

/-- G.BAR of a group of one path (R228). -/
theorem exec_gBar_alone (h : GroupReady s c g w x p s') (hop : gOp w = 0x65) (hring : x.ring = [p]) :
    exec (.gBar c g w) s = .next (s'.gIssued c.val g.val w x (x.waits p .barWait) false) := by
  change execGBar c g w s = _
  rw [execGBar, groupRun_ready h (by simp [hop]) (by simp [hop])]
  simp only [Group.settle_waits hring (st := .barWait) (by simp)]

/-- G.TKWAIT on a reached counter (R235). -/
theorem exec_gTkwait_reached (h : GroupReady s c g w x p s') (hop : gOp w = 0x66)
    (hreached : (s'.core c.val).reached (gVD w % 32) (x.u.get 0 (gVA w % 64)) = true) : exec (.gTkwait c g w) s = .next (s'.gNext c.val g.val w x x) := by
  change execGTkwait c g w s = _
  rw [execGTkwait, groupRun_ready h (by simp [hop]) (by simp [hop])]
  simp only [hreached, if_true]

/-- G.TKWAIT of a group of one path, on a counter not reached (R220, R235). -/
theorem exec_gTkwait_waits (h : GroupReady s c g w x p s') (hop : gOp w = 0x66)
    (hreached : (s'.core c.val).reached (gVD w % 32) (x.u.get 0 (gVA w % 64)) = false) (hring : x.ring = [p]) : exec (.gTkwait c g w) s =
    .next (s'.gIssued c.val g.val w x (x.waits p (.tkWait (gVD w % 32) (x.u.get 0 (gVA w % 64)))) false) := by
  change execGTkwait c g w s = _
  rw [execGTkwait, groupRun_ready h (by simp [hop]) (by simp [hop])]
  simp only [hreached, Bool.false_eq_true, if_false, Group.settle_waits hring (st := .tkWait _ _) (by simp)]

/-- A token posted on a counter: DONE and EXPECT advance (R235). -/
def Core.posted (k : Core) (tk : Nat) : Core :=
  { k with tkDone := k.tkDone.set 0 tk (k.tkDone.get 0 tk + 1), tkExpect := k.tkExpect.set 0 tk (k.tkExpect.get 0 tk + 1) }

/-- G.TKPOST (R235). -/
theorem exec_gTkpost (h : GroupReady s c g w x p s') (hop : gOp w = 0x67) :
    exec (.gTkpost c g w) s = .next ((s'.modCore c.val (fun k => k.posted (gVD w % 32))).gNext c.val g.val w x x) := by
  change execGTkpost c g w s = _
  rw [execGTkpost, groupRun_ready h (by simp [hop]) (by simp [hop])]
  rfl

end

/-! ## Releases and promotion -/

section
variable {s : State} {c : CoreId} {g : GroupId} {x : Group} {p : Path}

/-- A written group, in the form of the statements: it reads as written, and nothing beside its core changes. -/
theorem setGroup_outcome {o : Outcome} {y : Group} (ho : o = .next (s.setGroup c.val g.val y)) :
    ∃ t : State, o = .next t ∧ (t.core c.val).group g.val = y ∧ OnlyCore s t c.val := by
  have hset : CoreTo s (s.setGroup c.val g.val y) c.val _ := (CoreTo.refl s c.val).modCore _
  refine ⟨_, ho, ?_, hset.only⟩
  rw [hset.core]
  exact Map.get_set_self ..

/-- G_BAR_RELEASE where the one live group has arrived (R228). -/
theorem exec_gBarRelease_alone (hrun : s.phase = .running) (hruns : (s.core c.val).runs = true) (hgroups : (s.core c.val).groups = ⟨[(g.val, x)]⟩)
    (hlive : x.live ≠ 0) (hring : x.ring = [p]) (hwaits : p.state = .barWait) :
    exec (.gBarRelease c) s = .next (s.setGroup c.val g.val { x with ring := [{ p with state := .ready }] }) := by
  have hgroup : (s.core c.val).group g.val = x := by simp [Core.group, hgroups, Map.get]
  have hcells : (s.core c.val).groups.cells.filter (fun y => y.2.live != 0) = [(g.val, x)] := by
    simpa [hgroups] using hlive
  change execGBarRelease c s = _
  rw [execGBarRelease, gate_running hrun]
  dsimp only
  rw [hcells]
  simp [hruns, Group.atBar, overList, hgroup, hring, hwaits]

/-- G_TKWAIT_RELEASE of a group of one path whose counter is reached (R235). -/
theorem exec_gTkwaitRelease_alone (hrun : s.phase = .running) {tk : Nat} {target : Word} (hring : ((s.core c.val).group g.val).ring = [p])
    (hwaits : p.state = .tkWait tk target) (hreached : (s.core c.val).reached tk target = true) :
    exec (.gTkwaitRelease c g) s = .next (s.setGroup c.val g.val { (s.core c.val).group g.val with ring := [{ p with state := .ready }] }) := by
  change execGTkwaitRelease c g s = _
  rw [execGTkwaitRelease, gate_running hrun]
  simp [hring, hwaits, hreached]

/-- GROUP_STARVATION_PROMOTION of a group with a ready path (R209). -/
theorem exec_groupStarvationPromotion_ready (hrun : s.phase = .running) (hlive : ((s.core c.val).group g.val).live ≠ 0)
    (hruns : (s.core c.val).runs = true) (hready : ((s.core c.val).group g.val).ring.any (fun p => p.state == .ready) = true) :
    exec (.groupStarvationPromotion c g) s = .next (s.setGroup c.val g.val { (s.core c.val).group g.val with promoted := true }) :=
  (gate_running hrun _).trans (congrArg _ (if_pos ⟨hlive, hruns, hready⟩))

end

/-! ## The statement -/

/-- Settles O25: each instruction by the group it leaves, and each release by the group it writes. -/
theorem groupControl : Obligations.GroupControl := by
  refine ⟨fun s s' c g w x p hready => ?_, fun s c g hrun => ?_⟩
  · dsimp only
    refine ⟨fun hop hforward => ?_, fun hop => issued_steps (exec_gYield hready hop), fun hop => issued_steps (exec_gCset hready hop),
      fun hop hempty => issued_steps (exec_gCwait_empty hready hop hempty), fun hop hall => ?_, fun hop hring => issued_steps (exec_gBar_alone hready hop hring),
      fun hop hreached => issued_steps (exec_gTkwait_reached hready hop hreached),
      fun hop hreached hring => issued_steps (exec_gTkwait_waits hready hop hreached hring), fun hop => ?_⟩
    · have hbranch := issued_steps (exec_gBra_forward hready hop hforward)
      refine ⟨fun hnone => ?_, fun hall hsome => ?_, fun hsome hrest => ?_⟩
      · rw [Group.advance_of_ring hready.ring_eq]
        simpa only [Group.branched, hnone, if_true] using hbranch
      · simpa only [Group.branched, hall, hsome, if_true, if_false] using hbranch
      · simpa only [Group.branched, hsome, hrest, if_false] using hbranch
    · refine ⟨_, exec_gExit_all hready hop hall, ?_, ?_⟩
      · rw [State.gIssued_core]
        exact Map.get_set_self ..
      · exact (s'.gIssued_step ..).pool
    · refine ⟨_, exec_gTkpost hready hop, State.gNext_group .., ?_, ?_⟩ <;> rw [State.gNext_core, State.modCore, State.core_setCore]
      · exact Map.get_set_self ..
      · exact Map.get_set_self ..
  · dsimp only
    refine ⟨fun p hruns hgroups hlive hring hwaits => ?_, fun p tk target hring hwaits hreached => ?_, fun hlive hruns hready => ?_⟩
    · exact setGroup_outcome (exec_gBarRelease_alone hrun hruns hgroups hlive hring hwaits)
    · exact setGroup_outcome (exec_gTkwaitRelease_alone hrun hring hwaits hreached)
    · exact setGroup_outcome (exec_groupStarvationPromotion_ready hrun hlive hruns hready)

end Sys2Proof.Machine
end

section
/-! # A NaN trap whose end lands a write that fences the core

NAN_TRAP ends the core's part of the kernel as ECALL does, and the end lands the running instructions first (R137, R256). In `flawedCore` the
landing write meets an uncorrectable Pantry error whose severity entry fences the core, and the fence ends the part with 0x105 before 0x114
is kept (R136, R475). -/

namespace Sys2Proof.Machine

/-- `flawedState` whose core has a NaN trap standing, its monitor handling no other trap. -/
def trappedState : State := { flawedState with cores := ⟨[(0, { flawedCore with nanTrap := true })]⟩ }

theorem trappedState_nanTrap : endsWithout 0 (exec (.nanTrap 0) trappedState) = true := by decide +kernel

/-- Refutes O21: NAN_TRAP in `trappedState` ends in a core without a kernel, as the fence of its last write has ended it. -/
theorem not_numericsWatch : ¬ Obligations.NumericsWatch := by
  intro h
  obtain ⟨htrap, -⟩ := h trappedState 0 rfl
  exact not_coreEnded_of_endsWithout trappedState_nanTrap (htrap 0 rfl rfl rfl rfl rfl)

end Sys2Proof.Machine
end

section
/-! # Runs of bytes and the pieces that a walk cuts them into

A run written, read back in part or left aside, and the 128-byte pieces in which the stream unit walks a run (R297). -/

namespace Sys2Proof.Machine

/-! ## Runs of bytes in a memory -/

theorem Map.setRun_append {α : Type} [DecidableEq α] (d : α) (m : Map α) (k : Nat) (xs ys : List α) :
    m.setRun d k (xs ++ ys) = (m.setRun d k xs).setRun d (k + xs.length) ys := by
  induction xs generalizing m k with
  | nil => rfl
  | cons v xs ih =>
    have hk : k + (xs.length + 1) = k + 1 + xs.length := by omega
    rw [List.cons_append, List.length_cons, hk]
    exact ih (m.set d k v) (k + 1)

@[simp] theorem Map.getRun_length {α : Type} (d : α) (m : Map α) (k n : Nat) : (m.getRun d k n).length = n := by simp [Map.getRun]

theorem Map.getRun_add {α : Type} (d : α) (m : Map α) (k n l : Nat) : m.getRun d k (n + l) = m.getRun d k n ++ m.getRun d (k + n) l := by
  simp [Map.getRun, List.range_add, Function.comp_def, Nat.add_assoc]

/-- A run inside a run. -/
theorem Map.take_drop_getRun {α : Type} (d : α) (m : Map α) (k : Nat) {n o l : Nat} (h : o + l ≤ n) :
    ((m.getRun d k n).drop o).take l = m.getRun d (k + o) l := by
  obtain ⟨r, rfl⟩ := Nat.exists_eq_add_of_le h
  rw [Map.getRun_add, Map.getRun_add, List.append_assoc, List.drop_left' (Map.getRun_length ..), List.take_left' (Map.getRun_length ..)]

theorem Map.getRun_setRun_out {α : Type} [DecidableEq α] (d : α) (m : Map α) {k a n : Nat} (vs : List α) (h : a + n ≤ k ∨ k + vs.length ≤ a) :
    (m.setRun d k vs).getRun d a n = m.getRun d a n := by
  refine List.map_congr_left fun i hi => ?_
  have hin := List.mem_range.mp hi
  exact Map.get_setRun_out d vs m k (a + i) (by omega)

/-- A run inside what was written. -/
theorem Map.getRun_setRun_in {α : Type} [DecidableEq α] (d : α) (m : Map α) (k : Nat) {vs : List α} {o l : Nat} (h : o + l ≤ vs.length) :
    (m.setRun d k vs).getRun d (k + o) l = (vs.drop o).take l := by
  rw [← Map.take_drop_getRun d _ k h, Map.getRun_setRun]

theorem getRun_setRun_leBytes (m : Memory) (a n v : Nat) : (m.setRun 0 a (leBytes n v)).getRun 0 a n = leBytes n v := by
  have hwhole := Map.getRun_setRun 0 m a (leBytes n v)
  rwa [leBytes_length] at hwhole

theorem leNat_leBytes (n v : Nat) : leNat (leBytes n v) = v % 256 ^ n := by
  induction n generalizing v with
  | zero => simp [leBytes, leNat, Nat.mod_one]
  | succ n ih =>
    have hbyte : (BitVec.ofNat 8 v).toNat = v % 256 := BitVec.toNat_ofNat v 8
    rw [leBytes, leNat, ih, hbyte, Nat.pow_succ', Nat.mod_mul]

theorem leNat_leBytes_of_lt {n v : Nat} (h : v < 256 ^ n) : leNat (leBytes n v) = v := (leNat_leBytes n v).trans (Nat.mod_eq_of_lt h)

/-- Number `j` of the numbers that a list of bytes spells. -/
theorem take_drop_flatMap_leBytes {α : Type} (w : Nat) (f : α → Nat) (l : List α) {j : Nat} (hj : j < l.length) :
    ((l.flatMap (fun a => leBytes w (f a))).drop (j * w)).take w = leBytes w (f l[j]) := by
  induction l generalizing j with
  | nil => exact absurd hj (Nat.not_lt_zero j)
  | cons a l ih =>
    cases j with
    | zero => simp [List.take_left' (leBytes_length w (f a))]
    | succ j =>
      have hskip : (j + 1) * w = (leBytes w (f a)).length + j * w := by rw [leBytes_length]; ring
      rw [List.flatMap_cons, hskip, ← List.drop_drop, List.drop_left]
      exact ih (Nat.lt_of_succ_lt_succ hj)

/-! ## The pieces of a run -/

/-- The bytes at pieces of a Pantry, one piece after the other. -/
def panBytes (m : Memory) (xs : List (Nat × Nat)) : List Byte := xs.flatMap (fun x => m.getRun 0 (x.1 % 2 ^ 64) x.2)

theorem panBytes_cons (m : Memory) {a : Nat} (h : a < 2 ^ 64) (n : Nat) (xs : List (Nat × Nat)) :
    panBytes m ((a, n) :: xs) = m.getRun 0 a n ++ panBytes m xs := by
  rw [panBytes, List.flatMap_cons, Nat.mod_eq_of_lt h]
  rfl

theorem linePieces_cons (a : Nat) {n : Nat} (h : n ≠ 0) (fuel : Nat) : linePieces a n (fuel + 1) =
    (a, min n (128 - a % 128)) :: linePieces (a + min n (128 - a % 128)) (n - min n (128 - a % 128)) fuel := if_neg h

/-- What each piece of a run carries on, all of them carry on to its end. -/
theorem foldl_linePieces {σ : Type} {f : σ → Nat × Nat → σ} {P : Nat → σ → Prop} {a len : Nat}
    (hstep : ∀ i k r, 0 < k → i + k ≤ len → P i r → P (i + k) (f r (a + i, k))) (fuel : Nat) :
    ∀ i r, i ≤ len → len - i < fuel → P i r → P len ((linePieces (a + i) (len - i) fuel).foldl f r) := by
  induction fuel with
  | zero => exact fun i r _ hfuel => absurd hfuel (Nat.not_lt_zero _)
  | succ fuel ih =>
    intro i r hi hfuel hr
    by_cases hdone : len - i = 0
    · obtain rfl : i = len := by omega
      simpa [linePieces] using hr
    · have hnext := ih (i + min (len - i) (128 - (a + i) % 128)) _ (by omega) (by omega) (hstep i _ r (by omega) (by omega) hr)
      rwa [linePieces_cons _ hdone, List.foldl_cons, Nat.add_assoc, ← Nat.sub_add_eq]

/-- The pieces of a run that begin before an address spell the run up to there at least, or the whole run. -/
theorem panBytes_takeWhile (m : Memory) (upto : Nat) {fuel : Nat} : ∀ {a n : Nat}, n < fuel → a + n ≤ 2 ^ 64 →
    ∃ l, l ≤ n ∧ (upto ≤ a + l ∨ l = n) ∧ panBytes m ((linePieces a n fuel).takeWhile (fun p => decide (p.1 < upto))) = m.getRun 0 a l := by
  induction fuel with
  | zero => exact fun hn => absurd hn (Nat.not_lt_zero _)
  | succ fuel ih =>
    intro a n hn ha
    by_cases hzero : n = 0
    · exact ⟨0, Nat.zero_le _, .inr hzero.symm, by simp [linePieces, hzero, panBytes, Map.getRun]⟩
    · by_cases hbefore : a < upto
      · obtain ⟨l, hl, hend, hbytes⟩ := @ih (a + min n (128 - a % 128)) (n - min n (128 - a % 128)) (by omega) (by omega)
        refine ⟨min n (128 - a % 128) + l, by omega, by omega, ?_⟩
        rw [linePieces_cons a hzero, List.takeWhile_cons, if_pos (decide_eq_true hbefore), panBytes_cons m (by omega), hbytes, Map.getRun_add]
      · exact ⟨0, Nat.zero_le _, .inl (by omega), by simp [linePieces, hzero, hbefore, panBytes, Map.getRun]⟩

/-- The pieces of a run spell it. -/
theorem panBytes_linePieces (m : Memory) {a n fuel : Nat} (hn : n < fuel) (ha : a + n ≤ 2 ^ 64) : panBytes m (linePieces a n fuel) = m.getRun 0 a n := by
  induction fuel generalizing a n with
  | zero => exact absurd hn (Nat.not_lt_zero _)
  | succ fuel ih =>
    by_cases hzero : n = 0
    · simp [linePieces, hzero, panBytes, Map.getRun]
    · have hrest := @ih (a + min n (128 - a % 128)) (n - min n (128 - a % 128)) (by omega) (by omega)
      rw [linePieces_cons a hzero, panBytes_cons m (by omega), hrest, ← Map.getRun_add, Nat.add_sub_cancel' (Nat.min_le_left ..)]

end Sys2Proof.Machine
end

section
/-! # A stream instruction under way in a Pantry

`StreamRuns` is what every step of a stream instruction keeps while all its places lie in a Pantry without poison or bit errors: the Pantry's bytes
are `m` and the slot is `x`. One rule per operation of the stream unit says how it moves the two. -/

namespace Sys2Proof.Machine

/-! ## A stream instruction under way -/

/-- The instruction at the head of a core's access queue has been taken off it and stands as `x` in slot `n`, and its Pantry, without poison or bit
errors, holds `m`; the Pool and the other cores are as before. The note of which element the writes serve, `doing`, may be any. -/
structure StreamRuns (s t : State) (c : Nat) (n : Fin 16) (m : Memory) (x : StreamSlot) : Prop where
  pantry : (t.core c).pantry = m
  slot   : ∃ w, (t.core c).slotAt n.val = { x with doing := w }
  sound  : (t.core c).sound
  queue  : (t.core c).accq = (s.core c).accq.tail
  pool   : t.pool = s.pool
  others : ∀ d, d ≠ c → t.core d = s.core d

/-- A side's bytes, none of them poisoned. -/
def clean (b : List Byte) : List (Byte × Bool) := b.map (fun y => (y, false))

theorem map_clean (b : List Byte) : b.map (fun y => (y, false)) = clean b := rfl

@[simp] theorem clean_fst (b : List Byte) : (clean b).map (·.1) = b := by simp [clean, Function.comp_def]
@[simp] theorem clean_any (b : List Byte) : (clean b).any (·.2) = false := by simp [clean]
@[simp] theorem clean_length (b : List Byte) : (clean b).length = b.length := List.length_map _
theorem clean_append (a b : List Byte) : clean a ++ clean b = clean (a ++ b) := (List.map_append ..).symm
theorem clean_take (b : List Byte) (i : Nat) : (clean b).take i = clean (b.take i) := (List.map_take ..).symm
theorem clean_drop (b : List Byte) (i : Nat) : (clean b).drop i = clean (b.drop i) := (List.map_drop ..).symm

/-- The line requests of a side in the Pantry. -/
def panReqs (xs : List (Nat × Nat)) (ix : Nat) : List LineReq := xs.map (fun x => { addr := x.1 % 2 ^ 64, len := x.2, spot := none, ix := ix })

theorem State.strAsk_pan (s : State) (c : Nat) (n : Fin 16) (a : XlAccess) (op : RemOp) (xs : List (Nat × Nat)) (ix : Nat) :
    s.strAsk c n true a op xs ix = (s, .ok (panReqs xs ix)) := rfl

theorem State.strAsk_nil (s : State) (c : Nat) (n : Fin 16) (pan : Bool) (a : XlAccess) (op : RemOp) (ix : Nat) :
    s.strAsk c n pan a op [] ix = (s, .ok []) := by
  cases pan <;> rfl

section
variable {s t : State} {c : Nat} {n : Fin 16} {m : Memory} {x : StreamSlot}

/-- A change of the slot, where it does not read what `doing` holds. -/
theorem StreamRuns.modSlot (h : StreamRuns s t c n m x) {f : StreamSlot → StreamSlot} {y : StreamSlot}
    (hf : ∀ w, ∃ v, f { x with doing := w } = { y with doing := v }) : StreamRuns s (t.modSlot c n.val f) c n m y := by
  obtain ⟨hpantry, ⟨w, hslot⟩, hsound, hqueue, hpool, hothers⟩ := h
  obtain ⟨v, hv⟩ := hf w
  have hcore : (t.modSlot c n.val f).core c = { t.core c with slots := (t.core c).slots.set StreamSlot.reset n.val (f ((t.core c).slotAt n.val)) } :=
    t.core_setCore c _
  refine ⟨?_, ⟨v, ?_⟩, ?_, ?_, hpool, fun d hd => (t.core_setCore_ne c d _ hd).trans (hothers d hd)⟩ <;> rw [hcore]
  · exact hpantry
  · exact (Map.get_set_self ..).trans ((congrArg f hslot).trans hv)
  · exact hsound
  · exact hqueue

/-- A change of the slot beside `doing`. -/
theorem StreamRuns.modSlot_apply (h : StreamRuns s t c n m x) {f : StreamSlot → StreamSlot} (hf : ∀ w, f { x with doing := w } = { f x with doing := w }) :
    StreamRuns s (t.modSlot c n.val f) c n m (f x) := h.modSlot fun w => ⟨w, hf w⟩

theorem StreamRuns.doByte (h : StreamRuns s t c n m x) (i : Nat) : StreamRuns s (t.doByte c n.val i) c n m x := h.modSlot fun _ => ⟨_, rfl⟩

theorem StreamRuns.doAt (h : StreamRuns s t c n m x) (cursor : List Nat) : StreamRuns s (t.doAt c n.val cursor) c n m x := h.modSlot fun _ => ⟨_, rfl⟩

theorem StreamRuns.inc64 (h : StreamRuns s t c n m x) (d o k : Nat) : StreamRuns s (t.inc64 d o k) c n m x := by
  obtain ⟨hpantry, hslot, hsound, hqueue, hpool, hothers⟩ := h
  refine ⟨?_, ?_, ?_, ?_, hpool, fun e he => (State.inc64_core ..).trans (hothers e he)⟩ <;> rwa [State.inc64_core]

theorem StreamRuns.panWrite (h : StreamRuns s t c n m x) (off : Nat) (b : List Byte) :
    StreamRuns s (t.modCore c (fun k => k.panWrite off b)) c n (m.setRun 0 off b) x := by
  obtain ⟨hpantry, hslot, hsound, hqueue, hpool, hothers⟩ := h
  refine ⟨?_, ?_, ?_, ?_, hpool, fun d hd => (t.core_setCore_ne c d _ hd).trans (hothers d hd)⟩ <;> rw [State.modCore, State.core_setCore]
  · exact congrArg (fun p => p.setRun 0 off b) hpantry
  · exact hslot
  · exact Core.sound_panWrite hsound off b
  · exact hqueue

/-- A read of the Pantry finds no poison and changes nothing. -/
theorem StreamRuns.panRead (h : StreamRuns s t c n m x) (reader : Nat) (gs : List Nat) : t.panRead c reader gs = (t, []) :=
  State.panRead_sound h.sound reader gs

theorem StreamRuns.pan (h : StreamRuns s t c n m x) (off k : Nat) : (t.core c).pan off k = m.getRun 0 off k := by rw [Core.pan, h.pantry]

theorem StreamRuns.panNat (h : StreamRuns s t c n m x) (off k : Nat) : (t.core c).panNat off k = leNat (m.getRun 0 off k) := by
  rw [Core.panNat, h.pan]

/-! ## Its reads and writes in the Pantry (R297, R298) -/

/-- Line requests in the Pantry fetch what lies there, and change counters alone. -/
theorem StreamRuns.strFetch (h : StreamRuns s t c n m x) (na : Bool) (ext : List Byte) (xs : List (Nat × Nat)) (ix : Nat) :
    ∃ u, t.strFetch c n na ext (panReqs xs ix) = (u, clean (panBytes m xs), ext) ∧ StreamRuns s u c n m x := by
  suffices hall : ∀ got, ∃ u, (panReqs xs ix).foldl _ (t, got, ext) = (u, got ++ clean (panBytes m xs), ext) ∧ StreamRuns s u c n m x from hall []
  induction xs generalizing t with
  | nil => exact fun got => ⟨t, by simp [panReqs, panBytes, clean], h⟩
  | cons y ys ih =>
    intro got
    obtain ⟨u, hfold, hu⟩ := ih (h.inc64 (coreDie c) (coreOff c 0x908) y.2) (got ++ clean (m.getRun 0 (y.1 % 2 ^ 64) y.2))
    have hone : ((m.getRun 0 (y.1 % 2 ^ 64) y.2).zipIdx.map (fun z => (z.1, ([] : List Nat).contains ((y.1 % 2 ^ 64 + z.2) / 8)))) =
        clean (m.getRun 0 (y.1 % 2 ^ 64) y.2) := by
      conv_rhs => rw [← List.zipIdx_map_fst 0 (m.getRun 0 (y.1 % 2 ^ 64) y.2), clean, List.map_map]
      rfl
    refine ⟨u, ?_, hu⟩
    rw [panReqs, List.map_cons, List.foldl_cons]
    simp only [h.panRead, h.pan, hone, clean_any]
    exact hfold.trans (by rw [List.append_assoc, clean_append]; rfl)

/-- A write of one line request in the Pantry. -/
theorem StreamRuns.strPut (h : StreamRuns s t c n m x) (chunk : Nat) {r : LineReq} (hr : r.spot = none) (b : List Byte) :
    StreamRuns s (t.strPut c n chunk r (clean b)) c n (m.setRun 0 r.addr b) x := by
  have hcount := h.inc64 (coreDie c) (coreOff c 0x910) b.length
  simp only [State.strPut, clean_any, clean_fst, Bool.false_eq_true, if_false, State.panStore_sound hcount.sound, hr]
  exact hcount.panWrite _ b

/-- A read of a run in the Pantry. -/
theorem StreamRuns.strRead (h : StreamRuns s t c n m x) (na : Bool) {a len : Nat} (ha : a + len ≤ 2 ^ 64) (ext : List Byte) :
    ∃ u, t.strRead c n true na a len ext = (u, .ok (clean (m.getRun 0 a len), ext)) ∧ StreamRuns s u c n m x := by
  obtain ⟨u, hfetch, hu⟩ := h.strFetch na ext (linePieces a len (len + 1)) 0
  refine ⟨u, ?_, hu⟩
  rw [State.strRead, State.strAsk_pan]
  simp only [hfetch, panBytes_linePieces m (Nat.lt_succ_self len) ha]

/-- A write of `b` at `a` by a slot has come as far as its byte `i`, and has met nothing that stops it. -/
def WroteUpto (s : State) (c : Nat) (n : Fin 16) (m : Memory) (x : StreamSlot) (a : Nat) (b : List Byte) (i : Nat)
    (r : State × Except (Nat × AccStop) Unit) : Prop :=
  r.2 = .ok () ∧ StreamRuns s r.1 c n (m.setRun 0 a (b.take i)) x

/-- A write of a run in the Pantry, piece by piece. -/
theorem StreamRuns.strWrite (h : StreamRuns s t c n m x) (chunk i0 : Nat) {a : Nat} {b : List Byte} (ha : a + b.length ≤ 2 ^ 64) :
    ∃ u, t.strWrite c n true chunk i0 a (clean b) = (u, .ok ()) ∧ StreamRuns s u c n (m.setRun 0 a b) x := by
  have hall : WroteUpto s c n m x a b b.length (t.strWrite c n true chunk i0 a (clean b)) := by
    unfold State.strWrite
    rw [clean_length]
    refine foldl_linePieces (P := WroteUpto s c n m x a b) (a := a) (len := b.length) ?_ (b.length + 1) 0 (t, .ok ()) (Nat.zero_le _) (by omega) ⟨rfl, h⟩
    rintro i k ⟨t, e⟩ hpos hlen ⟨rfl, ht⟩
    have hmod : (a + i) % 2 ^ 64 = a + i := Nat.mod_eq_of_lt (by omega)
    have hput := (ht.doByte (i0 + i)).strPut chunk (r := { addr := a + i, len := k, spot := none, ix := 0 }) rfl ((b.drop i).take k)
    simp only [State.strAsk_pan, panReqs, List.map_cons, List.map_nil, Nat.add_sub_cancel_left, clean_drop, clean_take, hmod]
    refine ⟨rfl, ?_⟩
    rw [List.take_add, Map.setRun_append, List.length_take_of_le (by omega)]
    exact hput
  obtain ⟨hok, hruns⟩ := hall
  rw [List.take_length] at hruns
  exact ⟨_, Prod.ext rfl hok, hruns⟩

end

/-! ## A run moved within the Pantry -/

/-- What a run reads of its source so that its bytes before `upto` are there, those before `q` being there already. -/
def moveReads (src : Option Nat) (q upto len : Nat) : List (Nat × Nat) :=
  match src with
  | none => []
  | some sa => lineCover sa q upto len

/-- The Pantry's bytes as `State.moveRun` leaves them, where both sides lie in it. -/
def panMoved (src : Option Nat) (da len : Nat) : Nat → Nat → List Byte → Memory → Memory
  | 0, _, _, m => m
  | fuel + 1, i, buf, m =>
    if len ≤ i then m
    else
      let k := min (len - i) (128 - (da + i) % 128)
      let buf := buf ++ panBytes m (moveReads src (i + buf.length) (i + k) len)
      panMoved src da len fuel (i + k) (buf.drop k) (m.setRun 0 ((da + i) % 2 ^ 64) (buf.take k))

/-- A step of a run within the Pantry: the reads of the source, then one write. -/
theorem State.moveRun_pan (t : State) (c : Nat) (n : Fin 16) {pan : Bool} (na : Bool) (chunk : Nat) {src : Option Nat} (hsrc : src.isSome → pan = true)
    (da : Nat) {len i : Nat} (h : ¬len ≤ i) (fuel : Nat) (buf : List (Byte × Bool)) (ext : List Byte) :
    t.moveRun c n pan true na chunk src da len (fuel + 1) i buf ext =
      let k := min (len - i) (128 - (da + i) % 128)
      let r := t.strFetch c n na ext (panReqs (moveReads src (i + buf.length) (i + k) len) 0)
      ((r.1.doByte c n.val i).strPut c n chunk { addr := (da + i) % 2 ^ 64, len := k, spot := none, ix := 0 } ((buf ++ r.2.1).take k)).moveRun
        c n pan true na chunk src da len fuel (i + k) ((buf ++ r.2.1).drop k) r.2.2 := by
  have hwrite (k : Nat) : panReqs [((da + i) % 2 ^ 64, k)] 0 = [{ addr := (da + i) % 2 ^ 64, len := k, spot := none, ix := 0 }] := by
    simp [panReqs]
  rw [State.moveRun, if_neg h]
  cases src with
  | none =>
    simp only [State.strAsk_nil, State.strAsk_pan, hwrite]
    rfl
  | some sa =>
    obtain rfl := hsrc rfl
    simp only [State.strAsk_pan, hwrite]
    rfl

/-- A run moved within the Pantry ends, with the bytes that `panMoved` says (R291). -/
theorem StreamRuns.moveRun {s : State} {c : Nat} {n : Fin 16} {x : StreamSlot} {pan : Bool} (na : Bool) (chunk : Nat) {src : Option Nat}
    (hsrc : src.isSome → pan = true) (da len : Nat)
    (ext : List Byte) (fuel : Nat) : ∀ {t : State} {m : Memory} (i : Nat) (buf : List Byte), StreamRuns s t c n m x →
      ∃ u, t.moveRun c n pan true na chunk src da len fuel i (clean buf) ext = (u, .ok ext) ∧ StreamRuns s u c n (panMoved src da len fuel i buf m) x := by
  induction fuel with
  | zero => exact fun i buf h => ⟨_, rfl, h⟩
  | succ fuel ih =>
    intro t m i buf h
    by_cases hdone : len ≤ i
    · rw [State.moveRun, panMoved, if_pos hdone, if_pos hdone]
      exact ⟨t, rfl, h⟩
    · rw [State.moveRun_pan t c n na chunk hsrc da hdone, panMoved, if_neg hdone, clean_length]
      dsimp only
      generalize min (len - i) (128 - (da + i) % 128) = k
      obtain ⟨u, hfetch, hu⟩ := h.strFetch na ext (moveReads src (i + buf.length) (i + k) len) 0
      rw [hfetch, clean_append]
      dsimp only
      rw [clean_take, clean_drop]
      exact ih (i + k) _ ((hu.doByte i).strPut chunk rfl _)

/-! ### The source and the destination of a run -/

/-- Bytes `bs` come from `src`: a run of the Pantry that the destination does not meet, or a fill. -/
def Supplies (m : Memory) (src : Option Nat) (da : Nat) (bs : List Byte) : Prop :=
  ∀ sa, src = some sa → bs = m.getRun 0 sa bs.length ∧ sa + bs.length ≤ 2 ^ 64 ∧ (sa + bs.length ≤ da ∨ da + bs.length ≤ sa)

/-- `buf` holds the bytes of a run from byte `i` on: all of them for a fill. -/
def Feeds (src : Option Nat) (bs : List Byte) (i : Nat) (buf : List Byte) : Prop :=
  buf = (bs.drop i).take buf.length ∧ (src = none → buf = bs.drop i)

section
variable {m : Memory} {src : Option Nat} {da : Nat} {bs buf : List Byte} {i : Nat}

/-- What is read of the source beside what waits brings the next bytes of the run. -/
theorem Feeds.read (hfeeds : Feeds src bs i buf) (hsrc : Supplies m src da bs) {k : Nat} (hk : i + k ≤ bs.length) :
    let got := buf ++ panBytes (m.setRun 0 da (bs.take i)) (moveReads src (i + buf.length) (i + k) bs.length)
    Feeds src bs i got ∧ k ≤ got.length := by
  obtain ⟨hbuf, hfill⟩ := hfeeds
  cases src with
  | none =>
    refine ⟨by simpa [moveReads, panBytes] using ⟨hbuf, hfill⟩, ?_⟩
    rw [hfill rfl, List.length_append, List.length_drop]
    omega
  | some sa =>
    obtain ⟨hbytes, hfits, hapart⟩ := hsrc sa rfl
    have hlen : buf.length ≤ bs.length - i := by
      rw [hbuf, ← List.length_drop]
      exact List.length_take_le' ..
    obtain ⟨l, hl, hend, hread⟩ := panBytes_takeWhile (m.setRun 0 da (bs.take i)) (sa + (i + k))
      (a := sa + (i + buf.length)) (n := min (bs.length - (i + buf.length)) (i + k - (i + buf.length) + 128)) (fuel := i + k - (i + buf.length) + 130)
      (by omega) (by omega)
    have hout : (m.setRun 0 da (bs.take i)).getRun 0 (sa + (i + buf.length)) l = m.getRun 0 (sa + (i + buf.length)) l := by
      refine Map.getRun_setRun_out 0 m _ ?_
      rw [List.length_take]
      omega
    have hnext : m.getRun 0 (sa + (i + buf.length)) l = ((bs.drop i).drop buf.length).take l := by
      rw [List.drop_drop, hbytes, Map.take_drop_getRun 0 m sa (by omega)]
    have hgot : panBytes (m.setRun 0 da (bs.take i)) (moveReads (some sa) (i + buf.length) (i + k) bs.length) = ((bs.drop i).drop buf.length).take l :=
      hread.trans (hout.trans hnext)
    have hlength : (((bs.drop i).drop buf.length).take l).length = l := by
      rw [List.length_take, List.length_drop, List.length_drop]
      omega
    dsimp only
    rw [hgot, List.length_append, hlength]
    refine ⟨⟨?_, nofun⟩, by omega⟩
    rw [List.length_append, hlength, List.take_add, ← hbuf]

theorem Feeds.drop (h : Feeds src bs i buf) (k : Nat) : Feeds src bs (i + k) (buf.drop k) := by
  obtain ⟨hbuf, hfill⟩ := h
  refine ⟨?_, fun hnone => ?_⟩
  · rw [List.length_drop, ← List.drop_drop, ← List.drop_take, ← hbuf]
  · rw [hfill hnone, List.drop_drop]

/-- A run moved within the Pantry, its sides apart, leaves its bytes at the destination and nothing else (R291). -/
theorem panMoved_run (hsrc : Supplies m src da bs) (hda : da + bs.length ≤ 2 ^ 64) (fuel : Nat) : ∀ i buf, i ≤ bs.length → bs.length - i < fuel →
    Feeds src bs i buf → panMoved src da bs.length fuel i buf (m.setRun 0 da (bs.take i)) = m.setRun 0 da bs := by
  induction fuel with
  | zero => exact fun i buf _ hfuel => absurd hfuel (Nat.not_lt_zero _)
  | succ fuel ih =>
    intro i buf hi hfuel hfeeds
    by_cases hdone : bs.length ≤ i
    · rw [panMoved, if_pos hdone, List.take_of_length_le hdone]
    · rw [panMoved, if_neg hdone]
      generalize hk : min (bs.length - i) (128 - (da + i) % 128) = k
      obtain ⟨hgot, hfull⟩ := hfeeds.read hsrc (show i + k ≤ bs.length by omega)
      generalize hbuf : buf ++ panBytes (m.setRun 0 da (bs.take i)) (moveReads src (i + buf.length) (i + k) bs.length) = got at hgot hfull
      have htake : got.take k = (bs.drop i).take k := by
        rw [hgot.1, List.take_take, Nat.min_eq_left hfull]
      have hwritten : (m.setRun 0 da (bs.take i)).setRun 0 (da + i) ((bs.drop i).take k) = m.setRun 0 da (bs.take (i + k)) := by
        rw [List.take_add, Map.setRun_append, List.length_take_of_le hi]
      dsimp only
      rw [hbuf, htake, Nat.mod_eq_of_lt (show da + i < 2 ^ 64 by omega), hwritten]
      exact ih (i + k) (got.drop k) (by omega) (by omega) (hgot.drop k)

end

/-! ## The start (R287 to R289) -/

/-- The slot of an instruction that has started: its descriptor, and its chunks with the steps of each. -/
def StreamSlot.started (i : TileIns) (b : List Byte) (chunks per : Nat) : StreamSlot :=
  { StreamSlot.reset with phase := 1, ins := some i, cursor := [0, 0, 0, 0, 0], doing := [0, 0, 0, 0, 0], desc := b, chunks := chunks, per := per }

/-- The instruction is off the queue, whose rest is `rest`, with the credit that leaves core `k`, and stands in slot `n`. -/
def State.streamTaken (s : State) (c : Nat) (n : Fin 16) (i : TileIns) (rest : List TileIns) (k : Core) : State :=
  ((s.setCore c { k with accq := rest }).forgetAsked c n).modSlot c n.val
    (fun _ => { StreamSlot.reset with phase := 1, ins := some i, cursor := [0, 0, 0, 0, 0], doing := [0, 0, 0, 0, 0] })

section
variable {s t : State} {c : Nat} {n : Fin 16} {m : Memory} {x : StreamSlot}

theorem StreamRuns.expect (h : StreamRuns s t c n m x) (i : TileIns) (k : Nat) : StreamRuns s (t.modCore c (fun j => j.expect i k)) c n m x := by
  obtain ⟨hpantry, hslot, hsound, hqueue, hpool, hothers⟩ := h
  have hcore : ∃ e, (t.core c).expect i k = { t.core c with tkExpect := e } := by
    unfold Core.expect
    split
    · exact ⟨_, rfl⟩
    · exact ⟨_, rfl⟩
  obtain ⟨e, he⟩ := hcore
  refine ⟨?_, ?_, ?_, ?_, hpool, fun d hd => (t.core_setCore_ne c d _ hd).trans (hothers d hd)⟩ <;> rw [State.modCore, State.core_setCore, he]
  · exact hpantry
  · exact hslot
  · exact hsound
  · exact hqueue

theorem State.core_forgetAsked (s : State) (c : Nat) (n : Fin 16) (d : Nat) : (s.forgetAsked c n).core d = s.core d := rfl

/-- The instruction taken off the queue runs in its slot, the Pantry as it was (R289). -/
theorem State.streamTaken_runs {i : TileIns} {rest : List TileIns} (hqueue : (s.core c).accq = i :: rest) (hsound : (s.core c).sound) {k : Core}
    (hk : (s.core c).acquire i = some k) : StreamRuns s (s.streamTaken c n i rest k) c n (s.core c).pantry (.started i [] 0 1) := by
  obtain ⟨g, rfl⟩ := Core.acquire_grants hk
  have hcore : (s.streamTaken c n i rest { s.core c with grants := g }).core c = { s.core c with
      grants := g, accq := rest, slots := (s.core c).slots.set StreamSlot.reset n.val (.started i [] 0 1) } := by
    rw [State.streamTaken, State.modSlot, State.modCore, State.core_setCore, State.core_forgetAsked, State.core_setCore]
    rfl
  refine ⟨?_, ⟨[0, 0, 0, 0, 0], ?_⟩, ?_, ?_, rfl, fun d hd => (State.core_setCore_ne _ c d _ hd).trans (s.core_setCore_ne c d _ hd)⟩ <;> rw [hcore]
  · exact Map.get_set_self ..
  · exact hsound
  · rw [hqueue, List.tail_cons]

/-- The head of the access queue starts where its checks and those of `plan` accept its descriptor (R288, R289, R293). -/
theorem StreamHead.strStart_planned {c func : Nat} {i : TileIns} {rest : List TileIns} (h : StreamHead s c func i rest n) {k : Core}
    (hk : (s.core c).acquire i = some k) {plan : State → List Byte → TileIns → State × Except (Nat × Nat) (Nat × Nat)} {chunks per : Nat}
    (hread : (s.streamTaken c n i rest k).panRead c 2 (granulesOf (i.ops 15 0 * 128) 128) = (s.streamTaken c n i rest k, []))
    (hplan : plan (s.streamTaken c n i rest k) (((s.streamTaken c n i rest k).core c).pan (i.ops 15 0 * 128) 128) i =
      (s.streamTaken c n i rest k, .ok (chunks, per))) :
    s.strStart c func plan = some (((s.streamTaken c n i rest k).modCore c (fun k => k.expect i chunks)).modSlot c n.val
      (fun t => { t with desc := ((s.streamTaken c n i rest k).core c).pan (i.ops 15 0 * 128) 128, chunks := chunks, per := per }), n) := by
  obtain ⟨-, hqueue, hfunc, hmay, hfree, -, hzero, hfits, -, -⟩ := h
  unfold State.streamTaken at hread hplan ⊢
  simp only [State.strStart, hqueue, hfree, hmay, hfunc, hk, hzero, hfits, hread, hplan, Bool.not_true, bne_self_eq_false, Bool.or_self,
    Bool.false_eq_true, if_false, ne_eq, not_true, or_self, List.isEmpty_nil]

/-- An instruction whose descriptor `plan` accepts starts in the free slot, and is the only one that runs (R288, R289, R293). -/
theorem strCmd_starts {c : CoreId} {func : Nat} {i : TileIns} {rest : List TileIns} (h : StreamHead s c.val func i rest n)
    {plan : State → List Byte → TileIns → State × Except (Nat × Nat) (Nat × Nat)} {chunks per : Nat}
    (hplan : ∀ t, StreamRuns s t c.val n (s.core c.val).pantry (.started i [] 0 1) →
      plan t ((s.core c.val).pan (i.ops 15 0 * 128) 128) i = (t, .ok (chunks, per))) (go : State → Fin 16 → State) :
    ∃ t, strCmd c func [] s plan go = .next (go t n) ∧
      StreamRuns s t c.val n (s.core c.val).pantry (.started i ((s.core c.val).pan (i.ops 15 0 * 128) 128) chunks per) := by
  have hhead := h
  obtain ⟨hrun, hqueue, -, -, -, hacquire, -, -, hpoison, hflaws⟩ := h
  obtain ⟨k, hk⟩ := Option.isSome_iff_exists.mp hacquire
  have htaken := State.streamTaken_runs (n := n) hqueue ⟨hpoison, hflaws⟩ hk
  have hpan := htaken.pan (i.ops 15 0 * 128) 128
  have hstart := hhead.strStart_planned hk (htaken.panRead _ _) ((congrArg (plan _ · i) hpan).trans (hplan _ htaken))
  have hruns := (htaken.expect i chunks).modSlot (f := fun t => { t with
    desc := ((s.streamTaken c.val n i rest k).core c.val).pan (i.ops 15 0 * 128) 128, chunks := chunks, per := per })
    (y := .started i ((s.core c.val).pan (i.ops 15 0 * 128) 128) chunks per) fun w => ⟨w, by rw [hpan]; rfl⟩
  refine ⟨_, (gate_running hrun _).trans (congrArg _ ?_), hruns⟩
  obtain ⟨w, hslot⟩ := hruns.slot
  rw [State.flaw_nil]
  dsimp only
  rw [hstart]
  exact if_pos (congrArg StreamSlot.phase hslot)

end

end Sys2Proof.Machine
end

section
/-! # Copies within a Pantry

The one run of a plain copy or a fill (R291), from the checks of its descriptor (R293) to the slot it leaves. -/

namespace Sys2Proof.Machine

/-! ## A copy of one run (R291, R293) -/

section
variable {d : CopyDesc}

theorem CopyDesc.ix_zero (d : CopyDesc) : d.ix 0 = [0, 0, 0, 0] := by simp [CopyDesc.ix]

theorem strided_zeros (base : Nat) (str : List Nat) : strided base [0, 0, 0, 0] str = base % 2 ^ 64 := by
  have hsum : ∀ zs : List Nat, (∀ z ∈ zs, z = 0) → ((zs.zip str).map (fun x => x.1 * x.2)).sum = 0 := by
    intro zs hzs
    refine List.sum_eq_zero fun v hv => ?_
    obtain ⟨p, hp, rfl⟩ := List.mem_map.mp hv
    rw [hzs p.1 (List.of_mem_zip hp).1, Nat.zero_mul]
  rw [strided, hsum _ (by simp), Nat.add_zero]

theorem CopyDesc.chunkRuns_one (h : d.runCount = 1) : d.chunkRuns = 1 := by
  have hcounts : ((d.cnt 1 = 1 ∧ d.cnt 2 = 1) ∧ d.cnt 3 = 1) ∧ d.cnt 4 = 1 := by simpa [CopyDesc.runCount] using h
  obtain ⟨⟨⟨h1, h2⟩, h3⟩, -⟩ := hcounts
  unfold CopyDesc.chunkRuns
  split <;> simp [h, h1, h2, h3]

/-- The bytes of a fill: its eight, again and again (Table 10-3). -/
def CopyDesc.pattern (d : CopyDesc) : List Byte := (List.range d.len0).map (fun i => BitVec.ofNat 8 (d.aux / 2 ^ (8 * (i % 8))))

/-- The one run of a plain copy (R291). -/
theorem CopyDesc.run_plain (h : d.mode = 0) (k : Core) (bit : Nat → Bool) :
    d.run k bit 0 = { src := some (d.src % 2 ^ 64), dst := some (d.dst % 2 ^ 64), fill := [] } := by
  simp only [CopyDesc.run, h, CopyDesc.ix_zero, strided_zeros]

/-- The one run of a fill (R291). -/
theorem CopyDesc.run_fill (h : d.mode = 3) (k : Core) (bit : Nat → Bool) :
    d.run k bit 0 = { src := none, dst := some (d.dst % 2 ^ 64), fill := d.pattern } := by
  simp only [CopyDesc.run, h, CopyDesc.ix_zero, strided_zeros, CopyDesc.pattern]

theorem CopyDesc.fits_of_sideOk {pan : Bool} {len a : Nat} (h : d.sideOk pan len a = true) (hpan : pan = true) : a + len ≤ pantrySize := by
  subst hpan
  simp only [CopyDesc.sideOk, Bool.and_eq_true, Bool.not_true, Bool.false_or, panFits, decide_eq_true_eq] at h
  exact h.2

/-- The sides of the one run of a plain copy or a fill that lie in the Pantry lie wholly in it (R293). -/
theorem CopyDesc.sides_fit {k : Core} (hok : d.ok k = true) (hruns : d.runCount = 1) (hdst : d.dstP = true) (hmode : d.mode = 0 ∨ d.mode = 3) :
    d.dst % 2 ^ 64 + d.len0 ≤ pantrySize ∧ (d.mode = 0 → d.srcP = true → d.src % 2 ^ 64 + d.len0 ≤ pantrySize) := by
  have hdense : ¬(d.mode = 6 ∨ d.mode = 7) := by omega
  simp only [CopyDesc.ok, if_neg hdense, Bool.and_eq_true] at hok
  obtain ⟨-, hplaces⟩ := hok
  rw [hruns] at hplaces
  obtain hmode | hmode := hmode
  · simp only [List.range_one, List.all_cons, List.all_nil, Bool.and_true, CopyDesc.places, CopyDesc.run_plain hmode, hmode] at hplaces
    obtain ⟨hsrc, hdst'⟩ := Bool.and_eq_true_iff.mp hplaces
    exact ⟨d.fits_of_sideOk hdst' hdst, fun _ hpan => d.fits_of_sideOk hsrc hpan⟩
  · simp only [List.range_one, List.all_cons, List.all_nil, Bool.and_true, CopyDesc.places, CopyDesc.run_fill hmode, hmode] at hplaces
    obtain ⟨-, hdst'⟩ := Bool.and_eq_true_iff.mp hplaces
    exact ⟨d.fits_of_sideOk hdst' hdst, fun hzero => absurd (hmode.symm.trans hzero) (by decide)⟩

end

section
variable {s t : State} {c : Nat} {n : Fin 16} {m : Memory} {i : TileIns} {b : List Byte} {d : CopyDesc}

/-- The slot of a copy whose one run has been moved (R291). -/
def StreamSlot.copied (i : TileIns) (b : List Byte) (d : CopyDesc) : StreamSlot :=
  { StreamSlot.started i b 1 1 with phase := 3, cursor := d.cursor 0 1, step := 1, written := 1 }

/-- A copy of one run moves it and ends (R291). -/
theorem StreamRuns.copyRuns (h : StreamRuns s t c n m (.started i b 1 1)) (hmode : d.mode = 0 ∨ d.mode = 3) (hruns : d.runCount = 1)
    (hdst : d.dstP = true) {r : CopyRun} {da : Nat} (hr : ∀ k bit, d.run k bit 0 = r) (hsrc : r.src.isSome → d.srcP = true) (hda : r.dst = some da)
    (ext : List Byte) : StreamRuns s (t.copyRuns c n d 2 ext) c n (panMoved r.src da d.len0 (d.len0 + 1) 0 r.fill m) (.copied i b d) := by
  obtain ⟨w, hslot⟩ := h.slot
  obtain ⟨u, hmove, hu⟩ := (h.doAt (d.cursor 0 0)).moveRun d.na 0 hsrc da d.len0 ext (d.len0 + 1) 0 r.fill
  have hmark : StreamRuns s (u.copyMark c n d 1) c n (panMoved r.src da d.len0 (d.len0 + 1) 0 r.fill m) (.copied i b d) := by
    refine hu.modSlot fun w => ⟨w, ?_⟩
    simp [hruns, CopyDesc.chunkRuns_one hruns, StreamSlot.copied, StreamSlot.started]
  obtain ⟨v, hmarked⟩ := hmark.slot
  have hend : (u.copyMark c n d 1).copyRuns c n d 1 ext = u.copyMark c n d 1 := by
    simp [State.copyRuns, hmarked, StreamSlot.copied, StreamSlot.started, StreamSlot.stops, StreamSlot.reset, hruns]
  have hsteer : d.steer 0 = [] := by
    obtain hmode | hmode := hmode <;> simp [CopyDesc.steer, hmode]
  have hlow : ¬6 ≤ d.mode := by omega
  have hstops : ((t.core c).slotAt n.val).stops = false := congrArg StreamSlot.stops hslot
  have hstep : ((t.core c).slotAt n.val).step = 0 := congrArg StreamSlot.step hslot
  have hcursor : ((t.core c).slotAt n.val).cursor = [0, 0, 0, 0, 0] := congrArg StreamSlot.cursor hslot
  rw [State.copyRuns]
  simp only [hstops, hstep, hcursor, hruns, hsteer, h.panRead, hr, hda, hdst, if_neg hlow, if_neg (Nat.not_succ_le_zero 0), Bool.false_eq_true, if_false,
    List.isEmpty_nil, Bool.not_true, List.getD_cons_zero, List.drop_zero, Nat.zero_div, map_clean, hmove, Nat.zero_add, hend]
  exact hmark

/-- The bytes that the one run of a plain copy or a fill leaves at its destination. -/
def CopyDesc.bytes (d : CopyDesc) (m : Memory) : List Byte := if d.mode = 3 then d.pattern else m.getRun 0 d.src d.len0

theorem CopyDesc.bytes_length (d : CopyDesc) (m : Memory) : (d.bytes m).length = d.len0 := by
  unfold CopyDesc.bytes
  split <;> simp [CopyDesc.pattern]

/-- The checks of a copy read the Pantry alone. -/
theorem CopyDesc.ok_congr (d : CopyDesc) {k k' : Core} (h : k.pantry = k'.pantry) : d.ok k = d.ok k' := by
  unfold CopyDesc.ok CopyDesc.places CopyDesc.run Core.mapBit Core.panNat Core.pan
  rw [h]

theorem copyDesc_places (b : List Byte) (i : TileIns) : (copyDesc b i).src % 2 ^ 64 = (copyDesc b i).src ∧ (copyDesc b i).dst % 2 ^ 64 = (copyDesc b i).dst :=
  ⟨Nat.mod_mod .., Nat.mod_mod ..⟩

/-- A copy that has started leaves its bytes at the destination (R291). -/
theorem StreamRuns.copyGo (h : StreamRuns s t c n m (.started i b 1 1)) (hd : copyDesc b i = d) {k : Core} (hok : d.ok k = true)
    (hruns : d.runCount = 1) (hdst : d.dstP = true)
    (hmode : (d.mode = 0 ∧ d.srcP = true ∧ (d.src + d.len0 ≤ d.dst ∨ d.dst + d.len0 ≤ d.src)) ∨ d.mode = 3) (ext : List Byte) :
    StreamRuns s (t.copyGo c n ext) c n (m.setRun 0 d.dst (d.bytes m)) (.copied i b d) := by
  obtain ⟨w, hslot⟩ := h.slot
  obtain ⟨hsrc64, hdst64⟩ := hd ▸ copyDesc_places b i
  have hmode' : d.mode = 0 ∨ d.mode = 3 := by omega
  obtain ⟨hfit, hfitSrc⟩ := d.sides_fit hok hruns hdst hmode'
  rw [hdst64, pantrySize] at hfit
  have hgo : t.copyGo c n ext = t.copyRuns c n d 2 ext := by
    have hbuild : ¬(d.mode = 4 ∧ d.opt = true ∧ (!false) = true) := by omega
    simp only [State.copyGo, hslot, StreamSlot.started, StreamSlot.reset, hd, hruns, if_neg hbuild]
  rw [hgo]
  have hlen := d.bytes_length m
  obtain ⟨hplain, hpan, hapart⟩ | hfill := hmode
  · have hbytes : d.bytes m = m.getRun 0 d.src d.len0 := if_neg (by omega)
    have hfitSrc := hfitSrc hplain hpan
    rw [hsrc64, pantrySize] at hfitSrc
    have hcopied := h.copyRuns hmode' hruns hdst (d.run_plain hplain) (fun _ => hpan) rfl ext
    rw [hsrc64, hdst64, ← hlen] at hcopied
    have hmoved := panMoved_run (m := m) (src := some d.src) (da := d.dst) (bs := d.bytes m) (fun sa hsa => by
        obtain rfl := Option.some.inj hsa
        exact ⟨by rw [hlen, hbytes], by omega, by omega⟩) (by omega) (d.bytes m).length.succ 0 [] (Nat.zero_le _) (by omega) ⟨rfl, nofun⟩
    exact hmoved ▸ hcopied
  · have hbytes : d.bytes m = d.pattern := if_pos hfill
    have hcopied := h.copyRuns hmode' hruns hdst (d.run_fill hfill) nofun rfl ext
    rw [hdst64, ← hlen, ← hbytes] at hcopied
    have hmoved := panMoved_run (m := m) (src := none) (da := d.dst) (bs := d.bytes m) nofun (by omega) (d.bytes m).length.succ 0 (d.bytes m)
      (Nat.zero_le _) (by omega) ⟨by simp, fun _ => by simp⟩
    exact hmoved ▸ hcopied

/-- What S_COPY reads of a descriptor at its start. -/
def State.copyPlan (c : Nat) (s : State) (b : List Byte) (i : TileIns) : State × Except (Nat × Nat) (Nat × Nat) :=
  let d := copyDesc b i
  (s, if d.ok (s.core c) then .ok (d.chunkCount, d.chunkRuns) else .error (0x115, 1))

theorem exec_sCopy (s : State) (c : CoreId) (ecc : List EccHit) (ext : List Byte) :
    exec (.sCopy c ecc ext) s = strCmd c 0 ecc s (State.copyPlan c.val) (fun s n => s.copyGo c.val n ext) := rfl

/-- S_COPY of one run within the Pantry, whose sides do not overlap: a plain copy or a fill (R291, R293). -/
theorem exec_sCopy_pantry {c : CoreId} {rest : List TileIns} (h : StreamHead s c.val 0 i rest n)
    (hd : copyDesc ((s.core c.val).pan (i.ops 15 0 * 128) 128) i = d) (hok : d.ok (s.core c.val) = true) (hruns : d.runCount = 1) (hdst : d.dstP = true)
    (hmode : (d.mode = 0 ∧ d.srcP = true ∧ (d.src + d.len0 ≤ d.dst ∨ d.dst + d.len0 ≤ d.src)) ∨ d.mode = 3) :
    ∃ t, exec (.sCopy c [] []) s = .next t ∧ StreamRuns s t c.val n ((s.core c.val).pantry.setRun 0 d.dst (d.bytes (s.core c.val).pantry))
      (.copied i ((s.core c.val).pan (i.ops 15 0 * 128) 128) d) := by
  obtain ⟨t, hexec, ht⟩ := strCmd_starts h (plan := State.copyPlan c.val) (chunks := 1) (per := 1) (fun t ht => by
    simp [State.copyPlan, hd, d.ok_congr ht.pantry, hok, CopyDesc.chunkCount, CopyDesc.chunkRuns_one hruns, hruns]) (fun s n => s.copyGo c.val n [])
  exact ⟨_, (exec_sCopy ..).trans hexec, ht.copyGo hd hok hruns hdst hmode []⟩

end

end Sys2Proof.Machine
end

section
/-! # Routing and combining within a Pantry

One pair of S_ROUTE (R309, R310) and one token of S_COMBINE (R314, R315), each from its start to its slot's last chunk. -/

namespace Sys2Proof.Machine

/-! ## Routing one pair (R309, R310) -/

/-- The expert numbers and entries that a memory of the Pantry holds. -/
def panView (m : Memory) (d : RouteDesc) : RouteView :=
  { num := fun p => leNat (m.getRun 0 (d.idx + 2 * p) 2), expert := fun e => expertOf (m.getRun 0 (d.table + 32 * e) 32) }

theorem Core.view_pan (k : Core) (d : RouteDesc) : k.view d = panView k.pantry d := rfl

/-- The first pair of a routing names expert `e`, which is enabled, and whose rows lie in the Pantry and have room for one in slot `old`. -/
structure PairFits (v : RouteView) (d : RouteDesc) (e old : Nat) : Prop where
  num     : v.num 0 = e
  known   : e < d.experts
  bounded : d.experts ≤ 4096
  enabled : (v.expert e).enabled = true
  pan     : (v.expert e).pan = true
  room    : old < (v.expert e).cap

section
variable {v : RouteView} {d : RouteDesc} {e old : Nat}

/-- The pair is enabled, so that its expert takes it (R309). -/
theorem PairFits.pairExpert (h : PairFits v d e old) : v.pairExpert d 0 = some e := by
  obtain ⟨hnum, hknown, hbounded, henabled, -, -⟩ := h
  have hsome : ¬(e = 0xFFFF ∨ d.experts ≤ e ∨ (!(v.expert e).enabled) = true) := by
    simp only [henabled, Bool.not_true, Bool.false_eq_true, or_false]
    omega
  rw [RouteView.pairExpert, hnum]
  exact if_neg hsome

theorem PairFits.claimed (h : PairFits v d e old) : v.claimed d [0] [(e, old)] = [(0, some (e, old))] := by
  simp [RouteView.claimed, h.pairExpert]

theorem PairFits.spilled (h : PairFits v d e old) : v.spilled [(0, some (e, old))] = [] := by
  simp [RouteView.spilled, Nat.not_le.mpr h.room]

/-- The pair's row goes to the slot that its expert's counter gave (R309, R310). -/
theorem PairFits.pairPlace (h : PairFits v d e old) :
    v.pairPlace d [0] [(e, old)] 0 = (0, e, old, some (true, (v.expert e).inBase + old * 2 ^ (v.expert e).log2)) := by
  have hsmall : e % 4096 = e := Nat.mod_eq_of_lt (Nat.lt_of_lt_of_le h.known h.bounded)
  simp [RouteView.pairPlace, h.claimed, h.num, hsmall, h.room, h.pan]

/-- The experts that a chunk of the one pair claims from: the pair's. -/
theorem PairFits.claimants (h : PairFits v d e old) : (List.range d.experts).filter (fun x => [0].any (fun p => v.pairExpert d p == some x)) = [e] := by
  have hmine (x : Nat) : [0].any (fun p => v.pairExpert d p == some x) = (x == e) := by
    simp [h.pairExpert, eq_comm]
  simp only [hmine]
  rw [List.filter_beq, List.count_eq_one_of_mem List.nodup_range (List.mem_range.mpr h.known)]
  rfl

end

/-- A descriptor of one token with one pair, its map and its row in the Pantry, with the formats of zero. -/
structure RouteDesc.Single (d : RouteDesc) : Prop where
  tokens : d.tokens = 1
  k      : d.k = 1
  ctrl   : d.ctrl = 3
  map    : d.map + 4 ≤ 2 ^ 64

/-- A counter at `a` lies beside the pair's number and the expert table. -/
structure RouteDesc.CounterApart (d : RouteDesc) (a : Nat) : Prop where
  idx   : a + 8 ≤ d.idx ∨ d.idx + 2 ≤ a
  table : a + 8 ≤ d.table ∨ d.table + 32 * d.experts ≤ a

theorem RouteDesc.pairs_one {d : RouteDesc} (htokens : d.tokens = 1) (hk : d.k = 1) : d.pairs 0 = [0] := by
  have hone : min (2 ^ d.clog) 1 = 1 := Nat.min_eq_right (Nat.one_le_two_pow)
  simp [RouteDesc.pairs, htokens, hk, hone]

section
variable {s t : State} {c : Nat} {n : Fin 16} {m : Memory} {x : StreamSlot} {d : RouteDesc} {e : Nat}

theorem StreamRuns.view (h : StreamRuns s t c n m x) (d : RouteDesc) : (t.core c).view d = panView m d := by rw [Core.view_pan, h.pantry]

/-- A counter in the Pantry gives its value and takes the sum (R309). -/
theorem StreamRuns.strAdd (h : StreamRuns s t c n m x) (a v ix : Nat) (ext : List Byte) :
    ∃ u, t.strAdd c n true a v ix ext = (u, .ok (leNat (m.getRun 0 a 8))) ∧
      StreamRuns s u c n (m.setRun 0 a (leBytes 8 (leNat (m.getRun 0 a 8) + v))) x := by
  refine ⟨_, ?_, h.panWrite a _⟩
  simp [State.strAdd, h.panRead, h.panNat]

/-- The claims of the one pair: its expert's counter gives it a slot, and none overflows (R309). -/
theorem StreamRuns.routeClaims (h : StreamRuns s t c n m x) (hclaims : x.claims = [])
    (hfits : PairFits (panView m d) d e (leNat (m.getRun 0 ((panView m d).expert e).counter 8))) (ext : List Byte) :
    let a := ((panView m d).expert e).counter
    let old := leNat (m.getRun 0 a 8)
    ∃ u, t.routeClaims c n d [0] ext = (u, .ok ()) ∧ StreamRuns s u c n (m.setRun 0 a (leBytes 8 (old + 1))) { x with claims := [(e, old)] } := by
  dsimp only
  obtain ⟨w, hslot⟩ := h.slot
  obtain ⟨u, hadd, hu⟩ := h.strAdd ((panView m d).expert e).counter 1 e ext
  have hclaimed := hu.modSlot (f := fun t => { t with claims := t.claims ++ [(e, leNat (m.getRun 0 ((panView m d).expert e).counter 8))] })
    (y := { x with claims := [(e, leNat (m.getRun 0 ((panView m d).expert e).counter 8))] }) fun w => ⟨w, by simp [hclaims]⟩
  have hbefore : ((t.core c).slotAt n.val).claims = [] := by rw [hslot, hclaims]
  obtain ⟨w', hslot'⟩ := hclaimed.slot
  have hafter := congrArg StreamSlot.claims hslot'
  refine ⟨_, ?_, hclaimed⟩
  have hcount : (([0] : List Nat).filter (fun p => (panView m d).pairExpert d p == some e)).length = 1 := by simp [hfits.pairExpert]
  simp only [State.routeClaims, h.view, hfits.claimants, List.foldl_cons, List.foldl_nil, hbefore, List.any_nil, hcount, hfits.pan, hadd,
    Bool.false_eq_true, if_false, hafter, hfits.claimed, hfits.spilled]
  simp

end

section
variable {d : RouteDesc}

/-- What a checked descriptor has in the Pantry lies wholly in it (R307, R308, R314). -/
theorem RouteDesc.ok_fits {rowBytes slotBytes isz : Nat} {panRow ovfUse out : Bool} (h : d.ok rowBytes slotBytes isz panRow ovfUse out = true) :
    d.experts ≤ 4096 ∧ (bitAt d.ctrl 0 = true → d.map + d.tokens * d.k * 4 ≤ pantrySize) ∧
      (panRow = true → d.row + ((d.tokens - 1) * d.stride + rowBytes) ≤ pantrySize) := by
  simp only [RouteDesc.ok, Bool.and_eq_true, decide_eq_true_eq] at h
  obtain ⟨⟨⟨⟨⟨⟨⟨⟨⟨⟨-, hexperts⟩, -⟩, -⟩, -⟩, -⟩, -⟩, -⟩, hmap⟩, hrow⟩, -⟩ := h
  refine ⟨hexperts, fun hbit => ?_, fun hpan => ?_⟩
  · simpa [panFits, hbit] using hmap
  · simpa [panFits, hpan] using hrow

/-- The entry of an enabled expert in a checked table has at most 2^18 slots (R308). -/
theorem RouteDesc.tableOk_cap {k : Core} {slotBytes : Nat} {out : Bool} (h : d.tableOk k slotBytes out = true) {e : Nat} (he : e < d.experts)
    (henabled : (k.expert d e).enabled = true) : (k.expert d e).cap ≤ 2 ^ 18 := by
  have hok := List.all_eq_true.mp h e (List.mem_range.mpr he)
  simp only [henabled, Bool.not_true, Bool.false_or, Expert.ok, Bool.and_eq_true, decide_eq_true_eq] at hok
  omega

/-- The checks of a table read the Pantry alone. -/
theorem RouteDesc.tableOk_congr (d : RouteDesc) {k k' : Core} (h : k.pantry = k'.pantry) (slotBytes : Nat) (out : Bool) :
    d.tableOk k slotBytes out = d.tableOk k' slotBytes out := by
  unfold RouteDesc.tableOk Core.expert Core.pan
  rw [h]

theorem RouteDesc.chunks_one (h : d.tokens = 1) : d.chunks = 1 := by
  rw [RouteDesc.chunks, h, Nat.add_sub_cancel_left, Nat.div_self (Nat.two_pow_pos _)]

end

section
variable {s t : State} {c : Nat} {n : Fin 16} {m : Memory} {x : StreamSlot} {i : TileIns} {b : List Byte} {d : RouteDesc} {e old : Nat} {chunks per : Nat}

/-- What lies beside the pair's number and the expert table changes no place. -/
theorem PairFits.apart (h : PairFits (panView m d) d e old) {a : Nat} {bs : List Byte} (hidx : a + bs.length ≤ d.idx ∨ d.idx + 2 ≤ a)
    (htable : a + bs.length ≤ d.table ∨ d.table + 32 * d.experts ≤ a) :
    PairFits (panView (m.setRun 0 a bs) d) d e old ∧ (panView (m.setRun 0 a bs) d).expert e = (panView m d).expert e := by
  have hknown := h.known
  have hexpert : (panView (m.setRun 0 a bs) d).expert e = (panView m d).expert e := by
    simp only [panView]
    rw [Map.getRun_setRun_out 0 m bs (by omega)]
  have hnum : (panView (m.setRun 0 a bs) d).num 0 = (panView m d).num 0 := by
    simp only [panView]
    rw [Map.getRun_setRun_out 0 m bs (by omega)]
  obtain ⟨hnum', hknown, hbounded, henabled, hpan, hroom⟩ := h
  refine ⟨⟨hnum.trans hnum', hknown, hbounded, ?_, ?_, ?_⟩, hexpert⟩ <;> rw [hexpert]
  · exact henabled
  · exact hpan
  · exact hroom

/-- The checked table of a descriptor lets the instruction start (R293, R308, R314). -/
theorem StreamRuns.planRoute (h : StreamRuns s t c n (s.core c).pantry x) (htokens : d.tokens = 1) {slotBytes : Nat} {out : Bool}
    (htable : d.tableOk (s.core c) slotBytes out = true) (per : Nat) : t.planRoute c d per true slotBytes out = (t, .ok (1, per)) := by
  have htable' := (d.tableOk_congr h.pantry slotBytes out).trans htable
  simp [State.planRoute, h.panRead, htable', RouteDesc.chunks_one htokens]

/-- The slot once the one pair of a routing is placed. -/
def StreamSlot.routed (d : RouteDesc) (x : StreamSlot) : StreamSlot :=
  { x with step := 1, cursor := pairCursor d 0 1, result := addAt x.result 0 1, phase := 3, written := d.chunks,
           claims := if 1 % 2 ^ d.clog = 0 then [] else x.claims }

/-- A routing of one pair whose claim, row and map entry meet nothing that stops them (R309, R310). -/
theorem State.routePairs_one (hd : d.Single) {ext : List Byte} {t1 t2 t3 : State} {l : List (Nat × Nat)} {a : Nat}
    (hstops : ((t.core c).slotAt n.val).stops = false) (hstep : ((t.core c).slotAt n.val).step = 0)
    (hcursor : ((t.core c).slotAt n.val).cursor = [0, 0, 0, 0, 0])
    (hread : ∀ gs, t.panRead c 2 gs = (t, [])) (hclaim : t.routeClaims c n d [0] ext = (t1, .ok ())) (hl : ((t1.core c).slotAt n.val).claims = l)
    (hplace : ((t1.core c).view d).pairPlace d [0] l 0 = (0, e, old, some (true, a)))
    (hmove : (t1.doAt c n.val (pairCursor d 0 0)).moveRun c n true true false 0 (some (d.row % 2 ^ 64)) a d.len (d.len + 1) 0 [] ext = (t2, .ok ext))
    (hwrite : (t2.doAt c n.val (pairCursor d 0 0)).strWrite c n true 0 0 (d.map % 2 ^ 64) (clean (leBytes 4 (e * 2 ^ 18 + old))) = (t3, .ok ())) (fuel : Nat) :
    t.routePairs c n d (fuel + 1) ext = (t3.modSlot c n.val (StreamSlot.routed d)).routePairs c n d fuel ext := by
  obtain ⟨htokens, hk, hctrl, -⟩ := hd
  have hbits : bitAt d.ctrl 0 = true ∧ bitAt d.ctrl 1 = true := by
    rw [hctrl]
    decide
  obtain ⟨hmapPan, hrowPan⟩ := hbits
  rw [State.routePairs]
  simp only [hstops, hstep, hcursor, htokens, hk, Nat.mul_one, if_neg (Nat.not_succ_le_zero 0), Bool.false_eq_true, if_false, Nat.zero_div, Nat.zero_mod,
    RouteDesc.pairs_one htokens hk, hread, ite_self, List.isEmpty_nil, Bool.not_true, hclaim, hl, hplace, hmapPan, hrowPan, Nat.zero_mul, Nat.mul_zero,
    Nat.add_zero, Nat.zero_add, List.getD_cons_zero, hmove, map_clean, hwrite]
  rfl

/-- The one pair of a routing within the Pantry gets its claim, its row and its map entry (R309, R310). -/
theorem StreamRuns.routePairs (h : StreamRuns s t c n m (.started i b chunks per)) (hd : d.Single) (hfits : PairFits (panView m d) d e old)
    (hold : leNat (m.getRun 0 ((panView m d).expert e).counter 8) = old) (hapart : d.CounterApart ((panView m d).expert e).counter) (ext : List Byte) :
    ∃ m' y, StreamRuns s (t.routePairs c n d 2 ext) c n m' y ∧ y.phase = 3 ∧ y.result = [1, 0, 0, 0] ∧
      m'.getRun 0 d.map 4 = leBytes 4 (e * 2 ^ 18 + old) := by
  obtain ⟨w, hslot⟩ := h.slot
  have hmap := hd.map
  obtain ⟨t1, hclaim, h1⟩ := h.routeClaims rfl (by rw [hold]; exact hfits) ext
  rw [hold] at h1
  obtain ⟨w1, hslot1⟩ := h1.slot
  obtain ⟨hfits1, -⟩ := hfits.apart (a := ((panView m d).expert e).counter) (bs := leBytes 8 (old + 1))
    (by rw [leBytes_length]; exact hapart.idx) (by rw [leBytes_length]; exact hapart.table)
  have hplace := hfits1.pairPlace
  rw [← h1.view] at hplace
  obtain ⟨t2, hmove, h2⟩ := (h1.doAt (pairCursor d 0 0)).moveRun (pan := true) false 0 (src := some (d.row % 2 ^ 64)) (fun _ => rfl) _ d.len ext
    (d.len + 1) 0 []
  obtain ⟨t3, hwrite, h3⟩ := (h2.doAt (pairCursor d 0 0)).strWrite 0 0 (a := d.map % 2 ^ 64) (b := leBytes 4 (e * 2 ^ 18 + old))
    (by rw [leBytes_length, Nat.mod_eq_of_lt (by omega)]; exact hd.map)
  have hrouted := h3.modSlot_apply (f := StreamSlot.routed d) fun _ => rfl
  obtain ⟨w4, hslot4⟩ := hrouted.slot
  have hend : (t3.modSlot c n.val (StreamSlot.routed d)).routePairs c n d 1 ext = t3.modSlot c n.val (StreamSlot.routed d) := by
    simp [State.routePairs, hslot4, StreamSlot.routed, StreamSlot.started, StreamSlot.stops, StreamSlot.reset, hd.tokens, hd.k]
  have hone := State.routePairs_one hd (congrArg StreamSlot.stops hslot) (congrArg StreamSlot.step hslot) (congrArg StreamSlot.cursor hslot)
    (h.panRead 2) hclaim (congrArg StreamSlot.claims hslot1) hplace hmove hwrite 1
  rw [hone, hend]
  refine ⟨_, _, hrouted, rfl, rfl, ?_⟩
  rw [Nat.mod_eq_of_lt (show d.map < 2 ^ 64 by omega)]
  exact getRun_setRun_leBytes ..

end

/-! ## Combining (R314, R315) -/

/-! ### Results of FP32 fit its 32 bits -/

/-- A result whose code has at most 32 bits. -/
def FRes.fits (r : FRes) : Prop := r.bits < 2 ^ 32

theorem fp32_signBit_le (neg : Bool) : fp32.signBit neg ≤ 2 ^ 31 := by cases neg <;> decide

theorem fp32_nanRes_fits (nv made : Bool) : (fp32.nanRes nv made).fits := (by decide : fp32.canon < 2 ^ 32)

theorem fp32_signed_fits (neg : Bool) {n : Nat} (h : n ≤ fp32.infCode) (flags : Nat) (made edge : Bool) :
    FRes.fits { bits := fp32.signBit neg + n, flags := flags, made := made, edge := edge } := by
  have hsign := fp32_signBit_le neg
  have hinf : fp32.infCode < 2 ^ 31 := by decide
  simp only [FRes.fits]
  omega

theorem fp32_zero_fits (neg : Bool) : FRes.fits { bits := fp32.signBit neg, flags := 0, made := false } := fp32_signed_fits neg (Nat.zero_le _) 0 false false

theorem fp32_overflow_fits (rm : Rm) (sat neg : Bool) : (fp32.overflow rm sat neg).fits := by
  have hmax : fp32.maxCode ≤ fp32.infCode := by decide
  have hends (largest : Prop) [Decidable largest] : FRes.fits (if largest then { bits := fp32.signBit neg + fp32.maxCode, flags := 5, made := false }
      else { bits := fp32.signBit neg + fp32.infCode, flags := 5, made := false }) := by
    split
    · exact fp32_signed_fits neg hmax 5 false false
    · exact fp32_signed_fits neg le_rfl 5 false false
  exact hends _

theorem fp32_round_fits (rm : Rm) (sat neg : Bool) (m : Nat) (e : Int) : (fp32.round rm sat neg m e).fits := by
  have hmax : fp32.maxCode ≤ fp32.infCode := by decide
  unfold Fmt.round
  split
  · exact fp32_zero_fits neg
  · dsimp only
    split
    · split
      · split
        · exact fp32_overflow_fits ..
        · exact fp32_signed_fits neg (by omega) 5 false false
      · exact fp32_overflow_fits ..
    · exact fp32_signed_fits neg (by omega) ..

theorem fp32_addV_fits (rm : Rm) (a b : FV) : (fp32.addV rm a b).fits := by
  unfold Fmt.addV
  split
  · exact fp32_nanRes_fits ..
  · exact fp32_nanRes_fits ..
  · split
    · exact fp32_signed_fits _ le_rfl ..
    · exact fp32_nanRes_fits ..
  · exact fp32_signed_fits _ le_rfl ..
  · exact fp32_signed_fits _ le_rfl ..
  · dsimp only
    unfold Fmt.roundInt
    split
    · exact fp32_zero_fits _
    · exact fp32_round_fits ..

/-- Each end of a fused multiply-add: a NaN, an infinity, or a rounded sum. -/
theorem fp32_fmaV_fits (rm : Rm) (a b c : FV) : (fp32.fmaV rm a b c).fits := by
  unfold Fmt.fmaV
  dsimp only
  split
  · exact fp32_nanRes_fits ..
  · split
    · split
      · exact fp32_nanRes_fits ..
      · exact fp32_addV_fits ..
    · split
      · exact fp32_nanRes_fits ..
      · exact fp32_addV_fits ..
    · exact fp32_addV_fits ..
    · exact fp32_addV_fits ..
    · exact fp32_nanRes_fits ..

theorem Fmt.flushOut_le (f : Fmt) (b : Nat) : f.flushOut b ≤ b := by
  unfold Fmt.flushOut
  split
  · exact Nat.div_mul_le_self ..
  · exact le_rfl

/-- A fused multiply-add of fast mode gives an FP32 code (R315). -/
theorem fp32_fma_fast_lt (a b c : Nat) : (fp32.fma Mode.fast a b c).bits < 2 ^ 32 := Nat.lt_of_le_of_lt (fp32.flushOut_le _) (fp32_fmaV_fits ..)

/-! ### One token's row -/

/-- Element `j` of the row that a gate weight `g` and the expert's row at `a` give (R315). -/
def combinedElem (m : Memory) (g a j : Nat) : FRes := fp32.fma Mode.fast g (leNat (m.getRun 0 (a + 4 * j) 4)) 0

/-- The bytes of that row. -/
def combinedBytes (m : Memory) (g a : Nat) : List Byte := (List.range 32).flatMap (fun j => leBytes 4 (combinedElem m g a j).bits)

/-- The NaNs that the row's elements produced (R315). -/
def combinedNans (m : Memory) (g a : Nat) : Nat := ((List.range 32).map (fun j => b2n (combinedElem m g a j).made)).sum

theorem combinedBytes_length (m : Memory) (g a : Nat) : (combinedBytes m g a).length = 128 := by
  simp [combinedBytes, List.length_flatMap, leBytes_length]

section
variable {s t : State} {c : Nat} {n : Fin 16} {m : Memory} {x : StreamSlot} {d : RouteDesc}

theorem le_of_panFits {a k : Nat} (h : panFits a k = true) : a + k ≤ 2 ^ 64 := Nat.le_trans (of_decide_eq_true h) (by decide)

/-- Both sides of a combining whose format fields are zero are FP32 (R314). -/
theorem RouteDesc.sizes_fp32 (hctrl : d.ctrl = 3) : d.isz = 4 ∧ d.osz = 4 := by
  rw [RouteDesc.isz, RouteDesc.osz, hctrl]
  decide

/-- What a token with one used row of FP32 elements gives: the products, none of them poisoned (R315). -/
theorem RouteDesc.combined_one (hctrl : d.ctrl = 3) (g a : Nat) : d.combined 32 [] [(g, clean (m.getRun 0 a 128))] =
    (List.range 32).map (fun j => ((combinedElem m g a j).bits, b2n (combinedElem m g a j).made, false)) := by
  refine List.map_congr_left fun j hj => ?_
  have hj := List.mem_range.mp hj
  have helem : leAt (m.getRun 0 a 128) (j * 4) 4 = leNat (m.getRun 0 (a + 4 * j) 4) := by
    rw [leAt, Map.take_drop_getRun 0 m a (by omega), Nat.mul_comm]
  have hclean (o k : Nat) : (((clean (m.getRun 0 a 128)).drop o).take k).any (·.2) = false := by rw [clean_drop, clean_take, clean_any]
  obtain ⟨hisz, hosz⟩ := RouteDesc.sizes_fp32 hctrl
  have hfmt : bits d.ctrl 7 6 = 0 ∧ bitAt d.ctrl 3 = false ∧ bitAt d.ctrl 4 = false := by
    rw [hctrl]
    decide
  obtain ⟨hformat, hacc, hbf⟩ := hfmt
  simp only [hisz, hosz, hformat, hacc, hbf, List.map_cons, List.map_nil, clean_fst, helem, combineOne, List.foldl_cons, List.foldl_nil,
    Bool.false_eq_true, if_false, List.drop_nil, List.take_nil, List.any_nil, List.any_cons, hclean, Bool.or_false, widenIn, if_true, Nat.zero_add, combinedElem]

/-- A single descriptor of a combining whose row has 32 elements. -/
structure RouteDesc.SingleRow (d : RouteDesc) : Prop extends d.Single where
  len : d.len = 32
  row : d.row + 128 ≤ 2 ^ 64

/-- A token with one used row writes the products to its row, and counts their NaNs (R315). -/
theorem StreamRuns.combineRow (h : StreamRuns s t c n m x) (hd : d.SingleRow) {g a : Nat} (hfits : panFits a 128 = true) (ext : List Byte) :
    ∃ u, t.combineRow c n d 0 [(g, true, a)] 0 ext = (u, .ok ext) ∧
      StreamRuns s u c n (m.setRun 0 d.row (combinedBytes m g a)) { x with result := addAt x.result 3 (combinedNans m g a) } := by
  obtain ⟨⟨-, -, hctrl, -⟩, hlen, hrow⟩ := hd
  have ha := le_of_panFits hfits
  have hlow : d.row % 2 ^ 64 = d.row := Nat.mod_eq_of_lt (by omega)
  have halow : a % 2 ^ 64 = a := Nat.mod_eq_of_lt (by omega)
  obtain ⟨hisz, hosz⟩ := RouteDesc.sizes_fp32 hctrl
  have hbits : bitAt d.ctrl 1 = true ∧ bitAt d.ctrl 3 = false := by
    rw [hctrl]
    decide
  obtain ⟨hpan, hacc⟩ := hbits
  obtain ⟨t1, hfetch, h1⟩ := h.strFetch false ext (linePieces a 128 (128 + 1)) 1
  rw [panBytes_linePieces m (Nat.lt_succ_self 128) ha] at hfetch
  obtain ⟨t2, hwrite, h2⟩ := (h1.doAt [0, 0, 0, 0, 0]).strWrite 0 0 (a := d.row) (b := combinedBytes m g a) (by rw [combinedBytes_length]; exact hrow)
  have hasks : t.strAsks c n .read .read [(true, a, 128)] = (t, .ok [panReqs (linePieces a 128 (128 + 1)) 1]) := rfl
  have hbytes : ((List.range 32).map (fun j => ((combinedElem m g a j).bits, b2n (combinedElem m g a j).made, false))).flatMap
      (fun x => (leBytes 4 x.1).map (fun b => (b, x.2.2))) = clean (combinedBytes m g a) := by
    simp [combinedBytes, clean, List.flatMap_map, List.map_flatMap]
  have hnans : ((((List.range 32).map (fun j => ((combinedElem m g a j).bits, b2n (combinedElem m g a j).made, false))).take 32).map (·.2.1)).sum =
      combinedNans m g a := by
    rw [List.take_of_length_le (by simp), List.map_map]
    rfl
  refine ⟨_, ?_, h2.modSlot_apply (f := fun t => { t with result := addAt t.result 3 (combinedNans m g a) }) fun _ => rfl⟩
  simp only [State.combineRow, hisz, hosz, hlen, hfits, hpan, hacc, hlow, halow, List.map_cons, List.map_nil, List.any_cons, List.any_nil, Bool.not_true,
    Bool.and_false, Bool.or_false, Bool.false_eq_true, if_false, List.nil_append, Nat.sub_zero, Nat.zero_mul, Nat.add_zero, hasks, List.foldl_cons,
    List.foldl_nil, hfetch, List.zip_cons_cons, List.zip_nil_left, RouteDesc.combined_one hctrl, hbytes, Nat.zero_div, hwrite, hnans]

end

section
variable {s t : State} {c : Nat} {n : Fin 16} {m : Memory} {x : StreamSlot} {i : TileIns} {b : List Byte} {d : RouteDesc} {chunks per : Nat}

theorem StreamRuns.expert (h : StreamRuns s t c n m x) (d : RouteDesc) (e : Nat) : (t.core c).expert d e = (panView m d).expert e :=
  congrFun (congrArg RouteView.expert (h.view d)) e

/-- Map entry `v` names an enabled expert whose results lie in the Pantry, and of them the row of 128 bytes at `a`. -/
structure TokenFits (w : RouteView) (d : RouteDesc) (v a : Nat) : Prop where
  known   : v / 2 ^ 18 < d.experts
  bounded : d.experts ≤ 4096
  enabled : (w.expert (v / 2 ^ 18)).enabled = true
  pan     : (w.expert (v / 2 ^ 18)).pan = true
  place   : (w.expert (v / 2 ^ 18)).outBase + v % 2 ^ 18 * 2 ^ (w.expert (v / 2 ^ 18)).log2 = a
  fits    : panFits a 128 = true

/-- The row that a map entry names (R315). -/
theorem StreamRuns.usedRow (h : StreamRuns s t c n m x) {v a : Nat} (hfits : TokenFits (panView m d) d v a) :
    (t.core c).usedRow d v = some (true, a) := by
  obtain ⟨hknown, hbounded, henabled, hpan, hplace, hfits⟩ := hfits
  have hrow := le_of_panFits hfits
  have hkind : v / 2 ^ 30 = 0 := by omega
  have hentry : v / 2 ^ 18 % 4096 = v / 2 ^ 18 := Nat.mod_eq_of_lt (by omega)
  have hmod : a % 2 ^ 64 = a := Nat.mod_eq_of_lt (by omega)
  simp only [Core.usedRow, hkind, hentry, hknown, h.expert, henabled, hpan, hplace, hmod, if_true]

/-- The slot once the one token of a combining is written, with one pair used. -/
def StreamSlot.combined (d : RouteDesc) (x : StreamSlot) : StreamSlot :=
  { x with step := 1, cursor := [0, 0, 1, 0, 0], phase := 3, written := d.chunks, result := addAt (addAt (addAt x.result 0 1) 1 0) 2 0 }

/-- A combining of one token whose map entry and row meet nothing that stops them (R315). -/
theorem State.combineTokens_one (hd : d.Single) {ext : List Byte} {t1 t2 : State} {entry : List Byte} {a : Nat}
    (hstops : ((t.core c).slotAt n.val).stops = false) (hstep : ((t.core c).slotAt n.val).step = 0)
    (hcursor : ((t.core c).slotAt n.val).cursor = [0, 0, 0, 0, 0])
    (hentry : t.strRead c n true false (d.map % 2 ^ 64) 4 ext = (t1, .ok (clean entry, ext))) (hread : ∀ gs, t1.panRead c 2 gs = (t1, []))
    (hused : (t1.core c).usedRow d (leAt entry 0 4) = some (true, a))
    (hrow : t1.combineRow c n d 0 [((t1.core c).panNat d.idx 4, true, a)] 0 ext = (t2, .ok ext)) (fuel : Nat) :
    t.combineTokens c n d (fuel + 1) ext = (t2.modSlot c n.val (StreamSlot.combined d)).combineTokens c n d fuel ext := by
  obtain ⟨htokens, hk, hctrl, -⟩ := hd
  obtain ⟨-, hosz⟩ := RouteDesc.sizes_fp32 hctrl
  have hbits : bitAt d.ctrl 0 = true ∧ bitAt d.ctrl 3 = false := by
    rw [hctrl]
    decide
  obtain ⟨hpan, hacc⟩ := hbits
  have hzero : d.map + 4 * (0 * 1) = d.map := rfl
  rw [State.combineTokens]
  simp only [hstops, hstep, hcursor, htokens, hk, hpan, hacc, hzero, Nat.mul_one, hentry, hread, clean_any, clean_fst,
    Bool.false_eq_true, if_false, List.isEmpty_nil, Bool.not_true, Bool.or_self, List.range_one, List.filterMap_cons, List.filterMap_nil, Nat.mul_zero,
    hused, Option.map_some, List.isEmpty_cons, Bool.and_self, List.getD_cons_zero, Nat.zero_div, Nat.add_zero, hrow]
  rfl

theorem leAt_getRun_whole (m : Memory) (a k : Nat) : leAt (m.getRun 0 a k) 0 k = leNat (m.getRun 0 a k) :=
  congrArg leNat (List.take_of_length_le (Nat.le_of_eq (Map.getRun_length ..)))

/-- The one token of a combining within the Pantry gets its row: `v` is its map entry, `a` where the expert's row lies (R315). -/
theorem StreamRuns.combineTokens (h : StreamRuns s t c n m (.started i b chunks per)) (hd : d.SingleRow) {v a : Nat}
    (hv : leNat (m.getRun 0 d.map 4) = v) (hfits : TokenFits (panView m d) d v a) (ext : List Byte) :
    ∃ y, y.phase = 3 ∧ StreamRuns s (t.combineTokens c n d 2 ext) c n (m.setRun 0 d.row (combinedBytes m (leNat (m.getRun 0 d.idx 4)) a)) y := by
  obtain ⟨w, hslot⟩ := h.slot
  have hmap := hd.map
  have hmap64 : d.map % 2 ^ 64 = d.map := Nat.mod_eq_of_lt (by omega)
  obtain ⟨t1, hread, h1⟩ := h.strRead false (a := d.map % 2 ^ 64) (len := 4) (by omega) ext
  have hused : (t1.core c).usedRow d (leAt (m.getRun 0 (d.map % 2 ^ 64) 4) 0 4) = some (true, a) := by
    rw [leAt_getRun_whole, hmap64, hv, h1.usedRow hfits]
  obtain ⟨t2, hcombine, h2⟩ := h1.combineRow hd (g := (t1.core c).panNat d.idx 4) hfits.fits ext
  have hcombined := h2.modSlot_apply (f := StreamSlot.combined d) fun _ => rfl
  obtain ⟨w2, hslot2⟩ := hcombined.slot
  have hend : (t2.modSlot c n.val (StreamSlot.combined d)).combineTokens c n d 1 ext = t2.modSlot c n.val (StreamSlot.combined d) := by
    simp [State.combineTokens, hslot2, StreamSlot.combined, StreamSlot.started, StreamSlot.stops, StreamSlot.reset, hd.tokens]
  rw [State.combineTokens_one hd.toSingle (congrArg StreamSlot.stops hslot) (congrArg StreamSlot.step hslot) (congrArg StreamSlot.cursor hslot) hread
    (h1.panRead 2) hused hcombine 1, hend, ← h1.panNat]
  exact ⟨_, rfl, hcombined⟩

end

/-! ## The commands on one pair and on one token -/

/-- Continues a routing, as S_ROUTE does. -/
def State.routeGo (s : State) (c : Nat) (n : Fin 16) (ext : List Byte) : State :=
  match ((s.core c).slotAt n.val).ins with
  | some i => let d := routeDesc ((s.core c).slotAt n.val).desc i; s.routePairs c n d (d.tokens * d.k + 1) ext
  | none => s

/-- Continues a combining, as S_COMBINE does. -/
def State.combineGo (s : State) (c : Nat) (n : Fin 16) (ext : List Byte) : State :=
  match ((s.core c).slotAt n.val).ins with
  | some i => let d := routeDesc ((s.core c).slotAt n.val).desc i; s.combineTokens c n d (d.tokens + 1) ext
  | none => s

/-- What S_ROUTE reads of a descriptor at its start. -/
def State.routePlan (c : Nat) (s : State) (b : List Byte) (i : TileIns) : State × Except (Nat × Nat) (Nat × Nat) :=
  let d := routeDesc b i
  s.planRoute c d (2 ^ d.clog * d.k) d.routeOk d.len false

/-- What S_COMBINE reads of a descriptor at its start. -/
def State.combinePlan (c : Nat) (s : State) (b : List Byte) (i : TileIns) : State × Except (Nat × Nat) (Nat × Nat) :=
  let d := routeDesc b i
  s.planRoute c d (2 ^ d.clog) d.combineOk (d.len * d.isz) true

theorem exec_sRoute (s : State) (c : CoreId) (ecc : List EccHit) (ext : List Byte) :
    exec (.sRoute c ecc ext) s = strCmd c 1 ecc s (State.routePlan c.val) (fun s n => s.routeGo c.val n ext) := rfl

theorem exec_sCombine (s : State) (c : CoreId) (ecc : List EccHit) (ext : List Byte) :
    exec (.sCombine c ecc ext) s = strCmd c 2 ecc s (State.combinePlan c.val) (fun s n => s.combineGo c.val n ext) := rfl

section
variable {s : State} {c : CoreId} {n : Fin 16} {i : TileIns} {rest : List TileIns} {d : RouteDesc} {e old v a : Nat}

/-- S_ROUTE of one pair within the Pantry (R309, R310). -/
theorem exec_sRoute_pair (h : StreamHead s c.val 1 i rest n) (hdesc : routeDesc ((s.core c.val).pan (i.ops 15 0 * 128) 128) i = d)
    (hok : d.routeOk = true) (htable : d.tableOk (s.core c.val) d.len false = true) (hd : d.Single) (hfits : PairFits ((s.core c.val).view d) d e old)
    (hold : (s.core c.val).panNat ((s.core c.val).expert d e).counter 8 = old) (hapart : d.CounterApart ((s.core c.val).expert d e).counter) :
    ∃ t m y, exec (.sRoute c [] []) s = .next t ∧ StreamRuns s t c.val n m y ∧ y.phase = 3 ∧ y.result = [1, 0, 0, 0] ∧
      m.getRun 0 d.map 4 = leBytes 4 (e * 2 ^ 18 + old) := by
  obtain ⟨t, hexec, ht⟩ := strCmd_starts h (plan := State.routePlan c.val) (chunks := 1) (per := 2 ^ d.clog * d.k) (fun t ht => by
    rw [State.routePlan, hdesc, hok]
    exact ht.planRoute hd.tokens htable _) (fun s n => s.routeGo c.val n [])
  obtain ⟨m, y, hrouted, hphase, hresult, hentry⟩ := ht.routePairs hd hfits hold hapart []
  obtain ⟨w, hslot⟩ := ht.slot
  have hgo : t.routeGo c.val n [] = t.routePairs c.val n d 2 [] := by
    simp [State.routeGo, hslot, StreamSlot.started, hdesc, hd.tokens, hd.k]
  exact ⟨_, m, y, (exec_sRoute ..).trans hexec, hgo ▸ hrouted, hphase, hresult, hentry⟩

/-- S_COMBINE of one token within the Pantry: `v` is its map entry, `a` where the expert's row lies (R315). -/
theorem exec_sCombine_token (h : StreamHead s c.val 2 i rest n) (hdesc : routeDesc ((s.core c.val).pan (i.ops 15 0 * 128) 128) i = d)
    (hok : d.combineOk = true) (htable : d.tableOk (s.core c.val) (d.len * d.isz) true = true) (hd : d.SingleRow)
    (hv : (s.core c.val).panNat d.map 4 = v) (hfits : TokenFits ((s.core c.val).view d) d v a) :
    ∃ t y, exec (.sCombine c [] []) s = .next t ∧ y.phase = 3 ∧
      StreamRuns s t c.val n ((s.core c.val).pantry.setRun 0 d.row (combinedBytes (s.core c.val).pantry ((s.core c.val).panNat d.idx 4) a)) y := by
  obtain ⟨t, hexec, ht⟩ := strCmd_starts h (plan := State.combinePlan c.val) (chunks := 1) (per := 2 ^ d.clog) (fun t ht => by
    rw [State.combinePlan, hdesc, hok]
    exact ht.planRoute hd.tokens htable _) (fun s n => s.combineGo c.val n [])
  obtain ⟨y, hphase, hcombined⟩ := ht.combineTokens hd hv hfits []
  obtain ⟨w, hslot⟩ := ht.slot
  have hgo : t.combineGo c.val n [] = t.combineTokens c.val n d 2 [] := by
    simp [State.combineGo, hslot, StreamSlot.started, hdesc, hd.tokens]
  exact ⟨_, y, (exec_sCombine ..).trans hexec, hphase, hgo ▸ hcombined⟩

end

end Sys2Proof.Machine
end

section
/-! # The Pantry's scrubber, and the stream commands

The scrubber bank by bank (R286), and the five parts of O27 put together. -/

namespace Sys2Proof.Machine

/-! ## The scrubber (R286) -/

/-- Reads of a Pantry without bit errors change registers alone (R285). -/
theorem State.panRead_unflawed {s : State} {c : Nat} (h : (s.core c).flaws = []) (reader : Nat) (gs : List Nat) :
    ∃ r, (s.panRead c reader gs).1 = { s with csr := r } := by
  suffices hall : ∀ (t : State) (bad : List Nat), (t.core c).flaws = [] → ∃ r, (gs.foldl _ (t, bad)).1 = { t with csr := r } from hall s [] h
  induction gs with
  | nil => exact fun t bad _ => ⟨t.csr, rfl⟩
  | cons g gs ih =>
    intro t bad ht
    have hgranule : ∃ r, (t.panGranule c reader g).1 = { t with csr := r } := by
      unfold State.panGranule
      dsimp only
      split
      · exact ⟨_, rfl⟩
      · rw [ht]
        exact ⟨t.csr, rfl⟩
    obtain ⟨r, hr⟩ := hgranule
    obtain ⟨r', hr'⟩ := ih (t.panGranule c reader g).1 _ (by rw [hr]; exact ht)
    refine ⟨r', ?_⟩
    rw [List.foldl_cons, hr', hr]

/-- The scrub pointers once a bank's row is read, and whether that ends a pass of the whole Pantry (R286). -/
def Core.scrubbed (k : Core) (b row : Nat) : Core × Bool :=
  let k := { k with scrubRow := k.scrubRow.set 0 b ((row + 1) % 3072) }
  if row + 1 = 3072 ∧ !k.scrubWrap.contains b then
    if k.scrubWrap.length = 31 then ({ k with scrubWrap := [] }, true) else ({ k with scrubWrap := b :: k.scrubWrap }, false)
  else (k, false)

/-- One bank's scrub: its next row is read, and its pointer goes on (R286). -/
def State.scrubBank (s : State) (c : Nat) (b : Fin 32) : State :=
  let row := (s.core c).scrubRow.get 0 b.val
  let t := (s.panRead c 0 (granulesOf (bankWord b.val row) 64)).1
  let k := (t.core c).scrubbed b.val row
  if k.2 then (t.setCore c k.1).inc (coreDie c) (coreOff c 0x88C) else t.setCore c k.1

theorem Core.scrubbed_pointers (k : Core) (b row : Nat) : ∃ wrap, (k.scrubbed b row).1 =
    { k with scrubRow := k.scrubRow.set 0 b ((row + 1) % 3072), scrubWrap := wrap } := by
  unfold Core.scrubbed
  dsimp only
  split
  · split
    · exact ⟨_, rfl⟩
    · exact ⟨_, rfl⟩
  · exact ⟨_, rfl⟩

/-- The banks `l` of a core's Pantry have been scrubbed: the row pointers of just these have gone on; the bytes and the Pool are as before. -/
structure Scrubbed (s t : State) (c : Nat) (l : List (Fin 32)) : Prop where
  pantry : (t.core c).pantry = (s.core c).pantry
  flaws  : (t.core c).flaws = []
  pool   : t.pool = s.pool
  rows   : ∀ b : Fin 32, (t.core c).scrubRow.get 0 b.val =
    if b ∈ l then ((s.core c).scrubRow.get 0 b.val + 1) % 3072 else (s.core c).scrubRow.get 0 b.val

section
variable {s t : State} {c : Nat} {b : Fin 32} {l : List (Fin 32)}

theorem State.inc_pool (s : State) (d o k : Nat) : (s.inc d o k).pool = s.pool := rfl

theorem State.inc_core (s : State) (d o k c : Nat) : (s.inc d o k).core c = s.core c := rfl

/-- A scrub of one bank leaves the core but for its pointers, and the Pool. -/
theorem State.scrubBank_core (h : (s.core c).flaws = []) (b : Fin 32) : (s.scrubBank c b).pool = s.pool ∧ ∃ wrap, (s.scrubBank c b).core c =
    { s.core c with scrubRow := (s.core c).scrubRow.set 0 b.val (((s.core c).scrubRow.get 0 b.val + 1) % 3072), scrubWrap := wrap } := by
  obtain ⟨r, hr⟩ := State.panRead_unflawed h 0 (granulesOf (bankWord b.val ((s.core c).scrubRow.get 0 b.val)) 64)
  obtain ⟨wrap, hwrap⟩ := (s.core c).scrubbed_pointers b.val ((s.core c).scrubRow.get 0 b.val)
  have hcore : State.core { s with csr := r } c = s.core c := rfl
  rw [State.scrubBank]
  dsimp only
  rw [hr, hcore, hwrap]
  split
  · exact ⟨(State.inc_pool ..).trans (State.setCore_pool ..), wrap, (State.inc_core ..).trans (State.core_setCore ..)⟩
  · exact ⟨State.setCore_pool .., wrap, State.core_setCore ..⟩

theorem Scrubbed.scrubBank (h : Scrubbed s t c l) (hb : b ∉ l) : Scrubbed s (t.scrubBank c b) c (b :: l) := by
  obtain ⟨hpantry, hflaws, hpool, hrows⟩ := h
  obtain ⟨hpool', wrap, hcore⟩ := State.scrubBank_core hflaws b
  refine ⟨?_, ?_, hpool'.trans hpool, fun a => ?_⟩ <;> rw [hcore]
  · exact hpantry
  · exact hflaws
  · by_cases ha : a = b
    · subst ha
      simp [hrows, hb]
    · rw [Map.get_set_ne _ _ _ _ _ _ (fun hval => ha (Fin.ext hval)), hrows]
      simp [ha]

theorem Scrubbed.scrubBanks (l : List (Fin 32)) : ∀ {t : State} {done : List (Fin 32)}, Scrubbed s t c done → (∀ b ∈ l, b ∉ done) → l.Nodup →
    Scrubbed s (overList t l (fun s b => s.scrubBank c b)) c (l.reverse ++ done) := by
  induction l with
  | nil => exact fun h _ _ => h
  | cons b l ih =>
    intro t done h hnew hnodup
    obtain ⟨hb, hl⟩ := List.nodup_cons.mp hnodup
    rw [List.reverse_cons, List.append_assoc]
    refine ih (h.scrubBank (hnew b List.mem_cons_self)) (fun a ha hdone => ?_) hl
    obtain rfl | hdone := List.mem_cons.mp hdone
    · exact hb ha
    · exact hnew a (List.mem_cons_of_mem _ ha) hdone

/-- PANTRY_SCRUB_INTERVAL scrubs the banks that are not busy (R286). -/
theorem exec_pantryScrubInterval {s : State} {c : CoreId} (hrun : s.phase = .running) (honline : s.dieOnline (coreDie c.val) = true)
    (hfenced : (s.core c.val).fenced = false) (hclock : (s.core c.val).clock ≠ 2) (busy : List (Fin 32)) : exec (.pantryScrubInterval c busy []) s =
      .next (overList s ((List.finRange 32).filter (fun b => !busy.contains b)) (fun s b => s.scrubBank c.val b)) := by
  change execPantryScrubInterval c busy [] s = _
  rw [execPantryScrubInterval, gate_running hrun, if_pos (by simp [honline, hfenced, hclock]), State.flaw_nil]
  refine congrArg Host.Outcome.next (congrArg (overList s _) (funext fun t => funext fun b => ?_))
  rw [State.scrubBank, Core.scrubbed]
  dsimp only
  split
  · split
    · rfl
    · rfl
  · rfl

end

/-! ## The statement -/

theorem CopyDesc.bytes_getD (d : CopyDesc) (m : Memory) {j : Nat} (hj : j < d.len0) :
    (d.bytes m).getD j 0 = if d.mode = 3 then BitVec.ofNat 8 (d.aux / 2 ^ (8 * (j % 8))) else m.get 0 (d.src + j) := by
  unfold CopyDesc.bytes
  split <;> simp [CopyDesc.pattern, Map.getRun, List.getD, hj]

theorem RouteDesc.routeOk_fits {d : RouteDesc} (h : d.routeOk = true) (htokens : d.tokens = 1) (hk : d.k = 1) (hctrl : d.ctrl = 3) :
    d.experts ≤ 4096 ∧ d.map + 4 ≤ pantrySize := by
  obtain ⟨-, hok⟩ := Bool.and_eq_true_iff.mp h
  obtain ⟨hexperts, hmap, -⟩ := RouteDesc.ok_fits hok
  have hmap := hmap (by rw [hctrl]; decide)
  rw [htokens, hk] at hmap
  exact ⟨hexperts, hmap⟩

theorem RouteDesc.combineOk_fits {d : RouteDesc} (h : d.combineOk = true) (htokens : d.tokens = 1) (hk : d.k = 1) (hctrl : d.ctrl = 3) (hlen : d.len = 32) :
    d.experts ≤ 4096 ∧ d.map + 4 ≤ pantrySize ∧ d.row + 128 ≤ pantrySize := by
  obtain ⟨-, hok⟩ := Bool.and_eq_true_iff.mp h
  obtain ⟨hexperts, hmap, hrow⟩ := RouteDesc.ok_fits hok
  have hmap := hmap (by rw [hctrl]; decide)
  have hrow := hrow (by rw [hctrl]; decide)
  obtain ⟨-, hosz⟩ := RouteDesc.sizes_fp32 hctrl
  rw [htokens, hk] at hmap
  rw [htokens, hlen, hosz, Nat.sub_self, Nat.zero_mul, Nat.zero_add] at hrow
  exact ⟨hexperts, hmap, hrow⟩

/-- Element `j` of a combined row is read back from where it was written. -/
theorem combinedBytes_elem (m : Memory) (g a row : Nat) {j : Nat} (hj : j < 32) :
    leNat ((m.setRun 0 row (combinedBytes m g a)).getRun 0 (row + 4 * j) 4) = (combinedElem m g a j).bits := by
  rw [Map.getRun_setRun_in 0 m row (by rw [combinedBytes_length]; omega), Nat.mul_comm, combinedBytes,
    take_drop_flatMap_leBytes 4 _ _ (by simpa using hj), List.getElem_range]
  exact leNat_leBytes_of_lt (fp32_fma_fast_lt ..)

/-- Settles O27: each stream instruction by what its run leaves in the core's Pantry and slot, the scrub bank by bank. -/
theorem streamCommands : Obligations.StreamCommands := by
  refine ⟨fun s c i rest n h => ?_, fun s c i rest n h => ?_, fun s c i rest n h => ?_,
    fun s c busy hrun honline hfenced hclock hflaws => ?_, fun s c hrun => ?_⟩
  · dsimp only
    intro hok hruns hdst hmode
    obtain ⟨t, hexec, ht⟩ := exec_sCopy_pantry h rfl hok hruns hdst hmode
    obtain ⟨-, hqueue, -⟩ := h
    obtain ⟨w, hslot⟩ := ht.slot
    refine ⟨t, hexec, ht.pool, ?_, fun j hj => ?_, fun a ha => ?_, ?_, ?_, ?_, ?_, ht.others⟩
    · rw [ht.queue, hqueue, List.tail_cons]
    · rw [ht.pantry, Map.get_setRun_in 0 _ _ _ _ (by rw [CopyDesc.bytes_length]; exact hj), CopyDesc.bytes_getD _ _ hj]
    · rw [ht.pantry, Map.get_setRun_out 0 _ _ _ _ (by rw [CopyDesc.bytes_length]; exact ha)]
    all_goals rw [hslot]; rfl
  · dsimp only
    generalize hd : routeDesc _ i = d
    generalize he : (s.core c.val).panNat d.idx 2 = e
    generalize hold : (s.core c.val).panNat ((s.core c.val).expert d e).counter 8 = old
    intro hok htable htokens hk hctrl hknown henabled hpan hroom hidx hapart
    obtain ⟨hbounded, hmap⟩ := RouteDesc.routeOk_fits hok htokens hk hctrl
    rw [pantrySize] at hmap
    have hcap := RouteDesc.tableOk_cap htable hknown henabled
    obtain ⟨t, m, y, hexec, ht, hphase, hresult, hentry⟩ := exec_sRoute_pair h hd hok htable
      ⟨htokens, hk, hctrl, by omega⟩ ⟨he, hknown, hbounded, henabled, hpan, hroom⟩ hold ⟨hidx, hapart⟩
    obtain ⟨w, hslot⟩ := ht.slot
    refine ⟨t, hexec, ht.pool, ?_, ?_, ?_, ht.others⟩
    · rw [ht.panNat, hentry]
      exact leNat_leBytes_of_lt (by omega)
    · rw [hslot]
      exact hphase
    · rw [hslot]
      exact hresult
  · dsimp only
    intro hok htable htokens hk hctrl hlen hknown henabled hpan hfits
    obtain ⟨hbounded, hmap, hrow⟩ := RouteDesc.combineOk_fits hok htokens hk hctrl hlen
    rw [pantrySize] at hmap hrow
    obtain ⟨t, y, hexec, hphase, ht⟩ := exec_sCombine_token h rfl hok htable
      ⟨⟨htokens, hk, hctrl, by omega⟩, hlen, by omega⟩ rfl ⟨hknown, hbounded, henabled, hpan, rfl, hfits⟩
    obtain ⟨w, hslot⟩ := ht.slot
    refine ⟨t, hexec, ht.pool, ?_, fun a ha => ?_, fun j hj => ?_⟩
    · rw [hslot]
      exact hphase
    · rw [ht.pantry, Map.get_setRun_out 0 _ _ _ _ (by rw [combinedBytes_length]; exact ha)]
    · rw [ht.panNat, combinedBytes_elem _ _ _ _ hj]
      rfl
  · have hscrubbed := Scrubbed.scrubBanks (s := s) (c := c.val) ((List.finRange 32).filter (fun b => !busy.contains b)) (done := [])
      ⟨rfl, hflaws, rfl, fun b => by simp⟩ (fun _ _ => List.not_mem_nil) ((List.nodup_finRange 32).filter _)
    refine ⟨_, exec_pantryScrubInterval hrun honline hfenced hclock busy, hscrubbed.pool, hscrubbed.pantry, fun b => ?_⟩
    rw [hscrubbed.rows b]
    by_cases hb : b ∈ busy <;> simp [hb]
  · refine ⟨s.wr (coreDie c.val) (coreOff c.val 0x888) 0, ?_, ?_, s.wr_frame ..⟩
    · change execPanEccFirstClear c s = _
      exact gate_running hrun _
    rw [State.fld, State.rd_wr]
    rfl

end Sys2Proof.Machine
end
